-- ==== Sys2Proof/Word.lean ====
section
/-! DEFINITION. The word types of the KX8 and their plainest arithmetic (R5, R6, R7, R112). -/

namespace Sys2Proof

/-- One byte (R7). -/
abbrev Byte := BitVec 8
/-- A 64-bit register value (R14). -/
abbrev Word := BitVec 64
/-- One 32-bit lane (R67). -/
abbrev Lane := BitVec 32
/-- A 2,048-bit vector as its 64 lanes (R67, R112). -/
abbrev Vec := Vector Lane 64

/-- The zero vector. -/
def Vec.zero : Vec := Vector.replicate 64 0

end Sys2Proof
end

