-- ==== Sys2Proof/Syntax.lean ====
section
/-! DEFINITION. The abstract form of every row of spec/opcode_table.json (R23, R35 to R49, R57 and the events):
operand types, the payloads the event rows carry, and the one inductive Instr. -/

namespace Sys2Proof

/-- The four issue clusters of a core (R1, R31). -/
inductive Cluster where
  | c | l | x | s
  deriving DecidableEq, Repr

/-- A logical core: the global logical die number (8 × module + die, R14) and the core's number on it (R9). -/
structure CoreId where
  die : Nat
  core : Nat
  deriving DecidableEq, Repr

/-- A C operand code (R35). -/
inductive CSrc where
  | s (r : Fin 32) | h (k : Fin 16) | zero | fcyc | tclk | coreid | dieid | xq | lq | sr
  deriving DecidableEq, Repr

/-- A C destination, the also field (R36). -/
inductive CDst where
  | s (r : Fin 32) | cs | cl | cq | none
  deriving DecidableEq, Repr

/-- An X source code (R38). -/
inductive XSrc where
  | v (r : Fin 16) | h (k : Fin 16) | oq (q : Fin 8) | cq | zero | lane
  deriving DecidableEq, Repr

/-- An X destination, the vd field (R38). -/
inductive XDst where
  | v (r : Fin 16) | sq (q : Fin 4) | none
  deriving DecidableEq, Repr

/-- The element formats (R66). -/
inductive Fmt where
  | f32 | bf16 | f16 | e4m3 | e5m2 | e2m1 | i32 | i16 | i8 | i4 | u32 | u16 | u8 | cb2 | cf32
  deriving DecidableEq, Repr

/-- The rounding modes (R69). -/
inductive Rm where
  | rne | rtz | rdn | rup | rna
  deriving DecidableEq, Repr

/-- The class field (R44, R208): own vault, die, module, domain. -/
inductive Cls where
  | n | d | p | f
  deriving DecidableEq, Repr

/-- The size field of CM (R44): 1, 2, 4 or 8 bytes. -/
inductive Size where
  | b1 | b2 | b4 | b8
  deriving DecidableEq, Repr

/-- The condition codes of R87. -/
inductive Cond where
  | always | eq | ne | lt | ge | ltu | geu | gt | le | gtu | leu | tz | tnz
  deriving DecidableEq, Repr

/-- The condition codes of CMPI (R95). -/
inductive CmpiCond where
  | eq | ne | lt | ge | ltu | geu | bound
  deriving DecidableEq, Repr

/-- The width field of EXT (R89). -/
inductive ExtW where
  | w8 | w16 | w32
  deriving DecidableEq, Repr

/-- The condition field of FCMP (R98). -/
inductive FcmpCond where
  | eq | lt | le | un | ne
  deriving DecidableEq, Repr

/-- The kind field of FCVT (R99), destination first. -/
inductive FcvtKind where
  | i32f32 | u32f32 | i64f32 | f32i32 | f32u32 | f32i64 | f16f32 | f32f16
  deriving DecidableEq, Repr

/-- The compare codes of VCMP and VCMPI (R139). -/
inductive VCmp where
  | eq | ne | lt | le | gt | ge | un
  deriving DecidableEq, Repr

/-- The scope of FSC (R110). -/
inductive Scope where
  | core | die | module | domain
  deriving DecidableEq, Repr

/-- The inc field of R157. -/
inductive Inc where
  | keep | post | pre | step
  deriving DecidableEq, Repr

/-- The inc field of LDQS and STQS (R158, R170). -/
inductive SInc where
  | keep | elem | span
  deriving DecidableEq, Repr

/-- The sel field of DRAIN (R148). -/
inductive DrainSel where
  | take | key | peek
  deriving DecidableEq, Repr

/-- The field group of AGSET (R161). -/
inductive AgGroup where
  | base | dim (d : Fin 4) | ind | bound
  deriving DecidableEq, Repr

/-- The frieze lanes (R338). -/
inductive FzLane where
  | e | w
  deriving DecidableEq, Repr

/-- The operation of PDONE (R350). -/
inductive PdoneOp where
  | adv | admitRow | free
  deriving DecidableEq, Repr

/-- The target fields of a branch (R43). -/
structure Target where
  line : BitVec 18
  parcel : BitVec 5
  deriving DecidableEq, Repr

/-- The system registers, by their names (R20, R62, R111, R127, R137, R160, R178, R201, R232, R244, R266, R270, R296,
R307, R319, R328, R345, R365, R380). -/
inductive SysReg where
  | frameno | framecnt | taskclk | tbase | imagebase | imagelen | mouldbase | mouldlen | clusters | qocc0 | qocc1
  | cbtab | ropetab | budget | argbase | taskinfo | ptroot | vaultcfg | memerr | flat | walkinfo | rdv | cpystat
  | pfcnt0 | pfcnt1 | pfhist0 | pfhist1 | formqdepth | mrowp | mseq | domtag | kvstat | castq | tcause | tinfo
  | trapline | tvec | tctl | holdlag | holdinfo | ifqocc | preemptst | savebase | savelen | fzcfge | fzcfgw | fzcure
  | fzrete | fzcurw | fzretw | fzbasee | fzbasew | fzplace | fzstat | dominfo | collst
  deriving DecidableEq, Repr

/-- One constructor per row of spec/opcode_table.json. The operand fields of a word are typed by R35 to R44; the
timing fields TM and T belong to the word that carries an instruction (R25), not to the instruction.
An event row has no operands: what an event is about stands in the agenda of the state (log entry 2). -/
inductive Instr where
  /-- IDLE (R23): a one-parcel issue event, v + 1 cycles after the previous issue. -/
  | idle (v : BitVec 5)
  /-- SHORT_PARCEL (R57): names mould m with cavity value c; cl is the cluster that executes it. -/
  | shortParcel (m : BitVec 10) (c : BitVec 5) (cl : Cluster)
  /-- NOP (R88): Issues and does nothing else. -/
  | nop
  /-- ADD (R90): Adds two 64-bit operands. -/
  | add (d : CDst) (a : CSrc) (b : CSrc)
  /-- SUB (R90): Subtracts two 64-bit operands. -/
  | sub (d : CDst) (a : CSrc) (b : CSrc)
  /-- MUL (R90): Gives the low 64 bits of a product. -/
  | mul (d : CDst) (a : CSrc) (b : CSrc)
  /-- MULH (R90): Gives the high 64 bits of a signed or unsigned 128-bit product. -/
  | mulh (d : CDst) (u : Bool) (a : CSrc) (b : CSrc)
  /-- DIV (R90): Divides with the quotient rounded toward zero and never traps. -/
  | div (d : CDst) (u : Bool) (a : CSrc) (b : CSrc)
  /-- REM (R90): Gives the remainder of DIV and never traps. -/
  | rem (d : CDst) (u : Bool) (a : CSrc) (b : CSrc)
  /-- AND (R90): Bitwise AND. -/
  | and (d : CDst) (a : CSrc) (b : CSrc)
  /-- OR (R90): Bitwise OR. -/
  | or (d : CDst) (a : CSrc) (b : CSrc)
  /-- XOR (R90): Bitwise XOR. -/
  | xor (d : CDst) (a : CSrc) (b : CSrc)
  /-- ANDN (R90): a AND NOT b. -/
  | andn (d : CDst) (a : CSrc) (b : CSrc)
  /-- SHL (R90): Shifts left by b[5:0]. -/
  | shl (d : CDst) (a : CSrc) (b : CSrc)
  /-- SHR (R90): Shifts right by b[5:0], filling with zeros. -/
  | shr (d : CDst) (a : CSrc) (b : CSrc)
  /-- SAR (R90): Shifts right arithmetically by b[5:0]. -/
  | sar (d : CDst) (a : CSrc) (b : CSrc)
  /-- ROL (R90): Rotates left by b[5:0]. -/
  | rol (d : CDst) (a : CSrc) (b : CSrc)
  /-- MIN (R90): Gives the smaller operand, signed or unsigned. -/
  | min (d : CDst) (u : Bool) (a : CSrc) (b : CSrc)
  /-- MAX (R90): Gives the larger operand, signed or unsigned. -/
  | max (d : CDst) (u : Bool) (a : CSrc) (b : CSrc)
  /-- CMP (R93): Tests a condition and gives 1 or 0; in its bound form it passes a through or raises BOUND. -/
  | cmp (d : CDst) (bound : Bool) (cc : Cond) (a : CSrc) (b : CSrc)
  /-- CLZ (R90): Counts leading zero bits. -/
  | clz (d : CDst) (a : CSrc)
  /-- CTZ (R90): Counts trailing zero bits. -/
  | ctz (d : CDst) (a : CSrc)
  /-- POPC (R90): Counts one bits. -/
  | popc (d : CDst) (a : CSrc)
  /-- BREV (R90): Reverses the bit order. -/
  | brev (d : CDst) (a : CSrc)
  /-- BFX (R92): Extracts a bit field. -/
  | bfx (d : CDst) (u : Bool) (a : CSrc) (b : CSrc)
  /-- BFI (R92): Inserts a bit field. -/
  | bfi (d : CDst) (a : CSrc) (b : CSrc) (c : CSrc)
  /-- EXT (R90): Sign-extends or zero-extends the low 8, 16 or 32 bits. -/
  | ext (d : CDst) (w : ExtW) (u : Bool) (a : CSrc)
  /-- MOVE (R90): Copies an operand. -/
  | move (d : CDst) (a : CSrc)
  /-- SEL (R90): Selects a if c is nonzero, else b. -/
  | sel (d : CDst) (a : CSrc) (b : CSrc) (c : CSrc)
  /-- MADD (R90): Gives the low 64 bits of a × b + c. -/
  | madd (d : CDst) (a : CSrc) (b : CSrc) (c : CSrc)
  /-- ADDI (R94): Adds a sign-extended 24-bit immediate. -/
  | addi (d : CDst) (a : CSrc) (imm : BitVec 24)
  /-- ANDI (R94): ANDs with an immediate. -/
  | andi (d : CDst) (a : CSrc) (imm : BitVec 24)
  /-- ORI (R94): ORs with an immediate. -/
  | ori (d : CDst) (a : CSrc) (imm : BitVec 24)
  /-- XORI (R94): XORs with an immediate. -/
  | xori (d : CDst) (a : CSrc) (imm : BitVec 24)
  /-- SHLI (R94): Shifts left by an immediate from 0 to 63. -/
  | shli (d : CDst) (a : CSrc) (imm : BitVec 24)
  /-- SHRI (R94): Shifts right logically by an immediate. -/
  | shri (d : CDst) (a : CSrc) (imm : BitVec 24)
  /-- SARI (R94): Shifts right arithmetically by an immediate. -/
  | sari (d : CDst) (a : CSrc) (imm : BitVec 24)
  /-- CMPI (R95): Compares with an immediate, or bound-checks against it. -/
  | cmpi (d : CDst) (cc : CmpiCond) (a : CSrc) (imm : BitVec 24)
  /-- MULI (R94): Multiplies by an immediate. -/
  | muli (d : CDst) (a : CSrc) (imm : BitVec 24)
  /-- LI (R96): Loads a sign-extended 33-bit immediate. -/
  | li (d : CDst) (imm : BitVec 33)
  /-- LIH (R94): Replaces 24 bits at position 32 or 40 with an immediate. -/
  | lih (d : CDst) (hi : Bool) (a : CSrc) (imm : BitVec 24)
  /-- FADD (R97): FP32 addition, rounded once. -/
  | fadd (d : CDst) (rm : Rm) (a : CSrc) (b : CSrc)
  /-- FSUB (R97): FP32 subtraction. -/
  | fsub (d : CDst) (rm : Rm) (a : CSrc) (b : CSrc)
  /-- FMUL (R97): FP32 multiplication. -/
  | fmul (d : CDst) (rm : Rm) (a : CSrc) (b : CSrc)
  /-- FFMA (R97): FP32 fused multiply-add. -/
  | ffma (d : CDst) (rm : Rm) (a : CSrc) (b : CSrc) (c : CSrc)
  /-- FDIV (R97): FP32 division with defined special cases. -/
  | fdiv (d : CDst) (rm : Rm) (a : CSrc) (b : CSrc)
  /-- FMIN (R97): FP32 minimum. -/
  | fmin (d : CDst) (a : CSrc) (b : CSrc)
  /-- FMAX (R97): FP32 maximum. -/
  | fmax (d : CDst) (a : CSrc) (b : CSrc)
  /-- FCMP (R98): FP32 comparison giving 1 or 0. -/
  | fcmp (d : CDst) (fc : FcmpCond) (a : CSrc) (b : CSrc)
  /-- FCVT (R99): Converts between FP32, F16 and integers. -/
  | fcvt (d : CDst) (kind : FcvtKind) (rm : Rm) (a : CSrc)
  /-- FSQRT (R97): FP32 square root. -/
  | fsqrt (d : CDst) (rm : Rm) (a : CSrc)
  /-- FEXP2 (R97): Computes Exp2 by the fixed algorithm. -/
  | fexp2 (d : CDst) (a : CSrc)
  /-- FRCP (R97): FP32 reciprocal. -/
  | frcp (d : CDst) (rm : Rm) (a : CSrc)
  /-- BR (R101): Branches conditionally on two operands. -/
  | br (cc : Cond) (a : CSrc) (b : CSrc) (t : Target)
  /-- BRI (R101): Branches conditionally on an operand and a 6-bit immediate. -/
  | bri (cc : Cond) (a : CSrc) (imm : BitVec 6) (t : Target)
  /-- CALL (R102): Jumps and pushes the code position of the following item. -/
  | call (t : Target)
  /-- RET (R102): Jumps to a code position held in an operand. -/
  | ret (a : CSrc)
  /-- JMPI (R101): Jumps to an operand-named line at a fixed parcel. -/
  | jmpi (a : CSrc) (p : BitVec 5)
  /-- JTAB (R101): Jumps through a line table when the index is below the bound. -/
  | jtab (a : CSrc) (b : CSrc) (t : Target)
  /-- BDEC (R103): Decrements a C loop counter and branches while it is nonzero. -/
  | bdec (k : Fin 4) (t : Target)
  /-- LOOPSET (R103): Sets a C loop counter and skips to the exit on a zero count. -/
  | loopset (k : Fin 4) (b : CSrc) (t : Target)
  /-- PDISP (R348): Branches through a scratchpad table on the index of the current frieze panel. -/
  | pdisp (lane : FzLane) (a : CSrc) (b : CSrc) (t : Target)
  /-- LD (R104): Scalar zero-extending load. -/
  | ld (d : CDst) (sz : Size) (cl : Cls) (off : BitVec 17) (base : CSrc)
  /-- LDS (R104): Scalar sign-extending load. -/
  | lds (d : CDst) (sz : Size) (cl : Cls) (off : BitVec 17) (base : CSrc)
  /-- ST (R104): Scalar store. -/
  | st (sz : Size) (cl : Cls) (data : CSrc) (off : BitVec 17) (base : CSrc)
  /-- MLOAD (R59): Copies mould entries from the scratchpad into the mould table and sets the stale bits. -/
  | mload (a : CSrc) (b : CSrc) (n : BitVec 11)
  /-- MOULDF (R61): C's mould fence: clears the settled stale bits and discards predecoded items. -/
  | mouldf
  /-- GETC (R107): Reads a system register. -/
  | getc (d : CDst) (r : SysReg)
  /-- PUTC (R107): Writes a system register. -/
  | putc (r : SysReg) (a : CSrc)
  /-- TRAP (R108): Stops the task precisely with SYSCALL. -/
  | trap (a : CSrc) (code : BitVec 15)
  /-- BREAK (R108): Stops the task precisely with BREAK. -/
  | brk (code : BitVec 15)
  /-- WAITF (R109): Makes C wait for the start of a given frame. -/
  | waitf (a : CSrc)
  /-- SLEEPU (R109): Makes C wait until a FRAMECNT value. -/
  | sleepu (a : CSrc)
  /-- HALT (R29): Ends issue in every cluster and reports an exit value. -/
  | halt (a : CSrc)
  /-- FSC (R110): Scoped fence that occupies C for a scope-dependent time. -/
  | fsc (sc : Scope)
  /-- MNEST (R254): Writes one entry of the shadow walk table. -/
  | mnest (a : CSrc) (b : CSrc) (e : Fin 10) (n : BitVec 16)
  /-- MFORM (R255): Checks a format word and pushes it onto the format queue. -/
  | mform (a : CSrc) (r : BitVec 16)
  /-- MGO (R256): Swaps the walk tables and starts a matrix walk. -/
  | mgo
  /-- MSIDE (R264): Loads or stores a tile's side registers. -/
  | mside (a : CSrc) (str : Bool) (cl : Cls) (t : Fin 4)
  /-- MRSC (R265): Rescales a tile by normalising or by a new maximum. -/
  | mrsc (a : CSrc) (mx : Bool) (cl : Cls) (t : Fin 4)
  /-- CPY (R238): Checks a copy request, schedules it on the copy engine and pushes its promise. -/
  | cpy (scl : Cls) (dcl : Cls) (pf : Bool) (crc : Bool) (a : CSrc) (b : CSrc) (c : CSrc)
  /-- CBATCH (R240): Closes the open copy batch and pushes its latest promise. -/
  | cbatch
  /-- CWAIT (R240): Waits until at most n copy batches are outstanding. -/
  | cwait (n : BitVec 4)
  /-- MARK (R231): Places a marker behind the commands issued to the named engines. -/
  | mark (m : BitVec 12) (mask : BitVec 5)
  /-- RDVW (R232): Waits until the named engines have retired a marker. -/
  | rdvw (m : BitVec 12) (mask : BitVec 5)
  /-- ATTN (R279): Checks and issues a request to the attention engine and pushes its promise. -/
  | attn (cl : Cls) (a : CSrc)
  /-- KPOS (R273): Rewrites the position bases of a run of block-table entries. -/
  | kpos (ad : Bool) (cl : Cls) (a : CSrc) (b : CSrc) (n : BitVec 12)
  /-- KFORK (R274): Forks block-table entries, adding references to their pages. -/
  | kfork (cl : Cls) (a : CSrc) (b : CSrc) (n : BitVec 12)
  /-- KDROP (R275): Drops block-table entries and frees pages whose refcount reaches zero. -/
  | kdrop (cl : Cls) (a : CSrc) (b : CSrc) (n : BitVec 12)
  /-- KMAP (R276): Anchors a new KV page, sealing it optionally. -/
  | kmap (sl : Bool) (cl : Cls) (a : CSrc) (b : CSrc)
  /-- CFIND (R291): Issues a lookup of the deepest cast to the cast engine. -/
  | cfind (hold : Bool) (cl : Cls) (a : CSrc)
  /-- CPUT (R292): Issues to the cast engine a request to deposit a cast, creating the missing nodes. -/
  | cput (hold : Bool) (cl : Cls) (a : CSrc)
  /-- CREL (R294): Issues a release of a hold on a cast-tree node. -/
  | crel (a : CSrc) (b : CSrc)
  /-- CSTAT (R295): Reports the oldest pending cast request, waiting for it in a free task. -/
  | cstat
  /-- COLL (R373): Issues a collective to the die's collective engine. -/
  | coll (cl : Cls) (a : CSrc)
  /-- TSPAWN (R195): Asks the scheduler to enqueue a whole graph or one node. -/
  | tspawn (node : Bool) (a : CSrc) (b : CSrc)
  /-- PHINT (R325): Checks a liveness record and takes a pending pre-emption in a free task. -/
  | phint (line : BitVec 14)
  /-- CRESIZE (R200): Requests a new cache-way count for the own vault and pushes its promise. -/
  | cresize (n : BitVec 5)
  /-- PROW (R349): Reads an entry, or the counts, of the published frieze row map. -/
  | prow (cnt : Bool) (lane : FzLane) (a : CSrc)
  /-- PDONE (R350): Requests the advance, admission or freeing of a frieze row. -/
  | pdone (op : PdoneOp) (lane : FzLane) (a : CSrc) (b : CSrc) (c : CSrc)
  /-- XNOP (R42): X no-op. -/
  | xnop
  /-- VADD (R131): Element-wise FP or CF32 addition. -/
  | vadd (vd : XDst) (p : Fin 8) (fmt : Fmt) (rm : Rm) (a : XSrc) (b : XSrc)
  /-- VSUB (R131): Element-wise subtraction. -/
  | vsub (vd : XDst) (p : Fin 8) (fmt : Fmt) (rm : Rm) (a : XSrc) (b : XSrc)
  /-- VMUL (R131): Element-wise multiplication. -/
  | vmul (vd : XDst) (p : Fin 8) (fmt : Fmt) (rm : Rm) (a : XSrc) (b : XSrc)
  /-- VFMA (R131): Element-wise fused multiply-add. -/
  | vfma (vd : XDst) (p : Fin 8) (fmt : Fmt) (rm : Rm) (a : XSrc) (b : XSrc) (c : XSrc)
  /-- VFMS (R131): Element-wise fused multiply-subtract. -/
  | vfms (vd : XDst) (p : Fin 8) (fmt : Fmt) (rm : Rm) (a : XSrc) (b : XSrc) (c : XSrc)
  /-- VFNMA (R131): Element-wise negated fused multiply-add. -/
  | vfnma (vd : XDst) (p : Fin 8) (fmt : Fmt) (rm : Rm) (a : XSrc) (b : XSrc) (c : XSrc)
  /-- VMIN (R131): Element-wise FP minimum. -/
  | vmin (vd : XDst) (p : Fin 8) (fmt : Fmt) (a : XSrc) (b : XSrc)
  /-- VMAX (R131): Element-wise FP maximum. -/
  | vmax (vd : XDst) (p : Fin 8) (fmt : Fmt) (a : XSrc) (b : XSrc)
  /-- VABS (R131): Element-wise absolute value. -/
  | vabs (vd : XDst) (p : Fin 8) (fmt : Fmt) (a : XSrc)
  /-- VNEG (R131): Element-wise negation. -/
  | vneg (vd : XDst) (p : Fin 8) (fmt : Fmt) (a : XSrc)
  /-- VDIV (R131): Element-wise correctly rounded division. -/
  | vdiv (vd : XDst) (p : Fin 8) (fmt : Fmt) (rm : Rm) (a : XSrc) (b : XSrc)
  /-- VSQRT (R131): Element-wise square root. -/
  | vsqrt (vd : XDst) (p : Fin 8) (fmt : Fmt) (rm : Rm) (a : XSrc)
  /-- VRCP (R131): Element-wise reciprocal. -/
  | vrcp (vd : XDst) (p : Fin 8) (fmt : Fmt) (rm : Rm) (a : XSrc)
  /-- VRSQ (R131): Element-wise reciprocal square root. -/
  | vrsq (vd : XDst) (p : Fin 8) (fmt : Fmt) (rm : Rm) (a : XSrc)
  /-- VEXP2 (R131): Element-wise Exp2. -/
  | vexp2 (vd : XDst) (p : Fin 8) (fmt : Fmt) (a : XSrc)
  /-- VLOG2 (R131): Element-wise base-2 logarithm. -/
  | vlog2 (vd : XDst) (p : Fin 8) (fmt : Fmt) (rm : Rm) (a : XSrc)
  /-- VCLAMP (R131): Element-wise clamp between two bounds. -/
  | vclamp (vd : XDst) (p : Fin 8) (fmt : Fmt) (a : XSrc) (b : XSrc) (c : XSrc)
  /-- VROPE (R133): Rotates element pairs by the rotary phase. -/
  | vrope (vd : XDst) (p : Fin 8) (fmt : Fmt) (a : XSrc) (b : XSrc) (c : XSrc)
  /-- VIADD (R134): Integer addition, wrapping or saturating. -/
  | viadd (vd : XDst) (p : Fin 8) (fmt : Fmt) (sat : Bool) (a : XSrc) (b : XSrc)
  /-- VISUB (R134): Integer subtraction. -/
  | visub (vd : XDst) (p : Fin 8) (fmt : Fmt) (sat : Bool) (a : XSrc) (b : XSrc)
  /-- VIMUL (R134): Integer multiplication. -/
  | vimul (vd : XDst) (p : Fin 8) (fmt : Fmt) (sat : Bool) (a : XSrc) (b : XSrc)
  /-- VIMULH (R134): High half of the integer product. -/
  | vimulh (vd : XDst) (p : Fin 8) (fmt : Fmt) (a : XSrc) (b : XSrc)
  /-- VIMIN (R134): Integer minimum. -/
  | vimin (vd : XDst) (p : Fin 8) (fmt : Fmt) (a : XSrc) (b : XSrc)
  /-- VIMAX (R134): Integer maximum. -/
  | vimax (vd : XDst) (p : Fin 8) (fmt : Fmt) (a : XSrc) (b : XSrc)
  /-- VAND (R134): Vector AND. -/
  | vand (vd : XDst) (p : Fin 8) (fmt : Fmt) (a : XSrc) (b : XSrc)
  /-- VOR (R134): Vector OR. -/
  | vor (vd : XDst) (p : Fin 8) (fmt : Fmt) (a : XSrc) (b : XSrc)
  /-- VXOR (R134): Vector XOR. -/
  | vxor (vd : XDst) (p : Fin 8) (fmt : Fmt) (a : XSrc) (b : XSrc)
  /-- VANDN (R134): Vector AND NOT. -/
  | vandn (vd : XDst) (p : Fin 8) (fmt : Fmt) (a : XSrc) (b : XSrc)
  /-- VSHL (R134): Vector shift left. -/
  | vshl (vd : XDst) (p : Fin 8) (fmt : Fmt) (a : XSrc) (b : XSrc)
  /-- VSHR (R134): Vector logical shift right. -/
  | vshr (vd : XDst) (p : Fin 8) (fmt : Fmt) (a : XSrc) (b : XSrc)
  /-- VSAR (R134): Vector arithmetic shift right. -/
  | vsar (vd : XDst) (p : Fin 8) (fmt : Fmt) (a : XSrc) (b : XSrc)
  /-- VPOPC (R134): Per-element population count. -/
  | vpopc (vd : XDst) (p : Fin 8) (fmt : Fmt) (a : XSrc)
  /-- VCLZ (R134): Per-element leading-zero count. -/
  | vclz (vd : XDst) (p : Fin 8) (fmt : Fmt) (a : XSrc)
  /-- VISAT (R134): Saturates elements to a narrower integer format. -/
  | visat (vd : XDst) (p : Fin 8) (fmt : Fmt) (tgt : Fmt) (a : XSrc)
  /-- VADDI (R135): Adds an F16 immediate. -/
  | vaddi (vd : XDst) (p : Fin 8) (fmt : Fmt) (rm : Rm) (a : XSrc) (imm : BitVec 16)
  /-- VMULI (R135): Multiplies by an F16 immediate. -/
  | vmuli (vd : XDst) (p : Fin 8) (fmt : Fmt) (rm : Rm) (a : XSrc) (imm : BitVec 16)
  /-- VIADDI (R135): Adds a signed integer immediate. -/
  | viaddi (vd : XDst) (p : Fin 8) (fmt : Fmt) (sat : Bool) (a : XSrc) (imm : BitVec 16)
  /-- VANDI (R135): ANDs with an integer immediate. -/
  | vandi (vd : XDst) (p : Fin 8) (fmt : Fmt) (a : XSrc) (imm : BitVec 16)
  /-- VORI (R135): ORs with an integer immediate. -/
  | vori (vd : XDst) (p : Fin 8) (fmt : Fmt) (a : XSrc) (imm : BitVec 16)
  /-- VSHLI (R135): Shifts left by an immediate. -/
  | vshli (vd : XDst) (p : Fin 8) (fmt : Fmt) (a : XSrc) (imm : BitVec 16)
  /-- VSHRI (R135): Shifts right logically by an immediate. -/
  | vshri (vd : XDst) (p : Fin 8) (fmt : Fmt) (a : XSrc) (imm : BitVec 16)
  /-- VCVT (R136): Converts elements between formats of equal width. -/
  | vcvt (vd : XDst) (p : Fin 8) (fmt : Fmt) (rm : Rm) (dst : Fmt) (a : XSrc)
  /-- VPACK (R136): Converts and packs elements into a narrower format. -/
  | vpack (vd : XDst) (p : Fin 8) (fmt : Fmt) (rm : Rm) (dst : Fmt) (q : Fin 4) (a : XSrc) (b : XSrc) (c : XSrc)
  /-- VUNPK (R136): Converts and unpacks one part into a wider format. -/
  | vunpk (vd : XDst) (p : Fin 8) (fmt : Fmt) (rm : Rm) (dst : Fmt) (q : Fin 4) (a : XSrc)
  /-- VCBDEC (R137): Decodes CB2 words into unscaled weights. -/
  | vcbdec (vd : XDst) (p : Fin 8) (fmt : Fmt) (g : Fin 16) (a : XSrc)
  /-- VSCALE (R138): Scales elements by powers of two. -/
  | vscale (vd : XDst) (p : Fin 8) (fmt : Fmt) (rm : Rm) (a : XSrc) (b : XSrc)
  /-- VKEYX (R138): Maps floating-point patterns to order-preserving keys, or back. -/
  | vkeyx (vd : XDst) (p : Fin 8) (fmt : Fmt) (inv : Bool) (a : XSrc)
  /-- VDIGIT (R138): Extracts a 4-bit or 8-bit digit. -/
  | vdigit (vd : XDst) (p : Fin 8) (fmt : Fmt) (d8 : Bool) (a : XSrc) (b : XSrc)
  /-- VCMP (R139): Compares vectors into a predicate. -/
  | vcmp (pd : Fin 8) (pa : Fin 8) (cop : VCmp) (fmt : Fmt) (h : Fin 8) (a : XSrc) (b : XSrc)
  /-- VCMPI (R139): Compares against an immediate into a predicate. -/
  | vcmpi (pd : Fin 8) (pa : Fin 8) (cop : VCmp) (fmt : Fmt) (a : XSrc) (imm : BitVec 16)
  /-- PAND (R140): Predicate AND. -/
  | pand (pd : Fin 8) (pa : Fin 8) (pb : Fin 8)
  /-- POR (R140): Predicate OR. -/
  | por (pd : Fin 8) (pa : Fin 8) (pb : Fin 8)
  /-- PXOR (R140): Predicate XOR. -/
  | pxor (pd : Fin 8) (pa : Fin 8) (pb : Fin 8)
  /-- PNOT (R140): Predicate NOT. -/
  | pnot (pd : Fin 8) (pa : Fin 8)
  /-- PCNT (R140): Pushes a predicate's one-bit count onto xq. -/
  | pcnt (pa : Fin 8)
  /-- PFIRST (R140): Isolates the lowest set predicate bit and pushes its index onto xq. -/
  | pfirst (pd : Fin 8) (pa : Fin 8)
  /-- VRSUM (R143): Sum reduction across lanes. -/
  | vrsum (vd : XDst) (p : Fin 8) (fmt : Fmt) (x : Bool) (a : XSrc)
  /-- VRMAX (R143): Maximum reduction. -/
  | vrmax (vd : XDst) (p : Fin 8) (fmt : Fmt) (x : Bool) (a : XSrc)
  /-- VRMIN (R143): Minimum reduction. -/
  | vrmin (vd : XDst) (p : Fin 8) (fmt : Fmt) (x : Bool) (a : XSrc)
  /-- VARGMAX (R144): Finds the highest-ranking element and its index. -/
  | vargmax (vd : XDst) (p : Fin 8) (fmt : Fmt) (x : Bool) (a : XSrc)
  /-- VARGMIN (R144): Finds the lowest-ranking element and its index. -/
  | vargmin (vd : XDst) (p : Fin 8) (fmt : Fmt) (x : Bool) (a : XSrc)
  /-- VSCAN (R145): Inclusive prefix sum. -/
  | vscan (vd : XDst) (p : Fin 8) (fmt : Fmt) (a : XSrc)
  /-- VHIST (R146): Adds a digit histogram to counts. -/
  | vhist (vd : XDst) (p : Fin 8) (fmt : Fmt) (a : XSrc) (b : XSrc)
  /-- VMOV (R147): Vector move. -/
  | vmov (vd : XDst) (p : Fin 8) (fmt : Fmt) (a : XSrc)
  /-- VSEL (R147): Element-wise select. -/
  | vsel (vd : XDst) (p : Fin 8) (fmt : Fmt) (a : XSrc) (b : XSrc) (c : XSrc)
  /-- VPERM (R147): Permutes elements by an index vector. -/
  | vperm (vd : XDst) (p : Fin 8) (fmt : Fmt) (a : XSrc) (b : XSrc)
  /-- VROT (R147): Rotates elements. -/
  | vrot (vd : XDst) (p : Fin 8) (fmt : Fmt) (a : XSrc) (b : XSrc)
  /-- VBCAST (R147): Broadcasts one element. -/
  | vbcast (vd : XDst) (p : Fin 8) (fmt : Fmt) (a : XSrc) (b : XSrc)
  /-- VCOMPRESS (R147): Compresses the active lanes to the bottom. -/
  | vcompress (vd : XDst) (p : Fin 8) (fmt : Fmt) (x : Bool) (a : XSrc)
  /-- VEXPAND (R147): Expands packed lanes into the active lanes. -/
  | vexpand (vd : XDst) (p : Fin 8) (fmt : Fmt) (a : XSrc) (b : XSrc)
  /-- VLANE (R147): Pushes one element onto xq. -/
  | vlane (fmt : Fmt) (a : XSrc) (k : BitVec 9)
  /-- VINS (R147): Inserts a scalar element. -/
  | vins (vd : XDst) (p : Fin 8) (fmt : Fmt) (a : XSrc) (b : XSrc) (k : BitVec 9)
  /-- DEFER (R148): Appends the active lanes to the deferral queue. -/
  | defer (a : XSrc) (b : XSrc) (p : Fin 8)
  /-- DRAIN (R148): Reads, and optionally removes, up to 64 deferral entries. -/
  | drain (vd : XDst) (dsel : DrainSel)
  /-- DCOUNT (R148): Pushes the deferral count onto xq. -/
  | dcount
  /-- DCLEAR (R148): Empties the deferral queue. -/
  | dclear
  /-- ACCRD (R150): Reads an accumulator row. -/
  | accrd (vd : XDst) (acc : Fin 4) (row : BitVec 16) (p : Fin 8) (fmt : Fmt)
  /-- ACCWR (R150): Writes an accumulator row. -/
  | accwr (v : Fin 16) (acc : Fin 4) (row : BitVec 16) (p : Fin 8) (fmt : Fmt)
  /-- ACCZ (R150): Zeroes a tile and resets its side registers. -/
  | accz (acc : Fin 4)
  /-- SIDERD (R150): Reads a tile's row maxima or sums. -/
  | siderd (vd : XDst) (acc : Fin 4) (p : Fin 8) (sum : Bool)
  /-- XJMP (R152): X unconditional jump. -/
  | xjmp (t : Target)
  /-- XBDEC (R152): X decrement-and-branch. -/
  | xbdec (k : Fin 4) (t : Target)
  /-- XLOOPSET (R152): Sets an X loop counter. -/
  | xloopset (k : Fin 4) (n : BitVec 13) (t : Target)
  /-- XBANY (R152): Branches if a predicate is nonzero. -/
  | xbany (p : Fin 8) (t : Target)
  /-- XBNONE (R152): Branches if a predicate is zero. -/
  | xbnone (p : Fin 8) (t : Target)
  /-- XMOULDF (R61): X's mould fence. -/
  | xmouldf
  /-- LNOP (R169): L no-op. -/
  | lnop
  /-- LDQ (R158): Loads contiguous bytes into an operand queue. -/
  | ldq (oq : Fin 8) (a : Fin 16) (cl : Cls) (fmt : Fmt) (cnt : BitVec 6) (inc : Inc) (imm : BitVec 18)
  /-- LDQB (R158): Loads one element and broadcasts it into an operand queue. -/
  | ldqb (oq : Fin 8) (a : Fin 16) (cl : Cls) (fmt : Fmt) (inc : Inc) (imm : BitVec 18)
  /-- LDQS (R158): Strided element load into an operand queue. -/
  | ldqs (oq : Fin 8) (a : Fin 16) (cl : Cls) (fmt : Fmt) (cnt : BitVec 6) (inc : SInc) (imm : BitVec 18)
  /-- LDQG (R165): Gathers through a generator with a completion bitmap. -/
  | ldqg (oq : Fin 8) (ag : Fin 4) (cl : Cls) (fmt : Fmt) (cb : Fin 4)
  /-- LGEN (R164): Loads segments at successive generator addresses. -/
  | lgen (oq : Fin 8) (ag : Fin 4) (cl : Cls) (fmt : Fmt) (s : Fin 7)
  /-- LDQK (R159): Loads a key row of a KV page with rotary on load. -/
  | ldqk (oq : Fin 8) (a : Fin 16) (cl : Cls) (fmt : Fmt) (t : BitVec 6) (g : BitVec 2)
  /-- LPF (R158): Prefetch hint. -/
  | lpf (a : Fin 16) (cl : Cls) (cnt : BitVec 6) (inc : Inc) (imm : BitVec 18)
  /-- AGSET (R163): Writes a field group of an address generator. -/
  | agset (ag : Fin 4) (grp : AgGroup)
  /-- AGIDX (R163): Sets a generator's indices. -/
  | agidx (ag : Fin 4)
  /-- AGRST (R163): Resets a generator's indices. -/
  | agrst (ag : Fin 4)
  /-- LADDI (R168): Adds an immediate to an a register. -/
  | laddi (ad : Fin 16) (as : Fin 16) (imm : BitVec 31)
  /-- LMOVI (R168): Loads an immediate into an a register. -/
  | lmovi (ad : Fin 16) (imm : BitVec 31)
  /-- LADD (R168): Adds a value popped from cl. -/
  | ladd (ad : Fin 16) (as : Fin 16)
  /-- LPOPC (R168): Pops cl into an a register. -/
  | lpopc (ad : Fin 16)
  /-- LGCB (R167): Sets a completion bitmap from cl. -/
  | lgcb (cb : Fin 4)
  /-- CBCLR (R167): Clears a completion bitmap and discards its open entry. -/
  | cbclr (cb : Fin 4)
  /-- CBGET (R167): Pushes a completion bitmap onto lq. -/
  | cbget (cb : Fin 4)
  /-- LJMP (R169): L jump. -/
  | ljmp (t : Target)
  /-- LBDEC (R169): L decrement-and-branch. -/
  | lbdec (k : Fin 4) (t : Target)
  /-- LLOOPSET (R169): Sets an L loop counter. -/
  | lloopset (k : Fin 4) (n : BitVec 13) (t : Target)
  /-- LMOULDF (R61): L's mould fence. -/
  | lmouldf
  /-- SNOP (R169): S no-op. -/
  | snop
  /-- STQ (R170): Stores the active lanes of a store-queue entry contiguously. -/
  | stq (sq : Fin 4) (b : Fin 16) (cl : Cls) (fmt : Fmt) (inc : Inc) (imm : BitVec 25)
  /-- STQS (R170): Strided element store. -/
  | stqs (sq : Fin 4) (b : Fin 16) (cl : Cls) (fmt : Fmt) (inc : SInc) (imm : BitVec 25)
  /-- STQG (R171): Scatters one element per lane, restartably. -/
  | stqg (sq : Fin 4) (b : Fin 16) (cl : Cls) (fmt : Fmt) (imm : BitVec 25)
  /-- SGEN (R170): Stores segments at strided addresses. -/
  | sgen (sq : Fin 4) (b : Fin 16) (cl : Cls) (fmt : Fmt) (sp : Bool) (s : Fin 7) (stride : BitVec 22)
  /-- STN (R172): Stores 4-bit elements by merging nibbles. -/
  | stn (sq : Fin 4) (b : Fin 16) (cl : Cls) (fmt : Fmt) (step : Bool) (off : BitVec 21) (h : Fin 9)
  /-- AADD (R226): Atomic add. -/
  | aadd (b : Fin 16) (cl : Cls) (fmt : Fmt) (rt : Bool) (d64 : Bool) (off : BitVec 24)
  /-- AFADD (R226): Atomic F32 add. -/
  | afadd (b : Fin 16) (cl : Cls) (fmt : Fmt) (rt : Bool) (d64 : Bool) (off : BitVec 24)
  /-- AMAX (R226): Atomic maximum. -/
  | amax (b : Fin 16) (cl : Cls) (fmt : Fmt) (rt : Bool) (d64 : Bool) (off : BitVec 24)
  /-- AMIN (R226): Atomic minimum. -/
  | amin (b : Fin 16) (cl : Cls) (fmt : Fmt) (rt : Bool) (d64 : Bool) (off : BitVec 24)
  /-- AAND (R226): Atomic AND. -/
  | aand (b : Fin 16) (cl : Cls) (fmt : Fmt) (rt : Bool) (d64 : Bool) (off : BitVec 24)
  /-- AOR (R226): Atomic OR. -/
  | aor (b : Fin 16) (cl : Cls) (fmt : Fmt) (rt : Bool) (d64 : Bool) (off : BitVec 24)
  /-- AXOR (R226): Atomic XOR. -/
  | axor (b : Fin 16) (cl : Cls) (fmt : Fmt) (rt : Bool) (d64 : Bool) (off : BitVec 24)
  /-- AXCHG (R226): Atomic exchange. -/
  | axchg (b : Fin 16) (cl : Cls) (fmt : Fmt) (rt : Bool) (d64 : Bool) (off : BitVec 24)
  /-- ACAS (R226): Atomic compare-and-swap. -/
  | acas (b : Fin 16) (cl : Cls) (fmt : Fmt) (rt : Bool) (d64 : Bool) (off : BitVec 24)
  /-- AHIST (R173): Atomically adds a 16-bin histogram in a vault. -/
  | ahist (sq : Fin 4) (b : Fin 16) (cl : Cls) (fmt : Fmt) (off : BitVec 27)
  /-- ACQ (R220): Acquires a sync object, blocking in a free task. -/
  | acq (b : Fin 16) (cl : Cls) (gen : Bool) (off : BitVec 24)
  /-- TRYACQ (R222): Tries to acquire a sync object without blocking. -/
  | tryacq (b : Fin 16) (cl : Cls) (gen : Bool) (off : BitVec 24)
  /-- REL (R223): Releases a sync object at its release point. -/
  | rel (b : Fin 16) (cl : Cls) (off : BitVec 24)
  /-- SOBIND (R224): Binds a range slot of a sync object. -/
  | sobind (b : Fin 16) (cl : Cls) (slot : Fin 4) (off : BitVec 24)
  /-- TCINC (R378): Adds to a chunk counter once prior writes have performed. -/
  | tcinc (c : BitVec 8) (n : BitVec 8)
  /-- SADDI (R168): Adds an immediate to a b register. -/
  | saddi (ad : Fin 16) (as : Fin 16) (imm : BitVec 31)
  /-- SMOVI (R168): Loads an immediate into a b register. -/
  | smovi (ad : Fin 16) (imm : BitVec 31)
  /-- SADD (R168): Adds a value popped from cs. -/
  | sadd (ad : Fin 16) (as : Fin 16)
  /-- SPOPC (R168): Pops cs into a b register. -/
  | spopc (ad : Fin 16)
  /-- SJMP (R169): S jump. -/
  | sjmp (t : Target)
  /-- SBDEC (R169): S decrement-and-branch. -/
  | sbdec (k : Fin 4) (t : Target)
  /-- SLOOPSET (R169): Sets an S loop counter. -/
  | sloopset (k : Fin 4) (n : BitVec 13) (t : Target)
  /-- SMOULDF (R61): S's mould fence. -/
  | smouldf
  /-- RESULT_LANDING (R16): A result lands at I + n, pushing the result queue and writing its register, predicate or counter. -/
  | resultLanding
  /-- CHANNEL_ENTRY_LANDING (R114): A reserved channel entry receives its value at its landing cycle. -/
  | channelEntryLanding
  /-- ACCESS_PERFORM (R105): A load or store performs at I + lat in the order of same-cycle accesses. -/
  | accessPerform
  /-- TRANSLATION_WALK_END (R207): A free task's walk finishes, filling the buffer or raising TRANSLATE_MISS, and the task clock resumes. -/
  | translationWalkEnd
  /-- JOINED_GROUP_START (R124): A joined group starts once every cluster has finished the previous group or arrived at the rendezvous. -/
  | joinedGroupStart
  /-- TASK_LAUNCH (R176): Images and arguments are copied into the scratchpad and a task starts with its registers set. -/
  | taskLaunch
  /-- TASK_END (R179): A task ends once every cluster has ended and every effect has landed, freeing its core. -/
  | taskEnd
  /-- DEADLINE (R180): The budget expires and DEADLINE stops the task. -/
  | deadline
  /-- FRAME_BOUNDARY (R18): FCYC wraps from 32,767 to 0 and FRAMENO increments. -/
  | frameBoundary
  /-- SLEEPU_WAKE (R109): A waiting SLEEPU wakes and checks the core's copies for missed promises and CRC failures. -/
  | sleepuWake
  /-- WAITF_WAKE (R109): A waiting WAITF resumes C at the named frame's start. -/
  | waitfWake
  /-- RDVW_WAKE (R232): C resumes in a free task once the named markers have retired. -/
  | rdvwWake
  /-- CWAIT_WAKE (R240): C resumes once few enough copy batches are outstanding, and the integrity check is made. -/
  | cwaitWake
  /-- CSTAT_WAKE (R295): A waiting CSTAT reports its cast request at the request's F. -/
  | cstatWake
  /-- FENCE_COMPLETE (R228): A fence reaches its completion cycle in the domain's total order of fences. -/
  | fenceComplete
  /-- MOULD_ENTRY_WRITE (R59): MLOAD writes one mould-table entry from the scratchpad. -/
  | mouldEntryWrite
  /-- FORMAT_QUEUE_ENTRY (R255): A format-word entry enters the format queue at I + 1. -/
  | formatQueueEntry
  /-- TCTL_RESUME (R310): A write of action 1 to TCTL in handler mode requests resumption. -/
  | tctlResume
  /-- TCTL_END (R310): A write of action 2 to TCTL in handler mode requests a fatal end. -/
  | tctlEnd
  /-- HANDLER_MODE_END (R310): Handler mode ends at t1, after the handler's operations have performed, and the TCTL action takes effect. -/
  | handlerModeEnd
  /-- SUPERVISOR_DISPOSITION (R306): The supervisor core acts on an S-class or nested cause. -/
  | supervisorDisposition
  /-- HOLD_REACHES_MEMBER (R317): The hold wave stops a member at t0 + its hold distance. -/
  | holdReachesMember
  /-- RELEASE_START (R317): A hold's release starts when its cause has cleared. -/
  | releaseStart
  /-- RELEASE_REACHES_MEMBER (R317): The release wave resumes a member, whose HOLDLAG grows by L. -/
  | releaseReachesMember
  /-- LANDING_BUFFER_ARRIVAL (R314): An access arrives at a stopped core and waits in its landing buffer. -/
  | landingBufferArrival
  /-- VAULT_OVERRUN (R209): An access would perform after its padded cycle, and the die holds the affected cores. -/
  | vaultOverrun
  /-- RELEASE_POINT (R217): A REL reaches its release point, writes back its ranges and changes the object. -/
  | releasePoint
  /-- ACQ_PERFORM (R220): An ACQ reads its object at P and succeeds, blocks or faults. -/
  | acqPerform
  /-- ACQ_SUCCESS (R221): A blocked ACQ succeeds on a retest after the object's operations. -/
  | acqSuccess
  /-- TRYACQ_PERFORM (R222): A TRYACQ tests its object at P and lands 1 or 0 on sr. -/
  | tryacqPerform
  /-- SOBIND_PERFORM (R224): A SOBIND sets a range slot at P. -/
  | sobindPerform
  /-- ATOMIC_PERFORM (R226): An atomic reads and writes its target indivisibly at P. -/
  | atomicPerform
  /-- AHIST_PERFORM (R173): AHIST adds its histogram at the vault in one step. -/
  | ahistPerform
  /-- MARKER_RETIRE (R231): A marker retires and its engine's field in RDV is set. -/
  | markerRetire
  /-- SCRUB_STEP (R210): Every 64 cycles the scrubber reads, corrects and rewrites 64 bytes of a vault. -/
  | scrubStep
  /-- CRESIZE_START (R200): A CRESIZE begins at S, taking its moving ways out of use. -/
  | cresizeStart
  /-- CRESIZE_COMPLETE (R200): At D the new cache-way count takes effect and new direct ways hold 0. -/
  | cresizeComplete
  /-- COPY_BEAT_READ (R239): A copy beat's source bytes are read. -/
  | copyBeatRead
  /-- COPY_BEAT_WRITE (R239): A copy beat's destination bytes are written. -/
  | copyBeatWrite
  /-- COPY_COMPLETE (R239): A copy becomes complete at D and its CRC result is marked. -/
  | copyComplete
  /-- MATRIX_COMMAND_START (R257): A tile command starts, popping its format word and taking a sequence number. -/
  | matrixCommandStart
  /-- MATRIX_BLOCK_READ (R261): A sum block's operand reads issue and are checked. -/
  | matrixBlockRead
  /-- MATRIX_BLOCK_ADD (R259): A sum block is added to its accumulator elements at wr(j). -/
  | matrixBlockAdd
  /-- MATRIX_SCORE_STEP (R260): A score command folds its scores into the running softmax of the partner tile. -/
  | matrixScoreStep
  /-- MSIDE_LOAD_WRITE (R264): A side-register load writes the side registers. -/
  | msideLoadWrite
  /-- MRSC_WRITE (R265): A rescale writes the tile. -/
  | mrscWrite
  /-- LDQK_ENTRY_READ (R159): LDQK reads its block-table entry at I + latE and checks it. -/
  | ldqkEntryRead
  /-- PAGE_ENTRY_READ (R272): A page instruction reads entry j at e_j. -/
  | pageEntryRead
  /-- PAGE_ENTRY_APPLY (R272): A page instruction checks and updates entry j and its anchor at a_j. -/
  | pageEntryApply
  /-- KMAP_WRITE (R276): KMAP writes the anchor and the destination entry at W. -/
  | kmapWrite
  /-- ATTN_START (R280): The attention engine starts a request at S. -/
  | attnStart
  /-- ATTN_BLOCK_READ (R280): The request block is read and checked. -/
  | attnBlockRead
  /-- ATTN_OPERAND_READ (R280): The query, ω table, projection and triple are read and the destinations checked. -/
  | attnOperandRead
  /-- ATTN_ENTRY_READ (R280): A block-table entry is read. -/
  | attnEntryRead
  /-- ATTN_BITMAP_READ (R280): The token bitmap is read. -/
  | attnBitmapRead
  /-- ATTN_SIGNATURE_READ (R280): A page's signatures are read for selection. -/
  | attnSignatureRead
  /-- ATTN_PAGE_READ (R280): A page image is read and its CRC checked. -/
  | attnPageRead
  /-- ATTN_COMPLETE (R281): At F the output, triple and status are written. -/
  | attnComplete
  /-- CAST_REQUEST_START (R290): The cast engine starts a request at S. -/
  | castRequestStart
  /-- CAST_START_STEP (R290): The block and header are read and checked. -/
  | castStartStep
  /-- CAST_CHUNK_STEP (R290): A chunk's tokens are read and hashed. -/
  | castChunkStep
  /-- CAST_PROBE_STEP (R287): A bucket word and its node are read. -/
  | castProbeStep
  /-- CAST_CONFIRM_STEP (R287): A node's stored tokens are compared. -/
  | castConfirmStep
  /-- CAST_ALLOCATE_STEP (R292): A node is allocated. -/
  | castAllocateStep
  /-- CAST_EVICT_STEP (R293): The least recently used evictable leaf is evicted. -/
  | castEvictStep
  /-- CAST_DEPOSIT_STEP (R292): The cast image and its anchors are read for deposit. -/
  | castDepositStep
  /-- CAST_REQUEST_FINISH (R290): At F the request performs all its writes as one group. -/
  | castRequestFinish
  /-- NODE_DISPATCH (R189): The scheduler starts the highest-ranked ready work that can run. -/
  | nodeDispatch
  /-- CONTROL_NODE_EVALUATE (R187): A conditional, loop or switch node reads its word and releases successors. -/
  | controlNodeEvaluate
  /-- PLACEMENT_CLAIM (R192): The lead die sends a claim to the member dies. -/
  | placementClaim
  /-- PLACEMENT_REPLY (R192): A member die replies to a claim. -/
  | placementReply
  /-- PLACEMENT_GO (R192): The lead sends a common go or cancel. -/
  | placementGo
  /-- ERROR_TOKEN_STEP (R194): The error token marks one more node cancelled. -/
  | errorTokenStep
  /-- TSPAWN_APPLY (R195): The scheduler applies a TSPAWN at I + 160 and pushes its status. -/
  | tspawnApply
  /-- PREEMPT_STOP (R327): After the drain the core stops for PREEMPT and checks its channels. -/
  | preemptStop
  /-- SAVE_BEAT (R331): The save engine issues one 128-byte beat or aborts. -/
  | saveBeat
  /-- SAVE_COMPLETE (R331): The valid word performs and the task is suspended. -/
  | saveComplete
  /-- TASK_RESTORE (R332): A suspended task is restored on its core. -/
  | taskRestore
  /-- SLOT_BOUNDARY (R347): At Fk tags and places switch and the row map is built. -/
  | slotBoundary
  /-- MAP_PUBLISH (R347): The slot's map is published at Fk + 16. -/
  | mapPublish
  /-- PANEL_BEAT_SEND (R342): A die reads a beat of its oldest place to send downstream. -/
  | panelBeatSend
  /-- PANEL_BEAT_LAND (R342): A beat of the incoming panel is written into the landing place. -/
  | panelBeatLand
  /-- PDONE_APPLY (R350): A PDONE changes its row at I + 160 or raises a fault. -/
  | pdoneApply
  /-- DIE_LOSS (R353): A hub detects a failed ring die, holds the hold set and sets up a bypass. -/
  | dieLoss
  /-- FLIT_ARRIVAL (R360): A flit arrives and its CRC is checked. -/
  | flitArrival
  /-- SLACK_SLOT_RETRY (R360): Failed flits are resent in a slack slot. -/
  | slackSlotRetry
  /-- RETRY_OVERRUN (R360): Data is late at its due cycle and the receiving hub starts a hold. -/
  | retryOverrun
  /-- ALIGNMENT_FLIT (R364): A received alignment flit is compared with the local counter. -/
  | alignmentFlit
  /-- ALIGNMENT_BARRIER (R362): Latencies are measured, counters distributed and members trimmed or excluded. -/
  | alignmentBarrier
  /-- COLL_BLOCK_READ (R373): The parameter block is read at P and timed checks are made. -/
  | collBlockRead
  /-- COLL_MEMBER_START (R405): A matched member starts its collective. -/
  | collMemberStart
  /-- COLL_SOURCE_BEAT (R374): A member reads one source beat. -/
  | collSourceBeat
  /-- COLL_DEST_BEAT (R374): A member's destination beat is written. -/
  | collDestBeat
  /-- COLL_COMPLETE (R375): The status is written at F. -/
  | collComplete
  /-- CHUNK_RELEASE (R377): A chunk is released when its counter reaches the threshold. -/
  | chunkRelease
  /-- TCINC_APPLY (R378): A chunk counter is incremented at r. -/
  | tcincApply
  /-- CQTAIL_DOORBELL (R383): A host write of CQTAIL exposes new command entries. -/
  | cqtailDoorbell
  /-- CQCTL_WRITE (R383): A host write of CQCTL enables or disables the queue. -/
  | cqctlWrite
  /-- DEVSTAT_CLEAR (R383): A W1C write clears the bad-doorbell bit. -/
  | devstatClear
  /-- HOST_BAR2_READ (R382): A host read through BAR2 performs as an F-class access. -/
  | hostBar2Read
  /-- HOST_BAR2_WRITE (R382): A host write through BAR2 performs or is refused. -/
  | hostBar2Write
  /-- IDENTIFY (R387): Writes the identity block to the host. -/
  | identify
  /-- NEGOTIATE (R386): Accepts feature bits. -/
  | negotiate
  /-- RESET_FUNCTION (R388): Resets a function. -/
  | resetFunction
  /-- RESET_DIE (R388): Resets a die. -/
  | resetDie
  /-- RESET_DOMAIN (R388): Repeats bring-up. -/
  | resetDomain
  /-- WRITE (R387): Copies host memory to the device. -/
  | writeCmd
  /-- READ (R387): Copies device memory to the host. -/
  | readCmd
  /-- MAP (R387): Loads pinned translations. -/
  | mapCmd
  /-- UNMAP (R387): Removes pinned translations. -/
  | unmapCmd
  /-- LAUNCH_GRAPH (R387): Enqueues a graph with the function's tag. -/
  | launchGraph
  /-- FREEZE_GRAPH (R387): Freezes a graph. -/
  | freezeGraph
  /-- FREE_GRAPH (R387): Frees a frozen graph and re-arms its incomplete nodes. -/
  | freeGraph
  /-- QUERY (R387): Copies a node's scheduler fields. -/
  | query
  /-- FRIEZE_FORM (R387): Reserves frieze stores and enters port state 1. -/
  | friezeForm
  /-- FRIEZE_LOAD (R406): Lands a panel and starts the port after the last one. -/
  | friezeLoad
  /-- ALIGN_CMD (R387): Requests a re-alignment. -/
  | alignCmd
  /-- REMAP_SPARES (R392): Schedules spare core positions. -/
  | remapSpares
  /-- COUNTERS (R407): Copies a block of counters. -/
  | counters
  /-- HALT_COMMAND (R387): Places debugger holds on a graph's tasks. -/
  | haltCommand
  /-- HALT_COMMAND_COMPLETE (R384): A parked HALT completes when its holds have reached every core. -/
  | haltCommandComplete
  /-- RESUME (R387): Releases debugger holds and SYSCALL or BREAK stops. -/
  | resume
  /-- PEEK (R387): Reads any space. -/
  | peek
  /-- POKE (R387): Writes any space. -/
  | poke
  /-- EVENT (R389): Parks an entry to receive an event. -/
  | eventCmd
  /-- EVENT_POST (R389): The firmware posts an event by completing the oldest outstanding EVENT, or buffers it. -/
  | eventPost
  /-- POWER_ON (R390): Stage 0 of bring-up: power rails and clocks. -/
  | powerOn
  /-- ROM_BOOT (R390): Stage 1: the hub and each supervisor core boot from ROM. -/
  | romBoot
  /-- FUSE_REMAP (R390): Stage 2: the remap tables are loaded and memories scrubbed to 0. -/
  | fuseRemap
  /-- LINK_TRAINING (R390): Stage 3: every link is trained. -/
  | linkTraining
  /-- SPARE_REMAP_APPLY (R392): At a maintenance point the vault is copied to a spare position and the remap switched. -/
  | spareRemapApply
  /-- THERMAL_STEP (R393): The domain clock is lowered by 100 MHz at a frame boundary. -/
  | thermalStep
  /-- THERMAL_SHUTDOWN (R393): An overheated die is powered off and treated as failed. -/
  | thermalShutdown
  /-- RESERVED_OPCODE (R50): A long word reaches issue whose opcode is reserved in the executing cluster's grid, or which straddles parcel 29 to 31 or has TM = 11, and raises ILLEGAL. -/
  | reservedOpcode
  /-- RESERVED_COMMAND (R385): The firmware fetches a command entry whose opcode is unknown or reserved and completes it with status 0x01. -/
  | reservedCommand
  deriving DecidableEq, Repr

/-- The timing modes that a long word can carry (R25, R33): idle count, frame stamp, task stamp. -/
inductive TMode where
  | idle | frame | task
  deriving DecidableEq, Repr

/-- A long word as decoded (R33): its timing and its instruction. -/
structure LongWord where
  tm : TMode
  t : BitVec 15
  instr : Instr
  deriving DecidableEq, Repr

/-- The cluster whose opcode grid holds the instruction (R45 to R48); none for an event. -/
def Instr.cluster : Instr → Option Cluster
  | .nop => some .c
  | .add _ _ _ => some .c
  | .sub _ _ _ => some .c
  | .mul _ _ _ => some .c
  | .mulh _ _ _ _ => some .c
  | .div _ _ _ _ => some .c
  | .rem _ _ _ _ => some .c
  | .and _ _ _ => some .c
  | .or _ _ _ => some .c
  | .xor _ _ _ => some .c
  | .andn _ _ _ => some .c
  | .shl _ _ _ => some .c
  | .shr _ _ _ => some .c
  | .sar _ _ _ => some .c
  | .rol _ _ _ => some .c
  | .min _ _ _ _ => some .c
  | .max _ _ _ _ => some .c
  | .cmp _ _ _ _ _ => some .c
  | .clz _ _ => some .c
  | .ctz _ _ => some .c
  | .popc _ _ => some .c
  | .brev _ _ => some .c
  | .bfx _ _ _ _ => some .c
  | .bfi _ _ _ _ => some .c
  | .ext _ _ _ _ => some .c
  | .move _ _ => some .c
  | .sel _ _ _ _ => some .c
  | .madd _ _ _ _ => some .c
  | .addi _ _ _ => some .c
  | .andi _ _ _ => some .c
  | .ori _ _ _ => some .c
  | .xori _ _ _ => some .c
  | .shli _ _ _ => some .c
  | .shri _ _ _ => some .c
  | .sari _ _ _ => some .c
  | .cmpi _ _ _ _ => some .c
  | .muli _ _ _ => some .c
  | .li _ _ => some .c
  | .lih _ _ _ _ => some .c
  | .fadd _ _ _ _ => some .c
  | .fsub _ _ _ _ => some .c
  | .fmul _ _ _ _ => some .c
  | .ffma _ _ _ _ _ => some .c
  | .fdiv _ _ _ _ => some .c
  | .fmin _ _ _ => some .c
  | .fmax _ _ _ => some .c
  | .fcmp _ _ _ _ => some .c
  | .fcvt _ _ _ _ => some .c
  | .fsqrt _ _ _ => some .c
  | .fexp2 _ _ => some .c
  | .frcp _ _ _ => some .c
  | .br _ _ _ _ => some .c
  | .bri _ _ _ _ => some .c
  | .call _ => some .c
  | .ret _ => some .c
  | .jmpi _ _ => some .c
  | .jtab _ _ _ => some .c
  | .bdec _ _ => some .c
  | .loopset _ _ _ => some .c
  | .pdisp _ _ _ _ => some .c
  | .ld _ _ _ _ _ => some .c
  | .lds _ _ _ _ _ => some .c
  | .st _ _ _ _ _ => some .c
  | .mload _ _ _ => some .c
  | .mouldf => some .c
  | .getc _ _ => some .c
  | .putc _ _ => some .c
  | .trap _ _ => some .c
  | .brk _ => some .c
  | .waitf _ => some .c
  | .sleepu _ => some .c
  | .halt _ => some .c
  | .fsc _ => some .c
  | .mnest _ _ _ _ => some .c
  | .mform _ _ => some .c
  | .mgo => some .c
  | .mside _ _ _ _ => some .c
  | .mrsc _ _ _ _ => some .c
  | .cpy _ _ _ _ _ _ _ => some .c
  | .cbatch => some .c
  | .cwait _ => some .c
  | .mark _ _ => some .c
  | .rdvw _ _ => some .c
  | .attn _ _ => some .c
  | .kpos _ _ _ _ _ => some .c
  | .kfork _ _ _ _ => some .c
  | .kdrop _ _ _ _ => some .c
  | .kmap _ _ _ _ => some .c
  | .cfind _ _ _ => some .c
  | .cput _ _ _ => some .c
  | .crel _ _ => some .c
  | .cstat => some .c
  | .coll _ _ => some .c
  | .tspawn _ _ _ => some .c
  | .phint _ => some .c
  | .cresize _ => some .c
  | .prow _ _ _ => some .c
  | .pdone _ _ _ _ _ => some .c
  | .xnop => some .x
  | .vadd _ _ _ _ _ _ => some .x
  | .vsub _ _ _ _ _ _ => some .x
  | .vmul _ _ _ _ _ _ => some .x
  | .vfma _ _ _ _ _ _ _ => some .x
  | .vfms _ _ _ _ _ _ _ => some .x
  | .vfnma _ _ _ _ _ _ _ => some .x
  | .vmin _ _ _ _ _ => some .x
  | .vmax _ _ _ _ _ => some .x
  | .vabs _ _ _ _ => some .x
  | .vneg _ _ _ _ => some .x
  | .vdiv _ _ _ _ _ _ => some .x
  | .vsqrt _ _ _ _ _ => some .x
  | .vrcp _ _ _ _ _ => some .x
  | .vrsq _ _ _ _ _ => some .x
  | .vexp2 _ _ _ _ => some .x
  | .vlog2 _ _ _ _ _ => some .x
  | .vclamp _ _ _ _ _ _ => some .x
  | .vrope _ _ _ _ _ _ => some .x
  | .viadd _ _ _ _ _ _ => some .x
  | .visub _ _ _ _ _ _ => some .x
  | .vimul _ _ _ _ _ _ => some .x
  | .vimulh _ _ _ _ _ => some .x
  | .vimin _ _ _ _ _ => some .x
  | .vimax _ _ _ _ _ => some .x
  | .vand _ _ _ _ _ => some .x
  | .vor _ _ _ _ _ => some .x
  | .vxor _ _ _ _ _ => some .x
  | .vandn _ _ _ _ _ => some .x
  | .vshl _ _ _ _ _ => some .x
  | .vshr _ _ _ _ _ => some .x
  | .vsar _ _ _ _ _ => some .x
  | .vpopc _ _ _ _ => some .x
  | .vclz _ _ _ _ => some .x
  | .visat _ _ _ _ _ => some .x
  | .vaddi _ _ _ _ _ _ => some .x
  | .vmuli _ _ _ _ _ _ => some .x
  | .viaddi _ _ _ _ _ _ => some .x
  | .vandi _ _ _ _ _ => some .x
  | .vori _ _ _ _ _ => some .x
  | .vshli _ _ _ _ _ => some .x
  | .vshri _ _ _ _ _ => some .x
  | .vcvt _ _ _ _ _ _ => some .x
  | .vpack _ _ _ _ _ _ _ _ _ => some .x
  | .vunpk _ _ _ _ _ _ _ => some .x
  | .vcbdec _ _ _ _ _ => some .x
  | .vscale _ _ _ _ _ _ => some .x
  | .vkeyx _ _ _ _ _ => some .x
  | .vdigit _ _ _ _ _ _ => some .x
  | .vcmp _ _ _ _ _ _ _ => some .x
  | .vcmpi _ _ _ _ _ _ => some .x
  | .pand _ _ _ => some .x
  | .por _ _ _ => some .x
  | .pxor _ _ _ => some .x
  | .pnot _ _ => some .x
  | .pcnt _ => some .x
  | .pfirst _ _ => some .x
  | .vrsum _ _ _ _ _ => some .x
  | .vrmax _ _ _ _ _ => some .x
  | .vrmin _ _ _ _ _ => some .x
  | .vargmax _ _ _ _ _ => some .x
  | .vargmin _ _ _ _ _ => some .x
  | .vscan _ _ _ _ => some .x
  | .vhist _ _ _ _ _ => some .x
  | .vmov _ _ _ _ => some .x
  | .vsel _ _ _ _ _ _ => some .x
  | .vperm _ _ _ _ _ => some .x
  | .vrot _ _ _ _ _ => some .x
  | .vbcast _ _ _ _ _ => some .x
  | .vcompress _ _ _ _ _ => some .x
  | .vexpand _ _ _ _ _ => some .x
  | .vlane _ _ _ => some .x
  | .vins _ _ _ _ _ _ => some .x
  | .defer _ _ _ => some .x
  | .drain _ _ => some .x
  | .dcount => some .x
  | .dclear => some .x
  | .accrd _ _ _ _ _ => some .x
  | .accwr _ _ _ _ _ => some .x
  | .accz _ => some .x
  | .siderd _ _ _ _ => some .x
  | .xjmp _ => some .x
  | .xbdec _ _ => some .x
  | .xloopset _ _ _ => some .x
  | .xbany _ _ => some .x
  | .xbnone _ _ => some .x
  | .xmouldf => some .x
  | .lnop => some .l
  | .ldq _ _ _ _ _ _ _ => some .l
  | .ldqb _ _ _ _ _ _ => some .l
  | .ldqs _ _ _ _ _ _ _ => some .l
  | .ldqg _ _ _ _ _ => some .l
  | .lgen _ _ _ _ _ => some .l
  | .ldqk _ _ _ _ _ _ => some .l
  | .lpf _ _ _ _ _ => some .l
  | .agset _ _ => some .l
  | .agidx _ => some .l
  | .agrst _ => some .l
  | .laddi _ _ _ => some .l
  | .lmovi _ _ => some .l
  | .ladd _ _ => some .l
  | .lpopc _ => some .l
  | .lgcb _ => some .l
  | .cbclr _ => some .l
  | .cbget _ => some .l
  | .ljmp _ => some .l
  | .lbdec _ _ => some .l
  | .lloopset _ _ _ => some .l
  | .lmouldf => some .l
  | .snop => some .s
  | .stq _ _ _ _ _ _ => some .s
  | .stqs _ _ _ _ _ _ => some .s
  | .stqg _ _ _ _ _ => some .s
  | .sgen _ _ _ _ _ _ _ => some .s
  | .stn _ _ _ _ _ _ _ => some .s
  | .aadd _ _ _ _ _ _ => some .s
  | .afadd _ _ _ _ _ _ => some .s
  | .amax _ _ _ _ _ _ => some .s
  | .amin _ _ _ _ _ _ => some .s
  | .aand _ _ _ _ _ _ => some .s
  | .aor _ _ _ _ _ _ => some .s
  | .axor _ _ _ _ _ _ => some .s
  | .axchg _ _ _ _ _ _ => some .s
  | .acas _ _ _ _ _ _ => some .s
  | .ahist _ _ _ _ _ => some .s
  | .acq _ _ _ _ => some .s
  | .tryacq _ _ _ _ => some .s
  | .rel _ _ _ => some .s
  | .sobind _ _ _ _ => some .s
  | .tcinc _ _ => some .s
  | .saddi _ _ _ => some .s
  | .smovi _ _ => some .s
  | .sadd _ _ => some .s
  | .spopc _ => some .s
  | .sjmp _ => some .s
  | .sbdec _ _ => some .s
  | .sloopset _ _ _ => some .s
  | .smouldf => some .s
  | .idle _ => none
  | .shortParcel _ _ cl => some cl
  | .resultLanding => none
  | .channelEntryLanding => none
  | .accessPerform => none
  | .translationWalkEnd => none
  | .joinedGroupStart => none
  | .taskLaunch => none
  | .taskEnd => none
  | .deadline => none
  | .frameBoundary => none
  | .sleepuWake => none
  | .waitfWake => none
  | .rdvwWake => none
  | .cwaitWake => none
  | .cstatWake => none
  | .fenceComplete => none
  | .mouldEntryWrite => none
  | .formatQueueEntry => none
  | .tctlResume => none
  | .tctlEnd => none
  | .handlerModeEnd => none
  | .supervisorDisposition => none
  | .holdReachesMember => none
  | .releaseStart => none
  | .releaseReachesMember => none
  | .landingBufferArrival => none
  | .vaultOverrun => none
  | .releasePoint => none
  | .acqPerform => none
  | .acqSuccess => none
  | .tryacqPerform => none
  | .sobindPerform => none
  | .atomicPerform => none
  | .ahistPerform => none
  | .markerRetire => none
  | .scrubStep => none
  | .cresizeStart => none
  | .cresizeComplete => none
  | .copyBeatRead => none
  | .copyBeatWrite => none
  | .copyComplete => none
  | .matrixCommandStart => none
  | .matrixBlockRead => none
  | .matrixBlockAdd => none
  | .matrixScoreStep => none
  | .msideLoadWrite => none
  | .mrscWrite => none
  | .ldqkEntryRead => none
  | .pageEntryRead => none
  | .pageEntryApply => none
  | .kmapWrite => none
  | .attnStart => none
  | .attnBlockRead => none
  | .attnOperandRead => none
  | .attnEntryRead => none
  | .attnBitmapRead => none
  | .attnSignatureRead => none
  | .attnPageRead => none
  | .attnComplete => none
  | .castRequestStart => none
  | .castStartStep => none
  | .castChunkStep => none
  | .castProbeStep => none
  | .castConfirmStep => none
  | .castAllocateStep => none
  | .castEvictStep => none
  | .castDepositStep => none
  | .castRequestFinish => none
  | .nodeDispatch => none
  | .controlNodeEvaluate => none
  | .placementClaim => none
  | .placementReply => none
  | .placementGo => none
  | .errorTokenStep => none
  | .tspawnApply => none
  | .preemptStop => none
  | .saveBeat => none
  | .saveComplete => none
  | .taskRestore => none
  | .slotBoundary => none
  | .mapPublish => none
  | .panelBeatSend => none
  | .panelBeatLand => none
  | .pdoneApply => none
  | .dieLoss => none
  | .flitArrival => none
  | .slackSlotRetry => none
  | .retryOverrun => none
  | .alignmentFlit => none
  | .alignmentBarrier => none
  | .collBlockRead => none
  | .collMemberStart => none
  | .collSourceBeat => none
  | .collDestBeat => none
  | .collComplete => none
  | .chunkRelease => none
  | .tcincApply => none
  | .cqtailDoorbell => none
  | .cqctlWrite => none
  | .devstatClear => none
  | .hostBar2Read => none
  | .hostBar2Write => none
  | .identify => none
  | .negotiate => none
  | .resetFunction => none
  | .resetDie => none
  | .resetDomain => none
  | .writeCmd => none
  | .readCmd => none
  | .mapCmd => none
  | .unmapCmd => none
  | .launchGraph => none
  | .freezeGraph => none
  | .freeGraph => none
  | .query => none
  | .friezeForm => none
  | .friezeLoad => none
  | .alignCmd => none
  | .remapSpares => none
  | .counters => none
  | .haltCommand => none
  | .haltCommandComplete => none
  | .resume => none
  | .peek => none
  | .poke => none
  | .eventCmd => none
  | .eventPost => none
  | .powerOn => none
  | .romBoot => none
  | .fuseRemap => none
  | .linkTraining => none
  | .spareRemapApply => none
  | .thermalStep => none
  | .thermalShutdown => none
  | .reservedOpcode => none
  | .reservedCommand => none

end Sys2Proof
end

