-- ==== Sys2Proof/Config.lean ====
section
/-! DEFINITION. What the spec leaves open. Every constant here is opaque: nothing can evaluate it, so a statement
about a run holds whatever its value is. Each is named in the assumption log. -/

namespace Sys2Proof.Config

/-- TINFO of a cause whose TINFO no rule gives (log entry 10); the argument is the free-value counter. -/
opaque freeTinfo : Nat → BitVec 64

/-- Which value of a byte's coherence order a racing read returns (R212, log entry 11): counter and address. -/
opaque raceChoice : Nat → Nat → Nat

/-- How many cycles after a stop the supervisor core acts (R306 gives no time; log entry 12). -/
opaque supervisorDelay : Nat → Nat

/-- How many cycles the firmware takes for a command (R384 to R389 give no time; log entry 12). -/
opaque firmwareDelay : Nat → Nat

/-- Fabric hops between two modules, which the routes fixed at alignment give (R361; log entry 20). -/
opaque fabricHops : Nat → Nat → Nat

/-- Any other open value: the free-value counter and a number that tells the places apart (log entry 13). -/
opaque freeNat : Nat → Nat → Nat

/-- The firmware's 61-bit hash base of a domain tag, drawn at each bring-up, which a number counts (R286, R386; log entry 14). -/
opaque hashBase : BitVec 16 → Nat → Nat

/-- What a place of the control space without a layout holds (R322, R346, R377; log entry 70): the unit and the offset. -/
opaque ctlMap : Nat → Nat → Nat

end Sys2Proof.Config
end

