-- ==== Sys2Proof/WellFormed.lean ====
section
/-! DEFINITION. The checks on an instruction's fields beyond their code spaces (R50, R51): which formats a row accepts,
which immediates are legal, which fields must be 0. Every failed check is ILLEGAL at issue. -/

namespace Sys2Proof

/-- The floating-point formats, codes 0 to 5 ("FP" in R131). -/
def Fmt.isFp : Fmt → Bool
  | .f32 | .bf16 | .f16 | .e4m3 | .e5m2 | .e2m1 => true
  | _ => false

/-- The wide formats of R131. -/
def Fmt.isWide : Fmt → Bool
  | .f32 | .bf16 | .f16 => true
  | _ => false

/-- The integer formats (R134). -/
def Fmt.isInt : Fmt → Bool
  | .i32 | .i16 | .i8 | .i4 | .u32 | .u16 | .u8 => true
  | _ => false

/-- The formats of conversions and compares, codes 0 to 12 (R136, R139). -/
def Fmt.isConv (f : Fmt) : Bool := f.isFp || f.isInt

/-- The width of an element in bits (R66); a CB2 word is 16 bits and is moved as a 32-bit pair (R67). -/
def Fmt.width : Fmt → Nat
  | .f32 | .i32 | .u32 | .cb2 => 32
  | .bf16 | .f16 | .i16 | .u16 => 16
  | .e4m3 | .e5m2 | .i8 | .u8 => 8
  | .e2m1 | .i4 => 4
  | .cf32 => 64

/-- The number of elements of a vector (R67). -/
def Fmt.count (f : Fmt) : Nat := 2048 / f.width

/-- The formats whose elements are whole bytes, and CB2 as a pair (R158, R170). -/
def Fmt.byteWide : Fmt → Bool
  | .e2m1 | .i4 => false
  | _ => true

/-- A NaN in an F16 immediate field: 0x7C01 to 0x7FFF and 0xFC01 to 0xFFFF (R72). -/
def f16IsNaN (i : BitVec 16) : Bool := decide (31744 < i.toNat % 32768)

/-- The width relation of VPACK (R136). -/
def packOk (ws wd q : Nat) : Bool :=
  (ws == 2 * wd || ws == 4 * wd || ws == 8 * wd) && decide (q < ws / (2 * wd))

/-- The width relation of VUNPK (R136). -/
def unpkOk (ws wd q : Nat) : Bool :=
  (wd == 2 * ws || wd == 4 * ws || wd == 8 * ws) && decide (q < wd / ws)

/-- The row16 field of the accumulator views (R149): F32 rows 0 to 63, CF32 rows 0 to 31 with L at bit 6. -/
def accRowOk (f : Fmt) (row : BitVec 16) : Bool :=
  (f == .f32 && decide (row.toNat < 64)) || (f == .cf32 && decide (row.toNat < 128) && decide (row.toNat % 64 < 32))

/-- A segment of 256 ÷ 2^s bytes holds at least one element (R164, R170). -/
def segOk (f : Fmt) (s : Nat) : Bool := decide (f.width ≤ 8 * (256 / 2 ^ s))

/-- A branch parcel field names parcel 2 to 31 (R43). -/
def Target.wf (t : Target) : Bool := decide (2 ≤ t.parcel.toNat)

/-- The checks of R50 and R51 that a constructor's types do not already make. Events have none. -/
def Instr.wf : Instr → Bool
  | .idle v => decide (v.toNat ≤ 30)
  | .shortParcel m _ _ => decide (m.toNat ≤ 1022)
  | .nop => true
  | .add _ _ _ => true
  | .sub _ _ _ => true
  | .mul _ _ _ => true
  | .mulh _ _ _ _ => true
  | .div _ _ _ _ => true
  | .rem _ _ _ _ => true
  | .and _ _ _ => true
  | .or _ _ _ => true
  | .xor _ _ _ => true
  | .andn _ _ _ => true
  | .shl _ _ _ => true
  | .shr _ _ _ => true
  | .sar _ _ _ => true
  | .rol _ _ _ => true
  | .min _ _ _ _ => true
  | .max _ _ _ _ => true
  | .cmp _ _ _ _ _ => true
  | .clz _ _ => true
  | .ctz _ _ => true
  | .popc _ _ => true
  | .brev _ _ => true
  | .bfx _ _ _ _ => true
  | .bfi _ _ _ _ => true
  | .ext _ _ _ _ => true
  | .move _ _ => true
  | .sel _ _ _ _ => true
  | .madd _ _ _ _ => true
  | .addi _ _ _ => true
  | .andi _ _ _ => true
  | .ori _ _ _ => true
  | .xori _ _ _ => true
  | .shli _ _ imm => decide (imm.toNat < 64)
  | .shri _ _ imm => decide (imm.toNat < 64)
  | .sari _ _ imm => decide (imm.toNat < 64)
  | .cmpi _ _ _ _ => true
  | .muli _ _ _ => true
  | .li _ _ => true
  | .lih _ _ _ _ => true
  | .fadd _ _ _ _ => true
  | .fsub _ _ _ _ => true
  | .fmul _ _ _ _ => true
  | .ffma _ _ _ _ _ => true
  | .fdiv _ _ _ _ => true
  | .fmin _ _ _ => true
  | .fmax _ _ _ => true
  | .fcmp _ _ _ _ => true
  | .fcvt _ kind rm _ => (kind != .f32f16 || rm == .rne)
  | .fsqrt _ _ _ => true
  | .fexp2 _ _ => true
  | .frcp _ _ _ => true
  | .br _ _ _ t => t.wf
  | .bri _ _ _ t => t.wf
  | .call t => t.wf
  | .ret _ => true
  | .jmpi _ p => decide (2 ≤ p.toNat)
  | .jtab _ _ t => t.wf
  | .bdec _ t => t.wf
  | .loopset _ _ t => t.wf
  | .pdisp _ _ _ t => t.wf
  | .ld _ _ _ _ _ => true
  | .lds _ sz _ _ _ => (sz != .b8)
  | .st _ _ _ _ _ => true
  | .mload _ _ n => decide (1 ≤ n.toNat ∧ n.toNat ≤ 1024)
  | .mouldf => true
  | .getc _ _ => true
  | .putc _ _ => true
  | .trap _ _ => true
  | .brk _ => true
  | .waitf _ => true
  | .sleepu _ => true
  | .halt _ => true
  | .fsc _ => true
  | .mnest _ _ e n => (decide (e.val < 4) == decide (n.toNat = 0))
  | .mform _ _ => true
  | .mgo => true
  | .mside _ _ _ _ => true
  | .mrsc a mx cl _ => (mx || (cl == .n && a == .s 0))
  | .cpy _ _ _ _ _ _ _ => true
  | .cbatch => true
  | .cwait n => decide (n.toNat ≤ 8)
  | .mark _ mask => (mask != 0)
  | .rdvw _ mask => (mask != 0)
  | .attn _ _ => true
  | .kpos _ _ _ _ _ => true
  | .kfork _ _ _ _ => true
  | .kdrop _ _ _ _ => true
  | .kmap _ _ _ _ => true
  | .cfind _ _ _ => true
  | .cput _ _ _ => true
  | .crel _ _ => true
  | .cstat => true
  | .coll _ _ => true
  | .tspawn node _ b => (node || b == .s 0)
  | .phint _ => true
  | .cresize n => decide (n.toNat ≤ 16)
  | .prow cnt _ a => (!cnt || a == .s 0)
  | .pdone op _ _ b c => (op == .admitRow || c == .s 0) && (op != .free || b == .s 0)
  | .xnop => true
  | .vadd _ _ fmt _ _ _ => (fmt.isFp || fmt == .cf32)
  | .vsub _ _ fmt _ _ _ => (fmt.isFp || fmt == .cf32)
  | .vmul _ _ fmt _ _ _ => (fmt.isFp || fmt == .cf32)
  | .vfma _ _ fmt _ _ _ _ => (fmt.isFp || fmt == .cf32)
  | .vfms _ _ fmt _ _ _ _ => (fmt.isFp || fmt == .cf32)
  | .vfnma _ _ fmt _ _ _ _ => (fmt.isFp || fmt == .cf32)
  | .vmin _ _ fmt _ _ => fmt.isFp
  | .vmax _ _ fmt _ _ => fmt.isFp
  | .vabs _ _ fmt _ => fmt.isFp
  | .vneg _ _ fmt _ => (fmt.isFp || fmt == .cf32)
  | .vdiv _ _ fmt _ _ _ => fmt.isWide
  | .vsqrt _ _ fmt _ _ => fmt.isWide
  | .vrcp _ _ fmt _ _ => fmt.isWide
  | .vrsq _ _ fmt _ _ => fmt.isWide
  | .vexp2 _ _ fmt _ => (fmt == .f32)
  | .vlog2 _ _ fmt _ _ => (fmt == .f32)
  | .vclamp _ _ fmt _ _ _ => fmt.isFp
  | .vrope _ _ fmt _ _ _ => (fmt == .f32)
  | .viadd _ _ fmt _ _ _ => fmt.isInt
  | .visub _ _ fmt _ _ _ => fmt.isInt
  | .vimul _ _ fmt _ _ _ => fmt.isInt
  | .vimulh _ _ fmt _ _ => fmt.isInt
  | .vimin _ _ fmt _ _ => fmt.isInt
  | .vimax _ _ fmt _ _ => fmt.isInt
  | .vand _ _ fmt _ _ => fmt.isInt
  | .vor _ _ fmt _ _ => fmt.isInt
  | .vxor _ _ fmt _ _ => fmt.isInt
  | .vandn _ _ fmt _ _ => fmt.isInt
  | .vshl _ _ fmt _ _ => fmt.isInt
  | .vshr _ _ fmt _ _ => fmt.isInt
  | .vsar _ _ fmt _ _ => fmt.isInt
  | .vpopc _ _ fmt _ => fmt.isInt
  | .vclz _ _ fmt _ => fmt.isInt
  | .visat _ _ fmt tgt _ => fmt.isInt && tgt.isInt && decide (tgt.width ≤ fmt.width)
  | .vaddi _ _ fmt _ _ imm => fmt.isFp && !f16IsNaN imm
  | .vmuli _ _ fmt _ _ imm => fmt.isFp && !f16IsNaN imm
  | .viaddi _ _ fmt _ _ _ => fmt.isInt
  | .vandi _ _ fmt _ _ => fmt.isInt
  | .vori _ _ fmt _ _ => fmt.isInt
  | .vshli _ _ fmt _ imm => fmt.isInt && decide (imm.toNat < fmt.width)
  | .vshri _ _ fmt _ imm => fmt.isInt && decide (imm.toNat < fmt.width)
  | .vcvt _ _ fmt _ dst _ => fmt.isConv && dst.isConv && (dst.width == fmt.width)
  | .vpack _ _ fmt _ dst q _ _ c => fmt.isConv && dst.isConv && packOk fmt.width dst.width q.val && (fmt.width != 2 * dst.width || c == .v 0)
  | .vunpk _ _ fmt _ dst q _ => fmt.isConv && dst.isConv && unpkOk fmt.width dst.width q.val
  | .vcbdec _ _ fmt g _ => fmt.isWide && (fmt == .f32 || decide (g.val < 8))
  | .vscale _ _ fmt _ _ _ => fmt.isWide
  | .vkeyx _ _ fmt _ _ => fmt.isWide
  | .vdigit _ _ fmt _ _ _ => (fmt == .u32 || fmt == .u16 || fmt == .u8)
  | .vcmp pd _ cop fmt h _ _ => (pd != 0) && fmt.isConv && (cop != .un || fmt.isFp) && decide (h.val < 32 / fmt.width)
  | .vcmpi pd _ cop fmt _ imm => (pd != 0) && fmt.isConv && (cop != .un || fmt.isFp) && (!fmt.isFp || !f16IsNaN imm)
  | .pand pd _ _ => (pd != 0)
  | .por pd _ _ => (pd != 0)
  | .pxor pd _ _ => (pd != 0)
  | .pnot pd _ => (pd != 0)
  | .pcnt _ => true
  | .pfirst pd _ => (pd != 0)
  | .vrsum _ _ fmt _ _ => (fmt.isWide || (fmt.isInt && decide (8 ≤ fmt.width)))
  | .vrmax _ _ fmt _ _ => (fmt.isWide || (fmt.isInt && decide (8 ≤ fmt.width)))
  | .vrmin _ _ fmt _ _ => (fmt.isWide || (fmt.isInt && decide (8 ≤ fmt.width)))
  | .vargmax _ _ fmt _ _ => (fmt.isWide || (fmt.isInt && decide (8 ≤ fmt.width)))
  | .vargmin _ _ fmt _ _ => (fmt.isWide || (fmt.isInt && decide (8 ≤ fmt.width)))
  | .vscan _ _ fmt _ => (fmt == .f32 || fmt == .i32 || fmt == .u32)
  | .vhist _ _ fmt _ _ => (fmt == .u32 || fmt == .u16 || fmt == .u8)
  | .vmov _ _ _ _ => true
  | .vsel _ _ _ _ _ _ => true
  | .vperm _ _ fmt _ _ => (fmt != .i4 && fmt != .e2m1)
  | .vrot _ _ _ _ _ => true
  | .vbcast _ _ _ _ _ => true
  | .vcompress _ _ fmt _ _ => (fmt == .f32 || fmt == .i32 || fmt == .u32)
  | .vexpand _ _ fmt _ _ => (fmt == .f32 || fmt == .i32 || fmt == .u32)
  | .vlane fmt _ k => decide (k.toNat < fmt.count)
  | .vins _ _ fmt _ _ k => decide (k.toNat < fmt.count)
  | .defer _ _ _ => true
  | .drain _ _ => true
  | .dcount => true
  | .dclear => true
  | .accrd _ _ row _ fmt => accRowOk fmt row
  | .accwr _ _ row _ fmt => accRowOk fmt row
  | .accz _ => true
  | .siderd _ _ _ _ => true
  | .xjmp t => t.wf
  | .xbdec _ t => t.wf
  | .xloopset _ _ t => t.wf
  | .xbany _ t => t.wf
  | .xbnone _ t => t.wf
  | .xmouldf => true
  | .lnop => true
  | .ldq _ _ _ fmt cnt _ _ => (fmt != .cf32 || cnt.toNat % 2 == 0)
  | .ldqb _ _ _ fmt _ _ => fmt.byteWide
  | .ldqs _ _ _ fmt cnt _ _ => fmt.byteWide && decide (cnt.toNat ≤ fmt.count)
  | .ldqg _ _ _ fmt _ => (fmt == .f32 || fmt == .i32 || fmt == .u32)
  | .lgen _ _ _ fmt s => segOk fmt s.val
  | .ldqk _ _ _ fmt _ _ => (fmt == .bf16 || fmt == .e4m3)
  | .lpf _ _ _ _ _ => true
  | .agset _ _ => true
  | .agidx _ => true
  | .agrst _ => true
  | .laddi _ _ _ => true
  | .lmovi _ _ => true
  | .ladd _ _ => true
  | .lpopc _ => true
  | .lgcb _ => true
  | .cbclr _ => true
  | .cbget _ => true
  | .ljmp t => t.wf
  | .lbdec _ t => t.wf
  | .lloopset _ _ t => t.wf
  | .lmouldf => true
  | .snop => true
  | .stq _ _ _ _ _ _ => true
  | .stqs _ _ _ fmt _ _ => fmt.byteWide
  | .stqg _ _ _ fmt _ => (fmt == .f32 || fmt == .i32 || fmt == .u32)
  | .sgen _ _ _ fmt _ s _ => segOk fmt s.val
  | .stn _ _ _ fmt _ _ _ => (fmt == .i4 || fmt == .e2m1)
  | .aadd _ _ fmt _ _ _ => (fmt == .i32 || fmt == .u32)
  | .afadd _ _ fmt _ d64 _ => (fmt == .f32 && !d64)
  | .amax _ _ fmt _ _ _ => (fmt == .i32 || fmt == .u32)
  | .amin _ _ fmt _ _ _ => (fmt == .i32 || fmt == .u32)
  | .aand _ _ fmt _ _ _ => (fmt == .i32 || fmt == .u32)
  | .aor _ _ fmt _ _ _ => (fmt == .i32 || fmt == .u32)
  | .axor _ _ fmt _ _ _ => (fmt == .i32 || fmt == .u32)
  | .axchg _ _ fmt _ _ _ => (fmt == .i32 || fmt == .u32)
  | .acas _ _ fmt _ _ _ => (fmt == .i32 || fmt == .u32)
  | .ahist _ _ _ fmt _ => (fmt == .u32)
  | .acq _ _ _ _ => true
  | .tryacq _ _ _ _ => true
  | .rel _ _ _ => true
  | .sobind _ _ _ _ => true
  | .tcinc _ _ => true
  | .saddi _ _ _ => true
  | .smovi _ _ => true
  | .sadd _ _ => true
  | .spopc _ => true
  | .sjmp t => t.wf
  | .sbdec _ t => t.wf
  | .sloopset _ _ t => t.wf
  | .smouldf => true
  | .resultLanding => true
  | .channelEntryLanding => true
  | .accessPerform => true
  | .translationWalkEnd => true
  | .joinedGroupStart => true
  | .taskLaunch => true
  | .taskEnd => true
  | .deadline => true
  | .frameBoundary => true
  | .sleepuWake => true
  | .waitfWake => true
  | .rdvwWake => true
  | .cwaitWake => true
  | .cstatWake => true
  | .fenceComplete => true
  | .mouldEntryWrite => true
  | .formatQueueEntry => true
  | .tctlResume => true
  | .tctlEnd => true
  | .handlerModeEnd => true
  | .supervisorDisposition => true
  | .holdReachesMember => true
  | .releaseStart => true
  | .releaseReachesMember => true
  | .landingBufferArrival => true
  | .vaultOverrun => true
  | .releasePoint => true
  | .acqPerform => true
  | .acqSuccess => true
  | .tryacqPerform => true
  | .sobindPerform => true
  | .atomicPerform => true
  | .ahistPerform => true
  | .markerRetire => true
  | .scrubStep => true
  | .cresizeStart => true
  | .cresizeComplete => true
  | .copyBeatRead => true
  | .copyBeatWrite => true
  | .copyComplete => true
  | .matrixCommandStart => true
  | .matrixBlockRead => true
  | .matrixBlockAdd => true
  | .matrixScoreStep => true
  | .msideLoadWrite => true
  | .mrscWrite => true
  | .ldqkEntryRead => true
  | .pageEntryRead => true
  | .pageEntryApply => true
  | .kmapWrite => true
  | .attnStart => true
  | .attnBlockRead => true
  | .attnOperandRead => true
  | .attnEntryRead => true
  | .attnBitmapRead => true
  | .attnSignatureRead => true
  | .attnPageRead => true
  | .attnComplete => true
  | .castRequestStart => true
  | .castStartStep => true
  | .castChunkStep => true
  | .castProbeStep => true
  | .castConfirmStep => true
  | .castAllocateStep => true
  | .castEvictStep => true
  | .castDepositStep => true
  | .castRequestFinish => true
  | .nodeDispatch => true
  | .controlNodeEvaluate => true
  | .placementClaim => true
  | .placementReply => true
  | .placementGo => true
  | .errorTokenStep => true
  | .tspawnApply => true
  | .preemptStop => true
  | .saveBeat => true
  | .saveComplete => true
  | .taskRestore => true
  | .slotBoundary => true
  | .mapPublish => true
  | .panelBeatSend => true
  | .panelBeatLand => true
  | .pdoneApply => true
  | .dieLoss => true
  | .flitArrival => true
  | .slackSlotRetry => true
  | .retryOverrun => true
  | .alignmentFlit => true
  | .alignmentBarrier => true
  | .collBlockRead => true
  | .collMemberStart => true
  | .collSourceBeat => true
  | .collDestBeat => true
  | .collComplete => true
  | .chunkRelease => true
  | .tcincApply => true
  | .cqtailDoorbell => true
  | .cqctlWrite => true
  | .devstatClear => true
  | .hostBar2Read => true
  | .hostBar2Write => true
  | .identify => true
  | .negotiate => true
  | .resetFunction => true
  | .resetDie => true
  | .resetDomain => true
  | .writeCmd => true
  | .readCmd => true
  | .mapCmd => true
  | .unmapCmd => true
  | .launchGraph => true
  | .freezeGraph => true
  | .freeGraph => true
  | .query => true
  | .friezeForm => true
  | .friezeLoad => true
  | .alignCmd => true
  | .remapSpares => true
  | .counters => true
  | .haltCommand => true
  | .haltCommandComplete => true
  | .resume => true
  | .peek => true
  | .poke => true
  | .eventCmd => true
  | .eventPost => true
  | .powerOn => true
  | .romBoot => true
  | .fuseRemap => true
  | .linkTraining => true
  | .spareRemapApply => true
  | .thermalStep => true
  | .thermalShutdown => true
  | .reservedOpcode => true
  | .reservedCommand => true

end Sys2Proof
end

