-- ==== Sys2Proof/Decode.lean ====
section
/-! DEFINITION. The decoder of long words and parcels (R22, R30 to R51, R57), total on any bits and refusing by name,
and after it the encoder, from the same tables. -/

namespace Sys2Proof

/-- Why a pattern is not an instruction (R50); every one of these is ILLEGAL. -/
inductive DecodeErr where
  /-- The cluster's opcode grid marks the opcode reserved (R45 to R48). -/
  | reservedOpcode
  /-- A reserved operand, destination or sub-field code (R34). -/
  | reservedField
  /-- A bit that the format marks 0, or a field the instruction does not use, is not as it must be (R34). -/
  | nonZeroBits
  /-- A field value that the instruction does not accept (R44, R50). -/
  | badField
  /-- TM = 11 (R25). -/
  | badTiming
  /-- A long word that begins at parcel 29, 30 or 31 (R22). -/
  | straddle
  /-- No parcel to read. -/
  | noParcel
  deriving DecidableEq, Repr

/-- Bits [lo + n − 1 : lo] of w. -/
def fld (w lo n : Nat) : Nat := w / 2 ^ lo % 2 ^ n

/-- A one-bit field, or a wider one that accepts only 0 and 1. -/
def decBool (n : Nat) : Option Bool := if n = 0 then some false else if n = 1 then some true else none
def encBool (b : Bool) : Nat := if b then 1 else 0

/-- A register number below m. -/
def decFin (m n : Nat) : Option (Fin m) := if h : n < m then some ⟨n, h⟩ else none

/-- The C operand codes (R35). -/
def decCSrc (n : Nat) : Option CSrc :=
  if h : n < 32 then some (.s ⟨n, h⟩)
  else if h : n - 32 < 16 then some (.h ⟨n - 32, h⟩)
  else if n = 48 then some .zero
  else if n = 49 then some .fcyc
  else if n = 50 then some .tclk
  else if n = 51 then some .coreid
  else if n = 52 then some .dieid
  else if n = 53 then some .xq
  else if n = 55 then some .lq
  else if n = 56 then some .sr
  else none
def encCSrc : CSrc → Nat
  | .s r => r.val | .h k => 32 + k.val | .zero => 48 | .fcyc => 49 | .tclk => 50 | .coreid => 51 | .dieid => 52
  | .xq => 53 | .lq => 55 | .sr => 56

/-- The also codes (R36). -/
def decCDst (n : Nat) : Option CDst :=
  if h : n < 32 then some (.s ⟨n, h⟩)
  else if n = 60 then some .cs
  else if n = 61 then some .cl
  else if n = 62 then some .cq
  else if n = 63 then some .none
  else none
def encCDst : CDst → Nat
  | .s r => r.val | .cs => 60 | .cl => 61 | .cq => 62 | .none => 63

/-- The X source codes (R38). -/
def decXSrc (n : Nat) : Option XSrc :=
  if h : n < 16 then some (.v ⟨n, h⟩)
  else if h : n - 16 < 16 then some (.h ⟨n - 16, h⟩)
  else if h : n - 32 < 8 then some (.oq ⟨n - 32, h⟩)
  else if n = 40 then some .cq
  else if n = 48 then some .zero
  else if n = 49 then some .lane
  else none
def encXSrc : XSrc → Nat
  | .v r => r.val | .h k => 16 + k.val | .oq q => 32 + q.val | .cq => 40 | .zero => 48 | .lane => 49

/-- The vd codes (R38). -/
def decXDst (n : Nat) : Option XDst :=
  if h : n < 16 then some (.v ⟨n, h⟩)
  else if h : n - 16 < 4 then some (.sq ⟨n - 16, h⟩)
  else if n = 31 then some .none
  else none
def encXDst : XDst → Nat
  | .v r => r.val | .sq q => 16 + q.val | .none => 31

/-- The group field of AGSET (R161). -/
def decAgGroup (n : Nat) : Option AgGroup :=
  if n = 0 then some .base
  else if h : n - 1 < 4 then some (.dim ⟨n - 1, h⟩)
  else if n = 5 then some .ind
  else if n = 6 then some .bound
  else none
def encAgGroup : AgGroup → Nat
  | .base => 0 | .dim d => 1 + d.val | .ind => 5 | .bound => 6

/-- The target fields of CB and QB, line [22:5] and parcel [4:0] (R37, R42). -/
def decTarget (n : Nat) : Option Target := some ⟨BitVec.ofNat 18 (n / 32), BitVec.ofNat 5 n⟩
def encTarget (t : Target) : Nat := t.line.toNat * 32 + t.parcel.toNat

/-- The inc field of STN (R172): 00, or 11 for .step. -/
def decStnInc (n : Nat) : Option Bool := if n = 0 then some false else if n = 3 then some true else none
def encStnInc (b : Bool) : Nat := if b then 3 else 0

/-- The codes of Cls. -/
def decCls (n : Nat) : Option Cls :=
  match n with
  | 0 => some .n | 1 => some .d | 2 => some .p | 3 => some .f
  | _ => none
def encCls : Cls → Nat
  | .n => 0 | .d => 1 | .p => 2 | .f => 3

/-- The codes of Size. -/
def decSize (n : Nat) : Option Size :=
  match n with
  | 0 => some .b1 | 1 => some .b2 | 2 => some .b4 | 3 => some .b8
  | _ => none
def encSize : Size → Nat
  | .b1 => 0 | .b2 => 1 | .b4 => 2 | .b8 => 3

/-- The codes of Cond. -/
def decCond (n : Nat) : Option Cond :=
  match n with
  | 0 => some .always | 1 => some .eq | 2 => some .ne | 3 => some .lt | 4 => some .ge | 5 => some .ltu
  | 6 => some .geu | 7 => some .gt | 8 => some .le | 9 => some .gtu | 10 => some .leu | 11 => some .tz
  | 12 => some .tnz
  | _ => none
def encCond : Cond → Nat
  | .always => 0 | .eq => 1 | .ne => 2 | .lt => 3 | .ge => 4 | .ltu => 5 | .geu => 6 | .gt => 7
  | .le => 8 | .gtu => 9 | .leu => 10 | .tz => 11 | .tnz => 12

/-- The codes of CmpiCond. -/
def decCmpiCond (n : Nat) : Option CmpiCond :=
  match n with
  | 0 => some .eq | 1 => some .ne | 2 => some .lt | 3 => some .ge | 4 => some .ltu | 5 => some .geu
  | 6 => some .bound
  | _ => none
def encCmpiCond : CmpiCond → Nat
  | .eq => 0 | .ne => 1 | .lt => 2 | .ge => 3 | .ltu => 4 | .geu => 5 | .bound => 6

/-- The codes of ExtW. -/
def decExtW (n : Nat) : Option ExtW :=
  match n with
  | 0 => some .w8 | 1 => some .w16 | 2 => some .w32
  | _ => none
def encExtW : ExtW → Nat
  | .w8 => 0 | .w16 => 1 | .w32 => 2

/-- The codes of FcmpCond. -/
def decFcmpCond (n : Nat) : Option FcmpCond :=
  match n with
  | 0 => some .eq | 1 => some .lt | 2 => some .le | 3 => some .un | 4 => some .ne
  | _ => none
def encFcmpCond : FcmpCond → Nat
  | .eq => 0 | .lt => 1 | .le => 2 | .un => 3 | .ne => 4

/-- The codes of FcvtKind. -/
def decFcvtKind (n : Nat) : Option FcvtKind :=
  match n with
  | 0 => some .i32f32 | 1 => some .u32f32 | 2 => some .i64f32 | 3 => some .f32i32 | 4 => some .f32u32 | 5 => some .f32i64
  | 6 => some .f16f32 | 7 => some .f32f16
  | _ => none
def encFcvtKind : FcvtKind → Nat
  | .i32f32 => 0 | .u32f32 => 1 | .i64f32 => 2 | .f32i32 => 3 | .f32u32 => 4 | .f32i64 => 5 | .f16f32 => 6 | .f32f16 => 7

/-- The codes of VCmp. -/
def decVCmp (n : Nat) : Option VCmp :=
  match n with
  | 0 => some .eq | 1 => some .ne | 2 => some .lt | 3 => some .le | 4 => some .gt | 5 => some .ge
  | 6 => some .un
  | _ => none
def encVCmp : VCmp → Nat
  | .eq => 0 | .ne => 1 | .lt => 2 | .le => 3 | .gt => 4 | .ge => 5 | .un => 6

/-- The codes of Scope. -/
def decScope (n : Nat) : Option Scope :=
  match n with
  | 0 => some .core | 1 => some .die | 2 => some .module | 3 => some .domain
  | _ => none
def encScope : Scope → Nat
  | .core => 0 | .die => 1 | .module => 2 | .domain => 3

/-- The codes of Inc. -/
def decInc (n : Nat) : Option Inc :=
  match n with
  | 0 => some .keep | 1 => some .post | 2 => some .pre | 3 => some .step
  | _ => none
def encInc : Inc → Nat
  | .keep => 0 | .post => 1 | .pre => 2 | .step => 3

/-- The codes of SInc. -/
def decSInc (n : Nat) : Option SInc :=
  match n with
  | 0 => some .keep | 1 => some .elem | 2 => some .span
  | _ => none
def encSInc : SInc → Nat
  | .keep => 0 | .elem => 1 | .span => 2

/-- The codes of DrainSel. -/
def decDrainSel (n : Nat) : Option DrainSel :=
  match n with
  | 0 => some .take | 1 => some .key | 2 => some .peek
  | _ => none
def encDrainSel : DrainSel → Nat
  | .take => 0 | .key => 1 | .peek => 2

/-- The codes of FzLane. -/
def decFzLane (n : Nat) : Option FzLane :=
  match n with
  | 0 => some .e | 1 => some .w
  | _ => none
def encFzLane : FzLane → Nat
  | .e => 0 | .w => 1

/-- The codes of PdoneOp. -/
def decPdoneOp (n : Nat) : Option PdoneOp :=
  match n with
  | 0 => some .adv | 1 => some .admitRow | 2 => some .free
  | _ => none
def encPdoneOp : PdoneOp → Nat
  | .adv => 0 | .admitRow => 1 | .free => 2

/-- The codes of Rm. -/
def decRm (n : Nat) : Option Rm :=
  match n with
  | 0 => some .rne | 1 => some .rtz | 2 => some .rdn | 3 => some .rup | 4 => some .rna
  | _ => none
def encRm : Rm → Nat
  | .rne => 0 | .rtz => 1 | .rdn => 2 | .rup => 3 | .rna => 4

/-- The codes of Fmt. -/
def decFmt (n : Nat) : Option Fmt :=
  match n with
  | 0 => some .f32 | 1 => some .bf16 | 2 => some .f16 | 3 => some .e4m3 | 4 => some .e5m2 | 5 => some .e2m1
  | 6 => some .i32 | 7 => some .i16 | 8 => some .i8 | 9 => some .i4 | 10 => some .u32 | 11 => some .u16
  | 12 => some .u8 | 13 => some .cb2 | 14 => some .cf32
  | _ => none
def encFmt : Fmt → Nat
  | .f32 => 0 | .bf16 => 1 | .f16 => 2 | .e4m3 => 3 | .e5m2 => 4 | .e2m1 => 5 | .i32 => 6 | .i16 => 7
  | .i8 => 8 | .i4 => 9 | .u32 => 10 | .u16 => 11 | .u8 => 12 | .cb2 => 13 | .cf32 => 14

/-- The codes of Cluster. -/
def decCluster (n : Nat) : Option Cluster :=
  match n with
  | 0 => some .c | 1 => some .l | 2 => some .x | 3 => some .s
  | _ => none
def encCluster : Cluster → Nat
  | .c => 0 | .l => 1 | .x => 2 | .s => 3

/-- The codes of SysReg. -/
def decSysReg (n : Nat) : Option SysReg :=
  match n with
  | 0 => some .frameno | 1 => some .framecnt | 2 => some .taskclk | 3 => some .tbase | 4 => some .imagebase | 5 => some .imagelen
  | 8 => some .mouldbase | 9 => some .mouldlen | 10 => some .clusters | 11 => some .qocc0 | 12 => some .qocc1 | 13 => some .cbtab
  | 14 => some .ropetab | 15 => some .budget | 16 => some .argbase | 17 => some .taskinfo | 18 => some .ptroot | 19 => some .vaultcfg
  | 20 => some .memerr | 21 => some .flat | 22 => some .walkinfo | 23 => some .rdv | 24 => some .cpystat | 25 => some .pfcnt0
  | 26 => some .pfcnt1 | 27 => some .pfhist0 | 28 => some .pfhist1 | 29 => some .formqdepth | 30 => some .mrowp | 31 => some .mseq
  | 32 => some .domtag | 33 => some .kvstat | 34 => some .castq | 35 => some .tcause | 36 => some .tinfo | 37 => some .trapline
  | 38 => some .tvec | 39 => some .tctl | 40 => some .holdlag | 41 => some .holdinfo | 42 => some .ifqocc | 43 => some .preemptst
  | 44 => some .savebase | 45 => some .savelen | 48 => some .fzcfge | 49 => some .fzcfgw | 50 => some .fzcure | 51 => some .fzrete
  | 52 => some .fzcurw | 53 => some .fzretw | 54 => some .fzbasee | 55 => some .fzbasew | 56 => some .fzplace | 57 => some .fzstat
  | 64 => some .dominfo | 65 => some .collst
  | _ => none
def encSysReg : SysReg → Nat
  | .frameno => 0 | .framecnt => 1 | .taskclk => 2 | .tbase => 3 | .imagebase => 4 | .imagelen => 5 | .mouldbase => 8 | .mouldlen => 9
  | .clusters => 10 | .qocc0 => 11 | .qocc1 => 12 | .cbtab => 13 | .ropetab => 14 | .budget => 15 | .argbase => 16 | .taskinfo => 17
  | .ptroot => 18 | .vaultcfg => 19 | .memerr => 20 | .flat => 21 | .walkinfo => 22 | .rdv => 23 | .cpystat => 24 | .pfcnt0 => 25
  | .pfcnt1 => 26 | .pfhist0 => 27 | .pfhist1 => 28 | .formqdepth => 29 | .mrowp => 30 | .mseq => 31 | .domtag => 32 | .kvstat => 33
  | .castq => 34 | .tcause => 35 | .tinfo => 36 | .trapline => 37 | .tvec => 38 | .tctl => 39 | .holdlag => 40 | .holdinfo => 41
  | .ifqocc => 42 | .preemptst => 43 | .savebase => 44 | .savelen => 45 | .fzcfge => 48 | .fzcfgw => 49 | .fzcure => 50 | .fzrete => 51
  | .fzcurw => 52 | .fzretw => 53 | .fzbasee => 54 | .fzbasew => 55 | .fzplace => 56 | .fzstat => 57 | .dominfo => 64 | .collst => 65

/-- A cluster's code in a link word and in TRAPLINE, and its place in the order C, L, X, S (R31, R121, R307). -/
abbrev Cluster.idx : Cluster → Nat := encCluster

def decC_Nop (_bf : Nat) : Option Instr := some .nop

def decC_Add (bf : Nat) : Option Instr := do
  let d ← decCDst (fld bf 33 6)
  let a ← decCSrc (fld bf 27 6)
  let b ← decCSrc (fld bf 21 6)
  return .add d a b

def decC_Sub (bf : Nat) : Option Instr := do
  let d ← decCDst (fld bf 33 6)
  let a ← decCSrc (fld bf 27 6)
  let b ← decCSrc (fld bf 21 6)
  return .sub d a b

def decC_Mul (bf : Nat) : Option Instr := do
  let d ← decCDst (fld bf 33 6)
  let a ← decCSrc (fld bf 27 6)
  let b ← decCSrc (fld bf 21 6)
  return .mul d a b

def decC_Mulh (bf : Nat) : Option Instr := do
  let d ← decCDst (fld bf 33 6)
  let u ← decBool (fld bf 9 1)
  let a ← decCSrc (fld bf 27 6)
  let b ← decCSrc (fld bf 21 6)
  return .mulh d u a b

def decC_Div (bf : Nat) : Option Instr := do
  let d ← decCDst (fld bf 33 6)
  let u ← decBool (fld bf 9 1)
  let a ← decCSrc (fld bf 27 6)
  let b ← decCSrc (fld bf 21 6)
  return .div d u a b

def decC_Rem (bf : Nat) : Option Instr := do
  let d ← decCDst (fld bf 33 6)
  let u ← decBool (fld bf 9 1)
  let a ← decCSrc (fld bf 27 6)
  let b ← decCSrc (fld bf 21 6)
  return .rem d u a b

def decC_And (bf : Nat) : Option Instr := do
  let d ← decCDst (fld bf 33 6)
  let a ← decCSrc (fld bf 27 6)
  let b ← decCSrc (fld bf 21 6)
  return .and d a b

def decC_Or (bf : Nat) : Option Instr := do
  let d ← decCDst (fld bf 33 6)
  let a ← decCSrc (fld bf 27 6)
  let b ← decCSrc (fld bf 21 6)
  return .or d a b

def decC_Xor (bf : Nat) : Option Instr := do
  let d ← decCDst (fld bf 33 6)
  let a ← decCSrc (fld bf 27 6)
  let b ← decCSrc (fld bf 21 6)
  return .xor d a b

def decC_Andn (bf : Nat) : Option Instr := do
  let d ← decCDst (fld bf 33 6)
  let a ← decCSrc (fld bf 27 6)
  let b ← decCSrc (fld bf 21 6)
  return .andn d a b

def decC_Shl (bf : Nat) : Option Instr := do
  let d ← decCDst (fld bf 33 6)
  let a ← decCSrc (fld bf 27 6)
  let b ← decCSrc (fld bf 21 6)
  return .shl d a b

def decC_Shr (bf : Nat) : Option Instr := do
  let d ← decCDst (fld bf 33 6)
  let a ← decCSrc (fld bf 27 6)
  let b ← decCSrc (fld bf 21 6)
  return .shr d a b

def decC_Sar (bf : Nat) : Option Instr := do
  let d ← decCDst (fld bf 33 6)
  let a ← decCSrc (fld bf 27 6)
  let b ← decCSrc (fld bf 21 6)
  return .sar d a b

def decC_Rol (bf : Nat) : Option Instr := do
  let d ← decCDst (fld bf 33 6)
  let a ← decCSrc (fld bf 27 6)
  let b ← decCSrc (fld bf 21 6)
  return .rol d a b

def decC_Min (bf : Nat) : Option Instr := do
  let d ← decCDst (fld bf 33 6)
  let u ← decBool (fld bf 9 1)
  let a ← decCSrc (fld bf 27 6)
  let b ← decCSrc (fld bf 21 6)
  return .min d u a b

def decC_Max (bf : Nat) : Option Instr := do
  let d ← decCDst (fld bf 33 6)
  let u ← decBool (fld bf 9 1)
  let a ← decCSrc (fld bf 27 6)
  let b ← decCSrc (fld bf 21 6)
  return .max d u a b

def decC_Cmp (bf : Nat) : Option Instr := do
  let d ← decCDst (fld bf 33 6)
  let bound ← decBool (fld bf 13 1)
  let cc ← decCond (fld bf 9 4)
  let a ← decCSrc (fld bf 27 6)
  let b ← decCSrc (fld bf 21 6)
  return .cmp d bound cc a b

def decC_Clz (bf : Nat) : Option Instr := do
  let d ← decCDst (fld bf 33 6)
  let a ← decCSrc (fld bf 27 6)
  return .clz d a

def decC_Ctz (bf : Nat) : Option Instr := do
  let d ← decCDst (fld bf 33 6)
  let a ← decCSrc (fld bf 27 6)
  return .ctz d a

def decC_Popc (bf : Nat) : Option Instr := do
  let d ← decCDst (fld bf 33 6)
  let a ← decCSrc (fld bf 27 6)
  return .popc d a

def decC_Brev (bf : Nat) : Option Instr := do
  let d ← decCDst (fld bf 33 6)
  let a ← decCSrc (fld bf 27 6)
  return .brev d a

def decC_Bfx (bf : Nat) : Option Instr := do
  let d ← decCDst (fld bf 33 6)
  let u ← decBool (fld bf 9 1)
  let a ← decCSrc (fld bf 27 6)
  let b ← decCSrc (fld bf 21 6)
  return .bfx d u a b

def decC_Bfi (bf : Nat) : Option Instr := do
  let d ← decCDst (fld bf 33 6)
  let a ← decCSrc (fld bf 27 6)
  let b ← decCSrc (fld bf 21 6)
  let c ← decCSrc (fld bf 15 6)
  return .bfi d a b c

def decC_Ext (bf : Nat) : Option Instr := do
  let d ← decCDst (fld bf 33 6)
  let w ← decExtW (fld bf 10 2)
  let u ← decBool (fld bf 9 1)
  let a ← decCSrc (fld bf 27 6)
  return .ext d w u a

def decC_Move (bf : Nat) : Option Instr := do
  let d ← decCDst (fld bf 33 6)
  let a ← decCSrc (fld bf 27 6)
  return .move d a

def decC_Sel (bf : Nat) : Option Instr := do
  let d ← decCDst (fld bf 33 6)
  let a ← decCSrc (fld bf 27 6)
  let b ← decCSrc (fld bf 21 6)
  let c ← decCSrc (fld bf 15 6)
  return .sel d a b c

def decC_Madd (bf : Nat) : Option Instr := do
  let d ← decCDst (fld bf 33 6)
  let a ← decCSrc (fld bf 27 6)
  let b ← decCSrc (fld bf 21 6)
  let c ← decCSrc (fld bf 15 6)
  return .madd d a b c

def decC_Addi (bf : Nat) : Option Instr := do
  let d ← decCDst (fld bf 33 6)
  let a ← decCSrc (fld bf 27 6)
  let imm ← some (BitVec.ofNat 24 (fld bf 3 24))
  return .addi d a imm

def decC_Andi (bf : Nat) : Option Instr := do
  let d ← decCDst (fld bf 33 6)
  let a ← decCSrc (fld bf 27 6)
  let imm ← some (BitVec.ofNat 24 (fld bf 3 24))
  return .andi d a imm

def decC_Ori (bf : Nat) : Option Instr := do
  let d ← decCDst (fld bf 33 6)
  let a ← decCSrc (fld bf 27 6)
  let imm ← some (BitVec.ofNat 24 (fld bf 3 24))
  return .ori d a imm

def decC_Xori (bf : Nat) : Option Instr := do
  let d ← decCDst (fld bf 33 6)
  let a ← decCSrc (fld bf 27 6)
  let imm ← some (BitVec.ofNat 24 (fld bf 3 24))
  return .xori d a imm

def decC_Shli (bf : Nat) : Option Instr := do
  let d ← decCDst (fld bf 33 6)
  let a ← decCSrc (fld bf 27 6)
  let imm ← some (BitVec.ofNat 24 (fld bf 3 24))
  return .shli d a imm

def decC_Shri (bf : Nat) : Option Instr := do
  let d ← decCDst (fld bf 33 6)
  let a ← decCSrc (fld bf 27 6)
  let imm ← some (BitVec.ofNat 24 (fld bf 3 24))
  return .shri d a imm

def decC_Sari (bf : Nat) : Option Instr := do
  let d ← decCDst (fld bf 33 6)
  let a ← decCSrc (fld bf 27 6)
  let imm ← some (BitVec.ofNat 24 (fld bf 3 24))
  return .sari d a imm

def decC_Cmpi (bf : Nat) : Option Instr := do
  let d ← decCDst (fld bf 33 6)
  let cc ← decCmpiCond (fld bf 0 3)
  let a ← decCSrc (fld bf 27 6)
  let imm ← some (BitVec.ofNat 24 (fld bf 3 24))
  return .cmpi d cc a imm

def decC_Muli (bf : Nat) : Option Instr := do
  let d ← decCDst (fld bf 33 6)
  let a ← decCSrc (fld bf 27 6)
  let imm ← some (BitVec.ofNat 24 (fld bf 3 24))
  return .muli d a imm

def decC_Li (bf : Nat) : Option Instr := do
  let d ← decCDst (fld bf 33 6)
  let imm ← some (BitVec.ofNat 33 (fld bf 0 33))
  return .li d imm

def decC_Lih (bf : Nat) : Option Instr := do
  let d ← decCDst (fld bf 33 6)
  let hi ← decBool (fld bf 0 1)
  let a ← decCSrc (fld bf 27 6)
  let imm ← some (BitVec.ofNat 24 (fld bf 3 24))
  return .lih d hi a imm

def decC_Fadd (bf : Nat) : Option Instr := do
  let d ← decCDst (fld bf 33 6)
  let rm ← decRm (fld bf 9 3)
  let a ← decCSrc (fld bf 27 6)
  let b ← decCSrc (fld bf 21 6)
  return .fadd d rm a b

def decC_Fsub (bf : Nat) : Option Instr := do
  let d ← decCDst (fld bf 33 6)
  let rm ← decRm (fld bf 9 3)
  let a ← decCSrc (fld bf 27 6)
  let b ← decCSrc (fld bf 21 6)
  return .fsub d rm a b

def decC_Fmul (bf : Nat) : Option Instr := do
  let d ← decCDst (fld bf 33 6)
  let rm ← decRm (fld bf 9 3)
  let a ← decCSrc (fld bf 27 6)
  let b ← decCSrc (fld bf 21 6)
  return .fmul d rm a b

def decC_Ffma (bf : Nat) : Option Instr := do
  let d ← decCDst (fld bf 33 6)
  let rm ← decRm (fld bf 9 3)
  let a ← decCSrc (fld bf 27 6)
  let b ← decCSrc (fld bf 21 6)
  let c ← decCSrc (fld bf 15 6)
  return .ffma d rm a b c

def decC_Fdiv (bf : Nat) : Option Instr := do
  let d ← decCDst (fld bf 33 6)
  let rm ← decRm (fld bf 9 3)
  let a ← decCSrc (fld bf 27 6)
  let b ← decCSrc (fld bf 21 6)
  return .fdiv d rm a b

def decC_Fmin (bf : Nat) : Option Instr := do
  let d ← decCDst (fld bf 33 6)
  let a ← decCSrc (fld bf 27 6)
  let b ← decCSrc (fld bf 21 6)
  return .fmin d a b

def decC_Fmax (bf : Nat) : Option Instr := do
  let d ← decCDst (fld bf 33 6)
  let a ← decCSrc (fld bf 27 6)
  let b ← decCSrc (fld bf 21 6)
  return .fmax d a b

def decC_Fcmp (bf : Nat) : Option Instr := do
  let d ← decCDst (fld bf 33 6)
  let fc ← decFcmpCond (fld bf 12 3)
  let a ← decCSrc (fld bf 27 6)
  let b ← decCSrc (fld bf 21 6)
  return .fcmp d fc a b

def decC_Fcvt (bf : Nat) : Option Instr := do
  let d ← decCDst (fld bf 33 6)
  let kind ← decFcvtKind (fld bf 12 3)
  let rm ← decRm (fld bf 9 3)
  let a ← decCSrc (fld bf 27 6)
  return .fcvt d kind rm a

def decC_Fsqrt (bf : Nat) : Option Instr := do
  let d ← decCDst (fld bf 33 6)
  let rm ← decRm (fld bf 9 3)
  let a ← decCSrc (fld bf 27 6)
  return .fsqrt d rm a

def decC_Fexp2 (bf : Nat) : Option Instr := do
  let d ← decCDst (fld bf 33 6)
  let a ← decCSrc (fld bf 27 6)
  return .fexp2 d a

def decC_Frcp (bf : Nat) : Option Instr := do
  let d ← decCDst (fld bf 33 6)
  let rm ← decRm (fld bf 9 3)
  let a ← decCSrc (fld bf 27 6)
  return .frcp d rm a

def decC_Br (bf : Nat) : Option Instr := do
  let cc ← decCond (fld bf 35 4)
  let a ← decCSrc (fld bf 29 6)
  let b ← decCSrc (fld bf 23 6)
  let t ← decTarget (fld bf 0 23)
  return .br cc a b t

def decC_Bri (bf : Nat) : Option Instr := do
  let cc ← decCond (fld bf 35 4)
  let a ← decCSrc (fld bf 29 6)
  let imm ← some (BitVec.ofNat 6 (fld bf 23 6))
  let t ← decTarget (fld bf 0 23)
  return .bri cc a imm t

def decC_Call (bf : Nat) : Option Instr := do
  let t ← decTarget (fld bf 0 23)
  return .call t

def decC_Ret (bf : Nat) : Option Instr := do
  let a ← decCSrc (fld bf 29 6)
  return .ret a

def decC_Jmpi (bf : Nat) : Option Instr := do
  let a ← decCSrc (fld bf 29 6)
  let p ← some (BitVec.ofNat 5 (fld bf 0 5))
  return .jmpi a p

def decC_Jtab (bf : Nat) : Option Instr := do
  let a ← decCSrc (fld bf 29 6)
  let b ← decCSrc (fld bf 23 6)
  let t ← decTarget (fld bf 0 23)
  return .jtab a b t

def decC_Bdec (bf : Nat) : Option Instr := do
  let k ← decFin 4 (fld bf 29 6)
  let t ← decTarget (fld bf 0 23)
  return .bdec k t

def decC_Loopset (bf : Nat) : Option Instr := do
  let k ← decFin 4 (fld bf 29 6)
  let b ← decCSrc (fld bf 23 6)
  let t ← decTarget (fld bf 0 23)
  return .loopset k b t

def decC_Pdisp (bf : Nat) : Option Instr := do
  let lane ← decFzLane (fld bf 35 4)
  let a ← decCSrc (fld bf 29 6)
  let b ← decCSrc (fld bf 23 6)
  let t ← decTarget (fld bf 0 23)
  return .pdisp lane a b t

def decC_Ld (bf : Nat) : Option Instr := do
  let d ← decCDst (fld bf 33 6)
  let sz ← decSize (fld bf 2 2)
  let cl ← decCls (fld bf 0 2)
  let off ← some (BitVec.ofNat 17 (fld bf 4 17))
  let base ← decCSrc (fld bf 27 6)
  return .ld d sz cl off base

def decC_Lds (bf : Nat) : Option Instr := do
  let d ← decCDst (fld bf 33 6)
  let sz ← decSize (fld bf 2 2)
  let cl ← decCls (fld bf 0 2)
  let off ← some (BitVec.ofNat 17 (fld bf 4 17))
  let base ← decCSrc (fld bf 27 6)
  return .lds d sz cl off base

def decC_St (bf : Nat) : Option Instr := do
  let sz ← decSize (fld bf 2 2)
  let cl ← decCls (fld bf 0 2)
  let data ← decCSrc (fld bf 21 6)
  let off ← some (BitVec.ofNat 17 (fld bf 4 17))
  let base ← decCSrc (fld bf 27 6)
  return .st sz cl data off base

def decC_Mload (bf : Nat) : Option Instr := do
  let a ← decCSrc (fld bf 33 6)
  let b ← decCSrc (fld bf 27 6)
  let n ← some (BitVec.ofNat 11 (fld bf 0 11))
  return .mload a b n

def decC_Mouldf (_bf : Nat) : Option Instr := some .mouldf

def decC_Getc (bf : Nat) : Option Instr := do
  let d ← decCDst (fld bf 33 6)
  let r ← decSysReg (fld bf 15 12)
  return .getc d r

def decC_Putc (bf : Nat) : Option Instr := do
  let r ← decSysReg (fld bf 15 12)
  let a ← decCSrc (fld bf 27 6)
  return .putc r a

def decC_Trap (bf : Nat) : Option Instr := do
  let a ← decCSrc (fld bf 27 6)
  let code ← some (BitVec.ofNat 15 (fld bf 0 15))
  return .trap a code

def decC_Brk (bf : Nat) : Option Instr := do
  let code ← some (BitVec.ofNat 15 (fld bf 0 15))
  return .brk code

def decC_Waitf (bf : Nat) : Option Instr := do
  let a ← decCSrc (fld bf 27 6)
  return .waitf a

def decC_Sleepu (bf : Nat) : Option Instr := do
  let a ← decCSrc (fld bf 27 6)
  return .sleepu a

def decC_Halt (bf : Nat) : Option Instr := do
  let a ← decCSrc (fld bf 27 6)
  return .halt a

def decC_Fsc (bf : Nat) : Option Instr := do
  let sc ← decScope (fld bf 0 2)
  return .fsc sc

def decC_Mnest (bf : Nat) : Option Instr := do
  let a ← decCSrc (fld bf 33 6)
  let b ← decCSrc (fld bf 27 6)
  let e ← decFin 10 (fld bf 0 4)
  let n ← some (BitVec.ofNat 16 (fld bf 4 16))
  return .mnest a b e n

def decC_Mform (bf : Nat) : Option Instr := do
  let a ← decCSrc (fld bf 33 6)
  let r ← some (BitVec.ofNat 16 (fld bf 0 16))
  return .mform a r

def decC_Mgo (_bf : Nat) : Option Instr := some .mgo

def decC_Mside (bf : Nat) : Option Instr := do
  let a ← decCSrc (fld bf 33 6)
  let str ← decBool (fld bf 2 1)
  let cl ← decCls (fld bf 3 2)
  let t ← decFin 4 (fld bf 0 2)
  return .mside a str cl t

def decC_Mrsc (bf : Nat) : Option Instr := do
  let a ← decCSrc (fld bf 33 6)
  let mx ← decBool (fld bf 2 1)
  let cl ← decCls (fld bf 3 2)
  let t ← decFin 4 (fld bf 0 2)
  return .mrsc a mx cl t

def decC_Cpy (bf : Nat) : Option Instr := do
  let scl ← decCls (fld bf 0 2)
  let dcl ← decCls (fld bf 2 2)
  let pf ← decBool (fld bf 4 1)
  let crc ← decBool (fld bf 5 1)
  let a ← decCSrc (fld bf 33 6)
  let b ← decCSrc (fld bf 27 6)
  let c ← decCSrc (fld bf 21 6)
  return .cpy scl dcl pf crc a b c

def decC_Cbatch (_bf : Nat) : Option Instr := some .cbatch

def decC_Cwait (bf : Nat) : Option Instr := do
  let n ← some (BitVec.ofNat 4 (fld bf 0 4))
  return .cwait n

def decC_Mark (bf : Nat) : Option Instr := do
  let m ← some (BitVec.ofNat 12 (fld bf 0 12))
  let mask ← some (BitVec.ofNat 5 (fld bf 16 5))
  return .mark m mask

def decC_Rdvw (bf : Nat) : Option Instr := do
  let m ← some (BitVec.ofNat 12 (fld bf 0 12))
  let mask ← some (BitVec.ofNat 5 (fld bf 16 5))
  return .rdvw m mask

def decC_Attn (bf : Nat) : Option Instr := do
  let cl ← decCls (fld bf 0 2)
  let a ← decCSrc (fld bf 33 6)
  return .attn cl a

def decC_Kpos (bf : Nat) : Option Instr := do
  let ad ← decBool (fld bf 2 1)
  let cl ← decCls (fld bf 0 2)
  let a ← decCSrc (fld bf 33 6)
  let b ← decCSrc (fld bf 27 6)
  let n ← some (BitVec.ofNat 12 (fld bf 3 12))
  return .kpos ad cl a b n

def decC_Kfork (bf : Nat) : Option Instr := do
  let cl ← decCls (fld bf 0 2)
  let a ← decCSrc (fld bf 33 6)
  let b ← decCSrc (fld bf 27 6)
  let n ← some (BitVec.ofNat 12 (fld bf 3 12))
  return .kfork cl a b n

def decC_Kdrop (bf : Nat) : Option Instr := do
  let cl ← decCls (fld bf 0 2)
  let a ← decCSrc (fld bf 33 6)
  let b ← decCSrc (fld bf 27 6)
  let n ← some (BitVec.ofNat 12 (fld bf 3 12))
  return .kdrop cl a b n

def decC_Kmap (bf : Nat) : Option Instr := do
  let sl ← decBool (fld bf 2 1)
  let cl ← decCls (fld bf 0 2)
  let a ← decCSrc (fld bf 33 6)
  let b ← decCSrc (fld bf 27 6)
  return .kmap sl cl a b

def decC_Cfind (bf : Nat) : Option Instr := do
  let hold ← decBool (fld bf 2 1)
  let cl ← decCls (fld bf 0 2)
  let a ← decCSrc (fld bf 33 6)
  return .cfind hold cl a

def decC_Cput (bf : Nat) : Option Instr := do
  let hold ← decBool (fld bf 2 1)
  let cl ← decCls (fld bf 0 2)
  let a ← decCSrc (fld bf 33 6)
  return .cput hold cl a

def decC_Crel (bf : Nat) : Option Instr := do
  let a ← decCSrc (fld bf 33 6)
  let b ← decCSrc (fld bf 27 6)
  return .crel a b

def decC_Cstat (_bf : Nat) : Option Instr := some .cstat

def decC_Coll (bf : Nat) : Option Instr := do
  let cl ← decCls (fld bf 0 2)
  let a ← decCSrc (fld bf 33 6)
  return .coll cl a

def decC_Tspawn (bf : Nat) : Option Instr := do
  let node ← decBool (fld bf 0 1)
  let a ← decCSrc (fld bf 33 6)
  let b ← decCSrc (fld bf 27 6)
  return .tspawn node a b

def decC_Phint (bf : Nat) : Option Instr := do
  let line ← some (BitVec.ofNat 14 (fld bf 0 14))
  return .phint line

def decC_Cresize (bf : Nat) : Option Instr := do
  let n ← some (BitVec.ofNat 5 (fld bf 0 5))
  return .cresize n

def decC_Prow (bf : Nat) : Option Instr := do
  let cnt ← decBool (fld bf 0 1)
  let lane ← decFzLane (fld bf 2 1)
  let a ← decCSrc (fld bf 33 6)
  return .prow cnt lane a

def decC_Pdone (bf : Nat) : Option Instr := do
  let op ← decPdoneOp (fld bf 0 2)
  let lane ← decFzLane (fld bf 2 1)
  let a ← decCSrc (fld bf 33 6)
  let b ← decCSrc (fld bf 27 6)
  let c ← decCSrc (fld bf 21 6)
  return .pdone op lane a b c

/-- The C grid: the reader of the operand field of every assigned opcode. -/
def gridC (op b : Nat) : Option (Option Instr) :=
  match op with
  | 0 => some (decC_Nop b)
  | 1 => some (decC_Add b)
  | 2 => some (decC_Sub b)
  | 3 => some (decC_Mul b)
  | 4 => some (decC_Mulh b)
  | 5 => some (decC_Div b)
  | 6 => some (decC_Rem b)
  | 7 => some (decC_And b)
  | 8 => some (decC_Or b)
  | 9 => some (decC_Xor b)
  | 10 => some (decC_Andn b)
  | 11 => some (decC_Shl b)
  | 12 => some (decC_Shr b)
  | 13 => some (decC_Sar b)
  | 14 => some (decC_Rol b)
  | 15 => some (decC_Min b)
  | 16 => some (decC_Max b)
  | 17 => some (decC_Cmp b)
  | 18 => some (decC_Clz b)
  | 19 => some (decC_Ctz b)
  | 20 => some (decC_Popc b)
  | 21 => some (decC_Brev b)
  | 22 => some (decC_Bfx b)
  | 23 => some (decC_Bfi b)
  | 24 => some (decC_Ext b)
  | 25 => some (decC_Move b)
  | 26 => some (decC_Sel b)
  | 27 => some (decC_Madd b)
  | 32 => some (decC_Addi b)
  | 33 => some (decC_Andi b)
  | 34 => some (decC_Ori b)
  | 35 => some (decC_Xori b)
  | 36 => some (decC_Shli b)
  | 37 => some (decC_Shri b)
  | 38 => some (decC_Sari b)
  | 39 => some (decC_Cmpi b)
  | 40 => some (decC_Muli b)
  | 41 => some (decC_Li b)
  | 42 => some (decC_Lih b)
  | 48 => some (decC_Fadd b)
  | 49 => some (decC_Fsub b)
  | 50 => some (decC_Fmul b)
  | 51 => some (decC_Ffma b)
  | 52 => some (decC_Fdiv b)
  | 53 => some (decC_Fmin b)
  | 54 => some (decC_Fmax b)
  | 55 => some (decC_Fcmp b)
  | 56 => some (decC_Fcvt b)
  | 57 => some (decC_Fsqrt b)
  | 58 => some (decC_Fexp2 b)
  | 59 => some (decC_Frcp b)
  | 64 => some (decC_Br b)
  | 65 => some (decC_Bri b)
  | 66 => some (decC_Call b)
  | 67 => some (decC_Ret b)
  | 68 => some (decC_Jmpi b)
  | 69 => some (decC_Jtab b)
  | 70 => some (decC_Bdec b)
  | 71 => some (decC_Loopset b)
  | 72 => some (decC_Pdisp b)
  | 80 => some (decC_Ld b)
  | 81 => some (decC_Lds b)
  | 82 => some (decC_St b)
  | 84 => some (decC_Mload b)
  | 85 => some (decC_Mouldf b)
  | 88 => some (decC_Getc b)
  | 89 => some (decC_Putc b)
  | 90 => some (decC_Trap b)
  | 91 => some (decC_Brk b)
  | 92 => some (decC_Waitf b)
  | 93 => some (decC_Sleepu b)
  | 94 => some (decC_Halt b)
  | 95 => some (decC_Fsc b)
  | 96 => some (decC_Mnest b)
  | 97 => some (decC_Mform b)
  | 98 => some (decC_Mgo b)
  | 99 => some (decC_Mside b)
  | 100 => some (decC_Mrsc b)
  | 104 => some (decC_Cpy b)
  | 105 => some (decC_Cbatch b)
  | 106 => some (decC_Cwait b)
  | 107 => some (decC_Mark b)
  | 108 => some (decC_Rdvw b)
  | 112 => some (decC_Attn b)
  | 113 => some (decC_Kpos b)
  | 114 => some (decC_Kfork b)
  | 115 => some (decC_Kdrop b)
  | 116 => some (decC_Kmap b)
  | 118 => some (decC_Cfind b)
  | 119 => some (decC_Cput b)
  | 120 => some (decC_Crel b)
  | 121 => some (decC_Cstat b)
  | 122 => some (decC_Coll b)
  | 123 => some (decC_Tspawn b)
  | 124 => some (decC_Phint b)
  | 125 => some (decC_Cresize b)
  | 126 => some (decC_Prow b)
  | 127 => some (decC_Pdone b)
  | _ => none

def decX_Xnop (_bf : Nat) : Option Instr := some .xnop

def decX_Vadd (bf : Nat) : Option Instr := do
  let vd ← decXDst (fld bf 34 5)
  let p ← decFin 8 (fld bf 13 3)
  let fmt ← decFmt (fld bf 9 4)
  let rm ← decRm (fld bf 0 3)
  let a ← decXSrc (fld bf 28 6)
  let b ← decXSrc (fld bf 22 6)
  return .vadd vd p fmt rm a b

def decX_Vsub (bf : Nat) : Option Instr := do
  let vd ← decXDst (fld bf 34 5)
  let p ← decFin 8 (fld bf 13 3)
  let fmt ← decFmt (fld bf 9 4)
  let rm ← decRm (fld bf 0 3)
  let a ← decXSrc (fld bf 28 6)
  let b ← decXSrc (fld bf 22 6)
  return .vsub vd p fmt rm a b

def decX_Vmul (bf : Nat) : Option Instr := do
  let vd ← decXDst (fld bf 34 5)
  let p ← decFin 8 (fld bf 13 3)
  let fmt ← decFmt (fld bf 9 4)
  let rm ← decRm (fld bf 0 3)
  let a ← decXSrc (fld bf 28 6)
  let b ← decXSrc (fld bf 22 6)
  return .vmul vd p fmt rm a b

def decX_Vfma (bf : Nat) : Option Instr := do
  let vd ← decXDst (fld bf 34 5)
  let p ← decFin 8 (fld bf 13 3)
  let fmt ← decFmt (fld bf 9 4)
  let rm ← decRm (fld bf 0 3)
  let a ← decXSrc (fld bf 28 6)
  let b ← decXSrc (fld bf 22 6)
  let c ← decXSrc (fld bf 16 6)
  return .vfma vd p fmt rm a b c

def decX_Vfms (bf : Nat) : Option Instr := do
  let vd ← decXDst (fld bf 34 5)
  let p ← decFin 8 (fld bf 13 3)
  let fmt ← decFmt (fld bf 9 4)
  let rm ← decRm (fld bf 0 3)
  let a ← decXSrc (fld bf 28 6)
  let b ← decXSrc (fld bf 22 6)
  let c ← decXSrc (fld bf 16 6)
  return .vfms vd p fmt rm a b c

def decX_Vfnma (bf : Nat) : Option Instr := do
  let vd ← decXDst (fld bf 34 5)
  let p ← decFin 8 (fld bf 13 3)
  let fmt ← decFmt (fld bf 9 4)
  let rm ← decRm (fld bf 0 3)
  let a ← decXSrc (fld bf 28 6)
  let b ← decXSrc (fld bf 22 6)
  let c ← decXSrc (fld bf 16 6)
  return .vfnma vd p fmt rm a b c

def decX_Vmin (bf : Nat) : Option Instr := do
  let vd ← decXDst (fld bf 34 5)
  let p ← decFin 8 (fld bf 13 3)
  let fmt ← decFmt (fld bf 9 4)
  let a ← decXSrc (fld bf 28 6)
  let b ← decXSrc (fld bf 22 6)
  return .vmin vd p fmt a b

def decX_Vmax (bf : Nat) : Option Instr := do
  let vd ← decXDst (fld bf 34 5)
  let p ← decFin 8 (fld bf 13 3)
  let fmt ← decFmt (fld bf 9 4)
  let a ← decXSrc (fld bf 28 6)
  let b ← decXSrc (fld bf 22 6)
  return .vmax vd p fmt a b

def decX_Vabs (bf : Nat) : Option Instr := do
  let vd ← decXDst (fld bf 34 5)
  let p ← decFin 8 (fld bf 13 3)
  let fmt ← decFmt (fld bf 9 4)
  let a ← decXSrc (fld bf 28 6)
  return .vabs vd p fmt a

def decX_Vneg (bf : Nat) : Option Instr := do
  let vd ← decXDst (fld bf 34 5)
  let p ← decFin 8 (fld bf 13 3)
  let fmt ← decFmt (fld bf 9 4)
  let a ← decXSrc (fld bf 28 6)
  return .vneg vd p fmt a

def decX_Vdiv (bf : Nat) : Option Instr := do
  let vd ← decXDst (fld bf 34 5)
  let p ← decFin 8 (fld bf 13 3)
  let fmt ← decFmt (fld bf 9 4)
  let rm ← decRm (fld bf 0 3)
  let a ← decXSrc (fld bf 28 6)
  let b ← decXSrc (fld bf 22 6)
  return .vdiv vd p fmt rm a b

def decX_Vsqrt (bf : Nat) : Option Instr := do
  let vd ← decXDst (fld bf 34 5)
  let p ← decFin 8 (fld bf 13 3)
  let fmt ← decFmt (fld bf 9 4)
  let rm ← decRm (fld bf 0 3)
  let a ← decXSrc (fld bf 28 6)
  return .vsqrt vd p fmt rm a

def decX_Vrcp (bf : Nat) : Option Instr := do
  let vd ← decXDst (fld bf 34 5)
  let p ← decFin 8 (fld bf 13 3)
  let fmt ← decFmt (fld bf 9 4)
  let rm ← decRm (fld bf 0 3)
  let a ← decXSrc (fld bf 28 6)
  return .vrcp vd p fmt rm a

def decX_Vrsq (bf : Nat) : Option Instr := do
  let vd ← decXDst (fld bf 34 5)
  let p ← decFin 8 (fld bf 13 3)
  let fmt ← decFmt (fld bf 9 4)
  let rm ← decRm (fld bf 0 3)
  let a ← decXSrc (fld bf 28 6)
  return .vrsq vd p fmt rm a

def decX_Vexp2 (bf : Nat) : Option Instr := do
  let vd ← decXDst (fld bf 34 5)
  let p ← decFin 8 (fld bf 13 3)
  let fmt ← decFmt (fld bf 9 4)
  let a ← decXSrc (fld bf 28 6)
  return .vexp2 vd p fmt a

def decX_Vlog2 (bf : Nat) : Option Instr := do
  let vd ← decXDst (fld bf 34 5)
  let p ← decFin 8 (fld bf 13 3)
  let fmt ← decFmt (fld bf 9 4)
  let rm ← decRm (fld bf 0 3)
  let a ← decXSrc (fld bf 28 6)
  return .vlog2 vd p fmt rm a

def decX_Vclamp (bf : Nat) : Option Instr := do
  let vd ← decXDst (fld bf 34 5)
  let p ← decFin 8 (fld bf 13 3)
  let fmt ← decFmt (fld bf 9 4)
  let a ← decXSrc (fld bf 28 6)
  let b ← decXSrc (fld bf 22 6)
  let c ← decXSrc (fld bf 16 6)
  return .vclamp vd p fmt a b c

def decX_Vrope (bf : Nat) : Option Instr := do
  let vd ← decXDst (fld bf 34 5)
  let p ← decFin 8 (fld bf 13 3)
  let fmt ← decFmt (fld bf 9 4)
  let a ← decXSrc (fld bf 28 6)
  let b ← decXSrc (fld bf 22 6)
  let c ← decXSrc (fld bf 16 6)
  return .vrope vd p fmt a b c

def decX_Viadd (bf : Nat) : Option Instr := do
  let vd ← decXDst (fld bf 34 5)
  let p ← decFin 8 (fld bf 13 3)
  let fmt ← decFmt (fld bf 9 4)
  let sat ← decBool (fld bf 0 1)
  let a ← decXSrc (fld bf 28 6)
  let b ← decXSrc (fld bf 22 6)
  return .viadd vd p fmt sat a b

def decX_Visub (bf : Nat) : Option Instr := do
  let vd ← decXDst (fld bf 34 5)
  let p ← decFin 8 (fld bf 13 3)
  let fmt ← decFmt (fld bf 9 4)
  let sat ← decBool (fld bf 0 1)
  let a ← decXSrc (fld bf 28 6)
  let b ← decXSrc (fld bf 22 6)
  return .visub vd p fmt sat a b

def decX_Vimul (bf : Nat) : Option Instr := do
  let vd ← decXDst (fld bf 34 5)
  let p ← decFin 8 (fld bf 13 3)
  let fmt ← decFmt (fld bf 9 4)
  let sat ← decBool (fld bf 0 1)
  let a ← decXSrc (fld bf 28 6)
  let b ← decXSrc (fld bf 22 6)
  return .vimul vd p fmt sat a b

def decX_Vimulh (bf : Nat) : Option Instr := do
  let vd ← decXDst (fld bf 34 5)
  let p ← decFin 8 (fld bf 13 3)
  let fmt ← decFmt (fld bf 9 4)
  let a ← decXSrc (fld bf 28 6)
  let b ← decXSrc (fld bf 22 6)
  return .vimulh vd p fmt a b

def decX_Vimin (bf : Nat) : Option Instr := do
  let vd ← decXDst (fld bf 34 5)
  let p ← decFin 8 (fld bf 13 3)
  let fmt ← decFmt (fld bf 9 4)
  let a ← decXSrc (fld bf 28 6)
  let b ← decXSrc (fld bf 22 6)
  return .vimin vd p fmt a b

def decX_Vimax (bf : Nat) : Option Instr := do
  let vd ← decXDst (fld bf 34 5)
  let p ← decFin 8 (fld bf 13 3)
  let fmt ← decFmt (fld bf 9 4)
  let a ← decXSrc (fld bf 28 6)
  let b ← decXSrc (fld bf 22 6)
  return .vimax vd p fmt a b

def decX_Vand (bf : Nat) : Option Instr := do
  let vd ← decXDst (fld bf 34 5)
  let p ← decFin 8 (fld bf 13 3)
  let fmt ← decFmt (fld bf 9 4)
  let a ← decXSrc (fld bf 28 6)
  let b ← decXSrc (fld bf 22 6)
  return .vand vd p fmt a b

def decX_Vor (bf : Nat) : Option Instr := do
  let vd ← decXDst (fld bf 34 5)
  let p ← decFin 8 (fld bf 13 3)
  let fmt ← decFmt (fld bf 9 4)
  let a ← decXSrc (fld bf 28 6)
  let b ← decXSrc (fld bf 22 6)
  return .vor vd p fmt a b

def decX_Vxor (bf : Nat) : Option Instr := do
  let vd ← decXDst (fld bf 34 5)
  let p ← decFin 8 (fld bf 13 3)
  let fmt ← decFmt (fld bf 9 4)
  let a ← decXSrc (fld bf 28 6)
  let b ← decXSrc (fld bf 22 6)
  return .vxor vd p fmt a b

def decX_Vandn (bf : Nat) : Option Instr := do
  let vd ← decXDst (fld bf 34 5)
  let p ← decFin 8 (fld bf 13 3)
  let fmt ← decFmt (fld bf 9 4)
  let a ← decXSrc (fld bf 28 6)
  let b ← decXSrc (fld bf 22 6)
  return .vandn vd p fmt a b

def decX_Vshl (bf : Nat) : Option Instr := do
  let vd ← decXDst (fld bf 34 5)
  let p ← decFin 8 (fld bf 13 3)
  let fmt ← decFmt (fld bf 9 4)
  let a ← decXSrc (fld bf 28 6)
  let b ← decXSrc (fld bf 22 6)
  return .vshl vd p fmt a b

def decX_Vshr (bf : Nat) : Option Instr := do
  let vd ← decXDst (fld bf 34 5)
  let p ← decFin 8 (fld bf 13 3)
  let fmt ← decFmt (fld bf 9 4)
  let a ← decXSrc (fld bf 28 6)
  let b ← decXSrc (fld bf 22 6)
  return .vshr vd p fmt a b

def decX_Vsar (bf : Nat) : Option Instr := do
  let vd ← decXDst (fld bf 34 5)
  let p ← decFin 8 (fld bf 13 3)
  let fmt ← decFmt (fld bf 9 4)
  let a ← decXSrc (fld bf 28 6)
  let b ← decXSrc (fld bf 22 6)
  return .vsar vd p fmt a b

def decX_Vpopc (bf : Nat) : Option Instr := do
  let vd ← decXDst (fld bf 34 5)
  let p ← decFin 8 (fld bf 13 3)
  let fmt ← decFmt (fld bf 9 4)
  let a ← decXSrc (fld bf 28 6)
  return .vpopc vd p fmt a

def decX_Vclz (bf : Nat) : Option Instr := do
  let vd ← decXDst (fld bf 34 5)
  let p ← decFin 8 (fld bf 13 3)
  let fmt ← decFmt (fld bf 9 4)
  let a ← decXSrc (fld bf 28 6)
  return .vclz vd p fmt a

def decX_Visat (bf : Nat) : Option Instr := do
  let vd ← decXDst (fld bf 34 5)
  let p ← decFin 8 (fld bf 13 3)
  let fmt ← decFmt (fld bf 9 4)
  let tgt ← decFmt (fld bf 5 4)
  let a ← decXSrc (fld bf 28 6)
  return .visat vd p fmt tgt a

def decX_Vaddi (bf : Nat) : Option Instr := do
  let vd ← decXDst (fld bf 34 5)
  let p ← decFin 8 (fld bf 9 3)
  let fmt ← decFmt (fld bf 5 4)
  let rm ← decRm (fld bf 0 3)
  let a ← decXSrc (fld bf 28 6)
  let imm ← some (BitVec.ofNat 16 (fld bf 12 16))
  return .vaddi vd p fmt rm a imm

def decX_Vmuli (bf : Nat) : Option Instr := do
  let vd ← decXDst (fld bf 34 5)
  let p ← decFin 8 (fld bf 9 3)
  let fmt ← decFmt (fld bf 5 4)
  let rm ← decRm (fld bf 0 3)
  let a ← decXSrc (fld bf 28 6)
  let imm ← some (BitVec.ofNat 16 (fld bf 12 16))
  return .vmuli vd p fmt rm a imm

def decX_Viaddi (bf : Nat) : Option Instr := do
  let vd ← decXDst (fld bf 34 5)
  let p ← decFin 8 (fld bf 9 3)
  let fmt ← decFmt (fld bf 5 4)
  let sat ← decBool (fld bf 0 1)
  let a ← decXSrc (fld bf 28 6)
  let imm ← some (BitVec.ofNat 16 (fld bf 12 16))
  return .viaddi vd p fmt sat a imm

def decX_Vandi (bf : Nat) : Option Instr := do
  let vd ← decXDst (fld bf 34 5)
  let p ← decFin 8 (fld bf 9 3)
  let fmt ← decFmt (fld bf 5 4)
  let a ← decXSrc (fld bf 28 6)
  let imm ← some (BitVec.ofNat 16 (fld bf 12 16))
  return .vandi vd p fmt a imm

def decX_Vori (bf : Nat) : Option Instr := do
  let vd ← decXDst (fld bf 34 5)
  let p ← decFin 8 (fld bf 9 3)
  let fmt ← decFmt (fld bf 5 4)
  let a ← decXSrc (fld bf 28 6)
  let imm ← some (BitVec.ofNat 16 (fld bf 12 16))
  return .vori vd p fmt a imm

def decX_Vshli (bf : Nat) : Option Instr := do
  let vd ← decXDst (fld bf 34 5)
  let p ← decFin 8 (fld bf 9 3)
  let fmt ← decFmt (fld bf 5 4)
  let a ← decXSrc (fld bf 28 6)
  let imm ← some (BitVec.ofNat 16 (fld bf 12 16))
  return .vshli vd p fmt a imm

def decX_Vshri (bf : Nat) : Option Instr := do
  let vd ← decXDst (fld bf 34 5)
  let p ← decFin 8 (fld bf 9 3)
  let fmt ← decFmt (fld bf 5 4)
  let a ← decXSrc (fld bf 28 6)
  let imm ← some (BitVec.ofNat 16 (fld bf 12 16))
  return .vshri vd p fmt a imm

def decX_Vcvt (bf : Nat) : Option Instr := do
  let vd ← decXDst (fld bf 34 5)
  let p ← decFin 8 (fld bf 13 3)
  let fmt ← decFmt (fld bf 9 4)
  let rm ← decRm (fld bf 0 3)
  let dst ← decFmt (fld bf 5 4)
  let a ← decXSrc (fld bf 28 6)
  return .vcvt vd p fmt rm dst a

def decX_Vpack (bf : Nat) : Option Instr := do
  let vd ← decXDst (fld bf 34 5)
  let p ← decFin 8 (fld bf 13 3)
  let fmt ← decFmt (fld bf 9 4)
  let rm ← decRm (fld bf 0 3)
  let dst ← decFmt (fld bf 5 4)
  let q ← decFin 4 (fld bf 3 2)
  let a ← decXSrc (fld bf 28 6)
  let b ← decXSrc (fld bf 22 6)
  let c ← decXSrc (fld bf 16 6)
  return .vpack vd p fmt rm dst q a b c

def decX_Vunpk (bf : Nat) : Option Instr := do
  let vd ← decXDst (fld bf 34 5)
  let p ← decFin 8 (fld bf 13 3)
  let fmt ← decFmt (fld bf 9 4)
  let rm ← decRm (fld bf 0 3)
  let dst ← decFmt (fld bf 5 4)
  let q ← decFin 4 (fld bf 3 2)
  let a ← decXSrc (fld bf 28 6)
  return .vunpk vd p fmt rm dst q a

def decX_Vcbdec (bf : Nat) : Option Instr := do
  let vd ← decXDst (fld bf 34 5)
  let p ← decFin 8 (fld bf 13 3)
  let fmt ← decFmt (fld bf 9 4)
  let g ← decFin 16 (fld bf 3 4)
  let a ← decXSrc (fld bf 28 6)
  return .vcbdec vd p fmt g a

def decX_Vscale (bf : Nat) : Option Instr := do
  let vd ← decXDst (fld bf 34 5)
  let p ← decFin 8 (fld bf 13 3)
  let fmt ← decFmt (fld bf 9 4)
  let rm ← decRm (fld bf 0 3)
  let a ← decXSrc (fld bf 28 6)
  let b ← decXSrc (fld bf 22 6)
  return .vscale vd p fmt rm a b

def decX_Vkeyx (bf : Nat) : Option Instr := do
  let vd ← decXDst (fld bf 34 5)
  let p ← decFin 8 (fld bf 13 3)
  let fmt ← decFmt (fld bf 9 4)
  let inv ← decBool (fld bf 0 1)
  let a ← decXSrc (fld bf 28 6)
  return .vkeyx vd p fmt inv a

def decX_Vdigit (bf : Nat) : Option Instr := do
  let vd ← decXDst (fld bf 34 5)
  let p ← decFin 8 (fld bf 13 3)
  let fmt ← decFmt (fld bf 9 4)
  let d8 ← decBool (fld bf 0 1)
  let a ← decXSrc (fld bf 28 6)
  let b ← decXSrc (fld bf 22 6)
  return .vdigit vd p fmt d8 a b

def decX_Vcmp (bf : Nat) : Option Instr := do
  let pd ← decFin 8 (fld bf 36 3)
  let pa ← decFin 8 (fld bf 33 3)
  let cop ← decVCmp (fld bf 10 4)
  let fmt ← decFmt (fld bf 14 4)
  let h ← decFin 8 (fld bf 0 3)
  let a ← decXSrc (fld bf 24 6)
  let b ← decXSrc (fld bf 18 6)
  return .vcmp pd pa cop fmt h a b

def decX_Vcmpi (bf : Nat) : Option Instr := do
  let pd ← decFin 8 (fld bf 36 3)
  let pa ← decFin 8 (fld bf 33 3)
  let cop ← decVCmp (fld bf 10 4)
  let fmt ← decFmt (fld bf 14 4)
  let a ← decXSrc (fld bf 24 6)
  let imm ← some (BitVec.ofNat 16 (fld bf 18 6 * 1024 + fld bf 0 10))
  return .vcmpi pd pa cop fmt a imm

def decX_Pand (bf : Nat) : Option Instr := do
  let pd ← decFin 8 (fld bf 36 3)
  let pa ← decFin 8 (fld bf 33 3)
  let pb ← decFin 8 (fld bf 30 3)
  return .pand pd pa pb

def decX_Por (bf : Nat) : Option Instr := do
  let pd ← decFin 8 (fld bf 36 3)
  let pa ← decFin 8 (fld bf 33 3)
  let pb ← decFin 8 (fld bf 30 3)
  return .por pd pa pb

def decX_Pxor (bf : Nat) : Option Instr := do
  let pd ← decFin 8 (fld bf 36 3)
  let pa ← decFin 8 (fld bf 33 3)
  let pb ← decFin 8 (fld bf 30 3)
  return .pxor pd pa pb

def decX_Pnot (bf : Nat) : Option Instr := do
  let pd ← decFin 8 (fld bf 36 3)
  let pa ← decFin 8 (fld bf 33 3)
  return .pnot pd pa

def decX_Pcnt (bf : Nat) : Option Instr := do
  let pa ← decFin 8 (fld bf 33 3)
  return .pcnt pa

def decX_Pfirst (bf : Nat) : Option Instr := do
  let pd ← decFin 8 (fld bf 36 3)
  let pa ← decFin 8 (fld bf 33 3)
  return .pfirst pd pa

def decX_Vrsum (bf : Nat) : Option Instr := do
  let vd ← decXDst (fld bf 34 5)
  let p ← decFin 8 (fld bf 13 3)
  let fmt ← decFmt (fld bf 9 4)
  let x ← decBool (fld bf 3 1)
  let a ← decXSrc (fld bf 28 6)
  return .vrsum vd p fmt x a

def decX_Vrmax (bf : Nat) : Option Instr := do
  let vd ← decXDst (fld bf 34 5)
  let p ← decFin 8 (fld bf 13 3)
  let fmt ← decFmt (fld bf 9 4)
  let x ← decBool (fld bf 3 1)
  let a ← decXSrc (fld bf 28 6)
  return .vrmax vd p fmt x a

def decX_Vrmin (bf : Nat) : Option Instr := do
  let vd ← decXDst (fld bf 34 5)
  let p ← decFin 8 (fld bf 13 3)
  let fmt ← decFmt (fld bf 9 4)
  let x ← decBool (fld bf 3 1)
  let a ← decXSrc (fld bf 28 6)
  return .vrmin vd p fmt x a

def decX_Vargmax (bf : Nat) : Option Instr := do
  let vd ← decXDst (fld bf 34 5)
  let p ← decFin 8 (fld bf 13 3)
  let fmt ← decFmt (fld bf 9 4)
  let x ← decBool (fld bf 3 1)
  let a ← decXSrc (fld bf 28 6)
  return .vargmax vd p fmt x a

def decX_Vargmin (bf : Nat) : Option Instr := do
  let vd ← decXDst (fld bf 34 5)
  let p ← decFin 8 (fld bf 13 3)
  let fmt ← decFmt (fld bf 9 4)
  let x ← decBool (fld bf 3 1)
  let a ← decXSrc (fld bf 28 6)
  return .vargmin vd p fmt x a

def decX_Vscan (bf : Nat) : Option Instr := do
  let vd ← decXDst (fld bf 34 5)
  let p ← decFin 8 (fld bf 13 3)
  let fmt ← decFmt (fld bf 9 4)
  let a ← decXSrc (fld bf 28 6)
  return .vscan vd p fmt a

def decX_Vhist (bf : Nat) : Option Instr := do
  let vd ← decXDst (fld bf 34 5)
  let p ← decFin 8 (fld bf 13 3)
  let fmt ← decFmt (fld bf 9 4)
  let a ← decXSrc (fld bf 28 6)
  let b ← decXSrc (fld bf 22 6)
  return .vhist vd p fmt a b

def decX_Vmov (bf : Nat) : Option Instr := do
  let vd ← decXDst (fld bf 34 5)
  let p ← decFin 8 (fld bf 13 3)
  let fmt ← decFmt (fld bf 9 4)
  let a ← decXSrc (fld bf 28 6)
  return .vmov vd p fmt a

def decX_Vsel (bf : Nat) : Option Instr := do
  let vd ← decXDst (fld bf 34 5)
  let p ← decFin 8 (fld bf 13 3)
  let fmt ← decFmt (fld bf 9 4)
  let a ← decXSrc (fld bf 28 6)
  let b ← decXSrc (fld bf 22 6)
  let c ← decXSrc (fld bf 16 6)
  return .vsel vd p fmt a b c

def decX_Vperm (bf : Nat) : Option Instr := do
  let vd ← decXDst (fld bf 34 5)
  let p ← decFin 8 (fld bf 13 3)
  let fmt ← decFmt (fld bf 9 4)
  let a ← decXSrc (fld bf 28 6)
  let b ← decXSrc (fld bf 22 6)
  return .vperm vd p fmt a b

def decX_Vrot (bf : Nat) : Option Instr := do
  let vd ← decXDst (fld bf 34 5)
  let p ← decFin 8 (fld bf 13 3)
  let fmt ← decFmt (fld bf 9 4)
  let a ← decXSrc (fld bf 28 6)
  let b ← decXSrc (fld bf 22 6)
  return .vrot vd p fmt a b

def decX_Vbcast (bf : Nat) : Option Instr := do
  let vd ← decXDst (fld bf 34 5)
  let p ← decFin 8 (fld bf 13 3)
  let fmt ← decFmt (fld bf 9 4)
  let a ← decXSrc (fld bf 28 6)
  let b ← decXSrc (fld bf 22 6)
  return .vbcast vd p fmt a b

def decX_Vcompress (bf : Nat) : Option Instr := do
  let vd ← decXDst (fld bf 34 5)
  let p ← decFin 8 (fld bf 13 3)
  let fmt ← decFmt (fld bf 9 4)
  let x ← decBool (fld bf 3 1)
  let a ← decXSrc (fld bf 28 6)
  return .vcompress vd p fmt x a

def decX_Vexpand (bf : Nat) : Option Instr := do
  let vd ← decXDst (fld bf 34 5)
  let p ← decFin 8 (fld bf 13 3)
  let fmt ← decFmt (fld bf 9 4)
  let a ← decXSrc (fld bf 28 6)
  let b ← decXSrc (fld bf 22 6)
  return .vexpand vd p fmt a b

def decX_Vlane (bf : Nat) : Option Instr := do
  let fmt ← decFmt (fld bf 9 4)
  let a ← decXSrc (fld bf 28 6)
  let k ← some (BitVec.ofNat 9 (fld bf 0 9))
  return .vlane fmt a k

def decX_Vins (bf : Nat) : Option Instr := do
  let vd ← decXDst (fld bf 34 5)
  let p ← decFin 8 (fld bf 13 3)
  let fmt ← decFmt (fld bf 9 4)
  let a ← decXSrc (fld bf 28 6)
  let b ← decXSrc (fld bf 22 6)
  let k ← some (BitVec.ofNat 9 (fld bf 0 9))
  return .vins vd p fmt a b k

def decX_Defer (bf : Nat) : Option Instr := do
  let a ← decXSrc (fld bf 28 6)
  let b ← decXSrc (fld bf 22 6)
  let p ← decFin 8 (fld bf 13 3)
  return .defer a b p

def decX_Drain (bf : Nat) : Option Instr := do
  let vd ← decXDst (fld bf 34 5)
  let dsel ← decDrainSel (fld bf 0 2)
  return .drain vd dsel

def decX_Dcount (_bf : Nat) : Option Instr := some .dcount

def decX_Dclear (_bf : Nat) : Option Instr := some .dclear

def decX_Accrd (bf : Nat) : Option Instr := do
  let vd ← decXDst (fld bf 34 5)
  let acc ← decFin 4 (fld bf 32 2)
  let row ← some (BitVec.ofNat 16 (fld bf 16 16))
  let p ← decFin 8 (fld bf 13 3)
  let fmt ← decFmt (fld bf 9 4)
  return .accrd vd acc row p fmt

def decX_Accwr (bf : Nat) : Option Instr := do
  let v ← decFin 16 (fld bf 34 5)
  let acc ← decFin 4 (fld bf 32 2)
  let row ← some (BitVec.ofNat 16 (fld bf 16 16))
  let p ← decFin 8 (fld bf 13 3)
  let fmt ← decFmt (fld bf 9 4)
  return .accwr v acc row p fmt

def decX_Accz (bf : Nat) : Option Instr := do
  let acc ← decFin 4 (fld bf 32 2)
  return .accz acc

def decX_Siderd (bf : Nat) : Option Instr := do
  let vd ← decXDst (fld bf 34 5)
  let acc ← decFin 4 (fld bf 32 2)
  let p ← decFin 8 (fld bf 13 3)
  let sum ← decBool (fld bf 0 1)
  return .siderd vd acc p sum

def decX_Xjmp (bf : Nat) : Option Instr := do
  let t ← decTarget (fld bf 0 23)
  return .xjmp t

def decX_Xbdec (bf : Nat) : Option Instr := do
  let k ← decFin 4 (fld bf 36 3)
  let t ← decTarget (fld bf 0 23)
  return .xbdec k t

def decX_Xloopset (bf : Nat) : Option Instr := do
  let k ← decFin 4 (fld bf 36 3)
  let n ← some (BitVec.ofNat 13 (fld bf 23 13))
  let t ← decTarget (fld bf 0 23)
  return .xloopset k n t

def decX_Xbany (bf : Nat) : Option Instr := do
  let p ← decFin 8 (fld bf 36 3)
  let t ← decTarget (fld bf 0 23)
  return .xbany p t

def decX_Xbnone (bf : Nat) : Option Instr := do
  let p ← decFin 8 (fld bf 36 3)
  let t ← decTarget (fld bf 0 23)
  return .xbnone p t

def decX_Xmouldf (_bf : Nat) : Option Instr := some .xmouldf

/-- The X grid: the reader of the operand field of every assigned opcode. -/
def gridX (op b : Nat) : Option (Option Instr) :=
  match op with
  | 0 => some (decX_Xnop b)
  | 1 => some (decX_Vadd b)
  | 2 => some (decX_Vsub b)
  | 3 => some (decX_Vmul b)
  | 4 => some (decX_Vfma b)
  | 5 => some (decX_Vfms b)
  | 6 => some (decX_Vfnma b)
  | 7 => some (decX_Vmin b)
  | 8 => some (decX_Vmax b)
  | 9 => some (decX_Vabs b)
  | 10 => some (decX_Vneg b)
  | 11 => some (decX_Vdiv b)
  | 12 => some (decX_Vsqrt b)
  | 13 => some (decX_Vrcp b)
  | 14 => some (decX_Vrsq b)
  | 15 => some (decX_Vexp2 b)
  | 16 => some (decX_Vlog2 b)
  | 17 => some (decX_Vclamp b)
  | 18 => some (decX_Vrope b)
  | 24 => some (decX_Viadd b)
  | 25 => some (decX_Visub b)
  | 26 => some (decX_Vimul b)
  | 27 => some (decX_Vimulh b)
  | 28 => some (decX_Vimin b)
  | 29 => some (decX_Vimax b)
  | 30 => some (decX_Vand b)
  | 31 => some (decX_Vor b)
  | 32 => some (decX_Vxor b)
  | 33 => some (decX_Vandn b)
  | 34 => some (decX_Vshl b)
  | 35 => some (decX_Vshr b)
  | 36 => some (decX_Vsar b)
  | 37 => some (decX_Vpopc b)
  | 38 => some (decX_Vclz b)
  | 39 => some (decX_Visat b)
  | 40 => some (decX_Vaddi b)
  | 41 => some (decX_Vmuli b)
  | 42 => some (decX_Viaddi b)
  | 43 => some (decX_Vandi b)
  | 44 => some (decX_Vori b)
  | 45 => some (decX_Vshli b)
  | 46 => some (decX_Vshri b)
  | 48 => some (decX_Vcvt b)
  | 49 => some (decX_Vpack b)
  | 50 => some (decX_Vunpk b)
  | 51 => some (decX_Vcbdec b)
  | 52 => some (decX_Vscale b)
  | 53 => some (decX_Vkeyx b)
  | 54 => some (decX_Vdigit b)
  | 56 => some (decX_Vcmp b)
  | 57 => some (decX_Vcmpi b)
  | 58 => some (decX_Pand b)
  | 59 => some (decX_Por b)
  | 60 => some (decX_Pxor b)
  | 61 => some (decX_Pnot b)
  | 62 => some (decX_Pcnt b)
  | 63 => some (decX_Pfirst b)
  | 64 => some (decX_Vrsum b)
  | 65 => some (decX_Vrmax b)
  | 66 => some (decX_Vrmin b)
  | 67 => some (decX_Vargmax b)
  | 68 => some (decX_Vargmin b)
  | 69 => some (decX_Vscan b)
  | 70 => some (decX_Vhist b)
  | 72 => some (decX_Vmov b)
  | 73 => some (decX_Vsel b)
  | 74 => some (decX_Vperm b)
  | 75 => some (decX_Vrot b)
  | 76 => some (decX_Vbcast b)
  | 77 => some (decX_Vcompress b)
  | 78 => some (decX_Vexpand b)
  | 79 => some (decX_Vlane b)
  | 80 => some (decX_Vins b)
  | 88 => some (decX_Defer b)
  | 89 => some (decX_Drain b)
  | 90 => some (decX_Dcount b)
  | 91 => some (decX_Dclear b)
  | 96 => some (decX_Accrd b)
  | 97 => some (decX_Accwr b)
  | 98 => some (decX_Accz b)
  | 99 => some (decX_Siderd b)
  | 112 => some (decX_Xjmp b)
  | 113 => some (decX_Xbdec b)
  | 114 => some (decX_Xloopset b)
  | 115 => some (decX_Xbany b)
  | 116 => some (decX_Xbnone b)
  | 117 => some (decX_Xmouldf b)
  | _ => none

def decL_Lnop (_bf : Nat) : Option Instr := some .lnop

def decL_Ldq (bf : Nat) : Option Instr := do
  let oq ← decFin 8 (fld bf 36 3)
  let a ← decFin 16 (fld bf 32 4)
  let cl ← decCls (fld bf 30 2)
  let fmt ← decFmt (fld bf 26 4)
  let cnt ← some (BitVec.ofNat 6 (fld bf 20 6))
  let inc ← decInc (fld bf 18 2)
  let imm ← some (BitVec.ofNat 18 (fld bf 0 18))
  return .ldq oq a cl fmt cnt inc imm

def decL_Ldqb (bf : Nat) : Option Instr := do
  let oq ← decFin 8 (fld bf 36 3)
  let a ← decFin 16 (fld bf 32 4)
  let cl ← decCls (fld bf 30 2)
  let fmt ← decFmt (fld bf 26 4)
  let inc ← decInc (fld bf 18 2)
  let imm ← some (BitVec.ofNat 18 (fld bf 0 18))
  return .ldqb oq a cl fmt inc imm

def decL_Ldqs (bf : Nat) : Option Instr := do
  let oq ← decFin 8 (fld bf 36 3)
  let a ← decFin 16 (fld bf 32 4)
  let cl ← decCls (fld bf 30 2)
  let fmt ← decFmt (fld bf 26 4)
  let cnt ← some (BitVec.ofNat 6 (fld bf 20 6))
  let inc ← decSInc (fld bf 18 2)
  let imm ← some (BitVec.ofNat 18 (fld bf 0 18))
  return .ldqs oq a cl fmt cnt inc imm

def decL_Ldqg (bf : Nat) : Option Instr := do
  let oq ← decFin 8 (fld bf 36 3)
  let ag ← decFin 4 (fld bf 34 2)
  let cl ← decCls (fld bf 32 2)
  let fmt ← decFmt (fld bf 28 4)
  let cb ← decFin 4 (fld bf 26 2)
  return .ldqg oq ag cl fmt cb

def decL_Lgen (bf : Nat) : Option Instr := do
  let oq ← decFin 8 (fld bf 36 3)
  let ag ← decFin 4 (fld bf 34 2)
  let cl ← decCls (fld bf 32 2)
  let fmt ← decFmt (fld bf 28 4)
  let s ← decFin 7 (fld bf 25 3)
  return .lgen oq ag cl fmt s

def decL_Ldqk (bf : Nat) : Option Instr := do
  let oq ← decFin 8 (fld bf 36 3)
  let a ← decFin 16 (fld bf 32 4)
  let cl ← decCls (fld bf 30 2)
  let fmt ← decFmt (fld bf 26 4)
  let t ← some (BitVec.ofNat 6 (fld bf 0 6))
  let g ← some (BitVec.ofNat 2 (fld bf 6 2))
  return .ldqk oq a cl fmt t g

def decL_Lpf (bf : Nat) : Option Instr := do
  let a ← decFin 16 (fld bf 32 4)
  let cl ← decCls (fld bf 30 2)
  let cnt ← some (BitVec.ofNat 6 (fld bf 20 6))
  let inc ← decInc (fld bf 18 2)
  let imm ← some (BitVec.ofNat 18 (fld bf 0 18))
  return .lpf a cl cnt inc imm

def decL_Agset (bf : Nat) : Option Instr := do
  let ag ← decFin 4 (fld bf 34 2)
  let grp ← decAgGroup (fld bf 0 4)
  return .agset ag grp

def decL_Agidx (bf : Nat) : Option Instr := do
  let ag ← decFin 4 (fld bf 34 2)
  return .agidx ag

def decL_Agrst (bf : Nat) : Option Instr := do
  let ag ← decFin 4 (fld bf 34 2)
  return .agrst ag

def decL_Laddi (bf : Nat) : Option Instr := do
  let ad ← decFin 16 (fld bf 35 4)
  let as ← decFin 16 (fld bf 31 4)
  let imm ← some (BitVec.ofNat 31 (fld bf 0 31))
  return .laddi ad as imm

def decL_Lmovi (bf : Nat) : Option Instr := do
  let ad ← decFin 16 (fld bf 35 4)
  let imm ← some (BitVec.ofNat 31 (fld bf 0 31))
  return .lmovi ad imm

def decL_Ladd (bf : Nat) : Option Instr := do
  let ad ← decFin 16 (fld bf 35 4)
  let as ← decFin 16 (fld bf 31 4)
  return .ladd ad as

def decL_Lpopc (bf : Nat) : Option Instr := do
  let ad ← decFin 16 (fld bf 35 4)
  return .lpopc ad

def decL_Lgcb (bf : Nat) : Option Instr := do
  let cb ← decFin 4 (fld bf 34 2)
  return .lgcb cb

def decL_Cbclr (bf : Nat) : Option Instr := do
  let cb ← decFin 4 (fld bf 34 2)
  return .cbclr cb

def decL_Cbget (bf : Nat) : Option Instr := do
  let cb ← decFin 4 (fld bf 34 2)
  return .cbget cb

def decL_Ljmp (bf : Nat) : Option Instr := do
  let t ← decTarget (fld bf 0 23)
  return .ljmp t

def decL_Lbdec (bf : Nat) : Option Instr := do
  let k ← decFin 4 (fld bf 36 3)
  let t ← decTarget (fld bf 0 23)
  return .lbdec k t

def decL_Lloopset (bf : Nat) : Option Instr := do
  let k ← decFin 4 (fld bf 36 3)
  let n ← some (BitVec.ofNat 13 (fld bf 23 13))
  let t ← decTarget (fld bf 0 23)
  return .lloopset k n t

def decL_Lmouldf (_bf : Nat) : Option Instr := some .lmouldf

/-- The L grid: the reader of the operand field of every assigned opcode. -/
def gridL (op b : Nat) : Option (Option Instr) :=
  match op with
  | 0 => some (decL_Lnop b)
  | 1 => some (decL_Ldq b)
  | 2 => some (decL_Ldqb b)
  | 3 => some (decL_Ldqs b)
  | 4 => some (decL_Ldqg b)
  | 5 => some (decL_Lgen b)
  | 6 => some (decL_Ldqk b)
  | 7 => some (decL_Lpf b)
  | 8 => some (decL_Agset b)
  | 9 => some (decL_Agidx b)
  | 10 => some (decL_Agrst b)
  | 16 => some (decL_Laddi b)
  | 17 => some (decL_Lmovi b)
  | 18 => some (decL_Ladd b)
  | 19 => some (decL_Lpopc b)
  | 24 => some (decL_Lgcb b)
  | 25 => some (decL_Cbclr b)
  | 26 => some (decL_Cbget b)
  | 32 => some (decL_Ljmp b)
  | 33 => some (decL_Lbdec b)
  | 34 => some (decL_Lloopset b)
  | 35 => some (decL_Lmouldf b)
  | _ => none

def decS_Snop (_bf : Nat) : Option Instr := some .snop

def decS_Stq (bf : Nat) : Option Instr := do
  let sq ← decFin 4 (fld bf 37 2)
  let b ← decFin 16 (fld bf 33 4)
  let cl ← decCls (fld bf 31 2)
  let fmt ← decFmt (fld bf 27 4)
  let inc ← decInc (fld bf 25 2)
  let imm ← some (BitVec.ofNat 25 (fld bf 0 25))
  return .stq sq b cl fmt inc imm

def decS_Stqs (bf : Nat) : Option Instr := do
  let sq ← decFin 4 (fld bf 37 2)
  let b ← decFin 16 (fld bf 33 4)
  let cl ← decCls (fld bf 31 2)
  let fmt ← decFmt (fld bf 27 4)
  let inc ← decSInc (fld bf 25 2)
  let imm ← some (BitVec.ofNat 25 (fld bf 0 25))
  return .stqs sq b cl fmt inc imm

def decS_Stqg (bf : Nat) : Option Instr := do
  let sq ← decFin 4 (fld bf 37 2)
  let b ← decFin 16 (fld bf 33 4)
  let cl ← decCls (fld bf 31 2)
  let fmt ← decFmt (fld bf 27 4)
  let imm ← some (BitVec.ofNat 25 (fld bf 0 25))
  return .stqg sq b cl fmt imm

def decS_Sgen (bf : Nat) : Option Instr := do
  let sq ← decFin 4 (fld bf 37 2)
  let b ← decFin 16 (fld bf 33 4)
  let cl ← decCls (fld bf 31 2)
  let fmt ← decFmt (fld bf 27 4)
  let sp ← decBool (fld bf 25 2)
  let s ← decFin 7 (fld bf 22 3)
  let stride ← some (BitVec.ofNat 22 (fld bf 0 22))
  return .sgen sq b cl fmt sp s stride

def decS_Stn (bf : Nat) : Option Instr := do
  let sq ← decFin 4 (fld bf 37 2)
  let b ← decFin 16 (fld bf 33 4)
  let cl ← decCls (fld bf 31 2)
  let fmt ← decFmt (fld bf 27 4)
  let step ← decStnInc (fld bf 25 2)
  let off ← some (BitVec.ofNat 21 (fld bf 4 21))
  let h ← decFin 9 (fld bf 0 4)
  return .stn sq b cl fmt step off h

def decS_Aadd (bf : Nat) : Option Instr := do
  let b ← decFin 16 (fld bf 33 4)
  let cl ← decCls (fld bf 31 2)
  let fmt ← decFmt (fld bf 27 4)
  let rt ← decBool (fld bf 26 1)
  let d64 ← decBool (fld bf 25 1)
  let off ← some (BitVec.ofNat 24 (fld bf 0 24))
  return .aadd b cl fmt rt d64 off

def decS_Afadd (bf : Nat) : Option Instr := do
  let b ← decFin 16 (fld bf 33 4)
  let cl ← decCls (fld bf 31 2)
  let fmt ← decFmt (fld bf 27 4)
  let rt ← decBool (fld bf 26 1)
  let d64 ← decBool (fld bf 25 1)
  let off ← some (BitVec.ofNat 24 (fld bf 0 24))
  return .afadd b cl fmt rt d64 off

def decS_Amax (bf : Nat) : Option Instr := do
  let b ← decFin 16 (fld bf 33 4)
  let cl ← decCls (fld bf 31 2)
  let fmt ← decFmt (fld bf 27 4)
  let rt ← decBool (fld bf 26 1)
  let d64 ← decBool (fld bf 25 1)
  let off ← some (BitVec.ofNat 24 (fld bf 0 24))
  return .amax b cl fmt rt d64 off

def decS_Amin (bf : Nat) : Option Instr := do
  let b ← decFin 16 (fld bf 33 4)
  let cl ← decCls (fld bf 31 2)
  let fmt ← decFmt (fld bf 27 4)
  let rt ← decBool (fld bf 26 1)
  let d64 ← decBool (fld bf 25 1)
  let off ← some (BitVec.ofNat 24 (fld bf 0 24))
  return .amin b cl fmt rt d64 off

def decS_Aand (bf : Nat) : Option Instr := do
  let b ← decFin 16 (fld bf 33 4)
  let cl ← decCls (fld bf 31 2)
  let fmt ← decFmt (fld bf 27 4)
  let rt ← decBool (fld bf 26 1)
  let d64 ← decBool (fld bf 25 1)
  let off ← some (BitVec.ofNat 24 (fld bf 0 24))
  return .aand b cl fmt rt d64 off

def decS_Aor (bf : Nat) : Option Instr := do
  let b ← decFin 16 (fld bf 33 4)
  let cl ← decCls (fld bf 31 2)
  let fmt ← decFmt (fld bf 27 4)
  let rt ← decBool (fld bf 26 1)
  let d64 ← decBool (fld bf 25 1)
  let off ← some (BitVec.ofNat 24 (fld bf 0 24))
  return .aor b cl fmt rt d64 off

def decS_Axor (bf : Nat) : Option Instr := do
  let b ← decFin 16 (fld bf 33 4)
  let cl ← decCls (fld bf 31 2)
  let fmt ← decFmt (fld bf 27 4)
  let rt ← decBool (fld bf 26 1)
  let d64 ← decBool (fld bf 25 1)
  let off ← some (BitVec.ofNat 24 (fld bf 0 24))
  return .axor b cl fmt rt d64 off

def decS_Axchg (bf : Nat) : Option Instr := do
  let b ← decFin 16 (fld bf 33 4)
  let cl ← decCls (fld bf 31 2)
  let fmt ← decFmt (fld bf 27 4)
  let rt ← decBool (fld bf 26 1)
  let d64 ← decBool (fld bf 25 1)
  let off ← some (BitVec.ofNat 24 (fld bf 0 24))
  return .axchg b cl fmt rt d64 off

def decS_Acas (bf : Nat) : Option Instr := do
  let b ← decFin 16 (fld bf 33 4)
  let cl ← decCls (fld bf 31 2)
  let fmt ← decFmt (fld bf 27 4)
  let rt ← decBool (fld bf 26 1)
  let d64 ← decBool (fld bf 25 1)
  let off ← some (BitVec.ofNat 24 (fld bf 0 24))
  return .acas b cl fmt rt d64 off

def decS_Ahist (bf : Nat) : Option Instr := do
  let sq ← decFin 4 (fld bf 37 2)
  let b ← decFin 16 (fld bf 33 4)
  let cl ← decCls (fld bf 31 2)
  let fmt ← decFmt (fld bf 27 4)
  let off ← some (BitVec.ofNat 27 (fld bf 0 27))
  return .ahist sq b cl fmt off

def decS_Acq (bf : Nat) : Option Instr := do
  let b ← decFin 16 (fld bf 33 4)
  let cl ← decCls (fld bf 31 2)
  let gen ← decBool (fld bf 24 1)
  let off ← some (BitVec.ofNat 24 (fld bf 0 24))
  return .acq b cl gen off

def decS_Tryacq (bf : Nat) : Option Instr := do
  let b ← decFin 16 (fld bf 33 4)
  let cl ← decCls (fld bf 31 2)
  let gen ← decBool (fld bf 24 1)
  let off ← some (BitVec.ofNat 24 (fld bf 0 24))
  return .tryacq b cl gen off

def decS_Rel (bf : Nat) : Option Instr := do
  let b ← decFin 16 (fld bf 33 4)
  let cl ← decCls (fld bf 31 2)
  let off ← some (BitVec.ofNat 24 (fld bf 0 24))
  return .rel b cl off

def decS_Sobind (bf : Nat) : Option Instr := do
  let b ← decFin 16 (fld bf 33 4)
  let cl ← decCls (fld bf 31 2)
  let slot ← decFin 4 (fld bf 24 2)
  let off ← some (BitVec.ofNat 24 (fld bf 0 24))
  return .sobind b cl slot off

def decS_Tcinc (bf : Nat) : Option Instr := do
  let c ← some (BitVec.ofNat 8 (fld bf 0 8))
  let n ← some (BitVec.ofNat 8 (fld bf 8 8))
  return .tcinc c n

def decS_Saddi (bf : Nat) : Option Instr := do
  let ad ← decFin 16 (fld bf 35 4)
  let as ← decFin 16 (fld bf 31 4)
  let imm ← some (BitVec.ofNat 31 (fld bf 0 31))
  return .saddi ad as imm

def decS_Smovi (bf : Nat) : Option Instr := do
  let ad ← decFin 16 (fld bf 35 4)
  let imm ← some (BitVec.ofNat 31 (fld bf 0 31))
  return .smovi ad imm

def decS_Sadd (bf : Nat) : Option Instr := do
  let ad ← decFin 16 (fld bf 35 4)
  let as ← decFin 16 (fld bf 31 4)
  return .sadd ad as

def decS_Spopc (bf : Nat) : Option Instr := do
  let ad ← decFin 16 (fld bf 35 4)
  return .spopc ad

def decS_Sjmp (bf : Nat) : Option Instr := do
  let t ← decTarget (fld bf 0 23)
  return .sjmp t

def decS_Sbdec (bf : Nat) : Option Instr := do
  let k ← decFin 4 (fld bf 36 3)
  let t ← decTarget (fld bf 0 23)
  return .sbdec k t

def decS_Sloopset (bf : Nat) : Option Instr := do
  let k ← decFin 4 (fld bf 36 3)
  let n ← some (BitVec.ofNat 13 (fld bf 23 13))
  let t ← decTarget (fld bf 0 23)
  return .sloopset k n t

def decS_Smouldf (_bf : Nat) : Option Instr := some .smouldf

/-- The S grid: the reader of the operand field of every assigned opcode. -/
def gridS (op b : Nat) : Option (Option Instr) :=
  match op with
  | 0 => some (decS_Snop b)
  | 1 => some (decS_Stq b)
  | 2 => some (decS_Stqs b)
  | 3 => some (decS_Stqg b)
  | 4 => some (decS_Sgen b)
  | 5 => some (decS_Stn b)
  | 8 => some (decS_Aadd b)
  | 9 => some (decS_Afadd b)
  | 10 => some (decS_Amax b)
  | 11 => some (decS_Amin b)
  | 12 => some (decS_Aand b)
  | 13 => some (decS_Aor b)
  | 14 => some (decS_Axor b)
  | 15 => some (decS_Axchg b)
  | 16 => some (decS_Acas b)
  | 17 => some (decS_Ahist b)
  | 24 => some (decS_Acq b)
  | 25 => some (decS_Tryacq b)
  | 26 => some (decS_Rel b)
  | 27 => some (decS_Sobind b)
  | 32 => some (decS_Tcinc b)
  | 40 => some (decS_Saddi b)
  | 41 => some (decS_Smovi b)
  | 42 => some (decS_Sadd b)
  | 43 => some (decS_Spopc b)
  | 48 => some (decS_Sjmp b)
  | 49 => some (decS_Sbdec b)
  | 50 => some (decS_Sloopset b)
  | 51 => some (decS_Smouldf b)
  | _ => none

/-- The opcode of an instruction (R45 to R48); 0 for what is no long word. -/
def Instr.opcode : Instr → Nat
  | .nop => 0
  | .add .. => 1
  | .sub .. => 2
  | .mul .. => 3
  | .mulh .. => 4
  | .div .. => 5
  | .rem .. => 6
  | .and .. => 7
  | .or .. => 8
  | .xor .. => 9
  | .andn .. => 10
  | .shl .. => 11
  | .shr .. => 12
  | .sar .. => 13
  | .rol .. => 14
  | .min .. => 15
  | .max .. => 16
  | .cmp .. => 17
  | .clz .. => 18
  | .ctz .. => 19
  | .popc .. => 20
  | .brev .. => 21
  | .bfx .. => 22
  | .bfi .. => 23
  | .ext .. => 24
  | .move .. => 25
  | .sel .. => 26
  | .madd .. => 27
  | .addi .. => 32
  | .andi .. => 33
  | .ori .. => 34
  | .xori .. => 35
  | .shli .. => 36
  | .shri .. => 37
  | .sari .. => 38
  | .cmpi .. => 39
  | .muli .. => 40
  | .li .. => 41
  | .lih .. => 42
  | .fadd .. => 48
  | .fsub .. => 49
  | .fmul .. => 50
  | .ffma .. => 51
  | .fdiv .. => 52
  | .fmin .. => 53
  | .fmax .. => 54
  | .fcmp .. => 55
  | .fcvt .. => 56
  | .fsqrt .. => 57
  | .fexp2 .. => 58
  | .frcp .. => 59
  | .br .. => 64
  | .bri .. => 65
  | .call .. => 66
  | .ret .. => 67
  | .jmpi .. => 68
  | .jtab .. => 69
  | .bdec .. => 70
  | .loopset .. => 71
  | .pdisp .. => 72
  | .ld .. => 80
  | .lds .. => 81
  | .st .. => 82
  | .mload .. => 84
  | .mouldf => 85
  | .getc .. => 88
  | .putc .. => 89
  | .trap .. => 90
  | .brk .. => 91
  | .waitf .. => 92
  | .sleepu .. => 93
  | .halt .. => 94
  | .fsc .. => 95
  | .mnest .. => 96
  | .mform .. => 97
  | .mgo => 98
  | .mside .. => 99
  | .mrsc .. => 100
  | .cpy .. => 104
  | .cbatch => 105
  | .cwait .. => 106
  | .mark .. => 107
  | .rdvw .. => 108
  | .attn .. => 112
  | .kpos .. => 113
  | .kfork .. => 114
  | .kdrop .. => 115
  | .kmap .. => 116
  | .cfind .. => 118
  | .cput .. => 119
  | .crel .. => 120
  | .cstat => 121
  | .coll .. => 122
  | .tspawn .. => 123
  | .phint .. => 124
  | .cresize .. => 125
  | .prow .. => 126
  | .pdone .. => 127
  | .xnop => 0
  | .vadd .. => 1
  | .vsub .. => 2
  | .vmul .. => 3
  | .vfma .. => 4
  | .vfms .. => 5
  | .vfnma .. => 6
  | .vmin .. => 7
  | .vmax .. => 8
  | .vabs .. => 9
  | .vneg .. => 10
  | .vdiv .. => 11
  | .vsqrt .. => 12
  | .vrcp .. => 13
  | .vrsq .. => 14
  | .vexp2 .. => 15
  | .vlog2 .. => 16
  | .vclamp .. => 17
  | .vrope .. => 18
  | .viadd .. => 24
  | .visub .. => 25
  | .vimul .. => 26
  | .vimulh .. => 27
  | .vimin .. => 28
  | .vimax .. => 29
  | .vand .. => 30
  | .vor .. => 31
  | .vxor .. => 32
  | .vandn .. => 33
  | .vshl .. => 34
  | .vshr .. => 35
  | .vsar .. => 36
  | .vpopc .. => 37
  | .vclz .. => 38
  | .visat .. => 39
  | .vaddi .. => 40
  | .vmuli .. => 41
  | .viaddi .. => 42
  | .vandi .. => 43
  | .vori .. => 44
  | .vshli .. => 45
  | .vshri .. => 46
  | .vcvt .. => 48
  | .vpack .. => 49
  | .vunpk .. => 50
  | .vcbdec .. => 51
  | .vscale .. => 52
  | .vkeyx .. => 53
  | .vdigit .. => 54
  | .vcmp .. => 56
  | .vcmpi .. => 57
  | .pand .. => 58
  | .por .. => 59
  | .pxor .. => 60
  | .pnot .. => 61
  | .pcnt .. => 62
  | .pfirst .. => 63
  | .vrsum .. => 64
  | .vrmax .. => 65
  | .vrmin .. => 66
  | .vargmax .. => 67
  | .vargmin .. => 68
  | .vscan .. => 69
  | .vhist .. => 70
  | .vmov .. => 72
  | .vsel .. => 73
  | .vperm .. => 74
  | .vrot .. => 75
  | .vbcast .. => 76
  | .vcompress .. => 77
  | .vexpand .. => 78
  | .vlane .. => 79
  | .vins .. => 80
  | .defer .. => 88
  | .drain .. => 89
  | .dcount => 90
  | .dclear => 91
  | .accrd .. => 96
  | .accwr .. => 97
  | .accz .. => 98
  | .siderd .. => 99
  | .xjmp .. => 112
  | .xbdec .. => 113
  | .xloopset .. => 114
  | .xbany .. => 115
  | .xbnone .. => 116
  | .xmouldf => 117
  | .lnop => 0
  | .ldq .. => 1
  | .ldqb .. => 2
  | .ldqs .. => 3
  | .ldqg .. => 4
  | .lgen .. => 5
  | .ldqk .. => 6
  | .lpf .. => 7
  | .agset .. => 8
  | .agidx .. => 9
  | .agrst .. => 10
  | .laddi .. => 16
  | .lmovi .. => 17
  | .ladd .. => 18
  | .lpopc .. => 19
  | .lgcb .. => 24
  | .cbclr .. => 25
  | .cbget .. => 26
  | .ljmp .. => 32
  | .lbdec .. => 33
  | .lloopset .. => 34
  | .lmouldf => 35
  | .snop => 0
  | .stq .. => 1
  | .stqs .. => 2
  | .stqg .. => 3
  | .sgen .. => 4
  | .stn .. => 5
  | .aadd .. => 8
  | .afadd .. => 9
  | .amax .. => 10
  | .amin .. => 11
  | .aand .. => 12
  | .aor .. => 13
  | .axor .. => 14
  | .axchg .. => 15
  | .acas .. => 16
  | .ahist .. => 17
  | .acq .. => 24
  | .tryacq .. => 25
  | .rel .. => 26
  | .sobind .. => 27
  | .tcinc .. => 32
  | .saddi .. => 40
  | .smovi .. => 41
  | .sadd .. => 42
  | .spopc .. => 43
  | .sjmp .. => 48
  | .sbdec .. => 49
  | .sloopset .. => 50
  | .smouldf => 51
  | _ => 0

/-- The operand field W[38:0] of an instruction (R37 to R42). -/
def Instr.operands : Instr → Nat
  | .nop => 0
  | .add d a b => encCDst d * 8589934592 + encCSrc a * 134217728 + encCSrc b * 2097152
  | .sub d a b => encCDst d * 8589934592 + encCSrc a * 134217728 + encCSrc b * 2097152
  | .mul d a b => encCDst d * 8589934592 + encCSrc a * 134217728 + encCSrc b * 2097152
  | .mulh d u a b => encCDst d * 8589934592 + encBool u * 512 + encCSrc a * 134217728 + encCSrc b * 2097152
  | .div d u a b => encCDst d * 8589934592 + encBool u * 512 + encCSrc a * 134217728 + encCSrc b * 2097152
  | .rem d u a b => encCDst d * 8589934592 + encBool u * 512 + encCSrc a * 134217728 + encCSrc b * 2097152
  | .and d a b => encCDst d * 8589934592 + encCSrc a * 134217728 + encCSrc b * 2097152
  | .or d a b => encCDst d * 8589934592 + encCSrc a * 134217728 + encCSrc b * 2097152
  | .xor d a b => encCDst d * 8589934592 + encCSrc a * 134217728 + encCSrc b * 2097152
  | .andn d a b => encCDst d * 8589934592 + encCSrc a * 134217728 + encCSrc b * 2097152
  | .shl d a b => encCDst d * 8589934592 + encCSrc a * 134217728 + encCSrc b * 2097152
  | .shr d a b => encCDst d * 8589934592 + encCSrc a * 134217728 + encCSrc b * 2097152
  | .sar d a b => encCDst d * 8589934592 + encCSrc a * 134217728 + encCSrc b * 2097152
  | .rol d a b => encCDst d * 8589934592 + encCSrc a * 134217728 + encCSrc b * 2097152
  | .min d u a b => encCDst d * 8589934592 + encBool u * 512 + encCSrc a * 134217728 + encCSrc b * 2097152
  | .max d u a b => encCDst d * 8589934592 + encBool u * 512 + encCSrc a * 134217728 + encCSrc b * 2097152
  | .cmp d bound cc a b => encCDst d * 8589934592 + encBool bound * 8192 + encCond cc * 512 + encCSrc a * 134217728 + encCSrc b * 2097152
  | .clz d a => encCDst d * 8589934592 + encCSrc a * 134217728
  | .ctz d a => encCDst d * 8589934592 + encCSrc a * 134217728
  | .popc d a => encCDst d * 8589934592 + encCSrc a * 134217728
  | .brev d a => encCDst d * 8589934592 + encCSrc a * 134217728
  | .bfx d u a b => encCDst d * 8589934592 + encBool u * 512 + encCSrc a * 134217728 + encCSrc b * 2097152
  | .bfi d a b c => encCDst d * 8589934592 + encCSrc a * 134217728 + encCSrc b * 2097152 + encCSrc c * 32768
  | .ext d w u a => encCDst d * 8589934592 + encExtW w * 1024 + encBool u * 512 + encCSrc a * 134217728
  | .move d a => encCDst d * 8589934592 + encCSrc a * 134217728
  | .sel d a b c => encCDst d * 8589934592 + encCSrc a * 134217728 + encCSrc b * 2097152 + encCSrc c * 32768
  | .madd d a b c => encCDst d * 8589934592 + encCSrc a * 134217728 + encCSrc b * 2097152 + encCSrc c * 32768
  | .addi d a imm => encCDst d * 8589934592 + encCSrc a * 134217728 + imm.toNat * 8
  | .andi d a imm => encCDst d * 8589934592 + encCSrc a * 134217728 + imm.toNat * 8
  | .ori d a imm => encCDst d * 8589934592 + encCSrc a * 134217728 + imm.toNat * 8
  | .xori d a imm => encCDst d * 8589934592 + encCSrc a * 134217728 + imm.toNat * 8
  | .shli d a imm => encCDst d * 8589934592 + encCSrc a * 134217728 + imm.toNat * 8
  | .shri d a imm => encCDst d * 8589934592 + encCSrc a * 134217728 + imm.toNat * 8
  | .sari d a imm => encCDst d * 8589934592 + encCSrc a * 134217728 + imm.toNat * 8
  | .cmpi d cc a imm => encCDst d * 8589934592 + encCmpiCond cc + encCSrc a * 134217728 + imm.toNat * 8
  | .muli d a imm => encCDst d * 8589934592 + encCSrc a * 134217728 + imm.toNat * 8
  | .li d imm => encCDst d * 8589934592 + imm.toNat
  | .lih d hi a imm => encCDst d * 8589934592 + encBool hi + encCSrc a * 134217728 + imm.toNat * 8
  | .fadd d rm a b => encCDst d * 8589934592 + encRm rm * 512 + encCSrc a * 134217728 + encCSrc b * 2097152
  | .fsub d rm a b => encCDst d * 8589934592 + encRm rm * 512 + encCSrc a * 134217728 + encCSrc b * 2097152
  | .fmul d rm a b => encCDst d * 8589934592 + encRm rm * 512 + encCSrc a * 134217728 + encCSrc b * 2097152
  | .ffma d rm a b c => encCDst d * 8589934592 + encRm rm * 512 + encCSrc a * 134217728 + encCSrc b * 2097152 + encCSrc c * 32768
  | .fdiv d rm a b => encCDst d * 8589934592 + encRm rm * 512 + encCSrc a * 134217728 + encCSrc b * 2097152
  | .fmin d a b => encCDst d * 8589934592 + encCSrc a * 134217728 + encCSrc b * 2097152
  | .fmax d a b => encCDst d * 8589934592 + encCSrc a * 134217728 + encCSrc b * 2097152
  | .fcmp d fc a b => encCDst d * 8589934592 + encFcmpCond fc * 4096 + encCSrc a * 134217728 + encCSrc b * 2097152
  | .fcvt d kind rm a => encCDst d * 8589934592 + encFcvtKind kind * 4096 + encRm rm * 512 + encCSrc a * 134217728
  | .fsqrt d rm a => encCDst d * 8589934592 + encRm rm * 512 + encCSrc a * 134217728
  | .fexp2 d a => encCDst d * 8589934592 + encCSrc a * 134217728
  | .frcp d rm a => encCDst d * 8589934592 + encRm rm * 512 + encCSrc a * 134217728
  | .br cc a b t => encCond cc * 34359738368 + encCSrc a * 536870912 + encCSrc b * 8388608 + encTarget t
  | .bri cc a imm t => encCond cc * 34359738368 + encCSrc a * 536870912 + imm.toNat * 8388608 + encTarget t
  | .call t => encTarget t
  | .ret a => encCSrc a * 536870912
  | .jmpi a p => encCSrc a * 536870912 + p.toNat
  | .jtab a b t => encCSrc a * 536870912 + encCSrc b * 8388608 + encTarget t
  | .bdec k t => k.val * 536870912 + encTarget t
  | .loopset k b t => k.val * 536870912 + encCSrc b * 8388608 + encTarget t
  | .pdisp lane a b t => encFzLane lane * 34359738368 + encCSrc a * 536870912 + encCSrc b * 8388608 + encTarget t
  | .ld d sz cl off base => encCDst d * 8589934592 + encSize sz * 4 + encCls cl + off.toNat * 16 + encCSrc base * 134217728
  | .lds d sz cl off base => encCDst d * 8589934592 + encSize sz * 4 + encCls cl + off.toNat * 16 + encCSrc base * 134217728
  | .st sz cl data off base => encSize sz * 4 + encCls cl + encCSrc data * 2097152 + off.toNat * 16 + encCSrc base * 134217728 + 541165879296
  | .mload a b n => encCSrc a * 8589934592 + encCSrc b * 134217728 + n.toNat
  | .mouldf => 0
  | .getc d r => encCDst d * 8589934592 + encSysReg r * 32768
  | .putc r a => encSysReg r * 32768 + encCSrc a * 134217728 + 541165879296
  | .trap a code => encCSrc a * 134217728 + code.toNat + 541165879296
  | .brk code => code.toNat + 541165879296
  | .waitf a => encCSrc a * 134217728 + 541165879296
  | .sleepu a => encCSrc a * 134217728 + 541165879296
  | .halt a => encCSrc a * 134217728 + 541165879296
  | .fsc sc => encScope sc + 541165879296
  | .mnest a b e n => encCSrc a * 8589934592 + encCSrc b * 134217728 + e.val + n.toNat * 16
  | .mform a r => encCSrc a * 8589934592 + r.toNat
  | .mgo => 0
  | .mside a str cl t => encCSrc a * 8589934592 + encBool str * 4 + encCls cl * 8 + t.val
  | .mrsc a mx cl t => encCSrc a * 8589934592 + encBool mx * 4 + encCls cl * 8 + t.val
  | .cpy scl dcl pf crc a b c => encCls scl + encCls dcl * 4 + encBool pf * 16 + encBool crc * 32 + encCSrc a * 8589934592 + encCSrc b * 134217728 + encCSrc c * 2097152
  | .cbatch => 0
  | .cwait n => n.toNat
  | .mark m mask => m.toNat + mask.toNat * 65536
  | .rdvw m mask => m.toNat + mask.toNat * 65536
  | .attn cl a => encCls cl + encCSrc a * 8589934592
  | .kpos ad cl a b n => encBool ad * 4 + encCls cl + encCSrc a * 8589934592 + encCSrc b * 134217728 + n.toNat * 8
  | .kfork cl a b n => encCls cl + encCSrc a * 8589934592 + encCSrc b * 134217728 + n.toNat * 8
  | .kdrop cl a b n => encCls cl + encCSrc a * 8589934592 + encCSrc b * 134217728 + n.toNat * 8
  | .kmap sl cl a b => encBool sl * 4 + encCls cl + encCSrc a * 8589934592 + encCSrc b * 134217728
  | .cfind hold cl a => encBool hold * 4 + encCls cl + encCSrc a * 8589934592
  | .cput hold cl a => encBool hold * 4 + encCls cl + encCSrc a * 8589934592
  | .crel a b => encCSrc a * 8589934592 + encCSrc b * 134217728
  | .cstat => 0
  | .coll cl a => encCls cl + encCSrc a * 8589934592
  | .tspawn node a b => encBool node + encCSrc a * 8589934592 + encCSrc b * 134217728
  | .phint line => line.toNat
  | .cresize n => n.toNat
  | .prow cnt lane a => encBool cnt + encFzLane lane * 4 + encCSrc a * 8589934592
  | .pdone op lane a b c => encPdoneOp op + encFzLane lane * 4 + encCSrc a * 8589934592 + encCSrc b * 134217728 + encCSrc c * 2097152
  | .xnop => 0
  | .vadd vd p fmt rm a b => encXDst vd * 17179869184 + p.val * 8192 + encFmt fmt * 512 + encRm rm + encXSrc a * 268435456 + encXSrc b * 4194304
  | .vsub vd p fmt rm a b => encXDst vd * 17179869184 + p.val * 8192 + encFmt fmt * 512 + encRm rm + encXSrc a * 268435456 + encXSrc b * 4194304
  | .vmul vd p fmt rm a b => encXDst vd * 17179869184 + p.val * 8192 + encFmt fmt * 512 + encRm rm + encXSrc a * 268435456 + encXSrc b * 4194304
  | .vfma vd p fmt rm a b c => encXDst vd * 17179869184 + p.val * 8192 + encFmt fmt * 512 + encRm rm + encXSrc a * 268435456 + encXSrc b * 4194304 + encXSrc c * 65536
  | .vfms vd p fmt rm a b c => encXDst vd * 17179869184 + p.val * 8192 + encFmt fmt * 512 + encRm rm + encXSrc a * 268435456 + encXSrc b * 4194304 + encXSrc c * 65536
  | .vfnma vd p fmt rm a b c => encXDst vd * 17179869184 + p.val * 8192 + encFmt fmt * 512 + encRm rm + encXSrc a * 268435456 + encXSrc b * 4194304 + encXSrc c * 65536
  | .vmin vd p fmt a b => encXDst vd * 17179869184 + p.val * 8192 + encFmt fmt * 512 + encXSrc a * 268435456 + encXSrc b * 4194304
  | .vmax vd p fmt a b => encXDst vd * 17179869184 + p.val * 8192 + encFmt fmt * 512 + encXSrc a * 268435456 + encXSrc b * 4194304
  | .vabs vd p fmt a => encXDst vd * 17179869184 + p.val * 8192 + encFmt fmt * 512 + encXSrc a * 268435456
  | .vneg vd p fmt a => encXDst vd * 17179869184 + p.val * 8192 + encFmt fmt * 512 + encXSrc a * 268435456
  | .vdiv vd p fmt rm a b => encXDst vd * 17179869184 + p.val * 8192 + encFmt fmt * 512 + encRm rm + encXSrc a * 268435456 + encXSrc b * 4194304
  | .vsqrt vd p fmt rm a => encXDst vd * 17179869184 + p.val * 8192 + encFmt fmt * 512 + encRm rm + encXSrc a * 268435456
  | .vrcp vd p fmt rm a => encXDst vd * 17179869184 + p.val * 8192 + encFmt fmt * 512 + encRm rm + encXSrc a * 268435456
  | .vrsq vd p fmt rm a => encXDst vd * 17179869184 + p.val * 8192 + encFmt fmt * 512 + encRm rm + encXSrc a * 268435456
  | .vexp2 vd p fmt a => encXDst vd * 17179869184 + p.val * 8192 + encFmt fmt * 512 + encXSrc a * 268435456
  | .vlog2 vd p fmt rm a => encXDst vd * 17179869184 + p.val * 8192 + encFmt fmt * 512 + encRm rm + encXSrc a * 268435456
  | .vclamp vd p fmt a b c => encXDst vd * 17179869184 + p.val * 8192 + encFmt fmt * 512 + encXSrc a * 268435456 + encXSrc b * 4194304 + encXSrc c * 65536
  | .vrope vd p fmt a b c => encXDst vd * 17179869184 + p.val * 8192 + encFmt fmt * 512 + encXSrc a * 268435456 + encXSrc b * 4194304 + encXSrc c * 65536
  | .viadd vd p fmt sat a b => encXDst vd * 17179869184 + p.val * 8192 + encFmt fmt * 512 + encBool sat + encXSrc a * 268435456 + encXSrc b * 4194304
  | .visub vd p fmt sat a b => encXDst vd * 17179869184 + p.val * 8192 + encFmt fmt * 512 + encBool sat + encXSrc a * 268435456 + encXSrc b * 4194304
  | .vimul vd p fmt sat a b => encXDst vd * 17179869184 + p.val * 8192 + encFmt fmt * 512 + encBool sat + encXSrc a * 268435456 + encXSrc b * 4194304
  | .vimulh vd p fmt a b => encXDst vd * 17179869184 + p.val * 8192 + encFmt fmt * 512 + encXSrc a * 268435456 + encXSrc b * 4194304
  | .vimin vd p fmt a b => encXDst vd * 17179869184 + p.val * 8192 + encFmt fmt * 512 + encXSrc a * 268435456 + encXSrc b * 4194304
  | .vimax vd p fmt a b => encXDst vd * 17179869184 + p.val * 8192 + encFmt fmt * 512 + encXSrc a * 268435456 + encXSrc b * 4194304
  | .vand vd p fmt a b => encXDst vd * 17179869184 + p.val * 8192 + encFmt fmt * 512 + encXSrc a * 268435456 + encXSrc b * 4194304
  | .vor vd p fmt a b => encXDst vd * 17179869184 + p.val * 8192 + encFmt fmt * 512 + encXSrc a * 268435456 + encXSrc b * 4194304
  | .vxor vd p fmt a b => encXDst vd * 17179869184 + p.val * 8192 + encFmt fmt * 512 + encXSrc a * 268435456 + encXSrc b * 4194304
  | .vandn vd p fmt a b => encXDst vd * 17179869184 + p.val * 8192 + encFmt fmt * 512 + encXSrc a * 268435456 + encXSrc b * 4194304
  | .vshl vd p fmt a b => encXDst vd * 17179869184 + p.val * 8192 + encFmt fmt * 512 + encXSrc a * 268435456 + encXSrc b * 4194304
  | .vshr vd p fmt a b => encXDst vd * 17179869184 + p.val * 8192 + encFmt fmt * 512 + encXSrc a * 268435456 + encXSrc b * 4194304
  | .vsar vd p fmt a b => encXDst vd * 17179869184 + p.val * 8192 + encFmt fmt * 512 + encXSrc a * 268435456 + encXSrc b * 4194304
  | .vpopc vd p fmt a => encXDst vd * 17179869184 + p.val * 8192 + encFmt fmt * 512 + encXSrc a * 268435456
  | .vclz vd p fmt a => encXDst vd * 17179869184 + p.val * 8192 + encFmt fmt * 512 + encXSrc a * 268435456
  | .visat vd p fmt tgt a => encXDst vd * 17179869184 + p.val * 8192 + encFmt fmt * 512 + encFmt tgt * 32 + encXSrc a * 268435456
  | .vaddi vd p fmt rm a imm => encXDst vd * 17179869184 + p.val * 512 + encFmt fmt * 32 + encRm rm + encXSrc a * 268435456 + imm.toNat * 4096
  | .vmuli vd p fmt rm a imm => encXDst vd * 17179869184 + p.val * 512 + encFmt fmt * 32 + encRm rm + encXSrc a * 268435456 + imm.toNat * 4096
  | .viaddi vd p fmt sat a imm => encXDst vd * 17179869184 + p.val * 512 + encFmt fmt * 32 + encBool sat + encXSrc a * 268435456 + imm.toNat * 4096
  | .vandi vd p fmt a imm => encXDst vd * 17179869184 + p.val * 512 + encFmt fmt * 32 + encXSrc a * 268435456 + imm.toNat * 4096
  | .vori vd p fmt a imm => encXDst vd * 17179869184 + p.val * 512 + encFmt fmt * 32 + encXSrc a * 268435456 + imm.toNat * 4096
  | .vshli vd p fmt a imm => encXDst vd * 17179869184 + p.val * 512 + encFmt fmt * 32 + encXSrc a * 268435456 + imm.toNat * 4096
  | .vshri vd p fmt a imm => encXDst vd * 17179869184 + p.val * 512 + encFmt fmt * 32 + encXSrc a * 268435456 + imm.toNat * 4096
  | .vcvt vd p fmt rm dst a => encXDst vd * 17179869184 + p.val * 8192 + encFmt fmt * 512 + encRm rm + encFmt dst * 32 + encXSrc a * 268435456
  | .vpack vd p fmt rm dst q a b c => encXDst vd * 17179869184 + p.val * 8192 + encFmt fmt * 512 + encRm rm + encFmt dst * 32 + q.val * 8 + encXSrc a * 268435456 + encXSrc b * 4194304 + encXSrc c * 65536
  | .vunpk vd p fmt rm dst q a => encXDst vd * 17179869184 + p.val * 8192 + encFmt fmt * 512 + encRm rm + encFmt dst * 32 + q.val * 8 + encXSrc a * 268435456
  | .vcbdec vd p fmt g a => encXDst vd * 17179869184 + p.val * 8192 + encFmt fmt * 512 + g.val * 8 + encXSrc a * 268435456
  | .vscale vd p fmt rm a b => encXDst vd * 17179869184 + p.val * 8192 + encFmt fmt * 512 + encRm rm + encXSrc a * 268435456 + encXSrc b * 4194304
  | .vkeyx vd p fmt inv a => encXDst vd * 17179869184 + p.val * 8192 + encFmt fmt * 512 + encBool inv + encXSrc a * 268435456
  | .vdigit vd p fmt d8 a b => encXDst vd * 17179869184 + p.val * 8192 + encFmt fmt * 512 + encBool d8 + encXSrc a * 268435456 + encXSrc b * 4194304
  | .vcmp pd pa cop fmt h a b => pd.val * 68719476736 + pa.val * 8589934592 + encVCmp cop * 1024 + encFmt fmt * 16384 + h.val + encXSrc a * 16777216 + encXSrc b * 262144
  | .vcmpi pd pa cop fmt a imm => pd.val * 68719476736 + pa.val * 8589934592 + encVCmp cop * 1024 + encFmt fmt * 16384 + encXSrc a * 16777216 + imm.toNat / 1024 * 262144 + imm.toNat % 1024
  | .pand pd pa pb => pd.val * 68719476736 + pa.val * 8589934592 + pb.val * 1073741824
  | .por pd pa pb => pd.val * 68719476736 + pa.val * 8589934592 + pb.val * 1073741824
  | .pxor pd pa pb => pd.val * 68719476736 + pa.val * 8589934592 + pb.val * 1073741824
  | .pnot pd pa => pd.val * 68719476736 + pa.val * 8589934592
  | .pcnt pa => pa.val * 8589934592
  | .pfirst pd pa => pd.val * 68719476736 + pa.val * 8589934592
  | .vrsum vd p fmt x a => encXDst vd * 17179869184 + p.val * 8192 + encFmt fmt * 512 + encBool x * 8 + encXSrc a * 268435456
  | .vrmax vd p fmt x a => encXDst vd * 17179869184 + p.val * 8192 + encFmt fmt * 512 + encBool x * 8 + encXSrc a * 268435456
  | .vrmin vd p fmt x a => encXDst vd * 17179869184 + p.val * 8192 + encFmt fmt * 512 + encBool x * 8 + encXSrc a * 268435456
  | .vargmax vd p fmt x a => encXDst vd * 17179869184 + p.val * 8192 + encFmt fmt * 512 + encBool x * 8 + encXSrc a * 268435456
  | .vargmin vd p fmt x a => encXDst vd * 17179869184 + p.val * 8192 + encFmt fmt * 512 + encBool x * 8 + encXSrc a * 268435456
  | .vscan vd p fmt a => encXDst vd * 17179869184 + p.val * 8192 + encFmt fmt * 512 + encXSrc a * 268435456
  | .vhist vd p fmt a b => encXDst vd * 17179869184 + p.val * 8192 + encFmt fmt * 512 + encXSrc a * 268435456 + encXSrc b * 4194304
  | .vmov vd p fmt a => encXDst vd * 17179869184 + p.val * 8192 + encFmt fmt * 512 + encXSrc a * 268435456
  | .vsel vd p fmt a b c => encXDst vd * 17179869184 + p.val * 8192 + encFmt fmt * 512 + encXSrc a * 268435456 + encXSrc b * 4194304 + encXSrc c * 65536
  | .vperm vd p fmt a b => encXDst vd * 17179869184 + p.val * 8192 + encFmt fmt * 512 + encXSrc a * 268435456 + encXSrc b * 4194304
  | .vrot vd p fmt a b => encXDst vd * 17179869184 + p.val * 8192 + encFmt fmt * 512 + encXSrc a * 268435456 + encXSrc b * 4194304
  | .vbcast vd p fmt a b => encXDst vd * 17179869184 + p.val * 8192 + encFmt fmt * 512 + encXSrc a * 268435456 + encXSrc b * 4194304
  | .vcompress vd p fmt x a => encXDst vd * 17179869184 + p.val * 8192 + encFmt fmt * 512 + encBool x * 8 + encXSrc a * 268435456
  | .vexpand vd p fmt a b => encXDst vd * 17179869184 + p.val * 8192 + encFmt fmt * 512 + encXSrc a * 268435456 + encXSrc b * 4194304
  | .vlane fmt a k => encFmt fmt * 512 + encXSrc a * 268435456 + k.toNat + 532575944704
  | .vins vd p fmt a b k => encXDst vd * 17179869184 + p.val * 8192 + encFmt fmt * 512 + encXSrc a * 268435456 + encXSrc b * 4194304 + k.toNat
  | .defer a b p => encXSrc a * 268435456 + encXSrc b * 4194304 + p.val * 8192 + 532575944704
  | .drain vd dsel => encXDst vd * 17179869184 + encDrainSel dsel
  | .dcount => 532575944704
  | .dclear => 532575944704
  | .accrd vd acc row p fmt => encXDst vd * 17179869184 + acc.val * 4294967296 + row.toNat * 65536 + p.val * 8192 + encFmt fmt * 512
  | .accwr v acc row p fmt => v.val * 17179869184 + acc.val * 4294967296 + row.toNat * 65536 + p.val * 8192 + encFmt fmt * 512
  | .accz acc => acc.val * 4294967296 + 532575944704
  | .siderd vd acc p sum => encXDst vd * 17179869184 + acc.val * 4294967296 + p.val * 8192 + encBool sum
  | .xjmp t => encTarget t
  | .xbdec k t => k.val * 68719476736 + encTarget t
  | .xloopset k n t => k.val * 68719476736 + n.toNat * 8388608 + encTarget t
  | .xbany p t => p.val * 68719476736 + encTarget t
  | .xbnone p t => p.val * 68719476736 + encTarget t
  | .xmouldf => 0
  | .lnop => 0
  | .ldq oq a cl fmt cnt inc imm => oq.val * 68719476736 + a.val * 4294967296 + encCls cl * 1073741824 + encFmt fmt * 67108864 + cnt.toNat * 1048576 + encInc inc * 262144 + imm.toNat
  | .ldqb oq a cl fmt inc imm => oq.val * 68719476736 + a.val * 4294967296 + encCls cl * 1073741824 + encFmt fmt * 67108864 + encInc inc * 262144 + imm.toNat
  | .ldqs oq a cl fmt cnt inc imm => oq.val * 68719476736 + a.val * 4294967296 + encCls cl * 1073741824 + encFmt fmt * 67108864 + cnt.toNat * 1048576 + encSInc inc * 262144 + imm.toNat
  | .ldqg oq ag cl fmt cb => oq.val * 68719476736 + ag.val * 17179869184 + encCls cl * 4294967296 + encFmt fmt * 268435456 + cb.val * 67108864
  | .lgen oq ag cl fmt s => oq.val * 68719476736 + ag.val * 17179869184 + encCls cl * 4294967296 + encFmt fmt * 268435456 + s.val * 33554432
  | .ldqk oq a cl fmt t g => oq.val * 68719476736 + a.val * 4294967296 + encCls cl * 1073741824 + encFmt fmt * 67108864 + t.toNat + g.toNat * 64
  | .lpf a cl cnt inc imm => a.val * 4294967296 + encCls cl * 1073741824 + cnt.toNat * 1048576 + encInc inc * 262144 + imm.toNat
  | .agset ag grp => ag.val * 17179869184 + encAgGroup grp
  | .agidx ag => ag.val * 17179869184
  | .agrst ag => ag.val * 17179869184
  | .laddi ad as imm => ad.val * 34359738368 + as.val * 2147483648 + imm.toNat
  | .lmovi ad imm => ad.val * 34359738368 + imm.toNat
  | .ladd ad as => ad.val * 34359738368 + as.val * 2147483648
  | .lpopc ad => ad.val * 34359738368
  | .lgcb cb => cb.val * 17179869184
  | .cbclr cb => cb.val * 17179869184
  | .cbget cb => cb.val * 17179869184
  | .ljmp t => encTarget t
  | .lbdec k t => k.val * 68719476736 + encTarget t
  | .lloopset k n t => k.val * 68719476736 + n.toNat * 8388608 + encTarget t
  | .lmouldf => 0
  | .snop => 0
  | .stq sq b cl fmt inc imm => sq.val * 137438953472 + b.val * 8589934592 + encCls cl * 2147483648 + encFmt fmt * 134217728 + encInc inc * 33554432 + imm.toNat
  | .stqs sq b cl fmt inc imm => sq.val * 137438953472 + b.val * 8589934592 + encCls cl * 2147483648 + encFmt fmt * 134217728 + encSInc inc * 33554432 + imm.toNat
  | .stqg sq b cl fmt imm => sq.val * 137438953472 + b.val * 8589934592 + encCls cl * 2147483648 + encFmt fmt * 134217728 + imm.toNat
  | .sgen sq b cl fmt sp s stride => sq.val * 137438953472 + b.val * 8589934592 + encCls cl * 2147483648 + encFmt fmt * 134217728 + encBool sp * 33554432 + s.val * 4194304 + stride.toNat
  | .stn sq b cl fmt step off h => sq.val * 137438953472 + b.val * 8589934592 + encCls cl * 2147483648 + encFmt fmt * 134217728 + encStnInc step * 33554432 + off.toNat * 16 + h.val
  | .aadd b cl fmt rt d64 off => b.val * 8589934592 + encCls cl * 2147483648 + encFmt fmt * 134217728 + encBool rt * 67108864 + encBool d64 * 33554432 + off.toNat
  | .afadd b cl fmt rt d64 off => b.val * 8589934592 + encCls cl * 2147483648 + encFmt fmt * 134217728 + encBool rt * 67108864 + encBool d64 * 33554432 + off.toNat
  | .amax b cl fmt rt d64 off => b.val * 8589934592 + encCls cl * 2147483648 + encFmt fmt * 134217728 + encBool rt * 67108864 + encBool d64 * 33554432 + off.toNat
  | .amin b cl fmt rt d64 off => b.val * 8589934592 + encCls cl * 2147483648 + encFmt fmt * 134217728 + encBool rt * 67108864 + encBool d64 * 33554432 + off.toNat
  | .aand b cl fmt rt d64 off => b.val * 8589934592 + encCls cl * 2147483648 + encFmt fmt * 134217728 + encBool rt * 67108864 + encBool d64 * 33554432 + off.toNat
  | .aor b cl fmt rt d64 off => b.val * 8589934592 + encCls cl * 2147483648 + encFmt fmt * 134217728 + encBool rt * 67108864 + encBool d64 * 33554432 + off.toNat
  | .axor b cl fmt rt d64 off => b.val * 8589934592 + encCls cl * 2147483648 + encFmt fmt * 134217728 + encBool rt * 67108864 + encBool d64 * 33554432 + off.toNat
  | .axchg b cl fmt rt d64 off => b.val * 8589934592 + encCls cl * 2147483648 + encFmt fmt * 134217728 + encBool rt * 67108864 + encBool d64 * 33554432 + off.toNat
  | .acas b cl fmt rt d64 off => b.val * 8589934592 + encCls cl * 2147483648 + encFmt fmt * 134217728 + encBool rt * 67108864 + encBool d64 * 33554432 + off.toNat
  | .ahist sq b cl fmt off => sq.val * 137438953472 + b.val * 8589934592 + encCls cl * 2147483648 + encFmt fmt * 134217728 + off.toNat
  | .acq b cl gen off => b.val * 8589934592 + encCls cl * 2147483648 + encBool gen * 16777216 + off.toNat
  | .tryacq b cl gen off => b.val * 8589934592 + encCls cl * 2147483648 + encBool gen * 16777216 + off.toNat
  | .rel b cl off => b.val * 8589934592 + encCls cl * 2147483648 + off.toNat
  | .sobind b cl slot off => b.val * 8589934592 + encCls cl * 2147483648 + slot.val * 16777216 + off.toNat
  | .tcinc c n => c.toNat + n.toNat * 256
  | .saddi ad as imm => ad.val * 34359738368 + as.val * 2147483648 + imm.toNat
  | .smovi ad imm => ad.val * 34359738368 + imm.toNat
  | .sadd ad as => ad.val * 34359738368 + as.val * 2147483648
  | .spopc ad => ad.val * 34359738368
  | .sjmp t => encTarget t
  | .sbdec k t => k.val * 68719476736 + encTarget t
  | .sloopset k n t => k.val * 68719476736 + n.toNat * 8388608 + encTarget t
  | .smouldf => 0
  | _ => 0

/-- The reading of opcode and operand field by a cluster's grid (R33, R50, R51). The last two checks refuse every set
bit that the format marks 0 and every value that the instruction does not accept. -/
def decodeInstr (cl : Cluster) (op b : Nat) : Except DecodeErr Instr :=
  match (match cl with | .c => gridC op b | .x => gridX op b | .l => gridL op b | .s => gridS op b) with
  | none => .error .reservedOpcode
  | some none => .error .reservedField
  | some (some i) =>
    if i.operands = b then (if i.wf then .ok i else .error .badField) else .error .nonZeroBits

def decTMode (n : Nat) : Option TMode :=
  match n with | 0 => some .idle | 1 => some .frame | 2 => some .task | _ => none
def encTMode : TMode → Nat
  | .idle => 0 | .frame => 1 | .task => 2

/-- The reading of a whole long word W by the cluster that executes it (R33). -/
def decodeWord (cl : Cluster) (w : Nat) : Except DecodeErr LongWord :=
  match decTMode (fld w 61 2) with
  | none => .error .badTiming
  | some tm =>
    match decodeInstr cl (fld w 39 7) (fld w 0 39) with
    | .ok i => .ok ⟨tm, BitVec.ofNat 15 (fld w 46 15), i⟩
    | .error e => .error e

/-- An item of a line's payload (R22). -/
inductive Item where
  | padding
  | idle (v : BitVec 5)
  | short (m : BitVec 10) (c : BitVec 5)
  | long (w : Nat)
  deriving DecidableEq, Repr

/-- The parcels an item takes (R22). -/
def Item.size : Item → Nat
  | .long _ => 4
  | _ => 1

/-- The long word of four parcels, most significant first (R33). -/
def wordOfParcels (p0 p1 p2 p3 : Nat) : Nat := p0 * 281474976710656 + p1 * 4294967296 + p2 * 65536 + p3

/-- The item that begins at parcel at_ of a line, from its parcels (R22, R32). -/
def decodeItem (at_ : Nat) (ps : List Nat) : Except DecodeErr Item :=
  match ps with
  | [] => .error .noParcel
  | p :: rest =>
    if p = 65535 then .ok .padding
    else if 32768 ≤ p then
      let m := fld p 5 10
      if m = 1023 then .ok (.idle (BitVec.ofNat 5 p)) else .ok (.short (BitVec.ofNat 10 m) (BitVec.ofNat 5 p))
    else if 29 ≤ at_ then .error .straddle
    else match rest with
      | p1 :: p2 :: p3 :: _ => .ok (.long (wordOfParcels p p1 p2 p3))
      | _ => .error .straddle

/-- The 16-bit parcel of two bytes, low byte first (R30). -/
def parcelOfBytes (b0 b1 : Byte) : Nat := b0.toNat + 256 * b1.toNat

/-- The parcels of a byte string (R30). -/
def parcelsOfBytes : List Byte → List Nat
  | b0 :: b1 :: rest => parcelOfBytes b0 b1 :: parcelsOfBytes rest
  | _ => []

/-- The two bytes of a parcel (R30). -/
def bytesOfParcel (p : Nat) : List Byte := [BitVec.ofNat 8 p, BitVec.ofNat 8 (p / 256)]

/-- The item's instruction, as the cluster executes it: what a short parcel expands to is the mould's business (R57). -/
def decodeBytes (cl : Cluster) (at_ : Nat) (bs : List Byte) : Except DecodeErr Instr :=
  match decodeItem at_ (parcelsOfBytes bs) with
  | .error e => .error e
  | .ok .padding => .error .noParcel
  | .ok (.idle v) => .ok (.idle v)
  | .ok (.short m c) => .ok (.shortParcel m c cl)
  | .ok (.long w) =>
    match decodeWord cl w with
    | .ok lw => .ok lw.instr
    | .error e => .error e

/-- The bytes of a table word: parcels counted from its least significant 16 bits, each stored low byte first (R30). -/
def tableBytes (w : Nat) : List Byte :=
  bytesOfParcel (fld w 0 16) ++ bytesOfParcel (fld w 16 16) ++ bytesOfParcel (fld w 32 16) ++ bytesOfParcel (fld w 48 16)

/-- The instruction that the decoder reads at parcel 2 of a C line from a table word of nbits bits, the rest 0. -/
def decodeTableWord (nbits w : Nat) : Option Instr :=
  match decodeBytes .c 2 (tableBytes (w % 2 ^ nbits)) with
  | .ok i => some i
  | .error _ => none

/-- The encoder: the long word of a timed instruction (R33). -/
def encode (lw : LongWord) : Nat :=
  encTMode lw.tm * 2305843009213693952 + lw.t.toNat * 70368744177664 + lw.instr.opcode * 549755813888 + lw.instr.operands

/-- The four parcels of a long word, most significant first (R33). -/
def parcelsOfWord (w : Nat) : List Nat := [fld w 48 16, fld w 32 16, fld w 16 16, fld w 0 16]

/-- The bytes of a long word in a code line (R30, R33). -/
def bytesOfWord (w : Nat) : List Byte := (parcelsOfWord w).flatMap bytesOfParcel

/-- The parcel of IDLE v (R23). -/
def encodeIdle (v : BitVec 5) : Nat := 65504 + v.toNat

/-- A short parcel (R32). -/
def encodeShort (m : BitVec 10) (c : BitVec 5) : Nat := 32768 + m.toNat * 32 + c.toNat

/-- The byte string of an instruction in a code line, a long word with the timing given. -/
def encodeBytes (tm : TMode) (t : BitVec 15) : Instr → List Byte
  | .idle v => bytesOfParcel (encodeIdle v)
  | .shortParcel m c _ => bytesOfParcel (encodeShort m c)
  | i => bytesOfWord (encode ⟨tm, t, i⟩)

/-- The number of a system register (R44). -/
abbrev SysReg.code : SysReg → Nat := encSysReg

end Sys2Proof
end

