-- ==== Sys2Proof/Machine/State.lean ====
section
/-! DEFINITION. The state of the machine: plain data, holding every piece of state that the spec gives the domain,
with the reset state. -/

namespace Sys2Proof.Machine

/-- A code position with its cluster: what TRAPLINE names (R102, R307). -/
structure Pos where
  cl : Cluster
  line : Nat
  parcel : Nat
  deriving DecidableEq, Repr

/-- An address generator (R161): strides and counts of dimensions 0 to 3 and their indices; a count of 0 means 65,536. -/
structure AddrGen where
  base : Word
  stride : Vector (BitVec 32) 4
  count : Vector (BitVec 16) 4
  idx : Vector Nat 4
  ind : BitVec 3
  tb : BitVec 20
  bound : BitVec 32
  deriving DecidableEq, Repr

/-- What lands at a result landing (R16, R85, R117, R130, R155): the destination and the value. -/
inductive Landing where
  /-- A C value: pushed onto h0, and written to an s register when one is named (R16). -/
  | cval (v : Word) (dst : Option (Fin 32))
  /-- An X vector: pushed with inactive lanes 0, and written to a v register under the mask (R117, R118). -/
  | xvec (v : Vec) (dst : Option (Fin 16)) (mask : Word)
  /-- A predicate (R141). -/
  | pred (pd : Fin 8) (v : Word)
  /-- A loop counter (R103, R152, R169). -/
  | loop (cl : Cluster) (k : Fin 4) (v : BitVec 32)
  /-- An L address register (R155, R168). -/
  | areg (i : Fin 16) (v : Word)
  /-- An S address register (R155, R168). -/
  | breg (i : Fin 16) (v : Word)
  /-- An address generator after AGSET, AGIDX, AGRST, LGEN or LDQG (R163, R164, R165). -/
  | ag (i : Fin 4) (g : AddrGen)
  /-- A completion bitmap (R165, R167). -/
  | cb (i : Fin 4) (v : Word)
  /-- CBCLR's effect: the bitmap and any open entry that records it (R167). -/
  | cbClear (i : Fin 4)
  /-- A PUTC's register write at I + 1 (R107). -/
  | sysreg (r : SysReg) (v : Word)
  /-- ACCWR's row write at I + 2 (R150). -/
  | accRow (t : Fin 4) (fmt : Fmt) (row : BitVec 16) (v : Vec) (mask : Word)
  /-- ACCZ's clearing of a tile at I + 2 (R150). -/
  | accZero (t : Fin 4)
  /-- MNEST's write of a shadow entry at I + 1 (R254). -/
  | nest (e : Fin 10) (a b : Word) (n : Nat)
  /-- LDQK's turned key row enters its reserved oq entry (R159). -/
  | marker
  deriving DecidableEq, Repr

/-- What a load or store does with its bytes at its perform cycle (R104, R105, R154). -/
inductive AccKind where
  /-- LD, LDS: the destination register and the reserved channel place, if any, and the sign extension. -/
  | ldC (dst : Option (Fin 32)) (chan : Option (Nat × Nat)) (signed : Bool)
  /-- LDQ, LDQB, LDQS, LGEN: fills entry id of channel ch with the bytes read, the rest 0. -/
  | ldQ (ch : Nat) (id : Nat)
  /-- LDQG: fills the named lanes, 4 bytes each, of entry id; the entry lands when complete. -/
  | ldG (ch : Nat) (id : Nat) (lanes : List Nat) (complete : Bool)
  /-- A store of bytes (R170), in ascending order of priority (R174). -/
  | st (bytes : List Byte)
  /-- STN: nibbles, true for bits [7:4] (R172). -/
  | stn (nibs : List (Bool × BitVec 4))
  deriving DecidableEq, Repr

/-- A memory element of an access (R154): its virtual address, bytes, lane and physical address. -/
structure El where
  va : Word
  z : Nat
  lane : Nat
  pa : Nat
  deriving DecidableEq, Repr

/-- A load or store in flight: its elements in order, and the item (R154). -/
structure Access where
  kind : AccKind
  els : List El
  pos : Pos
  /-- What a load has read in a member's timeline while its own core was stopped: it lands after the resume (R313). -/
  data : Option (List Byte)
  deriving DecidableEq, Repr

/-- The atomic operations (R226). -/
inductive AtomOp where
  | add | fadd | max | min | and | or | xor | xchg | cas
  deriving DecidableEq, Repr

/-- An atomic in flight (R226). -/
structure AtomReq where
  op : AtomOp
  signed : Bool
  size : Nat
  pa : Nat
  va : Word
  v : Word
  n : Word
  ret : Option Nat
  pos : Pos
  deriving DecidableEq, Repr

/-- An acquire in flight (R219, R220, R222): object, target generation, and TRYACQ's reserved sr place. -/
structure AcqReq where
  pa : Nat
  va : Word
  gen : Option (BitVec 32)
  chan : Option Nat
  pos : Pos
  deriving DecidableEq, Repr

/-- A release in flight (R217, R223). -/
structure RelReq where
  pa : Nat
  va : Word
  pos : Pos
  deriving DecidableEq, Repr

/-- A SOBIND in flight (R224). -/
structure BindReq where
  pa : Nat
  va : Word
  slot : Fin 4
  base : Word
  len : Word
  pos : Pos
  deriving DecidableEq, Repr

/-- What an LDQK has read of its block-table entry (R159): the key row's address, its head dimension code, the token's
position, or none beyond the valid tokens; and the row's bytes, where they have been read in a member's timeline ahead of its own
(R314). -/
structure LdqkRow where
  pa : Nat
  dcode : Nat
  pos : Option Nat
  bytes : Option (List Byte)
  deriving DecidableEq, Repr

/-- An LDQK in flight (R159): entry, class, format, token, pair group, place in the queue, table offset, and what the entry
gave. -/
structure LdqkReq where
  pa : Nat
  va : Word
  cl : Cls
  fmt : Fmt
  t : Nat
  g : Nat
  chan : Nat
  id : Nat
  rope : Nat
  row : Option LdqkRow
  pos : Pos
  deriving DecidableEq, Repr

/-- A PDONE in flight (R350): the frieze it recorded at issue (its id and formation number). -/
structure PdoneReq where
  op : PdoneOp
  lane : FzLane
  row : Nat
  n : BitVec 16
  addr : Word
  formed : Nat
  pos : Pos
  /-- Its outcome is told already, ahead of the port (R352). -/
  told : Bool
  deriving DecidableEq, Repr

/-- A fabric flit (R358, R360): its port (hub's package and port number), the time slot it was sent in, the cycle its
data is due, whether its CRC is good, the cores whose accesses need it, and the hold that waits for it. Ports 0 to 15 are the
fabric ports, 16 to 23 the links of dies 0 to 7, 24 + 2d and 25 + 2d the ring's lanes E and W of die d (log entry 66). -/
structure Flit where
  package : Nat
  port : Nat
  slot : Nat
  due : Nat
  good : Bool
  users : List CoreId
  hold : Option Nat
  deriving DecidableEq, Repr

/-- An MSIDE load or an MRSC (R264, R265): its number, what it does, its tile, the elements it reads. -/
structure SideReq where
  id : Nat
  /-- 0 load, 1 rescale to new maxima, 2 norm. -/
  kind : Nat
  tile : Fin 4
  els : List El
  data : List Byte
  pos : Pos
  deriving DecidableEq, Repr

/-- A node of a graph: the die that keeps it, the header's address and the node's index (R181, R182). -/
structure NodeRef where
  die : Nat
  graph : Nat
  node : Nat
  deriving DecidableEq, Repr

/-- A task descriptor (R176), bases in bytes. -/
structure Desc where
  code : Nat
  imagelen : Nat
  imagebase : Nat
  mouldlen : Nat
  mouldbase : Nat
  mouldva : Nat
  clusters : Nat
  argva : Nat
  arglen : Nat
  argbase : Nat
  budget : Nat
  locked : Bool
  slot : Nat
  recsize : Nat
  deriving DecidableEq, Repr

/-- The launch of a task (R176, R177): its node, graph id, descriptor with its address, lock group, rank and size or first
record and count, domain tag, function, and the number of the running node. -/
structure LaunchReq where
  ref : NodeRef
  graphId : Nat
  descVa : Nat
  desc : Desc
  group : Nat
  a : Nat
  b : Nat
  tag : Nat
  fn : Nat
  run : Nat
  deriving DecidableEq, Repr

/-- What has arrived in a landing buffer (R314, R322): its place in the issue order, the cycle of the timeline at which it performs, its first
physical address and its number of bytes. -/
structure Arrival where
  ord : Nat
  due : Nat
  pa : Nat
  n : Nat
  deriving DecidableEq, Repr

/-- What an event is about (log entry 2). -/
inductive Arg where
  | none
  | landing (l : Landing)
  | chan (ch id : Nat) (v : Vec)
  | access (a : Access)
  | ids (i j : Nat)
  /-- A beat or block of a request: its number, the beat, and whether it is the first part of the event's work. -/
  | beat (id j : Nat) (first : Bool)
  | acq (r : AcqReq)
  | rel (r : RelReq)
  | bind (r : BindReq)
  | atom (r : AtomReq)
  | hist (pa : Nat) (va : Word) (v : Vec) (mask : Word) (pos : Pos)
  | ldqk (r : LdqkReq)
  | side (r : SideReq)
  | pdone (r : PdoneReq)
  | flit (f : Flit)
  | words (a b : Word)
  | scope (sc : Scope)
  | cmd (f slot : Nat)
  | bytes (f : Nat) (off : Nat) (bs : List Byte)
  /-- A node of a graph, with the cause of a fault or 0, and the word, that its evaluation read (R187). -/
  | node (ref : NodeRef) (read : Option (Nat × Nat))
  /-- A TSPAWN (R195): node form, header address, node index, domain tag and function. -/
  | spawn (node : Bool) (graph index tag fn : Nat)
  | launch (r : LaunchReq)
  /-- What arrives at a core (R314). -/
  | arrival (c : CoreId) (a : Arrival)
  /-- A cycle of a launch's copies (R176): the die that loads, the descriptor and the number of the cycle. -/
  | load (die : Nat) (d : Desc) (k : Nat)
  /-- A beat of a lane's ring (R342). -/
  | lane (l : FzLane) (ring j : Nat)
  /-- An alignment flit (R364): the package it came from and the difference found, or a module's skew. -/
  | skew (package : Nat) (diff : Int)
  deriving DecidableEq, Repr

/-- Memory: (address, byte) pairs, addresses strictly rising, no entry equal to 0, which is what an unlisted byte
reads as (R199, R390: log entry 1). -/
abbrev Mem := List Host.Cell

/-- The byte an unlisted address reads as (log entry 1). -/
def Mem.unlisted : Byte := 0

/-- The canonical form, from a lower bound on the first address. -/
def Mem.wfFrom : Nat → Mem → Bool
  | _, [] => true
  | lo, (a, b) :: rest => decide (lo ≤ a) && (b != Mem.unlisted) && Mem.wfFrom (a + 1) rest

/-- The canonical form of memory. -/
def Mem.wf (m : Mem) : Bool := Mem.wfFrom 0 m

/-- Why the machine stops. No rule of the spec stops the whole machine: every fault of the KX8 is a trap that the
machine goes on from. -/
inductive Fault where
  /-- Raised by step alone, when nothing is due and nothing ever will be: the machine waits for an input that is not
  listed. Safe: no state follows. -/
  | waitsForever
  deriving DecidableEq, Repr

/-- Why an instruction has no meaning at a state. -/
inductive Refusal where
  /-- An instruction without a meaning yet, by its mnemonic. Safe. -/
  | notModelled (mnemonic : String)
  /-- Raised by an event's meaning when the request that the event belongs to is not pending, so that the event
  cannot come about in this state. Safe: the hardware never raises it either. -/
  | notPending (event : String)
  deriving DecidableEq, Repr

/-- The cause codes (R306). -/
inductive Cause where
  | illegal | illegalFormat | mouldUndefined | mouldForm | joinForm | stampLate | deadline | promiseMissed | syncLate
  | translateMiss | protection | class_ | align | bound | accBusy | formatUnderflow | operandEmpty | queueFull
  | deferFull | refcountSat | pageIntegrity | castFull | panelMiss | eccUncorrectable | break_ | syscall | preempt
  deriving DecidableEq, Repr

/-- The classes of causes (R306). -/
inductive CauseClass where
  | user | supervisor | fatal
  deriving DecidableEq, Repr

/-- The clock in which something falls due (R213, R304, R310, R314): the domain's, a core's timeline, or the task
clock of a core. -/
inductive Clk where
  | dom
  | tl (c : CoreId)
  | tau (c : CoreId)
  /-- The timeline of a frieze port, which is its ring's common one (R352). -/
  | port (die : Nat) (lane : FzLane)
  deriving DecidableEq, Repr

/-- An event that is to come about: when, for which core it counts (R211), the place of its issue in the core's order
(R105), whether it counts in the in-flight queue (R313), and the event. -/
structure Pending where
  clk : Clk
  due : Nat
  owner : CoreId
  ord : Nat
  ifq : Bool
  ev : Instr
  arg : Arg
  deriving DecidableEq, Repr

/-- One entry of a channel (R113, R114). A 64-bit channel keeps its value in the two lowest lanes. -/
structure ChanEntry where
  id : Nat
  landed : Bool
  v : Vec
  mask : Word
  /-- The completion bitmap that an open gather entry records (R165). -/
  cb : Option (Fin 4)
  deriving DecidableEq, Repr

/-- The C cluster's registers (R14). -/
structure CRegs where
  s : Vector Word 32
  h : Vector Word 16
  k : Vector (BitVec 32) 4
  deriving DecidableEq, Repr

/-- The X cluster's registers (R112). Entry 0 of p is p0. -/
structure XRegs where
  v : Vector Vec 16
  h : Vector Vec 16
  p : Vector Word 8
  k : Vector (BitVec 32) 4
  defq : List Word
  deriving DecidableEq, Repr

/-- The L cluster's registers (R112, R161). -/
structure LRegs where
  a : Vector Word 16
  ag : Vector AddrGen 4
  cb : Vector Word 4
  k : Vector (BitVec 32) 4
  deriving DecidableEq, Repr

/-- The S cluster's registers (R112). -/
structure SRegs where
  b : Vector Word 16
  k : Vector (BitVec 32) 4
  deriving DecidableEq, Repr

/-- An accumulator tile: its words that are not +0, by index, and its side registers (R149). -/
structure Tile where
  words : List (Nat × BitVec 32)
  m : Vector (BitVec 32) 64
  s : Vector (BitVec 32) 64
  deriving DecidableEq, Repr, Inhabited

/-- What a stream has latched at E, to be issued at its issue cycle (R25, R57). -/
inductive Latched where
  | idle (v : BitVec 5)
  /-- A long word, or what a short parcel expanded to. -/
  | word (w : Nat)
  deriving DecidableEq, Repr

/-- Why a C stream waits (R109, R232, R240, R295). -/
inductive Wait where
  | sleepu (v : Nat)
  | waitf (n : Nat)
  | rdvw (m : Nat) (mask : Nat)
  | cwait (n : Nat)
  | cstat
  deriving DecidableEq, Repr

/-- What a cluster's stream is doing (R24, R28, R111, R124, R126). -/
inductive StreamMode where
  | absent
  | run
  | wait (w : Wait)
  /-- Waits at the rendezvous of a joined group. -/
  | arrived (g : Nat)
  /-- Has finished its line of the running joined group; a wait that its last item began goes on (R124). -/
  | lineDone (w : Option Wait)
  | ended
  deriving DecidableEq, Repr

/-- A cluster's stream: the place of its next item, whether the line is still to be entered (R24), the cycle E in
which the item reaches issue, and the item latched at E with its issue cycle. Cycles are of the task clock; in handler
mode those of C are domain cycles (R308). -/
structure Stream where
  mode : StreamMode
  line : Nat
  parcel : Nat
  entering : Bool
  reach : Nat
  latched : Option (Nat × Latched)
  /-- What comes before the next item: the checks of R241, 1 both of them with the target, 2 the integrity check alone; or the stop
  that a TRAP (3) or a BREAK (4) asks for, with its TINFO (R108). -/
  check : Option (Nat × Nat)
  deriving DecidableEq, Repr

/-- A running joined group (R123 to R125): its number, the finish cycle of each line plus 1, and C's taken
transfer (line, parcel) with the cycle two after it, the first in which its target can start. -/
structure Joined where
  g : Nat
  fin : Vector Nat 4
  jump : Option (Nat × Nat × Nat)
  deriving DecidableEq, Repr

/-- A translation walk in progress (R207): the address, the level being read, the table read, the cluster and item
it is for. -/
structure Walk where
  va : Nat
  level : Nat
  table : Nat
  lane : Nat
  progress : Bool
  pos : Pos
  deriving DecidableEq, Repr

/-- Why a free task's clock is paused (R19): a walk, an acquire blocked since a domain cycle, with its place in the order
of waits, or an acquire that has succeeded, until a domain cycle (R221). -/
inductive Pause where
  | walk (w : Walk)
  | acquire (r : AcqReq) (since : Nat) (ord : Nat)
  | resume (at_ : Nat)
  deriving DecidableEq, Repr

/-- What handler mode saved (R308) and, after a PUTC to TCTL, the action (R310). -/
structure Handler where
  h : Vector Word 16
  k : Vector (BitVec 32) 4
  tbase : Word
  stream : Stream
  action : Option Nat
  /-- TRAPLINE as the stop wrote it, to tell a rewrite (R311). -/
  trapline : Word
  /-- p of R310: the last landing or perform cycle of what the handler has issued. -/
  last : Nat
  deriving DecidableEq, Repr

/-- A pre-emption that a PHINT has taken (R327, R329): the record as it was read and checked, whether the drain has ended, and
FRAMECNT and HOLDLAG of the stop's cycle c. -/
structure Drain where
  record : List Byte
  ended : Bool
  clock : Nat
  lag : Nat
  deriving DecidableEq, Repr

/-- A core stopped by its own trap (R306, R308, R312, R327). -/
inductive Trapped where
  /-- The handler runs. -/
  | handler (h : Handler)
  /-- The supervisor core is to act. -/
  | supervisor
  /-- Reported to the host; stopped until RESUME. -/
  | untilResume (trapline : Word)
  /-- Pre-empted: the save engine works (R331). -/
  | saving (beats : Nat) (size : Nat)
  deriving DecidableEq, Repr

/-- An entry of a translation buffer (R206, R207). -/
structure TlbEntry where
  va : Nat
  size : Nat
  pa : Nat
  r : Bool
  w : Bool
  sup : Bool
  pinned : Bool
  used : Nat
  deriving DecidableEq, Repr

/-- A piece of a contiguous virtual range, with its physical address: offset in the range, length, address. -/
structure Seg where
  off : Nat
  len : Nat
  pa : Nat
  deriving DecidableEq, Repr

/-! ### The copy engine (R238 to R244) -/

/-- A copy in progress (R239): its sequence number, batch, source and destination pieces, destination address, length,
latencies, promise, start and completion cycles of the task clock, CRC check with the register and the last four bytes, and the item. -/
structure CopyJob where
  num : BitVec 16
  batch : Nat
  src : List Seg
  dst : List Seg
  sva : Word
  dva : Word
  len : Nat
  latS : Nat
  latD : Nat
  promise : Nat
  start : Nat
  fin : Nat
  crc : Bool
  reg : Nat
  tail : List Byte
  /-- Beats read and not yet written. -/
  buf : List (Nat × List Byte)
  pos : Pos
  deriving DecidableEq, Repr

/-- An open prefetch record (R243): the bytes of its range and its copy's completion cycle. -/
structure PfRec where
  dst : List Seg
  fin : Nat
  deriving DecidableEq, Repr

/-- The copy engine's state of a task (R240 to R244). -/
structure CopyState where
  next : BitVec 16
  /-- S + n of the last copy (R239). -/
  prev : Nat
  /-- The number of the open batch and the promises of its copies. -/
  batch : Nat
  opened : List Nat
  crcFails : Nat
  /-- CRC failures not yet reported: sequence number and computed CRC. -/
  unreported : List (BitVec 16 × BitVec 32)
  records : List PfRec
  /-- The cycle of the last reads and the bytes read in it, for a record that opens in the same cycle. -/
  readAt : Nat × List Nat
  issued : BitVec 32
  inTime : BitVec 32
  late : BitVec 32
  evicted : BitVec 32
  bins : Vector (BitVec 16) 8
  deriving DecidableEq, Repr

/-! ### The matrix unit (R245 to R266) -/

/-- An entry of a walk table (R252). -/
structure WEntry where
  a : Word
  b : Word
  n : Nat
  deriving DecidableEq, Repr, Inhabited

abbrev WalkTab := Vector WEntry 10

/-- A pending walk (R256): its number, latched table and the next command to start. -/
structure MWalk where
  id : Nat
  tab : WalkTab
  next : Nat
  deriving DecidableEq, Repr

/-- The pieces of a sum block's operands whose reads have issued, in the order of their checks (R257, R261). -/
structure BlockOps where
  j : Nat
  segs : List (List Seg)
  deriving DecidableEq, Repr

/-- The operand bytes of a sum block that has been read, with the rows of A that come from a tile (R247). -/
structure BlockData where
  j : Nat
  a : List (List Byte)
  bytes : List (List Byte)
  deriving DecidableEq, Repr

/-- A tile command that has started (R257): its own number, its walk's, its number in the walk, whether it is the walk's
last, its sequence number, format word, current addresses (A, B, SA, SB), table, latency, and its blocks in flight. -/
structure MCmd where
  uid : Nat
  walk : Nat
  no : Nat
  final : Bool
  seq : BitVec 16
  w : Word
  cur : Vector Word 4
  tab : WalkTab
  lat : Nat
  ops : List BlockOps
  data : List BlockData
  deriving DecidableEq, Repr

/-- What the unit's front does next, and when (R257, R258, R261, R262). -/
inductive MPhase where
  | idle
  | start (at_ : Nat)
  /-- Block j of a command is to issue its reads. -/
  | block (uid j : Nat) (at_ : Nat)
  deriving DecidableEq, Repr

/-- A tile owned by a matrix operation until a cycle, both ends included (R258); wr tells that it writes the tile. -/
structure Own where
  id : Nat
  seq : BitVec 16
  tile : Nat
  wr : Bool
  until_ : Option Nat
  deriving DecidableEq, Repr

/-- The matrix unit's state of a task (R252, R255 to R257, R263, R266). -/
structure Mat where
  active : WalkTab
  shadow : WalkTab
  walks : List MWalk
  /-- The format queue: words with their remaining counts. -/
  fq : List (Word × Nat)
  mseq : BitVec 16
  mrowp : Word
  cmds : List MCmd
  phase : MPhase
  freeAt : Nat
  owns : List Own
  /-- MSIDE and MRSC operations, by number. -/
  ops : List Nat
  pipeA : List TlbEntry
  pipeB : List TlbEntry
  deriving DecidableEq, Repr

/-! ### Page instructions, attention and casts (R267 to R297) -/

/-- The page instructions (R272). -/
inductive PageOp where
  | set | add | fork | drop | map (sealing : Bool)
  deriving DecidableEq, Repr

/-- A page instruction in progress (R272): its entry and destination pieces, count, position operand, latency, domain tag,
sum of the valid tokens read so far, pages freed, entries read with the sum before them, and the entry that met a saturated
anchor (R274). -/
structure PageJob where
  op : PageOp
  va : Word
  vb : Word
  a : List Seg
  b : List Seg
  n : Nat
  arg : Word
  lat : Nat
  tag : Nat
  sum : Nat
  freed : Nat
  ents : List (Nat × List Byte × Nat)
  sat : Option Nat
  pos : Pos
  deriving DecidableEq, Repr

/-- A running softmax row (R260, R281). -/
structure SoftRow where
  m : BitVec 32
  s : BitVec 32
  o : List (BitVec 32)
  deriving DecidableEq, Repr

/-- An attention request (R278 to R282): its engine, class, tag, block, the fields read at I with the cycles from S to F
that they fix, S in its clock, and what its steps have read and computed. -/
structure AttnJob where
  engine : Nat
  cl : Cls
  tag : Nat
  va : Word
  blk : List Seg
  ne : Nat
  g : Nat
  dcode : Nat
  select : Bool
  lat : Nat
  span : Nat
  start : Nat
  started : Bool
  /-- S has come, but the request ahead has not finished (R315). -/
  waiting : Bool
  status : Nat
  block : List Byte
  query : List Byte
  omega : List Byte
  proj : List Byte
  ents : List (List Byte)
  bitmap : List Byte
  sigs : List (List Byte)
  rows : List SoftRow
  out : List Seg
  triple : List Seg
  pos : Pos
  deriving DecidableEq, Repr

/-- The cast requests (R289). -/
inductive CastOp where
  | find (hold : Bool) | put (hold : Bool) | rel
  deriving DecidableEq, Repr

/-- The engine's fields of a tree header (R284). -/
structure TreeEng where
  free : Nat
  high : Nat
  used : Nat
  clock : Nat
  ring : Nat
  mismatch : Nat
  lookups : Nat
  evictions : Nat
  full : Nat
  deriving DecidableEq, Repr

/-- A cast request in the die's engine (R288 to R294): what its steps have read and decided so far. The writes that it
makes at F stand in overlay, newest first. -/
structure CastJob where
  op : CastOp
  tag : Nat
  va : Word
  handle : Word
  blk : List Seg
  started : Bool
  waiting : Bool
  overlay : List (Nat × Byte)
  /-- The header's address, once the block has given it, its 128 bytes, and the engine's fields as they go on. -/
  hdr : Option Word
  head : List Byte
  eng : TreeEng
  /-- The start step has found no problem. -/
  good : Bool
  toks : Word
  img : Word
  n : Nat
  /-- The chunk being worked on, its bytes, and the hash with it. -/
  k : Nat
  chunk : List Byte
  h : Nat
  parent : Nat
  best : Nat × Nat
  /-- The probe: its bucket, probes made, first free bucket, candidate handle. -/
  bucket : Nat
  probes : Nat
  free : Option Nat
  cand : Nat
  path : List Nat
  victim : Nat
  status : Nat
  found : Bool
  deposit : Bool
  image : List Byte
  /-- Anchors to fork, and anchors to release with their pages. -/
  anchors : List Nat
  dropped : List (Nat × Nat)
  /-- The bytes that the present step has read. -/
  reads : List Nat
  pos : Pos
  deriving DecidableEq, Repr

/-- A pending cast request of a core as CSTAT sees it (R295): its number, kind and, once complete, status. -/
structure CastEnt where
  id : Nat
  kind : Nat
  done : Option Nat
  deriving DecidableEq, Repr

/-- A member's part in a collective (R367 to R377, R405): its die, the block's address, pieces and bytes, whether it has been read, the
member's own problem, its table and rank, source, destination and status pieces, P and the start in domain cycles, the members'
requests by rank once matched, the status with its rank, F, the chunks released, the source bytes read, and the node it is
issued for. gone: it has ended, and only its source is kept for the other members. -/
structure CollJob where
  die : Nat
  va : Word
  blk : List Seg
  block : List Byte
  read : Bool
  problem : Nat
  table : List Nat
  rank : Option Nat
  src : List Seg
  dst : List Seg
  p : Nat
  start : Option Nat
  group : List Nat
  status : Option Nat
  fin : Nat
  released : List (Nat × Nat)
  data : List (Nat × List Byte)
  node : Option NodeRef
  gone : Bool
  pos : Pos
  deriving DecidableEq, Repr

/-- An accepted engine request (R237, R296). live: its task still runs. -/
inductive JobBody where
  | copy (j : CopyJob)
  | page (j : PageJob)
  | attn (j : AttnJob)
  | cast (j : CastJob)
  | coll (j : CollJob)
  deriving DecidableEq, Repr

structure Job where
  id : Nat
  owner : CoreId
  live : Bool
  body : JobBody
  deriving DecidableEq, Repr

/-- A pending CRESIZE (R200): its target, start and completion, and the count before it. own: the cycles are those of its task's timeline;
once that task has ended, they are the domain's. -/
structure Cresize where
  n : Nat
  start : Nat
  done : Nat
  c0 : Nat
  own : Bool
  deriving DecidableEq, Repr

/-- A marker (R231): its number, the commands it stands behind, and the cycle from which it may retire. -/
structure Marker where
  m : BitVec 12
  behind : List Nat
  earliest : Nat
  deriving DecidableEq, Repr

/-- The task that runs on a core (R176 to R178, R188): what its launch fixed. -/
structure Task where
  locked : Bool
  slot : Nat
  desc : Word
  ref : NodeRef
  graphId : Nat
  budget : Nat
  domtag : BitVec 16
  fn : Nat
  /-- The lock group, by its placement's number (R175); 0 for a free task. -/
  group : Nat
  /-- The chunk's card runs on (first record, count); none for a placement. -/
  chunk : Option (Nat × Nat)
  exit : Option Word
  halted : Bool
  /-- The frieze lanes that the task has used (R352). -/
  lanes : List FzLane
  /-- The number of the running node that it is a task of. -/
  run : Nat
  deriving DecidableEq, Repr

/-- The system registers of a task's context that hold a value of their own (R20, R62, R111, R137, R160, R178, R201,
R232, R307, R319, R328). -/
structure Sys where
  tbase : Word
  imagebase : Word
  imagelen : Word
  mouldbase : Word
  mouldlen : Word
  clusters : Word
  cbtab : Word
  ropetab : Word
  argbase : Word
  walkinfo : Word
  rdv : Vector (BitVec 12) 5
  tcause : Word
  tinfo : Word
  trapline : Word
  tvec : Word
  holdinfo : Word
  preempting : Bool
  preemptOutcome : Nat
  preemptSize : Nat
  preemptRefusals : Nat
  savebase : Word
  savelen : Word
  deriving DecidableEq, Repr

/-- A pending MLOAD (R59): its number, scratchpad source, first entry, count and entries written so far. -/
structure MloadJob where
  id : Nat
  src : Nat
  first : Nat
  n : Nat
  done : Nat
  deriving DecidableEq, Repr

/-- The context of a task (R14, R62, R112, R244, R266, R270, R296): everything that a launch resets. -/
structure Ctx where
  c : CRegs
  x : XRegs
  l : LRegs
  st : SRegs
  chan : Vector (List ChanEntry) 18
  acc : Vector Tile 4
  moulds : List (Nat × BitVec 128)
  stale : Vector (List Nat) 4
  copy : CopyState
  mat : Mat
  /-- Pending cast requests, oldest first (R295, R296). -/
  castq : List CastEnt
  /-- KVSTAT's count of requests ended with PAGE_INTEGRITY (R270). -/
  attnFails : BitVec 16
  /-- COLLST's count of collectives ended with a nonzero status (R380). -/
  collFails : BitVec 16
  /-- The pending MLOADs, oldest first (R59). -/
  mloads : List MloadJob
  sys : Sys
  streams : Vector Stream 4
  joined : Option Joined
  /-- The task clock (R19). -/
  tau : Nat
  /-- HOLDLAG (R304, R319). -/
  lag : Nat
  pause : Option Pause
  /-- The translations that walks have found for the items that are to issue next (R207). -/
  found : List TlbEntry
  /-- The failed walk of an item that is to issue next: address ÷ 65,536, level and reason (R201, R207). -/
  walkFail : Option (Nat × Nat × Nat)
  /-- Steps of engine requests that wait for the walk (R207). -/
  retry : List Pending
  /-- The cast request that a waiting CSTAT is to report (R295). -/
  report : Option Nat
  trapped : Option Trapped
  /-- A PHINT has taken a pre-emption and the task drains (R327). -/
  drain : Option Drain
  markers : Vector (List Marker) 5
  deriving DecidableEq, Repr

/-- A core with the vault beneath it (R1, R199, R201, R207). -/
structure Core where
  task : Option Task
  ctx : Ctx
  ptroot : Word
  tlb : List TlbEntry
  ways : Nat
  cresizes : List Cresize
  /-- The CRESIZE that completed last: its ways stay in movement to the end of its completion cycle (R200). -/
  resized : Option Cresize
  corrected : Nat
  /-- The scrub passes that were complete at the core's reset: MEMERR counts from there (R201). -/
  scrubBase : Nat
  /-- Wear counters of COUNTERS block 3 (R407): corrected errors since bring-up, uncorrectable ones that the scrubber found,
  spare vault rows in use. -/
  wear : Nat × Nat × Nat
  /-- A position that the firmware has posted as a candidate for a spare, and one that REMAP_SPARES has accepted (R392). -/
  spare : Bool × Bool
  /-- The position's spares in use, the corrected errors counted when the last of them took over, and whether the candidate has been
  posted (R392). -/
  spares : Nat × Nat × Bool
  /-- Corrected errors since its last replacement, of every vault or scratchpad row that has some (R392). -/
  rows : List (Nat × Nat)
  /-- Until this cycle no placement is admitted on the core, whose vault is being copied to its spare (R392). -/
  copyUntil : Nat
  /-- The holds that have reached the core and not released it (R317). -/
  heldBy : List Nat
  /-- The landing buffer (R314): what arrived while the timeline stood still. It holds the first 128; the link's flow control holds the
  others back. -/
  landing : List Arrival
  deriving DecidableEq, Repr

/-- A byte written by a core, as long as it is not known to be seen by all (R212): the physical and the virtual address,
the value, the value before it, the writer, whether the write is an atomic's (R227), the cores it is visible to, the
objects whose releases published it (R217) and the fences that cover it (R228). Newest first in the ledger. -/
structure WriteRec where
  pa : Nat
  va : Nat
  atom : Bool
  val : Byte
  old : Byte
  by_ : CoreId
  seen : List CoreId
  pubs : List Nat
  fences : List (CoreId × Scope)
  deriving DecidableEq, Repr

/-- A hold (R316, R317): its number, reason, origin (core 127 for a hub), start and release in domain cycles, the cores
it stops with their distances; the core numbers 200 and 201 stand for a die's frieze ports of lanes E and W (R352). -/
structure Hold where
  id : Nat
  reason : Nat
  /-- A fatal fault's hold ends the tasks of a lock group, with a cause code (R321). -/
  kill : Option (Nat × Nat)
  origin : CoreId
  start : Nat
  release : Option Nat
  members : List (CoreId × Nat)
  deriving DecidableEq, Repr

/-- A task that has come to a fatal end (R193): its core, the cause code and the number of its running node. -/
structure NodeFault where
  core : CoreId
  cause : Nat
  run : Nat
  deriving DecidableEq, Repr

/-! ### The graph scheduler (R181 to R195) -/

/-- A graph that a die runs (R181, R386): its header's address, the function that launched it with its domain tag, and whether it
is frozen. -/
structure GraphRec where
  die : Nat
  va : Nat
  fn : Nat
  tag : Nat
  frozen : Bool
  deriving DecidableEq, Repr

/-- A ready node (R189, R190): its record's address, priority in the scheduler's view, ready time, boundaries counted since it
entered the queue, whether it is in the queue, the cycle it became ready, whether it reserves its cores (R191), and the number
of its claim (R192). -/
structure ReadyNode where
  ref : NodeRef
  /-- The die whose queue it is in: the node's first die. -/
  die : Nat
  kind : Nat
  /-- Its effective core set (R184). -/
  set : List CoreId
  addr : Nat
  prio : Nat
  time : Nat
  aged : Nat
  queued : Bool
  since : Nat
  reserved : Bool
  claim : Option Nat
  deriving DecidableEq, Repr

/-- A running placement, card or collective (R183 to R188): its kind, number, the cores that run or have run it, those that still
run or are still to report, its tasks' sum, a fatal fault, and for a card the next record, the records left and the cores that
ask. -/
structure Running where
  ref : NodeRef
  kind : Nat
  id : Nat
  cores : List CoreId
  left : List CoreId
  sum : Nat
  fault : Option (Nat × CoreId)
  next : Nat
  remaining : Nat
  ask : List CoreId
  deriving DecidableEq, Repr

/-- A claim on several dies (R192): the placement, the boundary it was answered at, and the replies received. -/
structure Claim where
  id : Nat
  ref : NodeRef
  frame : Option Nat
  held : List CoreId
  votes : List (Nat × Bool)
  deriving DecidableEq, Repr

/-- A suspended task (R331, R332): its core, the task, its save area, and what the area does not hold: the copy engine's
state but for the counters, the modes of the streams with the joined group they run, and the counts of PREEMPTST. -/
structure Suspended where
  core : CoreId
  task : Task
  base : Word
  size : Nat
  copy : CopyState
  streams : Vector Stream 4
  joined : Option Joined
  refusals : Nat
  deriving DecidableEq, Repr

/-- An error token (R194): the graph, the nodes it is to reach. -/
structure ErrToken where
  die : Nat
  graph : Nat
  front : List Nat
  deriving DecidableEq, Repr

/-- A time slot of a fabric port that a compiled schedule claims (R359): the hub's package, the port and the slot of the frame. -/
structure FabSlot where
  package : Nat
  port : Nat
  slot : Nat
  deriving DecidableEq, Repr

structure Sched where
  graphs : List GraphRec
  ready : List ReadyNode
  running : List Running
  /-- Waiting nodes that a live release has reached (R185). -/
  live : List NodeRef
  claims : List Claim
  suspended : List Suspended
  tokens : List ErrToken
  /-- The last frame boundary handled. -/
  frame : Nat
  /-- Dies on which a card started, with the cycle (R189). -/
  carded : List (Nat × Nat)
  /-- The compiled slot schedules of locked nodes, and the slots that admitted groups hold, by the placement's number (R359). -/
  compiled : List (NodeRef × List FabSlot)
  slots : List (Nat × List FabSlot)
  /-- The engine requests that ended tasks have left behind, each with the function whose task it was (R296, R388). -/
  left : List (Nat × Nat)
  deriving DecidableEq, Repr

/-! ### The frieze (R338 to R356) -/

/-- A row of a lane's table (R346). -/
structure FzRow where
  state : Nat
  mark : Nat
  n : Nat
  parks : Nat
  addr : Word
  deriving DecidableEq, Repr, Inhabited

/-- A lost position (R354 to R356): the position, the number of its accumulator among the repair die's, the tag of its panel when
it was lost, the CRC expected and the CRCs of its stripe's members gathered for a lost parity panel, the ring's cycle from which the
panel can go in again, and the panel that the host has reloaded. -/
structure FzAcc where
  pos : Nat
  place : Nat
  tag : Nat
  crc : Option Nat
  list : List (Nat × Nat)
  ready : Option Nat
  panel : Option (List Byte)
  deriving DecidableEq, Repr

/-- What a port showed before the boundary of its slot: the boundary's cycle, the tags and places, the rows, and FZSTAT's counts (R352). -/
structure PortWas where
  at_ : Nat
  cur : Word
  ret : Word
  curPlace : Nat
  retPlace : Nat
  rows : Vector FzRow 64
  parked : Nat
  leftOut : Nat
  deriving DecidableEq, Repr

/-- The port of a lane of a die (R345): its ring, the state, rank, tag headers of its places, current and retained tags and
places, published map and counts, the map built and not yet published, rows, FZSTAT's counts, and its repair duties. -/
structure Port where
  die : Nat
  lane : FzLane
  ring : Nat
  state : Nat
  rank : Nat
  headers : List (Nat × List Byte)
  cur : Word
  ret : Word
  curPlace : Nat
  retPlace : Nat
  map : List (Nat × Nat × Nat)
  built : List (Nat × Nat × Nat)
  rows : Vector FzRow 64
  parked : Nat
  leftOut : Nat
  repair : Bool
  accs : List FzAcc
  /-- The tag of the oldest place, whose header beat 0 of the slot has overwritten (R342, R353). -/
  leaving : Nat
  /-- The cycles that holds have removed from its timeline, and the holds upon it (R352). -/
  lag : Nat
  heldBy : List Nat
  /-- What it showed before its last slot boundary, and the last publication's cycle with the map before (R352). -/
  was : Option PortWas
  mapWas : Option (Nat × List (Nat × Nat × Nat))
  deriving DecidableEq, Repr

/-- A ring with its frieze (R338, R339, R341): lane, frieze id, dies by rank, Q, start slot,
positions loaded, FZBASE, the ranks lost, the slot in which a repair began, the holes that stand at the repair die's rank in the slots in
which no header reaches it (rank, slot and tag), and the beats on their way: receiving rank, cycle, and bytes. Its id serves as the
formation number. -/
structure Ring where
  id : Nat
  lane : FzLane
  fid : Nat
  dies : List Nat
  q : Nat
  k0 : Nat
  loaded : List Nat
  base : Nat
  lost : List Nat
  repair : Option Nat
  holes : List (Nat × Nat × Nat)
  beats : List (Nat × Nat × List Byte)
  deriving DecidableEq, Repr

/-! ### Host and firmware (R381 to R393) -/

/-- A parked entry (R384): its address, and for a HALT the holds that are to reach their members. -/
structure Parked where
  addr : Nat
  halt : Bool
  holds : List Nat
  deriving DecidableEq, Repr

/-- A RESET of a function that waits (R388): its entry's address, those of the entries behind it when it was fetched, the queue's tail then,
unless the queue has been disabled since, and the engine requests that the function's tasks had left behind before. -/
structure Resetting where
  entry : Nat
  behind : List Nat
  tail : Option Nat
  earlier : List Nat
  deriving DecidableEq, Repr

/-- A function: its registers (R383), whether a bad doorbell has stopped its queue, the accepted features (R386), parked entries,
buffered events, interrupts raised, a RESET that waits, for a VF the root of its page table and the cores that are its own (R387), and
the binary logarithm of the size of BAR2 (R381). -/
structure HostFn where
  cqbase : Nat
  enable : Bool
  logn : Nat
  irqAll : Bool
  cqtail : Nat
  cqhead : Nat
  bad : Bool
  stuck : Bool
  dropped : Nat
  refused : Nat
  winbase : Nat
  features : Option Nat
  parked : List Parked
  events : List Word
  irqs : Nat
  resetting : Option Resetting
  root : Nat
  cores : List CoreId
  /-- The SYSCALL and BREAK stops reported to the function and not yet resumed, oldest first: core, TCAUSE, TINFO and TRAPLINE
  (R312). -/
  stops : List (CoreId × Word × Word × Word)
  bar2 : Nat
  deriving DecidableEq, Repr, Inhabited

/-- What the outside world does, and when (R381 to R393). -/
inductive InputKind where
  | event (ev : Instr) (arg : Arg)
  /-- The host writes its own memory. -/
  | hostMem (a : Nat) (bs : List Byte)
  /-- A single-bit, or a double-bit, error arises in a word (R210). -/
  | soft (w : Nat)
  | hard (w : Nat)
  /-- A virtual function is given its page table and its cores, which R381 and R387 presume and no rule describes. -/
  | provision (f root : Nat) (cores : List CoreId)
  /-- The host resizes the PF's BAR2, to 2^n bytes (R381). -/
  | barSize (n : Nat)
  /-- The host reads a function register (R383). -/
  | readReg (f off : Nat)
  /-- The firmware takes the compiled slot schedule of a node's lock group over (R2, R359), by a way that no rule describes. -/
  | schedule (r : NodeRef) (slots : List FabSlot)
  deriving DecidableEq, Repr

structure Input where
  at_ : Nat
  owner : CoreId
  kind : InputKind
  deriving DecidableEq, Repr

/-- The firmware and the domain (R361 to R365, R390 to R393): the bring-up stage, the function served last, when the firmware
takes its next entry, functions, host memory, fabric diameter, each module's last trim, modules excluded, flits that are to be sent
again, link retries, arithmetic clock in MHz, dies without power, and completed reads through BAR2. -/
structure Domain where
  stage : Nat
  served : Nat
  fwAt : Nat
  fns : Vector HostFn 16
  hostMem : Mem
  diameter : Nat
  trims : List (Nat × Int)
  excluded : Nat
  gone : List Nat
  retries : List Flit
  linkRetries : List (Nat × Nat)
  mhz : Nat
  hot : List Nat
  off : List Nat
  /-- The answer to the last host read through BAR2; none for a Completer Abort (R382). -/
  answer : Option (List Byte)
  /-- How often the domain has been brought up: each draws the hash bases anew (R386). -/
  boots : Nat
  /-- The pages that the firmware's reserve has given out, as bases with lengths (R274). -/
  reserve : List (Nat × Nat)
  /-- The PANEL_MISSes that the firmware has counted (R350). -/
  panelMisses : Nat
  /-- Spare optical lanes brought in, by link as linkRetries numbers them, with the link's retries at the last (R392). -/
  laneSpares : List (Nat × (Nat × Nat))
  /-- The die links and ring lanes that failed to train, so numbered (R390). -/
  deadLinks : List Nat
  deriving DecidableEq, Repr

/-- The machine. -/
structure State where
  /-- The domain frame counter: FRAMECNT is clock mod 2^63 (R18, R20). -/
  clock : Nat
  /-- The core whose item issues, or whose event comes about. -/
  cur : CoreId
  /-- The cluster whose item issues. -/
  curCl : Cluster
  /-- What the event that comes about is about. -/
  arg : Arg
  /-- The place in the issue order of what the event belongs to. -/
  ord : Nat
  /-- The next place in the issue order; every issued instruction takes one (R105). -/
  seq : Nat
  /-- The counter that open values read and advance (model's own; log entry 13). -/
  ctr : Nat
  cores : List (CoreId × Core)
  mem : Mem
  ledger : List WriteRec
  /-- Aligned 8-byte words with an uncorrectable ECC error (R210, R320). -/
  poison : List Nat
  /-- Aligned 8-byte words with a correctable ECC error (R210). -/
  soft : List Nat
  agenda : List Pending
  /-- The accepted engine requests, oldest first. -/
  jobs : List Job
  holds : List Hold
  /-- The cause that the last issue or event raised in the core cur, if it raised one: what step reads to give all
  items of a cycle one fate (R122). -/
  raised : Option (Cause × Word × Pos)
  /-- The walk that the last issue began, so that no item of the cycle issues before it ends (R207). -/
  walked : Bool
  /-- The present event performs in a member's timeline while the issuer is stopped: the cycle of the issuer's timeline at
  which what it brings to the issuer takes effect (R313, R314). -/
  away : Option Nat
  /-- The CRESIZEs that issue and start in the present cycle, before which its accesses perform (R200). -/
  soon : List (CoreId × Cresize)
  /-- Node faults that the scheduler is still to record, in the same cycle (R193, R194). -/
  faultq : List NodeFault
  /-- The aligned domain (R363): its number of modules; 0 before alignment. -/
  modules : Nat
  /-- The F latency fixed at alignment (R208, R361); 0 before alignment. -/
  flat : Nat
  /-- Scrub steps made since bring-up (R210). -/
  scrubs : Nat
  sched : Sched
  /-- Chunk counters that are not 0: die, counter and value (R377). -/
  chunks : List (Nat × Nat × Nat)
  /-- The staging areas of the collective streams in the aperture, by physical address (R366). -/
  staging : Mem
  rings : List Ring
  ports : List Port
  domain : Domain
  inputs : List Input
  deriving DecidableEq, Repr

def CRegs.zero : CRegs := ⟨Vector.replicate 32 0, Vector.replicate 16 0, Vector.replicate 4 0⟩
def XRegs.zero : XRegs :=
  ⟨Vector.replicate 16 Vec.zero, Vector.replicate 16 Vec.zero, Vector.replicate 8 (BitVec.allOnes 64),
    Vector.replicate 4 0, []⟩
/-- A generator at task start: counts 1, bound 0x8000_0000, the rest 0 (R161). -/
def AddrGen.zero : AddrGen :=
  ⟨0, Vector.replicate 4 0, Vector.replicate 4 1, Vector.replicate 4 0, 0, 0, 0x80000000⟩
def LRegs.zero : LRegs :=
  ⟨Vector.replicate 16 0, Vector.replicate 4 AddrGen.zero, Vector.replicate 4 0, Vector.replicate 4 0⟩
def SRegs.zero : SRegs := ⟨Vector.replicate 16 0, Vector.replicate 4 0⟩
/-- An accumulator tile at task start: every word, M and S are 0, as no rule gives a value (DESIGN CHOICE, log entry 92). -/
def Tile.zero : Tile := ⟨[], Vector.replicate 64 0, Vector.replicate 64 0⟩
def Stream.absent : Stream := ⟨.absent, 0, 2, false, 0, none, none⟩
def Sys.zero : Sys :=
  ⟨0, 0, 0, 0, 0, 0, 0, 0, 0, 0, Vector.replicate 5 0, 0, 0, 0, 0, 0, false, 0, 0, 0, 0, 0⟩

def Sched.zero : Sched := ⟨[], [], [], [], [], [], [], 0, [], [], [], []⟩
def HostFn.zero : HostFn := ⟨0, false, 0, false, 0, 0, false, false, 0, 0, 0, none, [], [], 0, none, 0, [], [], 30⟩
def Domain.zero : Domain := ⟨0, 0, 0, Vector.replicate 16 HostFn.zero, [], 0, [], 0, [], [], [], 1400, [], [], none, 0, [], 0, [], []⟩
def FzRow.zero : FzRow := ⟨0, 0, 0, 0, 0⟩
def CopyState.zero : CopyState := ⟨0, 0, 0, [], 0, [], [], (0, []), 0, 0, 0, 0, Vector.replicate 8 0⟩
/-- A walk table at task start: 0, but every level count is 1 (R252). -/
def WalkTab.zero : WalkTab := Vector.ofFn fun e => ⟨0, 0, if e.val < 4 then 0 else 1⟩

/-- The matrix unit at task start (R252, R266). -/
def Mat.zero : Mat :=
  ⟨WalkTab.zero, WalkTab.zero, [], [], 0, 0, [], .idle, 0, [], [], [], []⟩

/-- The context at task start, before the launch sets its registers (R14, R112, R177). -/
def Ctx.zero : Ctx where
  c := CRegs.zero
  x := XRegs.zero
  l := LRegs.zero
  st := SRegs.zero
  chan := Vector.replicate 18 []
  acc := Vector.replicate 4 Tile.zero
  moulds := []
  stale := Vector.replicate 4 []
  copy := CopyState.zero
  mat := Mat.zero
  castq := []
  attnFails := 0
  collFails := 0
  mloads := []
  sys := Sys.zero
  streams := Vector.replicate 4 Stream.absent
  joined := none
  tau := 0
  lag := 0
  pause := none
  found := []
  walkFail := none
  retry := []
  report := none
  trapped := none
  drain := none
  markers := Vector.replicate 5 []

/-- A core after a die reset (R199, R201): no task, the vault all direct. -/
def Core.reset : Core where
  task := none
  ctx := Ctx.zero
  ptroot := 0
  tlb := []
  ways := 0
  cresizes := []
  resized := none
  corrected := 0
  scrubBase := 0
  wear := (0, 0, 0)
  spare := (false, false)
  spares := (0, 0, false)
  rows := []
  copyUntil := 0
  heldBy := []
  landing := []

/-- The machine right after reset (R390): counters 0, nothing listed, power-on due. -/
def State.reset : State where
  clock := 0
  cur := ⟨0, 0⟩
  curCl := .c
  arg := .none
  ord := 0
  seq := 0
  ctr := 0
  cores := []
  mem := []
  ledger := []
  poison := []
  soft := []
  agenda := [⟨.dom, 0, ⟨0, 0⟩, 0, false, .powerOn, .none⟩]
  jobs := []
  holds := []
  raised := none
  walked := false
  away := none
  soon := []
  faultq := []
  modules := 0
  flat := 0
  scrubs := 0
  sched := Sched.zero
  chunks := []
  staging := []
  rings := []
  ports := []
  domain := Domain.zero
  inputs := []

end Sys2Proof.Machine
end

