-- ==== Sys2Proof/Machine/Ops.lean ====
section
/-! DEFINITION. The named operations on the state: memory, cores and their clocks, the agenda of coming events, holds,
taking an exception and ending a task, and the commit of an issued instruction. -/

namespace Sys2Proof.Machine

open Sys2Proof

/-! ### Memory -/

/-- The byte at an address. -/
def Mem.get : Mem → Nat → Byte
  | [], _ => Mem.unlisted
  | (a, b) :: rest, k => if a = k then b else Mem.get rest k

/-- One byte written, keeping the canonical form. -/
def Mem.set : Mem → Nat → Byte → Mem
  | [], k, v => if v = Mem.unlisted then [] else [(k, v)]
  | (a, b) :: rest, k, v =>
    if k < a then (if v = Mem.unlisted then (a, b) :: rest else (k, v) :: (a, b) :: rest)
    else if k = a then (if v = Mem.unlisted then rest else (k, v) :: rest)
    else (a, b) :: Mem.set rest k v

/-- Bytes at consecutive addresses. -/
def Mem.read (m : Mem) (a : Nat) : Nat → List Byte
  | 0 => []
  | n + 1 => m.get a :: Mem.read m (a + 1) n

/-- Bytes written at consecutive addresses. -/
def Mem.write (m : Mem) (a : Nat) : List Byte → Mem
  | [] => m
  | b :: bs => (m.set a b).write (a + 1) bs

/-- The number that bytes stand for, least significant first (R7). -/
def leNat : List Byte → Nat
  | [] => 0
  | b :: bs => b.toNat + 256 * leNat bs

/-- n bytes of a number, least significant first (R7). -/
def leBytes (v : Nat) : Nat → List Byte
  | 0 => []
  | n + 1 => BitVec.ofNat 8 v :: leBytes (v / 256) n

/-- The number in n bytes at an address. -/
def Mem.num (m : Mem) (a n : Nat) : Nat := leNat (m.read a n)

/-! ### Vectors and lists -/

/-- Bits [hi:lo] of a word as a number. -/
def bits (w : Word) (hi lo : Nat) : Nat := fld w.toNat lo (hi + 1 - lo)

/-- The bytes of a vector, byte 0 of lane 0 first (R67). -/
def vecBytes (v : Vec) : List Byte := v.toList.flatMap fun x => leBytes x.toNat 4

/-- Groups of four bytes as lanes. -/
def lanesOfBytes : List Byte → List Lane
  | b0 :: b1 :: b2 :: b3 :: rest => BitVec.ofNat 32 (leNat [b0, b1, b2, b3]) :: lanesOfBytes rest
  | _ => []

/-- The vector with the given lanes, the rest 0. -/
def vecOfLanes (ls : List Lane) : Vec := Vector.ofFn fun i => ls.getD i.val 0

/-- The vector with the given bytes, the rest 0. -/
def vecOfBytes (bs : List Byte) : Vec :=
  vecOfLanes (lanesOfBytes (bs ++ List.replicate ((4 - bs.length % 4) % 4) 0))

/-- A 64-bit value in the two lowest lanes. -/
def vecOfWord (w : Word) : Vec := vecOfLanes [w.setWidth 32, (w >>> 32).setWidth 32]

/-- The 64-bit value in the two lowest lanes. -/
def wordOfVec (v : Vec) : Word := (v[1].setWidth 64 <<< 32) ||| v[0].setWidth 64

/-- An entry of an ascending association list, set or added. -/
def listSet {β : Type} (l : List (Nat × β)) (k : Nat) (v : β) : List (Nat × β) :=
  match l with
  | [] => [(k, v)]
  | (a, b) :: rest => if k < a then (k, v) :: (a, b) :: rest else if k = a then (k, v) :: rest else (a, b) :: listSet rest k v

/-- An entry removed. -/
def listErase {β : Type} (l : List (Nat × β)) (k : Nat) : List (Nat × β) := l.filter fun e => e.1 != k

/-- The entry of a key. -/
def listGet? {β : Type} (l : List (Nat × β)) (k : Nat) : Option β := (l.find? fun e => e.1 == k).map (·.2)

/-- An ascending list without repeats, with one more element. -/
def setInsert (l : List Nat) (k : Nat) : List Nat :=
  match l with
  | [] => [k]
  | a :: rest => if k < a then k :: a :: rest else if k = a then a :: rest else a :: setInsert rest k

/-! ### Cores -/

/-- The order of cores: logical die, then logical core (R211). -/
def CoreId.num (c : CoreId) : Nat := c.die * 128 + c.core

/-- A core; one that nothing has touched since reset is a reset core. -/
def State.core (s : State) (c : CoreId) : Core :=
  match s.cores.find? fun e => e.1 == c with
  | some e => e.2
  | none => Core.reset

/-- A core's entry written, keeping the entries in the order of cores. -/
def setCoreIn (l : List (CoreId × Core)) (c : CoreId) (v : Core) : List (CoreId × Core) :=
  match l with
  | [] => [(c, v)]
  | (a, b) :: rest =>
    if a = c then (c, v) :: rest
    else if CoreId.num c < CoreId.num a then (c, v) :: (a, b) :: rest else (a, b) :: setCoreIn rest c v

def State.setCore (s : State) (c : CoreId) (v : Core) : State := { s with cores := setCoreIn s.cores c v }

def State.modCore (s : State) (c : CoreId) (f : Core → Core) : State := s.setCore c (f (s.core c))

def Core.modCtx (c : Core) (f : Ctx → Ctx) : Core := { c with ctx := f c.ctx }

/-- The next place in the issue order taken (R105). -/
def State.bump (s : State) : State := { s with seq := s.seq + 1 }

/-- The free-value counter advanced. -/
def State.tick (s : State) : State := { s with ctr := s.ctr + 1 }

/-- A task is present and locked (R175). -/
def Core.isLocked (c : Core) : Bool := match c.task with | some t => t.locked | none => false

/-- A task is present and free (R175). -/
def Core.isFree (c : Core) : Bool := match c.task with | some t => !t.locked | none => false

/-- The core is in handler mode (R308). -/
def Core.inHandler (c : Core) : Bool := match c.ctx.trapped with | some (.handler _) => true | _ => false

/-- The core's timeline stands still (R304). -/
def Core.stopped (c : Core) : Bool := c.ctx.trapped.isSome || !c.heldBy.isEmpty

/-- The task clock stands still (R19, R304). -/
def Core.tauStands (c : Core) : Bool := c.task.isNone || c.stopped || c.ctx.pause.isSome

def Core.stream (c : Core) : Cluster → Stream
  | .c => c.ctx.streams[0] | .l => c.ctx.streams[1] | .x => c.ctx.streams[2] | .s => c.ctx.streams[3]

def Core.setStream (c : Core) (cl : Cluster) (st : Stream) : Core :=
  c.modCtx fun x => { x with streams := x.streams.set! cl.idx st }

/-- The cluster has code in the task (R111). -/
def Core.present (c : Core) (cl : Cluster) : Bool :=
  let w := c.ctx.sys.clusters
  match cl with
  | .c => w.getLsbD 0 | .l => w.getLsbD 1 | .x => w.getLsbD 2 | .s => w.getLsbD 3

/-! ### Physical addresses (R202) -/

/-- The first physical address of a core's vault. -/
def vaultBase (c : CoreId) : Nat := c.die * 2 ^ 40 + c.core * 2 ^ 31
/-- The first physical address of a core's scratchpad. -/
def padBase (c : CoreId) : Nat := c.die * 2 ^ 40 + 2 ^ 38 + c.core * 2 ^ 31
/-- The global logical die of a physical address: 8 × package + die. -/
def paDie (pa : Nat) : Nat := pa / 2 ^ 40
def paSpace (pa : Nat) : Nat := pa / 2 ^ 38 % 4
def paUnit (pa : Nat) : Nat := pa / 2 ^ 31 % 128
def paOff (pa : Nat) : Nat := pa % 2 ^ 31
/-- The core whose vault or scratchpad a physical address names. -/
def paCore (pa : Nat) : CoreId := ⟨paDie pa, paUnit pa⟩

/-! ### Clocks (R18, R19, R304) -/

/-- The core's timeline: the domain counter less HOLDLAG. -/
def State.timeline (s : State) (c : CoreId) : Nat := s.clock - (s.core c).ctx.lag

/-- The view of FRAMECNT that a core's items read; in handler mode the task's view stands still (R309). -/
def State.framecnt (s : State) (c : CoreId) : Nat := s.timeline c % 2 ^ 63

/-- The present cycle of a clock. -/
def State.nowOf (s : State) : Clk → Nat
  | .dom => s.clock
  | .tl c => s.timeline c
  | .tau c => (s.core c).ctx.tau
  | .port die l => s.clock - (match s.ports.find? fun p => p.die == die && p.lane == l with | some p => p.lag | none => 0)

/-- A clock that stands still at present. -/
def State.stands (s : State) : Clk → Bool
  | .dom => false
  | .tl c => (s.core c).stopped
  | .tau c => (s.core c).tauStands
  | .port die l => s.ports.any fun p => p.die == die && p.lane == l && !p.heldBy.isEmpty

/-- The domain cycles until an entry falls due; none while its clock stands still. -/
def State.dueIn (s : State) (p : Pending) : Option Nat :=
  let now := s.nowOf p.clk
  if p.due ≤ now then (if s.stands p.clk && now != p.due then none else some 0)
  else if s.stands p.clk then none else some (p.due - now)

/-- The entry falls due now. Where a hold has stopped the clock, what falls at its cycle waits (R304, R313). -/
def State.isDue (s : State) (p : Pending) : Bool :=
  s.dueIn p == some 0 && (match p.clk with
    | .tl c | .tau c => (s.core c).heldBy.isEmpty || (s.core c).ctx.trapped.isSome
    | _ => true)

/-- The clock that a core's own offsets count (R213, R308). -/
def Core.ownClk (c : Core) (id : CoreId) : Clk := if c.inHandler then .dom else .tau id

/-- The cycle that the items of a core count (R213, R308). -/
def State.itemCycle (s : State) (id : CoreId) : Nat := s.nowOf ((s.core id).ownClk id)

/-- d domain cycles pass, to cycle t, in which nothing is due. A succeeded acquire's pause ends with its cycle (R221). -/
def Core.pass (c : Core) (d t : Nat) : Core :=
  if c.task.isNone then c
  else if c.stopped then c.modCtx fun x => { x with lag := x.lag + d }
  else match c.ctx.pause with
    | some (.resume r) => if r ≤ t then c.modCtx fun x => { x with pause := none } else c
    | some _ => c
    | none => c.modCtx fun x => { x with tau := x.tau + d }

def State.pass (s : State) (d : Nat) : State :=
  { s with clock := s.clock + d, cores := s.cores.map fun e => (e.1, e.2.pass d (s.clock + d)),
           ports := s.ports.map fun p => if p.heldBy.isEmpty then p else { p with lag := p.lag + d } }

/-! ### The agenda -/

/-- One more coming event. -/
def State.schedule (s : State) (p : Pending) : State := { s with agenda := s.agenda ++ [p] }

/-- An event of the domain in d cycles. -/
def State.scheduleDom (s : State) (owner : CoreId) (d : Nat) (ev : Instr) (arg : Arg) : State :=
  { s with seq := s.seq + 1, agenda := s.agenda ++ [⟨.dom, s.clock + d, owner, s.seq, false, ev, arg⟩] }

/-- Instructions of a core with effects outstanding (R313): those with coming events, and the MLOADs that have entries to write (R59). -/
def State.ifqCount (s : State) (id : CoreId) : Nat :=
  (((s.agenda.filter fun p => p.ifq && p.owner == id).map (·.ord)) ++ (s.core id).ctx.mloads.map (·.id)).eraseDups.length

/-- A coming event that an instruction of a core asks for at its issue: after how many cycles, in the core's own clock or
in a member's timeline (R314), and whether it counts in the in-flight queue. -/
structure Req where
  delay : Nat
  target : Option CoreId
  ifq : Bool
  ev : Instr
  arg : Arg
  deriving DecidableEq, Repr

/-- What the arrival at a core's landing buffer of an access to some bytes is about, which performs at a cycle of its timeline (R314). -/
def arrivalArg (t : CoreId) (ord due : Nat) (pas : List Nat) : Arg := .arrival t ⟨ord, due, pas.headD 0, pas.length⟩

/-- Something of a core's that performs in a member's timeline reaches it in d domain cycles, whether its own core runs or not
(R314, R317). -/
def State.reachesMember (s : State) (t owner : CoreId) (ord d due : Nat) (pas : List Nat) : State :=
  s.schedule ⟨.dom, s.clock + d, owner, ord, false, .landingBufferArrival, arrivalArg t ord due pas⟩

/-- The entry of the agenda that a request becomes; an arrival counts domain cycles (R317). -/
def Req.pending (r : Req) (s : State) (id : CoreId) (ord : Nat) : Pending :=
  if r.ev = .landingBufferArrival then ⟨.dom, s.clock + r.delay, id, ord, r.ifq, r.ev, r.arg⟩
  else match r.target with
  | none => let k := (s.core id).ownClk id
            ⟨k, s.nowOf k + r.delay, id, ord, r.ifq, r.ev, r.arg⟩
  | some t => ⟨.tl t, s.timeline id + r.delay, id, ord, r.ifq, r.ev, r.arg⟩

/-! ### Causes (R306) -/

def Cause.code : Cause → Nat
  | .illegal => 0x01 | .illegalFormat => 0x02 | .mouldUndefined => 0x03 | .mouldForm => 0x04 | .joinForm => 0x05
  | .stampLate => 0x08 | .deadline => 0x09 | .promiseMissed => 0x0A | .syncLate => 0x0B
  | .translateMiss => 0x10 | .protection => 0x11 | .class_ => 0x12 | .align => 0x13 | .bound => 0x14
  | .accBusy => 0x18 | .formatUnderflow => 0x19 | .operandEmpty => 0x1A | .queueFull => 0x1B | .deferFull => 0x1C
  | .refcountSat => 0x20 | .pageIntegrity => 0x21 | .castFull => 0x22 | .panelMiss => 0x28
  | .eccUncorrectable => 0x30 | .break_ => 0x38 | .syscall => 0x39 | .preempt => 0x3A

def Cause.cls : Cause → CauseClass
  | .promiseMissed | .bound | .pageIntegrity | .castFull => .user
  | .eccUncorrectable => .fatal
  | _ => .supervisor

def CauseClass.code : CauseClass → Nat
  | .user => 0 | .supervisor => 1 | .fatal => 2

/-! ### Holds (R316, R317) -/

/-- Fabric hops between two modules of a domain of n: 1 to 15 between different ones (R317, R361, R365; log entry 20), and in the
full domain at most 4, which every module has to one other: an all-reduce over it takes 1,260 cycles, whichever die is rank 0 (R3,
R208). -/
def moduleHops (n a b : Nat) : Nat :=
  let f := Config.fabricHops (min a b) (max a b)
  if a = b then 0 else if n < 512 then 1 + f % 15 else if a + b = 511 then 4 else 1 + f % 4

/-- The hold distance from an origin core to a core of a domain of n modules (R317); an origin core 127 is a hub. -/
def holdDistance (n : Nat) (o x : CoreId) : Nat :=
  if o = x then 0
  else if o.core = 127 then 48 + 64 * moduleHops n (o.die / 8) (x.die / 8) + 8
  else
    let way := if o.die = x.die then 0 else if o.die / 8 = x.die / 8 then 48 else 64 * moduleHops n (o.die / 8) (x.die / 8)
    8 + way + 8

/-- A hold's member that is a frieze port (R352). -/
def portMember (die : Nat) (l : FzLane) : CoreId := ⟨die, match l with | .e => 200 | .w => 201⟩

/-- The lane of such a member. -/
def memberLane (m : CoreId) : Option FzLane := match m.core with | 200 => some .e | 201 => some .w | _ => none

/-- The hold latency of a ring's link between two dies (R317). -/
def ringLink (a b : Nat) : Nat := if a / 8 = b / 8 then 48 else 64

/-- The hold latency over a ring's links, in its direction, from the die i ranks before one to it. -/
def Ring.wave (g : Ring) (rank i : Nat) : Nat :=
  let n := g.dies.length
  let die := fun k => g.dies.getD ((rank + n - k % n) % n) 0
  (List.range i).foldl (fun t k => t + ringLink (die (k + 1)) (die k)) 0

/-- The hold distance of a frieze port: to a port of its ring, that of the origin's own die where it has one, and on over the ring's links
(R317, R352). -/
def portDistance (n : Nat) (g : Ring) (o : CoreId) (die : Nat) : Nat :=
  let hops := (List.range g.dies.length).filterMap fun i =>
    let r := (g.dies.findIdx? (· == die)).getD 0
    let d := g.dies.getD ((r + g.dies.length - i) % g.dies.length) 0
    if g.dies.contains o.die && d != o.die then none else some (holdDistance n o ⟨d, 126⟩ + g.wave r i)
  hops.tail.foldl min (hops.headD 0)

/-- The hold distance of a core from an origin: over the fabric, or over the links of the rings in the hold set (R317, R352). -/
def ringDistance (n : Nat) (gs : List Ring) (o x : CoreId) : Nat :=
  gs.foldl (fun m g => match g.dies.findIdx? (· == x.die) with
    | some r => (List.range g.dies.length).foldl (fun m i =>
        min m (holdDistance n o ⟨g.dies.getD ((r + g.dies.length - i) % g.dies.length) 0, 126⟩ + g.wave r i)) m
    | none => m) (holdDistance n o x)

/-- The cores of a lock group (R175). -/
def State.groupCores (s : State) (g : Nat) : List CoreId :=
  (s.cores.filter fun e => match e.2.task with | some t => t.locked && t.group == g | none => false).map (·.1)

/-- A locked task that uses the lane of a ring, on one of its dies (R352). -/
def Core.usesRing (c : Core) (id : CoreId) (g : Ring) : Bool :=
  match c.task with
  | some t => t.locked && t.lanes.contains g.lane && g.dies.contains id.die
  | none => false

/-- The cores of every lock group that uses a ring. -/
def State.ringCores (s : State) (g : Ring) : List CoreId :=
  ((s.cores.filter fun e => e.2.usesRing e.1 g).flatMap fun e => s.groupCores ((e.2.task.map (·.group)).getD 0)).eraseDups

/-- The hold set of some cores: with each ring that a member uses, the ring and all its users (R352). -/
def State.holdSet (s : State) : Nat → List CoreId → List Nat → List CoreId × List Nat
  | 0, cs, rs => (cs, rs)
  | n + 1, cs, rs =>
    let gs := s.rings.filter fun g => rs.contains g.id || (s.ringCores g).any cs.contains
    s.holdSet n (cs ++ gs.flatMap s.ringCores).eraseDups (gs.map (·.id))

/-- A hold begins at its origin over the given cores, with the hold sets of R352: the wave reaches each at its distance. A
fatal fault's hold is released once its members have ended. -/
def State.startHold (s : State) (reason : Nat) (kill : Option (Nat × Nat)) (origin : CoreId) (cores : List CoreId) (rings : List Nat) : State :=
  let id := s.seq
  let (cs, rs) := s.holdSet (s.rings.length + 1) cores rings
  let gs := s.rings.filter fun g => rs.contains g.id
  let ms := cs.map (fun c => (c, ringDistance s.modules gs origin c)) ++
    (s.ports.filter fun p => rs.contains p.ring).map fun p => (portMember p.die p.lane,
      match gs.find? fun g => g.id == p.ring with | some g => portDistance s.modules g origin p.die | none => 0)
  let s1 := { s with seq := s.seq + 1, holds := s.holds ++ [⟨id, reason, kill, origin, s.clock, none, ms⟩] }
  let s2 := ms.foldl (fun t m => t.scheduleDom m.1 m.2 .holdReachesMember (.ids id 0)) s1
  if reason = 6 then s2.scheduleDom origin (ms.foldl (fun d m => max d m.2) 0) .releaseStart (.ids id 0) else s2

/-! ### Ending a task (R179, R321) -/

/-- The clocks of a core that has lost its task are the domain's: what its accepted requests still do goes on there
(R296). -/
def State.rebase (s : State) (id : CoreId) : State :=
  { s with agenda := s.agenda.map fun p =>
      let p := if p.owner = id then { p with ifq := false } else p
      let own := match p.clk with | .tau c => c == id | .tl _ => p.owner == id | _ => false
      if p.clk = .tl id ∧ p.owner ≠ id then { p with clk := .tl p.owner }
      else if own then { p with clk := .dom, due := s.clock + (p.due - s.nowOf p.clk) } else p }

/-- The core's in-flight effects discarded (R321); a collective's block read belongs to an accepted request. -/
def State.discardInFlight (s : State) (id : CoreId) : State :=
  { s with agenda := s.agenda.filter fun p => !(p.ifq && p.owner == id && p.ev != .collBlockRead) }

/-- A request whose task is gone counts on in domain cycles (R296). -/
def Job.orphan (j : Job) (clock tau : Nat) : Job :=
  { j with live := false, body := match j.body with
      | .attn k => .attn { k with start := clock + k.start - tau }
      | .coll k => .coll { k with p := clock + k.p - tau }
      | b => b }

/-- A CRESIZE whose task has ended with a HOLDLAG goes on in domain cycles (R200). -/
def Cresize.orphan (r : Cresize) (lag : Nat) : Cresize :=
  if r.own then { r with own := false, start := r.start + lag, done := r.done + lag } else r

/-- The firmware's state, and a function's, changed. -/
def State.modDomain (s : State) (f : Domain → Domain) : State := { s with domain := f s.domain }
def State.modFn (s : State) (f : Nat) (g : HostFn → HostFn) : State :=
  s.modDomain fun d => { d with fns := if h : f < 16 then d.fns.set f (g d.fns[f]) else d.fns }

/-- The requests that a core's task leaves to go on without it, and the function that it was of (R296, R388). -/
def State.leaveRequests (s : State) (id : CoreId) : Sched :=
  let mine := match (s.core id).task with
    | some t => (s.jobs.filter fun (j : Job) => j.owner == id && j.live).map fun j => (j.id, t.fn)
    | none => []
  { s.sched with left := (s.sched.left.filter fun e => s.jobs.any fun (j : Job) => j.id == e.1) ++ mine }

/-- The core is free: its task is gone and its context as after reset. -/
def State.freeCore (s : State) (id : CoreId) : State :=
  let s1 := { s.rebase id with sched := s.leaveRequests id }
  let s1 := { s1 with jobs := s1.jobs.map fun (j : Job) => if j.owner = id ∧ j.live then j.orphan s.clock (s.core id).ctx.tau else j }
  s1.modCore id fun c => { c with
    task := none, ctx := Ctx.zero, heldBy := []
    cresizes := c.cresizes.map fun r => r.orphan c.ctx.lag
    resized := c.resized.map fun r => r.orphan c.ctx.lag }

/-- A task's fatal end on its own core (R321): in-flight effects discarded, node marked faulted. -/
def State.fatalEnd (s : State) (id : CoreId) (cause : Nat) : State :=
  match (s.core id).task with
  | none => s
  | some t =>
    let s1 := (s.discardInFlight id).freeCore id
    { s1 with faultq := s1.faultq ++ [⟨id, cause, t.run⟩] }

/-! ### Taking an exception (R305 to R308, R312) -/

/-- The code position of an item with its cluster, as TRAPLINE holds it (R102, R307). -/
def posWord (p : Pos) : Word := BitVec.ofNat 64 (p.cl.idx * 2 ^ 20 + (32 * p.line + p.parcel) % 2 ^ 19)

/-- TCAUSE of a stop (R307). -/
def tcauseWord (cause : Cause) (handler nested : Bool) : Word :=
  BitVec.ofNat 64 (cause.code + cause.cls.code * 256 + (if handler then 1024 else 0) + (if nested then 2048 else 0))

/-- The handler entry that TVEC names can be entered (R308). -/
def Sys.handlerOk (y : Sys) : Bool := decide (2 ≤ y.tvec.toNat % 32) && decide (y.tvec.toNat / 32 < y.imagelen.toNat)

/-- Where a stop for a cause goes. -/
inductive Disposition where
  | handler | supervisor | fatal
  deriving DecidableEq, Repr

/-- The disposition of a cause, and whether it is nested (R306, R308). -/
def Core.disposition (c : Core) (cause : Cause) : Disposition × Bool :=
  match cause.cls with
  | .fatal => if c.inHandler then (.supervisor, true) else (.fatal, false)
  | .supervisor => (.supervisor, c.inHandler)
  | .user =>
    if c.inHandler then (.supervisor, true)
    else if c.ctx.sys.tvec = 0 then (.supervisor, false)
    else if c.ctx.sys.handlerOk then (.handler, false) else (.supervisor, true)

/-- The stream that enters the handler at TVEC, its first item at c + 2 (R308). -/
def handlerStream (s : State) (y : Sys) : Stream :=
  ⟨.run, y.tvec.toNat / 32, y.tvec.toNat % 32, true, s.clock + 2, none, none⟩

/-- The trap registers written at a stop (R307), and WALKINFO with a failed walk (R201). -/
def Core.writeTrap (c : Core) (cause : Cause) (tinfo : Word) (pos : Pos) (handler nested : Bool) : Core :=
  c.modCtx fun x => { x with
    sys := { x.sys with
      tcause := tcauseWord cause (handler || c.inHandler) nested, tinfo := tinfo, trapline := posWord pos
      walkinfo := match cause, x.walkFail with
        | .translateMiss, some (_, level, reason) => BitVec.ofNat 64 (level + 8 * reason)
        | _, _ => x.sys.walkinfo }
    walkFail := none, found := [] }

/-- The core enters handler mode (R308). -/
def Core.enterHandler (c : Core) (s : State) : Core :=
  let x := c.ctx
  let c1 := c.modCtx fun x => { x with
    trapped := some (.handler ⟨x.c.h, x.c.k, x.sys.tbase, c.stream .c, none, x.sys.trapline, 0⟩) }
  c1.setStream .c (handlerStream s x.sys)

/-- Taking an exception: TCAUSE, TINFO and TRAPLINE are written, and the core stops for the handler, for the
supervisor, or for good; a locked task's group is held (R316). -/
def State.takeTrap (s : State) (id : CoreId) (cause : Cause) (tinfo : Word) (pos : Pos) : State :=
  let c := s.core id
  let (disp, nested) := c.disposition cause
  let c1 := c.writeTrap cause tinfo pos (disp == .handler) nested
  let s1 := match disp with
    | .handler => s.setCore id (c1.enterHandler s)
    | .supervisor =>
      ((s.setCore id (c1.modCtx fun x => { x with trapped := some .supervisor })).scheduleDom id
        (1 + Config.supervisorDelay s.ctr) .supervisorDisposition .none).tick
    | .fatal => if c.isLocked then s.setCore id (c1.modCtx fun x => { x with trapped := some .supervisor })
                else (s.setCore id c1).fatalEnd id cause.code
  if c.isLocked && !c.inHandler then
    let g := (c.task.map (·.group)).getD 0
    if disp == .fatal then s1.startHold 6 (some (g, cause.code)) id (s.groupCores g) []
    else s1.startHold 1 none id (s.groupCores g) []
  else s1

/-- A fault taken by the issuing or acting core, remembered for the step (R122). -/
def State.raise (s : State) (id : CoreId) (cause : Cause) (tinfo : Word) (pos : Pos) : State :=
  { s.takeTrap id cause tinfo pos with raised := some (cause, tinfo, pos) }

/-- The item that a cluster's stream is at. -/
def Core.posOf (c : Core) (cl : Cluster) : Pos := ⟨cl, (c.stream cl).line, (c.stream cl).parcel⟩

/-- A fault with no TINFO rule (log entry 10). -/
def State.freeTinfo (s : State) : Word := Config.freeTinfo s.ctr

/-! ### Reads: ECC and prefetch accounting (R210, R243, R320) -/

/-- The word of 64 bits that ECC covers (R210). -/
def eccWord (pa : Nat) : Nat := pa / 8

/-- A read meets an uncorrectable word (R320). -/
def State.poisoned (s : State) (pas : List Nat) : Bool := pas.any fun pa => s.poison.contains (eccWord pa)

/-- The firmware's thresholds of corrected errors for a vault row and for a core position (R392; log entry 44). -/
def rowThreshold : Nat := 1 + Config.freeNat 0 392
def coreThreshold : Nat := 1 + Config.freeNat 1 392

/-- The firmware's threshold of a link's retries for one of its optical lanes (R392; log entry 44). -/
def laneThreshold : Nat := 1 + Config.freeNat 2 392

/-- The row of a word: 64 bytes of a vault (log entry 44). -/
def wordRow (w : Nat) : Nat := w / 8

/-- A corrected error is counted: in MEMERR and the wear counters; a vault's for its row, which is replaced at its threshold; and for the
core's position, which becomes a candidate for a spare past its own (R210, R392). Scratchpads have no spare rows. -/
def Core.countFix (c : Core) (vault : Bool) (row : Nat) : Core :=
  let n := (listGet? c.rows row).getD 0 + 1
  let w := min (c.wear.1 + 1) (2 ^ 32 - 1)
  { c with
    corrected := min (c.corrected + 1) (2 ^ 32 - 1)
    wear := (w, c.wear.2.1, c.wear.2.2 + if vault && decide (rowThreshold ≤ n) then 1 else 0)
    rows := if vault then listSet c.rows row (if rowThreshold ≤ n then 0 else n) else c.rows
    spare := (c.spare.1 || decide (coreThreshold < w - c.spares.2.1), c.spare.2) }

/-- Single-bit errors that a read corrects and counts in MEMERR (R210). -/
def State.correct (s : State) (pas : List Nat) : State :=
  let hit := s.soft.filter fun w => pas.any fun pa => eccWord pa == w
  hit.foldl (fun t w => { t.modCore (paCore (8 * w)) fun c => c.countFix (paSpace (8 * w) == 0) (wordRow w) with soft := t.soft.filter (· != w) }) s

/-- The bytes of a range of pieces. -/
def segsHold (segs : List Seg) (pa : Nat) : Bool := segs.any fun g => decide (g.pa ≤ pa) && decide (pa < g.pa + g.len)

/-- A counter that saturates. -/
def satInc {w : Nat} (x : BitVec w) : BitVec w := if x = BitVec.allOnes w then x else x + 1

/-- The first use of a prefetch record's range closes it, in time or late (R243). -/
def CopyState.close (k : CopyState) (r : PfRec) (tau : Nat) : CopyState :=
  if r.fin ≤ tau then { k with inTime := satInc k.inTime }
  else
    let b := min 7 ((r.fin - tau - 1) / 64)
    { k with late := satInc k.late, bins := k.bins.set! b (satInc k.bins[b]!) }

/-- The reads of a core's clusters and engines in a cycle, as the prefetch accounting sees them (R243). -/
def CopyState.use (k : CopyState) (pas : List Nat) (tau : Nat) : CopyState :=
  let hit := k.records.filter fun r => pas.any (segsHold r.dst)
  let k1 := hit.foldl (fun k r => k.close r tau) k
  { k1 with records := k.records.filter (fun r => !pas.any (segsHold r.dst)),
            readAt := if k.readAt.1 = tau then (tau, pas ++ k.readAt.2) else (tau, pas) }

/-- A read of a core: its single-bit errors corrected, and its part in the prefetch accounting. -/
def State.noteRead (s : State) (id : CoreId) (pas : List Nat) : State :=
  let s1 := s.correct pas
  if pas.isEmpty || (s1.core id).task.isNone then s1
  else s1.modCore id fun c => c.modCtx fun x => { x with copy := x.copy.use pas x.tau }

/-! ### What an issue can end in -/

/-- Why an issue or an event does not have its own effect. -/
inductive Stop where
  | trap (cause : Cause) (tinfo : Word)
  /-- ILLEGAL, whose TINFO no rule gives. -/
  | illegal
  /-- A locked task's translation miss: TRANSLATE_MISS with WALKINFO reason 4 (R201, R207). -/
  | lockedMiss (tinfo : Word)
  /-- A free task's translation miss: a walk (R207). -/
  | walk (w : Walk)
  | notPending (event : String)
  deriving DecidableEq, Repr

/-- The padded latency of the nearest class that contains a byte, as seen from a core (R208). -/
def nearestLatency (flat : Nat) (me : CoreId) (pa : Nat) : Nat :=
  let tgt := paCore pa
  if me = tgt then (if paSpace pa = 1 then 4 else 40)
  else if me.die = tgt.die then 160 else if me.die / 8 = tgt.die / 8 then 640 else flat

/-- The physical address of the entry that a walk reads next (R205). -/
def Walk.entryPa (w : Walk) : Nat :=
  let va := w.va % 2 ^ 48
  w.table + 8 * (match w.level with
    | 1 => fld va 38 10 | 2 => fld va 28 10 | 3 => fld va 21 7 | _ => fld va 16 5)

/-- The core's task clock pauses for a walk, whose next level is read at the padded latency of its class (R207). -/
def State.startWalk (s : State) (id : CoreId) (w : Walk) : State :=
  let s1 := s.modCore id fun c => c.modCtx fun x => { x with pause := some (.walk w) }
  { s1.scheduleDom id (nearestLatency s.flat id w.entryPa) .translationWalkEnd .none with walked := true }

/-- WALKINFO written with a failed translation (R201). -/
def State.setWalkInfo (s : State) (id : CoreId) (level reason : Nat) : State :=
  s.modCore id fun c => c.modCtx fun x => { x with sys := { x.sys with walkinfo := BitVec.ofNat 64 (level + 8 * reason) } }

/-- A stop of the item that a cluster of core cur is issuing. -/
def State.stopIssue (s : State) (cl : Cluster) (st : Stop) : Host.Outcome State Fault Refusal :=
  let pos := (s.core s.cur).posOf cl
  match st with
  | .trap cause tinfo => .next (s.raise s.cur cause tinfo pos)
  | .illegal => .next (s.tick.raise s.cur .illegal s.freeTinfo pos)
  | .lockedMiss tinfo => .next ((s.setWalkInfo s.cur 0 4).raise s.cur .translateMiss tinfo pos)
  | .walk w => .next (s.startWalk s.cur { w with pos := pos })
  | .notPending e => .refused (.notPending e)

end Sys2Proof.Machine
end

