-- ==== Sys2Proof/Machine/Lines.lean ====
section
/-! DEFINITION. Lines, fetch and streams: reading a line of the code image, entering a line, reaching issue, going on to
the next item, control transfers and joined groups (R21 to R28, R100, R123 to R126). -/

namespace Sys2Proof.Machine

open Sys2Proof

/-- Parcel k of line n of a core's image (R21, R30), as the scratchpad stands when the item reaches issue: whether a store that
rewrites it after the fetch unit could have read it is seen is open (DESIGN CHOICE, log entry 85). -/
def State.parcel (s : State) (id : CoreId) (line k : Nat) : Nat :=
  s.mem.num (padBase id + (s.core id).ctx.sys.imagebase.toNat + 64 * line + 2 * k) 2

/-- Parcels k to 31 of a line. -/
def State.parcelsFrom (s : State) (id : CoreId) (line k : Nat) : List Nat :=
  (List.range (32 - k)).map fun i => s.parcel id line (k + i)

/-- The link word of a line: parcel 0 holds the upper half (R31). -/
def State.link (s : State) (id : CoreId) (line : Nat) : Nat := s.parcel id line 0 * 65536 + s.parcel id line 1

def linkCluster (w : Nat) : Nat := fld w 30 2
def linkJ (w : Nat) : Bool := fld w 29 1 == 1
def linkH (w : Nat) : Bool := fld w 28 1 == 1
def linkNext (w : Nat) : Nat := fld w 0 26

/-- The parcel of the first item at or after parcel k that is no padding (R22). -/
def State.nextItem (s : State) (id : CoreId) (line k : Nat) : Option Nat :=
  ((List.range (32 - k)).map (k + ·)).find? fun q => s.parcel id line q != 65535

/-- The parcels that the item at a position takes (R22). -/
def State.itemSize (s : State) (id : CoreId) (line parcel : Nat) : Nat :=
  if 32768 ≤ s.parcel id line parcel then 1 else 4

def Core.imagelen (c : Core) : Nat := c.ctx.sys.imagelen.toNat % 32768

/-- The position of the item after the one at a position, following the link word at a line's end; none where the stream
ends there (R22, R28, R102). -/
def State.after (s : State) (id : CoreId) (line parcel : Nat) : Option (Nat × Nat) :=
  match s.nextItem id line (parcel + s.itemSize id line parcel) with
  | some q => some (line, q)
  | none => let w := s.link id line; if linkH w then none else some (linkNext w, 2)

/-- The item is the last issuing item of its line. -/
def State.lastOfLine (s : State) (id : CoreId) (line parcel : Nat) : Bool :=
  (s.nextItem id line (parcel + s.itemSize id line parcel)).isNone

/-- A TRAP or BREAK has issued, and its stop is to come (R108). -/
def Core.stopComes (c : Core) : Bool := match (c.stream .c).check with | some (k, _) => decide (3 ≤ k) | none => false

/-- The line runs as a line of a joined group. -/
def Core.inJoined (c : Core) : Bool := c.ctx.joined.isSome

/-- The cluster's stream has finished its line of the running group at a cycle (R124); fin keeps that cycle plus 1. -/
def Core.finishLine (c : Core) (cl : Cluster) (cyc : Nat) : Core :=
  let c1 := c.setStream cl { c.stream cl with mode := .lineDone none, reach := cyc + 1, latched := none }
  c1.modCtx fun x => { x with joined := x.joined.map fun j => { j with fin := j.fin.set! cl.idx (cyc + 1) } }

/-- The clusters in line order of a joined group: C, L, X, S (R123). -/
def lineClusters : List (Cluster × Nat) := [(.c, 0), (.l, 1), (.x, 2), (.s, 3)]

/-- The cluster that has waited longest at a rendezvous, with its position, its group and the cycle of its arrival; the first in
line order of those that arrived together (R126; log entry 79). -/
def Core.longestWait (c : Core) : Option (Cluster × Nat × Nat × Nat) :=
  lineClusters.foldl (fun (b : Option (Cluster × Nat × Nat × Nat)) e => match (c.stream e.1).mode with
    | .arrived g => (match b with
      | some (_, _, _, r) => if (c.stream e.1).reach < r then some (e.1, e.2, g, (c.stream e.1).reach) else b
      | none => some (e.1, e.2, g, (c.stream e.1).reach))
    | _ => b) none

/-- A rendezvous waits (R126). -/
def Core.someArrived (c : Core) : Bool :=
  [Cluster.c, .l, .x, .s].any fun k => match (c.stream k).mode with | .arrived _ => true | _ => false

/-- The stream of a cluster goes on behind the item at its position, which issued in cycle cyc: the next item reaches
issue at cycle e (R25, R28). A stream that ends counts as ended from cyc + 1 on (DEDUCED, log entry 86). -/
def State.advance (s : State) (id : CoreId) (c : Core) (cl : Cluster) (cyc e : Nat) : Core :=
  let st := c.stream cl
  match s.nextItem id st.line (st.parcel + s.itemSize id st.line st.parcel) with
  | some q => c.setStream cl { st with mode := .run, parcel := q, entering := false, reach := e, latched := none }
  | none =>
    if c.inJoined && !c.inHandler then
      let c1 := c.finishLine cl cyc
      c1.setStream cl { c1.stream cl with reach := e }
    else
      let w := s.link id st.line
      if linkH w then c.setStream cl { st with mode := .ended, reach := cyc + 1, latched := none }
      else c.setStream cl { st with mode := .run, line := linkNext w, parcel := 2, entering := true, reach := e, latched := none }

/-- A control transfer taken in cycle cyc (R43, R100, R125). -/
def Core.jump (c : Core) (cl : Cluster) (line parcel cyc : Nat) : Core :=
  if c.inJoined && !c.inHandler then
    (c.finishLine cl cyc).modCtx fun x => { x with joined := x.joined.map fun j => { j with jump := some (line, parcel, cyc + 2) } }
  else
    c.setStream cl { c.stream cl with mode := .run, line := line, parcel := parcel, entering := true, reach := cyc + 2, latched := none }

/-- The target line of a branch: the signed offset from the line that holds it (R43). A line below 0 is a line outside
every image. -/
def targetLine (line : Nat) (t : Target) : Nat :=
  let n := (line : Int) + t.line.toInt
  if n < 0 then 2 ^ 26 else n.toNat

/-- Every stream of the task stops in a cycle (R29). -/
def Core.haltAll (c : Core) (cyc : Nat) : Core :=
  let go := fun (k : Cluster) (c : Core) =>
    if (c.stream k).mode = .absent then c else c.setStream k { c.stream k with mode := .ended, reach := cyc, latched := none }
  go .s (go .x (go .l (go .c c)))

/-! ### Entering a line (R24) -/

/-- What entering an apart line finds: a fault, the end of the stream, a rendezvous, or the first item's parcel. -/
inductive Entry where
  | fault (cause : Cause)
  | ends
  | joined (g : Nat)
  | handlerJoined
  | absentJoined
  | item (parcel : Nat)
  deriving DecidableEq, Repr

/-- The clusters in issue order (R121). -/
def clusterOrder : List Cluster := [.c, .l, .x, .s]

/-- The checks of R24 in their order; in handler mode H = 1 and J = 1 are faults (R309), and a joined line is
one where a cluster is absent (R123). The first item is looked for from parcel k (R43). TRAPLINE of a fault names the line with the
parcel at which it is entered, even if that is padding (DESIGN CHOICE, log entry 105). -/
def State.enterLine (s : State) (id : CoreId) (c : Core) (cl : Cluster) (line k : Nat) : Entry :=
  if c.imagelen ≤ line then .fault .protection
  else
    let w := s.link id line
    if fld w 26 2 ≠ 0 then .fault .illegal
    else if linkCluster w ≠ cl.idx then .fault .illegal
    else if linkJ w then
      if c.inHandler then .handlerJoined
      else if clusterOrder.any fun k => !c.present k then .absentJoined
      else .joined (line / 4)
    else if c.inHandler && linkH w then .fault .illegal
    else match s.nextItem id line k with
      | some q => .item q
      | none =>
        if linkH w then .ends
        else if (s.nextItem id line 2).isNone then .fault .illegal
        else .item 32

/-! ### Joined groups (R123 to R126) -/

/-- TINFO of JOIN_FORM (R123). -/
def joinInfo (reason k g : Nat) : Word := BitVec.ofNat 64 (reason + k * 16 + g % 4096 * 65536)

/-- The opcodes of the branch and loop instructions of L, X and S, which no joined line may hold (R123 reason 5). -/
def branchOpcode (cl : Cluster) (op : Nat) : Bool :=
  match cl with
  | .c => false
  | .l => 0x20 ≤ op && op ≤ 0x22
  | .x => 0x70 ≤ op && op ≤ 0x74
  | .s => 0x30 ≤ op && op ≤ 0x32

/-- A long word that is a branch or loop instruction stands among the items of a line from parcel k; fuel bounds the
walk over the items. -/
def State.holdsBranch (s : State) (id : CoreId) (cl : Cluster) (line : Nat) : Nat → Nat → Bool
  | 0, _ => false
  | fuel + 1, k =>
    match s.nextItem id line k with
    | none => false
    | some q =>
      let p := s.parcel id line q
      if 32768 ≤ p then s.holdsBranch id cl line fuel (q + 1)
      else if 29 ≤ q then false
      else
        let w := wordOfParcels p (s.parcel id line (q + 1)) (s.parcel id line (q + 2)) (s.parcel id line (q + 3))
        branchOpcode cl (fld w 39 7) || s.holdsBranch id cl line fuel (q + 4)

/-- A line is the C line of a joined group (R123 reason 3, R124). -/
def State.groupLine (s : State) (id : CoreId) (c : Core) (line : Nat) : Bool :=
  line % 4 == 0 && decide (line < c.imagelen) && linkJ (s.link id line)

/-- The bytes of a line's link word. -/
def State.linkPas (s : State) (id : CoreId) (line : Nat) : List Nat :=
  (List.range 4).map fun k => padBase id + (s.core id).ctx.sys.imagebase.toNat + 64 * line + k

/-- The checks of a group's form in the cycle in which it starts, with the offending line's position (R123, R24 checks 1
to 3). For reason 7, where no single line offends, the position is 0 (DESIGN CHOICE, log entry 90); of several checks that fail the
first in this order is reported (DESIGN CHOICE, log entry 104). -/
def State.groupFault (s : State) (id : CoreId) (c : Core) (g : Nat) : Option (Cause × Nat × Nat) :=
  let w := fun k => s.link id (4 * g + k)
  match lineClusters.find? fun e => decide (c.imagelen ≤ 4 * g + e.2) with
  | some e => some (.protection, 0, e.2)
  | none =>
  match lineClusters.find? fun e => fld (w e.2) 26 2 != 0 || linkCluster (w e.2) != e.2 with
  | some e => some (.illegal, 0, e.2)
  | none =>
  match lineClusters.find? fun e => !c.present e.1 with
  | some e => some (.joinForm, 8, e.2)
  | none =>
  match lineClusters.find? fun e => !linkJ (w e.2) with
  | some e => some (.joinForm, 1, e.2)
  | none =>
  match lineClusters.find? fun e => linkH (w e.2) != linkH (w 0) with
  | some e => some (.joinForm, 2, e.2)
  | none =>
  let cNext := linkNext (w 0)
  match if !linkH (w 0) && s.groupLine id c cNext then lineClusters.find? fun e => linkNext (w e.2) != cNext + e.2 else none with
  | some e => some (.joinForm, 3, e.2)
  | none =>
  match lineClusters.find? fun e => s.holdsBranch id e.1 (4 * g + e.2) 32 2 with
  | some e => some (.joinForm, 5, e.2)
  | none =>
  if !linkH (w 0) && lineClusters.all fun e => (s.nextItem id (4 * g + e.2) 2).isNone then some (.joinForm, 7, 0) else none

/-- The stream of one line of a group that starts in cycle cyc, its first item looked for from parcel k; a line without
an item finishes at cyc − 1 (R124). -/
def State.startLine (s : State) (id : CoreId) (c : Core) (cl : Cluster) (line k cyc : Nat) : Core :=
  let st := c.stream cl
  let w := match st.mode with | .lineDone w => w | _ => none
  match s.nextItem id line k with
  | some q => c.setStream cl { st with
      mode := (match w with | some w => .wait w | none => .run), line := line, parcel := q, entering := false,
      reach := max cyc st.reach, latched := none }
  | none => c.setStream cl { st with
      mode := .lineDone w, line := line, parcel := k, entering := false, reach := max cyc st.reach, latched := none }

/-- The parcel from which a cluster runs its line of a group: the one at which it entered the line apart (R43, R126); else C the one of
its transfer, and the others parcel 2 (R125). -/
def Core.startParcel (c : Core) (cl : Cluster) (k : Nat) : Nat :=
  match (c.stream cl).mode with
  | .arrived _ => (c.stream cl).parcel
  | _ => if cl = .c then k else 2

/-- Group g starts in cycle cyc, C at parcel k of its transfer (R124, R125). fin holds each line's finish cycle plus 1, which is cyc
for a line without an item. -/
def State.startGroup (s : State) (id : CoreId) (c : Core) (g k cyc : Nat) : Core :=
  let c1 := c.modCtx fun x => { x with joined := some ⟨g, Vector.replicate 4 cyc, none⟩ }
  let c2 := s.startLine id c1 .c (4 * g) (c.startParcel .c k) cyc
  let c3 := s.startLine id c2 .l (4 * g + 1) (c.startParcel .l k) cyc
  let c4 := s.startLine id c3 .x (4 * g + 2) (c.startParcel .x k) cyc
  s.startLine id c4 .s (4 * g + 3) (c.startParcel .s k) cyc

end Sys2Proof.Machine
end

