-- ==== Sys2Proof/Machine/Operands.lean ====
section
/-! DEFINITION. Every operand form: the C, X, L and S sources and destinations, the channels (R35, R36, R38, R113 to R118),
and the commit of an issued instruction. -/

namespace Sys2Proof.Machine

open Sys2Proof

/-- What an issue leads the cluster's stream to (R25, R28, R100, R109, R110). -/
inductive Flow where
  /-- On to the next item, which reaches issue at I + d. -/
  | next (d : Nat)
  /-- On to the next item, before which come the checks of R241, or the stop that a TRAP or BREAK asks for (R108). -/
  | checked (kind target : Nat)
  | jump (line parcel : Nat)
  /-- The C stream waits; the next item reaches issue when the wait ends. -/
  | wait (w : Wait)
  | halt (exit : Word)
  deriving DecidableEq, Repr

/-- A stop that an issue ends in beside its effect: at the item itself, which does not advance (a gather or scatter that stops
part-way: R165, R171), or behind it (a CSTAT whose request's cause is raised: R295). -/
structure IssueStop where
  here : Bool
  cause : Cause
  tinfo : Word
  deriving DecidableEq, Repr

/-- What an instruction does at its issue: its core after it, what it asks for later, its stream's way on, and a stop beside
its effect. -/
structure IssueOut where
  core : Core
  reqs : List Req
  flow : Flow
  stop : Option IssueStop
  /-- Engine requests accepted (R237). -/
  jobs : List Job
  /-- The bytes read at the issue itself (R137, R162). -/
  reads : List Nat
  deriving DecidableEq, Repr

/-- The plain outcome: on to the next item. -/
def IssueOut.plain (c : Core) (reqs : List Req) : IssueOut := ⟨c, reqs, .next 1, none, [], []⟩

/-- The stream's way on (R25, R28, R29, R100). -/
def State.flow (s : State) (id : CoreId) (cl : Cluster) (c : Core) (cyc : Nat) : Flow → Core
  | .next d => s.advance id c cl cyc (cyc + d)
  | .checked kind target =>
    let c1 := s.advance id c cl cyc (cyc + 1)
    c1.setStream cl { c1.stream cl with check := some (kind, target) }
  | .jump line parcel => c.jump cl line parcel cyc
  | .wait w =>
    let c1 := s.advance id c cl cyc (cyc + 1)
    c1.setStream cl { c1.stream cl with mode := match (c1.stream cl).mode with
      | .run => .wait w | .lineDone _ => .lineDone (some w) | m => m }
  | .halt exit =>
    let c1 := c.haltAll cyc
    { c1 with task := c1.task.map fun t => { t with exit := some exit, halted := true } }

/-- The position of the C item after one that has issued, which TRAPLINE names after a TRAP, a BREAK or a CSTAT (R108, R295): the one
that the stream is now at, the first of the next group's C line behind a joined line's last item; where no item comes after it, an
open position (log entry 81). -/
def State.afterItem (s : State) (id : CoreId) (c : Core) : Pos :=
  let st := c.stream .c
  let first := fun line k => if c.imagelen ≤ line then k else (s.nextItem id line k).getD k
  let none_ : Pos := ⟨.c, Config.freeNat s.ctr 108 % 2 ^ 14, Config.freeNat (s.ctr + 1) 108 % 32⟩
  match st.mode with
  | .ended => none_
  | .lineDone _ =>
    let w := s.link id st.line
    if linkH w then none_ else ⟨.c, linkNext w, first (linkNext w) 2⟩
  | _ => ⟨.c, st.line, if st.entering then first st.line st.parcel else st.parcel⟩

/-- A stop that no item raises: TRAPLINE names the C item that is due, past padding before it (R180, R261, R307). -/
def State.stopAtDue (s : State) (id : CoreId) (cause : Cause) (tinfo : Word) : State :=
  let p := s.afterItem id (s.core id)
  let s1 := s.modCore id fun c =>
    let st := c.stream .c
    if st.entering ∧ st.line = p.line then c.setStream .c { st with parcel := p.parcel } else c
  s1.tick.tick.takeTrap id cause tinfo p

/-- Something of a handler's falls in a cycle (R310). -/
def Core.noteLast (c : Core) (t : Nat) : Core :=
  match c.ctx.trapped with
  | some (.handler h) => c.modCtx fun x => { x with trapped := some (.handler { h with last := max h.last t }) }
  | _ => c

/-- An issued instruction takes its effect: core, stream and agenda (R15, R25). -/
def State.commit (s : State) (cl : Cluster) (o : IssueOut) : State :=
  let id := s.cur
  let reqs := o.reqs.map fun r => r.pending s id s.seq
  let last := reqs.foldl (fun m (p : Pending) => if p.ifq && p.clk == .dom then max m p.due else m) 0
  let put := fun (c : Core) =>
    ({ s.setCore id (c.noteLast last) with agenda := s.agenda ++ reqs, jobs := s.jobs ++ o.jobs, seq := s.seq + 1 } : State).noteRead id o.reads
  let c1 := s.flow id cl o.core (s.itemCycle id) o.flow
  match o.stop with
  | none => put c1
  | some t => if t.here then (put o.core).raise id t.cause t.tinfo (o.core.posOf cl)
    else (put c1).tick.tick.raise id t.cause t.tinfo (s.afterItem id c1)

/-- Whether an issue's effects, an MLOAD's among them, would be the 65th outstanding instruction (R313). -/
def State.overfull (s : State) (o : IssueOut) : Bool :=
  (o.reqs.any (·.ifq) || decide ((s.core s.cur).ctx.mloads.length < o.core.ctx.mloads.length)) && decide (64 ≤ s.ifqCount s.cur)

/-- A stop as the issuing instruction reports it: OPERAND_EMPTY tells the occupancy before the instruction's own pops
(R114). -/
def Core.report (c : Core) : Stop → Stop
  | .trap .operandEmpty info =>
    .trap .operandEmpty (BitVec.ofNat 64 (info.toNat % 32 + (c.ctx.chan.toArray.getD (info.toNat % 32) []).length * 256))
  | e => e

/-- The issue of an item by a cluster of core cur: its own checks and effect by f; a stop leaves the state before it
(R26). -/
def issue (cl : Cluster) (f : State → Core → Except Stop IssueOut) (s : State) : Host.Outcome State Fault Refusal :=
  match f s (s.core s.cur) with
  | .error e => s.stopIssue cl ((s.core s.cur).report e)
  | .ok o => if s.overfull o then s.stopIssue cl (.trap .queueFull 27) else .next (s.commit cl o)

/-! ### Channels (R113, R114) -/

/-- The channel numbers of R113. -/
def chOq (q : Fin 8) : Fin 18 := ⟨q.val, by omega⟩
def chSq (q : Fin 4) : Fin 18 := ⟨8 + q.val, by omega⟩
def chCq : Fin 18 := 12
def chCl : Fin 18 := 13
def chCs : Fin 18 := 14
def chXq : Fin 18 := 15
def chLq : Fin 18 := 16
def chSr : Fin 18 := 17

/-- The cluster a channel comes from and the one it goes to (R113). -/
def chanFrom (ch : Fin 18) : Cluster :=
  if ch.val < 8 then .l else if ch.val < 12 then .x else if ch.val < 15 then .c else if ch.val = 15 then .x
  else if ch.val = 16 then .l else .s
def chanTo (ch : Fin 18) : Cluster :=
  if ch.val < 8 then .x else if ch.val < 12 then .s else if ch.val = 12 then .x else if ch.val = 13 then .l
  else if ch.val = 14 then .s else .c

/-- Both ends of the channel are present in the task (R111). -/
def Core.chanPresent (c : Core) (ch : Fin 18) : Bool := c.present (chanFrom ch) && c.present (chanTo ch)

/-- The occupancy of a channel (R114). -/
def Core.occ (c : Core) (ch : Fin 18) : Nat := c.ctx.chan[ch].length

/-- TINFO of a channel fault (R114). -/
def chanInfo (ch : Fin 18) (occ : Nat) : Word := BitVec.ofNat 64 (ch.val + occ * 256)

def Core.setChan (c : Core) (ch : Fin 18) (es : List ChanEntry) : Core :=
  c.modCtx fun x => { x with chan := x.chan.set ch es }

/-- The oldest entry popped, or OPERAND_EMPTY (R114). -/
def Core.pop (c : Core) (ch : Fin 18) : Except Stop (ChanEntry × Core) :=
  match c.ctx.chan[ch] with
  | e :: rest => if e.landed then .ok (e, c.setChan ch rest) else .error (.trap .operandEmpty (chanInfo ch (c.occ ch)))
  | [] => .error (.trap .operandEmpty (chanInfo ch 0))

/-- A place taken for the value of the instruction with the given number, or QUEUE_FULL (R114). -/
def Core.reserve (c : Core) (ch : Fin 18) (id : Nat) (mask : Word) : Except Stop Core :=
  if 8 ≤ c.occ ch then .error (.trap .queueFull (chanInfo ch (c.occ ch)))
  else .ok (c.setChan ch (c.ctx.chan[ch] ++ [⟨id, false, Vec.zero, mask, none⟩]))

/-- The entries of the channel with a number changed. -/
def Core.modChan (c : Core) (ch : Nat) (f : List ChanEntry → List ChanEntry) : Core :=
  if h : ch < 18 then c.modCtx fun x => { x with chan := x.chan.set ch (f x.chan[ch]) } else c

/-- A channel place filled (R114). -/
def Core.fill (c : Core) (ch id : Nat) (v : Vec) : Core :=
  c.modChan ch fun es => es.map fun e => if e.id = id then { e with v := v, landed := true } else e

/-- A reserved place discarded unfilled (R159, R222). -/
def Core.unreserve (c : Core) (ch id : Nat) : Core :=
  c.modChan ch fun es => es.filter fun e => e.id != id

/-- A check on the encoding or the operand codes that only ILLEGAL follows (R51). -/
def legal (b : Bool) : Except Stop Unit := if b then .ok () else .error .illegal

/-! ### C operands (R35, R36) -/

/-- The channel a C source code pops. -/
def srcChan : CSrc → Option (Fin 18)
  | .xq => some chXq | .lq => some chLq | .sr => some chSr | _ => none

/-- The channel a C destination pushes. -/
def dstChan : CDst → Option (Fin 18)
  | .cs => some chCs | .cl => some chCl | .cq => some chCq | _ => none

def Core.chanOk (c : Core) : Option (Fin 18) → Bool
  | none => true
  | some ch => c.chanPresent ch

/-- A C source read; a popping code takes the oldest entry (R35, R86). -/
def readC (s : State) (c : Core) : CSrc → Except Stop (Word × Core)
  | .s r => .ok (c.ctx.c.s[r], c)
  | .h k => .ok (c.ctx.c.h[k], c)
  | .zero => .ok (0, c)
  | .fcyc => .ok (BitVec.ofNat 64 (s.framecnt s.cur % 32768), c)
  | .tclk => .ok (BitVec.ofNat 64 c.ctx.tau, c)
  | .coreid => .ok (BitVec.ofNat 64 s.cur.core, c)
  | .dieid => .ok (BitVec.ofNat 64 s.cur.die, c)
  | .xq => do let (e, c1) ← c.pop chXq; return (wordOfVec e.v, c1)
  | .lq => do let (e, c1) ← c.pop chLq; return (wordOfVec e.v, c1)
  | .sr => do let (e, c1) ← c.pop chSr; return (wordOfVec e.v, c1)

/-- The operand codes of an instruction name present channels (R51 step 3, R111). -/
def Core.srcOk (c : Core) (a : CSrc) : Bool := c.chanOk (srcChan a)
def Core.dstOk (c : Core) (d : CDst) : Bool := c.chanOk (dstChan d)

/-- The destination of a C result: a channel place is taken at issue (R36, R114). -/
def Core.reserveC (c : Core) (seq : Nat) (d : CDst) : Except Stop Core :=
  match dstChan d with
  | none => .ok c
  | some ch => c.reserve ch seq (BitVec.allOnes 64)

/-- What a C result asks for: its landing at I + n (R15, R16), and that of its channel entry. -/
def landC (seq : Nat) (d : CDst) (n : Nat) (v : Word) : List Req :=
  let base : Req := ⟨n, none, true, .resultLanding,
    .landing (.cval v (match d with | .s r => some r | _ => none))⟩
  match dstChan d with
  | none => [base]
  | some ch => [base, ⟨n, none, true, .channelEntryLanding, .chan ch.val seq (vecOfWord v)⟩]

/-- The outcome of a C instruction with a result. -/
def resultC (s : State) (c : Core) (d : CDst) (n : Nat) (v : Word) : Except Stop IssueOut := do
  let c1 ← c.reserveC s.seq d
  return .plain c1 (landC s.seq d n v)

/-- A C instruction of one operand with a result that may trap (R86, R90). R93 orders no full channel of the destination against a
failing bound: QUEUE_FULL comes before BOUND (DESIGN CHOICE, log entry 108). -/
def opC1 (d : CDst) (a : CSrc) (n : Nat) (f : Word → Except Stop Word) (s : State) (c : Core) : Except Stop IssueOut := do
  legal (c.dstOk d && c.srcOk a)
  let (x, c) ← readC s c a
  let c ← c.reserveC s.seq d
  let v ← f x
  return .plain c (landC s.seq d n v)

/-- One of two operands (R86, R90, R93), with the same order of QUEUE_FULL and BOUND (DESIGN CHOICE, log entry 108). -/
def opC2 (d : CDst) (a b : CSrc) (n : Nat) (f : Word → Word → Except Stop Word) (s : State) (c : Core) :
    Except Stop IssueOut := do
  legal (c.dstOk d && c.srcOk a && c.srcOk b)
  let (x, c) ← readC s c a
  let (y, c) ← readC s c b
  let c ← c.reserveC s.seq d
  let v ← f x y
  return .plain c (landC s.seq d n v)

def opC3 (d : CDst) (a b e : CSrc) (n : Nat) (f : Word → Word → Word → Except Stop Word) (s : State) (c : Core) :
    Except Stop IssueOut := do
  legal (c.dstOk d && c.srcOk a && c.srcOk b && c.srcOk e)
  let (x, c) ← readC s c a
  let (y, c) ← readC s c b
  let (z, c) ← readC s c e
  let c ← c.reserveC s.seq d
  let v ← f x y z
  return .plain c (landC s.seq d n v)

/-- The operands of a C instruction without a destination, in order A, B, C. -/
def readC1 (s : State) (c : Core) (a : CSrc) : Except Stop (Word × Core) := do
  legal (c.srcOk a)
  readC s c a

def readC2 (s : State) (c : Core) (a b : CSrc) : Except Stop (Word × Word × Core) := do
  legal (c.srcOk a && c.srcOk b)
  let (x, c) ← readC s c a
  let (y, c) ← readC s c b
  return (x, y, c)

def readC3 (s : State) (c : Core) (a b e : CSrc) : Except Stop (Word × Word × Word × Core) := do
  legal (c.srcOk a && c.srcOk b && c.srcOk e)
  let (x, c) ← readC s c a
  let (y, c) ← readC s c b
  let (z, c) ← readC s c e
  return (x, y, z, c)

/-- An engine request: not in handler mode (R309). -/
def engineOk (c : Core) : Except Stop Unit := legal (!c.inHandler)

/-- The landing of a value that goes to h0 only (R37). -/
def pushH0 (n : Nat) (v : Word) : Req := ⟨n, none, true, .resultLanding, .landing (.cval v none)⟩

/-! ### X operands (R38, R116 to R119) -/

/-- The broadcast of a 64-bit cq entry by element width (R116). -/
def broadcast (width : Nat) (w : Word) : Vec :=
  if width = 64 then Vector.ofFn fun i => if i.val % 2 = 0 then w.setWidth 32 else (w >>> 32).setWidth 32
  else
    let e := w.toNat % 2 ^ width
    let lane := match width with
      | 4 => e * 0x11111111 | 8 => e * 0x01010101 | 16 => e * 0x00010001 | _ => e
    Vector.replicate 64 (BitVec.ofNat 32 lane)

/-- The channel an X source code pops. -/
def xsrcChan : XSrc → Option (Fin 18)
  | .oq q => some (chOq q) | .cq => some chCq | _ => none

/-- An X source read as a vector of elements of the given width (R38, R116). -/
def readX (width : Nat) (c : Core) : XSrc → Except Stop (Vec × Core)
  | .v r => .ok (c.ctx.x.v[r], c)
  | .h k => .ok (c.ctx.x.h[k], c)
  | .oq q => do let (e, c1) ← c.pop (chOq q); return (e.v, c1)
  | .cq => do let (e, c1) ← c.pop chCq; return (broadcast width (wordOfVec e.v), c1)
  | .zero => .ok (Vec.zero, c)
  | .lane => .ok (Vector.ofFn fun i => BitVec.ofNat 32 i.val, c)

/-- The predicate read at I; p0 is all ones (R112, R118). -/
def Core.pred (c : Core) (p : Fin 8) : Word := if p.val = 0 then BitVec.allOnes 64 else c.ctx.x.p[p]

def xdstChan : XDst → Option (Fin 18)
  | .sq q => some (chSq q) | _ => none

def Core.xsrcOk (c : Core) (a : XSrc) : Bool := c.chanOk (xsrcChan a)
def Core.xdstOk (c : Core) (d : XDst) : Bool := c.chanOk (xdstChan d)

/-- The lanes a predicate makes active in elements of the given width: for CF32 the even bit governs both lanes
(R118). -/
def laneMask (width : Nat) (p : Word) : Word :=
  if width = 64 then
    let e := p &&& 0x5555555555555555
    e ||| (e <<< 1)
  else p

/-- The vector with the lanes outside the mask 0 (R118). -/
def maskVec (m : Word) (v : Vec) : Vec := Vector.ofFn fun i => if m.getLsbD i.val then v[i] else 0

/-- The vector with the lanes of the mask from one, the others from another. -/
def mixVec (m : Word) (new old : Vec) : Vec := Vector.ofFn fun i => if m.getLsbD i.val then new[i] else old[i]

/-- A place in a store queue, with the entry's lane mask: the predicate itself, also for CF32 (R38, R114, R118). -/
def Core.reserveX (c : Core) (seq : Nat) (d : XDst) (mask : Word) : Except Stop Core :=
  match xdstChan d with
  | none => .ok c
  | some ch => c.reserve ch seq mask

/-- What an X vector result asks for (R117). -/
def landX (seq : Nat) (d : XDst) (n : Nat) (mask : Word) (v : Vec) : List Req :=
  let base : Req := ⟨n, none, true, .resultLanding,
    .landing (.xvec v (match d with | .v r => some r | _ => none) mask)⟩
  match xdstChan d with
  | none => [base]
  | some ch => [base, ⟨n, none, true, .channelEntryLanding, .chan ch.val seq v⟩]

/-- X instructions of one, two and three vector operands with a vector result at I + n. The function is given the
active lanes. -/
def opX1 (width : Nat) (d : XDst) (p : Fin 8) (a : XSrc) (n : Nat) (f : Word → Vec → Vec) (s : State) (c : Core) :
    Except Stop IssueOut := do
  legal (c.xdstOk d && c.xsrcOk a)
  let q := c.pred p
  let m := laneMask width q
  let (x, c) ← readX width c a
  let c ← c.reserveX s.seq d q
  return .plain c (landX s.seq d n m (f m x))

def opX2 (width : Nat) (d : XDst) (p : Fin 8) (a b : XSrc) (n : Nat) (f : Word → Vec → Vec → Vec) (s : State) (c : Core) :
    Except Stop IssueOut := do
  legal (c.xdstOk d && c.xsrcOk a && c.xsrcOk b)
  let q := c.pred p
  let m := laneMask width q
  let (x, c) ← readX width c a
  let (y, c) ← readX width c b
  let c ← c.reserveX s.seq d q
  return .plain c (landX s.seq d n m (f m x y))

def opX3 (width : Nat) (d : XDst) (p : Fin 8) (a b e : XSrc) (n : Nat) (f : Word → Vec → Vec → Vec → Vec) (s : State)
    (c : Core) : Except Stop IssueOut := do
  legal (c.xdstOk d && c.xsrcOk a && c.xsrcOk b && c.xsrcOk e)
  let q := c.pred p
  let m := laneMask width q
  let (x, c) ← readX width c a
  let (y, c) ← readX width c b
  let (z, c) ← readX width c e
  let c ← c.reserveX s.seq d q
  return .plain c (landX s.seq d n m (f m x y z))

/-- The scalar result of an X instruction, a place on xq taken at issue (R113). -/
def Core.reserveXq (c : Core) (seq : Nat) : Except Stop Core := c.reserve chXq seq (BitVec.allOnes 64)

def landScalar (ch : Fin 18) (seq n : Nat) (v : Word) : Req :=
  ⟨n, none, true, .channelEntryLanding, .chan ch.val seq (vecOfWord v)⟩

/-! ### Landings (R16, R17, R117) -/

/-- A push onto a result queue: every entry moves one place older (R17). -/
def pushQ {α : Type} (q : Vector α 16) (v : α) : Vector α 16 :=
  Vector.ofFn fun i => if h : i.val = 0 then v else q[i.val - 1]'(by omega)

/-- A C value lands (R16). -/
def CRegs.land (r : CRegs) (v : Word) (d : Option (Fin 32)) : CRegs :=
  { r with h := pushQ r.h v, s := match d with | some i => r.s.set i v | none => r.s }

/-- An X vector lands: pushed with inactive lanes 0, and written to a v register in its active lanes (R117, R118). -/
def XRegs.land (r : XRegs) (v : Vec) (d : Option (Fin 16)) (m : Word) : XRegs :=
  { r with h := pushQ r.h (maskVec m v), v := match d with | some i => r.v.set i (mixVec m v r.v[i]) | none => r.v }

end Sys2Proof.Machine
end

