-- ==== Sys2Proof/Machine/Access.lean ====
section
/-! DEFINITION. Memory as a core reaches it: the checks of an access, translation, classes and latencies (R104, R154, R197 to
R208), the order and visibility of accesses (R105, R211, R212), ECC (R210). -/

namespace Sys2Proof.Machine

open Sys2Proof

/-- TINFO of the faults of R154 (R156). -/
def accessInfo (va : Word) (lane : Nat) (progress : Bool) : Word :=
  BitVec.ofNat 64 (va.toNat % 2 ^ 48 + lane % 64 * 2 ^ 48 + (if progress then 2 ^ 54 else 0))

/-- What a page must allow. -/
inductive Perm where
  | r | w | rw
  deriving DecidableEq, Repr

def TlbEntry.allows (e : TlbEntry) (p : Perm) : Bool :=
  !e.sup && (match p with | .r => e.r | .w => e.w | .rw => e.r && e.w)

/-- Bits 63 to 47 all equal (R104). -/
def canonical (va : Nat) : Bool := decide (va / 2 ^ 47 = 0) || decide (va / 2 ^ 47 = 2 ^ 17 - 1)

/-- The first byte of the scratchpad window (R197). -/
def windowBase : Nat := 2 ^ 64 - 2 ^ 20

/-- The ways in movement by a vault's CRESIZEs at a cycle of the core's timeline (R200). -/
def Cresize.moves (r : Cresize) (way : Nat) : Bool := decide (16 - max r.n r.c0 ≤ way) && decide (way < 16 - min r.n r.c0)

/-- The offset lies in the direct storage of a vault (R199). -/
def Core.direct (c : Core) (off : Nat) : Bool := decide (off < (16 - c.ways) * 524288)

/-- The present cycle as a CRESIZE counts it. -/
def State.cresizeNow (s : State) (id : CoreId) (r : Cresize) : Nat := if r.own then s.timeline id else s.clock

/-- The CRESIZEs of a core whose ways are in movement for its own accesses that issue now: from their issue to the end of their completion
cycle (R200). -/
def State.movers (s : State) (id : CoreId) (c : Core) : List Cresize :=
  c.cresizes ++ (c.resized.toList.filter fun r => decide (s.cresizeNow id r ≤ r.done))

/-- An own access touches a way that a CRESIZE moves (R200). -/
def State.moving (s : State) (id : CoreId) (c : Core) (off : Nat) : Bool := (s.movers id c).any fun r => r.moves (off / 524288)

/-- A die of the aligned domain (R203, R363) that has not failed (R353, R393). -/
def State.aligned (s : State) (die : Nat) : Bool :=
  decide (die < 8 * s.modules) && !s.domain.gone.contains (die / 8) && !s.domain.off.contains die

/-- Check 4 of R154 on a physical address: R199, R200, R203. -/
def State.paOk (s : State) (id : CoreId) (c : Core) (pa : Nat) : Bool :=
  let o := paCore pa
  s.aligned (paDie pa) && decide (paUnit pa < 96) &&
  (if paSpace pa = 0 then
     let oc := if o = id then c else s.core o
     oc.direct (paOff pa) && (o != id || !s.moving id c (paOff pa))
   else paSpace pa = 1 && decide (paOff pa < 2 ^ 20))

/-- The target lies within a class as seen from a core (R208). -/
def inClass (cl : Cls) (id : CoreId) (pa : Nat) : Bool :=
  let o := paCore pa
  if o = id then true
  else match cl with
    | .n => false
    | .d => o.die == id.die
    | .p => o.die / 8 == id.die / 8
    | .f => true

/-- A byte of the own scratchpad (R208). -/
def ownPad (id : CoreId) (pa : Nat) : Bool := decide (paCore pa = id) && paSpace pa == 1

/-- Latency(cl) (R208). -/
def State.classLat (s : State) : Cls → Nat
  | .n => 40 | .d => 160 | .p => 640 | .f => s.flat

/-- The latency of an access to the given bytes (R154). -/
def State.latency (s : State) (id : CoreId) (cl : Cls) (pas : List Nat) : Nat :=
  if pas.all (ownPad id) then 4 else s.classLat cl

/-- The entry translates an address. -/
def TlbEntry.covers (e : TlbEntry) (va : Nat) : Bool := decide (e.va ≤ va) && decide (va < e.va + e.size)

/-- The buffer entry that translates an address: any of a free task's, with what walks have found for the items that are
to issue, a pinned one of a locked task's (R207). -/
def Core.lookup (c : Core) (va : Nat) : Option TlbEntry :=
  if c.isLocked then c.tlb.find? fun e => e.covers va && e.pinned
  else (c.tlb ++ c.ctx.found).find? fun e => e.covers va

/-- The entry's last use (R207). -/
def Core.touch (c : Core) (e : TlbEntry) (now : Nat) : Core :=
  { c with tlb := c.tlb.map fun f => if f.va = e.va ∧ f.size = e.size ∧ f.pinned = e.pinned then { f with used := now } else f }

/-- The walk that a miss begins (R205, R207). -/
def Core.walkFor (c : Core) (va : Word) (lane : Nat) (progress : Bool) : Walk :=
  ⟨va.toNat, 1, c.ptroot.toNat % 2 ^ 52 / 2 ^ 13 * 2 ^ 13, lane, progress, ⟨.c, 0, 0⟩⟩

/-- Checks 2 to 5 of R154 on z bytes at va that lie in one page: the physical address of the first. -/
def checkBytes (s : State) (id : CoreId) (c : Core) (cl : Cls) (perm : Perm) (va : Word) (z lane : Nat) (progress : Bool) :
    Except Stop (Nat × Core) :=
  let v := va.toNat
  let info := accessInfo va lane progress
  if !canonical v || decide (2 ^ 64 < v + z) || (decide (v < windowBase) && decide (windowBase < v + z)) then
    .error (.trap .protection info)
  else if windowBase ≤ v then .ok (padBase id + v % 2 ^ 20, c)
  else
    match c.lookup (v % 2 ^ 48) with
    | none =>
      if c.isLocked then .error (.lockedMiss info)
      else if c.ctx.walkFail.any fun f => f.1 == v % 2 ^ 48 / 65536 then .error (.trap .translateMiss info)
      else .error (.walk (c.walkFor va lane progress))
    | some e =>
      let pa := e.pa + (v % 2 ^ 48 - e.va)
      if !e.allows perm || !s.paOk id c pa then .error (.trap .protection info)
      else if !inClass cl id pa then .error (.trap .class_ info)
      else .ok (pa, c.touch e s.seq)

/-- The checks of R154 on an element with its alignment. -/
def checkElem (s : State) (id : CoreId) (c : Core) (cl : Cls) (perm : Perm) (va : Word) (z align lane : Nat)
    (progress : Bool) : Except Stop (Nat × Core) :=
  if va.toNat % align ≠ 0 then .error (.trap .align (accessInfo va lane progress))
  else checkBytes s id c cl perm va z lane progress

/-- The checks 2 to 5 of R154 on a range, page by page in ascending order; pages are at least 64 KiB. -/
def checkRange (s : State) (id : CoreId) (cl : Cls) (perm : Perm) (va : Word) :
    Nat → Nat → Nat → Core → Except Stop (List Seg × Core)
  | 0, _, _, c => .ok ([], c)
  | fuel + 1, off, len, c =>
    if len = 0 then .ok ([], c)
    else
      let v := va.toNat + off
      let z := min len (65536 - v % 65536)
      if 2 ^ 64 ≤ v then .error (.trap .protection (accessInfo (BitVec.ofNat 64 v) 0 false))
      else do
        let (pa, c1) ← checkBytes s id c cl perm (BitVec.ofNat 64 v) z 0 false
        let (rest, c2) ← checkRange s id cl perm va fuel (off + z) (len - z) c1
        return (⟨off, z, pa⟩ :: rest, c2)

/-- A range of any length that the rules allow. -/
def checkWhole (s : State) (id : CoreId) (c : Core) (cl : Cls) (perm : Perm) (va : Word) (len : Nat) :
    Except Stop (List Seg × Core) :=
  if va.toNat < windowBase ∧ windowBase < va.toNat + len then .error (.trap .protection (accessInfo va 0 false))
  else checkRange s id cl perm va (len / 65536 + 2) 0 len c

/-- The physical address of byte k of a range. -/
def segPa (segs : List Seg) (k : Nat) : Nat :=
  match segs.find? fun g => decide (g.off ≤ k) && decide (k < g.off + g.len) with
  | some g => g.pa + (k - g.off)
  | none => 0

/-- The physical addresses of n bytes of a range from byte k. -/
def segPas (segs : List Seg) (k n : Nat) : List Nat := (List.range n).map fun i => segPa segs (k + i)

/-- The whole range lies in the own scratchpad (R208). -/
def segsOwn (id : CoreId) (segs : List Seg) : Bool := segs.all fun g => ownPad id g.pa

def State.segLat (s : State) (id : CoreId) (cl : Cls) (segs : List Seg) : Nat :=
  if segsOwn id segs then 4 else s.classLat cl

/-- Consecutive physical addresses. -/
def pasFrom (pa n : Nat) : List Nat := (List.range n).map (pa + ·)

/-- The physical address of every byte of an element, and of an access in order. -/
def El.pas (e : El) : List Nat := pasFrom e.pa e.z
def Access.pas (a : Access) : List Nat := a.els.flatMap El.pas

/-- An element as an instruction names it: its address formed without wrapping at the top, its bytes, alignment and
lane (R154). -/
structure Place where
  va : Int
  z : Nat
  align : Nat
  lane : Nat
  deriving DecidableEq, Repr

/-- The checks of R154 on one element; an address beyond the top of the space is PROTECTION. -/
def checkPlace (s : State) (id : CoreId) (c : Core) (cl : Cls) (perm : Perm) (progress : Bool) (p : Place) :
    Except Stop (El × Core) :=
  let va := BitVec.ofInt 64 p.va
  if p.va % p.align ≠ 0 then .error (.trap .align (accessInfo va p.lane progress))
  else if (2 ^ 64 : Int) ≤ p.va then .error (.trap .protection (accessInfo va p.lane progress))
  else do
    let (pa, c1) ← checkBytes s id c cl perm va p.z p.lane progress
    return (⟨va, p.z, p.lane, pa⟩, c1)

/-- The checks of R154 on elements in order. -/
def checkPlaces (s : State) (id : CoreId) (cl : Cls) (perm : Perm) :
    List Place → Core → Except Stop (List El × Core)
  | [], c => .ok ([], c)
  | p :: ps, c => do
    let (e, c1) ← checkPlace s id c cl perm false p
    let (es, c2) ← checkPlaces s id cl perm ps c1
    return (e :: es, c2)

/-- The timeline in which an access of a core performs: that of the one other member of its lock group that all its
bytes belong to, else its own (R314; log entry 21). -/
def State.accessTarget (s : State) (id : CoreId) (c : Core) (pas : List Nat) : Option CoreId :=
  match pas, c.task with
  | p :: _, some t =>
    let o := paCore p
    let member := match (s.core o).task with | some u => u.locked && u.group == t.group | none => false
    if t.locked && o != id && member && !c.inHandler && pas.all fun q => paCore q == o then some o else none
  | _, _ => none

/-- The requests of an operation on memory at a latency: its event, which an engine's first access does not count in the in-flight queue,
and its arrival at a member's landing buffer (R313, R314). -/
def State.memReqs (s : State) (id : CoreId) (c : Core) (pas : List Nat) (ev : Instr) (arg : Arg) (lat : Nat) (ifq : Bool := true) :
    List Req :=
  match s.accessTarget id c pas with
  | none => [⟨lat, none, ifq, ev, arg⟩]
  | some t => [⟨lat, some t, ifq, ev, arg⟩,
      ⟨lat, none, false, .landingBufferArrival, arrivalArg t s.seq (s.timeline id + lat) pas⟩]

/-- The requests of a load or store. -/
def State.accessReqs (s : State) (id : CoreId) (c : Core) (a : Access) (lat : Nat) : List Req :=
  s.memReqs id c a.pas .accessPerform (.access a) lat

/-! ### Visibility (R212, R217, R218, R228) -/

/-- A write is visible to a core. -/
def WriteRec.visible (r : WriteRec) (c : CoreId) : Bool := r.by_ == c || r.seen.contains c

/-- The values of a byte's coherence order that the ledger keeps. -/
def State.candidates (s : State) (pa : Nat) : List Byte :=
  let rs := s.ledger.filter fun r => r.pa == pa
  rs.map (·.val) ++ (match rs.getLast? with | some r => [r.old] | none => [])

/-- The byte that a read of a core returns (R212): in a race, with a plain write that is not visible to it, some value of the
coherence order (log entry 11); else what the latest write that is visible to it left. -/
def State.readByteAs (s : State) (c : CoreId) (pa : Nat) : Byte :=
  match s.ledger.filter fun r => r.pa == pa with
  | [] => s.mem.get pa
  | r :: rs =>
    if (r :: rs).any fun q => !q.atom && !q.visible c then
      let cs := s.candidates pa
      cs.getD (Config.raceChoice s.ctr pa % cs.length) 0
    else if r.visible c then s.mem.get pa
    else match rs.find? (·.visible c) with
      | some q => q.val
      | none => ((r :: rs).getLast?.map (·.old)).getD 0

/-- The byte lies in a way that a CRESIZE moves at present (R200). -/
def State.inMotion (s : State) (pa : Nat) : Bool :=
  paSpace pa == 0 &&
  (let o := paCore pa
   ((s.movers o (s.core o)).any fun r =>
      r.moves (paOff pa / 524288) && decide (r.start ≤ s.cresizeNow o r) && decide (s.cresizeNow o r ≤ r.done)) ||
   s.soon.any fun e => e.1 == o && e.2.moves (paOff pa / 524288))

/-- What a byte of memory gives an agent that sees every write: 0 in a way that moves (R200). -/
def State.byteAt (s : State) (pa : Nat) : Byte := if s.inMotion pa then 0 else s.mem.get pa

/-- Bytes at consecutive addresses, and their number, as such an agent reads them. -/
def State.bytesFrom (s : State) (pa n : Nat) : List Byte := (pasFrom pa n).map s.byteAt
def State.numFrom (s : State) (pa n : Nat) : Nat := leNat (s.bytesFrom pa n)

/-- Memory with bytes written at consecutive addresses, but for those in a way that moves (R200). -/
def State.stored (s : State) (pa : Nat) (bs : List Byte) : Mem :=
  ((pasFrom pa bs.length).zip bs).foldl (fun m e => if s.inMotion e.1 then m else m.set e.1 e.2) s.mem

/-- Bytes read by a core at its access's perform cycle. -/
def State.readAs (s : State) (c : CoreId) (pas : List Nat) : List Byte :=
  pas.map fun pa => if s.inMotion pa then 0 else s.readByteAs c pa

/-- A byte's write: its physical and virtual address and its value. -/
structure ByteWrite where
  pa : Nat
  va : Nat
  val : Byte
  deriving DecidableEq, Repr

/-- Consecutive bytes at a virtual and physical address. -/
def bytesAt (pa va : Nat) : List Byte → List ByteWrite
  | [] => []
  | b :: bs => ⟨pa, va, b⟩ :: bytesAt (pa + 1) (va + 1) bs

/-- A byte written by a core; atom when an atomic operation writes it (R227). -/
def State.writeByteAs (s : State) (c : CoreId) (atom : Bool) (w : ByteWrite) : State :=
  if s.inMotion w.pa then s
  else { s with mem := s.mem.set w.pa w.val,
                ledger := ⟨w.pa, w.va, atom, w.val, s.mem.get w.pa, c, [], [], []⟩ :: s.ledger }

/-- The words that a write covers whole take fresh ECC (R210, R320). -/
def State.freshen (s : State) (ws : List ByteWrite) : State :=
  let old := fun (w : Nat) => !((List.range 8).all fun i => ws.any fun e => e.pa == 8 * w + i)
  { s with poison := s.poison.filter old, soft := s.soft.filter old }

/-- Bytes written by a core, in order, so that the last write to a byte wins (R174, R211). -/
def State.writeAs (s : State) (c : CoreId) (ws : List ByteWrite) : State :=
  (ws.foldl (fun t w => t.writeByteAs c false w) s).freshen ws

/-- Bytes read by an atomic: what the writes visible to the core and all atomics leave, else a race (R212, R227). -/
def State.readAtomAs (s : State) (c : CoreId) (pas : List Nat) : List Byte :=
  pas.map fun pa =>
    if s.inMotion pa then 0
    else match s.ledger.find? fun r => r.pa == pa with
      | none => s.mem.get pa
      | some r => if r.atom then s.mem.get pa else s.readByteAs c pa

/-- Bytes written by an atomic. -/
def State.writeAtomAs (s : State) (c : CoreId) (ws : List ByteWrite) : State :=
  (ws.foldl (fun t w => t.writeByteAs c true w) s).freshen ws

/-- Bytes written by an agent that is no core (launch, scheduler, firmware, host): visible to all from then on
(R186; log entry 22); words written whole take fresh ECC (R320). -/
def State.poke (s : State) (pa : Nat) (bs : List Byte) : State :=
  let old := fun (w : Nat) => !(decide (pa ≤ 8 * w) && decide (8 * w + 8 ≤ pa + bs.length))
  { s with mem := s.stored pa bs
           poison := s.poison.filter old
           soft := s.soft.filter old
           ledger := s.ledger.filter fun r => !(decide (pa ≤ r.pa) && decide (r.pa < pa + bs.length)) }

/-- Every write that a test picks becomes visible to a core. -/
def State.reveal (s : State) (c : CoreId) (p : WriteRec → Bool) : State :=
  { s with ledger := s.ledger.map fun r => if p r && !r.visible c then { r with seen := c :: r.seen } else r }

/-- A core lies within the scope of another's fence (R228). -/
def inScope (sc : Scope) (a b : CoreId) : Bool :=
  match sc with
  | .core => a == b | .die => a.die == b.die | .module => a.die / 8 == b.die / 8 | .domain => true

/-- A fence of a core takes its place in the total order (R228): what earlier fences in each other's scope cover becomes
visible, and what is now visible to the core is covered. -/
def State.fence (s : State) (c : CoreId) (sc : Scope) : State :=
  let s1 := s.reveal c fun r => r.fences.any fun f => inScope f.2 f.1 c && inScope sc c f.1
  { s1 with ledger := s1.ledger.map fun r =>
      if r.visible c && !r.fences.contains (c, sc) then { r with fences := (c, sc) :: r.fences } else r }

end Sys2Proof.Machine
end

