-- ==== Sys2Proof/Machine/Flags.lean ====
section
/-! DEFINITION. Conditions and the integer functions of the C cluster (R87, R90 to R95). -/

namespace Sys2Proof.Machine

open Sys2Proof

/-- Cond(c, a, b) (R87). -/
def condTest (cc : Cond) (a b : Word) : Bool :=
  match cc with
  | .always => true
  | .eq => a == b
  | .ne => a != b
  | .lt => a.slt b
  | .ge => b.sle a
  | .ltu => a.ult b
  | .geu => b.ule a
  | .gt => b.slt a
  | .le => a.sle b
  | .gtu => b.ult a
  | .leu => a.ule b
  | .tz => a &&& b == 0
  | .tnz => a &&& b != 0

def boolWord (b : Bool) : Word := if b then 1 else 0

/-- MULH: bits [127:64] of the exact product (R90). -/
def mulHigh (u : Bool) (a b : Word) : Word :=
  if u then BitVec.ofNat 64 (a.toNat * b.toNat / 2 ^ 64) else BitVec.ofInt 64 (a.toInt * b.toInt / 2 ^ 64)

/-- DIV with the cases of R91. -/
def divWord (u : Bool) (a b : Word) : Word :=
  if b = 0 then BitVec.allOnes 64
  else if u then BitVec.ofNat 64 (a.toNat / b.toNat)
  else BitVec.ofInt 64 (Int.tdiv a.toInt b.toInt)

/-- REM with the cases of R91: the remainder has the sign of a. -/
def remWord (u : Bool) (a b : Word) : Word :=
  if b = 0 then a
  else if u then BitVec.ofNat 64 (a.toNat % b.toNat)
  else BitVec.ofInt 64 (Int.tmod a.toInt b.toInt)

def minWord (u : Bool) (a b : Word) : Word := if (if u then a.ult b else a.slt b) then a else b
def maxWord (u : Bool) (a b : Word) : Word := if (if u then a.ult b else a.slt b) then b else a

/-- A shift or rotate amount: b[5:0] (R90). -/
def shamt (b : Word) : Nat := b.toNat % 64

/-- The number of leading 0 bits among the lowest n. -/
def leadingZeros : Nat → Nat → Nat
  | 0, _ => 0
  | n + 1, v => if v / 2 ^ n % 2 = 1 then 0 else 1 + leadingZeros n v

/-- The number of trailing 0 bits, at most n. -/
def trailingZeros : Nat → Nat → Nat
  | 0, _ => 0
  | n + 1, v => if v % 2 = 1 then 0 else 1 + trailingZeros n (v / 2)

/-- The number of 1 bits among the lowest n. -/
def popCount : Nat → Nat → Nat
  | 0, _ => 0
  | n + 1, v => v % 2 + popCount n (v / 2)

/-- The lowest n bits in reverse order. -/
def bitReverse : Nat → Nat → Nat
  | 0, _ => 0
  | n + 1, v => v % 2 * 2 ^ n + bitReverse n (v / 2)

/-- Field position and width from a control word (R92). -/
def fieldOf (b : Word) : Nat × Nat := (bits b 5 0, min (bits b 14 8) (64 - bits b 5 0))

/-- A w-bit number sign-extended to 64 bits. -/
def signExt (w v : Nat) : Word :=
  if w = 0 then 0 else if v % 2 ^ w < 2 ^ (w - 1) then BitVec.ofNat 64 (v % 2 ^ w) else BitVec.ofInt 64 ((v % 2 ^ w : Nat) - (2 ^ w : Nat))

/-- BFX (R92). -/
def bfxWord (u : Bool) (a b : Word) : Word :=
  let (pos, w) := fieldOf b
  let f := a.toNat / 2 ^ pos % 2 ^ w
  if w = 0 then 0 else if u then BitVec.ofNat 64 f else signExt w f

/-- BFI (R92). -/
def bfiWord (a b c : Word) : Word :=
  let (pos, w) := fieldOf b
  let mask : Word := BitVec.ofNat 64 ((2 ^ w - 1) * 2 ^ pos)
  (c &&& ~~~mask) ||| ((a <<< pos) &&& mask)

def extWidth : ExtW → Nat
  | .w8 => 8 | .w16 => 16 | .w32 => 32

/-- EXT (R90). -/
def extWord (u : Bool) (w : ExtW) (a : Word) : Word :=
  let n := extWidth w
  if u then BitVec.ofNat 64 (a.toNat % 2 ^ n) else signExt n a.toNat

/-- LIH (R94). -/
def lihWord (hi : Bool) (imm : BitVec 24) (a : Word) : Word :=
  let s := if hi then 40 else 32
  let mask : Word := BitVec.ofNat 64 ((2 ^ 24 - 1) * 2 ^ s)
  (a &&& ~~~mask) ||| (imm.setWidth 64 <<< s)

/-- The condition of a CMPI code other than .bound (R95). -/
def cmpiCond : CmpiCond → Cond
  | .eq => .eq | .ne => .ne | .lt => .lt | .ge => .ge | .ltu => .ltu | .geu => .geu | .bound => .ltu

/-- A test in its plain or its bound form: the value passes through, or BOUND with TINFO a (R93, R95). -/
def compare_ (bound : Bool) (cc : Cond) (a b : Word) : Except Stop Word :=
  if !bound then .ok (boolWord (condTest cc a b))
  else if condTest cc a b then .ok a else .error (.trap .bound a)

end Sys2Proof.Machine
end

