-- ==== Sys2Proof/Machine/Control.lean ====
section
/-! DEFINITION. The C cluster's integer instructions, branches, scalar memory access and the system instructions that need
no engine (R85 to R110, R29). -/

namespace Sys2Proof.Machine

open Sys2Proof

/-- The outcome type of every meaning. -/
abbrev Out := Host.Outcome State Fault Refusal

/-- NOP (R88). -/
def execNop (s : State) : Out := issue .c (fun _ c => .ok (.plain c [])) s

/-- A C instruction of two operands whose result is a function of them (R90). -/
def aluC2 (d : CDst) (a b : CSrc) (n : Nat) (f : Word → Word → Word) (s : State) : Out :=
  issue .c (opC2 d a b n fun x y => .ok (f x y)) s

/-- A C instruction of one operand whose result is a function of it (R90, R94). -/
def aluC1 (d : CDst) (a : CSrc) (n : Nat) (f : Word → Word) (s : State) : Out :=
  issue .c (opC1 d a n fun x => .ok (f x)) s

/-- A C instruction of three operands whose result is a function of them (R90). -/
def aluC3 (d : CDst) (a b c : CSrc) (n : Nat) (f : Word → Word → Word → Word) (s : State) : Out :=
  issue .c (opC3 d a b c n fun x y z => .ok (f x y z)) s

/-- ADD (R90): a + b. -/
def execAdd (d : CDst) (a b : CSrc) (s : State) : Out := aluC2 d a b 1 (fun x y => x + y) s

/-- SUB (R90): a − b. -/
def execSub (d : CDst) (a b : CSrc) (s : State) : Out := aluC2 d a b 1 (fun x y => x - y) s

/-- MUL (R90): the low 64 bits of a × b. -/
def execMul (d : CDst) (a b : CSrc) (s : State) : Out := aluC2 d a b 3 (fun x y => x * y) s

/-- MULH (R90): bits [127:64] of the product. -/
def execMulh (d : CDst) (u : Bool) (a b : CSrc) (s : State) : Out := aluC2 d a b 3 (mulHigh u) s

/-- DIV (R90): the quotient toward zero (R91). -/
def execDiv (d : CDst) (u : Bool) (a b : CSrc) (s : State) : Out := aluC2 d a b 12 (divWord u) s

/-- REM (R90): the remainder (R91). -/
def execRem (d : CDst) (u : Bool) (a b : CSrc) (s : State) : Out := aluC2 d a b 12 (remWord u) s

/-- AND (R90): a AND b. -/
def execAnd (d : CDst) (a b : CSrc) (s : State) : Out := aluC2 d a b 1 (fun x y => x &&& y) s

/-- OR (R90): a OR b. -/
def execOr (d : CDst) (a b : CSrc) (s : State) : Out := aluC2 d a b 1 (fun x y => x ||| y) s

/-- XOR (R90): a XOR b. -/
def execXor (d : CDst) (a b : CSrc) (s : State) : Out := aluC2 d a b 1 (fun x y => x ^^^ y) s

/-- ANDN (R90): a AND NOT b. -/
def execAndn (d : CDst) (a b : CSrc) (s : State) : Out := aluC2 d a b 1 (fun x y => x &&& ~~~y) s

/-- SHL (R90): a shifted left by b[5:0]. -/
def execShl (d : CDst) (a b : CSrc) (s : State) : Out := aluC2 d a b 1 (fun x y => x <<< shamt y) s

/-- SHR (R90): a shifted right by b[5:0], filling with 0. -/
def execShr (d : CDst) (a b : CSrc) (s : State) : Out := aluC2 d a b 1 (fun x y => x >>> shamt y) s

/-- SAR (R90): a shifted right by b[5:0], filling with a[63]. -/
def execSar (d : CDst) (a b : CSrc) (s : State) : Out := aluC2 d a b 1 (fun x y => x.sshiftRight (shamt y)) s

/-- ROL (R90): a rotated left by b[5:0]. -/
def execRol (d : CDst) (a b : CSrc) (s : State) : Out := aluC2 d a b 1 (fun x y => x.rotateLeft (shamt y)) s

/-- MIN (R90): the smaller. -/
def execMin (d : CDst) (u : Bool) (a b : CSrc) (s : State) : Out := aluC2 d a b 1 (minWord u) s

/-- MAX (R90): the larger. -/
def execMax (d : CDst) (u : Bool) (a b : CSrc) (s : State) : Out := aluC2 d a b 1 (maxWord u) s

/-- CMP (R93). -/
def execCmp (d : CDst) (bound : Bool) (cc : Cond) (a b : CSrc) (s : State) : Out := issue .c (opC2 d a b 1 (compare_ bound cc)) s

/-- CLZ (R90): the number of leading 0 bits. -/
def execClz (d : CDst) (a : CSrc) (s : State) : Out := aluC1 d a 1 (fun x => BitVec.ofNat 64 (leadingZeros 64 x.toNat)) s

/-- CTZ (R90): the number of trailing 0 bits. -/
def execCtz (d : CDst) (a : CSrc) (s : State) : Out := aluC1 d a 1 (fun x => BitVec.ofNat 64 (trailingZeros 64 x.toNat)) s

/-- POPC (R90): the number of 1 bits. -/
def execPopc (d : CDst) (a : CSrc) (s : State) : Out := aluC1 d a 1 (fun x => BitVec.ofNat 64 (popCount 64 x.toNat)) s

/-- BREV (R90): bit i is a[63 − i]. -/
def execBrev (d : CDst) (a : CSrc) (s : State) : Out := aluC1 d a 1 (fun x => BitVec.ofNat 64 (bitReverse 64 x.toNat)) s

/-- BFX (R92). -/
def execBfx (d : CDst) (u : Bool) (a b : CSrc) (s : State) : Out := aluC2 d a b 1 (bfxWord u) s

/-- BFI (R92). -/
def execBfi (d : CDst) (a b c : CSrc) (s : State) : Out := aluC3 d a b c 1 bfiWord s

/-- EXT (R90). -/
def execExt (d : CDst) (w : ExtW) (u : Bool) (a : CSrc) (s : State) : Out := aluC1 d a 1 (extWord u w) s

/-- MOVE (R90): a. -/
def execMove (d : CDst) (a : CSrc) (s : State) : Out := aluC1 d a 1 (fun x => x) s

/-- SEL (R90): a if c ≠ 0, else b. -/
def execSel (d : CDst) (a b c : CSrc) (s : State) : Out := aluC3 d a b c 1 (fun x y z => if z = 0 then y else x) s

/-- MADD (R90): the low 64 bits of a × b + c. -/
def execMadd (d : CDst) (a b c : CSrc) (s : State) : Out := aluC3 d a b c 3 (fun x y z => x * y + z) s

/-- ADDI (R94): a + imm. -/
def execAddi (d : CDst) (a : CSrc) (imm : BitVec 24) (s : State) : Out := aluC1 d a 1 (fun x => x + imm.signExtend 64) s

/-- ANDI (R94): a AND imm. -/
def execAndi (d : CDst) (a : CSrc) (imm : BitVec 24) (s : State) : Out := aluC1 d a 1 (fun x => x &&& imm.signExtend 64) s

/-- ORI (R94): a OR imm. -/
def execOri (d : CDst) (a : CSrc) (imm : BitVec 24) (s : State) : Out := aluC1 d a 1 (fun x => x ||| imm.signExtend 64) s

/-- XORI (R94): a XOR imm. -/
def execXori (d : CDst) (a : CSrc) (imm : BitVec 24) (s : State) : Out := aluC1 d a 1 (fun x => x ^^^ imm.signExtend 64) s

/-- SHLI (R94): a shifted left by imm. -/
def execShli (d : CDst) (a : CSrc) (imm : BitVec 24) (s : State) : Out := aluC1 d a 1 (fun x => x <<< imm.toNat) s

/-- SHRI (R94): a shifted right by imm, filling with 0. -/
def execShri (d : CDst) (a : CSrc) (imm : BitVec 24) (s : State) : Out := aluC1 d a 1 (fun x => x >>> imm.toNat) s

/-- SARI (R94): a shifted right by imm, filling with a[63]. -/
def execSari (d : CDst) (a : CSrc) (imm : BitVec 24) (s : State) : Out := aluC1 d a 1 (fun x => x.sshiftRight imm.toNat) s

/-- MULI (R94): the low 64 bits of a × imm. -/
def execMuli (d : CDst) (a : CSrc) (imm : BitVec 24) (s : State) : Out := aluC1 d a 3 (fun x => x * imm.signExtend 64) s

/-- CMPI (R95). -/
def execCmpi (d : CDst) (cc : CmpiCond) (a : CSrc) (imm : BitVec 24) (s : State) : Out :=
  issue .c (opC1 d a 1 fun x => compare_ (cc == .bound) (cmpiCond cc) x (imm.signExtend 64)) s

/-- LI (R96). -/
def execLi (d : CDst) (imm : BitVec 33) (s : State) : Out :=
  issue .c (fun s c => do
    legal (c.dstOk d)
    resultC s c d 1 (imm.signExtend 64)) s

/-- LIH (R94). -/
def execLih (d : CDst) (hi : Bool) (a : CSrc) (imm : BitVec 24) (s : State) : Out := aluC1 d a 1 (lihWord hi imm) s

/-! ### Branches and loops (R100 to R103) -/

/-- The line that the item of a cluster stands in. -/
def Core.lineOf (c : Core) (cl : Cluster) : Nat := (c.stream cl).line

/-- A taken transfer of C: in a joined line its target is the C line of a joined group (R123 reason 6, R125). -/
def jumpC (s : State) (c : Core) (line parcel : Nat) : Except Stop Flow :=
  if c.inJoined && !c.inHandler then
    if s.groupLine s.cur c line then .ok (.jump line parcel) else .error (.trap .joinForm (joinInfo 6 0 (c.lineOf .c / 4)))
  else .ok (.jump line parcel)

/-- A transfer of C that is taken under a condition. -/
def branchC (s : State) (c : Core) (taken : Bool) (line parcel : Nat) (reqs : List Req) : Except Stop IssueOut := do
  if taken then
    let f ← jumpC s c line parcel
    return ⟨c, reqs, f, none, [], []⟩
  else return .plain c reqs

/-- BR (R101). -/
def execBr (cc : Cond) (a b : CSrc) (t : Target) (s : State) : Out :=
  issue .c (fun s c => do
    let (x, y, c) ← readC2 s c a b
    branchC s c (condTest cc x y) (targetLine (c.lineOf .c) t) t.parcel.toNat []) s

/-- BRI (R101). -/
def execBri (cc : Cond) (a : CSrc) (imm : BitVec 6) (t : Target) (s : State) : Out :=
  issue .c (fun s c => do
    let (x, c) ← readC1 s c a
    branchC s c (condTest cc x (imm.signExtend 64)) (targetLine (c.lineOf .c) t) t.parcel.toNat []) s

/-- CALL (R102): the position of the item after it goes to h0 at I + 1. -/
def execCall (t : Target) (s : State) : Out :=
  issue .c (fun s c =>
    let st := c.stream .c
    match s.after s.cur st.line st.parcel with
    | none => .error .illegal
    | some (l, p) => branchC s c true (targetLine st.line t) t.parcel.toNat [pushH0 1 (BitVec.ofNat 64 (32 * l + p))]) s

/-- RET (R102). -/
def execRet (a : CSrc) (s : State) : Out :=
  issue .c (fun s c => do
    let (x, c) ← readC1 s c a
    legal (decide (2 ≤ x.toNat % 32))
    branchC s c true (x.toNat / 32) (x.toNat % 32) []) s

/-- JMPI (R101): a line value outside the image is PROTECTION when the line is entered. -/
def execJmpi (a : CSrc) (p : BitVec 5) (s : State) : Out :=
  issue .c (fun s c => do
    let (x, c) ← readC1 s c a
    branchC s c true x.toNat p.toNat []) s

/-- JTAB (R101). -/
def execJtab (a b : CSrc) (t : Target) (s : State) : Out :=
  issue .c (fun s c => do
    let (x, y, c) ← readC2 s c a b
    let n := (c.lineOf .c : Int) + t.line.toInt + x.toNat
    branchC s c (x.ult y) (if n < 0 then 2 ^ 26 else n.toNat) t.parcel.toNat []) s

/-- A loop counter's write at I + 1 (R85). -/
def loopReq (cl : Cluster) (k : Fin 4) (v : BitVec 32) : Req := ⟨1, none, true, .resultLanding, .landing (.loop cl k v)⟩

/-- BDEC (R103). -/
def execBdec (k : Fin 4) (t : Target) (s : State) : Out :=
  issue .c (fun s c =>
    let n := c.ctx.c.k[k] - 1
    branchC s c (n != 0) (targetLine (c.lineOf .c) t) t.parcel.toNat [loopReq .c k n]) s

/-- LOOPSET (R103): a zero count skips to the exit label. -/
def execLoopset (k : Fin 4) (b : CSrc) (t : Target) (s : State) : Out :=
  issue .c (fun s c => do
    let (x, c) ← readC1 s c b
    let n : BitVec 32 := x.setWidth 32
    branchC s c (n == 0) (targetLine (c.lineOf .c) t) t.parcel.toNat [loopReq .c k n]) s

/-! ### Scalar memory access (R104) -/

def sizeBytes : Size → Nat
  | .b1 => 1 | .b2 => 2 | .b4 => 4 | .b8 => 8

/-- LD and LDS: the data lands when the access performs (R85, R104). -/
def loadC (d : CDst) (sz : Size) (cl : Cls) (off : BitVec 17) (base : CSrc) (signed : Bool) (s : State) (c : Core) :
    Except Stop IssueOut := do
  legal (c.dstOk d && c.srcOk base)
  let (b, c) ← readC s c base
  let c ← c.reserveC s.seq d
  let va := b + off.signExtend 64
  let z := sizeBytes sz
  let (pa, c) ← checkElem s s.cur c cl .r va z z 0 false
  let a : Access := ⟨.ldC (match d with | .s r => some r | _ => none) ((dstChan d).map fun ch => (ch.val, s.seq)) signed,
    [⟨va, z, 0, pa⟩], c.posOf .c, none⟩
  return .plain c (s.accessReqs s.cur c a (s.latency s.cur cl a.pas))

/-- LD (R104). -/
def execLd (d : CDst) (sz : Size) (cl : Cls) (off : BitVec 17) (base : CSrc) (s : State) : Out :=
  issue .c (loadC d sz cl off base false) s

/-- LDS (R104). -/
def execLds (d : CDst) (sz : Size) (cl : Cls) (off : BitVec 17) (base : CSrc) (s : State) : Out :=
  issue .c (loadC d sz cl off base true) s

/-- ST (R104). -/
def execSt (sz : Size) (cl : Cls) (data : CSrc) (off : BitVec 17) (base : CSrc) (s : State) : Out :=
  issue .c (fun s c => do
    let (b, x, c) ← readC2 s c base data
    let va := b + off.signExtend 64
    let z := sizeBytes sz
    let (pa, c) ← checkElem s s.cur c cl .w va z z 0 false
    let a : Access := ⟨.st (leBytes x.toNat z), [⟨va, z, 0, pa⟩], c.posOf .c, none⟩
    return .plain c (s.accessReqs s.cur c a (s.latency s.cur cl a.pas))) s

/-! ### System operations (R106 to R110, R29) -/

/-- TRAP (R108): the stop comes in the next cycle, before any item of it. -/
def execTrap (a : CSrc) (code : BitVec 15) (s : State) : Out :=
  issue .c (fun s c => do
    let (x, c) ← readC1 s c a
    return ⟨c, [], .checked 3 (code.toNat + x.toNat % 2 ^ 32 * 2 ^ 32), none, [], []⟩) s

/-- BREAK (R108). -/
def execBrk (code : BitVec 15) (s : State) : Out :=
  issue .c (fun _ c => .ok ⟨c, [], .checked 4 code.toNat, none, [], []⟩) s

/-- TINFO of STAMP_LATE (R27): stamp, timing mode and lateness. -/
def lateInfo (t tm late : Nat) : Word := BitVec.ofNat 64 (t + tm * 2 ^ 15 + min late (2 ^ 32 - 1) * 2 ^ 32)

/-- WAITF (R109). -/
def execWaitf (a : CSrc) (s : State) : Out :=
  issue .c (fun s c => do
    legal (!c.inHandler && c.isLocked)
    let (x, c) ← readC1 s c a
    let w := x.toNat % 2 ^ 48 * 32768
    if w ≤ s.framecnt s.cur then .error (.trap .stampLate (lateInfo 0 1 (s.framecnt s.cur - w)))
    else .ok ⟨c, [], .wait (.waitf w), none, [], []⟩) s

/-- SLEEPU (R109); the checks of R241 come when the next item reaches issue. -/
def execSleepu (a : CSrc) (s : State) : Out :=
  issue .c (fun s c => do
    legal (!c.inHandler)
    let (x, c) ← readC1 s c a
    let v := x.toNat % 2 ^ 63
    if s.framecnt s.cur < v then .ok ⟨c, [], .wait (.sleepu v), none, [], []⟩
    else .ok ⟨c, [], .checked 1 v, none, [], []⟩) s

/-- HALT (R29). Where a cluster waits at a rendezvous it fails, naming the one that has waited longest and, in TRAPLINE, the HALT
(R126; log entry 79). -/
def execHalt (a : CSrc) (s : State) : Out :=
  issue .c (fun s c => do
    legal (!c.inHandler)
    let (x, c) ← readC1 s c a
    match c.longestWait with
    | some (_, k, g, _) => .error (.trap .joinForm (joinInfo 4 k g))
    | none => .ok ⟨c, [], .halt x, none, [], []⟩) s

/-- The completion offset of a fence (R110). -/
def fenceDelay (s : State) : Scope → Nat
  | .core => 1 | .die => 160 | .module => 640 | .domain => s.flat

/-- FSC (R110, R228). -/
def execFsc (sc : Scope) (s : State) : Out :=
  issue .c (fun s c =>
    let d := fenceDelay s sc
    .ok ⟨c, [⟨d, none, true, .fenceComplete, .scope sc⟩], .next d, none, [], []⟩) s

end Sys2Proof.Machine
end

