-- ==== Sys2Proof/Machine/Numbers.lean ====
section
/-! DEFINITION. Number formats and arithmetic (R66 to R84): exact values, rounding, conversions, the exponential, the rotary
functions, sum blocks, compensated sums and the softmax combine. -/

namespace Sys2Proof.Machine

open Sys2Proof

/-- An exact value: NaN, an infinity, or ±m × 2^e. A zero keeps its sign. -/
inductive FVal where
  | nan
  | inf (neg : Bool)
  | fin (neg : Bool) (m : Nat) (e : Int)
  deriving DecidableEq, Repr

/-- A floating-point format (R66): width, significand bits, bias, the largest finite magnitude field, infinities, the
canonical NaN (E2M1 has none: R71 gives +0). -/
structure FFmt where
  w : Nat
  mb : Nat
  bias : Int
  maxf : Nat
  hasInf : Bool
  nan : Nat
  deriving DecidableEq, Repr

def fF32 : FFmt := ⟨32, 23, 127, 0x7F7FFFFF, true, 0x7FC00000⟩
def fBF16 : FFmt := ⟨16, 7, 127, 0x7F7F, true, 0x7FC0⟩
def fF16 : FFmt := ⟨16, 10, 15, 0x7BFF, true, 0x7E00⟩
def fE4M3 : FFmt := ⟨8, 3, 7, 0x7E, false, 0x7F⟩
def fE5M2 : FFmt := ⟨8, 2, 15, 0x7B, true, 0x7E⟩
def fE2M1 : FFmt := ⟨4, 1, 1, 0x7, false, 0x0⟩

/-- The parameters of a floating-point format code. -/
def ffmt : Fmt → FFmt
  | .bf16 => fBF16 | .f16 => fF16 | .e4m3 => fE4M3 | .e5m2 => fE5M2 | .e2m1 => fE2M1 | _ => fF32

/-- The exact value of bits (R66). -/
def FFmt.decode (f : FFmt) (b : Nat) : FVal :=
  let neg := b / 2 ^ (f.w - 1) % 2 == 1
  let mag := b % 2 ^ (f.w - 1)
  let ex := mag / 2 ^ f.mb
  let fr := mag % 2 ^ f.mb
  if f.maxf < mag then (if f.hasInf && mag == f.maxf + 1 then .inf neg else .nan)
  else if ex = 0 then .fin neg fr (1 - f.bias - f.mb)
  else .fin neg (2 ^ f.mb + fr) ((ex : Int) - f.bias - f.mb)

/-- The sign bit in place. -/
def FFmt.signed (f : FFmt) (neg : Bool) (mag : Nat) : Nat := if neg then 2 ^ (f.w - 1) + mag else mag

/-- Overflow by rounding mode (R70). -/
def FFmt.overflow (f : FFmt) (rm : Rm) (neg : Bool) : Nat :=
  let toInf := match rm with
    | .rne | .rna => true
    | .rtz => false
    | .rdn => neg
    | .rup => !neg
  f.signed neg (if f.hasInf && toInf then f.maxf + 1 else f.maxf)

/-- Whether a magnitude with integer part sig and the fraction rem / 2^d goes up (R69). -/
def roundsUp (rm : Rm) (neg : Bool) (sig rem d : Nat) : Bool :=
  if rem = 0 then false
  else match rm with
    | .rtz => false
    | .rdn => neg
    | .rup => !neg
    | .rne => decide (2 ^ d < 2 * rem) || (decide (2 ^ d = 2 * rem) && sig % 2 == 1)
    | .rna => decide (2 ^ d ≤ 2 * rem)

/-- Encode (R70, R75): the bits of the rounded value, with the special results of R68. -/
def FFmt.encode (f : FFmt) (rm : Rm) : FVal → Nat
  | .nan => f.nan
  | .inf neg => f.signed neg (if f.hasInf then f.maxf + 1 else f.maxf)
  | .fin neg m e =>
    if m = 0 then f.signed neg 0
    else
      let top := (Nat.log2 m : Int) + e
      let low := 1 - f.bias
      let ex := if top < low then low else top
      let q := ex - f.mb
      let base := (ex - low).toNat * 2 ^ f.mb
      let mag :=
        if q ≤ e then base + m * 2 ^ (e - q).toNat
        else
          let d := (q - e).toNat
          let sig := m / 2 ^ d
          base + (if roundsUp rm neg sig (m % 2 ^ d) d then sig + 1 else sig)
      if f.maxf < mag then f.overflow rm neg else f.signed neg mag

/-! ### Exact operations -/

def FVal.isNan : FVal → Bool
  | .nan => true | _ => false

def FVal.isZero : FVal → Bool
  | .fin _ m _ => m == 0 | _ => false

def FVal.neg : FVal → FVal
  | .nan => .nan | .inf s => .inf (!s) | .fin s m e => .fin (!s) m e

/-- The signed integer that a finite value is, in units of 2^u with u at most its exponent. -/
def scaled (neg : Bool) (m : Nat) (e u : Int) : Int :=
  let v : Int := (m * 2 ^ (e - u).toNat : Nat)
  if neg then -v else v

def ofScaled (v u : Int) : FVal := .fin (decide (v < 0)) v.natAbs u

/-- The exact sum; an exact zero of opposite signs is +0, or −0 in RDN (R68). -/
def FVal.add (rm : Rm) : FVal → FVal → FVal
  | .nan, _ => .nan
  | _, .nan => .nan
  | .inf a, .inf b => if a = b then .inf a else .nan
  | .inf a, .fin .. => .inf a
  | .fin .., .inf b => .inf b
  | .fin a m e, .fin b n g =>
    if m = 0 ∧ n = 0 then .fin (if a = b then a else rm == .rdn) 0 0
    else
      let u := if e < g then e else g
      let v := scaled a m e u + scaled b n g u
      if v = 0 then .fin (rm == .rdn) 0 0 else ofScaled v u

/-- The exact product. -/
def FVal.mul : FVal → FVal → FVal
  | .nan, _ => .nan
  | _, .nan => .nan
  | .inf a, .inf b => .inf (a != b)
  | .inf a, .fin b n _ => if n = 0 then .nan else .inf (a != b)
  | .fin a m _, .inf b => if m = 0 then .nan else .inf (a != b)
  | .fin a m e, .fin b n g => .fin (a != b) (m * n) (e + g)

/-- The quotient, exact enough for every rounding: 64 bits and a sticky bit (R97). -/
def FVal.div : FVal → FVal → FVal
  | .nan, _ => .nan
  | _, .nan => .nan
  | .inf _, .inf _ => .nan
  | .inf a, .fin b _ _ => .inf (a != b)
  | .fin a _ _, .inf b => .fin (a != b) 0 0
  | .fin a m e, .fin b n g =>
    if n = 0 then (if m = 0 then .nan else .inf (a != b))
    else if m = 0 then .fin (a != b) 0 0
    else
      let k := 64 + Nat.log2 n
      let num := m * 2 ^ k
      .fin (a != b) (2 * (num / n) + (if num % n = 0 then 0 else 1)) (e - g - k - 1)

/-- The integer square root, by n binary digits. -/
def isqrtGo (v : Nat) : Nat → Nat → Nat
  | 0, r => r
  | n + 1, r => let t := r + 2 ^ n; isqrtGo v n (if t * t ≤ v then t else r)

def isqrt (v : Nat) : Nat := isqrtGo v (Nat.log2 v / 2 + 1) 0

/-- The square root, exact enough for every rounding (R97). -/
def FVal.sqrt : FVal → FVal
  | .nan => .nan
  | .inf neg => if neg then .nan else .inf false
  | .fin neg m e =>
    if m = 0 then .fin neg 0 0
    else if neg then .nan
    else
      let (m, e) := if e % 2 = 0 then (m, e) else (2 * m, e - 1)
      let v := m * 2 ^ 128
      let r := isqrt v
      .fin false (2 * r + (if r * r = v then 0 else 1)) (e / 2 - 65)

/-- 1 ÷ √x with one rounding (R131); the zeros and the infinity as the exact function's limits. -/
def FVal.rsqrt : FVal → FVal
  | .nan => .nan
  | .inf neg => if neg then .nan else .fin false 0 0
  | .fin neg m e =>
    if m = 0 then .inf neg
    else if neg then .nan
    else
      let (m, e) := if e % 2 = 0 then (m, e) else (2 * m, e - 1)
      let k := 64 + Nat.log2 m
      let v := 2 ^ (2 * k) / m
      let r := isqrt v
      .fin false (2 * r + (if r * r * m = 2 ^ (2 * k) then 0 else 1)) (-(e / 2) - k - 1)

/-- The order of two values that are not NaN, −0 equal to +0. -/
def FVal.cmp : FVal → FVal → Ordering
  | .inf a, .inf b => if a = b then .eq else if a then .lt else .gt
  | .inf a, _ => if a then .lt else .gt
  | _, .inf b => if b then .gt else .lt
  | .fin a m e, .fin b n g =>
    let u := if e < g then e else g
    compare (scaled a m e u) (scaled b n g u)
  | _, _ => .eq

def FVal.negative : FVal → Bool
  | .nan => false | .inf s => s | .fin s _ _ => s

/-- a orders below b, −0 below +0 (R75). -/
def FVal.below (a b : FVal) : Bool :=
  match a.cmp b with
  | .lt => true
  | .gt => false
  | .eq => a.isZero && b.isZero && a.negative && !b.negative

/-- Max and Min (R75). -/
def FVal.max (a b : FVal) : FVal := if a.isNan || b.isNan then .nan else if a.below b then b else a
def FVal.min (a b : FVal) : FVal := if a.isNan || b.isNan then .nan else if b.below a then b else a

/-- A finite value rounded to an integer by a mode (R71). -/
def roundInt (rm : Rm) (neg : Bool) (m : Nat) (e : Int) : Int :=
  let mag : Nat :=
    if 0 ≤ e then m * 2 ^ e.toNat
    else
      let d := (-e).toNat
      let sig := m / 2 ^ d
      if roundsUp rm neg sig (m % 2 ^ d) d then sig + 1 else sig
  if neg then -(mag : Int) else mag

def clampInt (lo hi x : Int) : Int := if x < lo then lo else if hi < x then hi else x

/-- A floating-point value to an integer range (R71). -/
def FVal.toRange (rm : Rm) (lo hi : Int) : FVal → Int
  | .nan => 0
  | .inf neg => if neg then lo else hi
  | .fin neg m e => clampInt lo hi (roundInt rm neg m e)

def FVal.ofInt (x : Int) : FVal := .fin (decide (x < 0)) x.natAbs 0

/-! ### Integer formats -/

def Fmt.isSigned : Fmt → Bool
  | .i32 | .i16 | .i8 | .i4 => true | _ => false

def Fmt.lo (f : Fmt) : Int := if Fmt.isSigned f then -(2 ^ (f.width - 1) : Nat) else 0
def Fmt.hi (f : Fmt) : Int := if Fmt.isSigned f then (2 ^ (f.width - 1) : Nat) - 1 else (2 ^ f.width : Nat) - 1

/-- The integer that a w-bit two's-complement number is. -/
def toSigned (w v : Nat) : Int := if v % 2 ^ w < 2 ^ (w - 1) then (v % 2 ^ w : Nat) else (v % 2 ^ w : Nat) - (2 ^ w : Nat)

/-- The integer of an element's bits. -/
def intVal (f : Fmt) (b : Nat) : Int := if Fmt.isSigned f then toSigned f.width b else (b % 2 ^ f.width : Nat)

/-- Wrap(x, w) as bits (R75). -/
def wrapBits (w : Nat) (x : Int) : Nat := (x % (2 ^ w : Nat)).toNat

/-- Clamp(x, fmt) as bits (R75). -/
def clampBits (f : Fmt) (x : Int) : Nat := wrapBits f.width (clampInt (Fmt.lo f) (Fmt.hi f) x)

/-- Convert(bits, A, B, rm) (R71). -/
def convert (a b : Fmt) (rm : Rm) (x : Nat) : Nat :=
  if a.isFp then
    let v := (ffmt a).decode x
    if b.isFp then (ffmt b).encode rm v else wrapBits b.width (v.toRange rm (Fmt.lo b) (Fmt.hi b))
  else
    let v := intVal a x
    if b.isFp then (ffmt b).encode rm (.ofInt v) else clampBits b v

/-! ### F32 arithmetic on bits, RoundNE unless said -/

abbrev F32 := BitVec 32

def f32val (x : F32) : FVal := fF32.decode x.toNat
def f32of (rm : Rm) (v : FVal) : F32 := BitVec.ofNat 32 (fF32.encode rm v)
def f32ne (v : FVal) : F32 := f32of .rne v
def fadd (a b : F32) : F32 := f32ne ((f32val a).add .rne (f32val b))
def fsub (a b : F32) : F32 := f32ne ((f32val a).add .rne (f32val b).neg)
def fmul (a b : F32) : F32 := f32ne ((f32val a).mul (f32val b))
def fdiv (a b : F32) : F32 := f32ne ((f32val a).div (f32val b))
def fmax (a b : F32) : F32 := f32ne ((f32val a).max (f32val b))

/-- F32 values are equal: neither is a NaN, and −0 = +0 (R84, R139). -/
def feq (a b : F32) : Bool := !(f32val a).isNan && !(f32val b).isNan && (f32val a).cmp (f32val b) == .eq
def fmin (a b : F32) : F32 := f32ne ((f32val a).min (f32val b))
def fOne : F32 := 0x3F800000
def fNegInf : F32 := 0xFF800000
def fPosInf : F32 := 0x7F800000
def fNan : F32 := 0x7FC00000
def fNegZero : F32 := 0x80000000

/-! ### The exponential (R76) -/

/-- ⌊m × 2^e⌋ with its sign. -/
def floorVal (neg : Bool) (m : Nat) (e : Int) : Int := roundInt .rdn neg m e

/-- ScaleB (R75). -/
def scaleB (v : F32) (e : Int) : F32 :=
  f32ne (match f32val v with | .fin s m g => .fin s m (g + e) | x => x)

/-- Exp2 (R76). -/
def exp2 (x : F32) : F32 :=
  match f32val x with
  | .nan => fNan
  | .inf neg => if neg then 0 else fPosInf
  | .fin neg m g =>
    if (FVal.fin neg m g).cmp (.ofInt 128) != .lt then fPosInf
    else if (FVal.fin neg m g).cmp (.ofInt (-160)) == .lt then 0
    else
      let n := floorVal neg m (g + 6)
      let f := match (FVal.fin neg m (g + 6)).add .rne (.ofInt (-n)) with
        | .fin s k h => FVal.fin s k (h - 6)
        | v => v
      let j := (n % 64).toNat
      let e := (n - j) / 64
      let t := f32ne ((f32val 0x3D635847).mul f)
      let t := fadd t 0x3E75FDF0
      let t := f32ne ((f32val t).mul f)
      let t := fadd t 0x3F317218
      let t := f32ne ((f32val t).mul f)
      let tb : F32 := BitVec.ofNat 32 (exp2Tab.getD j 0)
      scaleB (fadd tb (fmul tb t)) e

/-! ### Rotary (R77 to R79) -/

/-- PhaseOf (R77). -/
def phaseOf (pos ω : Nat) : Nat := pos * ω % 2 ^ 64

def sineEntry (k : Nat) : F32 := BitVec.ofNat 32 (sineQ k)

/-- Interp (R78). -/
def interp (g : Nat) : F32 :=
  if 2 ^ 62 ≤ g then sineEntry 1024
  else
    let k := g / 2 ^ 52
    let fr := f32ne (.fin false (g % 2 ^ 52) (-52))
    fadd (sineEntry k) (fmul (fsub (sineEntry (k + 1)) (sineEntry k)) fr)

def fnegate (x : F32) : F32 := x ^^^ fNegZero

/-- CosSin: (cos, sin) (R78). -/
def cosSin (φ : Nat) : F32 × F32 :=
  let g := φ % 2 ^ 62
  let s := interp g
  let c := interp (2 ^ 62 - g)
  match φ / 2 ^ 62 % 4 with
  | 0 => (c, s)
  | 1 => (fnegate s, c)
  | 2 => (fnegate c, fnegate s)
  | _ => (s, fnegate c)

/-- Rotate (R79). -/
def rotate (x y : F32) (cs : F32 × F32) : F32 × F32 :=
  (fsub (fmul x cs.1) (fmul y cs.2), fadd (fmul x cs.2) (fmul y cs.1))

/-- The rotation of a pair at a position (R271). -/
def rotPair (x y : F32) (pos ω : Nat) : F32 × F32 := rotate x y (cosSin (phaseOf pos ω))

/-! ### Scales and codebook weights (R73, R74) -/

/-- The F32 of an S24 (R73). -/
def s24 (v : Nat) : F32 := BitVec.ofNat 32 (v % 2 ^ 24 * 256)

/-- CbWeight: weight i of a word with its table entry, exact (R74). -/
def cbWeight (word entry i : Nat) : FVal :=
  let m := entry / 2 ^ (4 * i) % 16
  let sg := if i = 7 then (List.range 7).foldl (fun a k => a + word / 2 ^ (k + 1)) 0 % 2 else word / 2 ^ (1 + i) % 2
  let mag := 2 * m + word % 2
  .fin (mag != 0 && sg == 1) mag (-2)

/-! ### Sum blocks (R80, R81) -/

/-- ⌊log2 |p|⌋ of a nonzero finite value. -/
def topBit (m : Nat) (e : Int) : Int := (Nat.log2 m : Int) + e

/-- The sum of products inside the window of 64 bits below the largest (R80). -/
def windowSum (ps : List FVal) (u : Int) : Int :=
  ps.foldl (fun acc p => match p with
    | .fin neg m e => acc + (let k : Nat := if u ≤ e then m * 2 ^ (e - u).toNat else m / 2 ^ (u - e).toNat
                             if neg then -(k : Int) else (k : Int))
    | _ => acc) 0

/-- The window's exponent: the greatest ⌊log2⌋ of a nonzero product. -/
def windowTop (ps : List FVal) : Option Int :=
  ps.foldl (fun acc p => match p with
    | .fin _ m e => if m = 0 then acc else match acc with
      | none => some (topBit m e)
      | some t => some (if t < topBit m e then topBit m e else t)
    | _ => acc) none

def FVal.isInf : FVal → Bool
  | .inf _ => true | _ => false

/-- SumBlock(p, sa, sb) (R80). A product inf × 0 is already NaN. -/
def sumBlock (ps : List FVal) (sa sb : FVal) : F32 :=
  if ps.any FVal.isNan || sa.isNan || sb.isNan || (ps.contains (.inf true) && ps.contains (.inf false)) then fNan
  else
    match ps.find? FVal.isInf with
    | some p => f32ne ((p.mul sa).mul sb)
    | none =>
      match windowTop ps with
      | none => 0
      | some top =>
        let u := top - 63
        let p := windowSum ps u
        if p = 0 ∧ !sa.isInf ∧ !sb.isInf then 0
        else f32ne (((ofScaled p u).mul sa).mul sb)

/-! ### Compensated sums (R82) -/

def twoSum (a b : F32) : F32 × F32 :=
  let s := fadd a b
  let bb := fsub s a
  (s, fadd (fsub a (fsub s bb)) (fsub b bb))

/-- CAcc(hi, lo, P) with P exact (R82). -/
def cacc (hi lo : F32) (p : FVal) : F32 × F32 :=
  if p.isNan || p.isInf || (f32val hi).isInf then
    let h := f32ne ((f32val hi).add .rne p)
    (h, if (f32val h).isNan then fNan else 0)
  else
    let p1 := f32ne p
    let p2 := f32ne (p.add .rne (f32val p1).neg)
    let (s, e) := twoSum hi p1
    let t := fadd lo (fadd e p2)
    let (h, l) := twoSum s t
    (h, if (f32val h).isInf then 0 else l)

/-- The exact products of a complex multiplication (R82). -/
def cprod (ar ai br bi : F32) : FVal × FVal :=
  let v := f32val
  (((v ar).mul (v br)).add .rne ((v ai).mul (v bi)).neg, ((v ar).mul (v bi)).add .rne ((v ai).mul (v br)))

/-! ### Reduction and combine (R83, R84) -/

/-- One level of the tree: the first s of 2s values, each with its partner. -/
def reduceLevel {α : Type} (op : α → α → α) (s : Nat) (xs : List α) : List α :=
  List.zipWith op (xs.take s) (xs.drop s)

/-- Reduce over 64 values (R83). -/
def reduce64 {α : Type} (op : α → α → α) (d : α) (xs : List α) : α :=
  let xs := reduceLevel op 32 xs
  let xs := reduceLevel op 16 xs
  let xs := reduceLevel op 8 xs
  let xs := reduceLevel op 4 xs
  let xs := reduceLevel op 2 xs
  (reduceLevel op 1 xs).headD d

/-- Combine (R84). -/
def combine (m1 s1 : F32) (o1 : List F32) (m2 s2 : F32) (o2 : List F32) : F32 × F32 × List F32 :=
  if (f32val s1).isZero then (m2, s2, o2)
  else if (f32val s2).isZero then (m1, s1, o1)
  else
    let m := fmax m1 m2
    let a := if feq m1 m then fOne else exp2 (fsub m1 m)
    let b := if feq m2 m then fOne else exp2 (fsub m2 m)
    (m, fadd (fmul s1 a) (fmul s2 b), List.zipWith (fun x y => fadd (fmul x a) (fmul y b)) o1 o2)

/-- The row step of a score command (R260): new M and S, the factor a, and the row P. -/
def scoreRow (m s : F32) (x : List F32) (valid : List Bool) : F32 × F32 × F32 × List F32 :=
  let mx := reduce64 fmax fNegInf x
  let mn := fmax m mx
  let (a, p) :=
    if mn = fNegInf then (fOne, x.map fun _ => (0 : F32))
    else (if feq m mn then fOne else exp2 (fsub m mn), List.zipWith (fun v k => if k then exp2 (fsub v mn) else (0 : F32)) x valid)
  let rs := reduce64 fadd fNegZero p
  (mn, fadd (fmul s a) rs, a, p)

/-- CRC-32C, reflected (R242): one byte. -/
def crcByte (r : Nat) (b : Byte) : Nat :=
  (List.range 8).foldl (fun r _ => if r % 2 = 1 then (r / 2) ^^^ 0x82F63B78 else r / 2) (r ^^^ b.toNat)

/-- The register of CRC-32C after bytes; it starts at 0xFFFF_FFFF and its complement is the CRC. -/
def crcRun (r : Nat) (bs : List Byte) : Nat := bs.foldl crcByte r
def crc32c (bs : List Byte) : Nat := crcRun 0xFFFFFFFF bs ^^^ 0xFFFFFFFF

end Sys2Proof.Machine
end

