-- ==== Sys2Proof/Machine/ScalarFp.lean ====
section
/-! DEFINITION. The C cluster's scalar FP32 instructions (R97 to R99). -/

namespace Sys2Proof.Machine

open Sys2Proof

/-- The FP32 operand of a 64-bit value: its low half (R86). -/
def fpOf (w : Word) : FVal := f32val (w.setWidth 32)

/-- An FP32 result, zero-extended (R86). -/
def fpResult (rm : Rm) (v : FVal) : Word := (f32of rm v).setWidth 64

/-- FADD (R97). -/
def execFadd (d : CDst) (rm : Rm) (a b : CSrc) (s : State) : Out :=
  aluC2 d a b 4 (fun x y => fpResult rm ((fpOf x).add rm (fpOf y))) s

/-- FSUB (R97). -/
def execFsub (d : CDst) (rm : Rm) (a b : CSrc) (s : State) : Out :=
  aluC2 d a b 4 (fun x y => fpResult rm ((fpOf x).add rm (fpOf y).neg)) s

/-- FMUL (R97). -/
def execFmul (d : CDst) (rm : Rm) (a b : CSrc) (s : State) : Out :=
  aluC2 d a b 4 (fun x y => fpResult rm ((fpOf x).mul (fpOf y))) s

/-- FFMA (R97): one rounding. -/
def execFfma (d : CDst) (rm : Rm) (a b c : CSrc) (s : State) : Out :=
  aluC3 d a b c 4 (fun x y z => fpResult rm (((fpOf x).mul (fpOf y)).add rm (fpOf z))) s

/-- FDIV (R97). -/
def execFdiv (d : CDst) (rm : Rm) (a b : CSrc) (s : State) : Out :=
  aluC2 d a b 14 (fun x y => fpResult rm ((fpOf x).div (fpOf y))) s

/-- FMIN (R75, R97). -/
def execFmin (d : CDst) (a b : CSrc) (s : State) : Out := aluC2 d a b 2 (fun x y => fpResult .rne ((fpOf x).min (fpOf y))) s

/-- FMAX (R75, R97). -/
def execFmax (d : CDst) (a b : CSrc) (s : State) : Out := aluC2 d a b 2 (fun x y => fpResult .rne ((fpOf x).max (fpOf y))) s

/-- The conditions of FCMP (R98). -/
def fcmpTest (fc : FcmpCond) (a b : FVal) : Bool :=
  let un := a.isNan || b.isNan
  match fc with
  | .eq => !un && a.cmp b == .eq
  | .lt => !un && a.cmp b == .lt
  | .le => !un && a.cmp b != .gt
  | .un => un
  | .ne => un || a.cmp b != .eq

/-- FCMP (R98). -/
def execFcmp (d : CDst) (fc : FcmpCond) (a b : CSrc) (s : State) : Out :=
  aluC2 d a b 2 (fun x y => boolWord (fcmpTest fc (fpOf x) (fpOf y))) s

/-- FCVT's conversion (R99). -/
def fcvtWord (k : FcvtKind) (rm : Rm) (x : Word) : Word :=
  match k with
  | .i32f32 => BitVec.ofInt 64 ((fpOf x).toRange rm (-(2 ^ 31)) (2 ^ 31 - 1))
  | .u32f32 => BitVec.ofInt 64 ((fpOf x).toRange rm 0 (2 ^ 32 - 1))
  | .i64f32 => BitVec.ofInt 64 ((fpOf x).toRange rm (-(2 ^ 63)) (2 ^ 63 - 1))
  | .f32i32 => fpResult rm (.ofInt (toSigned 32 x.toNat))
  | .f32u32 => fpResult rm (.ofInt (x.toNat % 2 ^ 32 : Nat))
  | .f32i64 => fpResult rm (.ofInt x.toInt)
  | .f16f32 => BitVec.ofNat 64 (fF16.encode rm (fpOf x))
  | .f32f16 => fpResult .rne (fF16.decode (x.toNat % 65536))

/-- FCVT (R99). -/
def execFcvt (d : CDst) (kind : FcvtKind) (rm : Rm) (a : CSrc) (s : State) : Out := aluC1 d a 3 (fcvtWord kind rm) s

/-- FSQRT (R97). -/
def execFsqrt (d : CDst) (rm : Rm) (a : CSrc) (s : State) : Out := aluC1 d a 14 (fun x => fpResult rm (fpOf x).sqrt) s

/-- FEXP2 (R76, R97). -/
def execFexp2 (d : CDst) (a : CSrc) (s : State) : Out := aluC1 d a 6 (fun x => (exp2 (x.setWidth 32)).setWidth 64) s

/-- FRCP (R97). -/
def execFrcp (d : CDst) (rm : Rm) (a : CSrc) (s : State) : Out :=
  aluC1 d a 8 (fun x => fpResult rm ((FVal.ofInt 1).div (fpOf x))) s

end Sys2Proof.Machine
end

