-- ==== Sys2Proof/Machine/Elements.lean ====
section
/-! DEFINITION. Vectors as elements of a format (R67), and what one element becomes: floating point, CF32, integer,
immediates, conversions, keys (R72, R131 to R138). -/

namespace Sys2Proof.Machine

open Sys2Proof

/-- Lane i of a vector as a number. -/
def laneNat (v : Vec) (i : Nat) : Nat := (v.toArray.getD i 0).toNat

/-- Element e of a vector of w-bit elements (R67). -/
def elem (w : Nat) (v : Vec) (e : Nat) : Nat :=
  if w = 64 then laneNat v (2 * e) + laneNat v (2 * e + 1) * 2 ^ 32
  else laneNat v (e * w / 32) / 2 ^ (e * w % 32) % 2 ^ w

/-- The lane in which element e begins (R67, R118). -/
def laneOf (w e : Nat) : Nat := e * w / 32

/-- The w-bit elements of one lane joined. -/
def packLane (w : Nat) (g : Nat → Nat) (i : Nat) : Nat :=
  (List.range (32 / w)).foldl (fun acc j => acc + g (i * (32 / w) + j) % 2 ^ w * 2 ^ (w * j)) 0

/-- The vector whose w-bit elements are given. -/
def vecOfElems (w : Nat) (g : Nat → Nat) : Vec :=
  Vector.ofFn fun i =>
    if w = 64 then BitVec.ofNat 32 (if i.val % 2 = 0 then g (i.val / 2) else g (i.val / 2) / 2 ^ 32)
    else BitVec.ofNat 32 (packLane w g i.val)

/-- A function of one, two or three elements, applied to all (R128). -/
def map1 (w : Nat) (f : Nat → Nat) (a : Vec) : Vec := vecOfElems w fun e => f (elem w a e)
def map2 (w : Nat) (f : Nat → Nat → Nat) (a b : Vec) : Vec := vecOfElems w fun e => f (elem w a e) (elem w b e)
def map3 (w : Nat) (f : Nat → Nat → Nat → Nat) (a b c : Vec) : Vec :=
  vecOfElems w fun e => f (elem w a e) (elem w b e) (elem w c e)

/-! ### Floating point (R131, R132) -/

/-- The exact parts of a CF32 element (R67). -/
def cfRe (x : Nat) : FVal := fF32.decode (x % 2 ^ 32)
def cfIm (x : Nat) : FVal := fF32.decode (x / 2 ^ 32 % 2 ^ 32)
/-- Two parts, each rounded once. -/
def cfOf (rm : Rm) (re im : FVal) : Nat := fF32.encode rm re + fF32.encode rm im * 2 ^ 32

/-- The exact product of two CF32 elements (R132). -/
def cfMul (rm : Rm) (a b : Nat) : FVal × FVal :=
  (((cfRe a).mul (cfRe b)).add rm ((cfIm a).mul (cfIm b)).neg, ((cfRe a).mul (cfIm b)).add rm ((cfIm a).mul (cfRe b)))

/-- An element function of two operands, its exact result rounded to the format once. -/
def fpElem2 (fmt : Fmt) (rm : Rm) (f : FVal → FVal → FVal) (a b : Nat) : Nat :=
  (ffmt fmt).encode rm (f ((ffmt fmt).decode a) ((ffmt fmt).decode b))
def fpElem1 (fmt : Fmt) (rm : Rm) (f : FVal → FVal) (a : Nat) : Nat := (ffmt fmt).encode rm (f ((ffmt fmt).decode a))
def fpElem3 (fmt : Fmt) (rm : Rm) (f : FVal → FVal → FVal → FVal) (a b c : Nat) : Nat :=
  (ffmt fmt).encode rm (f ((ffmt fmt).decode a) ((ffmt fmt).decode b) ((ffmt fmt).decode c))

/-- VADD and VSUB on an element; CF32 part by part. -/
def addElem (fmt : Fmt) (rm : Rm) (sub : Bool) (a b : Nat) : Nat :=
  let g := fun (x y : FVal) => x.add rm (if sub then y.neg else y)
  if fmt = .cf32 then cfOf rm (g (cfRe a) (cfRe b)) (g (cfIm a) (cfIm b)) else fpElem2 fmt rm g a b

/-- VMUL on an element. -/
def mulElem (fmt : Fmt) (rm : Rm) (a b : Nat) : Nat :=
  if fmt = .cf32 then let p := cfMul rm a b; cfOf rm p.1 p.2 else fpElem2 fmt rm FVal.mul a b

/-- VFMA, VFMS and VFNMA on an element: the product, negated for VFNMA, with ±c added before the one rounding. -/
def fmaElem (fmt : Fmt) (rm : Rm) (negp negc : Bool) (a b c : Nat) : Nat :=
  let np := fun (x : FVal) => if negp then x.neg else x
  let nc := fun (x : FVal) => if negc then x.neg else x
  if fmt = .cf32 then
    let p := cfMul rm a b
    cfOf rm ((np p.1).add rm (nc (cfRe c))) ((np p.2).add rm (nc (cfIm c)))
  else fpElem3 fmt rm (fun x y z => (np (x.mul y)).add rm (nc z)) a b c

/-- VABS on a value. -/
def FVal.abs : FVal → FVal
  | .nan => .nan | .inf _ => .inf false | .fin _ m e => .fin false m e

/-- VNEG on an element. -/
def negElem (fmt : Fmt) (a : Nat) : Nat :=
  if fmt = .cf32 then cfOf .rne (cfRe a).neg (cfIm a).neg else fpElem1 fmt .rne FVal.neg a

/-- n binary digits of log2 of y / 2^p, 1 ≤ y / 2^p < 2, by repeated squaring. -/
def log2Digits (p : Nat) : Nat → Nat → Nat → Nat
  | 0, _, acc => acc
  | n + 1, y, acc =>
    let q := y * y / 2 ^ p
    if 2 ^ (p + 1) ≤ q then log2Digits p n (q / 2) (2 * acc + 1) else log2Digits p n q (2 * acc)

/-- log2 with 128 fraction digits and a sticky bit, exact enough for every rounding of R131; log2 of a power of two is
exact, and every other one irrational. -/
def FVal.log2 : FVal → FVal
  | .nan => .nan
  | .inf neg => if neg then .nan else .inf false
  | .fin neg m e =>
    if m = 0 then .inf true
    else if neg then .nan
    else
      let k := Nat.log2 m
      if m = 2 ^ k then .ofInt (k + e)
      else
        let p := 400
        let frac := log2Digits p 128 (m * 2 ^ p / 2 ^ k) 0
        ofScaled (2 * ((k + e) * (2 ^ 128 : Nat) + (frac : Int)) + 1) (-129)

/-- The rotation of the pairs of a (R133). -/
def ropeVec (a b c : Vec) : Vec :=
  Vector.ofFn fun i =>
    let j := i.val / 2 * 2
    let x := BitVec.ofNat 32 (laneNat a j)
    let y := BitVec.ofNat 32 (laneNat a (j + 1))
    let r := rotPair x y (laneNat b j) (laneNat c j + 2 ^ 32 * laneNat c (j + 1))
    if i.val % 2 = 0 then r.1 else r.2

/-! ### Integers (R134) -/

/-- An exact integer result, wrapped or clamped to the format. -/
def narrow (fmt : Fmt) (sat : Bool) (x : Int) : Nat := if sat then clampBits fmt x else wrapBits fmt.width x

def intElem2 (fmt : Fmt) (sat : Bool) (f : Int → Int → Int) (a b : Nat) : Nat := narrow fmt sat (f (intVal fmt a) (intVal fmt b))

/-- VIMULH: the upper half of the product. -/
def mulhElem (fmt : Fmt) (a b : Nat) : Nat := wrapBits (2 * fmt.width) (intVal fmt a * intVal fmt b) / 2 ^ fmt.width

def minElem (fmt : Fmt) (a b : Nat) : Nat := if intVal fmt b < intVal fmt a then b else a
def maxElem (fmt : Fmt) (a b : Nat) : Nat := if intVal fmt a < intVal fmt b then b else a

/-- VSAR: the shifted element, filling with its top bit. -/
def sarElem (w a k : Nat) : Nat := wrapBits w (toSigned w a / (2 ^ k : Nat))

/-! ### Immediates (R72) -/

/-- An F16 immediate in a floating-point format: rounded to nearest even, and only infinities give infinities. -/
def immFp (fmt : Fmt) (imm : BitVec 16) : Nat :=
  let f := ffmt fmt
  let v := fF16.decode imm.toNat
  match v with
  | .fin neg .. => let r := f.encode .rne v; if f.maxf < r % 2 ^ (f.w - 1) then f.signed neg f.maxf else r
  | _ => f.encode .rne v

/-- An integer immediate's pattern in w bits. -/
def immInt (w : Nat) (imm : BitVec 16) : Nat := wrapBits w imm.toInt

def immBits (fmt : Fmt) (imm : BitVec 16) : Nat := if fmt.isFp then immFp fmt imm else immInt fmt.width imm

/-! ### Scaling and keys (R138) -/

/-- VSCALE on an element; a k beyond ±1024 has the effect of that bound in every format of the row. -/
def scaleElem (fmt : Fmt) (rm : Rm) (a b : Nat) : Nat :=
  let k := clampInt (-1024) 1024 (toSigned fmt.width b)
  fpElem1 fmt rm (fun v => match v with | .fin s m e => .fin s m (e + k) | x => x) a

/-- VKEYX on an element. -/
def keyElem (w : Nat) (inv : Bool) (a : Nat) : Nat :=
  let top := a / 2 ^ (w - 1) % 2 == 1
  if top != inv then 2 ^ w - 1 - a else a ^^^ 2 ^ (w - 1)

/-! ### Compares (R139) -/

def fpTest (op : VCmp) (a b : FVal) : Bool :=
  let un := a.isNan || b.isNan
  match op with
  | .eq => !un && a.cmp b == .eq
  | .ne => un || a.cmp b != .eq
  | .lt => !un && a.cmp b == .lt
  | .le => !un && a.cmp b != .gt
  | .gt => !un && a.cmp b == .gt
  | .ge => !un && a.cmp b != .lt
  | .un => un

def intTest (op : VCmp) (a b : Int) : Bool :=
  match op with
  | .eq => a == b | .ne => a != b | .lt => decide (a < b) | .le => decide (a ≤ b) | .gt => decide (b < a) | .ge => decide (b ≤ a)
  | .un => false

/-- The test of VCMP and VCMPI on two elements. -/
def elemTest (op : VCmp) (fmt : Fmt) (a b : Nat) : Bool :=
  if fmt.isFp then fpTest op ((ffmt fmt).decode a) ((ffmt fmt).decode b) else intTest op (intVal fmt a) (intVal fmt b)

/-- A word with bit i as a test says. -/
def wordOfTest (f : Nat → Bool) : Word :=
  BitVec.ofNat 64 ((List.range 64).foldl (fun acc i => if f i then acc + 2 ^ i else acc) 0)

/-- The predicate that a compare gives (R139). -/
def cmpPred (op : VCmp) (fmt : Fmt) (h : Nat) (pa : Word) (a : Vec) (b : Nat → Nat) : Word :=
  let k := 32 / fmt.width
  wordOfTest fun i => pa.getLsbD i && elemTest op fmt (elem fmt.width a (k * i + h)) (b (k * i + h))

/-! ### Reductions, scans and histograms (R142 to R146) -/

/-- The elements of active lanes, by index. -/
def activeElems (w : Nat) (m : Word) (v : Vec) : List (Nat × Nat) :=
  ((List.range (2048 / w)).filter fun e => m.getLsbD (laneOf w e)).map fun e => (e, elem w v e)

/-- The F32 sum (R143): each lane's elements in order, then the tree. -/
def sumFp (fmt : Fmt) (m : Word) (v : Vec) : F32 :=
  let k := 32 / fmt.width
  let lanes := (List.range 64).map fun i =>
    if m.getLsbD i then
      (List.range k).foldl (fun acc j => fadd acc (f32ne ((ffmt fmt).decode (elem fmt.width v (k * i + j))))) fNegZero
    else fNegZero
  reduce64 fadd fNegZero lanes

/-- VRSUM's lane 0. -/
def rsum (fmt : Fmt) (m : Word) (v : Vec) : Nat :=
  if fmt.isFp then (sumFp fmt m v).toNat
  else wrapBits 32 ((activeElems fmt.width m v).foldl (fun acc e => acc + intVal fmt e.2) 0)

/-- VRMAX's and VRMIN's lane 0 (R143). -/
def rext (fmt : Fmt) (mx : Bool) (m : Word) (v : Vec) : Nat :=
  let es := (activeElems fmt.width m v).map (·.2)
  if fmt.isFp then
    (ffmt fmt).encode .rne (es.foldl (fun acc e =>
      let x := (ffmt fmt).decode e
      if mx then acc.max x else acc.min x) (.inf mx))
  else
    wrapBits fmt.width (es.foldl (fun acc e =>
      let x := intVal fmt e
      if mx then (if acc < x then x else acc) else (if x < acc then x else acc)) (if mx then Fmt.lo fmt else Fmt.hi fmt))

/-- Element a ranks above element b (R144). -/
def ranksAbove (fmt : Fmt) (a b : Nat) : Bool :=
  if fmt.isFp then
    let x := (ffmt fmt).decode a
    let y := (ffmt fmt).decode b
    if x.isNan then !y.isNan else !y.isNan && y.below x
  else decide (intVal fmt b < intVal fmt a)

/-- The chosen element of VARGMAX or VARGMIN: its bits and its index (R144). -/
def rarg (fmt : Fmt) (mx : Bool) (m : Word) (v : Vec) : Nat × Nat :=
  match activeElems fmt.width m v with
  | [] => (0, 2 ^ 32 - 1)
  | e :: es =>
    let b := es.foldl (fun b x => if (if mx then ranksAbove fmt x.2 b.2 else ranksAbove fmt b.2 x.2) then x else b) e
    (b.2, b.1)

/-- The inclusive prefix sums of the active lanes (R145). -/
def scanGo (fp : Bool) (m : Word) (v : Vec) (acc : Lane) : List Nat → List Lane
  | [] => []
  | i :: is =>
    let x : Lane := BitVec.ofNat 32 (laneNat v i)
    let acc := if m.getLsbD i then (if fp then fadd acc x else acc + x) else acc
    acc :: scanGo fp m v acc is

def scanVec (fmt : Fmt) (m : Word) (v : Vec) : Vec :=
  vecOfLanes (scanGo fmt.isFp m v (if fmt.isFp then fNegZero else 0) (List.range 64))

/-- VHIST (R146). -/
def histVec (w : Nat) (m : Word) (a b : Vec) : Vec :=
  let js := (activeElems w m a).map fun e => min e.2 16
  Vector.ofFn fun i => b[i] + BitVec.ofNat 32 (js.count i.val)

/-! ### Moving elements (R147) -/

/-- The active lanes, ascending. -/
def activeLanes (m : Word) : List Nat := (List.range 64).filter fun i => m.getLsbD i

def compressVec (m : Word) (a : Vec) : Vec := vecOfLanes ((activeLanes m).map fun i => BitVec.ofNat 32 (laneNat a i))

def expandVec (m : Word) (a b : Vec) : Vec :=
  Vector.ofFn fun i => if m.getLsbD i.val then BitVec.ofNat 32 (laneNat a (popCount i.val m.toNat)) else b[i]

end Sys2Proof.Machine
end

