-- ==== Sys2Proof/Machine/Vector.lean ====
section
/-! DEFINITION. The X cluster's vector instructions: floating point, integer, immediates, conversions, compares, reductions
and moves (R128 to R147). -/

namespace Sys2Proof.Machine

open Sys2Proof

/-! ### Forms -/

/-- A result offset, with that of the CF32 form (R130). -/
def cfOffset (fmt : Fmt) (n : Nat) : Nat := if fmt = .cf32 then 6 else n

/-- Element-wise instructions of one, two and three operands (R128). -/
def vec1 (fmt : Fmt) (n : Nat) (f : Nat → Nat) (vd : XDst) (p : Fin 8) (a : XSrc) (s : State) : Out :=
  issue .x (opX1 fmt.width vd p a n fun _ x => map1 fmt.width f x) s

def vec2 (fmt : Fmt) (n : Nat) (f : Nat → Nat → Nat) (vd : XDst) (p : Fin 8) (a b : XSrc) (s : State) : Out :=
  issue .x (opX2 fmt.width vd p a b n fun _ x y => map2 fmt.width f x y) s

def vec3 (fmt : Fmt) (n : Nat) (f : Nat → Nat → Nat → Nat) (vd : XDst) (p : Fin 8) (a b c : XSrc) (s : State) : Out :=
  issue .x (opX3 fmt.width vd p a b c n fun _ x y z => map3 fmt.width f x y z) s

/-- An instruction whose predicate selects inputs and whose result has every lane: the vector, and the scalar pushed onto
xq when x (R142, R147). An sq entry of it has every lane in its mask, as the predicate selects and does not mask
(DEDUCED, log entry 91). -/
def pick1 (fmt : Fmt) (n : Nat) (f : Word → Vec → Vec × Word) (vd : XDst) (p : Fin 8) (x : Bool) (a : XSrc) (s : State)
    (c : Core) : Except Stop IssueOut := do
  legal (c.xdstOk vd && c.xsrcOk a && (!x || c.chanPresent chXq))
  let m := c.pred p
  let (v, c) ← readX fmt.width c a
  let c ← c.reserveX s.seq vd (BitVec.allOnes 64)
  let c ← if x then c.reserveXq s.seq else .ok c
  let (r, w) := f m v
  return .plain c (landX s.seq vd n (BitVec.allOnes 64) r ++ if x then [landScalar chXq s.seq n w] else [])

/-- An instruction of two operands whose result has every lane whatever the predicate, which is given to f (R142,
R147); the mask of an sq entry as in pick1 (log entry 91). -/
def pick2 (fmt : Fmt) (n : Nat) (f : Word → Vec → Vec → Vec) (vd : XDst) (p : Fin 8) (a b : XSrc) (s : State) (c : Core) :
    Except Stop IssueOut := do
  legal (c.xdstOk vd && c.xsrcOk a && c.xsrcOk b)
  let m := c.pred p
  let (x, c) ← readX fmt.width c a
  let (y, c) ← readX fmt.width c b
  let c ← c.reserveX s.seq vd (BitVec.allOnes 64)
  return .plain c (landX s.seq vd n (BitVec.allOnes 64) (f m x y))

/-- The landing of a predicate (R141). -/
def predReq (n : Nat) (pd : Fin 8) (v : Word) : Req := ⟨n, none, true, .resultLanding, .landing (.pred pd v)⟩

/-- A predicate instruction without vector operands (R140). -/
def predOp (pd : Fin 8) (f : Core → Word) (s : State) : Out :=
  issue .x (fun _ c => .ok (.plain c [predReq 1 pd (f c)])) s

/-- NOP of the X cluster (R88). -/
def execXnop (s : State) : Out := issue .x (fun _ c => .ok (.plain c [])) s

/-! ### Floating point (R131 to R133) -/

/-- VADD (R131, R132): a + b. -/
def execVadd (vd : XDst) (p : Fin 8) (fmt : Fmt) (rm : Rm) (a b : XSrc) (s : State) : Out :=
  vec2 fmt 4 (addElem fmt rm false) vd p a b s

/-- VSUB (R131, R132): a − b. -/
def execVsub (vd : XDst) (p : Fin 8) (fmt : Fmt) (rm : Rm) (a b : XSrc) (s : State) : Out :=
  vec2 fmt 4 (addElem fmt rm true) vd p a b s

/-- VMUL (R131, R132): a × b. -/
def execVmul (vd : XDst) (p : Fin 8) (fmt : Fmt) (rm : Rm) (a b : XSrc) (s : State) : Out :=
  vec2 fmt (cfOffset fmt 4) (mulElem fmt rm) vd p a b s

/-- VFMA (R131, R132): a × b + c with one rounding. -/
def execVfma (vd : XDst) (p : Fin 8) (fmt : Fmt) (rm : Rm) (a b c : XSrc) (s : State) : Out :=
  vec3 fmt (cfOffset fmt 4) (fmaElem fmt rm false false) vd p a b c s

/-- VFMS (R131, R132): a × b − c with one rounding. -/
def execVfms (vd : XDst) (p : Fin 8) (fmt : Fmt) (rm : Rm) (a b c : XSrc) (s : State) : Out :=
  vec3 fmt (cfOffset fmt 4) (fmaElem fmt rm false true) vd p a b c s

/-- VFNMA (R131, R132): −(a × b) + c with one rounding. -/
def execVfnma (vd : XDst) (p : Fin 8) (fmt : Fmt) (rm : Rm) (a b c : XSrc) (s : State) : Out :=
  vec3 fmt (cfOffset fmt 4) (fmaElem fmt rm true false) vd p a b c s

/-- VMIN (R75, R131). -/
def execVmin (vd : XDst) (p : Fin 8) (fmt : Fmt) (a b : XSrc) (s : State) : Out :=
  vec2 fmt 2 (fpElem2 fmt .rne FVal.min) vd p a b s

/-- VMAX (R75, R131). -/
def execVmax (vd : XDst) (p : Fin 8) (fmt : Fmt) (a b : XSrc) (s : State) : Out :=
  vec2 fmt 2 (fpElem2 fmt .rne FVal.max) vd p a b s

/-- VABS (R131): a with sign 0. -/
def execVabs (vd : XDst) (p : Fin 8) (fmt : Fmt) (a : XSrc) (s : State) : Out :=
  vec1 fmt 2 (fpElem1 fmt .rne FVal.abs) vd p a s

/-- VNEG (R131): the sign of a, or of each part, inverted. -/
def execVneg (vd : XDst) (p : Fin 8) (fmt : Fmt) (a : XSrc) (s : State) : Out :=
  vec1 fmt 2 (negElem fmt) vd p a s

/-- VDIV (R97, R131). -/
def execVdiv (vd : XDst) (p : Fin 8) (fmt : Fmt) (rm : Rm) (a b : XSrc) (s : State) : Out :=
  vec2 fmt 16 (fpElem2 fmt rm FVal.div) vd p a b s

/-- VSQRT (R97, R131). -/
def execVsqrt (vd : XDst) (p : Fin 8) (fmt : Fmt) (rm : Rm) (a : XSrc) (s : State) : Out :=
  vec1 fmt 16 (fpElem1 fmt rm FVal.sqrt) vd p a s

/-- VRCP (R97, R131). -/
def execVrcp (vd : XDst) (p : Fin 8) (fmt : Fmt) (rm : Rm) (a : XSrc) (s : State) : Out :=
  vec1 fmt 8 (fpElem1 fmt rm fun x => (FVal.ofInt 1).div x) vd p a s

/-- VRSQ (R131). -/
def execVrsq (vd : XDst) (p : Fin 8) (fmt : Fmt) (rm : Rm) (a : XSrc) (s : State) : Out :=
  vec1 fmt 8 (fpElem1 fmt rm FVal.rsqrt) vd p a s

/-- VEXP2 (R76, R131). -/
def execVexp2 (vd : XDst) (p : Fin 8) (fmt : Fmt) (a : XSrc) (s : State) : Out :=
  vec1 fmt 8 (fun x => (exp2 (BitVec.ofNat 32 x)).toNat) vd p a s

/-- VLOG2 (R131). -/
def execVlog2 (vd : XDst) (p : Fin 8) (fmt : Fmt) (rm : Rm) (a : XSrc) (s : State) : Out :=
  vec1 fmt 10 (fpElem1 fmt rm FVal.log2) vd p a s

/-- VCLAMP (R131): Min(Max(a, b), c). -/
def execVclamp (vd : XDst) (p : Fin 8) (fmt : Fmt) (a b c : XSrc) (s : State) : Out :=
  vec3 fmt 2 (fpElem3 fmt .rne fun x y z => (x.max y).min z) vd p a b c s

/-- VROPE (R133). -/
def execVrope (vd : XDst) (p : Fin 8) (fmt : Fmt) (a b c : XSrc) (s : State) : Out :=
  issue .x (opX3 fmt.width vd p a b c 8 fun _ x y z => ropeVec x y z) s

/-! ### Integers (R134) -/

/-- VIADD (R134): a + b. -/
def execViadd (vd : XDst) (p : Fin 8) (fmt : Fmt) (sat : Bool) (a b : XSrc) (s : State) : Out :=
  vec2 fmt 1 (intElem2 fmt sat (· + ·)) vd p a b s

/-- VISUB (R134): a − b. -/
def execVisub (vd : XDst) (p : Fin 8) (fmt : Fmt) (sat : Bool) (a b : XSrc) (s : State) : Out :=
  vec2 fmt 1 (intElem2 fmt sat (· - ·)) vd p a b s

/-- VIMUL (R134): a × b. -/
def execVimul (vd : XDst) (p : Fin 8) (fmt : Fmt) (sat : Bool) (a b : XSrc) (s : State) : Out :=
  vec2 fmt 3 (intElem2 fmt sat (· * ·)) vd p a b s

/-- VIMULH (R134): the upper half of the product. -/
def execVimulh (vd : XDst) (p : Fin 8) (fmt : Fmt) (a b : XSrc) (s : State) : Out :=
  vec2 fmt 3 (mulhElem fmt) vd p a b s

/-- VIMIN (R134): the smaller. -/
def execVimin (vd : XDst) (p : Fin 8) (fmt : Fmt) (a b : XSrc) (s : State) : Out :=
  vec2 fmt 1 (minElem fmt) vd p a b s

/-- VIMAX (R134): the larger. -/
def execVimax (vd : XDst) (p : Fin 8) (fmt : Fmt) (a b : XSrc) (s : State) : Out :=
  vec2 fmt 1 (maxElem fmt) vd p a b s

/-- VAND (R134). -/
def execVand (vd : XDst) (p : Fin 8) (fmt : Fmt) (a b : XSrc) (s : State) : Out :=
  vec2 fmt 1 (fun x y => x &&& y) vd p a b s

/-- VOR (R134). -/
def execVor (vd : XDst) (p : Fin 8) (fmt : Fmt) (a b : XSrc) (s : State) : Out :=
  vec2 fmt 1 (fun x y => x ||| y) vd p a b s

/-- VXOR (R134). -/
def execVxor (vd : XDst) (p : Fin 8) (fmt : Fmt) (a b : XSrc) (s : State) : Out :=
  vec2 fmt 1 (fun x y => x ^^^ y) vd p a b s

/-- VANDN (R134): a AND NOT b. -/
def execVandn (vd : XDst) (p : Fin 8) (fmt : Fmt) (a b : XSrc) (s : State) : Out :=
  vec2 fmt 1 (fun x y => x &&& (2 ^ fmt.width - 1 - y)) vd p a b s

/-- VSHL (R134): by the low log2(w) bits of b. -/
def execVshl (vd : XDst) (p : Fin 8) (fmt : Fmt) (a b : XSrc) (s : State) : Out :=
  vec2 fmt 1 (fun x y => x * 2 ^ (y % fmt.width)) vd p a b s

/-- VSHR (R134): filling with 0. -/
def execVshr (vd : XDst) (p : Fin 8) (fmt : Fmt) (a b : XSrc) (s : State) : Out :=
  vec2 fmt 1 (fun x y => x / 2 ^ (y % fmt.width)) vd p a b s

/-- VSAR (R134): filling with the top bit of a. -/
def execVsar (vd : XDst) (p : Fin 8) (fmt : Fmt) (a b : XSrc) (s : State) : Out :=
  vec2 fmt 1 (fun x y => sarElem fmt.width x (y % fmt.width)) vd p a b s

/-- VPOPC (R134). -/
def execVpopc (vd : XDst) (p : Fin 8) (fmt : Fmt) (a : XSrc) (s : State) : Out :=
  vec1 fmt 1 (popCount fmt.width) vd p a s

/-- VCLZ (R134). -/
def execVclz (vd : XDst) (p : Fin 8) (fmt : Fmt) (a : XSrc) (s : State) : Out :=
  vec1 fmt 1 (leadingZeros fmt.width) vd p a s

/-- VISAT (R134): clamped to the target, then to the format. -/
def execVisat (vd : XDst) (p : Fin 8) (fmt : Fmt) (tgt : Fmt) (a : XSrc) (s : State) : Out :=
  vec1 fmt 1 (fun x => clampBits fmt (clampInt (Fmt.lo tgt) (Fmt.hi tgt) (intVal fmt x))) vd p a s

/-! ### Immediates (R72, R135) -/

/-- VADDI (R135). -/
def execVaddi (vd : XDst) (p : Fin 8) (fmt : Fmt) (rm : Rm) (a : XSrc) (imm : BitVec 16) (s : State) : Out :=
  vec1 fmt 4 (fun x => fpElem2 fmt rm (FVal.add rm) x (immFp fmt imm)) vd p a s

/-- VMULI (R135). -/
def execVmuli (vd : XDst) (p : Fin 8) (fmt : Fmt) (rm : Rm) (a : XSrc) (imm : BitVec 16) (s : State) : Out :=
  vec1 fmt 4 (fun x => fpElem2 fmt rm FVal.mul x (immFp fmt imm)) vd p a s

/-- VIADDI (R135): the immediate is its signed value on every format. -/
def execViaddi (vd : XDst) (p : Fin 8) (fmt : Fmt) (sat : Bool) (a : XSrc) (imm : BitVec 16) (s : State) : Out :=
  vec1 fmt 1 (fun x => narrow fmt sat (intVal fmt x + imm.toInt)) vd p a s

/-- VANDI (R135). -/
def execVandi (vd : XDst) (p : Fin 8) (fmt : Fmt) (a : XSrc) (imm : BitVec 16) (s : State) : Out :=
  vec1 fmt 1 (fun x => x &&& immInt fmt.width imm) vd p a s

/-- VORI (R135). -/
def execVori (vd : XDst) (p : Fin 8) (fmt : Fmt) (a : XSrc) (imm : BitVec 16) (s : State) : Out :=
  vec1 fmt 1 (fun x => x ||| immInt fmt.width imm) vd p a s

/-- VSHLI (R135). -/
def execVshli (vd : XDst) (p : Fin 8) (fmt : Fmt) (a : XSrc) (imm : BitVec 16) (s : State) : Out :=
  vec1 fmt 1 (fun x => x * 2 ^ imm.toNat) vd p a s

/-- VSHRI (R135). -/
def execVshri (vd : XDst) (p : Fin 8) (fmt : Fmt) (a : XSrc) (imm : BitVec 16) (s : State) : Out :=
  vec1 fmt 1 (fun x => x / 2 ^ imm.toNat) vd p a s

/-! ### Conversions, packing, codebooks and keys (R136 to R138) -/

/-- VCVT (R136). -/
def execVcvt (vd : XDst) (p : Fin 8) (fmt : Fmt) (rm : Rm) (dst : Fmt) (a : XSrc) (s : State) : Out :=
  vec1 fmt 3 (convert fmt dst rm) vd p a s

/-- The result of VPACK: the converted elements of a and b in part q of c (R136). -/
def packVec (fmt dst : Fmt) (rm : Rm) (q : Nat) (a b c : Vec) : Vec :=
  let n := fmt.count
  vecOfElems dst.width fun e =>
    if 2 * q * n ≤ e ∧ e < 2 * q * n + n then convert fmt dst rm (elem fmt.width a (e - 2 * q * n))
    else if 2 * q * n + n ≤ e ∧ e < 2 * q * n + 2 * n then convert fmt dst rm (elem fmt.width b (e - 2 * q * n - n))
    else elem dst.width c e

/-- VPACK (R136): with ws = 2 × wd no C is read. -/
def execVpack (vd : XDst) (p : Fin 8) (fmt : Fmt) (rm : Rm) (dst : Fmt) (q : Fin 4) (a b c : XSrc) (s : State) : Out :=
  if fmt.width = 2 * dst.width then issue .x (opX2 fmt.width vd p a b 2 fun _ x y => packVec fmt dst rm q.val x y Vec.zero) s
  else issue .x (opX3 fmt.width vd p a b c 2 fun _ x y z => packVec fmt dst rm q.val x y z) s

/-- VUNPK (R136). -/
def execVunpk (vd : XDst) (p : Fin 8) (fmt : Fmt) (rm : Rm) (dst : Fmt) (q : Fin 4) (a : XSrc) (s : State) : Out :=
  issue .x (opX1 fmt.width vd p a 2 fun _ x =>
    vecOfElems dst.width fun e => convert fmt dst rm (elem fmt.width x (q.val * dst.count + e))) s

/-- The result of VCBDEC from the words of a and the base table's entries (R137). -/
def cbdecVec (fmt : Fmt) (g : Nat) (a : Vec) (entry : Nat → Nat) : Vec :=
  let u := if fmt = .f32 then 8 else 16
  vecOfElems fmt.width fun e =>
    let w := elem 16 a (g * u + e / 8)
    (ffmt fmt).encode .rne (cbWeight w (entry (w / 256)) (e % 8))

/-- The bytes of the base table in the core's scratchpad (R137). -/
def Core.cbtabPas (c : Core) (id : CoreId) : List Nat := pasFrom (padBase id + c.ctx.sys.cbtab.toNat % 2 ^ 20) 1024

/-- VCBDEC (R137): the base table is read at I; a word that ECC cannot correct is ECC_UNCORRECTABLE (R210, R320). -/
def execVcbdec (vd : XDst) (p : Fin 8) (fmt : Fmt) (g : Fin 16) (a : XSrc) (s : State) : Out :=
  issue .x (fun s c => do
    let pas := c.cbtabPas s.cur
    let tab := s.readAs s.cur pas
    let o ← opX1 fmt.width vd p a 3 (fun _ x => cbdecVec fmt g.val x fun k => leNat ((tab.drop (4 * k)).take 4)) s c
    if s.poisoned pas then 
      .error (.trap .eccUncorrectable (accessInfo (BitVec.ofNat 64 (windowBase + c.ctx.sys.cbtab.toNat % 2 ^ 20)) 0 false))
    else .ok { o with reads := pas }) s

/-- VSCALE (R138): a × 2^b. -/
def execVscale (vd : XDst) (p : Fin 8) (fmt : Fmt) (rm : Rm) (a b : XSrc) (s : State) : Out :=
  vec2 fmt 4 (scaleElem fmt rm) vd p a b s

/-- VKEYX (R138). -/
def execVkeyx (vd : XDst) (p : Fin 8) (fmt : Fmt) (inv : Bool) (a : XSrc) (s : State) : Out :=
  vec1 fmt 1 (keyElem fmt.width inv) vd p a s

/-- VDIGIT (R138): the shift is that of element 0 of b. -/
def execVdigit (vd : XDst) (p : Fin 8) (fmt : Fmt) (d8 : Bool) (a b : XSrc) (s : State) : Out :=
  issue .x (opX2 fmt.width vd p a b 1 fun _ x y =>
    map1 fmt.width (fun e => e / 2 ^ (elem fmt.width y 0 % 32) % 2 ^ (if d8 then 8 else 4)) x) s

/-! ### Compares and predicates (R139 to R141) -/

/-- VCMP (R139). -/
def execVcmp (pd pa : Fin 8) (cop : VCmp) (fmt : Fmt) (h : Fin 8) (a b : XSrc) (s : State) : Out :=
  issue .x (fun _ c => do
    legal (c.xsrcOk a && c.xsrcOk b)
    let q := c.pred pa
    let (x, c) ← readX fmt.width c a
    let (y, c) ← readX fmt.width c b
    return .plain c [predReq 2 pd (cmpPred cop fmt h.val q x fun e => elem fmt.width y e)]) s

/-- VCMPI (R139). -/
def execVcmpi (pd pa : Fin 8) (cop : VCmp) (fmt : Fmt) (a : XSrc) (imm : BitVec 16) (s : State) : Out :=
  issue .x (fun _ c => do
    legal (c.xsrcOk a)
    let q := c.pred pa
    let (x, c) ← readX fmt.width c a
    return .plain c [predReq 2 pd (cmpPred cop fmt 0 q x fun _ => immBits fmt imm)]) s

/-- PAND (R140). -/
def execPand (pd pa pb : Fin 8) (s : State) : Out :=
  predOp pd (fun c => c.pred pa &&& c.pred pb) s

/-- POR (R140). -/
def execPor (pd pa pb : Fin 8) (s : State) : Out :=
  predOp pd (fun c => c.pred pa ||| c.pred pb) s

/-- PXOR (R140). -/
def execPxor (pd pa pb : Fin 8) (s : State) : Out :=
  predOp pd (fun c => c.pred pa ^^^ c.pred pb) s

/-- PNOT (R140). -/
def execPnot (pd pa : Fin 8) (s : State) : Out :=
  predOp pd (fun c => ~~~c.pred pa) s

/-- A scalar pushed onto xq at I + n, with no vector result (R140, R147, R148). Where C is absent it is ILLEGAL, as for the codes
that R111 names (DEDUCED, log entry 87). -/
def pushXq (n : Nat) (v : Word) (reqs : List Req) (s : State) (c : Core) : Except Stop IssueOut := do
  legal (c.chanPresent chXq)
  let c ← c.reserveXq s.seq
  return .plain c (reqs ++ [landScalar chXq s.seq n v])

/-- PCNT (R140): the number of 1 bits goes onto xq. -/
def execPcnt (pa : Fin 8) (s : State) : Out :=
  issue .x (fun s c => pushXq 1 (BitVec.ofNat 64 (popCount 64 (c.pred pa).toNat)) [] s c) s

/-- PFIRST (R140): the lowest 1 bit alone, and its index onto xq. -/
def execPfirst (pd pa : Fin 8) (s : State) : Out :=
  issue .x (fun s c =>
    let w := c.pred pa
    pushXq 1 (BitVec.ofNat 64 (trailingZeros 64 w.toNat)) [predReq 1 pd (w &&& -w)] s c) s

/-! ### Reductions, scans and histograms (R142 to R146) -/

/-- A reduction's vector and scalar: a number in lane 0 (R142). -/
def lane0 (v : Nat) : Vec × Word := (vecOfLanes [BitVec.ofNat 32 v], BitVec.ofNat 64 v)
/-- The pair of R144: value in lane 0, index in lane 1. -/
def lanes01 (e : Nat × Nat) : Vec × Word :=
  (vecOfLanes [BitVec.ofNat 32 e.1, BitVec.ofNat 32 e.2], BitVec.ofNat 64 (e.1 + e.2 * 2 ^ 32))

/-- VRSUM (R143). -/
def execVrsum (vd : XDst) (p : Fin 8) (fmt : Fmt) (x : Bool) (a : XSrc) (s : State) : Out :=
  issue .x (pick1 fmt 24 (fun m v => lane0 (rsum fmt m v)) vd p x a) s

/-- VRMAX (R143). -/
def execVrmax (vd : XDst) (p : Fin 8) (fmt : Fmt) (x : Bool) (a : XSrc) (s : State) : Out :=
  issue .x (pick1 fmt 12 (fun m v => lane0 (rext fmt true m v)) vd p x a) s

/-- VRMIN (R143). -/
def execVrmin (vd : XDst) (p : Fin 8) (fmt : Fmt) (x : Bool) (a : XSrc) (s : State) : Out :=
  issue .x (pick1 fmt 12 (fun m v => lane0 (rext fmt false m v)) vd p x a) s

/-- VARGMAX (R144). -/
def execVargmax (vd : XDst) (p : Fin 8) (fmt : Fmt) (x : Bool) (a : XSrc) (s : State) : Out :=
  issue .x (pick1 fmt 14 (fun m v => lanes01 (rarg fmt true m v)) vd p x a) s

/-- VARGMIN (R144). -/
def execVargmin (vd : XDst) (p : Fin 8) (fmt : Fmt) (x : Bool) (a : XSrc) (s : State) : Out :=
  issue .x (pick1 fmt 14 (fun m v => lanes01 (rarg fmt false m v)) vd p x a) s

/-- VSCAN (R145). -/
def execVscan (vd : XDst) (p : Fin 8) (fmt : Fmt) (a : XSrc) (s : State) : Out :=
  issue .x (opX1 fmt.width vd p a 20 (fun m x => scanVec fmt m x)) s

/-- VHIST (R146). -/
def execVhist (vd : XDst) (p : Fin 8) (fmt : Fmt) (a b : XSrc) (s : State) : Out :=
  issue .x (pick2 fmt 6 (histVec fmt.width) vd p a b) s

/-! ### Moving elements (R147) -/

/-- VMOV (R147). -/
def execVmov (vd : XDst) (p : Fin 8) (fmt : Fmt) (a : XSrc) (s : State) : Out :=
  issue .x (opX1 fmt.width vd p a 1 fun _ x => x) s

/-- VSEL (R147): a where c has any bit 1, else b. -/
def execVsel (vd : XDst) (p : Fin 8) (fmt : Fmt) (a b c : XSrc) (s : State) : Out :=
  vec3 fmt 1 (fun x y z => if z = 0 then y else x) vd p a b c s

/-- VPERM (R147). -/
def execVperm (vd : XDst) (p : Fin 8) (fmt : Fmt) (a b : XSrc) (s : State) : Out :=
  issue .x (opX2 fmt.width vd p a b 3 fun _ x y =>
    map1 fmt.width (fun k => elem fmt.width x (k % fmt.count)) y) s

/-- VROT (R147). -/
def execVrot (vd : XDst) (p : Fin 8) (fmt : Fmt) (a b : XSrc) (s : State) : Out :=
  issue .x (opX2 fmt.width vd p a b 2 fun _ x y =>
    vecOfElems fmt.width fun e => elem fmt.width x ((e + elem fmt.width y 0) % fmt.count)) s

/-- VBCAST (R147). -/
def execVbcast (vd : XDst) (p : Fin 8) (fmt : Fmt) (a b : XSrc) (s : State) : Out :=
  issue .x (opX2 fmt.width vd p a b 2 fun _ x y =>
    vecOfElems fmt.width fun _ => elem fmt.width x (elem fmt.width y 0 % fmt.count)) s

/-- VCOMPRESS (R147): with .x the number of active lanes goes onto xq. -/
def execVcompress (vd : XDst) (p : Fin 8) (fmt : Fmt) (x : Bool) (a : XSrc) (s : State) : Out :=
  issue .x (pick1 fmt 3 (fun m v => (compressVec m v, BitVec.ofNat 64 (popCount 64 m.toNat))) vd p x a) s

/-- VEXPAND (R147). -/
def execVexpand (vd : XDst) (p : Fin 8) (fmt : Fmt) (a b : XSrc) (s : State) : Out :=
  issue .x (pick2 fmt 3 expandVec vd p a b) s

/-- VLANE (R147): element k goes onto xq. -/
def execVlane (fmt : Fmt) (a : XSrc) (k : BitVec 9) (s : State) : Out :=
  issue .x (fun s c => do
    legal (c.xsrcOk a && c.chanPresent chXq)
    let (v, c) ← readX fmt.width c a
    pushXq 2 (BitVec.ofNat 64 (elem fmt.width v k.toNat)) [] s c) s

/-- VINS (R147): element k of a replaced by the low bits of element 0 of b. -/
def execVins (vd : XDst) (p : Fin 8) (fmt : Fmt) (a b : XSrc) (k : BitVec 9) (s : State) : Out :=
  issue .x (opX2 fmt.width vd p a b 2 fun _ x y =>
    vecOfElems fmt.width fun e => if e = k.toNat then elem fmt.width y 0 else elem fmt.width x e) s

/-! ### The deferral queue (R120, R148) -/

/-- The entries that a DEFER appends: value and key of each active lane (R148). -/
def deferEntries (m : Word) (a b : Vec) : List Word :=
  (activeLanes m).map fun i => BitVec.ofNat 64 (laneNat a i + laneNat b i * 2 ^ 32)

def Core.setDefq (c : Core) (q : List Word) : Core := c.modCtx fun x => { x with x := { x.x with defq := q } }

/-- DEFER (R120, R148). -/
def execDefer (a b : XSrc) (p : Fin 8) (s : State) : Out :=
  issue .x (fun _ c => do
    legal (c.xsrcOk a && c.xsrcOk b)
    let m := c.pred p
    let (x, c) ← readX 32 c a
    let (y, c) ← readX 32 c b
    let q := c.ctx.x.defq
    let es := deferEntries m x y
    if 512 < q.length + es.length then .error (.trap .deferFull (BitVec.ofNat 64 (q.length + es.length * 1024)))
    else .ok (.plain (c.setDefq (q ++ es)) [])) s

/-- DRAIN (R148): every lane is written. -/
def execDrain (vd : XDst) (dsel : DrainSel) (s : State) : Out :=
  issue .x (fun s c => do
    legal (c.xdstOk vd)
    let q := c.ctx.x.defq
    let c ← c.reserveX s.seq vd (BitVec.allOnes 64)
    let r := vecOfLanes ((q.take 64).map fun (e : Word) => if dsel = .key then (e >>> 32).setWidth 32 else e.setWidth 32)
    let c := if dsel = .take then c.setDefq (q.drop 64) else c
    return .plain c (landX s.seq vd 4 (BitVec.allOnes 64) r)) s

/-- DCOUNT (R148). -/
def execDcount  (s : State) : Out :=
  issue .x (fun s c => pushXq 1 (BitVec.ofNat 64 c.ctx.x.defq.length) [] s c) s

/-- DCLEAR (R148). -/
def execDclear  (s : State) : Out :=
  issue .x (fun _ c => .ok (.plain (c.setDefq []) [])) s

/-! ### X control (R152) -/

/-- A taken transfer of L, X or S; a joined line holds none (R123 reason 5, R152). -/
def branchApart (cl : Cluster) (_s : State) (c : Core) (taken : Bool) (t : Target) (reqs : List Req) :
    Except Stop IssueOut :=
  if c.inJoined then
    .error (.trap .joinForm (joinInfo 5 (match cl with | .c => 0 | .l => 1 | .x => 2 | .s => 3) (c.lineOf cl / 4)))
  else if taken then .ok ⟨c, reqs, .jump (targetLine (c.lineOf cl) t) t.parcel.toNat, none, [], []⟩
  else .ok (.plain c reqs)

/-- XJMP (R152). -/
def execXjmp (t : Target) (s : State) : Out :=
  issue .x (fun s c => branchApart .x s c true t []) s

/-- XBDEC (R152). -/
def execXbdec (k : Fin 4) (t : Target) (s : State) : Out :=
  issue .x (fun s c =>
    let n := c.ctx.x.k[k] - 1
    branchApart .x s c (n != 0) t [loopReq .x k n]) s

/-- XLOOPSET (R152). -/
def execXloopset (k : Fin 4) (n : BitVec 13) (t : Target) (s : State) : Out :=
  issue .x (fun s c =>
    branchApart .x s c (n == 0) t [loopReq .x k (n.setWidth 32)]) s

/-- XBANY (R152). -/
def execXbany (p : Fin 8) (t : Target) (s : State) : Out :=
  issue .x (fun s c => branchApart .x s c (c.pred p != 0) t []) s

/-- XBNONE (R152). -/
def execXbnone (p : Fin 8) (t : Target) (s : State) : Out :=
  issue .x (fun s c => branchApart .x s c (c.pred p == 0) t []) s

end Sys2Proof.Machine
end

