-- ==== Sys2Proof/Machine/Loads.lean ====
section
/-! DEFINITION. The L cluster: queue loads, address generators, gathers, completion bitmaps, address arithmetic and
control (R154 to R169). -/

namespace Sys2Proof.Machine

open Sys2Proof

/-- The bytes of a memory element; a 4-bit format is accessed by bytes (R154). -/
def elBytes (fmt : Fmt) : Nat := max 1 (fmt.width / 8)

/-- m contiguous bytes at an address, as elements (R158). -/
def contiguous (va : Int) (z m : Nat) : List Place := (List.range (m / z)).map fun e => ⟨va + (e * z : Nat), z, z, e * z / 4⟩

/-- The address and the new register value of R157. -/
def incAddr (inc : Inc) (x imm : Word) (span : Nat) : Word × Option Word :=
  match inc with
  | .keep => (x + imm, none)
  | .post => (x, some (x + imm))
  | .pre => (x + imm, some (x + imm))
  | .step => (x + imm, some (x + BitVec.ofNat 64 span))

/-- An L or S address register's write at I + 1 (R155). -/
def aregReq (i : Fin 16) : Option Word → List Req
  | none => []
  | some v => [⟨1, none, true, .resultLanding, .landing (.areg i v)⟩]
def bregReq (i : Fin 16) : Option Word → List Req
  | none => []
  | some v => [⟨1, none, true, .resultLanding, .landing (.breg i v)⟩]

/-- The bytes an LDQ or LPF names (R158). -/
def cntBytes (cnt : BitVec 6) : Nat := if cnt = 0 then 256 else 4 * cnt.toNat

/-- A queue load: a place on oq, the checks in order, and its performing (R156, R158); rep repeats the one element. -/
def loadQueue (oq : Fin 8) (cl : Cls) (ps : List Place) (rep extra : Nat) (upd : List Req) (s : State) (c : Core) :
    Except Stop IssueOut := do
  legal (c.chanPresent (chOq oq))
  let c ← c.reserve (chOq oq) s.seq (BitVec.allOnes 64)
  let (els, c) ← checkPlaces s s.cur cl .r ps c
  let els := (List.replicate rep els).flatten
  let a : Access := ⟨.ldQ (chOq oq).val s.seq, els, c.posOf .l, none⟩
  return .plain c (s.accessReqs s.cur c a (s.latency s.cur cl a.pas + extra) ++ upd)

/-- LDQ (R157, R158). -/
def execLdq (oq : Fin 8) (a : Fin 16) (cl : Cls) (fmt : Fmt) (cnt : BitVec 6) (inc : Inc) (imm : BitVec 18) (s : State) : Out :=
  issue .l (fun s c =>
    let m := cntBytes cnt
    let (va, upd) := incAddr inc c.ctx.l.a[a] (imm.signExtend 64) m
    loadQueue oq cl (contiguous va.toNat (elBytes fmt) m) 1 0 (aregReq a upd) s c) s

/-- LDQB (R157, R158). -/
def execLdqb (oq : Fin 8) (a : Fin 16) (cl : Cls) (fmt : Fmt) (inc : Inc) (imm : BitVec 18) (s : State) : Out :=
  issue .l (fun s c =>
    let z := elBytes fmt
    let (va, upd) := incAddr inc c.ctx.l.a[a] (imm.signExtend 64) z
    loadQueue oq cl [⟨va.toNat, z, z, 0⟩] fmt.count 0 (aregReq a upd) s c) s

/-- The new register value of LDQS and STQS (R158, R170). -/
def sincAddr (inc : SInc) (x : Word) (z k : Nat) (stride : Int) : Option Word :=
  match inc with
  | .keep => none
  | .elem => some (x + BitVec.ofNat 64 z)
  | .span => some (x + BitVec.ofInt 64 (k * stride))

/-- A signed sum of address parts; a negative one wraps, one beyond the top does not (R154, R197). -/
def addrSum (x d : Int) : Int := if x + d < 0 then x + d + (2 ^ 64 : Nat) else x + d

/-- LDQS (R158). -/
def execLdqs (oq : Fin 8) (a : Fin 16) (cl : Cls) (fmt : Fmt) (cnt : BitVec 6) (inc : SInc) (imm : BitVec 18) (s : State) : Out :=
  issue .l (fun s c =>
    let z := elBytes fmt
    let k := if cnt = 0 then fmt.count else cnt.toNat
    let x := c.ctx.l.a[a]
    let ps := (List.range k).map fun (e : Nat) => (⟨addrSum x.toNat ((e : Int) * imm.toInt), z, z, e * z / 4⟩ : Place)
    loadQueue oq cl ps 1 0 (aregReq a (sincAddr inc x z k imm.toInt)) s c) s

/-- LPF (R158): a hint; only its increment shows. -/
def execLpf (a : Fin 16) (_cl : Cls) (cnt : BitVec 6) (inc : Inc) (imm : BitVec 18) (s : State) : Out :=
  issue .l (fun _ c => .ok (.plain c (aregReq a (incAddr inc c.ctx.l.a[a] (imm.signExtend 64) (cntBytes cnt)).2))) s

/-- LDQK (R159, R160): the checks at I; the entry is read at I + latE. Where the ω table runs past the end, TINFO names the first
entry past it, as the rule does not say which (DEDUCED, log entry 93). -/
def execLdqk (oq : Fin 8) (a : Fin 16) (cl : Cls) (fmt : Fmt) (t : BitVec 6) (g : BitVec 2) (s : State) : Out :=
  issue .l (fun s c => do
    legal (c.chanPresent (chOq oq))
    let va := c.ctx.l.a[a]
    let (pa, c) ← checkElem s s.cur c cl .r va 16 16 0 false
    let c ← c.reserve (chOq oq) s.seq (BitVec.allOnes 64)
    let rope := c.ctx.sys.ropetab.toNat % 2 ^ 20
    if 2 ^ 20 < rope + 1024 then
      .error (.trap .protection (accessInfo (BitVec.ofNat 64 (windowBase + rope + 8 * ((2 ^ 20 - rope) / 8))) 0 false))
    else
      let lat := s.latency s.cur cl (pasFrom pa 16)
      let r : LdqkReq := ⟨pa, va, cl, fmt, t.toNat, g.toNat, (chOq oq).val, s.seq, rope, none, c.posOf .l⟩
      return .plain c (s.memReqs s.cur c (pasFrom pa 16) .ldqkEntryRead (.ldqk r) lat)) s

/-! ### Address generators (R161 to R164) -/

/-- N_d: a count of 0 means 65,536 (R161). -/
def AddrGen.n (g : AddrGen) (d : Fin 4) : Nat := if g.count[d] = 0 then 65536 else g.count[d].toNat

/-- One step (R162). -/
def AddrGen.step (g : AddrGen) : AddrGen :=
  let i0 := g.idx[0] + 1
  let (i0, c) := if i0 = g.n 0 then (0, 1) else (i0, 0)
  let i1 := g.idx[1] + c
  let (i1, c) := if i1 = g.n 1 then (0, 1) else (i1, 0)
  let i2 := g.idx[2] + c
  let (i2, c) := if i2 = g.n 2 then (0, 1) else (i2, 0)
  let i3 := g.idx[3] + c
  let i3 := if i3 = g.n 3 then 0 else i3
  { g with idx := #v[i0, i1, i2, i3] }

def AddrGen.steps (g : AddrGen) : Nat → AddrGen
  | 0 => g
  | k + 1 => g.step.steps k

/-- The factor of dimension d in the address: its index, or the table value of the indirect dimension (R162). TINFO of the PROTECTION of
an entry past the end of the scratchpad names the entry's address in the window, modulo 2^64 (DESIGN CHOICE, log entry 109). -/
def genFactor (s : State) (id : CoreId) (k : Fin 4) (g : AddrGen) (lane : Nat) (prog : Bool) (d : Fin 4) :
    Except Stop Int :=
  if g.ind.toNat = d.val + 1 then
    let off := g.tb.toNat + 4 * g.idx[d]
    let pas := pasFrom (padBase id + off) 4
    if 2 ^ 20 < off + 4 then .error (.trap .protection (accessInfo (BitVec.ofNat 64 (windowBase + off)) lane prog))
    else if s.poisoned pas then
      .error (.trap .eccUncorrectable (accessInfo (BitVec.ofNat 64 (windowBase + off)) lane prog))
    else
      let v := leNat (s.readAs id pas)
      let tv := toSigned 32 v
      if tv < 0 ∨ (g.bound.toNat : Int) ≤ tv then
        .error (.trap .bound (BitVec.ofNat 64 (v + lane * 2 ^ 32 + k.val * 2 ^ 38)))
      else .ok tv
  else .ok g.idx[d]

/-- The current address (R162). -/
def genAddr (s : State) (id : CoreId) (k : Fin 4) (g : AddrGen) (lane : Nat) (prog : Bool) : Except Stop Word := do
  let f0 ← genFactor s id k g lane prog 0
  let f1 ← genFactor s id k g lane prog 1
  let f2 ← genFactor s id k g lane prog 2
  let f3 ← genFactor s id k g lane prog 3
  return BitVec.ofInt 64 ((g.base.toNat : Int) + f0 * g.stride[0].toInt + f1 * g.stride[1].toInt + f2 * g.stride[2].toInt
    + f3 * g.stride[3].toInt)

/-- The extra latency of an indirect dimension (R162). -/
def AddrGen.extra (g : AddrGen) : Nat := if g.ind = 0 then 0 else 4

def agReq (k : Fin 4) (g : AddrGen) : Req := ⟨1, none, true, .resultLanding, .landing (.ag k g)⟩

/-- The elements of n segments of w bytes at successive generator steps, checked as they are formed (R164). -/
def genSegs (s : State) (id : CoreId) (cl : Cls) (k : Fin 4) (z w : Nat) :
    Nat → Nat → AddrGen → Core → Except Stop (List El × Core)
  | 0, _, _, c => .ok ([], c)
  | n + 1, j, g, c => do
    let a ← genAddr s id k g (j * w / 4) false
    let ps := (contiguous a.toNat z w).map fun p => { p with lane := p.lane + j * w / 4 }
    let (es, c1) ← checkPlaces s id cl .r ps c
    let (rest, c2) ← genSegs s id cl k z w n (j + 1) g.step c1
    return (es ++ rest, c2)

/-- The table words that n successive generator steps read (R162). -/
def AddrGen.reads (id : CoreId) (g : AddrGen) : Nat → List Nat
  | 0 => []
  | n + 1 =>
    let one := fun (d : Fin 4) => if g.ind.toNat = d.val + 1 then pasFrom (padBase id + (g.tb.toNat + 4 * g.idx[d])) 4 else []
    one 0 ++ one 1 ++ one 2 ++ one 3 ++ AddrGen.reads id g.step n

/-- LGEN (R164). -/
def execLgen (oq : Fin 8) (ag : Fin 4) (cl : Cls) (fmt : Fmt) (sg : Fin 7) (s : State) : Out :=
  issue .l (fun s c => do
    legal (c.chanPresent (chOq oq))
    let g := c.ctx.l.ag[ag]
    let k := 2 ^ sg.val
    let c ← c.reserve (chOq oq) s.seq (BitVec.allOnes 64)
    let (els, c) ← genSegs s s.cur cl ag (elBytes fmt) (256 / k) k 0 g c
    let a : Access := ⟨.ldQ (chOq oq).val s.seq, els, c.posOf .l, none⟩
    return { IssueOut.plain c (s.accessReqs s.cur c a (s.latency s.cur cl a.pas + g.extra) ++ [agReq ag (g.steps k)]) with
      reads := g.reads s.cur k }) s

/-- AGSET (R161, R163). -/
def agWrite (g : AddrGen) (grp : AgGroup) (v : Word) : AddrGen :=
  match grp with
  | .base => { g with base := v }
  | .dim d => { g with stride := g.stride.set d (v.setWidth 32), count := g.count.set d ((v >>> 32).setWidth 16),
                       idx := g.idx.set d 0 }
  | .ind => { g with ind := v.setWidth 3, tb := (v >>> 32).setWidth 20 }
  | .bound => { g with bound := v.setWidth 32 }

/-- AGSET (R161, R163): the checks on the value of group ind come after the pop. -/
def execAgset (ag : Fin 4) (grp : AgGroup) (s : State) : Out :=
  issue .l (fun s c => do
    legal (c.chanPresent chCl)
    let (e, c) ← c.pop chCl
    let v := wordOfVec e.v
    if grp = .ind ∧ 4 < v.toNat % 8 then .error .illegal
    else if grp = .ind ∧ bits v 33 32 ≠ 0 then .error (.trap .align (s.freeTinfo))
    else return .plain c [agReq ag (agWrite c.ctx.l.ag[ag] grp v)]) s

/-- AGIDX (R163). -/
def execAgidx (ag : Fin 4) (s : State) : Out :=
  issue .l (fun _ c => do
    legal (c.chanPresent chCl)
    let (e, c) ← c.pop chCl
    let v := wordOfVec e.v
    let g := c.ctx.l.ag[ag]
    return .plain c [agReq ag { g with idx := Vector.ofFn fun d => bits v (16 * d.val + 15) (16 * d.val) % g.n d }]) s

/-- AGRST (R163). -/
def execAgrst (ag : Fin 4) (s : State) : Out :=
  issue .l (fun _ c => .ok (.plain c [agReq ag { c.ctx.l.ag[ag] with idx := Vector.replicate 4 0 }])) s

/-! ### Gathers and completion bitmaps (R165 to R167) -/

/-- A gather's pass: the elements of pending lanes up to the first that fails, and that lane's stop. -/
structure Pass where
  els : List (Nat × El)
  core : Core
  fail : Option (Nat × Stop)

/-- The pending lanes' checks, ascending: lane i reads generator step i (R165). -/
def gatherLanes (s : State) (id : CoreId) (cl : Cls) (k : Fin 4) (mask : Word) : Nat → Nat → AddrGen → Core → Bool → Pass
  | 0, _, _, c, _ => ⟨[], c, none⟩
  | n + 1, i, g, c, any =>
    if mask.getLsbD i then gatherLanes s id cl k mask n (i + 1) g.step c any
    else
      match (genAddr s id k g i any).bind fun a => checkPlace s id c cl .r any ⟨a.toNat, 4, 4, i⟩ with
      | .error e => ⟨[], c, some (i, e)⟩
      | .ok (e, c1) =>
        let p := gatherLanes s id cl k mask n (i + 1) g.step c1 true
        { p with els := (i, e) :: p.els }

/-- The cause and TINFO of a failed check at a pass that kept lanes (R156). -/
def partStop (s : State) : Stop → Except Stop IssueStop
  | .trap cause tinfo => .ok ⟨true, cause, tinfo⟩
  | .lockedMiss tinfo => .ok ⟨true, .translateMiss, tinfo⟩
  | .illegal => .ok ⟨true, .illegal, s.freeTinfo⟩
  | e => .error e

/-- The youngest entry of a queue. -/
def Core.youngest (c : Core) (ch : Fin 18) : Option ChanEntry := c.ctx.chan[ch].getLast?

/-- WALKINFO of a failed check of a locked task (R201). -/
def Core.noteMiss (c : Core) : Stop → Core
  | .lockedMiss _ => c.modCtx fun x => { x with sys := { x.sys with walkinfo := BitVec.ofNat 64 32 } }
  | _ => c

/-- The entry opened or reused by a gather: its number and the core with it. -/
def Core.gatherEntry (c : Core) (ch : Fin 18) (reuse : Option Nat) (seq : Nat) (cb : Fin 4) : Nat × Core :=
  match reuse with
  | some id => (id, c)
  | none =>
    (seq, c.setChan ch ((c.ctx.chan[ch].filter fun e => e.cb.isNone) ++ [⟨seq, false, Vec.zero, BitVec.allOnes 64, some cb⟩]))

/-- The entry is open no longer: it lands with its last lane (R165). -/
def Core.closeEntry (c : Core) (ch : Fin 18) (id : Nat) : Core :=
  c.setChan ch (c.ctx.chan[ch].map fun e => if e.id = id then { e with cb := none } else e)

/-- A completion bitmap with the bits that a pass of the same gather has still to land: a gather that is issued again after its stop
restarts its missing lanes alone (R165). -/
def State.bitmap (s : State) (id : CoreId) (j : Fin 4) (v : Word) : Word :=
  s.agenda.foldl (fun m p => match p.arg with
    | .landing (.cb k w) => if p.owner = id ∧ k = j then m ||| w else m
    | _ => m) v

def cbReq (j : Fin 4) (v : Word) : Req := ⟨1, none, true, .resultLanding, .landing (.cb j v)⟩

/-- LDQG (R165). With no lane pending nothing performs, and the entry lands at I + 4, or I + 8 with an indirect dimension (DESIGN CHOICE,
log entry 110). -/
def execLdqg (oq : Fin 8) (ag : Fin 4) (cl : Cls) (_fmt : Fmt) (cb : Fin 4) (s : State) : Out :=
  issue .l (fun s c => do
    let ch := chOq oq
    legal (c.chanPresent ch)
    let g := c.ctx.l.ag[ag]
    let mask := s.bitmap s.cur cb c.ctx.l.cb[cb]
    let reuse := match c.youngest ch with | some e => if e.cb = some cb then some e.id else none | none => none
    if reuse.isNone ∧ 8 ≤ c.occ ch then .error (.trap .queueFull (chanInfo ch (c.occ ch)))
    else
      let p := gatherLanes s s.cur cl ag mask 64 0 g c false
      match p.fail, p.els with
      | some (_, e), [] => .error e
      | some (_, .walk w), _ => .error (.walk w)
      | fail, els =>
        let (id, c1) := p.core.gatherEntry ch reuse s.seq cb
        let lanes := els.map (·.1)
        let a : Access := ⟨.ldG ch.val id lanes fail.isNone, els.map (·.2), c.posOf .l, none⟩
        let acc := s.accessReqs s.cur c1 a (s.latency s.cur cl a.pas + g.extra)
        match fail with
        | some (_, e) => do
          let st ← partStop s e
          let v := mask ||| wordOfTest fun i => lanes.contains i
          return ⟨c1.noteMiss e, acc ++ [cbReq cb v], .next 1, some st, [], a.els.flatMap fun l => (g.steps l.lane).reads s.cur 1⟩
        | none => return { IssueOut.plain (c1.closeEntry ch id) (acc ++ [cbReq cb 0, agReq ag (g.steps 64)]) with
            reads := a.els.flatMap fun l => (g.steps l.lane).reads s.cur 1 }) s

/-- LGCB (R167). -/
def execLgcb (cb : Fin 4) (s : State) : Out :=
  issue .l (fun _ c => do
    legal (c.chanPresent chCl)
    let (e, c) ← c.pop chCl
    return .plain c [cbReq cb (wordOfVec e.v)]) s

/-- CBCLR (R167). -/
def execCbclr (cb : Fin 4) (s : State) : Out :=
  issue .l (fun _ c => .ok (.plain c [⟨1, none, true, .resultLanding, .landing (.cbClear cb)⟩])) s

/-- CBGET (R167). -/
def execCbget (cb : Fin 4) (s : State) : Out :=
  issue .l (fun s c => do
    legal (c.chanPresent chLq)
    let c ← c.reserve chLq s.seq (BitVec.allOnes 64)
    return .plain c [landScalar chLq s.seq 1 c.ctx.l.cb[cb]]) s

/-! ### Address arithmetic and control (R168, R169) -/

/-- LNOP (R169). -/
def execLnop (s : State) : Out := issue .l (fun _ c => .ok (.plain c [])) s

/-- LADDI (R168). -/
def execLaddi (ad as : Fin 16) (imm : BitVec 31) (s : State) : Out :=
  issue .l (fun _ c => .ok (.plain c (aregReq ad (some (c.ctx.l.a[as] + imm.signExtend 64))))) s

/-- LMOVI (R168). -/
def execLmovi (ad : Fin 16) (imm : BitVec 31) (s : State) : Out :=
  issue .l (fun _ c => .ok (.plain c (aregReq ad (some (imm.signExtend 64))))) s

/-- LADD (R168). -/
def execLadd (ad as : Fin 16) (s : State) : Out :=
  issue .l (fun _ c => do
    legal (c.chanPresent chCl)
    let (e, c) ← c.pop chCl
    return .plain c (aregReq ad (some (c.ctx.l.a[as] + wordOfVec e.v)))) s

/-- LPOPC (R168). -/
def execLpopc (ad : Fin 16) (s : State) : Out :=
  issue .l (fun _ c => do
    legal (c.chanPresent chCl)
    let (e, c) ← c.pop chCl
    return .plain c (aregReq ad (some (wordOfVec e.v)))) s

/-- LJMP (R169). -/
def execLjmp (t : Target) (s : State) : Out := issue .l (fun s c => branchApart .l s c true t []) s

/-- LBDEC (R169). -/
def execLbdec (k : Fin 4) (t : Target) (s : State) : Out :=
  issue .l (fun s c =>
    let n := c.ctx.l.k[k] - 1
    branchApart .l s c (n != 0) t [loopReq .l k n]) s

/-- LLOOPSET (R169). -/
def execLloopset (k : Fin 4) (n : BitVec 13) (t : Target) (s : State) : Out :=
  issue .l (fun s c => branchApart .l s c (n == 0) t [loopReq .l k (n.setWidth 32)]) s

end Sys2Proof.Machine
end

