-- ==== Sys2Proof/Machine/Stores.lean ====
section
/-! DEFINITION. The S cluster: queue stores, scatters, nibble stores, histograms, atomics, the sync instructions, address
arithmetic and control (R168 to R174, R219 to R226). -/

namespace Sys2Proof.Machine

open Sys2Proof

/-! ### Queue stores (R170) -/

/-- The elements of z bytes of an entry with n bytes from byte b, at address va, of the lanes that the mask holds. -/
def activePlaces (mask : Word) (va : Int) (z b n : Nat) : List Place :=
  ((contiguous va z n).map fun p => { p with lane := p.lane + b / 4 }).filter fun p => mask.getLsbD p.lane

/-- The bytes of an entry that an element's lane place holds: those of places in order, each from byte o on. -/
def placeBytes (bs : List Byte) (va : Int) (b : Nat) (ps : List Place) : List Byte :=
  ps.flatMap fun p => (bs.drop (b + (p.va - va).toNat)).take p.z

/-- The oldest sq entry popped. -/
def Core.popSq (c : Core) (sq : Fin 4) : Except Stop (ChanEntry × Core) := do
  legal (c.chanPresent (chSq sq))
  c.pop (chSq sq)

/-- A store of active elements with their bytes: checks, then its performing; nothing is accessed when none is
active (R119, R170). -/
def storeEls (cl : Cls) (ps : List (Place × List Byte)) (upd : List Req) (s : State) (c : Core) : Except Stop IssueOut := do
  let (els, c) ← checkPlaces s s.cur cl .w (ps.map (·.1)) c
  let a : Access := ⟨.st (ps.flatMap (·.2)), els, c.posOf .s, none⟩
  return .plain c ((if ps.isEmpty then [] else s.accessReqs s.cur c a (s.latency s.cur cl a.pas)) ++ upd)

/-- Elements from byte b of an entry at an address, each with its bytes. -/
def segPlaces (e : ChanEntry) (va : Int) (z b n : Nat) : List (Place × List Byte) :=
  (activePlaces e.mask va z b n).map fun p => (p, placeBytes (vecBytes e.v) va b [p])

/-- STQ (R157, R170). -/
def execStq (sq : Fin 4) (b : Fin 16) (cl : Cls) (fmt : Fmt) (inc : Inc) (imm : BitVec 25) (s : State) : Out :=
  issue .s (fun s c => do
    let (e, c) ← c.popSq sq
    let (va, upd) := incAddr inc c.ctx.st.b[b] (imm.signExtend 64) 256
    storeEls cl (segPlaces e va.toNat (elBytes fmt) 0 256) (bregReq b upd) s c) s

/-- STQS (R170). -/
def execStqs (sq : Fin 4) (b : Fin 16) (cl : Cls) (fmt : Fmt) (inc : SInc) (imm : BitVec 25) (s : State) : Out :=
  issue .s (fun s c => do
    let (e, c) ← c.popSq sq
    let z := elBytes fmt
    let x := c.ctx.st.b[b]
    let ps := (List.range fmt.count).flatMap fun (k : Nat) => segPlaces e (addrSum x.toNat ((k : Int) * imm.toInt)) z (k * z) z
    storeEls cl ps (bregReq b (sincAddr inc x z fmt.count imm.toInt)) s c) s

/-- SGEN (R170). -/
def execSgen (sq : Fin 4) (b : Fin 16) (cl : Cls) (fmt : Fmt) (sp : Bool) (sg : Fin 7) (stride : BitVec 22) (s : State) : Out :=
  issue .s (fun s c => do
    let (e, c) ← c.popSq sq
    let k := 2 ^ sg.val
    let w := 256 / k
    let x := c.ctx.st.b[b]
    let ps := (List.range k).flatMap fun (j : Nat) =>
      segPlaces e (addrSum x.toNat ((j : Int) * stride.toInt)) (elBytes fmt) (j * w) w
    storeEls cl ps (bregReq b (if sp then some (x + BitVec.ofInt 64 ((k : Int) * stride.toInt)) else none)) s c) s

/-! ### Scatters (R171) -/

/-- The pending lanes' checks of a scatter, ascending. -/
def scatterLanes (s : State) (id : CoreId) (cl : Cls) (x : Word) (off : Int) (ix : Vec) (mask : Word) :
    Nat → Nat → Core → Bool → Pass
  | 0, _, c, _ => ⟨[], c, none⟩
  | n + 1, i, c, any =>
    if !mask.getLsbD i then scatterLanes s id cl x off ix mask n (i + 1) c any
    else
      match checkPlace s id c cl .w any ⟨addrSum x.toNat (toSigned 32 (laneNat ix i) + off), 4, 4, i⟩ with
      | .error e => ⟨[], c, some (i, e)⟩
      | .ok (e, c1) =>
        let p := scatterLanes s id cl x off ix mask n (i + 1) c1 true
        { p with els := (i, e) :: p.els }

/-- STQG (R171). -/
def execStqg (sq : Fin 4) (b : Fin 16) (cl : Cls) (_fmt : Fmt) (imm : BitVec 25) (s : State) : Out :=
  issue .s (fun s c => do
    let ch := chSq sq
    legal (c.chanPresent ch)
    match c.ctx.chan[ch] with
    | ie :: de :: rest =>
      if !(ie.landed && de.landed) then .error (.trap .operandEmpty (chanInfo ch (c.occ ch)))
      else
        let p := scatterLanes s s.cur cl c.ctx.st.b[b] imm.toInt ie.v de.mask 64 0 c false
        match p.fail, p.els with
        | some (_, e), [] => .error e
        | some (_, .walk w), _ => .error (.walk w)
        | fail, els =>
          let lanes := els.map (·.1)
          let a : Access := ⟨.st (lanes.flatMap fun i => leBytes (laneNat de.v i) 4), els.map (·.2), c.posOf .s, none⟩
          let acc := if els.isEmpty then [] else s.accessReqs s.cur p.core a (s.latency s.cur cl a.pas)
          match fail with
          | some (_, e) => do
            let st ← partStop s e
            let de' := { de with mask := de.mask &&& ~~~(wordOfTest fun i => lanes.contains i) }
            return ⟨(p.core.setChan ch (ie :: de' :: rest)).noteMiss e, acc, .next 1, some st, [], []⟩
          | none => return .plain (p.core.setChan ch rest) acc
    | _ => .error (.trap .operandEmpty (chanInfo ch (c.occ ch)))) s

/-! ### Nibbles and histograms (R172, R173) -/

/-- The elements that an STN writes: all of an active lane, or the one of number h (R172). -/
def stnElems (mask : Word) (h : Nat) : List Nat :=
  (List.range 512).filter fun e => mask.getLsbD (e / 8) && (h == 8 || e % 8 == h)

/-- STN (R172). -/
def execStn (sq : Fin 4) (b : Fin 16) (cl : Cls) (_fmt : Fmt) (step : Bool) (off : BitVec 21) (h : Fin 9) (s : State) : Out :=
  issue .s (fun s c => do
    let (e, c) ← c.popSq sq
    let (va, upd) := incAddr (if step then .step else .keep) c.ctx.st.b[b] (off.signExtend 64) 256
    let es := stnElems e.mask h.val
    let ps := es.map fun (k : Nat) => (⟨(va.toNat : Int) + (k / 2 : Nat), 1, 1, k / 8⟩ : Place)
    let (els, c) ← checkPlaces s s.cur cl .w ps c
    let nibs := es.map fun k => (k % 2 == 1, BitVec.ofNat 4 (elem 4 e.v k))
    let a : Access := ⟨.stn nibs, els, c.posOf .s, none⟩
    return .plain c ((if es.isEmpty then [] else s.accessReqs s.cur c a (s.latency s.cur cl a.pas)) ++ bregReq b upd)) s

/-- The target lies in a vault. -/
def vaultOnly (va : Word) (lane : Nat) (pa : Nat) : Except Stop Unit :=
  if paSpace pa = 0 then .ok () else .error (.trap .protection (accessInfo va lane false))

/-- AHIST (R173): lanes 0 to 15 are added at the vault. -/
def execAhist (sq : Fin 4) (b : Fin 16) (cl : Cls) (_fmt : Fmt) (off : BitVec 27) (s : State) : Out :=
  issue .s (fun s c => do
    let (e, c) ← c.popSq sq
    let va := c.ctx.st.b[b] + off.signExtend 64
    let m := e.mask &&& 0xFFFF
    match activeLanes m with
    | [] => return .plain c []
    | l :: ls =>
      let w := va + BitVec.ofNat 64 (4 * l)
      if va.toNat % 64 ≠ 0 then .error (.trap .align (accessInfo w l false))
      else do
        vaultOnly w l (if windowBase ≤ va.toNat then 2 ^ 38 else 0)
        let (els, c) ← checkPlaces s s.cur cl .w ((l :: ls).map fun (i : Nat) => ⟨(va.toNat : Int) + (4 * i : Nat), 4, 4, i⟩) c
        let pa := (els.headD ⟨0, 0, 0, 0⟩).pa - 4 * l
        vaultOnly w l pa
        return .plain c (s.memReqs s.cur c (pasFrom pa 64) .ahistPerform (.hist pa va e.v m (c.posOf .s)) (s.classLat cl))) s

/-! ### Atomics (R225, R226) -/

/-- The 64-bit value of a popped entry. -/
def ChanEntry.word (e : ChanEntry) : Word := wordOfVec e.v

/-- A place on sr, when one is asked for. -/
def Core.reserveSr (c : Core) (seq : Nat) (rt : Bool) : Except Stop Core :=
  if rt then c.reserve chSr seq (BitVec.allOnes 64) else .ok c

/-- The request of an atomic once its operands are popped. -/
def atomicReqs (op : AtomOp) (b : Fin 16) (cl : Cls) (fmt : Fmt) (rt d64 : Bool) (off : BitVec 24) (v n : Word) (s : State)
    (c : Core) : Except Stop IssueOut := do
  let c ← c.reserveSr s.seq rt
  let va := c.ctx.st.b[b] + off.signExtend 64
  let z := if d64 then 8 else 4
  let (pa, c) ← checkElem s s.cur c cl .rw va z z 0 false
  let r : AtomReq := ⟨op, Fmt.isSigned fmt, z, pa, va, v, n, if rt then some s.seq else none, c.posOf .s⟩
  return .plain c (s.memReqs s.cur c (pasFrom pa z) .atomicPerform (.atom r) (s.latency s.cur cl (pasFrom pa z)))

/-- An atomic of one operand (R225). -/
def atomic1 (op : AtomOp) (b : Fin 16) (cl : Cls) (fmt : Fmt) (rt d64 : Bool) (off : BitVec 24) (s : State) : Out :=
  issue .s (fun s c => do
    legal (c.chanPresent chCs && (!rt || c.chanPresent chSr))
    let (e, c) ← c.pop chCs
    atomicReqs op b cl fmt rt d64 off e.word 0 s c) s

/-- AADD (R226). -/
def execAadd (b : Fin 16) (cl : Cls) (fmt : Fmt) (rt d64 : Bool) (off : BitVec 24) (s : State) : Out :=
  atomic1 .add b cl fmt rt d64 off s
/-- AFADD (R226). -/
def execAfadd (b : Fin 16) (cl : Cls) (fmt : Fmt) (rt d64 : Bool) (off : BitVec 24) (s : State) : Out :=
  atomic1 .fadd b cl fmt rt d64 off s
/-- AMAX (R226). -/
def execAmax (b : Fin 16) (cl : Cls) (fmt : Fmt) (rt d64 : Bool) (off : BitVec 24) (s : State) : Out :=
  atomic1 .max b cl fmt rt d64 off s
/-- AMIN (R226). -/
def execAmin (b : Fin 16) (cl : Cls) (fmt : Fmt) (rt d64 : Bool) (off : BitVec 24) (s : State) : Out :=
  atomic1 .min b cl fmt rt d64 off s
/-- AAND (R226). -/
def execAand (b : Fin 16) (cl : Cls) (fmt : Fmt) (rt d64 : Bool) (off : BitVec 24) (s : State) : Out :=
  atomic1 .and b cl fmt rt d64 off s
/-- AOR (R226). -/
def execAor (b : Fin 16) (cl : Cls) (fmt : Fmt) (rt d64 : Bool) (off : BitVec 24) (s : State) : Out :=
  atomic1 .or b cl fmt rt d64 off s
/-- AXOR (R226). -/
def execAxor (b : Fin 16) (cl : Cls) (fmt : Fmt) (rt d64 : Bool) (off : BitVec 24) (s : State) : Out :=
  atomic1 .xor b cl fmt rt d64 off s
/-- AXCHG (R226). -/
def execAxchg (b : Fin 16) (cl : Cls) (fmt : Fmt) (rt d64 : Bool) (off : BitVec 24) (s : State) : Out :=
  atomic1 .xchg b cl fmt rt d64 off s

/-- The two oldest entries of cs: both are there, or OPERAND_EMPTY (R219, R225). -/
def Core.pop2Cs (c : Core) : Except Stop (Word × Word × Core) := do
  let (e, c) ← c.pop chCs
  let (f, c) ← c.pop chCs
  return (e.word, f.word, c)

/-- ACAS (R226): the older entry is compared, the younger stored. -/
def execAcas (b : Fin 16) (cl : Cls) (fmt : Fmt) (rt d64 : Bool) (off : BitVec 24) (s : State) : Out :=
  issue .s (fun s c => do
    legal (c.chanPresent chCs && (!rt || c.chanPresent chSr))
    let (e, n, c) ← c.pop2Cs
    atomicReqs .cas b cl fmt rt d64 off e n s c) s

/-! ### Sync instructions (R219 to R224) -/

/-- Checks 3 and 4 of R219 on the object: its address, physical address and latency. -/
def syncObject (b : Fin 16) (cl : Cls) (off : BitVec 24) (s : State) (c : Core) : Except Stop (Word × Nat × Nat × Core) := do
  let va := c.ctx.st.b[b] + off.signExtend 64
  if va.toNat % 64 ≠ 0 then .error (.trap .align (accessInfo va 0 false))
  else
    let (pa, c) ← checkBytes s s.cur c cl .rw va 64 0 false
    vaultOnly va 0 pa
    return (va, pa, s.classLat cl, c)

/-- ACQ's and TRYACQ's operand: the target generation popped from cs, when w (R219, R220). -/
def popGen (c : Core) (w : Bool) : Except Stop (Option (BitVec 32) × Core) :=
  if w then do
    legal (c.chanPresent chCs)
    let (e, c) ← c.pop chCs
    return (some (e.word.setWidth 32), c)
  else .ok (none, c)

/-- ACQ (R219, R220). -/
def execAcq (b : Fin 16) (cl : Cls) (gen : Bool) (off : BitVec 24) (s : State) : Out :=
  issue .s (fun s c => do
    let (g, c) ← popGen c gen
    let (va, pa, lat, c) ← syncObject b cl off s c
    return .plain c (s.memReqs s.cur c (pasFrom pa 64) .acqPerform (.acq ⟨pa, va, g, none, c.posOf .s⟩) lat)) s

/-- TRYACQ (R219, R222). -/
def execTryacq (b : Fin 16) (cl : Cls) (gen : Bool) (off : BitVec 24) (s : State) : Out :=
  issue .s (fun s c => do
    legal (c.chanPresent chSr && (!gen || c.chanPresent chCs))
    let (g, c) ← popGen c gen
    let c ← c.reserve chSr s.seq (BitVec.allOnes 64)
    let (va, pa, lat, c) ← syncObject b cl off s c
    return .plain c (s.memReqs s.cur c (pasFrom pa 64) .tryacqPerform (.acq ⟨pa, va, g, some s.seq, c.posOf .s⟩) lat)) s

/-- What an event is about writes memory. -/
def Arg.stores : Arg → Bool
  | .access a => (match a.kind with | .st _ => true | .stn _ => true | _ => false)
  | .atom _ => true
  | .hist .. => true
  | _ => false

/-- An event in which a write of a core's cluster performs (R217). -/
def Pending.isWrite (p : Pending) : Bool := p.ifq && p.arg.stores

/-- The cycles until the last write that the core's clusters have issued performs (R217). -/
def State.writesLeft (s : State) (id : CoreId) : Nat :=
  (s.agenda.filter fun p => p.owner == id && p.isWrite).foldl (fun m p => max m (p.due - s.nowOf p.clk)) 0

/-- REL (R217, R223). -/
def execRel (b : Fin 16) (cl : Cls) (off : BitVec 24) (s : State) : Out :=
  issue .s (fun s c => do
    let (va, pa, lat, c) ← syncObject b cl off s c
    return .plain c (s.memReqs s.cur c (pasFrom pa 64) .releasePoint (.rel ⟨pa, va, c.posOf .s⟩) (max lat (s.writesLeft s.cur)))) s

/-- SOBIND (R219, R224): base from the older entry, length from the younger. -/
def execSobind (b : Fin 16) (cl : Cls) (slot : Fin 4) (off : BitVec 24) (s : State) : Out :=
  issue .s (fun s c => do
    legal (c.chanPresent chCs)
    let (base, len, c) ← c.pop2Cs
    let (va, pa, lat, c) ← syncObject b cl off s c
    if !canonical base.toNat ∨ 2 ^ 47 < len.toNat then .error (.trap .protection (accessInfo va 0 false))
    else return .plain c (s.memReqs s.cur c (pasFrom pa 64) .sobindPerform (.bind ⟨pa, va, slot, base, len, c.posOf .s⟩) lat)) s

/-! ### Address arithmetic and control (R168, R169) -/

/-- SNOP (R169). -/
def execSnop (s : State) : Out := issue .s (fun _ c => .ok (.plain c [])) s

/-- SADDI (R168). -/
def execSaddi (ad as : Fin 16) (imm : BitVec 31) (s : State) : Out :=
  issue .s (fun _ c => .ok (.plain c (bregReq ad (some (c.ctx.st.b[as] + imm.signExtend 64))))) s

/-- SMOVI (R168). -/
def execSmovi (ad : Fin 16) (imm : BitVec 31) (s : State) : Out :=
  issue .s (fun _ c => .ok (.plain c (bregReq ad (some (imm.signExtend 64))))) s

/-- SADD (R168). -/
def execSadd (ad as : Fin 16) (s : State) : Out :=
  issue .s (fun _ c => do
    legal (c.chanPresent chCs)
    let (e, c) ← c.pop chCs
    return .plain c (bregReq ad (some (c.ctx.st.b[as] + e.word)))) s

/-- SPOPC (R168). -/
def execSpopc (ad : Fin 16) (s : State) : Out :=
  issue .s (fun _ c => do
    legal (c.chanPresent chCs)
    let (e, c) ← c.pop chCs
    return .plain c (bregReq ad (some e.word))) s

/-- SJMP (R169). -/
def execSjmp (t : Target) (s : State) : Out := issue .s (fun s c => branchApart .s s c true t []) s

/-- SBDEC (R169). -/
def execSbdec (k : Fin 4) (t : Target) (s : State) : Out :=
  issue .s (fun s c =>
    let n := c.ctx.st.k[k] - 1
    branchApart .s s c (n != 0) t [loopReq .s k n]) s

/-- SLOOPSET (R169). -/
def execSloopset (k : Fin 4) (n : BitVec 13) (t : Target) (s : State) : Out :=
  issue .s (fun s c => branchApart .s s c (n == 0) t [loopReq .s k (n.setWidth 32)]) s

end Sys2Proof.Machine
end

