-- ==== Sys2Proof/Machine/Moulds.lean ====
section
/-! DEFINITION. Moulds: the table, the expansion of short parcels, MLOAD and the mould fences (R54 to R63), and IDLE (R23). -/

namespace Sys2Proof.Machine

open Sys2Proof

/-! ### Fields of the formats (R37 to R42, R49) -/

/-- The formats and layouts of R37 to R42. -/
inductive Format where
  | ca | ci | cl | cs | cm | ce | cb | xv | xi | xp | xe | lq | lg | la | sq | sa | z | qb
  deriving DecidableEq, Repr

/-- The fields of a format below the opcode: low bit and width. -/
def Format.fields : Format → List (Nat × Nat)
  | .ca => [(33, 6), (27, 6), (21, 6), (15, 6), (9, 6)]
  | .ci => [(33, 6), (27, 6), (3, 24), (0, 3)]
  | .cl => [(33, 6), (0, 33)]
  | .cs => [(33, 6), (27, 6), (15, 12), (0, 15)]
  | .cm => [(33, 6), (27, 6), (21, 6), (4, 17), (2, 2), (0, 2)]
  | .ce => [(33, 6), (27, 6), (21, 6), (0, 21)]
  | .cb => [(35, 4), (29, 6), (23, 6), (5, 18), (0, 5)]
  | .xv => [(34, 5), (28, 6), (22, 6), (16, 6), (13, 3), (9, 4), (0, 9)]
  | .xi => [(34, 5), (28, 6), (12, 16), (9, 3), (5, 4), (0, 5)]
  | .xp => [(36, 3), (33, 3), (30, 3), (24, 6), (18, 6), (14, 4), (10, 4), (0, 10)]
  | .xe => [(34, 5), (32, 2), (16, 16), (13, 3), (9, 4), (0, 9)]
  | .lq => [(36, 3), (32, 4), (30, 2), (26, 4), (20, 6), (18, 2), (0, 18)]
  | .lg => [(36, 3), (34, 2), (32, 2), (28, 4), (0, 28)]
  | .la => [(35, 4), (31, 4), (0, 31)]
  | .sq => [(37, 2), (33, 4), (31, 2), (27, 4), (25, 2), (0, 25)]
  | .sa => [(37, 2), (33, 4), (31, 2), (27, 4), (0, 27)]
  | .z => []
  | .qb => [(36, 3), (23, 13), (5, 18), (0, 5)]

/-- a ≤ op ≤ b. -/
def opIn (op a b : Nat) : Bool := decide (a ≤ op) && decide (op ≤ b)

/-- The format of an opcode in a cluster's grid; none where the grid reserves it (R45 to R49). -/
def formatOf (cl : Cluster) (op : Nat) : Option Format :=
  match cl with
  | .c =>
    if op = 0 then some .z
    else if opIn op 0x01 0x1B || opIn op 0x30 0x3B then some .ca
    else if op = 0x29 then some .cl
    else if opIn op 0x20 0x2A then some .ci
    else if opIn op 0x40 0x48 then some .cb
    else if opIn op 0x50 0x52 then some .cm
    else if opIn op 0x54 0x55 || opIn op 0x60 0x64 || opIn op 0x68 0x6C || opIn op 0x70 0x74 || opIn op 0x76 0x7F then some .ce
    else if opIn op 0x58 0x5F then some .cs
    else none
  | .x =>
    if op = 0 || op = 0x75 then some .z
    else if opIn op 0x01 0x12 || opIn op 0x18 0x27 || opIn op 0x30 0x36 || opIn op 0x40 0x46 || opIn op 0x48 0x50
        || opIn op 0x58 0x5B then some .xv
    else if opIn op 0x28 0x2E then some .xi
    else if opIn op 0x38 0x3F then some .xp
    else if opIn op 0x60 0x63 then some .xe
    else if opIn op 0x70 0x74 then some .qb
    else none
  | .l =>
    if op = 0 || op = 0x23 then some .z
    else if opIn op 0x01 0x03 || opIn op 0x06 0x07 then some .lq
    else if opIn op 0x04 0x05 || opIn op 0x08 0x0A || opIn op 0x18 0x1A then some .lg
    else if opIn op 0x10 0x13 then some .la
    else if opIn op 0x20 0x22 then some .qb
    else none
  | .s =>
    if op = 0 || op = 0x33 then some .z
    else if opIn op 0x01 0x05 then some .sq
    else if opIn op 0x08 0x11 || opIn op 0x18 0x1B || op = 0x20 then some .sa
    else if opIn op 0x28 0x2B then some .la
    else if opIn op 0x30 0x32 then some .qb
    else none

/-- The bits pos to pos + w − 1 lie wholly in a field. -/
def inField (pos w : Nat) (f : Nat × Nat) : Bool := decide (f.1 ≤ pos) && decide (pos + w ≤ f.1 + f.2)

/-- The bits touch a field. -/
def touches (pos w : Nat) (f : Nat × Nat) : Bool := decide (pos < f.1 + f.2) && decide (f.1 < pos + w)

/-- The field that a cavity in mode 01 or 10 lies in; none is reason 5 (R57). -/
def cavityField (cl : Cluster) (tmpl pos w : Nat) : Option (Nat × Nat) :=
  let opc := (39, 7)
  let t := (46, 15)
  if inField pos w opc then some opc
  else if inField pos w t then some t
  else if touches pos w opc || touches pos w t then none
  else (formatOf cl (fld tmpl 39 7)).bind fun f => f.fields.find? (inField pos w)

/-- A number with n bits from bit lo replaced. -/
def setField (v lo n x : Nat) : Nat := v - fld v lo n * 2 ^ lo + x % 2 ^ n * 2 ^ lo

/-! ### Expansion (R57) -/

/-- An entry of the table as its 16 bytes (R55). -/
def Ctx.mould (x : Ctx) (m : Nat) : Nat := ((listGet? x.moulds m).getD 0).toNat

/-- The filled long word of an entry and a cavity value, or the reason of MOULD_FORM (R57). -/
def fillMould (cl : Cluster) (e v : Nat) : Except Nat Nat :=
  let tmpl := e % 2 ^ 64
  let d := fld e 64 16
  let pos := fld d 0 6
  let w := fld d 6 3 + 1
  let mode := fld d 9 2
  if fld tmpl 61 3 ≠ 0 then .error 1
  else if mode = 3 then .error 2
  else if 4 < fld d 6 3 ∨ 61 < pos + w then .error 3
  else if fld d 11 5 ≠ 0 ∨ fld e 81 7 ≠ 0 ∨ fld e 88 40 ≠ 0 then .error 4
  else
    let c := v % 2 ^ w
    if mode = 0 then .ok (setField tmpl pos w c)
    else match cavityField cl tmpl pos w with
      | none => .error 5
      | some (f, n) =>
        if mode = 1 then .ok (setField tmpl f n (fld tmpl f n + c))
        else .ok (setField tmpl f n (wrapBits n (toSigned w c)))

/-- TINFO of the mould faults (R58). -/
def mouldInfo (m v : Nat) (stale : Bool) (reason : Nat) : Word :=
  BitVec.ofNat 64 (m + (if stale then 1024 else 0) + reason * 4096 + v * 65536)

/-- SHORT_PARCEL (R57): at E the parcel becomes the long word that issues at I = E + T. -/
def execShortParcel (m : BitVec 10) (v : BitVec 5) (cl : Cluster) (s : State) : Out :=
  let c := s.core s.cur
  let e := c.ctx.mould m.toNat
  let stale := c.ctx.stale[cl.idx]!.contains m.toNat
  if fld e 80 1 = 0 ∨ stale then s.stopIssue cl (.trap .mouldUndefined (mouldInfo m.toNat v.toNat (fld e 80 1 != 0) 0))
  else
    match fillMould cl e v.toNat with
    | .error r => s.stopIssue cl (.trap .mouldForm (mouldInfo m.toNat v.toNat false r))
    | .ok w =>
      if c.inJoined && !c.inHandler && branchOpcode cl (fld w 39 7) then
        let k := match cl with | .c => 0 | .l => 1 | .x => 2 | .s => 3
        s.stopIssue cl (.trap .joinForm (joinInfo 5 k (c.lineOf cl / 4)))
      else
        .next (s.setCore s.cur (c.setStream cl { c.stream cl with latched := some (s.itemCycle s.cur + fld w 46 15, .word w) }))

/-- IDLE (R23): issues and does nothing else, in the cluster whose item issues. -/
def execIdle (_v : BitVec 5) (s : State) : Out := issue s.curCl (fun _ c => .ok (.plain c [])) s

/-! ### MLOAD and the fences (R59 to R61) -/

/-- The entries that a pending MLOAD is still to write. -/
def MloadJob.left (j : MloadJob) : List Nat := ((List.range j.n).drop j.done).map fun k => (j.first + k) % 1024

/-- MLOAD (R59). -/
def execMload (a b : CSrc) (n : BitVec 11) (s : State) : Out :=
  issue .c (fun s c => do
    let (src, first, c) ← readC2 s c a b
    if src.toNat % 16 ≠ 0 then .error (.trap .align s.freeTinfo)
    else if 2 ^ 20 < src.toNat + 16 * n.toNat then .error (.trap .protection s.freeTinfo)
    else if 4 ≤ c.ctx.mloads.length then .error (.trap .queueFull (BitVec.ofNat 64 (29 + 4 * 256)))
    else
      let j : MloadJob := ⟨s.seq, src.toNat, first.toNat % 1024, n.toNat, 0⟩
      let idle := c.ctx.mloads.isEmpty
      let c1 := c.modCtx fun x => { x with
        mloads := x.mloads ++ [j], stale := x.stale.map fun st => j.left.foldl setInsert st }
      return .plain c1 (if idle then [⟨4, none, false, .mouldEntryWrite, .ids j.id 0⟩] else [])) s

/-- A fence of cluster k: its stale bits clear but those of entries with a write pending (R61). -/
def mouldFence (cl : Cluster) (_s : State) (c : Core) : Except Stop IssueOut :=
  let busy := c.ctx.mloads.flatMap MloadJob.left
  .ok (.plain (c.modCtx fun x => { x with
    stale := x.stale.set! cl.idx (x.stale[cl.idx]!.filter fun m => busy.contains m) }) [])

/-- MOULDF (R61). -/
def execMouldf (s : State) : Out := issue .c (mouldFence .c) s
/-- XMOULDF (R61). -/
def execXmouldf (s : State) : Out := issue .x (mouldFence .x) s
/-- LMOULDF (R61). -/
def execLmouldf (s : State) : Out := issue .l (mouldFence .l) s
/-- SMOULDF (R61). -/
def execSmouldf (s : State) : Out := issue .s (mouldFence .s) s

/-- MOULD_ENTRY_WRITE (R59): one entry is copied as the scratchpad stands; then the next, or the next MLOAD's first. Among what
performs in the same cycle a copy stands at the place of issue of its own MLOAD (R105; DEDUCED, log entry 88). -/
def execMouldEntryWrite (s : State) : Out :=
  match s.arg with
  | .ids id k =>
    let c := s.core s.cur
    match c.ctx.mloads with
    | j :: rest =>
      if j.id ≠ id ∨ j.done ≠ k then .refused (.notPending "MOULD_ENTRY_WRITE")
      else
        let bs := s.readAs s.cur (pasFrom (padBase s.cur + (j.src + 16 * k)) 16)
        let m := (j.first + k) % 1024
        let j1 := { j with done := k + 1 }
        let jobs := if j1.done = j.n then rest else j1 :: rest
        let c1 := (c.modCtx fun x => { x with moulds := listSet x.moulds m (BitVec.ofNat 128 (leNat bs)), mloads := jobs }).noteLast s.clock
        let s1 := (s.setCore s.cur c1).noteRead s.cur (pasFrom (padBase s.cur + (j.src + 16 * k)) 16)
        match jobs with
        | [] => .next s1
        | n :: _ =>
          let clk := c.ownClk s.cur
          .next (s1.schedule ⟨clk, s.nowOf clk + 1, s.cur, n.id, false, .mouldEntryWrite, .ids n.id n.done⟩)
    | [] => .refused (.notPending "MOULD_ENTRY_WRITE")
  | _ => .refused (.notPending "MOULD_ENTRY_WRITE")

end Sys2Proof.Machine
end

