-- ==== Sys2Proof/Machine/Perform.lean ====
section
/-! DEFINITION. What happens at perform cycles: loads and stores, translation walks, atomics, histograms, sync objects and
fences (R105, R154, R165, R172, R173, R205 to R207, R214 to R228). -/

namespace Sys2Proof.Machine

open Sys2Proof

/-- The cycle of a core's timeline, or that which the present step, in a member's timeline, stands for (R314). -/
def State.ownNow (s : State) (id : CoreId) : Nat :=
  match s.away with | some v => if s.cur = id then v else s.timeline id | none => s.timeline id

/-- The same cycle by the core's task clock. -/
def State.ownTau (s : State) (id : CoreId) : Nat := (s.core id).ctx.tau + (s.ownNow id - s.timeline id)

/-- A later step of an operation of core cur, d cycles after the present one, in the member's timeline that its bytes belong to (R314,
R315), with its place in the issue order. -/
def State.stepLater (s : State) (ifq : Bool) (ord d : Nat) (pas : List Nat) (ev : Instr) (arg : Arg) : State :=
  match s.accessTarget s.cur (s.core s.cur) pas with
  | some t => (s.schedule ⟨.tl t, s.ownNow s.cur + d, s.cur, ord, ifq, ev, arg⟩).reachesMember t s.cur ord d (s.ownNow s.cur + d) pas
  | none => s.schedule ⟨.tau s.cur, s.ownTau s.cur + d, s.cur, ord, ifq, ev, arg⟩

/-- What performs leaves its place in a core's landing buffer (R314). -/
def State.leaveBuffer (s : State) (o : CoreId) : State :=
  if (s.core o).landing.any fun e => e.ord == s.ord then
    s.modCore o fun c => { c with landing := c.landing.filter fun e => e.ord != s.ord || decide (s.timeline o < e.due) }
  else s

/-- The landing-buffer entry of an access that performs is free again. -/
def State.unbuffer (s : State) (pas : List Nat) : State :=
  match pas with
  | pa :: _ => s.leaveBuffer (paCore pa)
  | [] => s

/-- The first element of an access that an uncorrectable word lies in (R154, R210). -/
def State.badEl (s : State) (els : List El) : Option El := els.find? fun e => s.poisoned e.pas

/-- ECC_UNCORRECTABLE at the perform cycle (R156, R320). -/
def State.eccStop (s : State) (e : El) (pos : Pos) : State :=
  s.takeTrap s.cur .eccUncorrectable (accessInfo e.va e.lane false) pos

/-- The 64-bit value of bytes, sign-extended when asked for (R104). -/
def loadValue (bs : List Byte) (signed : Bool) : Word :=
  if signed then signExt (8 * bs.length) (leNat bs) else BitVec.ofNat 64 (leNat bs)

/-- The lanes of a gather fill its entry; the entry lands with the last of its lanes, once its gather is complete
(R165). -/
def Core.fillLanes (c : Core) (ch id : Nat) (lanes : List Nat) (bs : List Byte) (pendingLanes : Bool) : Core :=
  c.modChan ch fun es => es.map fun e =>
    if e.id = id then
      let v := (lanes.zip (lanesOfBytes bs)).foldl (fun (v : Vec) p => v.set! p.1 p.2) e.v
      { e with v := v, landed := e.cb.isNone && !pendingLanes }
    else e

/-- Another pass of a gather is still to perform into an entry. -/
def State.lanesPending (s : State) (ch id : Nat) : Bool :=
  s.agenda.any fun p => match p.arg with
    | .access a => p.owner == s.cur && (match a.kind with | .ldG ch2 id2 _ _ => ch2 == ch && id2 == id | _ => false)
    | _ => false

/-- The bytes of an access's elements with their addresses. -/
def elBytesAt : List El → List Byte → List ByteWrite
  | [], _ => []
  | e :: es, bs => bytesAt e.pa e.va.toNat (bs.take e.z) ++ elBytesAt es (bs.drop e.z)

/-- STN's merge of one nibble; the other nibble keeps the value that the target holds, whichever agent wrote it (R172, R211). A
single-bit error in the byte read for it is corrected (R210). -/
def State.mergeNibble (s0 : State) (e : El) (hi : Bool) (v : BitVec 4) : State :=
  let s := s0.correct [e.pa]
  let old := (s.byteAt e.pa).toNat
  let b := if hi then old % 16 + v.toNat * 16 else old / 16 * 16 + v.toNat
  s.writeAtomAs s.cur [⟨e.pa, e.va.toNat, BitVec.ofNat 8 b⟩]

/-- A load's data arrives at core cur. -/
def State.loadArrives (s : State) (a : Access) (bs : List Byte) : State :=
  match a.kind with
  | .ldC d chan signed =>
    let v := loadValue bs signed
    s.modCore s.cur fun c =>
      let c1 := c.modCtx fun x => { x with c := x.c.land v d }
      match chan with | some (ch, id) => c1.fill ch id (vecOfWord v) | none => c1
  | .ldQ ch id => s.modCore s.cur fun c => c.fill ch id (vecOfBytes bs)
  | .ldG ch id lanes _ => s.modCore s.cur fun c => c.fillLanes ch id lanes bs (s.lanesPending ch id)
  | _ => s

/-- What comes to core cur as an event performs: at once, or after the resume where the core is stopped (R313). -/
def State.arrives (s : State) (ev : Instr) (arg : Arg) (now : State → State) : State :=
  match s.away with
  | some due => s.schedule ⟨.tl s.cur, due, s.cur, s.ord, true, ev, arg⟩
  | none => now s

/-- ACCESS_PERFORM (R104, R105, R154). -/
def execAccessPerform (s : State) : Out :=
  match s.arg with
  | .access a =>
    let s := s.unbuffer a.pas
    match a.kind, a.data with
    | _, some bs => .next (s.loadArrives a bs)
    | .st bs, none => .next (s.writeAs s.cur (elBytesAt a.els bs))
    | .stn nibs, none => .next ((a.els.zip nibs).foldl (fun t p => t.mergeNibble p.1 p.2.1 p.2.2) s)
    | _, none =>
      match s.badEl a.els with
      | some e => .next (s.eccStop e a.pos)
      | none =>
        let bs := s.readAs s.cur a.pas
        .next ((s.noteRead s.cur a.pas).arrives .accessPerform (.access { a with data := some bs }) fun t => t.loadArrives a bs).tick
  | _ => .refused (.notPending "ACCESS_PERFORM")

/-! ### Translation walks (R205 to R207) -/

/-- What a walk finds in an entry of a level (R206). -/
inductive WalkStep where
  | table (pa : Nat)
  | leaf (e : TlbEntry)
  | fail (reason : Nat)
  deriving DecidableEq, Repr

/-- The page size of a level's leaf, and the size of the table that its pointer names (R205). -/
def levelPage : Nat → Nat
  | 2 => 2 ^ 28 | 3 => 2 ^ 21 | _ => 2 ^ 16
def levelTable : Nat → Nat
  | 1 => 8192 | 2 => 1024 | _ => 256

/-- The checks on an entry (R206). -/
def walkStep (va level e used : Nat) : WalkStep :=
  let addr := fld e 8 44 * 256
  if fld e 0 1 = 0 then .fail 1
  else if fld e 6 2 ≠ 0 ∨ fld e 52 12 ≠ 0 then .fail 2
  else if fld e 1 1 = 1 then
    if level = 1 then .fail 2
    else if addr % levelPage level ≠ 0 then .fail 3
    else .leaf ⟨va % 2 ^ 48 / levelPage level * levelPage level, levelPage level, addr, fld e 2 1 == 1, fld e 3 1 == 1,
      fld e 5 1 == 1, fld e 4 1 == 1, used⟩
  else if level = 4 ∨ fld e 2 4 ≠ 0 then .fail 2
  else if addr % levelTable level ≠ 0 then .fail 3
  else .table addr

/-- The position of the least recently used unpinned entry, the lowest on ties. -/
def lruIndex (es : List TlbEntry) : Option Nat :=
  ((es.zipIdx.filter fun p => !p.1.pinned).foldl (fun (best : Option (TlbEntry × Nat)) p => match best with
    | none => some p
    | some b => if p.1.used < b.1.used then some p else best) none).map (·.2)

/-- A walked entry fills a buffer of n places (R207). A walk does not pin. -/
def tlbFill (n : Nat) (es : List TlbEntry) (e : TlbEntry) : List TlbEntry :=
  if es.length < n then es ++ [e] else match lruIndex es with | some i => es.set i e | none => es

/-- The task clock goes on; in handler mode, which counts domain cycles, the waiting item issues now (R308). -/
def State.unpause (s : State) (c : Core) : Core :=
  let c1 := c.modCtx fun x => { x with pause := none }
  if c.inHandler then
    let st := c1.stream .c
    c1.setStream .c { st with reach := max st.reach s.clock, latched := st.latched.map fun l => (max l.1 s.clock, l.2) }
  else c1

/-- TRANSLATION_WALK_END (R207): a level's entry is read, a single-bit error in it corrected (R210); the walk goes on, fills the buffer, or fails, and the item that
waits is checked afresh. -/
def execTranslationWalkEnd (s0 : State) : Out :=
  match (s0.core s0.cur).ctx.pause with
  | some (.walk w) =>
    let s := s0.correct (pasFrom w.entryPa 8)
    let c := s.core s.cur
    if s.poisoned (pasFrom w.entryPa 8) then
      .next ((s.setCore s.cur (s.unpause c)).takeTrap s.cur .eccUncorrectable (accessInfo (BitVec.ofNat 64 w.va) w.lane w.progress) w.pos)
    else
      match walkStep w.va w.level (s.numFrom w.entryPa 8) s.seq with
      | .table pa =>
        let w1 := { w with level := w.level + 1, table := pa }
        .next ((s.setCore s.cur (c.modCtx fun x => { x with pause := some (.walk w1) })).scheduleDom s.cur
          (nearestLatency s.flat s.cur w1.entryPa) .translationWalkEnd .none)
      | .leaf e =>
        let e := { e with pinned := false }
        let c1 := { s.unpause c with tlb := tlbFill 256 c.tlb e }
        .next (s.setCore s.cur (c1.modCtx fun x => { x with found := x.found ++ [e] }))
      | .fail reason =>
        let c1 := (s.unpause c).modCtx fun x => { x with walkFail := some (w.va % 2 ^ 48 / 65536, w.level, reason) }
        .next (s.setCore s.cur c1)
  | _ => .refused (.notPending "TRANSLATION_WALK_END")

/-- Where a virtual address lies by the tables in memory, level by level. -/
def walkTables (s : State) (va : Nat) : Nat → Nat → Nat → Option TlbEntry
  | 0, _, _ => none
  | fuel + 1, level, table =>
    let w : Walk := ⟨va, level, table, 0, false, ⟨.c, 0, 0⟩⟩
    match walkStep va level (s.numFrom w.entryPa 8) 0 with
    | .table pa => walkTables s va fuel (level + 1) pa
    | .leaf e => some e
    | .fail _ => none

/-- A core's virtual address names a physical byte, by its buffer or its tables (R205, R207). -/
def State.names (s : State) (id : CoreId) (va pa : Nat) : Bool :=
  let c := s.core id
  if windowBase ≤ va then pa == padBase id + va % 2 ^ 20
  else
    let v := va % 2 ^ 48
    match c.lookup v with
    | some e => pa == e.pa + (v - e.va)
    | none => !c.isLocked && (match walkTables s v 4 1 (c.ptroot.toNat % 2 ^ 52 / 2 ^ 13 * 2 ^ 13) with
        | some e => pa == e.pa + (v - e.va)
        | none => false)

/-! ### Atomics (R173, R226) -/

/-- The new value of an atomic (R226); operands take their low z bytes. -/
def atomNew (r : AtomReq) (old : Nat) : Nat :=
  let w := 8 * r.size
  let v := r.v.toNat % 2 ^ w
  let n := r.n.toNat % 2 ^ w
  let lt := fun a b => if r.signed then decide (toSigned w a < toSigned w b) else decide (a < b)
  match r.op with
  | .add => (old + v) % 2 ^ w
  | .fadd => (fadd (BitVec.ofNat 32 old) (BitVec.ofNat 32 v)).toNat
  | .max => if lt old v then v else old
  | .min => if lt v old then v else old
  | .and => old &&& v
  | .or => old ||| v
  | .xor => old ^^^ v
  | .xchg => v
  | .cas => if old = v then n else old

/-- ATOMIC_PERFORM (R226). -/
def execAtomicPerform (s : State) : Out :=
  match s.arg with
  | .atom r =>
    let pas := pasFrom r.pa r.size
    let s := s.unbuffer pas
    if s.poisoned pas then
      .next (s.eccStop ⟨r.va, r.size, 0, r.pa⟩ r.pos)
    else
      let old := leNat (s.readAtomAs s.cur pas)
      let s1 := (s.noteRead s.cur pas).writeAtomAs s.cur (bytesAt r.pa r.va.toNat (leBytes (atomNew r old) r.size))
      .next (match r.ret with
        | some id =>
          let v := vecOfWord (BitVec.ofNat 64 old)
          s1.arrives .channelEntryLanding (.chan chSr.val id v) fun t => t.modCore t.cur fun c => c.fill chSr.val id v
        | none => s1).tick
  | _ => .refused (.notPending "ATOMIC_PERFORM")

/-- AHIST_PERFORM (R173): each active lane is added to its word at the vault. -/
def execAhistPerform (s : State) : Out :=
  match s.arg with
  | .hist pa va v mask pos =>
    let lanes := activeLanes mask
    let s := s.unbuffer [pa]
    match s.badEl (lanes.map fun j => ⟨va + BitVec.ofNat 64 (4 * j), 4, j, pa + 4 * j⟩) with
    | some e => .next (s.eccStop e pos)
    | none =>
      .next (lanes.foldl (fun (t : State) j =>
        let p := pa + 4 * j
        let old := leNat (t.readAtomAs t.cur (pasFrom p 4))
        (t.noteRead t.cur (pasFrom p 4)).writeAtomAs t.cur
          (bytesAt p (va.toNat + 4 * j) (leBytes ((old + laneNat v j) % 2 ^ 32) 4))) s).tick
  | _ => .refused (.notPending "AHIST_PERFORM")

/-! ### Sync objects (R214 to R218) -/

/-- The kinds of R214. -/
inductive SoKind where
  | mutex | barrier | event
  deriving DecidableEq, Repr

/-- A well-formed sync object (R214): its ranges as (base, length). -/
structure SyncObj where
  g : Nat
  h : Nat
  kind : SoKind
  n : Nat
  ranges : List (Nat × Nat)
  deriving DecidableEq, Repr

/-- The object at an address, or none when it is malformed (R214). -/
def State.syncObj (s : State) (pa : Nat) : Option SyncObj :=
  let num := fun o k => s.numFrom (pa + o) k
  let kind := match num 8 1 with | 0 => some SoKind.mutex | 1 => some SoKind.barrier | 2 => some SoKind.event | _ => none
  let ranges := (List.range 4).map fun k =>
    let b := num (0x10 + 12 * k) 6
    ((if b < 2 ^ 47 then b else b + (2 ^ 64 - 2 ^ 48)), num (0x16 + 12 * k) 6)
  match kind with
  | none => none
  | some k =>
    let o : SyncObj := ⟨num 0 4, num 4 4, k, num 0xC 4, ranges⟩
    let ok := match k with
      | .mutex => true
      | .barrier => decide (1 ≤ o.n) && decide (o.n ≤ 393216) && decide (o.h < o.n)
      | .event => o.h == 0
    if num 9 3 = 0 ∧ ok ∧ ranges.all fun r => decide (r.2 ≤ 2 ^ 47) then some o else none

/-- The holder number of a core (R214). -/
def holderOf (c : CoreId) : Nat := 1 + 96 * c.die + c.core

/-- Fields G and H written back. -/
def State.putSync (s : State) (pa : Nat) (g h : Nat) : State :=
  { s with mem := s.stored pa (leBytes g 4 ++ leBytes h 4) }

/-- The acquire's test (R215); none when w does not match the kind. -/
def SyncObj.test (o : SyncObj) (gen : Option (BitVec 32)) : Option Bool :=
  match o.kind, gen with
  | .mutex, none => some (o.h == 0)
  | .mutex, some _ => none
  | _, some g => some (decide ((o.g + 2 ^ 32 - g.toNat) % 2 ^ 32 < 2 ^ 31))
  | _, none => none

/-- The span of an entry of a table and the number of its entries, by level (R205). -/
def levelSpan : Nat → Nat × Nat
  | 1 => (2 ^ 38, 1024) | 2 => (2 ^ 28, 1024) | 3 => (2 ^ 21, 128) | _ => (2 ^ 16, 32)

/-- The addresses from lo to below hi that the tables translate to a physical address (R205). -/
def tableAliases (s : State) (pa lo hi : Nat) : Nat → Nat → Nat → Nat → List Nat
  | 0, _, _, _ => []
  | fuel + 1, level, table, base =>
    let (span, count) := levelSpan level
    let first := (lo - base) / span
    let last := min count ((hi - base + span - 1) / span)
    (List.range (last - first)).flatMap fun k =>
      let va := base + (first + k) * span
      match walkStep va level (s.numFrom (Walk.entryPa ⟨va, level, table, 0, false, ⟨.c, 0, 0⟩⟩) 8) 0 with
      | .table t => tableAliases s pa lo hi fuel (level + 1) t va
      | .leaf e => if e.pa ≤ pa ∧ pa < e.pa + e.size then [e.va + (pa - e.pa)] else []
      | .fail _ => []

/-- A 48-bit address as it is written out in 64 bits. -/
def extend48 (v : Nat) : Nat := if v < 2 ^ 47 then v else v + (2 ^ 64 - 2 ^ 48)

/-- A physical byte lies in a range of virtual addresses of a core: through its scratchpad window, its buffer or its tables
(R197, R205, R207). -/
def State.inRange (s : State) (id : CoreId) (g : Nat × Nat) (pa : Nat) : Bool :=
  let c := s.core id
  let hit := fun (va : Nat) => decide (g.1 ≤ va) && decide (va < g.1 + g.2) && s.names id va pa
  let lo := g.1 % 2 ^ 48
  (ownPad id pa && hit (windowBase + paOff pa)) ||
  (c.tlb.any fun e => decide (e.pa ≤ pa) && decide (pa < e.pa + e.size) && hit (extend48 (e.va + (pa - e.pa)))) ||
  (!c.isLocked && (tableAliases s pa lo (min (2 ^ 48) (lo + g.2)) 4 1 (c.ptroot.toNat % 2 ^ 52 / 2 ^ 13 * 2 ^ 13) 0).any fun va => hit (extend48 va))

/-- A written byte lies in an object's ranges, as a core sees them (R214, R217, R218). -/
def State.inRanges (s : State) (id : CoreId) (o : SyncObj) (r : WriteRec) : Bool := o.ranges.any fun g => s.inRange id g r.pa

/-- A successful acquire: the object's change and the visibility of what its releases published (R215, R218). -/
def State.acquire (s : State) (id : CoreId) (pa : Nat) (o : SyncObj) : State :=
  let s1 := if o.kind = .mutex then s.putSync pa o.g (holderOf id) else s
  s1.reveal id fun r => r.pubs.contains pa && s.inRanges id o r

/-- PROTECTION of an object's operation (R156, R214). -/
def State.syncStop (s : State) (va : Word) (pos : Pos) : State := s.takeTrap s.cur .protection (accessInfo va 0 false) pos

/-- The object meets an uncorrectable word. -/
def State.syncEcc (s : State) (pa : Nat) (va : Word) : Option El := s.badEl ((List.range 8).map fun i => ⟨va, 8, 0, pa + 8 * i⟩)

/-- ACQ_PERFORM (R220). -/
def execAcqPerform (s : State) : Out :=
  match s.arg with
  | .acq r =>
    let s := (s.unbuffer [r.pa]).noteRead s.cur (pasFrom r.pa 64)
    match s.syncEcc r.pa r.va with
    | some e => .next (s.eccStop e r.pos)
    | none =>
      match (s.syncObj r.pa).bind fun o => (o.test r.gen).map fun b => (o, b) with
      | none => .next (s.syncStop r.va r.pos)
      | some (o, true) => .next (s.acquire s.cur r.pa o)
      | some (o, false) =>
        if (s.core s.cur).isLocked then .next (s.takeTrap s.cur .syncLate (BitVec.ofNat 64 (o.g + o.h * 2 ^ 32)) r.pos)
        else .next (s.modCore s.cur fun c => c.modCtx fun x => { x with pause := some (.acquire r s.clock s.ord) })
  | _ => .refused (.notPending "ACQ_PERFORM")

/-- The object of a blocked acquire now answers its test with success. -/
def State.acqTest (s : State) (r : AcqReq) : Bool := match (s.syncObj r.pa).bind fun o => o.test r.gen with | some b => b | none => false

/-- A retest of the blocked acquire of a core has something to tell: it succeeds, in a cycle after the one in which it began to wait
(R220), or its reading of the object meets an error (R210). -/
def State.acqReady (s : State) (id : CoreId) : Bool :=
  match (s.core id).ctx.pause with
  | some (.acquire r since _) =>
    decide (since < s.clock) && !(s.core id).stopped &&
      (s.acqTest r || (s.syncEcc r.pa r.va).isSome || (pasFrom r.pa 64).any fun pa => s.soft.contains (eccWord pa))
  | _ => false

/-- ACQ_SUCCESS (R216, R221): the task clock resumes in the next cycle. What the retest reads is corrected, and an uncorrectable word is
ECC_UNCORRECTABLE (R210, R320). -/
def execAcqSuccess (s : State) : Out :=
  match (s.core s.cur).ctx.pause with
  | some (.acquire r _ _) =>
    if !s.acqReady s.cur then .refused (.notPending "ACQ_SUCCESS")
    else
      let s1 := s.noteRead s.cur (pasFrom r.pa 64)
      match s1.syncEcc r.pa r.va with
      | some e => .next (s1.eccStop e r.pos)
      | none =>
        match s1.syncObj r.pa with
        | some o =>
          if s1.acqTest r then
            .next ((s1.acquire s1.cur r.pa o).modCore s1.cur fun c => c.modCtx fun x => { x with pause := some (.resume (s1.clock + 1)) })
          else .next s1
        | none => .next s1
  | _ => .refused (.notPending "ACQ_SUCCESS")

/-- TRYACQ_PERFORM (R222). -/
def execTryacqPerform (s : State) : Out :=
  match s.arg with
  | .acq r =>
    let s := (s.unbuffer [r.pa]).noteRead s.cur (pasFrom r.pa 64)
    let put := fun (t : State) (v : Word) => match r.chan with
      | some id => t.arrives .channelEntryLanding (.chan chSr.val id (vecOfWord v)) fun u =>
          u.modCore u.cur fun c => c.fill chSr.val id (vecOfWord v)
      | none => t
    let drop := fun (t : State) => match r.chan with
      | some id => t.modCore t.cur fun c => c.unreserve chSr.val id
      | none => t
    match s.syncEcc r.pa r.va with
    | some e => .next ((drop s).eccStop e r.pos)
    | none =>
      match (s.syncObj r.pa).bind fun o => (o.test r.gen).map fun b => (o, b) with
      | none => .next ((drop s).syncStop r.va r.pos)
      | some (o, true) => .next (put (s.acquire s.cur r.pa o) 1)
      | some (_, false) => .next (put s 0)
  | _ => .refused (.notPending "TRYACQ_PERFORM")

/-- RELEASE_POINT (R215, R217, R223). -/
def execReleasePoint (s : State) : Out :=
  match s.arg with
  | .rel r =>
    let s := (s.unbuffer [r.pa]).noteRead s.cur (pasFrom r.pa 64)
    match s.syncEcc r.pa r.va with
    | some e => .next (s.eccStop e r.pos)
    | none =>
      match s.syncObj r.pa with
      | none => .next (s.syncStop r.va r.pos)
      | some o =>
        if o.kind = .mutex ∧ o.h ≠ holderOf s.cur then .next (s.syncStop r.va r.pos)
        else
          let led := s.ledger.map fun w =>
            if w.visible s.cur && s.inRanges s.cur o w && !w.pubs.contains r.pa then { w with pubs := r.pa :: w.pubs } else w
          let s1 := { s with ledger := led }
          .next (match o.kind with
            | .mutex => s1.putSync r.pa ((o.g + 1) % 2 ^ 32) 0
            | .barrier => if o.h + 1 = o.n then s1.putSync r.pa ((o.g + 1) % 2 ^ 32) 0 else s1.putSync r.pa o.g (o.h + 1)
            | .event => s1.putSync r.pa ((o.g + 1) % 2 ^ 32) o.h)
  | _ => .refused (.notPending "RELEASE_POINT")

/-- SOBIND_PERFORM (R224). -/
def execSobindPerform (s : State) : Out :=
  match s.arg with
  | .bind r =>
    let s := (s.unbuffer [r.pa]).noteRead s.cur (pasFrom r.pa 64)
    match s.syncEcc r.pa r.va with
    | some e => .next (s.eccStop e r.pos)
    | none =>
      match s.syncObj r.pa with
      | none => .next (s.syncStop r.va r.pos)
      | some _ =>
        let bs := leBytes (r.base.toNat % 2 ^ 48) 6 ++ leBytes r.len.toNat 6
        .next { s with mem := s.stored (r.pa + 0x10 + 12 * r.slot.val) bs }
  | _ => .refused (.notPending "SOBIND_PERFORM")

/-- FENCE_COMPLETE (R228). -/
def execFenceComplete (s : State) : Out :=
  match s.arg with
  | .scope sc => .next (s.fence s.cur sc)
  | _ => .refused (.notPending "FENCE_COMPLETE")

/-- LANDING_BUFFER_ARRIVAL (R314): what reaches a core whose timeline stands still waits there. -/
def execLandingBufferArrival (s : State) : Out :=
  match s.arg with
  | .arrival t a =>
    if (s.core t).stopped && decide (s.timeline t ≤ a.due) then
      .next (s.modCore t fun c => { c with landing := if c.landing.contains a then c.landing else c.landing ++ [a] })
    else .next s
  | _ => .refused (.notPending "LANDING_BUFFER_ARRIVAL")

end Sys2Proof.Machine
end

