-- ==== Sys2Proof/Machine/Engines.lean ====
section
/-! DEFINITION. What the engines share: accepted requests and their clocks, their reads and writes (R230, R237, R314,
R315), the markers and the rendezvous (R231, R232), and the waits of C (R109, R232). -/

namespace Sys2Proof.Machine

open Sys2Proof

/-- An accepted request. -/
def State.job? (s : State) (id : Nat) : Option Job := s.jobs.find? fun (j : Job) => j.id == id

/-- A request's new state. -/
def State.setJob (s : State) (j : Job) : State := { s with jobs := s.jobs.map fun (k : Job) => if k.id = j.id then j else k }

/-- The body of a request changed. -/
def State.modJob (s : State) (id : Nat) (f : JobBody → JobBody) : State :=
  { s with jobs := s.jobs.map fun (k : Job) => if k.id = id then { k with body := f k.body } else k }

/-- A request that is done. -/
def State.dropJob (s : State) (id : Nat) : State := { s with jobs := s.jobs.filter fun (j : Job) => j.id != id }

/-- The live requests of a core. -/
def State.jobsOf (s : State) (id : CoreId) : List Job := s.jobs.filter fun (j : Job) => j.owner == id && j.live

/-- A step of a request at cycle v of its task's clock, d cycles after the present one: in the timeline of the member of
the lock group that its bytes belong to (R314, R315), and in domain cycles once the task is gone (R296). -/
def State.chain (s : State) (j : Job) (v d : Nat) (pas : List Nat) (ev : Instr) (arg : Arg) : State :=
  let c := s.core j.owner
  if !j.live then s.schedule ⟨.dom, s.clock + d, j.owner, j.id, false, ev, arg⟩
  else match s.accessTarget j.owner c pas with
    | some t =>
      let due := s.timeline j.owner + v - c.ctx.tau
      (s.schedule ⟨.tl t, due, j.owner, j.id, false, ev, arg⟩).reachesMember t j.owner j.id d due pas
    | none => s.schedule ⟨.tau j.owner, v, j.owner, j.id, false, ev, arg⟩

/-- The present cycle of a request's clock. -/
def State.taskNow (s : State) (j : Job) : Nat := if j.live then (s.core j.owner).ctx.tau else s.clock

/-- The cycle of a request's clock; of a step that performs in a member's timeline, the cycle of its own task's that it stands
for (R314, R315). -/
def State.jobNow (s : State) (j : Job) : Nat :=
  if !j.live then s.clock else s.ownTau j.owner

/-- The next step of a request d cycles after the present one, with the bytes that it reaches. -/
def State.chainIn (s : State) (j : Job) (d : Nat) (pas : List Nat) (ev : Instr) (arg : Arg) : State :=
  s.chain j (s.jobNow j + d) d pas ev arg

/-- The bytes that a request of a core reads: what an uncorrectable word gives is open (R320). -/
def State.engineBytes (s : State) (owner : CoreId) (pas : List Nat) : List Byte :=
  pas.map fun pa =>
    if s.poison.contains (eccWord pa) then BitVec.ofNat 8 (Config.freeNat s.ctr pa) else (s.readAs owner [pa]).headD 0

/-- The index of the first byte that lies in an uncorrectable word. -/
def State.firstBad (s : State) (pas : List Nat) : Option Nat := pas.findIdx? fun pa => s.poison.contains (eccWord pa)

/-- A request reads bytes; an uncorrectable word raises ECC_UNCORRECTABLE in its task, if that still runs (R237, R320). -/
def State.engineRead (s : State) (j : Job) (va : Nat → Nat) (pas : List Nat) (pos : Pos) : List Byte × State :=
  let bs := s.engineBytes j.owner pas
  let s1 := if j.live then (s.noteRead j.owner pas).tick else (s.correct pas).tick
  match s.firstBad pas with
  | some k => (bs, if j.live then s1.takeTrap j.owner .eccUncorrectable (accessInfo (BitVec.ofNat 64 (va k)) 0 false) pos else s1)
  | none => (bs, s1)

/-- The bytes of an anchor as an atomic reads them, for a request: what an uncorrectable word gives is open (R227, R320). -/
def State.anchorBytes (s : State) (owner : CoreId) (pas : List Nat) : List Byte :=
  pas.map fun pa =>
    if s.poison.contains (eccWord pa) then BitVec.ofNat 8 (Config.freeNat s.ctr pa) else (s.readAtomAs owner [pa]).headD 0

/-- A request reads bytes by their physical address, as an atomic or plainly; no rule gives TINFO for an uncorrectable word
(R237, R320; log entry 10). -/
def State.engineReadPa (s : State) (j : Job) (atom : Bool) (pas : List Nat) (pos : Pos) : List Byte × State :=
  let bs := if atom then s.anchorBytes j.owner pas else s.engineBytes j.owner pas
  let s1 := if j.live then (s.noteRead j.owner pas).tick else (s.correct pas).tick
  match s.firstBad pas with
  | some _ => (bs, if j.live then s1.tick.takeTrap j.owner .eccUncorrectable s1.freeTinfo pos else s1)
  | none => (bs, s1)

/-- A step of a core's request meets a missing translation: a walk begins, unless the task clock stands already, and the
step is taken again once it goes on (R207). -/
def State.engineWalk (s : State) (job : Job) (ev : Instr) (w : Walk) : State :=
  let p : Pending := ⟨.tau job.owner, 0, job.owner, job.id, false, ev, s.arg⟩
  let c := s.core job.owner
  let s1 := s.modCore job.owner fun c => c.modCtx fun x => { x with retry := x.retry ++ [p] }
  if c.ctx.pause.isSome then s1 else s1.startWalk job.owner { w with pos := c.posOf .c }

/-- The steps that waited are due again in the core whose task clock goes on. -/
def State.requeue (s : State) : State :=
  let ready := fun (c : Core) => !c.tauStands && !c.ctx.retry.isEmpty
  let back := s.cores.flatMap fun e => if ready e.2 then e.2.ctx.retry.map fun p => { p with due := e.2.ctx.tau } else []
  if back.isEmpty then s
  else { s with
    agenda := s.agenda ++ back
    cores := s.cores.map fun e => if ready e.2 then (e.1, e.2.modCtx fun x => { x with retry := [] }) else e }

/-- Where a virtual address lies, by the buffer, a pipe or the tables, without a check or a walk. -/
def State.whereIs (s : State) (id : CoreId) (va : Word) : Option Nat :=
  let v := va.toNat
  let c := s.core id
  if windowBase ≤ v then some (padBase id + v % 2 ^ 20)
  else
    let w := v % 2 ^ 48
    let pipes := (c.ctx.mat.pipeA ++ c.ctx.mat.pipeB).find? fun e => e.covers w && (!c.isLocked || e.pinned)
    match (c.lookup w).orElse fun _ => pipes with
    | some e => some (e.pa + (w - e.va))
    | none => if c.isLocked then none
      else (walkTables s w 4 1 (c.ptroot.toNat % 2 ^ 52 / 2 ^ 13 * 2 ^ 13)).map fun e => e.pa + (w - e.va)

/-- Physical addresses with virtual ones and values, as writes. -/
def writesAt (pas : List Nat) (va : Nat) (bs : List Byte) : List ByteWrite :=
  (pas.zip bs).zipIdx.map fun e => ⟨e.1.1, va + e.2, e.1.2⟩

/-- Bytes i to i + n − 1 of a range given by its pieces. -/
def segCut (segs : List Seg) (i n : Nat) : List Seg :=
  (segs.filter fun g => decide (i < g.off + g.len) && decide (g.off < i + n)).map fun g =>
    let a := max i g.off
    let b := min (i + n) (g.off + g.len)
    ⟨a - i, b - a, g.pa + (a - g.off)⟩

/-- All the bytes of a range. -/
def segsPas (segs : List Seg) : List Nat := segs.flatMap fun g => pasFrom g.pa g.len

/-! ### Markers and the rendezvous (R231, R232) -/

/-- The engine of a request by its bit in a marker's mask; page instructions are the attention engines' (R272). -/
def JobBody.engine : JobBody → Nat
  | .copy _ => 0 | .page _ => 2 | .attn _ => 2 | .cast _ => 3 | .coll _ => 4

/-- The commands of a core that its engines still work on, by number, with their engines. The matrix unit's count until
they have released their tiles, and its stores until they perform. -/
def State.busyIds (s : State) (id : CoreId) : List (Nat × Nat) :=
  let x := (s.core id).ctx
  (s.jobsOf id).map (fun j => (j.id, j.body.engine)) ++ (x.mat.walks.map fun w => (w.id, 1)) ++
  (x.mat.cmds.map fun c => (c.walk, 1)) ++ (x.mat.ops.map fun i => (i, 1)) ++
  ((x.mat.owns.filter fun o => match o.until_ with | none => true | some u => decide (x.tau ≤ u)).map fun o => (o.id, 1)) ++
  ((s.agenda.filter fun p => p.owner == id && !p.ifq && p.ev == .accessPerform).map fun p => (p.ord, 1))

/-- The commands of an engine that a marker stands behind. -/
def State.behind (s : State) (id : CoreId) (e : Nat) : List Nat :=
  ((s.busyIds id).filter fun b => b.2 == e).map (·.1)

/-- The engines of a mask. -/
def maskEngines (m : BitVec 5) : List Nat := (List.range 5).filter fun e => m.getLsbD e

/-- MARK (R231). -/
def execMark (m : BitVec 12) (mask : BitVec 5) (s : State) : Out :=
  issue .c (fun s c => do
    engineOk c
    match (maskEngines mask).find? fun e => decide (8 ≤ c.ctx.markers[e]!.length) with
    | some e => .error (.trap .queueFull (BitVec.ofNat 64 (19 + e * 32 + 8 * 256)))
    | none =>
      let put := fun (ms : Vector (List Marker) 5) e => ms.set! e (ms[e]! ++ [⟨m, s.behind s.cur e, c.ctx.tau + 1⟩])
      return .plain (c.modCtx fun x => { x with markers := (maskEngines mask).foldl put x.markers }) []) s

/-- The oldest marker of an engine may retire. -/
def State.markerReady (s : State) (id : CoreId) (e : Nat) : Bool :=
  let c := s.core id
  !c.tauStands && (match c.ctx.markers[e]! with
    | [] => false
    | m :: _ => decide (m.earliest ≤ c.ctx.tau) && !(s.busyIds id).any fun b => m.behind.contains b.1)

/-- MARKER_RETIRE (R231): the oldest marker of the engine that the event names retires. -/
def execMarkerRetire (s : State) : Out :=
  match s.arg with
  | .ids e _ =>
    if s.markerReady s.cur e then
      .next (s.modCore s.cur fun c => c.modCtx fun x =>
        match x.markers[e]! with
        | m :: rest => { x with markers := x.markers.set! e rest, sys := { x.sys with rdv := x.sys.rdv.set! e m.m } }
        | [] => x)
    else .refused (.notPending "MARKER_RETIRE")
  | _ => .refused (.notPending "MARKER_RETIRE")

/-- The named engines whose field in RDV fails the condition of R232, as a mask. -/
def Ctx.rdvFails (x : Ctx) (m mask : Nat) : Nat :=
  (List.range 5).foldl (fun acc e =>
    if mask / 2 ^ e % 2 = 1 ∧ 2048 ≤ (x.sys.rdv[e]!.toNat + 4096 - m % 4096) % 4096 then acc + 2 ^ e else acc) 0

/-- RDVW (R232). -/
def execRdvw (m : BitVec 12) (mask : BitVec 5) (s : State) : Out :=
  issue .c (fun _ c => do
    engineOk c
    let bad := c.ctx.rdvFails m.toNat mask.toNat
    if bad = 0 then return .plain c []
    else if c.isLocked then .error (.trap .syncLate (BitVec.ofNat 64 (m.toNat + bad * 65536)))
    else return ⟨c, [], .wait (.rdvw m.toNat mask.toNat), none, [], []⟩) s

/-! ### The waits of C end (R109, R232) -/

/-- The C stream goes on: its next item reaches issue now, with the checks that R241 puts there. -/
def State.wake (s : State) (check : Option (Nat × Nat)) : State :=
  s.modCore s.cur fun c =>
    c.setStream .c { c.stream .c with mode := .run, reach := c.ctx.tau, check := check }

/-- The condition on which a waiting C stream wakes; none when it does not wait on the kind asked for. -/
def State.cWait (s : State) (id : CoreId) : Option Wait :=
  let c := s.core id
  match (c.stream .c).mode with
  | .wait w => if c.stopped then none else some w
  | _ => none

/-- SLEEPU_WAKE (R109). -/
def execSleepuWake (s : State) : Out :=
  match s.cWait s.cur with
  | some (.sleepu v) => if v ≤ s.framecnt s.cur then .next (s.wake (some (1, v))) else .refused (.notPending "SLEEPU_WAKE")
  | _ => .refused (.notPending "SLEEPU_WAKE")

/-- WAITF_WAKE (R109). -/
def execWaitfWake (s : State) : Out :=
  match s.cWait s.cur with
  | some (.waitf w) => if w ≤ s.framecnt s.cur then .next (s.wake none) else .refused (.notPending "WAITF_WAKE")
  | _ => .refused (.notPending "WAITF_WAKE")

/-- RDVW_WAKE (R232). -/
def execRdvwWake (s : State) : Out :=
  let c := s.core s.cur
  match s.cWait s.cur with
  | some (.rdvw m mask) =>
    if !c.tauStands && c.ctx.rdvFails m mask = 0 then .next (s.wake none) else .refused (.notPending "RDVW_WAKE")
  | _ => .refused (.notPending "RDVW_WAKE")

end Sys2Proof.Machine
end

