-- ==== Sys2Proof/Machine/Copy.lean ====
section
/-! DEFINITION. The copy engine: CPY, its beats, batches, missed promises and integrity (R237 to R244). -/

namespace Sys2Proof.Machine

open Sys2Proof

/-- The pending copies of a core, oldest first (R238). -/
def State.copies (s : State) (id : CoreId) : List (Nat × CopyJob) :=
  (s.jobsOf id).filterMap fun j => match j.body with | .copy k => some (j.id, k) | _ => none

def Core.modCopy (c : Core) (f : CopyState → CopyState) : Core := c.modCtx fun x => { x with copy := f x.copy }

/-- A copy that opens a prefetch record (R243): the 33rd evicts the oldest, and a read of the issue's own cycle is its
first use. -/
def CopyState.openRecord (k : CopyState) (r : PfRec) (tau : Nat) : CopyState :=
  let k := { k with issued := satInc k.issued }
  if k.readAt.1 = tau ∧ k.readAt.2.any (segsHold r.dst) then k.close r tau
  else
    let k1 := if 32 ≤ k.records.length then { k with records := k.records.drop 1, evicted := satInc k.evicted } else k
    { k1 with records := k1.records ++ [r] }

/-- The checks of R238 on alignment and length. -/
def copyForm (src dst len : Word) : Except Stop Unit :=
  if src.toNat % 8 ≠ 0 then .error (.trap .align (accessInfo src 0 false))
  else if dst.toNat % 8 ≠ 0 then .error (.trap .align (accessInfo dst 0 false))
  else if len.toNat % 8 ≠ 0 then .error (.trap .align (accessInfo src 0 false))
  else if 2 ^ 24 < len.toNat then .error (.trap .protection (accessInfo src 0 false))
  else .ok ()

/-- The first address of the page that contains an address, as far as the buffer knows the page; else that of its 64 KiB (R205). -/
def Core.pageFirst (c : Core) (v : Nat) : Nat :=
  match if windowBase ≤ v then none else c.lookup (v % 2 ^ 48) with
  | some e => v - (v % 2 ^ 48 - e.va)
  | none => v / 65536 * 65536

/-- A stop with other trap information. -/
def Stop.at_ (info : Word) : Stop → Stop
  | .trap cause _ => .trap cause info
  | .lockedMiss _ => .lockedMiss info
  | e => e

/-- The checks 2 to 5 of R154 on a range of a copy, page by page; a fault names the first address of its page, which is the last page
of the space for a range that runs past it (R238; log entry 103). -/
def checkCopy (s : State) (id : CoreId) (cl : Cls) (perm : Perm) (va : Word) :
    Nat → Nat → Nat → Core → Except Stop (List Seg × Core)
  | 0, _, _, c => .ok ([], c)
  | fuel + 1, off, len, c =>
    if len = 0 then .ok ([], c)
    else
      let v := va.toNat + off
      let z := min len (65536 - v % 65536)
      let info := fun (v : Nat) => accessInfo (BitVec.ofNat 64 v) 0 false
      if 2 ^ 64 ≤ v then .error (.trap .protection (info (2 ^ 64 - 65536)))
      else if v = windowBase ∧ off ≠ 0 then .error (.trap .protection (info v))
      else match checkBytes s id c cl perm (BitVec.ofNat 64 v) z 0 false with
        | .error e => .error (e.at_ (info (c.pageFirst v)))
        | .ok (pa, c1) => do
          let (rest, c2) ← checkCopy s id cl perm va fuel (off + z) (len - z) c1
          return (⟨off, z, pa⟩ :: rest, c2)

/-- The range of a prefetch record, with D: a copy of length 0 is in time at its first use, a read of the byte at its destination
address (R243; log entry 94). -/
def State.prefetchRec (s : State) (id : CoreId) (dst : Word) (len : Nat) (segs : List Seg) (fin : Nat) : PfRec :=
  if len = 0 then ⟨(s.whereIs id dst).toList.map fun pa => ⟨0, 1, pa⟩, 0⟩ else ⟨segs, fin⟩

/-- CPY (R238, R239). -/
def execCpy (scl dcl : Cls) (pf crc : Bool) (a b c : CSrc) (s : State) : Out :=
  issue .c (fun s k => do
    engineOk k
    let (src, dst, len, k) ← readC3 s k a b c
    if 8 ≤ (s.copies s.cur).length then .error (.trap .queueFull (BitVec.ofNat 64 (20 + 8 * 256)))
    else do
      copyForm src dst len
      let l := len.toNat
      let (ssegs, k) ← checkCopy s s.cur scl .r src (l / 65536 + 2) 0 l k
      let (dsegs, k) ← checkCopy s s.cur dcl .w dst (l / 65536 + 2) 0 l k
      let latS := s.segLat s.cur scl ssegs
      let latD := s.segLat s.cur dcl dsegs
      let n := (l + 127) / 128
      let tau := k.ctx.tau
      let st := max (tau + 1) k.ctx.copy.prev
      let fin := if l = 0 then tau + 1 else st + n - 1 + latS + latD
      let promise := (s.framecnt s.cur + (fin - tau)) % 2 ^ 63
      let job : CopyJob := ⟨k.ctx.copy.next, k.ctx.copy.batch, ssegs, dsegs, src, dst, l, latS, latD, promise, st, fin,
        crc && l != 0, 0xFFFFFFFF, [], [], k.posOf .c⟩
      let k1 := k.modCopy fun x =>
        let x1 := { x with next := x.next + 1, prev := if l = 0 then x.prev else st + n, opened := x.opened ++ [promise] }
        if pf then x1.openRecord (s.prefetchRec s.cur dst l dsegs fin) tau else x1
      let first :=
        if l = 0 then [⟨1, none, false, .copyComplete, .beat s.seq 0 true⟩]
        else s.memReqs s.cur k (segPas ssegs 0 1) .copyBeatRead (.beat s.seq 0 true) (st + latS - tau) false
      return ⟨k1, pushH0 1 (BitVec.ofNat 64 promise) :: first, .next 1, none, [⟨s.seq, s.cur, true, .copy job⟩], []⟩) s

/-- The bytes of beat j: first byte and number (R239). -/
def CopyJob.beat (k : CopyJob) (j : Nat) : Nat × Nat := (128 * j, min 128 (k.len - 128 * j))

/-- The CRC register and the last four bytes after the bytes of a beat (R242). -/
def CopyJob.sum (k : CopyJob) (j : Nat) (bs : List Byte) : CopyJob :=
  let body := bs.take (k.len - 4 - 128 * j)
  { k with reg := crcRun k.reg body, tail := k.tail ++ bs.drop body.length }

/-- The copy of a request, if it is one. -/
def State.copyJob (s : State) (id : Nat) : Option (Job × CopyJob) :=
  (s.job? id).bind fun j => match j.body with | .copy k => some (j, k) | _ => none

/-- COPY_BEAT_READ (R239). -/
def execCopyBeatRead (s : State) : Out :=
  match s.arg with
  | .beat id j _ =>
    match s.copyJob id with
    | none => .refused (.notPending "COPY_BEAT_READ")
    | some (job, k) =>
      let (off, n) := k.beat j
      let (bs, s1) := s.engineRead job (fun i => k.sva.toNat + off + i) (segPas k.src off n) k.pos
      let live := match s1.job? id with | some q => q.live | none => false
      let job := { job with live := live }
      let k1 := if k.crc then k.sum j bs else k
      let s2 := s1.setJob { job with body := .copy { k1 with buf := k1.buf ++ [(j, bs)] } }
      let s3 := s2.chain job (k.start + j + k.latS + k.latD) k.latD (segPas k.dst off 1) .copyBeatWrite (.beat id j true)
      .next (if off + 128 < k.len then
        s3.chain job (k.start + j + 1 + k.latS) 1 (segPas k.src (off + 128) 1) .copyBeatRead (.beat id (j + 1) true) else s3)
  | _ => .refused (.notPending "COPY_BEAT_READ")

/-- COPY_BEAT_WRITE (R239). -/
def execCopyBeatWrite (s : State) : Out :=
  match s.arg with
  | .beat id j _ =>
    match s.copyJob id with
    | none => .refused (.notPending "COPY_BEAT_WRITE")
    | some (job, k) =>
      match listGet? k.buf j with
      | none => .refused (.notPending "COPY_BEAT_WRITE")
      | some bs =>
        let (off, n) := k.beat j
        let s1 := s.writeAs job.owner (writesAt (segPas k.dst off n) (k.dva.toNat + off) bs)
        let s2 := s1.setJob { job with body := .copy { k with buf := listErase k.buf j } }
        .next (if off + 128 < k.len then s2 else s2.chain job k.fin 0 [] .copyComplete (.beat id j true))
  | _ => .refused (.notPending "COPY_BEAT_WRITE")

/-- COPY_COMPLETE (R239, R242): the copy is complete, and a CRC mismatch is marked. -/
def execCopyComplete (s : State) : Out :=
  match s.arg with
  | .beat id _ _ =>
    match s.copyJob id with
    | none => .refused (.notPending "COPY_COMPLETE")
    | some (job, k) =>
      let s1 := s.dropJob id
      let got := k.reg ^^^ 0xFFFFFFFF
      if job.live ∧ k.crc ∧ got ≠ leNat k.tail then
        .next (s1.modCore job.owner fun c => c.modCopy fun x =>
          { x with crcFails := min (x.crcFails + 1) 65535, unreported := x.unreported ++ [(k.num, BitVec.ofNat 32 got)] })
      else .next s1
  | _ => .refused (.notPending "COPY_COMPLETE")

/-! ### Batches (R240) -/

/-- The closed batches with a copy that is not complete. -/
def State.closedBatches (s : State) (id : CoreId) : Nat :=
  (((s.copies id).filter fun k => k.2.batch != (s.core id).ctx.copy.batch).map fun k => k.2.batch).eraseDups.length

/-- The outstanding batches: a non-empty open batch counts. -/
def State.batches (s : State) (id : CoreId) : Nat :=
  s.closedBatches id + (if (s.core id).ctx.copy.opened.isEmpty then 0 else 1)

/-- CBATCH (R240). -/
def execCbatch (s : State) : Out :=
  issue .c (fun s c => do
    engineOk c
    if 8 ≤ s.closedBatches s.cur then .error (.trap .queueFull (BitVec.ofNat 64 (21 + 8 * 256)))
    else
      let o := c.ctx.copy.opened
      let v := if o.isEmpty then (s.framecnt s.cur + 1) % 2 ^ 63 else o.foldl max 0
      let c1 := if o.isEmpty then c else c.modCopy fun x => { x with batch := x.batch + 1, opened := [] }
      return .plain c1 [pushH0 1 (BitVec.ofNat 64 v)]) s

/-- CWAIT (R240). -/
def execCwait (n : BitVec 4) (s : State) : Out :=
  issue .c (fun s c => do
    engineOk c
    let k := s.batches s.cur
    if k ≤ n.toNat then return ⟨c, [], .checked 2 0, none, [], []⟩
    else if c.isLocked then .error (.trap .syncLate (BitVec.ofNat 64 (n.toNat + min k 15 * 256)))
    else return ⟨c, [], .wait (.cwait n.toNat), none, [], []⟩) s

/-- CWAIT_WAKE (R240): C resumes, with the integrity check of R241. -/
def execCwaitWake (s : State) : Out :=
  match s.cWait s.cur with
  | some (.cwait n) =>
    if !(s.core s.cur).tauStands && decide (s.batches s.cur ≤ n) then .next (s.wake (some (2, 0)))
    else .refused (.notPending "CWAIT_WAKE")
  | _ => .refused (.notPending "CWAIT_WAKE")

/-! ### The checks of R241 -/

/-- The element with the lowest number. -/
def lowestOf {β : Type} (l : List (Nat × β)) : Option (Nat × β) :=
  l.foldl (fun (b : Option (Nat × β)) e => match b with
    | none => some e
    | some m => if e.1 < m.1 then some e else b) none

/-- The missed promise of a SLEEPU with target v: the lowest-numbered copy that is not complete (R241). -/
def State.missedPromise (s : State) (id : CoreId) (v : Nat) : Option Word :=
  (lowestOf (((s.copies id).filter fun k => decide (k.2.promise ≤ v)).map fun k => (k.2.num.toNat, k.2))).map fun k =>
    BitVec.ofNat 64 (k.1 + k.2.promise % 32768 * 2 ^ 16 + (k.2.fin - (s.core id).ctx.tau) % 2 ^ 32 * 2 ^ 32)

/-- The integrity check: its fault, and the failure reported. -/
def State.integrityCheck (s : State) (id : CoreId) : State :=
  match lowestOf ((s.core id).ctx.copy.unreported.map fun e => (e.1.toNat, e.2)) with
  | none => s
  | some e =>
    let s1 := s.modCore id fun c => c.modCopy fun x => { x with unreported := x.unreported.filter fun f => f.1.toNat != e.1 }
    s1.raise id .pageIntegrity (BitVec.ofNat 64 (e.1 + e.2.toNat * 2 ^ 32)) ((s.core id).posOf .c)

/-- The stop of a TRAP (3) or BREAK (4) in the cycle after its issue, at the item that comes next (R108, R305). -/
def State.askedStop (s : State) (id : CoreId) (kind v : Nat) : State :=
  s.tick.tick.raise id (if kind = 3 then .syscall else .break_) (BitVec.ofNat 64 v) (s.afterItem id (s.core id))

/-- The checks made as the next C item reaches issue after a SLEEPU or CWAIT (R241). -/
def State.copyCheck (s : State) (id : CoreId) (kind v : Nat) : State :=
  match if kind = 1 then s.missedPromise id v else none with
  | some info => s.raise id .promiseMissed info ((s.core id).posOf .c)
  | none => s.integrityCheck id

end Sys2Proof.Machine
end

