-- ==== Sys2Proof/Machine/Matrix.lean ====
section
/-! DEFINITION. The matrix unit: format words, walks, tile commands and their sum blocks, the score step, side registers,
rescaling (R245 to R266), and the accumulator instructions of X (R149 to R151). -/

namespace Sys2Proof.Machine

open Sys2Proof

def Core.modMat (c : Core) (f : Mat → Mat) : Core := c.modCtx fun x => { x with mat := f x.mat }

/-! ### Accumulator tiles (R149) -/

/-- The words of a tile. -/
def Tile.array (t : Tile) : Array F32 := t.words.foldl (fun a e => a.set! e.1 e.2) (Array.replicate 4096 0)

/-- A tile with the given words. -/
def Tile.put (t : Tile) (a : Array F32) : Tile :=
  { t with words := (a.toList.zipIdx.filter fun e => e.1 != 0).map fun e => (e.2, e.1) }

/-- The word that a lane of a row names (R149). -/
def accWord (fmt : Fmt) (row lane : Nat) : Nat :=
  if fmt = .cf32 then 1024 * (row / 64 % 2 + (if lane % 2 = 1 then 2 else 0)) + 32 * (row % 32) + lane / 2
  else 64 * (row % 64) + lane

/-- A row as a vector. -/
def Tile.row (t : Tile) (fmt : Fmt) (row : Nat) : Vec :=
  let a := t.array
  Vector.ofFn fun i => a.getD (accWord fmt row i.val) 0

/-- The active lanes of a row written. -/
def Tile.putRow (t : Tile) (fmt : Fmt) (row : Nat) (v : Vec) (mask : Word) : Tile :=
  t.put ((activeLanes mask).foldl (fun (a : Array F32) i => a.set! (accWord fmt row i) (BitVec.ofNat 32 (laneNat v i))) t.array)

/-- A cleared tile (R150). -/
def Tile.cleared : Tile := ⟨[], Vector.replicate 64 fNegInf, Vector.replicate 64 0⟩

/-- A matrix operation still owns its tile at a cycle (R258). -/
def Own.at (o : Own) (tau : Nat) : Bool := match o.until_ with | none => true | some u => decide (tau ≤ u)

/-- ACC_BUSY for an owned tile, with the oldest owner's number (R151, R258). -/
def accFree (c : Core) (t : Fin 4) : Except Stop Unit :=
  match c.ctx.mat.owns.find? fun o => o.tile == t.val && o.at c.ctx.tau with
  | some o => .error (.trap .accBusy (BitVec.ofNat 64 (t.val + o.seq.toNat * 2 ^ 32)))
  | none => .ok ()

/-- The outcome of an X read of a tile (R150). -/
def tileRead (vd : XDst) (t : Fin 4) (p : Fin 8) (width : Nat) (f : Tile → Vec) (s : State) (c : Core) :
    Except Stop IssueOut := do
  legal (c.xdstOk vd)
  let m := laneMask width (c.pred p)
  let c ← c.reserveX s.seq vd (c.pred p)
  accFree c t
  return .plain c (landX s.seq vd 8 m (f c.ctx.acc[t]))

/-- ACCRD (R150). -/
def execAccrd (vd : XDst) (acc : Fin 4) (row : BitVec 16) (p : Fin 8) (fmt : Fmt) (s : State) : Out :=
  issue .x (tileRead vd acc p fmt.width fun t => t.row fmt row.toNat) s

/-- SIDERD (R150). -/
def execSiderd (vd : XDst) (acc : Fin 4) (p : Fin 8) (sum : Bool) (s : State) : Out :=
  issue .x (tileRead vd acc p 32 fun t => if sum then t.s else t.m) s

/-- ACCWR (R150). -/
def execAccwr (v : Fin 16) (acc : Fin 4) (row : BitVec 16) (p : Fin 8) (fmt : Fmt) (s : State) : Out :=
  issue .x (fun _ c => do
    accFree c acc
    return .plain c [⟨2, none, true, .resultLanding,
      .landing (.accRow acc fmt row c.ctx.x.v[v] (laneMask fmt.width (c.pred p)))⟩]) s

/-- ACCZ (R150). -/
def execAccz (acc : Fin 4) (s : State) : Out :=
  issue .x (fun _ c => do
    accFree c acc
    return .plain c [⟨2, none, true, .resultLanding, .landing (.accZero acc)⟩]) s

/-! ### The format word (R245, R250, R251) -/

/-- The fields of a format word (R250). -/
structure Form where
  fa : Fmt
  fb : Fmt
  t : Nat
  u : Nat
  z : Bool
  sa : Bool
  sb : Bool
  kb : Nat
  sp : Bool
  score : Bool
  vcols : Nat
  tb : Nat
  nsb : Nat
  asrc : Nat
  deriving DecidableEq, Repr

def formOf (w : Word) : Form :=
  ⟨(decFmt (bits w 3 0)).getD .f32, (decFmt (bits w 7 4)).getD .f32, bits w 9 8, bits w 11 10, w.getLsbD 12, w.getLsbD 13,
    w.getLsbD 14, bits w 16 15, w.getLsbD 17, bits w 19 18 == 1, bits w 26 20, bits w 32 27, bits w 45 33, bits w 48 46⟩

/-- A pair of formats that R245 lists. -/
def formPair : Fmt → Fmt → Bool
  | .f32, .f32 | .bf16, .bf16 | .f16, .f16 | .bf16, .cb2 | .e4m3, .cb2 | .i8, .i8 | .e2m1, .e2m1 | .e2m1, .cb2
  | .i4, .i4 | .cf32, .cf32 => true
  | .e4m3, b | .e5m2, b => b == .e4m3 || b == .e5m2
  | _, _ => false

/-- Cycles per sum block (R245, R248). -/
def Form.cpb (f : Form) : Nat :=
  (match f.fa with
    | .f32 | .cf32 => 128 | .bf16 | .f16 => 32 | .e2m1 | .i4 => 8 | _ => 16) / (if f.sp then 2 else 1)

/-- The formats that block scales go with (R251). -/
def scalable : Fmt → Bool
  | .e4m3 | .e5m2 | .e2m1 | .i8 | .i4 => true | _ => false

/-- The first reason of R251 that MFORM finds in a word. A word of no sum blocks is counted under reason 1 (log entry
24). -/
def formFault (w : Word) : Option Nat :=
  let f := formOf w
  if bits w 63 49 ≠ 0 ∨ bits w 3 0 = 15 ∨ bits w 7 4 = 15 ∨ 2 ≤ bits w 19 18 ∨ (f.asrc ≠ 0 ∧ f.asrc < 4) ∨ f.nsb = 0 then some 1
  else if !formPair f.fa f.fb then some 2
  else if (f.sa && !scalable f.fa) || (f.sb && !(scalable f.fb || f.fb == .cb2)) || (f.fb == .cb2 && !(f.sb && f.kb == 3))
      || ((f.sa || f.sb) && f.nsb % 2 ^ f.kb != 0) then some 3
  else if f.sp && !(f.fa == .bf16 || f.fa == .f16 || f.fa == .e4m3 || f.fa == .e5m2) then some 4
  else if (if f.score then f.fa == .cf32 || !f.z || f.u == f.t || f.vcols == 0 || decide (64 < f.vcols) || f.asrc != 0
           else f.u != 0 || f.vcols != 0) then some 5
  else if f.asrc ≠ 0 ∧ (f.asrc - 4 = f.t ∨ !(f.fa == .f32 || f.fa == .bf16 || f.fa == .f16) ∨ f.nsb ≠ 2 ∨ f.sa ∨ f.sp) then
    some 6
  else if f.tb ≠ 0 ∧ f.fb ≠ .cb2 then some 7
  else if f.fa == .cf32 && (f.sa || f.sb || f.sp || f.score) then some 8
  else none

/-- ILLEGAL_FORMAT with its reason (R251). -/
def formStop (r : Nat) : Except Stop IssueOut := .error (.trap .illegalFormat (BitVec.ofNat 64 r))

/-- MFORM (R255). -/
def execMform (a : CSrc) (r : BitVec 16) (s : State) : Out :=
  issue .c (fun s c => do
    engineOk c
    let (w, c) ← readC1 s c a
    match formFault w with
    | some k => formStop k
    | none =>
      if 8 ≤ c.ctx.mat.fq.length then .error (.trap .queueFull (BitVec.ofNat 64 (23 + 8 * 256)))
      else return .plain c [⟨1, none, true, .formatQueueEntry, .words w (BitVec.ofNat 64 (r.toNat + 1))⟩]) s

/-- FORMAT_QUEUE_ENTRY (R255). -/
def execFormatQueueEntry (s : State) : Out :=
  match s.arg with
  | .words w r => .next (s.modCore s.cur fun c => c.modMat fun m => { m with fq := m.fq ++ [(w, r.toNat)] })
  | _ => .refused (.notPending "FORMAT_QUEUE_ENTRY")

/-! ### Walks (R252 to R256) -/

/-- MNEST (R254). -/
def execMnest (a b : CSrc) (e : Fin 10) (n : BitVec 16) (s : State) : Out :=
  issue .c (fun s c => do
    engineOk c
    let (x, y, c) ← readC2 s c a b
    if e.val = 3 ∧ (x.toNat % 1024 ≠ 0 ∨ 256 ≤ y.toNat) then formStop 9
    else return .plain c [⟨1, none, true, .resultLanding, .landing (.nest e x y n.toNat)⟩]) s

/-- The commands of a walk (R253). -/
def walkCount (t : WalkTab) : Nat := t[4].n * t[5].n * t[6].n * t[7].n * t[8].n * t[9].n

/-- MGO (R256). -/
def execMgo (s : State) : Out :=
  issue .c (fun s c => do
    engineOk c
    let m := c.ctx.mat
    if 2 ^ 32 ≤ walkCount m.shadow then formStop 10
    else if 2 ≤ m.walks.length then .error (.trap .queueFull (BitVec.ofNat 64 (22 + 2 * 256)))
    else
      let phase := match m.phase with
        | .idle => .start (max (c.ctx.tau + 1) m.freeAt)
        | p => p
      return .plain (c.modMat fun m => { m with
        active := m.shadow, shadow := m.active, walks := m.walks ++ [⟨s.seq, m.shadow, 0⟩], phase := phase }) []) s

/-- The indices of a command, level 0 first (R253). -/
def walkIndex (t : WalkTab) (c : Nat) : List Nat :=
  ((List.range 6).foldl (fun (acc : List Nat × Nat) l =>
    let n := t[4 + l]!.n
    (acc.1 ++ [acc.2 % n], acc.2 / n)) ([], c)).1

/-- A half of a word as a signed number. -/
def lowInt (w : Word) : Int := (w.setWidth 32).toInt
def highInt (w : Word) : Int := ((w >>> 32).setWidth 32).toInt

/-- The current address of operand o (A, B, SA, SB) of a command (R253). -/
def walkAddr (t : WalkTab) (o c : Nat) : Word :=
  let base := match o with | 0 => t[0].a | 1 => t[0].b | 2 => t[1].a | _ => t[1].b
  let stride := fun l => match o with
    | 0 => lowInt t[4 + l]!.a | 1 => highInt t[4 + l]!.a | 2 => lowInt t[4 + l]!.b | _ => highInt t[4 + l]!.b
  BitVec.ofInt 64 ((walkIndex t c).zipIdx.foldl (fun acc e => acc + (e.1 : Int) * stride e.2) base.toNat)

/-! ### Operands (R246 to R249, R257, R261) -/

/-- The rows and columns of a command's tile. -/
def Form.rows (f : Form) : Nat := if f.fa = .cf32 then 32 else 64

/-- What an operand piece belongs to: A, B, SA, SB, the metadata, the table. -/
inductive MOp where
  | a | b | sa | sb | md | tb
  deriving DecidableEq, Repr

/-- An operand piece: a row or column, its address, formed without wrapping at the top (R154), bytes and alignment. -/
structure Piece where
  op : MOp
  row : Nat
  va : Int
  len : Nat
  align : Nat
  deriving DecidableEq, Repr

/-- The row stride of an operand (R252). -/
def rowStride (t : WalkTab) : MOp → Int
  | .a | .md => lowInt t[2].a | .sa => highInt t[2].a | .b => lowInt t[2].b | .sb => highInt t[2].b | .tb => 0

/-- The current address of an operand (R246); that of the metadata and of the table is formed without wrapping at the top (R154, R197). -/
def opBase (cur : Vector Word 4) (t : WalkTab) (f : Form) : MOp → Nat
  | .a => cur[0].toNat | .b => cur[1].toNat | .sa => cur[2].toNat | .sb => cur[3].toNat
  | .md => cur[0].toNat + 16 * f.nsb * f.fa.width / 8
  | .tb => t[3].a.toNat + 1024 * f.tb

/-- Offset and bytes of an operand within its row for block j (R246, R248). -/
def opSpan (f : Form) (j : Nat) : MOp → Nat × Nat
  | .a => let n := (if f.sp then 16 else 32) * f.fa.width / 8; (j * n, n)
  | .b => let n := if f.fb = .cb2 then 8 else 32 * f.fb.width / 8; (j * n, n)
  | .sa | .sb => (3 * (j / 2 ^ f.kb), 3)
  | .md => (4 * j, 4)
  | .tb => (0, 1024)

/-- The bytes of an operand's row over a whole command. -/
def opWhole (f : Form) (o : MOp) : Nat := let e := opSpan f (f.nsb - 1) o; e.1 + e.2

/-- The operands that a command reads from memory, in the order of their checks (R261). -/
def formOps (f : Form) : List MOp :=
  (if f.asrc = 0 then [.a] else []) ++ [.b] ++ (if f.sa then [.sa] else []) ++ (if f.sb then [.sb] else []) ++
  (if f.sp then [.md] else []) ++ (if f.fb = .cb2 then [.tb] else [])

def opRows (f : Form) (o : MOp) : Nat := if o = .tb then 1 else f.rows

/-- The pieces of block j. -/
def blockPieces (cur : Vector Word 4) (t : WalkTab) (f : Form) (j : Nat) : List Piece :=
  (formOps f).flatMap fun o => (List.range (opRows f o)).map fun r =>
    let (off, n) := opSpan f j o
    ⟨o, r, addrSum (opBase cur t f o) ((r : Int) * rowStride t o + off), n, if o = .a ∨ o = .b then 8 else 1⟩

/-- The class of an operand (R252); the metadata goes with A, the table with B (log entry 25). -/
def opClass (t : WalkTab) (o : MOp) : Cls :=
  let v := t[3].b
  (decCls (match o with | .a | .md => bits v 1 0 | .b | .tb => bits v 3 2 | .sa => bits v 5 4 | .sb => bits v 7 6)).getD .n

/-- A range lies wholly in the own scratchpad, page by page. -/
def State.rangeOwn (s : State) (id : CoreId) (va : Word) (n : Nat) : Bool :=
  let inPad := fun (k : Nat) => match s.whereIs id (va + BitVec.ofNat 64 k) with | some pa => ownPad id pa | none => false
  n == 0 || (inPad 0 && inPad (n - 1) && (List.range (n / 65536 + 1)).all fun p =>
    let k := 65536 * (p + 1) - va.toNat % 65536
    decide (n ≤ k) || (inPad k && inPad (k - 1)))

/-- Lat of a command (R257). -/
def State.matrixLat (s : State) (id : CoreId) (cur : Vector Word 4) (t : WalkTab) (f : Form) : Nat :=
  (formOps f).foldl (fun m o =>
    let own := (List.range (opRows f o)).all fun r =>
      s.rangeOwn id (BitVec.ofInt 64 (opBase cur t f o + (r : Int) * rowStride t o)) (opWhole f o)
    max m (if own then 4 else s.classLat (opClass t o))) 4

/-! ### Tile commands (R257, R258, R261 to R263) -/

/-- The cycles from a command's start to its first write of t, to its score step, and to its last read of asrc. -/
def Form.firstWrite (f : Form) (lat : Nat) : Nat := f.cpb + lat + 6
def Form.lastWrite (f : Form) (lat : Nat) : Nat := f.nsb * f.cpb + lat + 6

/-- The last write of earlier operations to a tile (R258). -/
def Mat.lastOn (m : Mat) (t : Nat) : Nat :=
  ((m.owns.filter fun o => o.tile == t && o.wr).map fun o => o.until_.getD 0).foldl max 0

/-- The earliest start from a cycle by R258. -/
def Mat.startAt (m : Mat) (f : Form) (lat from_ : Nat) : Nat :=
  let after := fun t d => m.lastOn t + 1 - d
  let s1 := max from_ (after f.t (f.firstWrite lat))
  let s2 := if f.asrc = 0 then s1 else max s1 (after (f.asrc - 4) lat)
  if f.score then max s2 (after f.u (f.lastWrite lat + 24)) else s2

/-- The walk whose command starts next. -/
def Mat.nextWalk (m : Mat) : Option MWalk := m.walks.find? fun w => decide (w.next < walkCount w.tab)

/-- MROWP (R266). -/
def mrowpWord (no j stage : Nat) (seq : BitVec 16) : Word :=
  BitVec.ofNat 64 (no % 2 ^ 32 + j * 2 ^ 32 + stage * 2 ^ 45 + seq.toNat * 2 ^ 48)

/-- The tiles that a command owns once it has started; until when is known with its last block (R258). -/
def formOwns (id : Nat) (seq : BitVec 16) (f : Form) : List Own :=
  [⟨id, seq, f.t, true, none⟩] ++ (if f.score then [⟨id, seq, f.u, true, none⟩] else []) ++
  (if f.asrc = 0 then [] else [⟨id, seq, f.asrc - 4, false, none⟩])

/-- A stop of the matrix unit at the present cycle: no item issues, and TRAPLINE names the C item due (R261). -/
def State.matrixStop (s : State) (cause : Cause) (tinfo row : Word) : State :=
  let s1 := s.modCore s.cur fun c => c.modMat fun m => { m with mrowp := row }
  s1.stopAtDue s.cur cause tinfo

/-- The command's start cycle has come. -/
def Mat.startDue (m : Mat) (tau : Nat) : Bool := match m.phase with | .start a => decide (a ≤ tau) | _ => false
def Mat.blockDue (m : Mat) (tau : Nat) : Bool := match m.phase with | .block _ _ a => decide (a ≤ tau) | _ => false

/-- MATRIX_COMMAND_START (R257, R258, R262). -/
def execMatrixCommandStart (s : State) : Out :=
  let c := s.core s.cur
  let m := c.ctx.mat
  let tau := c.ctx.tau
  if c.tauStands || !m.startDue tau then .refused (.notPending "MATRIX_COMMAND_START")
  else match m.nextWalk with
    | none => .refused (.notPending "MATRIX_COMMAND_START")
    | some wk =>
      match m.fq with
      | [] =>
        .next (s.matrixStop .formatUnderflow (BitVec.ofNat 64 (m.mseq.toNat + wk.next % 2 ^ 32 * 2 ^ 16))
          (mrowpWord wk.next 0 1 m.mseq))
      | (w, r) :: rest =>
        let f := formOf w
        let cur : Vector Word 4 := Vector.ofFn fun o => walkAddr wk.tab o.val wk.next
        let lat := s.matrixLat s.cur cur wk.tab f
        let sc := m.startAt f lat tau
        if tau < sc then .next (s.modCore s.cur fun c => c.modMat fun m => { m with phase := .start sc })
        else
          let cmd : MCmd := ⟨s.seq, wk.id, wk.next, wk.next + 1 == walkCount wk.tab, m.mseq, w, cur, wk.tab, lat, [], []⟩
          .next (s.bump.modCore s.cur fun c => c.modMat fun m => { m with
            fq := if r ≤ 1 then rest else (w, r - 1) :: rest
            mseq := m.mseq + 1
            walks := m.walks.map fun k => if k.id = wk.id then { k with next := k.next + 1 } else k
            cmds := m.cmds ++ [cmd]
            owns := (m.owns.filter fun o => o.at tau) ++ formOwns wk.id m.mseq f
            phase := .block cmd.uid 0 tau })

/-- The entry of a load pipe that translates an address, or the core's, which the pipe then takes (R263). -/
def Core.pipeTake (c : Core) (b : Bool) (va now : Nat) : Core :=
  let pipe := if b then c.ctx.mat.pipeB else c.ctx.mat.pipeA
  let ok := fun (e : TlbEntry) => e.covers va && (!c.isLocked || e.pinned)
  let put := fun (p : List TlbEntry) (c : Core) => c.modMat fun m => if b then { m with pipeB := p } else { m with pipeA := p }
  match pipe.find? ok with
  | some e => put (pipe.map fun f => if f = e then { f with used := now } else f) c
  | none =>
    match c.lookup va with
    | some e => put (tlbFill 64 pipe { e with used := now }) (c.touch e now)
    | none => c

/-- The checks of R154 on bytes of an operand that lie in one page, through the operand's load pipe (R261, R263). -/
def pipeCheck (s : State) (id : CoreId) (c : Core) (b : Bool) (cl : Cls) (va : Word) (n row : Nat) (prog : Bool) :
    Except Stop (Nat × Core) := do
  let pipe := if b then c.ctx.mat.pipeB else c.ctx.mat.pipeA
  let (pa, _) ← checkBytes s id { c with tlb := pipe ++ c.tlb } cl .r va n row prog
  return (pa, if windowBase ≤ va.toNat then c else c.pipeTake b (va.toNat % 2 ^ 48) s.seq)

/-- The checks on a piece, page by page: first its alignment and its place in the address space, whole (R154, R261). -/
def checkPiece (s : State) (id : CoreId) (c : Core) (cl : Cls) (p : Piece) (prog : Bool) : Except Stop (List Seg × Core) :=
  let b := match p.op with | .a | .sa | .md => false | _ => true
  let va := BitVec.ofInt 64 p.va
  let top := va.toNat + p.len
  if p.va % p.align ≠ 0 then .error (.trap .align (accessInfo va p.row prog))
  else if (2 ^ 64 : Int) < p.va + p.len ∨ (va.toNat < windowBase ∧ windowBase < top) then
    .error (.trap .protection (accessInfo va p.row prog))
  else
    let n := min p.len (65536 - va.toNat % 65536)
    if n = p.len ∨ windowBase ≤ va.toNat then do
      let (pa, c) ← pipeCheck s id c b cl va p.len p.row prog
      return ([⟨0, p.len, pa⟩], c)
    else do
      let (pa, c) ← pipeCheck s id c b cl va n p.row prog
      let (pb, c) ← pipeCheck s id c b cl (va + BitVec.ofNat 64 n) (p.len - n) p.row prog
      return ([⟨0, n, pa⟩, ⟨n, p.len - n, pb⟩], c)

def checkPieces (s : State) (id : CoreId) (t : WalkTab) (prog : Bool) :
    List Piece → Core → Except Stop (List (List Seg) × Core)
  | [], c => .ok ([], c)
  | p :: ps, c => do
    let (g, c) ← checkPiece s id c (opClass t p.op) p prog
    let (gs, c) ← checkPieces s id t prog ps c
    return (g :: gs, c)

/-- A later step of a matrix operation. -/
def State.matrixLater (s : State) (ord d : Nat) (pas : List Nat) (ev : Instr) (arg : Arg) : State := s.stepLater false ord d pas ev arg

/-- The end of ownership that the last block's reads fix (R258). -/
def closeOwns (owns : List Own) (walk : Nat) (seq : BitVec 16) (f : Form) (x lat : Nat) : List Own :=
  let wrEnd := x + f.cpb + lat + 6
  owns.map fun o =>
    if o.id = walk ∧ o.seq = seq ∧ o.until_.isNone then
      { o with until_ := some (if !o.wr then x + lat else if f.score then wrEnd + 24 else wrEnd) }
    else o

/-- Block j of a command issues its reads, which take their place in the issue order now (R105, R257, R261). -/
def State.blockIssue (s : State) (k : MCmd) (j : Nat) : Out :=
  let c := s.core s.cur
  let tau := c.ctx.tau
  let f := formOf k.w
  match checkPieces s s.cur k.tab (j != 0) (blockPieces k.cur k.tab f j) c with
  | .error (.walk w) => .next ((s.startWalk s.cur { w with pos := c.posOf .c }))
  | .error (.lockedMiss info) =>
    .next ((s.setWalkInfo s.cur 0 4).matrixStop .translateMiss info (mrowpWord k.no j 2 k.seq))
  | .error (.trap cause info) => .next (s.matrixStop cause info (mrowpWord k.no j 2 k.seq))
  | .error _ => .refused (.notPending "MATRIX_BLOCK_READ")
  | .ok (segs, c1) =>
    let put := fun (m : Mat) => { m with cmds := m.cmds.map fun q => if q.uid = k.uid then { q with ops := q.ops ++ [⟨j, segs⟩] } else q }
    let front := fun (m : Mat) =>
      if j + 1 < f.nsb then { m with phase := .block k.uid (j + 1) (tau + f.cpb) }
      else { m with
        owns := closeOwns m.owns k.walk k.seq f tau k.lat
        freeAt := tau + f.cpb
        phase := if m.nextWalk.isSome then .start (tau + f.cpb) else .idle }
    .next ((s.bump.setCore s.cur (c1.modMat fun m => front (put m))).matrixLater s.seq k.lat (segs.flatten.map (·.pa))
      .matrixBlockRead (.beat k.uid j false))

/-- Element i of bytes by width. -/
def bytesElem (w : Nat) (bs : List Byte) (i : Nat) : Nat := fld (leNat bs) (w * i) w

/-- The exact value of an element (R80, R246). -/
def opValue (fmt : Fmt) (n : Nat) : FVal := if fmt.isFp then (ffmt fmt).decode n else FVal.ofInt (intVal fmt n)

/-- The rows of A that a tile gives a block (R247), as bytes. -/
def tileRows (f : Form) (t : Tile) (j : Nat) : List (List Byte) :=
  let a := t.array
  (List.range 64).map fun m => (List.range 32).flatMap fun i =>
    leBytes (convert .f32 f.fa .rne (a.getD (64 * m + 32 * j + i) 0).toNat) (f.fa.width / 8)

/-- The command with a number. -/
def Mat.cmd (m : Mat) (uid : Nat) : Option MCmd := m.cmds.find? fun k => k.uid == uid

/-- The rows of A that a command's tile gives block j, as the tile stands. -/
def State.asrcRows (s : State) (k : MCmd) (j : Nat) : List (List Byte) :=
  let f := formOf k.w
  if f.asrc = 0 then [] else tileRows f ((s.core s.cur).ctx.acc[f.asrc - 4]!) j

/-- A command of the core changed. -/
def State.modCmd (s : State) (uid : Nat) (g : MCmd → MCmd) : State :=
  s.modCore s.cur fun c => c.modMat fun m => { m with cmds := m.cmds.map fun q => if q.uid = uid then g q else q }

/-- The operands of block j perform their reads at rd(j) (R257). A tile's rows are read in the core's own time: where the memory's bytes
performed in a member's timeline before it, at its own rd(j) (R258, R314). -/
def State.blockRead (s : State) (k : MCmd) (o : BlockOps) : State :=
  let f := formOf k.w
  let ps := blockPieces k.cur k.tab f o.j
  let all := (ps.zip o.segs).map fun e => (e.1, segsPas e.2)
  let bytes := all.map fun e => s.engineBytes s.cur e.2
  let a := if s.away.isSome then [] else s.asrcRows k o.j
  let s1 := (s.noteRead s.cur (all.flatMap (·.2))).tick
  let s2 := s1.modCmd k.uid fun q => { q with ops := q.ops.filter (fun b => b.j != o.j), data := q.data ++ [⟨o.j, a, bytes⟩] }
  let s2 := if s.away.isSome && f.asrc != 0 then s2.matrixLater s.ord 0 [] .matrixBlockRead (.beat k.uid o.j false) else s2
  let s3 := s2.matrixLater k.walk (f.cpb + 6) [] .matrixBlockAdd (.beat k.uid o.j false)
  match all.find? fun e => s.poisoned e.2 with
  | some e => s3.stopAtDue s.cur .eccUncorrectable (accessInfo (BitVec.ofInt 64 e.1.va) e.1.row (o.j != 0))
  | none => s3

/-- MATRIX_BLOCK_READ (R257, R261): a block issues its reads, or its reads perform. -/
def execMatrixBlockRead (s : State) : Out :=
  let c := s.core s.cur
  match s.arg with
  | .beat uid j true =>
    (match c.ctx.mat.cmd uid with
    | some k => if !c.tauStands && c.ctx.mat.blockDue c.ctx.tau then s.blockIssue k j else .refused (.notPending "MATRIX_BLOCK_READ")
    | none => .refused (.notPending "MATRIX_BLOCK_READ"))
  | .beat uid j false =>
    (match (c.ctx.mat.cmd uid).map fun k => (k, k.ops.find? fun o => o.j == j) with
    | some (k, some o) => .next (s.blockRead k o)
    | some (k, none) =>
      .next (s.modCmd uid fun q => { q with data := q.data.map fun d => if d.j = j then { d with a := s.asrcRows k j } else d })
    | none => .refused (.notPending "MATRIX_BLOCK_READ"))
  | _ => .refused (.notPending "MATRIX_BLOCK_READ")

/-! ### Arithmetic (R259, R260) -/

/-- The bytes of an operand's row. -/
def rowBytes (ps : List (Piece × List Byte)) (o : MOp) (r : Nat) : List Byte :=
  match ps.find? fun e => e.1.op == o && e.1.row == r with | some e => e.2 | none => []

/-- The 32 values of a sparse row (R248). -/
def sparseRow (fmt : Fmt) (vals md : List Byte) : List FVal :=
  (List.range 32).map fun k =>
    let g := k / 4
    let nib := bytesElem 4 md g
    let v := fun i => opValue fmt (bytesElem fmt.width vals i)
    if k % 4 = nib / 4 then v (2 * g + 1) else if k % 4 = nib % 4 then v (2 * g) else .fin false 0 0

/-- The values of A's row m and B's column n in a block (R246, R248). -/
def rowA (f : Form) (d : BlockData) (ps : List (Piece × List Byte)) (m : Nat) : List FVal :=
  let bs := if f.asrc = 0 then rowBytes ps .a m else d.a.getD m []
  if f.sp then sparseRow f.fa bs (rowBytes ps .md m)
  else (List.range 32).map fun i => opValue f.fa (bytesElem f.fa.width bs i)

def colB (f : Form) (ps : List (Piece × List Byte)) (n : Nat) : List FVal :=
  let bs := rowBytes ps .b n
  if f.fb = .cb2 then
    let tab := rowBytes ps .tb 0
    (List.range 32).map fun i =>
      let w := bytesElem 16 bs (i / 8)
      cbWeight w (leNat ((tab.drop (4 * (w / 256))).take 4)) (i % 8)
  else (List.range 32).map fun i => opValue f.fb (bytesElem f.fb.width bs i)

/-- A block's scale (R73, R246); 1 where there is none. -/
def scaleOf (on : Bool) (bs : List Byte) : FVal := if on then f32val (s24 (leNat bs)) else f32val fOne

/-- A block added to a real tile (R259). -/
def addBlock (f : Form) (d : BlockData) (ps : List (Piece × List Byte)) (acc : Array F32) : Array F32 :=
  let as := (List.range 64).map fun m => (rowA f d ps m, scaleOf f.sa (rowBytes ps .sa m))
  let bs := (List.range 64).map fun n => (colB f ps n, scaleOf f.sb (rowBytes ps .sb n))
  as.zipIdx.foldl (fun acc a => bs.zipIdx.foldl (fun (acc : Array F32) b =>
    let i := 64 * a.2 + b.2
    acc.set! i (fadd (acc.getD i 0) (sumBlock (List.zipWith FVal.mul a.1.1 b.1.1) a.1.2 b.1.2))) acc) acc

/-- A block added to a complex tile, k by k (R82, R249). -/
def addComplex (ps : List (Piece × List Byte)) (acc : Array F32) : Array F32 :=
  let el := fun o r k => let x := bytesElem 64 (rowBytes ps o r) k
    ((BitVec.ofNat 32 x : F32), (BitVec.ofNat 32 (x / 2 ^ 32) : F32))
  (List.range 32).foldl (fun acc m => (List.range 32).foldl (fun acc n =>
    (List.range 32).foldl (fun (acc : Array F32) k =>
      let a := el .a m k
      let b := el .b n k
      let (re, im) := cprod a.1 a.2 b.1 b.2
      let i := 32 * m + n
      let r := cacc (acc.getD i 0) (acc.getD (1024 + i) 0) re
      let q := cacc (acc.getD (2048 + i) 0) (acc.getD (3072 + i) 0) im
      (((acc.set! i r.1).set! (1024 + i) r.2).set! (2048 + i) q.1).set! (3072 + i) q.2) acc) acc) acc

/-- A command leaves the unit; with a walk's last command the walk goes too (R256). -/
def Mat.finish (m : Mat) (k : MCmd) : Mat :=
  { m with cmds := m.cmds.filter (fun q => q.uid != k.uid),
           walks := if k.final then m.walks.filter (fun w => w.id != k.walk) else m.walks }

def Core.putTile (c : Core) (t : Nat) (v : Tile) : Core := c.modCtx fun x => { x with acc := x.acc.set! t v }

/-- MATRIX_BLOCK_ADD (R249, R257, R259). -/
def execMatrixBlockAdd (s : State) : Out :=
  let c := s.core s.cur
  match s.arg with
  | .beat uid j _ =>
    (match (c.ctx.mat.cmd uid).bind fun k => (k.data.find? fun o => o.j == j).map fun o => (k, o) with
    | none => .refused (.notPending "MATRIX_BLOCK_ADD")
    | some (k, d) =>
      let f := formOf k.w
      let ps := (blockPieces k.cur k.tab f j).zip d.bytes
      let t := c.ctx.acc[f.t]!
      let acc := if j = 0 ∧ f.z then Array.replicate 4096 0 else t.array
      let new := if f.fa = .cf32 then addComplex ps acc else addBlock f d ps acc
      let last := j + 1 == f.nsb
      let c1 := (c.putTile f.t (t.put new)).modMat fun m =>
        let m1 := { m with cmds := m.cmds.map fun q =>
          if q.uid = uid then { q with data := q.data.filter fun b => b.j != j } else q }
        if last && !f.score then m1.finish k else m1
      let s1 := s.setCore s.cur c1
      .next (if last && f.score then s1.matrixLater k.walk 24 [] .matrixScoreStep (.beat uid 0 false) else s1))
  | _ => .refused (.notPending "MATRIX_BLOCK_ADD")

/-- The score step of a row: new P row, factor, M and S (R260). -/
def scoreStep (f : Form) (x : List F32) (m s : F32) : F32 × F32 × F32 × List F32 :=
  let valid := (List.range 64).map fun c => decide (c < f.vcols)
  scoreRow m s (List.zipWith (fun v k => if k then v else fNegInf) x valid) valid

/-- MATRIX_SCORE_STEP (R260). -/
def execMatrixScoreStep (s : State) : Out :=
  let c := s.core s.cur
  match s.arg with
  | .beat uid _ _ =>
    (match c.ctx.mat.cmd uid with
    | none => .refused (.notPending "MATRIX_SCORE_STEP")
    | some k =>
      let f := formOf k.w
      let t := c.ctx.acc[f.t]!
      let u := c.ctx.acc[f.u]!
      let ta := t.array
      let ua := u.array
      let rows := (List.range 64).map fun r =>
        scoreStep f ((List.range 64).map fun c => ta.getD (64 * r + c) 0) u.m[r]! u.s[r]!
      let ta1 := (rows.flatMap fun q => q.2.2.2).toArray
      let ua1 := (rows.zipIdx.flatMap fun q => (List.range 64).map fun c => fmul (ua.getD (64 * q.2 + c) 0) q.1.2.2.1).toArray
      let u1 := { u.put ua1 with m := Vector.ofFn fun r => (rows.map (·.1)).getD r.val 0,
                                 s := Vector.ofFn fun r => (rows.map (·.2.1)).getD r.val 0 }
      .next (s.setCore s.cur (((c.putTile f.t (t.put ta1)).putTile f.u u1).modMat fun m => m.finish k)))
  | _ => .refused (.notPending "MATRIX_SCORE_STEP")

/-! ### Side registers and rescaling (R264, R265) -/

/-- The elements of a checked range, for what a read meets. -/
def segEls (va : Word) (segs : List Seg) : List El := segs.map fun g => ⟨va + BitVec.ofNat 64 g.off, g.len, 0, g.pa⟩

/-- An operation that takes a sequence number and owns a tile until a cycle. -/
def Core.ownTile (c : Core) (id : Nat) (t : Fin 4) (until_ : Nat) : Core :=
  c.modMat fun m => { m with
    mseq := m.mseq + 1
    ops := m.ops ++ [id]
    owns := (m.owns.filter fun o => o.at c.ctx.tau) ++ [⟨id, m.mseq, t.val, true, some until_⟩] }

/-- MSIDE (R264). -/
def execMside (a : CSrc) (str : Bool) (cl : Cls) (t : Fin 4) (s : State) : Out :=
  issue .c (fun s c => do
    engineOk c
    let (va, c) ← readC1 s c a
    accFree c t
    if va.toNat % 8 ≠ 0 then .error (.trap .align (accessInfo va 0 false))
    else do
      let (segs, c) ← checkWhole s s.cur c cl (if str then .w else .r) va 512
      let lat := s.segLat s.cur cl segs
      let pas := segsPas segs
      if str then
        let tile := c.ctx.acc[t]
        let bs := (tile.m.toList ++ tile.s.toList).flatMap fun x => leBytes x.toNat 4
        return .plain c (s.memReqs s.cur c pas .accessPerform (.access ⟨.st bs, segEls va segs, c.posOf .c, none⟩) lat false)
      else
        return .plain (c.ownTile s.seq t (c.ctx.tau + lat + 1))
          (s.memReqs s.cur c pas .msideLoadWrite (.side ⟨s.seq, 0, t, segEls va segs, [], c.posOf .c⟩) lat false)) s

/-- MRSC (R265). -/
def execMrsc (a : CSrc) (mx : Bool) (cl : Cls) (t : Fin 4) (s : State) : Out :=
  issue .c (fun s c => do
    engineOk c
    let (va, c) ← if mx then readC1 s c a else .ok (0, c)
    accFree c t
    if !mx then
      return .plain (c.ownTile s.seq t (c.ctx.tau + 16)) [⟨16, none, false, .mrscWrite, .side ⟨s.seq, 2, t, [], [], c.posOf .c⟩⟩]
    else if va.toNat % 8 ≠ 0 then .error (.trap .align (accessInfo va 0 false))
    else do
      let (segs, c) ← checkWhole s s.cur c cl .r va 256
      let lat := s.segLat s.cur cl segs
      return .plain (c.ownTile s.seq t (c.ctx.tau + lat + 16))
        (s.memReqs s.cur c (segsPas segs) .mrscWrite (.side ⟨s.seq, 1, t, segEls va segs, [], c.posOf .c⟩) lat false)) s

/-- The reads of an MSIDE load or an MRSC perform; its write comes d cycles later. -/
def State.sideRead (s : State) (r : SideReq) (d : Nat) (ev : Instr) : State :=
  let pas := r.els.flatMap El.pas
  let bs := s.engineBytes s.cur pas
  let s1 := (s.noteRead s.cur pas).tick.matrixLater r.id d [] ev (.side { r with data := bs })
  match s.badEl r.els with
  | some e => s1.takeTrap s.cur .eccUncorrectable (accessInfo e.va 0 false) r.pos
  | none => s1

/-- The operation with a number is done. -/
def Core.sideDone (c : Core) (id : Nat) : Core := c.modMat fun m => { m with ops := m.ops.filter (· != id) }

/-- F32 number k of bytes. -/
def f32At (bs : List Byte) (k : Nat) : F32 := BitVec.ofNat 32 (leNat ((bs.drop (4 * k)).take 4))

/-- MSIDE_LOAD_WRITE (R264): the bytes are read, and in the next cycle the side registers are written. -/
def execMsideLoadWrite (s : State) : Out :=
  match s.arg with
  | .side r =>
    if r.data.isEmpty then .next (s.sideRead r 1 .msideLoadWrite)
    else .next (s.modCore s.cur fun c =>
      (c.putTile r.tile.val { c.ctx.acc[r.tile] with
        m := Vector.ofFn fun i => f32At r.data i.val, s := Vector.ofFn fun i => f32At r.data (64 + i.val) }).sideDone r.id)
  | _ => .refused (.notPending "MSIDE_LOAD_WRITE")

/-- Rows of a tile rescaled. -/
def Tile.rescale (t : Tile) (f : Nat → F32 → F32) : Tile :=
  let a := t.array
  t.put ((List.range 4096).map fun i => f (i / 64) (a.getD i 0)).toArray

/-- MRSC .norm (R265). -/
def Tile.norm (t : Tile) : Tile := t.rescale fun r x => fdiv x t.s[r]!

/-- MRSC .max: the tile rescaled to new row maxima (R265). -/
def Tile.toMax (t : Tile) (bs : List Byte) : Tile :=
  let mn := fun r => fmax t.m[r]! (f32At bs r)
  let a := fun r => if feq t.m[r]! (mn r) then fOne else exp2 (fsub t.m[r]! (mn r))
  { t.rescale (fun r x => fmul x (a r)) with
    m := Vector.ofFn fun r => mn r.val, s := Vector.ofFn fun r => fmul t.s[r] (a r.val) }

/-- MRSC_WRITE (R265). -/
def execMrscWrite (s : State) : Out :=
  match s.arg with
  | .side r =>
    if r.kind = 1 ∧ r.data.isEmpty then .next (s.sideRead r 16 .mrscWrite)
    else .next (s.modCore s.cur fun c =>
      let t := c.ctx.acc[r.tile]
      (c.putTile r.tile.val (if r.kind = 2 then t.norm else t.toMax r.data)).sideDone r.id)
  | _ => .refused (.notPending "MRSC_WRITE")

end Sys2Proof.Machine
end

