-- ==== Sys2Proof/Machine/Pages.lean ====
section
/-! DEFINITION. KV pages: block-table entries and anchors, the page instructions KPOS, KFORK, KDROP and KMAP (R267 to
R276), and LDQK's reads (R159, R271). -/

namespace Sys2Proof.Machine

open Sys2Proof

/-! ### Entries (R267, R268) -/

/-- A block-table entry or anchor (R268). A count above 64 is kept as read and taken as 64. -/
structure KvEntry where
  valid : Bool
  anchor : Bool
  sealed_ : Bool
  format : Nat
  dcode : Nat
  page : Nat
  tokens : Nat
  base : Nat
  tag : Nat
  refs : Nat
  deriving DecidableEq, Repr

def kvOf (bs : List Byte) : KvEntry :=
  let n := leNat bs
  ⟨fld n 0 1 == 1, fld n 1 1 == 1, fld n 2 1 == 1, fld n 3 1, fld n 4 2, fld n 10 42 * 1024, fld n 52 7, fld n 64 32,
    fld n 96 16, fld n 112 12⟩

def boolNat (b : Bool) : Nat := if b then 1 else 0

def KvEntry.bytes (e : KvEntry) : List Byte :=
  leBytes (boolNat e.valid + boolNat e.anchor * 2 + boolNat e.sealed_ * 4 + e.format * 8 + e.dcode * 16 + e.page
    + e.tokens * 2 ^ 52 + e.base * 2 ^ 64 + e.tag * 2 ^ 96 + e.refs * 2 ^ 112) 16

/-- The valid tokens (R268). -/
def KvEntry.count (e : KvEntry) : Nat := min e.tokens 64

/-- The head dimension, the element bytes and the image bytes (R267). -/
def headDim (dcode : Nat) : Nat := 64 * (dcode + 1)
def elemSize (format : Nat) : Nat := if format = 0 then 2 else 1
def imageSize (format dcode : Nat) : Nat := 128 * headDim dcode * elemSize format + 1024
def KvEntry.image (e : KvEntry) : Nat := imageSize e.format e.dcode
/-- The anchor's physical address (R269). -/
def KvEntry.anchorPa (e : KvEntry) : Nat := e.page + e.image

/-- The page address lies in the direct storage of a vault of a core's die (R272). -/
def State.pageHome (s : State) (id : CoreId) (e : KvEntry) : Bool :=
  let o := paCore e.page
  decide (o.die = id.die) && decide (o.core < 96) && paSpace e.page == 0 && (s.core o).direct (paOff e.page)

/-- An anchor's bytes as an atomic reads them, and its update (R227, R269). -/
def State.readAnchor (s : State) (id : CoreId) (pa : Nat) : KvEntry × List Byte :=
  let bs := s.readAtomAs id (pasFrom pa 16)
  (kvOf bs, bs)
def State.writeAnchor (s : State) (id : CoreId) (pa : Nat) (bs : List Byte) : State := s.writeAtomAs id (bytesAt pa 0 bs)

/-- An entry's bytes with a refcount, and with its valid or anchor bit clear; every other bit stays. -/
def withRefs (bs : List Byte) (refs : Nat) : List Byte :=
  let n := leNat bs
  leBytes (n - fld n 112 12 * 2 ^ 112 + refs % 4096 * 2 ^ 112) 16
def clearValid (bs : List Byte) : List Byte := let n := leNat bs; leBytes (n - fld n 0 1) 16
def clearAnchor (bs : List Byte) : List Byte := let n := leNat bs; leBytes (n - fld n 1 1 * 2) 16

/-! ### The page instructions (R272) -/

/-- The pending page instructions and attention requests of a core (R270). -/
def State.pageJobs (s : State) (id : CoreId) : Nat := ((s.jobsOf id).filter fun j => match j.body with | .page _ => true | _ => false).length
def State.attnJobs (s : State) (id : CoreId) : Nat := ((s.jobsOf id).filter fun j => match j.body with | .attn _ => true | _ => false).length

/-- The domain tag of a core's task (R270). -/
def Core.domtag (c : Core) : Nat := match c.task with | some t => t.domtag.toNat | none => 0

/-- The checks of two ranges in ascending address order (R272). -/
def checkTwo (s : State) (id : CoreId) (c : Core) (cl : Cls) (pa pb : Perm) (a b : Word) (la lb : Nat) :
    Except Stop (List Seg × List Seg × Core) :=
  if b.toNat < a.toNat then do
    let (sb, c) ← checkWhole s id c cl pb b lb
    let (sa, c) ← checkWhole s id c cl pa a la
    return (sa, sb, c)
  else do
    let (sa, c) ← checkWhole s id c cl pa a la
    let (sb, c) ← checkWhole s id c cl pb b lb
    return (sa, sb, c)

/-- A page instruction's checks and acceptance at I (R272): the address a, the second one b with its bytes and alignment,
if it has one. -/
def pageIssue (op : PageOp) (cl : Cls) (pa : Perm) (a : Word) (b : Option (Word × Nat × Nat)) (arg : Word) (n : Nat)
    (s : State) (c : Core) : Except Stop IssueOut := do
  if 4 ≤ s.pageJobs s.cur then .error (.trap .queueFull (BitVec.ofNat 64 (24 + 4 * 256)))
  else if a.toNat % 16 ≠ 0 then .error (.trap .align (accessInfo a 0 false))
  else if b.any fun e => e.1.toNat % e.2.2 != 0 then .error (.trap .align (accessInfo (b.elim 0 (·.1)) 0 false))
  else do
    let (sa, sb, c) ← match b with
      | some e => checkTwo s s.cur c cl pa .rw a e.1 (16 * n) e.2.1
      | none => do
        let (sa, c) ← checkWhole s s.cur c cl pa a (16 * n)
        pure (sa, ([] : List Seg), c)
    let lat := s.segLat s.cur cl sa
    let job : PageJob := ⟨op, a, b.elim 0 (·.1), sa, sb, n, arg, lat, c.domtag, 0, 0, [], none, c.posOf .c⟩
    return ⟨c, s.memReqs s.cur c (segPas sa 0 16) .pageEntryRead (.beat s.seq 0 true) lat false, .next 1, none,
      [⟨s.seq, s.cur, true, .page job⟩], []⟩

/-- KPOS (R273). -/
def execKpos (ad : Bool) (cl : Cls) (a b : CSrc) (n : BitVec 12) (s : State) : Out :=
  issue .c (fun s c => do
    engineOk c
    let (x, y, c) ← readC2 s c a b
    pageIssue (if ad then .add else .set) cl .rw x none y (n.toNat + 1) s c) s

/-- KFORK (R274). -/
def execKfork (cl : Cls) (a b : CSrc) (n : BitVec 12) (s : State) : Out :=
  issue .c (fun s c => do
    engineOk c
    let (x, y, c) ← readC2 s c a b
    pageIssue .fork cl .r x (some (y, 16 * (n.toNat + 1), 16)) 0 (n.toNat + 1) s c) s

/-- KDROP (R275). -/
def execKdrop (cl : Cls) (a b : CSrc) (n : BitVec 12) (s : State) : Out :=
  issue .c (fun s c => do
    engineOk c
    let (x, y, c) ← readC2 s c a b
    pageIssue .drop cl .rw x (some (y, 8 * (n.toNat + 1), 8)) 0 (n.toNat + 1) s c) s

/-- KMAP (R276). -/
def execKmap (sl : Bool) (cl : Cls) (a b : CSrc) (s : State) : Out :=
  issue .c (fun s c => do
    engineOk c
    let (x, y, c) ← readC2 s c a b
    pageIssue (.map sl) cl .r x (some (y, 16, 16)) 0 1 s c) s

/-- The page instruction of a request, if it is one. -/
def State.pageJob (s : State) (id : Nat) : Option (Job × PageJob) :=
  (s.job? id).bind fun j => match j.body with | .page k => some (j, k) | _ => none

/-- The request as it stands after a step that may have ended its task. -/
def State.again (s : State) (j : Job) : Job := (s.job? j.id).getD j

/-- The instruction reads and updates the anchors of its entries (R272, R273). -/
def PageJob.anchored (k : PageJob) : Bool := match k.op with | .set | .add => false | _ => true

/-- The bytes that the step of entry j at a_j reaches: the anchor and what it writes (R272, R314). -/
def PageJob.applyPas (k : PageJob) (e : KvEntry) (j : Nat) : List Nat :=
  (if k.anchored then pasFrom e.anchorPa 16 else []) ++
  (match k.op with
   | .fork => segPas k.b (16 * j) 16
   | .drop => segPas k.a (16 * j) 16 ++ segPas k.b (8 * k.freed) 8
   | .map _ => segPas k.b 0 16
   | _ => segPas k.a (16 * j) 16)

/-- PAGE_ENTRY_READ (R272): entry j is read at e_j. -/
def execPageEntryRead (s : State) : Out :=
  match s.arg with
  | .beat id j _ =>
    (match s.pageJob id with
    | none => .refused (.notPending "PAGE_ENTRY_READ")
    | some (job, k) =>
      let (bs, s1) := s.engineRead job (fun i => k.va.toNat + 16 * j + i) (segPas k.a (16 * j) 16) k.pos
      let job := s1.again job
      let s2 := s1.setJob { job with body := .page { k with
        ents := k.ents ++ [(j, bs, k.sum)], sum := k.sum + (kvOf bs).count } }
      let s3 := s2.chainIn job 160 (k.applyPas (kvOf bs) j) .pageEntryApply (.beat id j true)
      .next (if j + 1 < k.n then s3.chainIn job 1 (segPas k.a (16 * (j + 1)) 16) .pageEntryRead (.beat id (j + 1) true) else s3))
  | _ => .refused (.notPending "PAGE_ENTRY_READ")

/-- TINFO of a page instruction's faults: the entry and the anchor reached (R272). -/
def pageInfo (j anchor : Nat) : Word := BitVec.ofNat 64 (j % 65536 + anchor / 16 * 65536)

/-- A failure at entry j: the request ends there and, while its task runs, stops it (R272). The later reads of the request
go with it. -/
def State.pageStop (s : State) (job : Job) (k : PageJob) (cause : Cause) (j anchor : Nat) : State :=
  let s1 := { s with agenda := s.agenda.filter fun p => !(p.owner == job.owner && p.ord == job.id) }
  let s2 := if cause = .refcountSat then s1.setJob { job with body := .page { k with sat := some j } } else s1.dropJob job.id
  if job.live then s2.takeTrap job.owner cause (pageInfo j anchor) k.pos else s2.dropJob job.id

/-- The last entry is done: KDROP's count goes to h0 in the next cycle (R275). -/
def State.pageEnd (s : State) (job : Job) (k : PageJob) (j : Nat) : State :=
  if j + 1 < k.n then s
  else
    let s1 := match k.op with
      | .drop => if job.live then s.chainIn job 1 [] .resultLanding (.landing (.cval (BitVec.ofNat 64 k.freed) none)) else s
      | _ => s
    s1.dropJob job.id

/-- The bytes that KMAP writes at W (R276). -/
def PageJob.mapPas (k : PageJob) (e : KvEntry) (sl : Bool) : List Nat :=
  (if sl then pasFrom (e.page + e.image - 4) 4 else []) ++ pasFrom e.anchorPa 16 ++ segPas k.b 0 16

/-- PAGE_ENTRY_APPLY (R272 to R276): entry j is checked and takes its effect at a_j. -/
def execPageEntryApply (s : State) : Out :=
  match s.arg with
  | .beat id j _ =>
    (match (s.pageJob id).bind fun p => (listGet? p.2.ents j).map fun e => (p.1, p.2, e.1, e.2) with
    | none => .refused (.notPending "PAGE_ENTRY_APPLY")
    | some (job, k, bs, sum) =>
      let o := job.owner
      let e := kvOf bs
      let put := fun (t : State) (segs : List Seg) (va off : Nat) (b : List Byte) =>
        t.writeAs o (writesAt (segPas segs off b.length) (va + off) b)
      let isMap := match k.op with | .map _ => true | _ => false
      if !isMap && (!e.valid || e.tag != k.tag) || !s.pageHome o e then .next (s.pageStop job k .protection j 0)
      else
        let apas := if k.anchored then pasFrom e.anchorPa 16 else []
        let (ab, s) := s.engineReadPa job true apas k.pos
        let job := s.again job
        let an := kvOf ab
        -- an uncorrectable anchor has stopped the task already (R237)
        let stop := fun cause anchor => Host.Outcome.next (s.pageStop { job with live := job.live && !s.poisoned apas } k cause j anchor)
        let badAnchor := !an.valid || an.format != e.format || an.dcode != e.dcode
        match k.op with
        | .set => .next ((put s k.a k.va.toNat (16 * j + 8) (leBytes (k.arg.toNat + sum) 4)).pageEnd job k j)
        | .add => .next ((put s k.a k.va.toNat (16 * j + 8) (leBytes (e.base + k.arg.toNat) 4)).pageEnd job k j)
        | .fork =>
          if badAnchor then stop .protection e.anchorPa
          else if an.refs = 4095 then stop .refcountSat e.anchorPa
          else
            let s1 := s.writeAnchor o e.anchorPa (withRefs ab (an.refs + 1))
            .next ((put s1 k.b k.vb.toNat (16 * j) (withRefs (clearAnchor bs) 0)).pageEnd job k j)
        | .drop =>
          if badAnchor then stop .protection e.anchorPa
          else if e.anchor || an.refs == 0 then stop .protection e.anchorPa
          else
            let last := an.refs == 1
            let ab1 := withRefs ab (an.refs - 1)
            let s1 := s.writeAnchor o e.anchorPa (if last then clearValid ab1 else ab1)
            let s2 := put s1 k.a k.va.toNat (16 * j) [s1.byteAt (segPa k.a (16 * j)) &&& 0xFE]
            let k1 := if last then { k with freed := k.freed + 1 } else k
            let s3 := if last then put s2 k.b k.vb.toNat (8 * k.freed) (leBytes e.page 8) else s2
            .next ((s3.setJob { job with body := .page k1 }).pageEnd job k1 j)
        | .map sl =>
          if an.valid then stop .protection e.anchorPa
          else if sl then
            let img := s.engineReadPa { job with live := job.live && !s.poisoned apas } false (pasFrom e.page (e.image - 4)) k.pos
            let s1 := img.2.setJob { img.2.again job with body := .page { k with sum := crc32c img.1 } }
            .next (s1.chainIn (s1.again job) ((e.image + 127) / 128) (k.mapPas e sl) .kmapWrite (.beat id j true))
          else .next (s.chainIn job 0 (k.mapPas e sl) .kmapWrite (.beat id j true)))
  | _ => .refused (.notPending "PAGE_ENTRY_APPLY")

/-- KMAP_WRITE (R276): the trailer, the anchor and the destination are written at W. -/
def execKmapWrite (s : State) : Out :=
  match s.arg with
  | .beat id j _ =>
    (match (s.pageJob id).bind fun p => (listGet? p.2.ents j).map fun e => (p.1, p.2, e.1) with
    | none => .refused (.notPending "KMAP_WRITE")
    | some (job, k, bs) =>
      let o := job.owner
      let e := kvOf bs
      let sl := match k.op with | .map b => b | _ => false
      let s1 := if sl then s.writeAs o (bytesAt (e.page + e.image - 4) 0 (leBytes k.sum 4)) else s
      let new := { e with valid := true, sealed_ := sl, tag := k.tag }
      let s2 := s1.writeAnchor o e.anchorPa { new with anchor := true, refs := 1 }.bytes
      let dst := ({ new with anchor := false, refs := 0 } : KvEntry).bytes
      .next ((s2.writeAs o (writesAt (segPas k.b 0 16) k.vb.toNat dst)).dropJob id))
  | _ => .refused (.notPending "KMAP_WRITE")

/-! ### LDQK (R159, R160, R271) -/

/-- The format of pages that LDQK names. -/
def fmtBit (f : Fmt) : Nat := if f = .e4m3 then 1 else 0

/-- The exact F32 of a page element. -/
def pageElem (format n : Nat) : F32 := f32ne ((if format = 0 then fBF16 else fE4M3).decode n)

/-- The checks 4 and 5 of R154 on a physical range, with its latency. -/
def State.reach (s : State) (id : CoreId) (cl : Cls) (pa n : Nat) : Except Cause Nat :=
  let c := s.core id
  if !s.paOk id c pa || !s.paOk id c (pa + n - 1) || paCore pa != paCore (pa + n - 1) then .error .protection
  else if !inClass cl id pa then .error .class_
  else .ok (s.latency id cl (pasFrom pa n))

/-- The bytes of the ω values that an LDQK reads: group g of the table (R160). -/
def ldqkOmega (id : CoreId) (r : LdqkReq) : List Nat := pasFrom (padBase id + r.rope + 256 * r.g) 256

/-- A stop of an LDQK at one of its reads: its reserved entry is discarded (R159). -/
def State.ldqkStop (s : State) (r : LdqkReq) (cause : Cause) : State :=
  (s.modCore s.cur fun c => c.unreserve r.chan r.id).takeTrap s.cur cause (accessInfo r.va 0 false) r.pos

/-- The key row of an LDQK turned to its position (R159, R271). -/
def ldqkRow (format g dcode pos : Nat) (row om : List Byte) : Vec :=
  let w := elemSize format
  vecOfLanes ((List.range 32).flatMap fun j =>
    let q := 32 * g + j
    let elem := fun (n : Nat) => if headDim dcode ≤ n then (0 : F32) else pageElem format (leNat ((row.drop (n * w)).take w))
    let p := rotPair (elem (2 * q)) (elem (2 * q + 1)) pos (leNat ((om.drop (8 * j)).take 8))
    [p.1, p.2])

/-- LDQK_ENTRY_READ (R159): the entry is read at I + latE, then the key row and the ω values at + latP, each in the timeline of R314. The
whole page, image and anchor (R267), is tested. -/
def execLdqkEntryRead (s : State) : Out :=
  match s.arg with
  | .ldqk r =>
    let c := s.core s.cur
    (match r.row with
    | none =>
      let pas := pasFrom r.pa 16
      if s.poisoned pas then .next (s.ldqkStop r .eccUncorrectable)
      else
        let e := kvOf (s.readAs s.cur pas)
        let s1 := (s.noteRead s.cur pas).tick
        let n := headDim e.dcode * elemSize (fmtBit r.fmt)
        let row := e.page + r.t * n
        if !e.valid || e.tag != c.domtag then .next (s1.ldqkStop r .protection)
        else match s1.reach s.cur r.cl e.page (e.image + 16) with
          | .error cause => .next (s1.ldqkStop r cause)
          | .ok latP =>
            let pos := if r.t < e.count then some ((e.base + r.t) % 2 ^ 32) else none
            .next (s1.stepLater true s.ord latP (pasFrom row n) .ldqkEntryRead (.ldqk { r with row := some ⟨row, e.dcode, pos, none⟩ }))
    | some k =>
      let pas := if k.bytes.isSome then [] else pasFrom k.pa (headDim k.dcode * elemSize (fmtBit r.fmt))
      let om := if s.away.isSome then [] else ldqkOmega s.cur r
      let bs := k.bytes.getD (s.readAs s.cur pas)
      if s.poisoned (pas ++ om) then .next (s.ldqkStop r .eccUncorrectable)
      else
        let s1 := (s.noteRead s.cur (pas ++ om)).tick
        if s.away.isSome then .next (s1.stepLater true s.ord 0 [] .ldqkEntryRead (.ldqk { r with row := some { k with bytes := some bs } }))
        else
        let v := match k.pos with
          | some p => ldqkRow (fmtBit r.fmt) r.g k.dcode p bs (s.readAs s.cur om)
          | none => Vec.zero
        .next (s1.stepLater true s.ord 8 [] .channelEntryLanding (.chan r.chan r.id v)))
  | _ => .refused (.notPending "LDQK_ENTRY_READ")

end Sys2Proof.Machine
end

