-- ==== Sys2Proof/Machine/Attention.lean ====
section
/-! DEFINITION. Signatures and the attention engine: ATTN, the timeline of a request, its checks and its arithmetic (R277
to R282). -/

namespace Sys2Proof.Machine

open Sys2Proof

/-! ### Signatures (R277) -/

/-- F32 element k of a row in a page format, at an element offset. -/
def rowElem (format : Nat) (bs : List Byte) (k : Nat) : F32 :=
  let w := elemSize format
  pageElem format (leNat ((bs.drop (k * w)).take w))

/-- Sig(x, Π) for the exact F32 elements of x. -/
def signature (x : List F32) (proj : List Byte) : Nat :=
  let d := x.length
  (List.range 64).foldl (fun acc i =>
    let dot := x.zipIdx.foldl (fun (a : F32) e => fadd a (fmul e.1 (f32At proj (i * d + e.2)))) 0
    if (f32val dot).negative && !(f32val dot).isZero then acc + 2 ^ i else acc) 0

/-- The bits that differ. -/
def hamming (a b : Nat) : Nat := popCount 64 (a ^^^ b)

/-! ### The request block (R278) -/

/-- The fields of a request block. -/
structure AttnBlock where
  query : Word
  table : Word
  output : Word
  triple : Word
  omega : Word
  bitmap : Word
  proj : Word
  qpos : Nat
  window : Nat
  ne : Nat
  g : Nat
  mask : Nat
  format : Nat
  dcode : Nat
  radius : Nat
  budget : Nat
  qscale : Nat
  deriving DecidableEq, Repr

/-- n bytes at an offset as a number. -/
def numAt (bs : List Byte) (o n : Nat) : Nat := leNat ((bs.drop o).take n)

def attnBlockOf (bs : List Byte) : AttnBlock :=
  let w := fun o => BitVec.ofNat 64 (numAt bs o 8)
  ⟨w 0, w 8, w 0x10, w 0x18, w 0x20, w 0x28, w 0x30, numAt bs 0x38 4, numAt bs 0x3C 4, numAt bs 0x40 2, numAt bs 0x42 1,
    numAt bs 0x43 1, numAt bs 0x44 1 % 2, numAt bs 0x44 1 / 2 % 4, numAt bs 0x45 1, numAt bs 0x46 2, numAt bs 0x48 4⟩

def AttnBlock.kind (b : AttnBlock) : Nat := b.mask % 4
def AttnBlock.bitmapOn (b : AttnBlock) : Bool := b.mask / 4 % 2 == 1
def AttnBlock.tripleIn (b : AttnBlock) : Bool := b.mask / 8 % 2 == 1
def AttnBlock.tripleOut (b : AttnBlock) : Bool := b.mask / 16 % 2 == 1
def AttnBlock.select (b : AttnBlock) : Bool := b.mask / 32 % 2 == 1

/-- The first problem of a block's fields, in ascending offset; 0 where there is none (R278, R279, R282). -/
def blockFault (bs : List Byte) (k : AttnJob) : Nat :=
  let b := attnBlockOf bs
  let w := elemSize b.format
  let tests : List (Bool × Nat) := [
    (b.query.toNat % w != 0, 0x13), (b.table.toNat % 16 != 0, 0x13), (b.output.toNat % 4 != 0, 0x13),
    (b.triple != 0 && !(b.tripleIn || b.tripleOut), 0x02), (b.triple.toNat % 8 != 0, 0x13),
    (b.omega.toNat % 8 != 0, 0x13), (b.bitmap != 0 && !b.bitmapOn, 0x02), (b.proj != 0 && !b.select, 0x02),
    (b.proj.toNat % 4 != 0, 0x13), (b.kind == 2 && b.window == 0, 0x02),
    (b.ne == 0 || b.g == 0 || decide (64 < b.g) || b.kind == 3 || decide (64 ≤ b.mask) || decide (8 ≤ numAt bs 0x44 1)
      || decide (64 < b.radius) || b.budget == 0 || decide (2 ^ 24 ≤ b.qscale)
      || ((bs.drop 0x4C).take 48).any (· != 0), 0x02),
    (b.ne != k.ne || b.g != k.g || b.dcode != k.dcode || b.select != k.select, 0x02)]
  match tests.find? (·.1) with | some e => e.2 | none => 0

/-! ### Acceptance (R279, R280) -/

/-- The attention request of a job. -/
def Job.attn? (j : Job) : Option AttnJob := match j.body with | .attn k => some k | _ => none

/-- The unfinished requests of an engine of a die, oldest first. -/
def State.engineQueue (s : State) (die engine : Nat) : List (Job × AttnJob) :=
  s.jobs.filterMap fun j => match j.attn? with
    | some k => if j.owner.die = die ∧ k.engine = engine then some (j, k) else none
    | none => none

/-- The domain cycle of F of an engine's last accepted request, as far as it is known now; 0 with none (R280, R315). -/
def State.engineFree (s : State) (die engine : Nat) : Nat :=
  (s.engineQueue die engine).foldl (fun f q =>
    let st := s.clock + q.2.start - s.taskNow q.1
    (if q.2.started then st else max st f) + q.2.span) 0

/-- ATTN (R279, R280). -/
def execAttn (cl : Cls) (a : CSrc) (s : State) : Out :=
  issue .c (fun s c => do
    engineOk c
    let (va, c) ← readC1 s c a
    if 4 ≤ s.attnJobs s.cur then .error (.trap .queueFull (BitVec.ofNat 64 (25 + 4 * 256)))
    else if va.toNat % 64 ≠ 0 then .error (.trap .align (accessInfo va 0 false))
    else do
      let (segs, c) ← checkWhole s s.cur c cl .rw va 128
      let pas := segPas segs 0x40 5
      if s.poisoned pas then .error (.trap .eccUncorrectable (accessInfo va 0 false))
      else
        let f := s.readAs s.cur pas
        let ne := numAt f 0 2
        let g := numAt f 2 1
        let select := numAt f 3 1 / 32 % 2 == 1
        let dcode := numAt f 4 1 / 2 % 4
        let lat := max 160 (s.classLat cl)
        let tp := 16 + g * headDim dcode / 4
        let span := 4 * lat + ne + (if select then 4 * ne else 0) + ne * tp + 24
        let engine := s.cur.core % 8
        let tau := c.ctx.tau
        let wait := max 1 (s.engineFree s.cur.die engine - s.clock)
        let promise := (s.framecnt s.cur + wait + span) % 2 ^ 63
        let job : AttnJob := ⟨engine, cl, c.domtag, va, segs, ne, g, dcode, select, lat, span, tau + wait, false, false, 0,
          [], [], [], [], [], [], [], [], [], [], c.posOf .c⟩
        return ⟨c, [pushH0 1 (BitVec.ofNat 64 promise), ⟨wait, none, false, .attnStart, .beat s.seq 0 true⟩], .next 1, none,
          [⟨s.seq, s.cur, true, .attn job⟩], pas⟩) s

/-- The attention request with a number. -/
def State.attnJob (s : State) (id : Nat) : Option (Job × AttnJob) :=
  (s.job? id).bind fun j => j.attn?.map fun k => (j, k)

/-- The request in the event's argument. -/
def State.attnArg (s : State) : Option (Job × AttnJob × Nat) :=
  match s.arg with
  | .beat id j _ => (s.attnJob id).map fun p => (p.1, p.2, j)
  | _ => none

def State.putAttn (s : State) (job : Job) (k : AttnJob) : State := s.setJob { s.again job with body := .attn k }

/-- A request of the same engine is ahead and not finished. -/
def State.attnBehind (s : State) (job : Job) (k : AttnJob) : Bool :=
  match s.engineQueue job.owner.die k.engine with | q :: _ => q.1.id != job.id | [] => false

/-- A step of a request d cycles after the present one. -/
def State.attnGo (s : State) (job : Job) (d : Nat) (ev : Instr) (j : Nat) (pas : List Nat) : State :=
  s.chainIn (s.again job) d pas ev (.beat job.id j true)

/-- ATTN_START (R280, R315): S comes, or waits for the request ahead. -/
def execAttnStart (s : State) : Out :=
  match s.attnArg with
  | none => .refused (.notPending "ATTN_START")
  | some (job, k, _) =>
    if s.attnBehind job k then .next (s.putAttn job { k with waiting := true })
    else
      let s1 := s.putAttn job { k with start := s.jobNow job, started := true, waiting := false }
      .next (s1.attnGo job k.lat .attnBlockRead 0 (segPas k.blk 0 128))

/-! ### The chain of steps (R280). A step that has to wait delays all behind it (R315). -/

/-- Where the first and the last byte of a range lie, as far as no walk is needed (R314). -/
def State.endsOf (s : State) (id : CoreId) (va : Word) (n : Nat) : List Nat :=
  if n = 0 then [] else [va, va + BitVec.ofNat 64 (n - 1)].filterMap (s.whereIs id)

/-- Entry j as read. -/
def AttnJob.ent (k : AttnJob) (j : Nat) : KvEntry := kvOf (k.ents.getD j [])

/-- The bytes of a page's K and V. -/
def KvEntry.body (e : KvEntry) : Nat := e.image - 1024

/-- The valid tokens of the entries read. -/
def AttnJob.tokens (k : AttnJob) : Nat := (k.ents.map fun e => (kvOf e).count).foldl (· + ·) 0

/-- The step of entry j in d cycles; after the last entry the bitmap's. -/
def State.toEntry (s : State) (job : Job) (k : AttnJob) (d j : Nat) : State :=
  let b := attnBlockOf k.block
  if j < k.ne then s.attnGo job d .attnEntryRead j (s.endsOf job.owner (b.table + BitVec.ofNat 64 (16 * j)) 16)
  else s.attnGo job d .attnBitmapRead 0 (if b.bitmapOn then s.endsOf job.owner b.bitmap ((k.tokens + 7) / 8) else [])

/-- The step of page j in d cycles; after the last page the end of the request. -/
def State.toPage (s : State) (job : Job) (k : AttnJob) (d j : Nat) : State :=
  if j < k.ne then
    s.attnGo job d .attnPageRead j (if k.status = 0 then [(k.ent j).page, (k.ent j).page + (k.ent j).image - 1] else [])
  else s.attnGo job (d + k.lat + 24) .attnComplete 0 (segPas k.blk 0x7C 4 ++ (if k.status = 0 then segsPas k.out ++ segsPas k.triple else []))

/-- The step of page j's signatures in d cycles; without a selection, or after the last page, that of the first page's image. -/
def State.toSignature (s : State) (job : Job) (k : AttnJob) (d j : Nat) : State :=
  if k.select ∧ j < k.ne then
    s.attnGo job d .attnSignatureRead j (if k.status = 0 then pasFrom ((k.ent j).page + (k.ent j).body) 512 else [])
  else s.toPage job k d 0

/-! ### Reads and checks (R280, R282) -/

/-- The first problem is recorded (R282). -/
def AttnJob.fail (k : AttnJob) (code j : Nat) : AttnJob :=
  if k.status = 0 then { k with status := code + j % 65536 * 256 } else k

/-- A range of the request checked in its class: its pieces, a status code, or a walk of the free task. -/
def State.attnRange (s : State) (job : Job) (k : AttnJob) (perm : Perm) (va : Word) (n : Nat) :
    Except (Nat ⊕ Walk) (List Seg × Core) :=
  match checkWhole s job.owner (s.core job.owner) k.cl perm va n with
  | .ok r => .ok r
  | .error (.trap cause _) => .error (.inl cause.code)
  | .error (.walk w) => if job.live then .error (.inr w) else .error (.inl 0x10)
  | .error _ => .error (.inl 0x10)

/-- A failed walk has given its status. -/
def State.walkTold (s : State) (id : CoreId) : State := s.modCore id fun c => c.modCtx fun x => { x with walkFail := none }

/-- What a step does with a range: reads go on, a problem is recorded, a walk begins. -/
def State.attnTry (s : State) (job : Job) (k : AttnJob) (j : Nat) (ev : Instr) (r : Except (Nat ⊕ Walk) (State × AttnJob)) : State :=
  match r with
  | .ok (t, k1) => t.putAttn job k1
  | .error (.inl code) => (s.putAttn job (k.fail code j)).walkTold job.owner
  | .error (.inr w) => s.engineWalk job ev w

/-- Where the ranges of the operands begin and end. -/
def State.operandEnds (s : State) (id : CoreId) (k : AttnJob) : List Nat :=
  let b := attnBlockOf k.block
  let d := headDim b.dcode
  if k.status ≠ 0 then []
  else s.endsOf id b.query (b.g * d * elemSize b.format) ++ s.endsOf id b.omega (4 * d) ++
    (if b.select then s.endsOf id b.proj (256 * d) else []) ++
    (if b.tripleIn then s.endsOf id b.triple (8 * b.g) ++ s.endsOf id b.output (4 * b.g * d) else [])

/-- ATTN_BLOCK_READ (R280, R282): the block's fields, at S + lat. -/
def execAttnBlockRead (s : State) : Out :=
  match s.attnArg with
  | none => .refused (.notPending "ATTN_BLOCK_READ")
  | some (job, k, _) =>
    let (bs, s1) := s.engineRead job (fun i => k.va.toNat + i) (segPas k.blk 0 128) k.pos
    let k1 := ({ k with block := bs } : AttnJob).fail (blockFault bs k) 0
    let s2 := s1.putAttn job k1
    .next (s2.attnGo job k.lat .attnOperandRead 0 (s2.operandEnds job.owner k1))

/-- The rows that a request starts from (R281). -/
def startRows (g d : Nat) (tripleIn : Bool) (tr out : List Byte) : List SoftRow :=
  (List.range g).map fun r =>
    if tripleIn then ⟨f32At tr (2 * r), f32At tr (2 * r + 1), (List.range d).map fun e => f32At out (r * d + e)⟩
    else ⟨fNegInf, 0, List.replicate d 0⟩

/-- The ranges of S + 2·lat checked in their order: query, ω, Π and triple in, to be read; output and triple out, to be written (R282).
The output's pages are not asked for read access under a triple in, whose rows come from there too (R281). -/
def State.attnOperands (s : State) (job : Job) (k : AttnJob) : Except (Nat ⊕ Walk) (State × AttnJob) := do
  let b := attnBlockOf k.block
  let d := headDim b.dcode
  let w := elemSize b.format
  let (q, _) ← s.attnRange job k .r b.query (b.g * d * w)
  let (om, _) ← s.attnRange job k .r b.omega (4 * d)
  let pj ← if b.select then (do let (x, _) ← s.attnRange job k .r b.proj (256 * d); pure x) else pure []
  let ti ← if b.tripleIn then (do let (x, _) ← s.attnRange job k .r b.triple (8 * b.g); pure x) else pure []
  let (out, _) ← s.attnRange job k .w b.output (4 * b.g * d)
  let tr ← if b.tripleOut then (do let (x, _) ← s.attnRange job k .w b.triple (8 * b.g); pure x) else pure []
  let (qb, s1) := s.engineRead job (fun i => b.query.toNat + i) (segsPas q) k.pos
  let (ob, s2) := s1.engineRead (s1.again job) (fun i => b.omega.toNat + i) (segsPas om) k.pos
  let (pb, s3) := s2.engineRead (s2.again job) (fun i => b.proj.toNat + i) (segsPas pj) k.pos
  let (tb, s4) := s3.engineRead (s3.again job) (fun i => b.triple.toNat + i) (segsPas ti) k.pos
  let (rb, s5) := s4.engineRead (s4.again job) (fun i => b.output.toNat + i) (if b.tripleIn then segsPas out else []) k.pos
  return (s5, { k with query := qb, omega := ob, proj := pb, rows := startRows b.g d b.tripleIn tb rb, out := out, triple := tr })


/-- The code of an entry's problem, 0 for none: valid and tag, then format and dimension, then the page (R282; log entry
27). -/
def State.entryFault (s : State) (job : Job) (k : AttnJob) (e : KvEntry) : Nat :=
  let b := attnBlockOf k.block
  if !e.valid || e.tag != k.tag then 0x11
  else if e.format != b.format || e.dcode != b.dcode then 0x02
  else if !s.pageHome job.owner e then 0x11
  else 0

/-- Entry j is checked and read. -/
def State.attnEntry (s : State) (job : Job) (k : AttnJob) (j : Nat) : Except (Nat ⊕ Walk) (State × AttnJob) := do
  let va := (attnBlockOf k.block).table + BitVec.ofNat 64 (16 * j)
  let (segs, _) ← s.attnRange job k .r va 16
  let (bs, s1) := s.engineRead job (fun i => va.toNat + i) (segsPas segs) k.pos
  let f := s.entryFault job k (kvOf bs)
  return (s1, if f = 0 then { k with ents := k.ents ++ [bs] } else k.fail f j)

/-- A step begins a walk and is to be taken again. -/
def walks {α : Type} (r : Except (Nat ⊕ Walk) α) : Bool := match r with | .error (.inr _) => true | _ => false

/-- The request as a step left it. -/
def State.attnNow (s : State) (job : Job) (k : AttnJob) : AttnJob := ((s.attnJob job.id).map (·.2)).getD k

/-- ATTN_OPERAND_READ (R280, R282): entry 0 is read behind the operands, in the same cycle. -/
def execAttnOperandRead (s : State) : Out :=
  match s.attnArg with
  | none => .refused (.notPending "ATTN_OPERAND_READ")
  | some (job, k, _) =>
    if k.status ≠ 0 then .next (s.toEntry job k 0 0)
    else
      let r := s.attnOperands job k
      let s1 := s.attnTry job k 0 .attnOperandRead r
      .next (if walks r then s1 else s1.toEntry job (s1.attnNow job k) 0 0)

/-- ATTN_ENTRY_READ (R280, R282). -/
def execAttnEntryRead (s : State) : Out :=
  match s.attnArg with
  | none => .refused (.notPending "ATTN_ENTRY_READ")
  | some (job, k, j) =>
    if k.status ≠ 0 then .next (s.toEntry job k 1 (j + 1))
    else
      let r := s.attnEntry job k j
      let s1 := s.attnTry job k j .attnEntryRead r
      .next (if walks r then s1 else s1.toEntry job (s1.attnNow job k) 1 (j + 1))

/-- ATTN_BITMAP_READ (R280). -/
def execAttnBitmapRead (s : State) : Out :=
  match s.attnArg with
  | none => .refused (.notPending "ATTN_BITMAP_READ")
  | some (job, k, _) =>
    let b := attnBlockOf k.block
    if k.status ≠ 0 ∨ !b.bitmapOn then .next (s.toSignature job k k.lat 0)
    else
      let r := do
        let (segs, _) ← s.attnRange job k .r b.bitmap ((k.tokens + 7) / 8)
        let (bs, s1) := s.engineRead job (fun i => b.bitmap.toNat + i) (segsPas segs) k.pos
        return (s1, { k with bitmap := bs })
      let s1 := s.attnTry job k 0 .attnBitmapRead r
      .next (if walks r then s1 else s1.toSignature job (s1.attnNow job k) k.lat 0)

/-- ATTN_SIGNATURE_READ (R280). -/
def execAttnSignatureRead (s : State) : Out :=
  match s.attnArg with
  | none => .refused (.notPending "ATTN_SIGNATURE_READ")
  | some (job, k, j) =>
    if k.status ≠ 0 then .next (s.toSignature job k 4 (j + 1))
    else
      let e := k.ent j
      let (bs, s1) := s.engineReadPa job false (pasFrom (e.page + e.body) 512) k.pos
      .next ((s1.putAttn job { k with sigs := k.sigs ++ [bs] }).toSignature job k 4 (j + 1))

/-! ### Arithmetic (R281) -/

/-- A token of the request: entry, slot, position. -/
structure Tok where
  j : Nat
  c : Nat
  pos : Nat
  deriving DecidableEq, Repr

/-- The logical tokens in order. -/
def AttnJob.toks (k : AttnJob) : List Tok :=
  k.ents.zipIdx.flatMap fun e =>
    let v := kvOf e.1
    (List.range v.count).map fun c => ⟨e.2, c, (v.base + c) % 2 ^ 32⟩

/-- allowed(i). -/
def attnAllowed (b : AttnBlock) (bitmap : List Byte) (i : Nat) (t : Tok) : Bool :=
  (match b.kind with
    | 1 => decide (t.pos ≤ b.qpos)
    | 2 => decide (t.pos ≤ b.qpos) && decide (b.qpos - t.pos < b.window)
    | _ => true) && (!b.bitmapOn || (bitmap.getD (i / 8) 0).getLsbD (i % 8))

/-- The elements of query row r, exactly, without a scale. -/
def AttnJob.queryRow (k : AttnJob) (r : Nat) : List F32 :=
  let b := attnBlockOf k.block
  let d := headDim b.dcode
  (List.range d).map fun e => rowElem b.format k.query (r * d + e)

/-- A stable insertion by distance. -/
def insertByDist (x : Nat × Tok) : List (Nat × Tok) → List (Nat × Tok)
  | [] => [x]
  | y :: ys => if x.1 < y.1 then x :: y :: ys else y :: insertByDist x ys

/-- The tokens kept for query row r. -/
def AttnJob.kept (k : AttnJob) (r : Nat) : List Tok :=
  let b := attnBlockOf k.block
  let ok := (k.toks.zipIdx.filter fun e => attnAllowed b k.bitmap e.2 e.1).map (·.1)
  if !b.select then ok
  else
    let sig := signature (k.queryRow r) k.proj
    let near := (ok.map fun t => (hamming sig (numAt (k.sigs.getD t.j []) (8 * t.c) 8), t)).filter fun e => decide (e.1 ≤ b.radius)
    if near.length ≤ b.budget then near.map (·.2)
    else ((near.foldl (fun acc x => insertByDist x acc) []).take b.budget).map (·.2)

/-- A row turned to a position and encoded in the page's format: exact values (R271, R281). -/
def turned (format pos : Nat) (x : List F32) (omega : List Byte) : List FVal :=
  let f := if format = 0 then fBF16 else fE4M3
  let out := fun (v : F32) => f.decode (f.encode .rne (f32val v))
  (List.range (x.length / 2)).flatMap fun q =>
    let p := rotPair (x.getD (2 * q) 0) (x.getD (2 * q + 1) 0) pos (numAt omega (8 * q) 8)
    [out p.1, out p.2]

/-- The sum of 32-element blocks of products added in order (R80, R281). -/
def blockDot (q k : List FVal) (sq sk : FVal) : F32 :=
  (List.range (q.length / 32)).foldl (fun (x : F32) b =>
    fadd x (sumBlock (List.zipWith FVal.mul ((q.drop (32 * b)).take 32) ((k.drop (32 * b)).take 32)) sq sk)) 0

/-- The scale at an offset of a page, 1 for BF16 pages. -/
def pageScale (format : Nat) (bs : List Byte) (o : Nat) : FVal := if format = 0 then f32val fOne else f32val (s24 (numAt bs o 3))

/-- One row folded with entry j's page (R260, R281). -/
def foldPage (b : AttnBlock) (omega img : List Byte) (q : List FVal) (kept : List Tok) (j : Nat) (row : SoftRow) : SoftRow :=
  let d := headDim b.dcode
  let body := 128 * d * elemSize b.format
  let sq := if b.format = 0 then f32val fOne else f32val (s24 b.qscale)
  let slot := fun c => kept.find? fun t => t.j == j && t.c == c
  let valid := (List.range 64).map fun c => (slot c).isSome
  let x := (List.range 64).map fun c => match slot c with
    | some t =>
      let key := (List.range d).map fun e => rowElem b.format img (c * d + e)
      blockDot q (turned b.format t.pos key omega) sq (pageScale b.format img (body + 512 + 3 * c))
    | none => fNegInf
  let (m, s, a, p) := scoreRow row.m row.s x valid
  let pb := p.map fun v => fBF16.decode (fBF16.encode .rne (f32val v))
  let sv := pageScale b.format img (body + 704)
  let o := (row.o.map fun v => fmul v a).zipIdx.map fun e =>
    (List.range 2).foldl (fun (acc : F32) h =>
      let v := (List.range 32).map fun i => f32val (rowElem b.format img ((64 + 32 * h + i) * d + e.2))
      fadd acc (sumBlock (List.zipWith FVal.mul ((pb.drop (32 * h)).take 32) v) (f32val fOne) sv)) e.1
  ⟨m, s, o⟩

/-- The rows folded with entry j's page. -/
def AttnJob.fold (k : AttnJob) (img : List Byte) (j : Nat) : AttnJob :=
  let b := attnBlockOf k.block
  { k with rows := k.rows.zipIdx.map fun e =>
      foldPage b k.omega img (turned b.format b.qpos (k.queryRow e.2) k.omega) (k.kept e.2) j e.1 }

/-- ATTN_PAGE_READ (R280 to R282): page j's image, its CRC when sealed, and the fold. -/
def execAttnPageRead (s : State) : Out :=
  match s.attnArg with
  | none => .refused (.notPending "ATTN_PAGE_READ")
  | some (job, k, j) =>
    let b := attnBlockOf k.block
    let tp := 16 + k.g * headDim k.dcode / 4
    if k.status ≠ 0 then .next (s.toPage job k tp (j + 1))
    else
      let e := k.ent j
      let n := if e.sealed_ then e.image else e.body + 707
      let pas := pasFrom e.page (if e.sealed_ then n else e.body) ++
        (if e.sealed_ then [] else pasFrom (e.page + e.body + 512) 195)
      let (bs, s1) := s.engineReadPa job false pas k.pos
      let img := if e.sealed_ then bs else bs.take e.body ++ List.replicate 512 0 ++ bs.drop e.body
      let bad := e.sealed_ && crc32c (img.take (n - 4)) != leNat (img.drop (n - 4))
      let k1 := if bad then k.fail 0x21 j else if b.ne = 0 then k else k.fold img j
      .next ((s1.putAttn job k1).toPage job k1 tp (j + 1))

/-- An output row: divided by its sum unless a triple goes out (R281). -/
def SoftRow.out (r : SoftRow) (tripleOut : Bool) : List F32 :=
  if tripleOut then r.o else r.o.map fun v => if (f32val r.s).isZero then 0 else fdiv v r.s

/-- The writes at F of a request without a problem. -/
def AttnJob.results (k : AttnJob) : List ByteWrite :=
  let b := attnBlockOf k.block
  let f32s := fun (l : List F32) => l.flatMap fun v => leBytes v.toNat 4
  writesAt (segsPas k.out) b.output.toNat (k.rows.flatMap fun r => f32s (r.out b.tripleOut)) ++
  (if b.tripleOut then writesAt (segsPas k.triple) b.triple.toNat (k.rows.flatMap fun r => f32s [r.m, r.s]) else [])

/-- The waiting request behind one that has finished starts in the same cycle (R280, R315). -/
def State.attnRelease (s : State) (die engine : Nat) : State :=
  match s.engineQueue die engine with
  | q :: _ => if q.2.waiting then s.chain q.1 (s.taskNow q.1) 0 [] .attnStart (.beat q.1.id 0 true) else s
  | [] => s

/-- ATTN_COMPLETE (R280 to R282): output, triple and status are written at F. -/
def execAttnComplete (s : State) : Out :=
  match s.attnArg with
  | none => .refused (.notPending "ATTN_COMPLETE")
  | some (job, k, _) =>
    let st := writesAt (segPas k.blk 0x7C 4) (k.va.toNat + 0x7C) (leBytes k.status 4)
    let s1 := s.writeAs job.owner ((if k.status = 0 then k.results else []) ++ st)
    let s2 := if job.live && k.status % 256 == 0x21 then
        s1.modCore job.owner fun c => c.modCtx fun x => { x with attnFails := satInc x.attnFails }
      else s1
    .next ((s2.dropJob job.id).attnRelease job.owner.die k.engine)

end Sys2Proof.Machine
end

