-- ==== Sys2Proof/Machine/Cast.lean ====
section
/-! DEFINITION. The cast tree and the cast engine: CFIND, CPUT, CREL, CSTAT and the steps of a request (R283 to R297). -/

namespace Sys2Proof.Machine

open Sys2Proof

/-! ### The tree header (R284) -/

structure Tree where
  pool : Word
  slab : Word
  buckets : Word
  slots : Word
  ring : Word
  nn : Nat
  ringN : Nat
  cs : Nat
  maxp : Nat
  gc : Nat
  nb : Nat
  tag : Nat
  deriving DecidableEq, Repr

def treeOf (bs : List Byte) : Tree :=
  let w := fun o => BitVec.ofNat 64 (numAt bs o 8)
  ⟨w 0, w 8, w 0x10, w 0x18, w 0x20, numAt bs 0x28 4, numAt bs 0x2C 4, numAt bs 0x30 4, numAt bs 0x34 2, numAt bs 0x36 1,
    numAt bs 0x37 1, numAt bs 0x38 2⟩

def treeEngOf (bs : List Byte) : TreeEng :=
  ⟨numAt bs 0x40 4, numAt bs 0x44 4, numAt bs 0x48 4, numAt bs 0x50 8, numAt bs 0x58 4, numAt bs 0x5C 4, numAt bs 0x60 4,
    numAt bs 0x64 4, numAt bs 0x68 4⟩

/-- The engine's 64 bytes of a header. -/
def TreeEng.bytes (e : TreeEng) : List Byte :=
  leBytes e.free 4 ++ leBytes e.high 4 ++ leBytes e.used 4 ++ leBytes 0 4 ++ leBytes e.clock 8 ++ leBytes e.ring 4 ++
  leBytes e.mismatch 4 ++ leBytes e.lookups 4 ++ leBytes e.evictions 4 ++ leBytes e.full 4 ++ List.replicate 20 0

/-- G, the tokens of a chunk. -/
def Tree.g (t : Tree) : Nat := 16 * 2 ^ t.gc

def CastJob.tree (k : CastJob) : Tree := treeOf k.head

/-- A node record (R285). -/
structure CNode where
  parent : Nat
  depth : Nat
  key : Nat
  refs : Nat
  tag : Nat
  children : Nat
  last : Nat
  valid : Bool
  cast : Bool
  next : Nat
  deriving DecidableEq, Repr

def nodeOf (bs : List Byte) : CNode :=
  ⟨numAt bs 0 4, numAt bs 4 4, numAt bs 8 8, numAt bs 0x10 2, numAt bs 0x12 2, numAt bs 0x14 4, numAt bs 0x18 8,
    numAt bs 0x20 1 % 2 == 1, numAt bs 0x20 1 / 2 % 2 == 1, numAt bs 0x24 4⟩

def CNode.bytes (n : CNode) : List Byte :=
  leBytes n.parent 4 ++ leBytes n.depth 4 ++ leBytes n.key 8 ++ leBytes n.refs 2 ++ leBytes n.tag 2 ++ leBytes n.children 4 ++
  leBytes n.last 8 ++ leBytes (boolNat n.valid + boolNat n.cast * 2) 1 ++ leBytes 0 3 ++ leBytes n.next 4 ++
  List.replicate 24 0

/-! ### The engine's reach (R288, R290) -/

/-- What the steps of a cast request give: a value, or the status that ends the request with the bytes read until then. -/
abbrev CastE := Except (Nat × List Nat)

/-- A range as the cast engine reaches it: pinned entries only, class D; a status code where it cannot. -/
def State.castRange (s : State) (owner : CoreId) (k : CastJob) (perm : Perm) (va : Word) (n : Nat) : CastE (List Seg) :=
  let c := s.core owner
  let c1 := { c with tlb := c.tlb.filter (·.pinned), ctx := { c.ctx with found := [], walkFail := none } }
  match checkWhole s owner c1 .d perm va n with
  | .ok (segs, _) => .ok segs
  | .error (.trap cause _) => .error (cause.code, k.reads)
  | .error _ => .error (0x10, k.reads)

/-- The cast engine of a die, as the ledger names it among those that see a write. -/
def castEngine (die : Nat) : CoreId := ⟨die, 125⟩

/-- Memory as a request sees it: with every write of the engine's earlier requests (R290). -/
def State.castView (s : State) (job : Job) : State := s.reveal job.owner fun r => r.seen.contains (castEngine job.owner.die)

/-- A byte as the request sees it: its own pending writes first. -/
def CastJob.byte (k : CastJob) (pa : Nat) (old : Byte) : Byte := (listGet? k.overlay pa).getD old

/-- Bytes read by a step. -/
def castGetPas (s : State) (job : Job) (k : CastJob) (pas : List Nat) : List Byte × CastJob :=
  ((pas.zip ((s.castView job).engineBytes job.owner pas)).map fun e => k.byte e.1 e.2,
    { k with reads := k.reads ++ pas.filter fun pa => (listGet? k.overlay pa).isNone })

/-- Bytes of a range read by a step. -/
def castGet (s : State) (job : Job) (k : CastJob) (va : Word) (n : Nat) : CastE (List Byte × CastJob) := do
  let segs ← s.castRange job.owner k .r va n
  return castGetPas s job k (segsPas segs)

/-- Bytes that the request is to write at F, in an area or a header that its start step has checked. -/
def castPut (s : State) (job : Job) (k : CastJob) (va : Word) (bs : List Byte) : CastJob :=
  match s.castRange job.owner k .r va bs.length with
  | .ok segs => { k with overlay := ((segsPas segs).zip bs).reverse ++ k.overlay }
  | .error _ => k

def Tree.nodeVa (t : Tree) (w : Nat) : Word := t.pool + BitVec.ofNat 64 (64 * (w - 1))
def Tree.bucketVa (t : Tree) (i : Nat) : Word := t.buckets + BitVec.ofNat 64 (4 * i)
def Tree.chunkVa (t : Tree) (w : Nat) : Word := t.slab + BitVec.ofNat 64 (4 * t.g * (w - 1))
def Tree.slotVa (t : Tree) (w : Nat) : Word := t.slots + BitVec.ofNat 64 (t.cs * (w - 1))

def castNode (s : State) (job : Job) (k : CastJob) (w : Nat) : CastE (CNode × CastJob) := do
  let (bs, k) ← castGet s job k (k.tree.nodeVa w) 64
  return (nodeOf bs, k)

def castPutNode (s : State) (job : Job) (k : CastJob) (w : Nat) (n : CNode) : CastJob := castPut s job k (k.tree.nodeVa w) n.bytes

def castBucket (s : State) (job : Job) (k : CastJob) (i : Nat) : CastE (Nat × CastJob) := do
  let (bs, k) ← castGet s job k (k.tree.bucketVa i) 4
  return (leNat bs, k)

/-! ### Instructions (R289, R295) -/

/-- The cast requests of a die's engine, in the order of their acceptance (R290). -/
def State.castQueue (s : State) (die : Nat) : List (Job × CastJob) :=
  s.jobs.filterMap fun j => match j.body with
    | .cast k => if j.owner.die = die then some (j, k) else none
    | _ => none

/-- The kind as CSTAT's TINFO tells it (R295). -/
def CastOp.kind : CastOp → Nat
  | .find _ => 0 | .put _ => 1 | .rel => 2

/-- A cast request's checks and acceptance at I (R289). -/
def castIssue (op : CastOp) (cl : Cls) (perm : Perm) (n : Nat) (va handle : Word) (s : State) (c : Core) :
    Except Stop IssueOut := do
  if 8 ≤ c.ctx.castq.length then .error (.trap .queueFull (BitVec.ofNat 64 (26 + 8 * 256)))
  else if va.toNat % 64 ≠ 0 then .error (.trap .align (accessInfo va 0 false))
  else do
    let (segs, c) ← checkWhole s s.cur c cl perm va n
    let job : CastJob := ⟨op, c.domtag, va, handle, segs, false, false, [], none, [], ⟨0, 0, 0, 0, 0, 0, 0, 0, 0⟩, false, 0, 0, 0,
      0, [], 0, 0, (0, 0), 0, 0, none, 0, [], 0, 0, false, false, [], [], [], [], c.posOf .c⟩
    let c1 := c.modCtx fun x => { x with castq := x.castq ++ [⟨s.seq, op.kind, none⟩] }
    return ⟨c1, [⟨1, none, false, .castRequestStart, .beat s.seq 0 true⟩], .next 1, none, [⟨s.seq, s.cur, true, .cast job⟩], []⟩

/-- CFIND (R289, R291). -/
def execCfind (hold : Bool) (cl : Cls) (a : CSrc) (s : State) : Out :=
  issue .c (fun s c => do
    engineOk c
    let (va, c) ← readC1 s c a
    castIssue (.find hold) cl .rw 64 va 0 s c) s

/-- CPUT (R289, R292). -/
def execCput (hold : Bool) (cl : Cls) (a : CSrc) (s : State) : Out :=
  issue .c (fun s c => do
    engineOk c
    let (va, c) ← readC1 s c a
    castIssue (.put hold) cl .rw 64 va 0 s c) s

/-- CREL (R289, R294). -/
def execCrel (a b : CSrc) (s : State) : Out :=
  issue .c (fun s c => do
    engineOk c
    let (va, h, c) ← readC2 s c a b
    castIssue .rel .d .r 128 va h s c) s

/-- A status that CSTAT raises: its cause, if it is one of the causes of R288 that are faults (R295). -/
def castCause (status : Nat) : Option Cause :=
  match status % 256 with
  | 0x02 => some .illegalFormat | 0x10 => some .translateMiss | 0x11 => some .protection | 0x12 => some .class_
  | 0x13 => some .align | 0x22 => some .castFull | _ => none

/-- TINFO of a status that CSTAT raises (R295). -/
def castInfo (e : CastEnt) (status : Nat) : Word := BitVec.ofNat 64 (status % 2 ^ 32 + e.kind * 2 ^ 32)

/-- CSTAT (R295). -/
def execCstat (s : State) : Out :=
  issue .c (fun _ c => do
    engineOk c
    match c.ctx.castq with
    | [] => return .plain c [pushH0 1 (BitVec.allOnes 64)]
    | q :: rest =>
      match q.done with
      | none =>
        if c.isLocked then .error (.trap .syncLate 0)
        else return ⟨c.modCtx fun x => { x with report := some q.id }, [], .wait .cstat, none, [], []⟩
      | some st =>
        let c1 := c.modCtx fun x => { x with castq := rest }
        match castCause st with
        | some cause => return ⟨c1, [], .next 1, some ⟨false, cause, castInfo q st⟩, [], []⟩
        | none => return .plain c1 [pushH0 1 (BitVec.ofNat 64 st)]) s

/-- The waiting CSTAT of a core has its answer. -/
def State.castAnswer (s : State) (id : CoreId) : Option (CastEnt × Nat) :=
  let c := s.core id
  if c.tauStands then none
  else match c.ctx.report, c.ctx.castq with
    | some r, q :: _ => if q.id = r then q.done.map fun st => (q, st) else none
    | _, _ => none

/-- CSTAT_WAKE (R295): the request is reported at w, and C goes on. -/
def execCstatWake (s : State) : Out :=
  match s.castAnswer s.cur with
  | none => .refused (.notPending "CSTAT_WAKE")
  | some (q, st) =>
    let s1 := s.modCore s.cur fun c =>
      let c1 := c.modCtx fun x => { x with report := none, castq := x.castq.drop 1 }
      match (c.stream .c).mode with
      | .wait .cstat => c1.setStream .c { c1.stream .c with mode := .run, reach := c.ctx.tau }
      | .lineDone (some .cstat) => c1.setStream .c { c1.stream .c with mode := .lineDone none }
      | _ => c1
    match castCause st with
    | some cause => .next (s1.tick.tick.takeTrap s.cur cause (castInfo q st) (s1.afterItem s.cur (s1.core s.cur)))
    | none => .next (s1.bump.schedule ⟨.tau s.cur, (s.core s.cur).ctx.tau + 1, s.cur, s.seq, true, .resultLanding,
        .landing (.cval (BitVec.ofNat 64 st) none)⟩)

/-! ### The run of a request (R290 to R294) -/

/-- The cast request in the event's argument. -/
def State.castArg (s : State) : Option (Job × CastJob) :=
  match s.arg with
  | .beat id _ _ => (s.job? id).bind fun j => match j.body with | .cast k => some (j, k) | _ => none
  | _ => none

/-- What a step leads to: another step of so many cycles, or F, the cycle after this step. -/
inductive CastNext where
  | step (cycles : Nat) (ev : Instr)
  | finish
  deriving DecidableEq, Repr

/-- A step's outcome: the request and its way on, or the problem that ends it. -/
abbrev CastStep := CastE (CastJob × CastNext)

/-- A request with its problem recorded goes to F. -/
def CastJob.stop (k : CastJob) (code : Nat) : CastJob × CastNext := ({ k with status := code }, .finish)

/-- A request whose step ended at a problem, with what the step read. -/
def CastJob.stopAt (k : CastJob) (e : Nat × List Nat) : CastJob × CastNext := { k with reads := e.2 }.stop e.1

/-- The bytes that a step reads, as far as they are known before it (R314). -/
def State.castAhead (s : State) (job : Job) (k : CastJob) (ev : Instr) : List Nat :=
  let of := fun (va : Word) n => ((s.castRange job.owner k .r va n).toOption.getD []).flatMap fun g => [g.pa, g.pa + g.len - 1]
  let t := k.tree
  match ev with
  | .castChunkStep => of (k.toks + BitVec.ofNat 64 (4 * t.g * k.k)) (4 * t.g)
  | .castProbeStep => of (t.bucketVa k.bucket) 4
  | .castConfirmStep => of (t.chunkVa k.cand) (4 * t.g)
  | .castAllocateStep => if k.eng.free = 0 then [] else of (t.nodeVa k.eng.free) 64
  | .castEvictStep => of (t.nodeVa k.victim) 64
  | .castDepositStep => of k.img 64
  | _ => []

/-- A step comes about in its last cycle: its reads meet ECC (R237, R290), and the next step is due. -/
def State.castStep (s : State) (ev : String) (f : Job → CastJob → CastStep) : Out :=
  match s.castArg with
  | none => .refused (.notPending ev)
  | some (job, k) =>
    let (k1, n) := match f job { k with reads := [] } with
      | .ok r => r
      | .error e => k.stopAt e
    let (_, s1) := s.engineReadPa job false k1.reads k.pos
    let job := s1.again job
    let s2 := s1.setJob { job with body := .cast k1 }
    let arg : Arg := .beat job.id 0 true
    .next (match n with
      | .step d e => s2.chainIn job d (s2.castAhead job k1 e) e arg
      | .finish => s2.chainIn job 1 (k1.overlay.map (·.1) ++ segPas k1.blk 0x30 12) .castRequestFinish arg)

/-- CAST_REQUEST_START (R290): S comes, or waits for the request ahead; the start step is due in its last cycle. -/
def execCastRequestStart (s : State) : Out :=
  match s.castArg with
  | none => .refused (.notPending "CAST_REQUEST_START")
  | some (job, k) =>
    let ahead := match s.castQueue job.owner.die with | q :: _ => q.1.id != job.id | [] => false
    if ahead then .next (s.setJob { job with body := .cast { k with waiting := true } })
    else
      .next ((s.setJob { job with body := .cast { k with waiting := false, started := true } }).chainIn job 159 (segsPas k.blk) .castStartStep
        (.beat job.id 0 true))

/-- A condition whose failure is a status. -/
def need (k : CastJob) (ok : Bool) (code : Nat) : CastE Unit := if ok then .ok () else .error (code, k.reads)

/-- A range that lies in vaults of the own die (R284). -/
def castArea (s : State) (job : Job) (k : CastJob) (va : Word) (n : Nat) : CastE Unit := do
  let segs ← s.castRange job.owner k .rw va n
  need k (segs.all fun g => paSpace g.pa == 0) 0x11

/-- The checks of a header (R284, R290). -/
def castHeader (s : State) (job : Job) (k : CastJob) (t : Tree) (bs : List Byte) : CastE Unit := do
  need k (t.pool.toNat % 64 == 0 && t.slab.toNat % 64 == 0 && t.buckets.toNat % 64 == 0 && t.slots.toNat % 64 == 0
    && t.ring.toNat % 8 == 0) 0x13
  need k (decide (1 ≤ t.nn) && decide (t.nn ≤ 2 ^ 24) && decide (1 ≤ t.ringN) && decide (t.ringN ≤ 2 ^ 24) && t.cs % 64 == 0
    && decide (64 ≤ t.cs) && decide (t.cs ≤ 2 ^ 20) && decide (t.maxp ≤ 4096) && decide (t.gc < 7) && decide (4 ≤ t.nb)
    && decide (t.nb ≤ 26) && numAt bs 0x3A 6 == 0) 0x02
  castArea s job k t.pool (64 * t.nn)
  castArea s job k t.slab (4 * t.g * t.nn)
  castArea s job k t.buckets (4 * 2 ^ t.nb)
  castArea s job k t.slots (t.cs * t.nn)
  castArea s job k t.ring (8 * t.ringN)

/-- The header read at an address. -/
def castOpen (s : State) (job : Job) (k : CastJob) (va : Word) : CastE CastJob := do
  let (bs, k) ← castGet s job k va 128
  return { k with hdr := some va, head := bs, eng := treeEngOf bs }

/-- The length of a chunk step (R290). -/
def chunkCycles (t : Tree) : Nat := 160 + t.g / 4

/-- The request block, whose checks stand since I (R289), but for its pinned entry (R288). -/
def castBlock (s : State) (job : Job) (k : CastJob) : CastE (List Byte × CastJob) :=
  let v := k.va.toNat
  if v < windowBase ∧ !(s.core job.owner).tlb.any (fun e => e.pinned && e.covers (v % 2 ^ 48)) then .error (0x10, k.reads)
  else .ok (castGetPas s job k (segsPas k.blk))

/-- The start step of CFIND and CPUT (R288, R290). -/
def castStartBlock (s : State) (job : Job) (k : CastJob) (put : Bool) : CastStep := do
  let (b, k) ← castBlock s job k
  let tree := BitVec.ofNat 64 (numAt b 0 8)
  let toks := BitVec.ofNat 64 (numAt b 8 8)
  let img := BitVec.ofNat 64 (numAt b 0x18 8)
  let n := numAt b 0x10 4
  -- The counters of a request that ends here are those of its header, where the block leads to one.
  let k := match (if tree.toNat % 64 = 0 then castOpen s job k tree else .error (0, k.reads)) with
    | .ok k1 => k1
    | .error _ => k
  match (do
      need k (tree.toNat % 64 == 0 && toks.toNat % 4 == 0) 0x13
      need k (decide (n ≤ 2 ^ 24) && numAt b 0x14 4 == 0) 0x02
      need k (img.toNat % 64 == 0) 0x13
      need k ((put || img == 0) && numAt b 0x20 8 == 0 && numAt b 0x28 8 == 0 && numAt b 0x3C 4 == 0) 0x02
      let k1 ← castOpen s job k tree
      let t := k1.tree
      castHeader s job k1 t k1.head
      need k1 (!put || (n % t.g == 0 && decide (t.g ≤ n))) 0x02
      let _ ← s.castRange job.owner k1 .r toks (4 * n)
      let _ ← if put then s.castRange job.owner k1 .r img 64 else .ok []
      need k1 (t.tag == k1.tag) 0x11
      return { k1 with toks := toks, img := img, n := n, good := true } : CastE CastJob) with
  | .error e => .ok (k.stopAt e)
  | .ok k1 => .ok (k1, if n / k1.tree.g = 0 then .finish else .step (chunkCycles k1.tree) .castChunkStep)

/-- The start step of CREL (R290, R294): its node is read with the header. -/
def castStartRel (s : State) (job : Job) (k : CastJob) : CastStep := do
  let k ← castOpen s job k k.va
  let t := k.tree
  castHeader s job k t k.head
  need k (t.tag == k.tag) 0x11
  let w := k.handle.toNat
  need k (decide (1 ≤ w) && decide (w ≤ t.nn)) 0x11
  let (nd, k) ← castNode s job k w
  need k (nd.valid && nd.refs != 0) 0x11
  let k := castPutNode s job k w { nd with refs := nd.refs - 1, last := k.eng.clock }
  return ({ k with good := true, eng := { k.eng with clock := (k.eng.clock + 1) % 2 ^ 64 } }, .finish)

/-- CAST_START_STEP (R290). -/
def execCastStartStep (s : State) : Out :=
  s.castStep "CAST_START_STEP" fun job k => match k.op with
    | .find _ => castStartBlock s job k false
    | .put _ => castStartBlock s job k true
    | .rel => castStartRel s job k

/-- The rolling hash (R286). -/
def foldHash (base h : Nat) : List Byte → Nat
  | b0 :: b1 :: b2 :: b3 :: rest => foldHash base ((h * base + leNat [b0, b1, b2, b3]) % (2 ^ 61 - 1)) rest
  | _ => h

/-- The base of a domain tag at a bring-up: from 2 to 2^61 − 2 (R286, R386; log entry 14). -/
def tagBase (boot tag : Nat) : Nat := 2 + Config.hashBase (BitVec.ofNat 16 tag) boot % (2 ^ 61 - 3)

/-- CAST_CHUNK_STEP (R286, R290): the chunk's tokens are read and hashed. -/
def execCastChunkStep (s : State) : Out :=
  s.castStep "CAST_CHUNK_STEP" fun job k => do
    let t := k.tree
    let (bs, k) ← castGet s job k (k.toks + BitVec.ofNat 64 (4 * t.g * k.k)) (4 * t.g)
    let h := foldHash (tagBase s.domain.boots t.tag) k.h bs
    return ({ k with chunk := bs, h := h, bucket := h % 2 ^ t.nb, probes := 0, free := none }, .step 320 .castProbeStep)

/-- The request ends: CPUT goes on to its deposit, unless the node has a cast (R291, R292). -/
def castEnd (s : State) (job : Job) (k : CastJob) : CastStep :=
  match k.op with
  | .put _ => do
    let (nd, k) ← castNode s job k k.parent
    if nd.cast then return ({ k with found := true }, .finish)
    else
      let (im, k) ← castGet s job k k.img 64
      return (k, .step (160 + (64 + 16 * numAt im 4 4 + numAt im 0x10 4 + 127) / 128) .castDepositStep)
  | _ => .ok (k, .finish)

/-- Node w carries the chunk: it is touched, and the walk goes on (R291, R292). -/
def castHit (s : State) (job : Job) (k : CastJob) (w : Nat) : CastStep := do
  let (nd, k) ← castNode s job k w
  let k := castPutNode s job k w { nd with last := k.eng.clock }
  let deeper := match k.op with | .put _ => true | _ => nd.cast
  let t := k.tree
  let k := { k with parent := w, path := k.path ++ [w], best := if deeper then ((k.k + 1) * t.g, w) else k.best, k := k.k + 1 }
  if k.k < k.n / t.g then return (k, .step (chunkCycles t) .castChunkStep) else castEnd s job k

/-- No node carries the chunk (R287, R291, R292). -/
def castMiss (k : CastJob) : CastStep :=
  match k.op with
  | .put _ => if k.free.isSome then .ok (k, .step 160 .castAllocateStep) else .ok (k.stop 0x22)
  | _ => .ok (k, .finish)

/-- The probe goes on to the next bucket, 64 at most (R287). -/
def castProbeOn (k : CastJob) : CastStep :=
  let k := { k with bucket := (k.bucket + 1) % 2 ^ k.tree.nb, probes := k.probes + 1 }
  if k.probes = 64 then castMiss k else .ok (k, .step 320 .castProbeStep)

/-- CAST_PROBE_STEP (R287): a bucket word, then its node. -/
def execCastProbeStep (s : State) : Out :=
  s.castStep "CAST_PROBE_STEP" fun job k => do
    let (w, k) ← castBucket s job k k.bucket
    let free := k.free.orElse fun _ => some k.bucket
    if w = 0 then castMiss { k with free := free }
    else if w = 0xFFFFFFFF then castProbeOn { k with free := free }
    else do
      let (nd, k) ← castNode s job k w
      if nd.valid && nd.tag == k.tree.tag && nd.key == k.h && nd.parent == k.parent then
        return ({ k with cand := w }, .step (160 + (k.tree.g + 31) / 32) .castConfirmStep)
      else castProbeOn k

/-- CAST_CONFIRM_STEP (R287): the stored tokens are compared. -/
def execCastConfirmStep (s : State) : Out :=
  s.castStep "CAST_CONFIRM_STEP" fun job k => do
    let (bs, k) ← castGet s job k (k.tree.chunkVa k.cand) (4 * k.tree.g)
    if bs = k.chunk then castHit s job k k.cand
    else castProbeOn { k with eng := { k.eng with mismatch := min (k.eng.mismatch + 1) (2 ^ 32 - 1) } }

/-- A new node for the chunk at index w − 1 (R292). -/
def castCreate (s : State) (job : Job) (k : CastJob) (w : Nat) : CastStep := do
  let t := k.tree
  let k := castPutNode s job k w ⟨k.parent, k.k + 1, k.h, 0, t.tag, 0, k.eng.clock, true, false, 0⟩
  let k := castPut s job k (t.chunkVa w) k.chunk
  let k := castPut s job k (t.bucketVa (k.free.getD 0)) (leBytes w 4)
  if k.parent = 0 then castHit s job k w
  else do
    let (pn, k) ← castNode s job k k.parent
    castHit s job (castPutNode s job k k.parent { pn with children := pn.children + 1 }) w

/-- The evictable node that goes first (R293): the smallest last use, the lowest address on ties. -/
def castVictim (s : State) (job : Job) (k : CastJob) : Option Nat :=
  ((List.range k.eng.high).foldl (fun (best : Option (Nat × Nat)) i =>
    match castNode s job k (i + 1) with
    | .ok (nd, _) =>
      if nd.valid && nd.children == 0 && nd.refs == 0 && !k.path.contains (i + 1) then
        match best with
        | some b => if nd.last < b.2 then some (i + 1, nd.last) else best
        | none => some (i + 1, nd.last)
      else best
    | .error _ => best) none).map (·.1)

/-- CAST_ALLOCATE_STEP (R290, R292). -/
def execCastAllocateStep (s : State) : Out :=
  s.castStep "CAST_ALLOCATE_STEP" fun job k => do
    if k.eng.free ≠ 0 then do
      let w := k.eng.free
      let (nd, k) ← castNode s job k w
      castCreate s job { k with eng := { k.eng with free := nd.next, used := k.eng.used + 1 } } w
    else if k.eng.high < k.tree.nn then
      castCreate s job { k with eng := { k.eng with high := k.eng.high + 1, used := k.eng.used + 1 } } (k.eng.high + 1)
    else match castVictim s job k with
      | none => .ok (k.stop 0x22)
      | some e => do
        let (nd, k) ← castNode s job k e
        let (np, k) ← if nd.cast then (do let (b, k) ← castGet s job k (k.tree.slotVa e + 4) 4; pure (leNat b, k)) else .ok (0, k)
        return ({ k with victim := e }, .step (320 + 160 * np) .castEvictStep)

/-- The bucket that names a node, looked for from its key's. -/
def castBucketOf (s : State) (job : Job) (k : CastJob) (w key : Nat) : Option Nat :=
  ((List.range (2 ^ k.tree.nb)).map fun i => (key + i) % 2 ^ k.tree.nb).find? fun i =>
    match castBucket s job k i with | .ok (v, _) => v == w | .error _ => false

/-- The anchors and pages of a slot's entries. -/
def slotAnchors (bs : List Byte) (np : Nat) : List (Nat × Nat) :=
  (List.range np).map fun j => let e := kvOf ((bs.drop (16 * j)).take 16); (e.anchorPa, e.page)

/-- CAST_EVICT_STEP (R290, R293). -/
def execCastEvictStep (s : State) : Out :=
  s.castStep "CAST_EVICT_STEP" fun job k => do
    let e := k.victim
    let (nd, k) ← castNode s job k e
    let (drops, k) ← if nd.cast then (do
        let (b, k) ← castGet s job k (k.tree.slotVa e + 4) 4
        let (es, k) ← castGet s job k (k.tree.slotVa e + 64) (16 * leNat b)
        let ds := slotAnchors es (leNat b)
        pure (ds, { k with reads := k.reads ++ ds.flatMap fun d => pasFrom d.1 16 })) else .ok ([], k)
    let k := { k with dropped := k.dropped ++ drops, eng := { k.eng with evictions := (k.eng.evictions + 1) % 2 ^ 32 } }
    let k := match castBucketOf s job k e nd.key with
      | some i => castPut s job k (k.tree.bucketVa i) (leBytes 0xFFFFFFFF 4)
      | none => k
    if nd.parent = 0 then castCreate s job k e
    else do
      let (pn, k) ← castNode s job k nd.parent
      castCreate s job (castPutNode s job k nd.parent { pn with children := pn.children - 1 }) e

/-- The checks of an image's entries (R283, R272), in their order: their anchors, or a problem, with the anchors read until then. -/
def castEntries (s : State) (job : Job) (k : CastJob) : List KvEntry → CastE (List Nat × CastJob)
  | [] => .ok ([], k)
  | e :: es => do
    need k (e.valid && !e.anchor && e.refs == 0) 0x02
    need k (e.tag == k.tag && s.pageHome job.owner e) 0x11
    let k := { k with reads := k.reads ++ pasFrom e.anchorPa 16 }
    let (a, _) := s.readAnchor job.owner e.anchorPa
    need k (a.valid && a.format == e.format && a.dcode == e.dcode) 0x11
    let (as, k) ← castEntries s job k es
    return (e.anchorPa :: as, k)

/-- CAST_DEPOSIT_STEP (R283, R290, R292). -/
def execCastDepositStep (s : State) : Out :=
  s.castStep "CAST_DEPOSIT_STEP" fun job k => do
    let (im, k) ← castGet s job k k.img 64
    let np := numAt im 4 4
    let size := 64 + 16 * np + numAt im 0x10 4
    if k.tree.maxp < np ∨ k.tree.cs < size ∨ (im.drop 0x14).any (· != 0) then .ok (k.stop 0x02)
    else do
      let (body, k) ← castGet s job k k.img size
      let (ancs, k) ← castEntries s job k ((List.range np).map fun j => kvOf ((body.drop (64 + 16 * j)).take 16))
      return ({ k with deposit := true, image := body, anchors := ancs }, .finish)

/-! ### F (R290 to R294) -/

/-- The overlay's bytes are written, oldest first; the engine's later requests see them (R290). -/
def State.castApply (s : State) (owner : CoreId) (k : CastJob) : State :=
  let t := s.writeAs owner (k.overlay.reverse.map fun e => ⟨e.1, 0, e.2⟩)
  let n := t.ledger.length - s.ledger.length
  { t with ledger := (t.ledger.take n).map (fun r => { r with seen := castEngine owner.die :: r.seen }) ++ t.ledger.drop n }

/-- The engine's fields of the header are written: a program reads them at any time as the latest F left them (R297). -/
def State.castHeaderWrite (s : State) (owner : CoreId) (k : CastJob) : State :=
  match k.hdr with
  | some va => (match s.castRange owner k .r (va + 64) 64 with
    | .ok segs => segs.foldl (fun (t : State) g => t.poke g.pa ((k.eng.bytes.drop g.off).take g.len)) s
    | .error _ => s)
  | none => s

/-- A hold lets its core read the node's slot (R291). -/
def State.castSlotSeen (s : State) (job : Job) (k : CastJob) (held : Bool) : State :=
  match s.castRange job.owner k .r (k.tree.slotVa k.best.2) k.tree.cs with
  | .ok segs => if held then s.reveal job.owner fun r => segsHold segs r.pa && r.seen.contains (castEngine job.owner.die) else s
  | .error _ => s

/-- One release of an evicted cast's anchor (R293). -/
def State.castDrop (s : State) (job : Job) (k : CastJob) (d : Nat × Nat) : State × CastJob :=
  let (a, bs) := s.readAnchor job.owner d.1
  let b1 := withRefs bs (a.refs - 1)
  if a.refs ≤ 1 then
    let t := k.tree
    let k1 := castPut s job k (t.ring + BitVec.ofNat 64 (8 * (k.eng.ring % t.ringN))) (leBytes d.2 8)
    (s.writeAnchor job.owner d.1 (clearValid b1), { k1 with eng := { k1.eng with ring := (k1.eng.ring + 1) % 2 ^ 32 } })
  else (s.writeAnchor job.owner d.1 b1, k)

/-- The deposit at F (R290, R292): saturated anchors leave everything as it is. -/
def State.castDeposit (s : State) (job : Job) (k : CastJob) : State × CastJob :=
  let o := job.owner
  if !k.deposit then (s, k)
  else if k.anchors.any fun a => decide (4095 < (s.readAnchor o a).1.refs + k.anchors.count a) then (s, { k with status := 0x20 })
  else
    let s1 := k.anchors.foldl (fun (t : State) a =>
      let (v, bs) := t.readAnchor o a
      t.writeAnchor o a (withRefs bs (v.refs + 1))) s
    let k1 := castPut s1 job k (k.tree.slotVa k.parent) k.image
    match castNode s1 job k1 k1.parent with
    | .ok (nd, k2) => (s1, castPutNode s1 job k2 k2.parent { nd with cast := true })
    | .error _ => (s1, k1)

/-- The hold at F (R291, R292): the request, and whether it was taken. -/
def castHold (s : State) (job : Job) (k : CastJob) : CastJob × Bool :=
  let want := match k.op with | .find h => h | .put h => h | .rel => false
  if !want || k.status != 0 || k.best.2 == 0 then (k, false)
  else match castNode s job k k.best.2 with
    | .ok (nd, k1) =>
      if nd.refs = 65535 then ({ k1 with status := 0x20 }, false)
      else (castPutNode s job k1 k1.best.2 { nd with refs := nd.refs + 1 }, true)
    | .error _ => (k, false)

/-- The use clock and the counters at F (R284, R291, R292). -/
def castCounts (k : CastJob) : CastJob :=
  let e := k.eng
  let isFind := match k.op with | .find _ => true | _ => false
  let isRel := match k.op with | .rel => true | _ => false
  let e1 := if k.good && !isRel then { e with clock := (e.clock + 1) % 2 ^ 64 } else e
  let e2 := if isFind then { e1 with lookups := (e1.lookups + 1) % 2 ^ 32 } else e1
  { k with eng := if k.status = 0x22 then { e2 with full := min (e2.full + 1) (2 ^ 32 - 1) } else e2 }

/-- The result fields of a block (R288). -/
def castResult (s : State) (job : Job) (k : CastJob) (word : Nat) : State :=
  match k.op with
  | .rel => s
  | _ =>
    s.writeAs job.owner (writesAt (segPas k.blk 0x30 12) (k.va.toNat + 0x30)
      (leBytes k.best.1 4 ++ leBytes k.best.2 4 ++ leBytes word 4))

/-- The next request of the engine starts, if its own start has come (R290). -/
def State.castRelease (s : State) (die : Nat) : State :=
  match s.castQueue die with
  | q :: _ => if q.2.waiting then s.chain q.1 (s.taskNow q.1) 0 [] .castRequestStart (.beat q.1.id 0 true) else s
  | [] => s

/-- CAST_REQUEST_FINISH (R290): every write of the request performs at F. -/
def execCastRequestFinish (s : State) : Out :=
  match s.castArg with
  | none => .refused (.notPending "CAST_REQUEST_FINISH")
  | some (job, k) =>
    let ancs := (k.anchors ++ k.dropped.map (·.1)).flatMap fun a => pasFrom a 16
    let s0 := if ancs.isEmpty then s else (s.engineReadPa job true ancs k.pos).2
    let job := s0.again job
    let (s1, k1) := k.dropped.foldl (fun (p : State × CastJob) d => p.1.castDrop job p.2 d) (s0, k)
    let (s2, k2) := s1.castDeposit job k1
    let (k3, held) := castHold s2 job k2
    let k4 := castCounts k3
    let word := k4.status + boolNat k4.found * 256 + boolNat held * 512
    let s3 := castResult (((s2.castApply job.owner k4).castHeaderWrite job.owner k4).castSlotSeen job k4 held) job k4 word
    let s4 := if job.live then s3.modCore job.owner fun c => c.modCtx fun x =>
        { x with castq := x.castq.map fun q => if q.id = job.id then { q with done := some word } else q } else s3
    .next ((s4.dropJob job.id).castRelease job.owner.die)

end Sys2Proof.Machine
end

