-- ==== Sys2Proof/Machine/Slots.lean ====
section
/-! DEFINITION. Rings, places, tags and maps of the frieze, and what the cores of a lane's hold set see of a port (R339 to R352). -/

namespace Sys2Proof.Machine

open Sys2Proof

/-- Fields laid into a word: (low bit, width, value). -/
def packWord (fs : List (Nat × Nat × Nat)) : Word :=
  BitVec.ofNat 64 (fs.foldl (fun acc f => acc + f.2.2 % 2 ^ f.2.1 * 2 ^ f.1) 0)

/-- The port of a lane of a die. -/
def State.port? (s : State) (die : Nat) (l : FzLane) : Option Port := s.ports.find? fun p => p.die == die && p.lane == l

/-- A ring. -/
def State.ring? (s : State) (r : Nat) : Option Ring := s.rings.find? fun g => g.id == r

/-- The lane of a die carries a frieze (R345). -/
def Port.carries (p : Port) : Bool := p.state == 2 || p.state == 3

/-- The places of a lane's range: with a repair reserve when Q is 16 or less (R340). -/
def Ring.places (g : Ring) : Nat := if g.q ≤ 16 then 3 * g.q else g.q

/-- The places of a die's lane, 0 where it has none (R340). -/
def State.lanePlaces (s : State) (die : Nat) (l : FzLane) : Nat :=
  match (s.port? die l).bind fun p => if p.state = 0 then none else s.ring? p.ring with
  | some g => g.places
  | none => 0

/-- The vault offset of a lane's place 0: lane W's places follow lane E's (R340). -/
def State.laneOff (s : State) (die : Nat) (l : FzLane) : Nat :=
  match l with | .e => 0 | .w => 65536 * s.lanePlaces die .e

/-- The end of the frieze ranges in every vault of a die (R340). -/
def State.friezeEnd (s : State) (die : Nat) : Nat :=
  let w := s.lanePlaces die .w
  if w = 0 then 65536 * s.lanePlaces die .e else s.laneOff die .w + 65536 * w

/-! ### Rings, places and positions (R339, R341, R342) -/

def Ring.np (g : Ring) : Nat := g.dies.length * g.q

/-- The place of the panel that is current in a slot (R342). -/
def Ring.placeOf (g : Ring) (k : Int) : Nat := ((k - g.k0) % g.q).toNat

/-- The position that is current at a rank in a slot (R341). -/
def Ring.posOf (g : Ring) (k : Int) (rank : Nat) : Nat := ((k - g.k0 - rank * g.q) % g.np).toNat

/-- The rank of a die. -/
def Ring.rankOf (g : Ring) (die : Nat) : Option Nat := g.dies.findIdx? (· == die)

def Ring.dieOf (g : Ring) (rank : Nat) : Nat := g.dies.getD rank 0

/-- The die's port as an agent: it comes after every core of its die (R342). -/
def portId (die : Nat) : CoreId := ⟨die, 126⟩

/-- The next surviving rank after one, with the ranks passed over. -/
def Ring.nextFrom (g : Ring) (rank : Nat) : Option (Nat × Nat) :=
  let n := g.dies.length
  ((List.range n).find? fun i => !g.lost.contains ((rank + 1 + i) % n)).map fun i => ((rank + 1 + i) % n, i)

/-- The surviving rank that counts the rotations: rank 0, or the first after it (R344). -/
def Ring.counter (g : Ring) : Nat := ((List.range g.dies.length).find? fun r => !g.lost.contains r).getD 0

/-- The surviving ranks. -/
def Ring.alive (g : Ring) : List Nat := (List.range g.dies.length).filter fun r => !g.lost.contains r

/-! ### Tags (R344) -/

def tagKind (t : Nat) : Nat := fld t 28 4
def tagIndex (t : Nat) : Nat := fld t 32 16

/-- A tag's field replaced. -/
def setTag (t lo n v : Nat) : Nat := t - fld t lo n * 2 ^ lo + v % 2 ^ n * 2 ^ lo

/-- A tag holds a panel index (R347). -/
def tagHolds (t : Word) (n : Nat) : Bool := tagKind t.toNat == 0 && tagIndex t.toNat == n

/-- A header's tag and the header with another tag (R343). -/
def headTag (h : List Byte) : Nat := numAt h 0 8
def withTag (h : List Byte) (t : Nat) : List Byte := leBytes t 8 ++ h.drop 8

/-- The header in a place; zeros where none has landed. -/
def Port.header (p : Port) (x : Nat) : List Byte := (listGet? p.headers x).getD (List.replicate 256 0)

def Port.putHeader (p : Port) (x : Nat) (h : List Byte) : Port := { p with headers := listSet p.headers x h }

/-- A header lands with beat 0 over that of the oldest place, whose tag is kept for the case of a loss (R342, R353). -/
def Port.landHeader (p : Port) (x : Nat) (h : List Byte) : Port := { p.putHeader x h with leaving := headTag (p.header x) }

/-! ### The build (R347) -/

/-- A build in progress: the rows so far, primary and catch-up candidates with what PROW answers for them, rows parked. -/
structure Build where
  rows : List FzRow
  prim : List (Nat × Nat)
  late : List (Nat × Nat)
  parked : Nat
  deriving DecidableEq, Repr

/-- What PROW answers for a mapped row (R349). -/
def prowWord (i : Nat) (row : FzRow) (t : Word) : Nat :=
  (packWord [(0, 6, i), (6, 42, row.addr.toNat / 64), (48, 16, tagIndex t.toNat)]).toNat

/-- Row i at a build with the current and retained tags, by the table of R347. -/
def Build.row (cur ret : Word) (b : Build) (i : Nat) (row : FzRow) : Build :=
  let put := fun (r : FzRow) (b : Build) => { b with rows := b.rows ++ [r] }
  if row.state = 0 then put { row with mark := 0 } b
  else if tagHolds cur row.n then
    put { row with state := 1, mark := 1 } { b with prim := b.prim ++ [(i, prowWord i row cur)] }
  else if row.state = 1 ∧ row.mark ≠ 2 ∧ tagHolds ret row.n then
    put { row with mark := 2 } { b with late := b.late ++ [(i, prowWord i row ret)] }
  else if row.state = 1 ∧ row.mark = 2 then
    put { row with state := 2, mark := 0, parks := min (row.parks + 1) 65535 } { b with parked := b.parked + 1 }
  else put { row with mark := 0 } b

/-- Map entries from a position on: position, row, answer. -/
def mapFrom (pos n : Nat) (cs : List (Nat × Nat)) : List (Nat × Nat × Nat) :=
  ((cs.take n).zipIdx).map fun e => (pos + e.2, e.1.1, e.1.2)

/-- The port builds the map of a slot. -/
def Port.build (p : Port) : Port :=
  let b := (p.rows.toList.zipIdx).foldl (fun (b : Build) e => b.row p.cur p.ret e.2 e.1) ⟨[], [], [], 0⟩
  { p with
    rows := Vector.ofFn fun i => b.rows.getD i.val FzRow.zero
    built := mapFrom 0 56 b.prim ++ mapFrom 56 8 b.late
    parked := min (p.parked + b.parked) 65535
    leftOut := min (p.leftOut + (b.prim.length - 56) + (b.late.length - 8)) 65535 }

/-! ### The switch of a slot (R342, R344, R351) -/

/-- The tags and places of a port in slot k. -/
def Port.switch (p : Port) (g : Ring) (k : Nat) : Port :=
  let x := g.placeOf k
  let y := g.placeOf ((k : Int) - 1)
  { p with cur := BitVec.ofNat 64 (headTag (p.header x)), ret := BitVec.ofNat 64 (headTag (p.header y)), curPlace := x, retPlace := y }

/-- The header of the hole that stands in its place where none reaches the repair die (R354). -/
def Port.markHole (p : Port) (g : Ring) (k : Nat) : Port :=
  match g.holes.find? fun e => e.1 == p.rank && e.2.1 == k with
  | some e => p.putHeader (g.placeOf k) (withTag (List.replicate 256 0) e.2.2)
  | none => p

/-- The panel that becomes current at the counting rank carries an incremented count (R344, R351). -/
def Port.count (p : Port) (g : Ring) (k : Nat) : Port :=
  if p.rank = g.counter then
    let x := g.placeOf k
    let t := headTag (p.header x)
    p.putHeader x (withTag (p.header x) (setTag t 0 28 (fld t 0 28 + 1)))
  else p

/-- A row's change by a PDONE; none where the pairing is not allowed. -/
def PdoneReq.apply (r : PdoneReq) (row : FzRow) : Option FzRow :=
  match r.op with
  | .adv => if row.state = 1 then some { row with n := r.n.toNat, mark := 0 } else none
  | .admitRow => if row.state = 0 then some ⟨1, 0, r.n.toNat, 0, r.addr⟩ else none
  | .free => if row.state = 0 then none else some { row with state := 0, mark := 0 }

/-! ### A lane as its members see it (R352) -/

/-- A span of cycles put into a list of them, by its start. -/
def insertSpan (x : Nat × Nat) : List (Nat × Nat) → List (Nat × Nat)
  | [] => [x]
  | y :: ys => if x.1 < y.1 then x :: y :: ys else y :: insertSpan x ys

/-- The span in which a hold has stopped a member, up to a cycle. -/
def Hold.span (h : Hold) (m : CoreId) (now : Nat) : List (Nat × Nat) :=
  (h.members.filter fun e => e.1 == m).map fun e => (h.start + e.2, match h.release with | some r => min now (r + e.2) | none => now)

/-- The cycles in which some holds have stopped a member until now; holds that overlap lengthen one another (R317). -/
def stoppedCycles (hs : List Hold) (m : CoreId) (now : Nat) : Nat :=
  ((hs.flatMap fun h => h.span m now).foldr insertSpan []).foldl (fun (acc : Nat × Nat) x =>
    let lo := max acc.2 x.1
    (acc.1 + (x.2 - lo), max acc.2 x.2)) (0, 0) |>.1

/-- How far a core stands ahead of the port of a lane in the common timeline, while a hold's waves are between them (R352; log entry
120). -/
def State.fzSkew (s : State) (id : CoreId) (p : Port) : Int :=
  let m := portMember p.die p.lane
  let hs := s.holds.filter fun h => (h.members.any fun e => e.1 == id) && h.members.any fun e => e.1 == m
  (stoppedCycles hs m s.clock : Int) - stoppedCycles hs id s.clock

/-- The port as it stood in an earlier cycle of its timeline. -/
def Port.before (p : Port) (t : Nat) : Port :=
  let q := match p.was with
    | some w => if t < w.at_ then { p with
        cur := w.cur, ret := w.ret, curPlace := w.curPlace, retPlace := w.retPlace, rows := w.rows, parked := w.parked
        leftOut := w.leftOut } else p
    | none => p
  match p.mapWas with
  | some (a, m) => if t < a then { q with map := m } else q
  | none => q

/-- The tags, places and map of a port switch at the boundary of slot k (R347, R351). -/
def Port.atBoundary (p : Port) (g : Ring) (k : Nat) : Port :=
  let q := ((p.markHole g k).count g k).switch g k
  if q.carries then q.build else q

/-- What an event that is due at a port makes of what it shows. -/
def State.portEvent (s : State) (p : Port) (e : Pending) : Port :=
  match e.ev, e.arg with
  | .slotBoundary, .lane _ r t => (match s.ring? r with | some g => if p.ring = g.id then p.atBoundary g (t / 2048) else p | none => p)
  | .mapPublish, _ => if p.carries then { p with map := p.built } else p
  | .pdoneApply, .pdone r => (match r.apply (p.rows.toArray.getD r.row FzRow.zero) with
    | some row => { p with rows := p.rows.set! r.row row }
    | none => p)
  | _, _ => p

/-- Coming events by their cycles. -/
def insertDue (x : Pending) : List Pending → List Pending
  | [] => [x]
  | y :: ys => if y.due ≤ x.due then y :: insertDue x ys else x :: y :: ys

/-- The port as it will stand in a later cycle: with its events before cycle t, and what is already told of PDONEs up to it. -/
def State.portSoon (s : State) (p : Port) (t : Nat) : Port :=
  ((s.agenda.filter fun e => e.clk == .port p.die p.lane && (decide (e.due < t) || (e.ev == .pdoneApply && decide (e.due ≤ t)))).foldl
    (fun l e => insertDue e l) []).foldl s.portEvent p

/-- The cycle of a port's timeline at which a core stands. -/
def State.fzNow (s : State) (id : CoreId) (p : Port) : Nat := ((s.nowOf (.port p.die p.lane) : Int) + s.fzSkew id p).toNat

/-- The port of a lane of a core's die as the core sees it: in the common timeline of the lane's hold set, whichever of the two a hold
has reached first (R352). -/
def State.laneView (s : State) (id : CoreId) (l : FzLane) : Option Port :=
  (s.port? id.die l).map fun p =>
    if s.fzSkew id p = 0 then p
    else if s.fzSkew id p < 0 then p.before (s.fzNow id p)
    else s.portSoon p (s.fzNow id p + 1)

/-- The port as a core's PDONE meets it at A: its port's boundary at A comes after (R342, R350). -/
def State.pdoneView (s : State) (id : CoreId) (l : FzLane) : Option Port :=
  (s.port? id.die l).map fun p =>
    if s.fzSkew id p = 0 then p
    else if s.fzSkew id p < 0 then p.before (s.fzNow id p - 1)
    else s.portSoon p (s.fzNow id p)

/-- A row changed at a port that has passed a boundary since: the map is built anew (R347, R352). -/
def Port.lateRow (p : Port) (w : PortWas) (i : Nat) (row : FzRow) : Port :=
  let w1 := { w with rows := w.rows.set! i row }
  let q := { p with rows := w1.rows, parked := w.parked, leftOut := w.leftOut }.build
  if !p.carries then { p with rows := p.rows.set! i row, was := some w1 }
  else { p with
    rows := p.rows.set! i q.rows[i]!, built := q.built, parked := q.parked, leftOut := q.leftOut, was := some w1
    map := if p.mapWas.any fun e => decide (w.at_ < e.1) then q.built else p.map }

end Sys2Proof.Machine
end

