-- ==== Sys2Proof/Machine/Sysregs.lean ====
section
/-! DEFINITION. The system registers as GETC reads and PUTC writes them (R20, R62, R107, R111, R127, R137, R160, R178, R201, R232, R244,
R266, R270, R296, R307, R319, R328, R345, R365, R380), the landings (R16, R85, R117, R114) and the start of joined groups (R123
to R126). -/

namespace Sys2Proof.Machine

open Sys2Proof

/-! ### Reading -/

/-- FZCFGE and FZCFGW (R345). -/
def State.fzcfg (s : State) (die : Nat) (l : FzLane) : Word :=
  match s.port? die l with
  | none => 0
  | some p => match s.ring? p.ring with
    | none => 0
    | some g => packWord [(0, 1, if p.carries then 1 else 0), (1, 3, p.state), (8, 6, g.q), (16, 13, g.dies.length),
        (32, 16, g.fid), (48, 12, p.rank), (60, 1, if p.repair then 1 else 0)]

/-- The tags of a lane as a core of the die reads them; all ones where it carries no frieze (R345, R352). -/
def State.fzCur (s : State) (id : CoreId) (l : FzLane) : Word :=
  match s.laneView id l with | some p => if p.carries then p.cur else BitVec.allOnes 64 | none => BitVec.allOnes 64
def State.fzRet (s : State) (id : CoreId) (l : FzLane) : Word :=
  match s.laneView id l with | some p => if p.carries then p.ret else BitVec.allOnes 64 | none => BitVec.allOnes 64

/-- The current and retained places of a lane (R345). -/
def State.fzPlaces (s : State) (id : CoreId) (l : FzLane) : Nat × Nat :=
  match s.laneView id l with | some p => if p.carries then (p.curPlace, p.retPlace) else (63, 63) | none => (63, 63)

/-- FZBASEE and FZBASEW (R345). -/
def State.fzBase (s : State) (die : Nat) (l : FzLane) : Word :=
  match (s.port? die l).bind fun p => if p.state = 0 then none else s.ring? p.ring with
  | some g => BitVec.ofNat 64 (g.base % 2 ^ 48 / 65536 * 65536)
  | none => 0

/-- FZSTAT (R345), of the ports of two lanes. -/
def fzstatOf (port : FzLane → Option Port) : Word :=
  let n := fun (l : FzLane) (f : Port → Nat) => match port l with | some p => min (f p) 65535 | none => 0
  packWord [(0, 16, n .e Port.parked), (16, 16, n .w Port.parked), (32, 16, n .e Port.leftOut), (48, 16, n .w Port.leftOut)]

/-- FZSTAT of a die, as its port has it. -/
def State.fzstat (s : State) (die : Nat) : Word := fzstatOf (s.port? die)

/-- The pending page instructions and attention requests of a core (R270). -/
def State.pageCount (s : State) (id : CoreId) : Nat :=
  ((s.jobsOf id).filter fun j => match j.body with | .page _ => true | _ => false).length
def State.attnCount (s : State) (id : CoreId) : Nat :=
  ((s.jobsOf id).filter fun j => match j.body with | .attn _ => true | _ => false).length
def State.collCount (s : State) (id : CoreId) : Nat :=
  ((s.jobsOf id).filter fun j => match j.body with | .coll _ => true | _ => false).length

/-- CPYSTAT (R244). -/
def State.cpystat (s : State) (id : CoreId) : Word :=
  let k := (s.core id).ctx.copy
  packWord [(0, 4, (s.copies id).length), (4, 4, s.closedBatches id), (8, 1, if k.opened.isEmpty then 0 else 1),
    (16, 16, k.next.toNat), (32, 16, k.crcFails), (48, 4, k.unreported.length)]

/-- KVSTAT (R270). -/
def State.kvstat (s : State) (id : CoreId) : Word :=
  packWord [(0, 3, s.pageCount id), (3, 3, s.attnCount id), (16, 16, (s.core id).ctx.attnFails.toNat)]

/-- COLLST (R380). -/
def State.collst (s : State) (id : CoreId) : Word :=
  packWord [(0, 3, s.collCount id), (16, 16, (s.core id).ctx.collFails.toNat)]

/-- CASTQ (R296). -/
def Ctx.castqWord (x : Ctx) : Word :=
  packWord [(0, 4, x.castq.length), (4, 4, (x.castq.filter fun e => e.done.isSome).length)]

/-- TASKINFO (R178). -/
def Task.info (t : Task) : Word :=
  packWord [(0, 1, if t.locked then 1 else 0), (1, 4, t.slot), (16, 16, t.ref.node), (32, 16, t.graphId)]

/-- PREEMPTST (R328). -/
def Sys.preemptst (y : Sys) : Word :=
  packWord [(0, 1, if y.preempting then 1 else 0), (1, 3, y.preemptOutcome), (8, 24, y.preemptSize / 64), (32, 32, y.preemptRefusals)]

/-- RDV (R232). -/
def Sys.rdvWord (y : Sys) : Word := packWord ((List.range 5).map fun e => (12 * e, 12, (y.rdv[e]!).toNat))

/-- QOCC0 and QOCC1 (R127). -/
def Ctx.qocc0 (x : Ctx) : Word := packWord ((List.range 16).map fun n => (4 * n, 4, (x.chan[n]!).length))
def Ctx.qocc1 (x : Ctx) : Word := packWord [(0, 4, (x.chan[16]!).length), (4, 4, (x.chan[17]!).length), (8, 10, x.x.defq.length)]

/-- VAULTCFG (R201). -/
def Core.vaultcfg (c : Core) : Word :=
  packWord [(0, 5, c.ways), (5, 1, if c.cresizes.isEmpty then 0 else 1),
    (6, 5, match c.cresizes.getLast? with | some r => r.n | none => c.ways)]

/-- MEMERR (R201): scrub passes of 131,072 steps (R210). -/
def State.memerr (s : State) (c : Core) : Word :=
  packWord [(0, 32, c.corrected), (32, 32, s.scrubs / 131072 + 2 ^ 32 - c.scrubBase % 2 ^ 32)]

/-- DOMINFO (R365). -/
def State.dominfo (s : State) (die : Nat) : Word :=
  let trim := match s.domain.trims.find? fun t => t.1 == die / 8 with | some t => t.2 | none => 0
  packWord [(0, 10, s.modules - s.domain.gone.length), (16, 4, s.domain.diameter), (24, 8, (BitVec.ofInt 8 trim).toNat), (32, 10, min s.domain.excluded 1023)]

/-- MSEQ (R266). -/
def Mat.mseqWord (m : Mat) : Word :=
  packWord [(0, 16, m.mseq.toNat), (16, 2, m.walks.length), (18, 1, if m.cmds.isEmpty then 0 else 1)]

/-- FORMQDEPTH (R266). -/
def Mat.formqdepth (m : Mat) : Word :=
  packWord [(0, 4, m.fq.length), (16, 20, m.fq.foldl (fun n e => n + e.2) 0)]

/-- The lower half of a register above its counter: two 32-bit counters. -/
def pair32 (lo hi : BitVec 32) : Word := (hi.setWidth 64 <<< 32) ||| lo.setWidth 64

/-- Four 16-bit bins from bin k. -/
def binWord (b : Vector (BitVec 16) 8) (k : Nat) : Word := packWord ((List.range 4).map fun i => (16 * i, 16, (b[k + i]!).toNat))

/-- A system register as GETC reads it at I; c is the core with the changes of the clusters before C in the cycle. -/
def readSys (s : State) (id : CoreId) (c : Core) : SysReg → Word
  | .frameno => BitVec.ofNat 64 (s.framecnt id / 32768)
  | .framecnt => BitVec.ofNat 64 (s.framecnt id)
  | .taskclk => BitVec.ofNat 64 c.ctx.tau
  | .tbase => c.ctx.sys.tbase
  | .imagebase => c.ctx.sys.imagebase
  | .imagelen => c.ctx.sys.imagelen
  | .mouldbase => c.ctx.sys.mouldbase
  | .mouldlen => c.ctx.sys.mouldlen
  | .clusters => c.ctx.sys.clusters
  | .qocc0 => c.ctx.qocc0
  | .qocc1 => c.ctx.qocc1
  | .cbtab => c.ctx.sys.cbtab
  | .ropetab => c.ctx.sys.ropetab
  | .budget => match c.task with | some t => BitVec.ofNat 64 t.budget | none => 0
  | .argbase => c.ctx.sys.argbase
  | .taskinfo => match c.task with | some t => t.info | none => 0
  | .ptroot => c.ptroot
  | .vaultcfg => c.vaultcfg
  | .memerr => s.memerr c
  | .flat => BitVec.ofNat 64 (s.flat % 65536)
  | .walkinfo => c.ctx.sys.walkinfo
  | .rdv => c.ctx.sys.rdvWord
  | .cpystat => s.cpystat id
  | .pfcnt0 => pair32 c.ctx.copy.issued c.ctx.copy.inTime
  | .pfcnt1 => pair32 c.ctx.copy.late c.ctx.copy.evicted
  | .pfhist0 => binWord c.ctx.copy.bins 0
  | .pfhist1 => binWord c.ctx.copy.bins 4
  | .formqdepth => c.ctx.mat.formqdepth
  | .mrowp => c.ctx.mat.mrowp
  | .mseq => c.ctx.mat.mseqWord
  | .domtag => match c.task with | some t => t.domtag.setWidth 64 | none => 0
  | .kvstat => s.kvstat id
  | .castq => c.ctx.castqWord
  | .tcause => c.ctx.sys.tcause
  | .tinfo => c.ctx.sys.tinfo
  | .trapline => c.ctx.sys.trapline
  | .tvec => c.ctx.sys.tvec
  | .tctl => 0
  | .holdlag => BitVec.ofNat 64 c.ctx.lag
  | .holdinfo => c.ctx.sys.holdinfo
  | .ifqocc => packWord [(0, 7, s.ifqCount id), (8, 8, min 128 c.landing.length)]
  | .preemptst => c.ctx.sys.preemptst
  | .savebase => c.ctx.sys.savebase
  | .savelen => c.ctx.sys.savelen
  | .fzcfge => s.fzcfg id.die .e
  | .fzcfgw => s.fzcfg id.die .w
  | .fzcure => s.fzCur id .e
  | .fzrete => s.fzRet id .e
  | .fzcurw => s.fzCur id .w
  | .fzretw => s.fzRet id .w
  | .fzbasee => s.fzBase id.die .e
  | .fzbasew => s.fzBase id.die .w
  | .fzplace =>
    let e := s.fzPlaces id .e
    let w := s.fzPlaces id .w
    packWord [(0, 6, e.1), (8, 6, e.2), (16, 6, w.1), (24, 6, w.2)]
  | .fzstat => fzstatOf (s.laneView id)
  | .dominfo => s.dominfo id.die
  | .collst => s.collst id

/-- GETC (R107): the value at I lands at I + 2. -/
def execGetc (d : CDst) (r : SysReg) (s : State) : Out :=
  issue .c (fun s c => do
    legal (c.dstOk d)
    resultC s c d 2 (readSys s s.cur c r)) s

/-! ### Writing -/

/-- The bits of a word that a mask keeps. -/
def keepBits (w : Word) (m : Nat) : Word := w &&& BitVec.ofNat 64 m

/-- The effect of a PUTC on its register: fields that are RO, and registers that are, keep their values (R8, R107). TRAPLINE
is written in handler mode only (R307). -/
def Core.writeSys (c : Core) (r : SysReg) (v : Word) : Core :=
  let sys := fun (f : Sys → Sys) => c.modCtx fun x => { x with sys := f x.sys }
  match r with
  | .tbase => sys fun y => { y with tbase := v }
  | .cbtab => sys fun y => { y with cbtab := keepBits v 0xFFC00 }
  | .ropetab => sys fun y => { y with ropetab := keepBits v 0xFFFF8 }
  | .tvec => sys fun y => { y with tvec := keepBits v 0x7FFFF }
  | .trapline => if c.inHandler then sys fun y => { y with trapline := keepBits y.trapline 0x300000 ||| keepBits v 0x7FFFF } else c
  | .savebase => sys fun y => { y with savebase := keepBits v 0xFFFFFFFFFFC3 }
  | .savelen => sys fun y => { y with savelen := keepBits v 0xFFFFFFC0 }
  | .pfcnt0 => c.modCopy fun k => { k with issued := v.setWidth 32, inTime := (v >>> 32).setWidth 32 }
  | .pfcnt1 => c.modCopy fun k => { k with late := v.setWidth 32, evicted := (v >>> 32).setWidth 32 }
  | .pfhist0 => c.modCopy fun k => { k with bins := Vector.ofFn fun i => if i.val < 4 then (v >>> (16 * i.val)).setWidth 16 else k.bins[i] }
  | .pfhist1 => c.modCopy fun k => { k with bins := Vector.ofFn fun i => if 4 ≤ i.val then (v >>> (16 * (i.val - 4))).setWidth 16 else k.bins[i] }
  | _ => c

/-- The action of a write to TCTL in handler mode; none outside it, after an action, or with 0 or 3 (R307, R310). -/
def Core.tctlAction (c : Core) (v : Word) : Option Nat :=
  match c.ctx.trapped with
  | some (.handler h) => let a := v.toNat % 4; if h.action.isNone && (a == 1 || a == 2) then some a else none
  | _ => none

/-- The handler's action recorded: it issues nothing more (R310). -/
def Core.setAction (c : Core) (a : Nat) : Core :=
  c.modCtx fun x => { x with trapped := match x.trapped with
    | some (.handler h) => some (.handler { h with action := some a })
    | t => t }

/-- PUTC (R107, R310): the write takes effect at I + 1. -/
def execPutc (r : SysReg) (a : CSrc) (s : State) : Out :=
  issue .c (fun s c => do
    let (v, c) ← readC1 s c a
    if r = .tctl then
      match c.tctlAction v with
      | none => return .plain c []
      | some k => return .plain (c.setAction k) [⟨1, none, false, if k = 1 then .tctlResume else .tctlEnd, .none⟩]
    else return .plain c [⟨1, none, true, .resultLanding, .landing (.sysreg r v)⟩]) s

/-! ### Landings (R16, R85, R114, R117) -/

/-- A loop counter's write (R85). -/
def Ctx.setLoop (x : Ctx) (cl : Cluster) (k : Fin 4) (v : BitVec 32) : Ctx :=
  match cl with
  | .c => { x with c := { x.c with k := x.c.k.set k v } }
  | .x => { x with x := { x.x with k := x.x.k.set k v } }
  | .l => { x with l := { x.l with k := x.l.k.set k v } }
  | .s => { x with st := { x.st with k := x.st.k.set k v } }

/-- CBCLR: the bitmap is cleared, and a gather entry that records it is dropped from its channel's open entries (R167). -/
def Ctx.clearCb (x : Ctx) (i : Fin 4) : Ctx :=
  { x with l := { x.l with cb := x.l.cb.set i 0 }
           chan := x.chan.map fun es => es.filter fun e => e.cb != some i }

/-- A landing takes effect. -/
def Core.applyLanding (c : Core) : Landing → Core
  | .cval v d => c.modCtx fun x => { x with c := x.c.land v d }
  | .xvec v d m => c.modCtx fun x => { x with x := x.x.land v d m }
  | .pred pd v => if pd.val = 0 then c else c.modCtx fun x => { x with x := { x.x with p := x.x.p.set pd v } }
  | .loop cl k v => c.modCtx fun x => x.setLoop cl k v
  | .areg i v => c.modCtx fun x => { x with l := { x.l with a := x.l.a.set i v } }
  | .breg i v => c.modCtx fun x => { x with st := { x.st with b := x.st.b.set i v } }
  | .ag i g => c.modCtx fun x => { x with l := { x.l with ag := x.l.ag.set i g } }
  | .cb i v => c.modCtx fun x => { x with l := { x.l with cb := x.l.cb.set i v } }
  | .cbClear i => c.modCtx fun x => x.clearCb i
  | .sysreg r v => c.writeSys r v
  | .accRow t fmt row v m => c.modCtx fun x => { x with acc := x.acc.set t (x.acc[t].putRow fmt row.toNat v m) }
  | .accZero t => c.modCtx fun x => { x with acc := x.acc.set t Tile.cleared }
  | .nest e a b n => c.modMat fun m => { m with shadow := m.shadow.set e ⟨a, b, n⟩ }
  | .marker => c

/-- RESULT_LANDING (R16). -/
def execResultLanding (s : State) : Out :=
  match s.arg with
  | .landing l => .next (s.modCore s.cur fun c => c.applyLanding l)
  | _ => .refused (.notPending "RESULT_LANDING")

/-- CHANNEL_ENTRY_LANDING (R114). -/
def execChannelEntryLanding (s : State) : Out :=
  match s.arg with
  | .chan ch id v => .next (s.modCore s.cur fun c => c.fill ch id v)
  | _ => .refused (.notPending "CHANNEL_ENTRY_LANDING")

/-! ### Joined groups start (R123 to R126) -/

/-- What is to happen in a core whose clusters stand at the end of a joined group or at a rendezvous. -/
inductive GroupNext where
  | start (g parcel : Nat)
  /-- The streams end together (R124). -/
  | ends
  /-- Each cluster enters the line that its own link names. -/
  | apart
  deriving DecidableEq, Repr

/-- All four clusters wait at the rendezvous of one group. -/
def Core.rendezvous (c : Core) : Option Nat :=
  match (c.stream .c).mode with
  | .arrived g => if [Cluster.l, .x, .s].all fun k => (c.stream k).mode == .arrived g then some g else none
  | _ => none

/-- The cycle in which the group after the running one starts; none while a line still runs (R124, R125). -/
def Core.groupDone (c : Core) : Option Nat :=
  match c.ctx.joined with
  | none => none
  | some j =>
    if [Cluster.c, .l, .x, .s].all fun k => match (c.stream k).mode with | .lineDone _ => true | _ => false then
      let f := j.fin.toList.foldl max 0
      some (match j.jump with | some (_, _, t) => max f t | none => f)
    else none

/-- What comes after the running group, or at the rendezvous, in this cycle. -/
def State.groupNext (s : State) (id : CoreId) : Option GroupNext :=
  let c := s.core id
  if c.tauStands || c.inHandler || c.stopComes then none
  else match c.groupDone, c.ctx.joined with
    | some t, some j =>
      if c.ctx.tau < t then none
      else match j.jump with
        | some (line, parcel, _) => some (.start (line / 4) parcel)
        | none =>
          let w := s.link id (4 * j.g)
          if linkH w then some .ends
          else if s.groupLine id c (linkNext w) then some (.start (linkNext w / 4) 2)
          else some .apart
    | _, _ => c.rendezvous.map fun g => .start g 2

/-- Each cluster leaves joined mode for the line that its own link names (R124). -/
def State.leaveJoined (s : State) (id : CoreId) (c : Core) (g cyc : Nat) : Core :=
  lineClusters.foldl (fun (d : Core) e =>
    let st := d.stream e.1
    d.setStream e.1 { st with
      mode := (match st.mode with | .lineDone (some w) => .wait w | _ => .run)
      line := linkNext (s.link id (4 * g + e.2)), parcel := 2, entering := true, reach := max cyc st.reach, latched := none })
    (c.modCtx fun x => { x with joined := none })

/-- The four streams end together (R124). -/
def Core.endJoined (c : Core) (cyc : Nat) : Core :=
  [Cluster.c, .l, .x, .s].foldl (fun (d : Core) k => d.setStream k { d.stream k with mode := .ended, reach := cyc, latched := none })
    (c.modCtx fun x => { x with joined := none })

/-- JOINED_GROUP_START (R123 to R126): single-bit errors in the lines' link words are corrected (R210). -/
def execJoinedGroupStart (s0 : State) : Out :=
  let id := s0.cur
  match s0.groupNext id with
  | none => .refused (.notPending "JOINED_GROUP_START")
  | some .ends =>
    let c := s0.core id
    .next (s0.setCore id (c.endJoined c.ctx.tau))
  | some .apart =>
    let c := s0.core id
    .next (s0.setCore id (s0.leaveJoined id c (match c.ctx.joined with | some j => j.g | none => 0) c.ctx.tau))
  | some (.start g parcel) =>
    let s := s0.correct ((List.range 4).flatMap fun k => s0.linkPas id (4 * g + k))
    let c := s.core id
    match s.groupFault id c g with
    | some (cause, reason, k) =>
      let pos : Pos := ⟨(lineClusters.getD k (.c, 0)).1, 4 * g + k, 2⟩
      if cause = .joinForm then .next (s.raise id cause (joinInfo reason k g) pos)
      else .next (s.tick.raise id cause s.freeTinfo pos)
    | none => .next (s.setCore id (s.startGroup id c g parcel c.ctx.tau))

end Sys2Proof.Machine
end

