-- ==== Sys2Proof/Machine/Traps.lean ====
section
/-! DEFINITION. Handler mode, the supervisor's dispositions, resuming, fatal ends and the hold wave (R306 to R321), and the
budget (R180). -/

namespace Sys2Proof.Machine

open Sys2Proof

/-! ### Reports to the host (R389) -/

/-- The result of an EVENT: code, die, core and data. -/
def eventWord (code : Nat) (c : CoreId) (data : Nat) : Word :=
  packWord [(0, 8, code), (8, 12, c.die), (20, 7, c.core), (32, 32, data)]

/-- The firmware is to post an event's result to a function; it takes an open time (log entry 12). -/
def State.postWord (s : State) (fn : Nat) (owner : CoreId) (w : Word) : State :=
  (s.scheduleDom owner (1 + Config.firmwareDelay s.ctr) .eventPost (.words (BitVec.ofNat 64 fn) w)).tick

/-- The firmware is to post an event about a core. -/
def State.post (s : State) (fn code : Nat) (c : CoreId) (data : Nat) : State := s.postWord fn c (eventWord code c data)

/-- The function that launched a core's task. -/
def Core.fn (c : Core) : Nat := match c.task with | some t => t.fn | none => 0

/-- A core's stop is reported to the function that launched its task, with TCAUSE, TINFO and TRAPLINE (R312; log entry 99). -/
def State.reportStop (s : State) (id : CoreId) (y : Sys) : State :=
  s.modFn (s.core id).fn fun f => { f with stops := f.stops ++ [(id, y.tcause, y.tinfo, y.trapline)] }

/-- A core's stop is no longer one that waits for RESUME. -/
def State.dropReports (s : State) (id : CoreId) : State :=
  s.modFn (s.core id).fn fun f => { f with stops := f.stops.filter fun r => r.1 != id }

/-! ### Resuming (R311) -/

/-- The position that TRAPLINE names: cluster, line and parcel (R307). -/
def traplinePos (w : Word) : Pos :=
  let cl := match bits w 21 20 with | 0 => Cluster.c | 1 => .l | 2 => .x | _ => .s
  ⟨cl, bits w 18 5, bits w 4 0⟩

/-- The cluster that an unchanged TRAPLINE names continues at its item, which reaches issue in the present cycle unless it
is due to issue in it. -/
def Core.continue_ (c : Core) (p : Pos) : Core :=
  let st := c.stream p.cl
  let due := match st.latched with | some (i, _) => i == c.ctx.tau | none => false
  if st.mode = .run ∧ st.line = p.line ∧ st.parcel = p.parcel ∧ !due then
    c.setStream p.cl { st with reach := c.ctx.tau, latched := none }
  else c

/-- C's line of the running joined group ends two cycles before the present one with a transfer (R311): its target can start
in the present cycle. -/
def Core.transferBack (c : Core) (p : Pos) : Core :=
  let t := c.ctx.tau
  (c.setStream .c { c.stream .c with mode := .lineDone none, reach := t - 1, latched := none }).modCtx fun x => { x with
    joined := x.joined.map fun j => { j with fin := j.fin.set 0 (t - 1), jump := some (p.line, p.parcel, t) } }

/-- A cluster goes on from a parcel of the line that it is in: at the first item from there on, or behind the line's end (R22, R28). -/
def State.goOnFrom (s : State) (id : CoreId) (c : Core) (cl : Cluster) (parcel : Nat) : Core :=
  let st := c.stream cl
  let w := s.link id st.line
  c.setStream cl (match s.nextItem id st.line parcel with
    | some q => { st with mode := .run, parcel := q, reach := c.ctx.tau, latched := none }
    | none =>
      if linkH w then { st with mode := .ended, reach := c.ctx.tau, latched := none }
      else { st with mode := .run, line := linkNext w, parcel := 2, entering := true, reach := c.ctx.tau, latched := none })

/-- The core's own stop ends: the cluster that TRAPLINE names continues there, and every other one at its due item
(R311). old is TRAPLINE as the stop wrote it. -/
def State.resumeTrap (s : State) (id : CoreId) (old : Word) : State :=
  let c := (s.core id).modCtx fun x => { x with trapped := none }
  let p := traplinePos c.ctx.sys.trapline
  let s1 := s.setCore id c
  if c.ctx.sys.trapline = old then s.setCore id (c.continue_ p)
  else match c.ctx.joined with
    | some j =>
      if p.cl = .c then
        if p.line % 4 = 0 ∧ p.line < c.imagelen ∧ linkJ (s.link id p.line) ∧ 2 ≤ p.parcel then s.setCore id (c.transferBack p)
        else s1.raise id .joinForm (joinInfo 6 0 j.g) p
      else s1.raise id .joinForm (joinInfo 5 (match p.cl with | .c => 0 | .l => 1 | .x => 2 | .s => 3) j.g) p
    | none =>
      if p.parcel < 2 then s1.tick.raise id .illegal s1.freeTinfo p
      else
        let st := c.stream p.cl
        if p.line = st.line ∧ !st.entering then s.setCore id (s.goOnFrom id c p.cl p.parcel)
        else s.setCore id (c.setStream p.cl { st with
          mode := .run, line := p.line, parcel := p.parcel, entering := true, reach := c.ctx.tau, latched := none })

/-- The hold that a core's own trap began and that no release has ended yet. -/
def State.ownHold (s : State) (id : CoreId) : Option Nat :=
  (s.holds.find? fun h => h.origin == id && h.reason == 1 && h.release.isNone).map (·.id)

/-- The release of a hold starts now. -/
def State.release (s : State) (origin : CoreId) (h : Option Nat) : State :=
  match h with | some h => s.scheduleDom origin 0 .releaseStart (.ids h 0) | none => s

/-- The task goes on: its own stop ends, and the release wave of its hold starts (R310, R317). -/
def State.goOn (s : State) (id : CoreId) (old : Word) : State := (s.resumeTrap id old).release id (s.ownHold id)

/-- The task goes on, every cluster at its due item: TRAPLINE names an item that has issued (R272, R350). -/
def State.goOnDue (s : State) (id : CoreId) : State :=
  (s.modCore id fun c => c.modCtx fun x => { x with trapped := none }).release id (s.ownHold id)

/-- A task's fatal end by the supervisor or its handler (R321): a locked task holds its group with reason 6, and the hold
of the trap is released. -/
def State.endTrapped (s : State) (id : CoreId) (code : Nat) : State :=
  let c := s.core id
  if c.isLocked then
    let g := (c.task.map (·.group)).getD 0
    let s1 := s.modCore id fun c => c.modCtx fun x => { x with trapped := some .supervisor }
    (s1.startHold 6 (some (g, code)) id (s.groupCores g) []).release id (s.ownHold id)
  else s.fatalEnd id code

/-- The cause code of a fatal end for which the spec names none (log entry 62). -/
def State.openCause (s : State) : Nat := Config.freeNat s.ctr 321 % 256

/-! ### Handler mode ends (R310) -/

/-- The cycle after the last landing or perform cycle of the operations that a core's handler has issued (R310); they count
domain cycles (R308). The entry writes of its MLOADs count as well; those behind an MLOAD of the stopped task wait with it (DEDUCED,
log entry 106). -/
def State.handlerLast (s : State) (id : CoreId) : Nat :=
  let c := s.core id
  let p := match c.ctx.trapped with | some (.handler h) => h.last | _ => 0
  let left := (c.ctx.mloads.flatMap MloadJob.left).length
  s.agenda.foldl (fun m p =>
    if p.owner == id && p.clk == .dom then
      if p.ifq then max m (p.due + 1) else if p.ev == .mouldEntryWrite then max m (p.due + left) else m
    else m) (p + 1)

/-- The handler mode of a core with its requested action. -/
def Core.action (c : Core) : Option (Handler × Nat) :=
  match c.ctx.trapped with
  | some (.handler h) => h.action.map fun a => (h, a)
  | _ => none

/-- The end of handler mode is due at t1 (R310). -/
def State.endHandlerAt (s : State) (a : Nat) (name : String) : Out :=
  match (s.core s.cur).action with
  | some (_, b) =>
    if a = b then .next (s.scheduleDom s.cur (max s.clock (s.handlerLast s.cur) - s.clock) .handlerModeEnd .none)
    else .refused (.notPending name)
  | none => .refused (.notPending name)

/-- TCTL_RESUME (R310): the write of action 1 takes effect. -/
def execTctlResume (s : State) : Out := s.endHandlerAt 1 "TCTL_RESUME"

/-- TCTL_END (R310): the write of action 2 takes effect. -/
def execTctlEnd (s : State) : Out := s.endHandlerAt 2 "TCTL_END"

/-- TCAUSE with the handler bit clear. -/
def clearHandlerBit (w : Word) : Word := w &&& ~~~(1024 : Word)

/-- C's queue, counters, TBASE and stream take their saved values (R310). -/
def Core.leaveHandler (c : Core) (h : Handler) : Core :=
  (c.modCtx fun x => { x with
    c := { x.c with h := h.h, k := h.k }
    sys := { x.sys with tbase := h.tbase, tcause := clearHandlerBit x.sys.tcause } }).setStream .c h.stream

/-- HANDLER_MODE_END (R310). -/
def execHandlerModeEnd (s : State) : Out :=
  let c := s.core s.cur
  match c.action with
  | none => .refused (.notPending "HANDLER_MODE_END")
  | some (h, a) =>
    let s1 := s.setCore s.cur (c.leaveHandler h)
    if a = 1 then .next (s1.goOn s.cur h.trapline)
    else .next (s1.endTrapped s.cur (bits c.ctx.sys.tcause 7 0))

/-! ### The supervisor's dispositions (R306, R312) -/

/-- An entry's page replaced (R268). -/
def withPage (bs : List Byte) (page : Nat) : List Byte :=
  let n := leNat bs
  leBytes (n - fld n 10 42 * 2 ^ 10 + page / 1024 % 2 ^ 42 * 2 ^ 10) 16

/-- The places for a page of some bytes in the direct storage of a vault (R267). -/
def Core.pagePlaces (c : Core) (n : Nat) : Nat :=
  let room := (16 - c.ways) * 524288
  if room < n then 0 else (room - n) / 1024 + 1

/-- Two ranges, as bases with lengths, have no byte in common. -/
def apart (a b : Nat × Nat) : Bool := decide (a.1 + a.2 ≤ b.1) || decide (b.1 + b.2 ≤ a.1)

/-- A page for an image and an anchor from the firmware's reserve on a die (R274): outside the friezes' ranges, apart from the ranges to be
avoided and from every page that the reserve has given out, and where no byte is stored, as long as such a place is left. Which one is
open (log entry 30); none when no place is left. -/
def State.reservePage (s : State) (die n : Nat) (avoid : List (Nat × Nat)) : Option Nat :=
  let f := Config.freeNat s.ctr 274
  let places := ((List.range 96).flatMap fun c => (List.range ((s.core ⟨die, c⟩).pagePlaces n)).map fun i => vaultBase ⟨die, c⟩ + 1024 * i).filter
    fun p => decide (s.friezeEnd die ≤ paOff p)
  let turned := places.drop (f % max 1 places.length) ++ places.take (f % max 1 places.length)
  let ok := fun (p : Nat) => (avoid ++ s.domain.reserve).all fun a => apart a (p, n)
  (turned.find? fun p => ok p && s.mem.all fun e => decide (e.1 < p) || decide (p + n ≤ e.1)).orElse fun _ => turned.find? ok

/-- The firmware's work for REFCOUNT_SAT (R274): entries from the given ones on are forked, and one whose anchor is saturated
names a copy of its page, as the first does whose anchor was when KFORK met it; the cause of a failing entry. -/
def State.forkOn (s : State) (job : Job) (k : PageJob) (sat : Nat) : List Nat → State × Option Cause
  | [] => (s, none)
  | j :: js =>
    let met := if j = sat then (listGet? k.ents j).map (·.1) else none
    let bs := met.getD ((segPas k.a (16 * j) 16).map s.byteAt)
    let e := kvOf bs
    let (an, ab) := s.readAnchor job.owner e.anchorPa
    let put := fun (t : State) (b : List Byte) =>
      ((segPas k.b (16 * j) 16).zip b).foldl (fun (t : State) p => t.poke p.1 [p.2]) t
    if met.isNone && (!e.valid || e.tag != k.tag || !s.pageHome job.owner e || !an.valid || an.format != e.format || an.dcode != e.dcode) then
      (s, some .protection)
    else if met.isSome || an.refs = 4095 then
      match s.reservePage (paDie e.page) (e.image + 16) ((e.page, e.image) :: (e.anchorPa, 16) :: (k.a ++ k.b).map fun g => (g.pa, g.len)) with
      | none => (s, some .refcountSat)
      | some page =>
        let s0 := s.tick.modDomain fun d => { d with reserve := d.reserve ++ [(page, e.image + 16)] }
        let s1 := s0.poke page (s.bytesFrom e.page e.image)
        let s2 := s1.poke (page + e.image) (withRefs (withPage ab page) 1)
        (put s2 (withRefs (clearAnchor (withPage bs page)) 0)).forkOn job k sat js
    else
      let s1 := s.poke e.anchorPa (withRefs ab (an.refs + 1))
      (put s1 (withRefs (clearAnchor bs) 0)).forkOn job k sat js

/-- The page instruction of a core that met a saturated anchor. -/
def State.satJob (s : State) (id : CoreId) : Option (Job × PageJob × Nat) :=
  (s.jobsOf id).findSome? fun job => match job.body with
    | .page k => k.sat.map fun j => (job, k, j)
    | _ => none

/-- SUPERVISOR_DISPOSITION (R306, R312, R274, R350): the supervisor core acts on the stop of a core. -/
def execSupervisorDisposition (s : State) : Out :=
  let id := s.cur
  let c := s.core id
  match c.ctx.trapped with
  | some .supervisor =>
    let y := c.ctx.sys
    let code := bits y.tcause 7 0
    let nested := bits y.tcause 11 11 == 1
    if nested then .next (s.endTrapped id code)
    else if code = 0x38 ∨ code = 0x39 then
      .next (((s.modCore id fun c => c.modCtx fun x => { x with trapped := some (.untilResume y.trapline) }).reportStop id y).post
        c.fn 2 id (bits y.tinfo 31 0))
    else if code = 0x28 then
      .next (((s.goOnDue id).modDomain fun d => { d with panelMisses := d.panelMisses + 1 }).post c.fn 5 id (bits y.tinfo 31 0))
    else if code = 0x20 then
      match s.satJob id with
      | none => .next (s.endTrapped id code)
      | some (job, k, j) =>
        let (s1, bad) := (s.dropJob job.id).forkOn job k j ((List.range k.n).drop j)
        match bad with
        | none => .next (s1.goOnDue id)
        | some cause => .next (s1.endTrapped id cause.code)
    else .next (s.endTrapped id code)
  | _ => .refused (.notPending "SUPERVISOR_DISPOSITION")

/-! ### The hold wave (R316, R317, R319) -/

def State.hold? (s : State) (h : Nat) : Option Hold := s.holds.find? fun e => e.id == h

/-- A member's distance from the origin. -/
def Hold.distance (h : Hold) (m : CoreId) : Nat := match h.members.find? fun e => e.1 == m with | some e => e.2 | none => 0

/-- HOLDINFO (R319). -/
def holdInfo (h : Hold) (m : CoreId) (len : Nat) : Word :=
  packWord [(0, 4, h.reason), (4, 12, h.origin.die), (16, 7, h.origin.core), (24, 16, h.distance m), (40, 24, min len (2 ^ 24 - 1))]

/-- A member port of a hold changed. -/
def State.modMember (s : State) (m : CoreId) (f : Port → Port) : State :=
  { s with ports := s.ports.map fun p => if portMember p.die p.lane = m then f p else p }

/-- A ring changed. -/
def State.modRing (s : State) (r : Nat) (f : Ring → Ring) : State :=
  { s with rings := s.rings.map fun g => if g.id = r then f g else g }

/-- HOLD_REACHES_MEMBER (R317): the member stops; a fatal fault's hold ends it (R321). -/
def execHoldReachesMember (s : State) : Out :=
  match s.arg with
  | .ids hid _ =>
    match s.hold? hid with
    | none => .refused (.notPending "HOLD_REACHES_MEMBER")
    | some h =>
      let m := s.cur
      if (memberLane m).isSome then .next (s.modMember m fun p => { p with heldBy := setInsert p.heldBy hid })
      else
        match (s.core m).task with
        | none => .next s
        | some t =>
          let s1 := s.modCore m fun c => { c.modCtx fun x => { x with sys := { x.sys with holdinfo := holdInfo h m 0 } } with
            heldBy := setInsert c.heldBy hid }
          match h.kill with
          | some (g, code) => if t.locked ∧ t.group = g then .next (s1.fatalEnd m code) else .next s1
          | none => .next s1
  | _ => .refused (.notPending "HOLD_REACHES_MEMBER")

/-- RELEASE_START (R317): the release wave leaves the origin. -/
def execReleaseStart (s : State) : Out :=
  match s.arg with
  | .ids hid _ =>
    match s.hold? hid with
    | none => .refused (.notPending "RELEASE_START")
    | some h =>
      if h.release.isSome then .next s
      else
        let s1 := { s with holds := s.holds.map fun e => if e.id = hid then { e with release := some s.clock } else e }
        .next (h.members.foldl (fun (t : State) m => t.scheduleDom m.1 m.2 .releaseReachesMember (.ids hid 0)) s1)
  | _ => .refused (.notPending "RELEASE_START")

/-- A hold that no member stands in any more, and that no wave is still to reach, is forgotten. -/
def State.forgetHold (s : State) (hid : Nat) : State :=
  if (s.cores.any fun e => e.2.heldBy.contains hid) || (s.ports.any fun p => p.heldBy.contains hid) ||
      (s.agenda.any fun p => (p.ev == .releaseReachesMember || p.ev == .holdReachesMember) && p.arg == .ids hid 0) then s
  else { s with holds := s.holds.filter fun h => h.id != hid }

/-- RELEASE_REACHES_MEMBER (R317, R319): the member resumes, unless another hold covers it. -/
def execReleaseReachesMember (s : State) : Out :=
  match s.arg with
  | .ids hid _ =>
    match s.hold? hid with
    | none => .refused (.notPending "RELEASE_REACHES_MEMBER")
    | some h =>
      let m := s.cur
      let s1 :=
        if (memberLane m).isSome then s.modMember m fun p => { p with heldBy := p.heldBy.filter (· != hid) }
        else if (s.core m).heldBy.contains hid then
          s.modCore m fun c => { c.modCtx fun x =>
            { x with sys := { x.sys with holdinfo := holdInfo h m (h.release.getD s.clock - h.start) } } with
            heldBy := c.heldBy.filter (· != hid) }
        else s
      .next (s1.forgetHold hid)
  | _ => .refused (.notPending "RELEASE_REACHES_MEMBER")

/-! ### Budgets (R180) -/

/-- Every cluster that has code has ended its stream by this cycle, and no stop of a TRAP or BREAK is to come. -/
def Core.streamsEnded (c : Core) : Bool :=
  !c.stopComes && [Cluster.c, .l, .x, .s].all fun k =>
    let st := c.stream k
    match st.mode with | .absent => true | .ended => decide (st.reach ≤ c.ctx.tau) | _ => false

/-- The budget of a core's task is used up in this cycle. -/
def Core.overBudget (c : Core) : Bool :=
  match c.task with
  | some t => !c.tauStands && decide (t.budget ≤ c.ctx.tau)
  | none => false

/-- The acquire of a core that has been blocked for BUDGET cycles (R221). -/
def State.acqLate (s : State) (id : CoreId) : Option AcqReq :=
  let c := s.core id
  match c.ctx.pause, c.task with
  | some (.acquire r since _), some t => if !c.stopped && decide (since + t.budget ≤ s.clock) then some r else none
  | _, _ => none

/-- DEADLINE (R180, R221): the task is stopped; TRAPLINE names the C item due, or the acquire that is withdrawn. -/
def execDeadline (s : State) : Out :=
  let c := s.core s.cur
  let info : Word := BitVec.ofNat 64 ((c.task.map (·.budget)).getD 0 % 2 ^ 32)
  match s.acqLate s.cur with
  | some r => .next ((s.modCore s.cur fun c => c.modCtx fun x => { x with pause := none }).takeTrap s.cur .deadline info r.pos)
  | none =>
    if c.overBudget then
      .next ((s.modCore s.cur fun c => c.modCtx fun x => { x with drain := none }).stopAtDue s.cur .deadline info)
    else .refused (.notPending "DEADLINE")

end Sys2Proof.Machine
end

