-- ==== Sys2Proof/Machine/Graphs.lean ====
section
/-! DEFINITION. Task graphs in memory: headers, nodes and descriptors as the scheduler reads them, and what follows when a node
becomes ready, completes or is released (R176, R181 to R190, R193, R194). -/

namespace Sys2Proof.Machine

open Sys2Proof

/-! ### The scheduler's memory (log entry 40) -/

/-- The physical address of an access that no task makes: by a core's buffer, then its tables; or the cause code of a
fault. -/
def State.agentPa (s : State) (id : CoreId) (write : Bool) (va : Nat) : Except Nat Nat :=
  let c := s.core id
  if !canonical va then .error 0x11
  else if windowBase ≤ va then .ok (padBase id + va % 2 ^ 20)
  else
    let v := va % 2 ^ 48
    match (match c.tlb.find? fun e => e.covers v with
      | some e => some e
      | none => walkTables s v 4 1 (c.ptroot.toNat % 2 ^ 52 / 2 ^ 13 * 2 ^ 13)) with
    | none => .error 0x10
    | some e =>
      let pa := e.pa + (v - e.va)
      if !e.allows (if write then .w else .r) || !s.paOk id c pa then .error 0x11 else .ok pa

/-- A scheduler's access goes by logical core 0 of its die (log entry 40). -/
def State.schedPa (s : State) (die : Nat) (write : Bool) (va : Nat) : Except Nat Nat := s.agentPa ⟨die, 0⟩ write va

/-- n bytes that lie in one page, as a scheduler reads them. -/
def State.schedRead (s : State) (die va n : Nat) : Except Nat (List Byte) := do
  let pa ← s.schedPa die false va
  if s.poisoned (pasFrom pa n) then .error 0x30 else .ok (s.bytesFrom pa n)

/-- The bytes of a range as a scheduler found them have their single-bit errors corrected (R210). -/
def State.schedFix (s : State) (die va n : Nat) : State :=
  match s.schedPa die false va with | .ok pa => s.correct (pasFrom pa n) | .error _ => s

/-- The pieces of a range, page by page; fuel bounds the pages. -/
def State.schedSegs (s : State) (die : Nat) (write : Bool) (va : Nat) : Nat → Nat → Nat → Except Nat (List Seg)
  | 0, _, _ => .ok []
  | fuel + 1, off, len =>
    if len = 0 then .ok []
    else do
      let z := min len (65536 - (va + off) % 65536)
      let pa ← s.schedPa die write (va + off)
      let rest ← s.schedSegs die write va fuel (off + z) (len - z)
      return ⟨off, z, pa⟩ :: rest

/-- A whole range; one that lies partly in the scratchpad window and partly below it is PROTECTION (R197). -/
def State.schedRange (s : State) (die : Nat) (write : Bool) (va len : Nat) : Except Nat (List Seg) :=
  if va < windowBase ∧ windowBase < va + len then .error 0x11 else s.schedSegs die write va (len / 65536 + 2) 0 len

/-- The bytes of a range as a scheduler reads them. -/
def State.schedBytes (s : State) (die va len : Nat) : Except Nat (List Byte) := do
  let segs ← s.schedRange die false va len
  if s.poisoned (segsPas segs) then .error 0x30 else .ok (segs.flatMap fun g => s.bytesFrom g.pa g.len)

/-! ### Headers and nodes (R181, R182) -/

/-- A graph header (R181). -/
structure Header where
  nodes : Nat
  count : Nat
  id : Nat
  window : Nat
  deriving DecidableEq, Repr

/-- The header at an address, if it can be read and keeps the limits of R181. -/
def State.header (s : State) (die va : Nat) : Option Header :=
  match s.schedRead die va 64 with
  | .error _ => none
  | .ok bs =>
    let h : Header := ⟨numAt bs 0 8, numAt bs 8 2, numAt bs 10 2, numAt bs 16 12⟩
    if h.count = 0 ∨ h.nodes % 128 ≠ 0 then none else some h

/-- A node record (R182). -/
structure NodeRec where
  pa : Nat
  va : Nat
  kind : Nat
  prio : Nat
  nsucc : Nat
  npred : Nat
  a : Nat
  b : Nat
  mask : Nat
  first : Nat
  dies : Nat
  succs : List Nat
  state : Nat
  pending : Nat
  deriving DecidableEq, Repr

/-- The record of a node with its graph's header. A field nsucc above its limit of 8 counts as 8 (DESIGN CHOICE, log entry 111). -/
def State.nodeRec (s : State) (r : NodeRef) : Option (Header × NodeRec) :=
  match s.header r.die r.graph with
  | none => none
  | some h =>
    let va := h.nodes + 128 * r.node
    match s.schedPa r.die false va with
    | .error _ => none
    | .ok pa =>
      let bs := s.bytesFrom pa 128
      let w := numAt bs 0 8
      some (h, ⟨pa, va, fld w 0 4, fld w 4 2, min 8 (fld w 6 4), fld w 16 16, numAt bs 8 8, numAt bs 16 8, numAt bs 24 12,
        numAt bs 36 2, numAt bs 38 2, (List.range 8).map (fun i => numAt bs (40 + 2 * i) 2),
        fld (numAt bs 64 8) 0 4, fld (numAt bs 64 8) 16 16⟩)

/-- The successors in use. -/
def NodeRec.succ (n : NodeRec) : List Nat := n.succs.take n.nsucc

/-- The state word written (R182). -/
def State.putNodeState (s : State) (n : NodeRec) (st pending : Nat) : State :=
  s.poke (n.pa + 64) (leBytes (st + pending % 65536 * 65536) 8)

/-- The graph's record. -/
def State.graph? (s : State) (die va : Nat) : Option GraphRec := s.sched.graphs.find? fun g => g.die == die && g.va == va

def State.frozen (s : State) (r : NodeRef) : Bool := match s.graph? r.die r.graph with | some g => g.frozen | none => false

def State.modSched (s : State) (f : Sched → Sched) : State := { s with sched := f s.sched }

/-- The frozen flag written in the header and in the scheduler's own record (R194). -/
def State.setFrozen (s : State) (die va : Nat) (b : Bool) : State :=
  let s1 := match s.schedPa die true (va + 0x1C) with | .ok pa => s.poke pa [if b then 1 else 0] | .error _ => s
  s1.modSched fun k => { k with graphs := k.graphs.map fun g => if g.die = die ∧ g.va = va then { g with frozen := b } else g }

/-- The scheduler's read of a node's record and of its graph's header corrects their single-bit errors (R210). -/
def State.fixNode (s : State) (r : NodeRef) : State :=
  let s1 := s.schedFix r.die r.graph 64
  match s1.header r.die r.graph with
  | some h => s1.schedFix r.die (h.nodes + 128 * r.node) 128
  | none => s1

/-! ### Descriptors (R176) -/

/-- Two ranges have a byte in common. -/
def rangesMeet (a la b lb : Nat) : Bool := decide (0 < la) && decide (0 < lb) && decide (a < b + lb) && decide (b < a + la)

/-- The descriptor that some bytes hold, if it keeps the limits of R176; locked tells the kind of node. -/
def descOf (bs : List Byte) (locked : Bool) : Option Desc :=
  let d : Desc := ⟨numAt bs 0 8, numAt bs 8 2, 64 * numAt bs 10 2, numAt bs 12 2, 16 * numAt bs 14 2, numAt bs 16 8,
    numAt bs 24 8, numAt bs 32 8, numAt bs 40 2, 64 * numAt bs 42 2, numAt bs 44 4, locked, numAt bs 49 1, numAt bs 52 4⟩
  let li := 64 * d.imagelen
  let lm := 16 * d.mouldlen
  let la := if locked then d.arglen else 0
  if d.code % 64 = 0 ∧ 1 ≤ d.imagelen ∧ d.imagelen ≤ 16384 ∧ d.imagebase + li ≤ 2 ^ 20 ∧ d.mouldlen ≤ 1024 ∧
      d.mouldbase + lm ≤ 2 ^ 20 ∧ d.mouldva % 16 = 0 ∧ fld d.clusters 60 4 = 0 ∧ fld d.clusters 0 4 ≠ 0 ∧ d.argva % 64 = 0 ∧
      (locked = false ∨ (d.arglen ≤ 4096 ∧ d.argbase + la ≤ 2 ^ 20)) ∧ 1 ≤ d.budget ∧
      numAt bs 48 1 = (if locked then 1 else 0) ∧ (if locked then d.slot ≤ 15 else d.slot = 0) ∧ numAt bs 50 2 = 0 ∧
      (locked ∨ (d.recsize % 8 = 0 ∧ 8 ≤ d.recsize ∧ d.recsize ≤ 65536)) ∧ numAt bs 56 8 = 0 ∧
      !rangesMeet d.imagebase li d.mouldbase lm ∧ !rangesMeet d.imagebase li d.argbase la ∧
      !rangesMeet d.mouldbase lm d.argbase la then some d
  else none

/-- A node's fault (R182): the cause code of a fault, with the core of a faulting task, or the scheduler's own code. -/
structure FaultCode where
  cause : Nat
  core : Option CoreId
  code : Nat
  deriving DecidableEq, Repr

/-- The descriptor at an address, or the fault with which its node completes. -/
def State.descAt (s : State) (die va : Nat) (locked : Bool) : Except FaultCode Desc :=
  if va % 64 ≠ 0 then .error ⟨0, none, 1⟩
  else match s.schedRead die va 64 with
    | .error e => .error ⟨e, none, 0⟩
    | .ok bs => match descOf bs locked with | some d => .ok d | none => .error ⟨0, none, 1⟩

/-! ### Ready, released and complete (R183 to R187, R190, R193, R194) -/

/-- What is to be done for a node. -/
inductive NodeWork where
  /-- The node becomes ready. -/
  | ready (r : NodeRef)
  /-- A ready control node leaves the queue to be evaluated. -/
  | enter (r : NodeRef)
  /-- A predecessor releases it. -/
  | release (r : NodeRef) (from_ : Nat) (live : Bool)
  /-- It completes: as done with an exit value and the live ones among its successors, by place. -/
  | done (r : NodeRef) (v : Nat) (sel : Option Nat)
  | skipped (r : NodeRef)
  | faulted (r : NodeRef) (f : FaultCode)
  /-- A place of a die's queue has become free. -/
  | pull (die : Nat)
  deriving DecidableEq, Repr

/-- The bits of a mask, lowest first. -/
def maskList (m n : Nat) : List Nat := (List.range n).filter fun i => decide (m / 2 ^ i % 2 = 1)

/-- The effective core set (R184). -/
def coreSet (h : Header) (n : NodeRec) : List CoreId :=
  (List.range n.dies).flatMap fun d => (maskList (Nat.land n.mask h.window) 96).map fun c => ⟨n.first + d, c⟩

/-- The checks that a node meets when it becomes ready (R183, R184). No rule gives the outcome of a die count of 0 or above 4,096, of a
card with another than 1, or of a loop whose body range is empty or leaves the graph: they fault the node with the codes 0x01 and 0x03
(DESIGN CHOICE, log entry 112). -/
def State.readyFault (s : State) (r : NodeRef) (h : Header) (n : NodeRec) : Option FaultCode :=
  let own := fun c => some (⟨0, none, c⟩ : FaultCode)
  let ranged := n.kind = 1 ∨ n.kind = 2 ∨ n.kind = 7
  if n.kind = 0 ∨ 8 ≤ n.kind then own 1
  else if n.succ.any fun i => decide (h.count ≤ i) then own 1
  else if ranged ∧ (n.dies = 0 ∨ 4096 < n.dies ∨ (n.kind = 2 ∧ n.dies ≠ 1)) then own 1
  else if ranged ∧ !(List.range n.dies).all fun d => s.aligned (n.first + d) then own 4
  else if n.kind = 1 then
    match s.descAt r.die n.a true with
    | .error f => some f
    | .ok _ => if (coreSet h n).isEmpty then own 2 else none
  else if n.kind = 2 then
    if n.b % 2 ^ 32 = 0 then none
    else match s.descAt r.die n.a false with
      | .error f => some f
      | .ok _ => if (coreSet h n).isEmpty then own 2 else none
  else if n.kind = 4 then
    let first := fld n.b 0 16
    let last := fld n.b 16 16
    if (first ≤ r.node ∧ r.node ≤ last) ∨ last < first ∨ h.count ≤ last then own 3 else none
  else none

/-- The nodes in a die's queue. -/
def State.queueLen (s : State) (die : Nat) : Nat := (s.sched.ready.filter fun e => e.die == die && e.queued).length

/-- The die in whose queue a node of a die's graph stands: its first die, where it has a range of dies (R189). -/
def NodeRec.queue (n : NodeRec) (die : Nat) : Nat := if n.kind = 1 ∨ n.kind = 2 ∨ n.kind = 7 then n.first else die

/-- A control node's evaluation: its word is read at the padded latency of its nearest class (R187), and after one cycle where it has no
translation, so no class (DESIGN CHOICE, log entry 113). -/
def State.evaluate (s : State) (r : NodeRef) (n : NodeRec) : State :=
  let id : CoreId := ⟨r.die, 0⟩
  let d := match s.schedPa r.die false n.a with | .ok pa => nearestLatency s.flat id pa | .error _ => 1
  (s.putNodeState n 2 n.pending).scheduleDom id d .controlNodeEvaluate (.node r none)

/-- A placement that waits for the core reserves it, or a claim holds it (R191, R192). -/
def State.reservedBy (s : State) (c : CoreId) : Bool :=
  (s.sched.ready.any fun e => e.reserved && e.set.contains c) || s.sched.claims.any fun k => k.held.contains c

/-- Pre-emption requests that no reservation backs any more are withdrawn (R333). -/
def State.withdraw (s : State) (cores : List CoreId) : State :=
  cores.foldl (fun (t : State) c =>
    if (t.core c).ctx.sys.preempting && !t.reservedBy c then
      t.modCore c fun k => k.modCtx fun x => { x with sys := { x.sys with preempting := false } }
    else t) s

/-- A ready node's entry removed, with its reservation. -/
def State.unready (s : State) (r : NodeRef) : State :=
  let set := s.sched.ready.flatMap fun e => if e.ref = r ∧ e.reserved then e.set else []
  (s.modSched fun k => { k with ready := k.ready.filter fun e => e.ref != r }).withdraw set

/-- A node that is ready, or waits to be admitted, is so no longer: its entry, claim and live mark are gone. -/
def State.unqueue (s : State) (r : NodeRef) : State :=
  (s.unready r).modSched fun k => { k with claims := k.claims.filter fun c => c.ref != r, live := k.live.filter (· != r) }

/-- Nodes go back to their first state: waiting, with npred pending, wherever they stood (R187, R195, R387). -/
def State.rearm (s : State) (rs : List NodeRef) : State :=
  rs.foldl (fun (t : State) r => match t.nodeRec r with
    | some (_, n) => (t.unqueue r).putNodeState n 0 n.npred
    | none => t) s

/-- The dies in whose queues some nodes stand. -/
def State.queuesOf (s : State) (rs : List NodeRef) : List Nat :=
  ((s.sched.ready.filter fun e => e.queued && rs.contains e.ref).map (·.die)).eraseDups

/-- A ready control node or join is processed, unless its graph is frozen. -/
def State.enterNode (s : State) (r : NodeRef) (n : NodeRec) : State × List NodeWork :=
  if s.frozen r then (s, [])
  else if n.kind = 6 then (s.unready r, [.done r 0 none, .pull r.die])
  else ((s.unready r).evaluate r n, [.pull r.die])

/-- A node becomes ready (R183, R184, R189, R190). -/
def State.readyNode (s : State) (r : NodeRef) : State × List NodeWork :=
  match s.nodeRec r with
  | none => (s, [])
  | some (h, n) =>
    let now := s.clock % 2 ^ 63
    let s1 := ((s.putNodeState n 1 n.pending).poke (n.pa + 0x50) (leBytes now 8)).modSched fun k =>
      { k with live := k.live.filter (· != r) }
    match s.readyFault r h n with
    | some f => (s1, [.faulted r f])
    | none =>
      if n.kind = 2 ∧ n.b % 2 ^ 32 = 0 then (s1, [.done r 0 none])
      else
        let ranged := n.kind = 1 ∨ n.kind = 2 ∨ n.kind = 7
        let die := n.queue r.die
        let fits := decide (s1.queueLen die < 1024)
        let s2 := s1.modSched fun k => { k with ready := k.ready ++ [⟨r, die, n.kind, if ranged then coreSet h n else [], n.va, n.prio, now, 0, fits, s.clock, false, none⟩] }
        (s2, if fits ∧ die = r.die ∧ 3 ≤ n.kind ∧ n.kind ≤ 6 then [.enter r] else [])

/-- The completion of a node, or the start of its tasks, takes its place in the order of fences for each of some cores (R186,
R229). -/
def State.fenceNode (s : State) (cores : List CoreId) : State := cores.foldl (fun (t : State) c => t.fence c .domain) s

/-- The key under which a function's writes are published to the tasks of a graph (R382). -/
def graphKey (die va : Nat) : Nat := 2 ^ 64 * (die + 1) + va

/-- A task of a node, or its request, starts on a core: the fence of R229, and the writes of the host that the graph's launch
published (R382). -/
def State.startNode (s : State) (r : NodeRef) (c : CoreId) : State :=
  (s.fenceNode [c]).reveal c fun w => w.pubs.contains (graphKey r.die r.graph)

/-- The successors' releases of a node that completes (R185): those of a frozen graph release nothing (R194). -/
def State.releases (s : State) (r : NodeRef) (n : NodeRec) (live : Nat → Bool) : List NodeWork :=
  if s.frozen r then [] else n.succ.zipIdx.map fun e => .release { r with node := e.1 } r.node (live e.2)

/-- A node is skipped (R185). -/
def State.skipNode (s : State) (r : NodeRef) : State × List NodeWork :=
  match s.nodeRec r with
  | none => (s, [])
  | some (_, n) =>
    let s1 := s.putNodeState n 4 n.pending
    (s1.modSched fun k => { k with live := k.live.filter (· != r) }, s1.releases r n fun _ => false)

/-- A release reaches a node (R185), which is ready or skipped at once with the last: a further release in the same cycle finds it so and
has no effect. The one from its body makes a loop ready again, to be evaluated anew, and leaves its count (R187, R190; log entry 95). -/
def State.releaseNode (s : State) (r : NodeRef) (from_ : Nat) (live : Bool) : State × List NodeWork :=
  match s.nodeRec r with
  | none => (s, [])
  | some (_, n) =>
    if (n.state = 2 ∨ n.state = 0) ∧ n.kind = 4 ∧ fld n.b 0 16 ≤ from_ ∧ from_ ≤ fld n.b 16 16 then
      if s.frozen r then (s, []) else s.readyNode r
    else if n.state ≠ 0 then (s, [])
    else
      let p := n.pending - 1
      let isLive := live || s.sched.live.contains r
      let s1 := s.putNodeState n 0 p
      if p = 0 then (if isLive then s1.readyNode r else s1.skipNode r)
      else if live ∧ !s.sched.live.contains r then (s1.modSched fun k => { k with live := k.live ++ [r] }, [])
      else (s1, [])

/-- A node completes as done (R185): its exit value is written and its successors released. A selecting node releases live
the one that it selects. -/
def State.doneNode (s : State) (r : NodeRef) (v : Nat) (sel : Option Nat) : State × List NodeWork :=
  match s.nodeRec r with
  | none => (s, [])
  | some (_, n) =>
    let s1 := (s.putNodeState n 3 n.pending).poke (n.pa + 0x48) (leBytes v 8)
    (s1, s1.releases r n fun i => match sel with | none => true | some k => i == k)

/-- The word at offset 0x58 (R182). -/
def FaultCode.word (f : FaultCode) : Nat :=
  f.cause + (match f.core with | some c => c.die % 4096 * 2 ^ 8 + c.core % 128 * 2 ^ 20 | none => 0) + f.code * 2 ^ 32

/-- A node completes as faulted (R193, R194): its graph freezes, an error token leaves it, and the host is told. -/
def State.faultNode (s : State) (r : NodeRef) (f : FaultCode) : State × List NodeWork :=
  match s.nodeRec r with
  | none => (s.unready r, [])
  | some (_, n) =>
    let was := s.frozen r
    let die := match s.sched.ready.find? fun e => e.ref == r with | some e => e.die | none => r.die
    let s1 := (s.putNodeState n 6 n.pending).poke (n.pa + 0x58) (leBytes f.word 8)
    let s2 := (s1.setFrozen r.die r.graph true).unready r
    let s3 := if n.succ.isEmpty then s2
      else (s2.modSched fun k => { k with tokens := k.tokens ++ [⟨r.die, r.graph, n.succ⟩] }).scheduleDom ⟨r.die, 0⟩ 1
        .errorTokenStep (.node { r with node := 0 } none)
    let fn := match s.graph? r.die r.graph with | some g => g.fn | none => 0
    (if was then s3 else s3.post fn 1 (f.core.getD ⟨r.die, 0⟩) r.node, [.pull die])

/-- A free place goes to the waiting node with the earliest ready time (R190). -/
def State.pullNode (s : State) (die : Nat) : State × List NodeWork :=
  if 1024 ≤ s.queueLen die then (s, [])
  else
    let best := (s.sched.ready.filter fun e => e.die == die && !e.queued).foldl (fun (b : Option ReadyNode) e => match b with
      | none => some e
      | some m => if e.time < m.time ∨ (e.time = m.time ∧ e.addr < m.addr) then some e else b) none
    match best with
    | none => (s, [])
    | some e =>
      let s1 := s.modSched fun k => { k with ready := k.ready.map fun x => if x.ref = e.ref then { x with queued := true, aged := 0 } else x }
      match s.nodeRec e.ref with
      | some (_, n) => (s1, if 3 ≤ n.kind ∧ n.kind ≤ 6 then [.enter e.ref] else [])
      | none => (s1, [])

/-- One piece of work. -/
def State.workStep (s : State) : NodeWork → State × List NodeWork
  | .ready r => (s.fixNode r).readyNode r
  | .enter r => match s.nodeRec r with | some (_, n) => s.enterNode r n | none => (s, [])
  | .release r f l => (s.fixNode r).releaseNode r f l
  | .done r v sel => (s.fixNode r).doneNode r v sel
  | .skipped r => (s.fixNode r).skipNode r
  | .faulted r f => (s.fixNode r).faultNode r f
  | .pull die => s.pullNode die

/-- All the work that follows in the cycle, in breadth-first order; a node completes at most once, so that the fuel, which the
largest graph cannot use up, bounds it. -/
def State.work (s : State) : Nat → List NodeWork → State
  | 0, _ => s
  | _ + 1, [] => s
  | fuel + 1, w :: ws => let (t, more) := s.workStep w; t.work fuel (ws ++ more)

def State.doWork (s : State) (ws : List NodeWork) : State := s.work (2 ^ 22) ws

end Sys2Proof.Machine
end

