-- ==== Sys2Proof/Machine/Scheduler.lean ====
section
/-! DEFINITION. Tasks and the graph scheduler: TSPAWN, launches and ends of tasks, job cards, placements, frame boundaries and the
error token (R18, R175 to R195, R333). -/

namespace Sys2Proof.Machine

open Sys2Proof

/-! ### Spawning (R195) -/

/-- Every node of a graph in its first state (R195). -/
def State.rearmAll (s : State) (die va : Nat) (h : Header) : State :=
  s.rearm ((List.range h.count).map fun i => ⟨die, va, i⟩)

/-- The references of a graph's nodes that pass a test on their records. -/
def State.nodesWhere (s : State) (die va : Nat) (h : Header) (p : NodeRec → Bool) : List NodeRef :=
  ((List.range h.count).map fun i => (⟨die, va, i⟩ : NodeRef)).filter fun r => match s.nodeRec r with
    | some (_, n) => p n
    | none => false

/-- The scheduler's record of a graph, made new. -/
def State.enrol (s : State) (die va tag fn : Nat) : State :=
  s.modSched fun k => { k with
    graphs := (k.graphs.filter fun g => g.die != die || g.va != va) ++ [⟨die, va, fn, tag, false⟩]
    live := k.live.filter fun r => r.die != die || r.graph != va
    tokens := k.tokens.filter fun t => t.die != die || t.graph != va }

/-- A queue that a request is to enter is full: that of its own die, or that of the first die of a node that it makes ready, which would
have to wait (R190, R195; log entry 115). -/
def State.queueFull (s : State) (die : Nat) (rs : List NodeRef) : Bool :=
  (die :: rs.filterMap fun r => (s.nodeRec r).map fun p => p.2.queue r.die).any fun d => decide (1024 ≤ s.queueLen d)

/-- A whole graph is enqueued (R195, R387): the status, and the state after it. -/
def State.spawnGraph (s : State) (die va tag fn : Nat) : Nat × State :=
  match s.header die va with
  | none => (3, s)
  | some h =>
    if s.queueFull die (s.nodesWhere die va h fun n => n.npred == 0) then (2, s)
    else if !(s.nodesWhere die va h fun n => n.state == 1 || n.state == 2).isEmpty then (4, s)
    else
      let s1 := ((s.rearmAll die va h).enrol die va tag fn).setFrozen die va false
      (0, s1.doWork ((s1.nodesWhere die va h fun n => n.npred == 0).map .ready))

/-- A node that ran is cancelled without running (R194, R195): it leaves the queue, and its place goes to a waiting node. -/
def State.cancelNode (s : State) (r : NodeRef) (n : NodeRec) : State :=
  let d := match s.sched.ready.find? fun e => e.ref == r with | some e => e.die | none => r.die
  ((s.putNodeState n 5 n.pending).unqueue r).doWork [.pull d]

/-- One node of a graph is enqueued (R195): it becomes ready now, whatever its state. -/
def State.spawnNode (s : State) (r : NodeRef) (tag fn : Nat) : Nat × State :=
  match s.header r.die r.graph with
  | none => (3, s)
  | some h =>
    if h.count ≤ r.node then (3, s)
    else if s.queueFull r.die [r] then (2, s)
    else match s.nodeRec r with
      | none => (3, s)
      | some (_, n) =>
        if s.frozen r then (1, s.cancelNode r n)
        else
          let s1 := if (s.graph? r.die r.graph).isNone then s.enrol r.die r.graph tag fn else s
          let s2 := (s1.unready r).modSched fun k => { k with claims := k.claims.filter fun c => c.ref != r }
          (0, s2.doWork [.ready r, .pull r.die])

/-- TSPAWN (R195). -/
def execTspawn (node : Bool) (a b : CSrc) (s : State) : Out :=
  issue .c (fun s c => do
    engineOk c
    legal (c.srcOk a && (!node || c.srcOk b))
    let (x, c) ← readC s c a
    let (y, c) ← if node then readC s c b else pure ((0 : Word), c)
    if x.toNat % 64 ≠ 0 then .error (.trap .align (accessInfo x 0 false))
    else if !canonical x.toNat then .error (.trap .protection (accessInfo x 0 false))
    else
      let (tag, fn) := match c.task with | some t => (t.domtag.toNat, t.fn) | none => (0, 0)
      return .plain c [⟨160, none, true, .tspawnApply, .spawn node x.toNat y.toNat tag fn⟩]) s

/-- A request at the scheduler of a die: its status, and the state after it. -/
def State.spawn (s : State) (die : Nat) (node : Bool) (va i tag fn : Nat) : Nat × State :=
  if node then s.spawnNode ⟨die, va, i⟩ tag fn else s.spawnGraph die va tag fn

/-- The requests of a die that are due in this cycle and issued before a place of the issue order, the earliest first. -/
def State.spawnsBefore (s : State) (die ord : Nat) : List Pending :=
  (s.agenda.filter fun p => p.ev == .tspawnApply && p.owner.die == die && decide (p.ord < ord) && s.isDue p).foldl
    (fun l p => l.takeWhile (fun q => decide (q.ord < p.ord)) ++ p :: l.dropWhile (fun q => decide (q.ord < p.ord))) []

/-- A request of another core that comes first takes its effect, and its status is to land in that core's own place. -/
def State.spawnFirst (s : State) (p : Pending) : State :=
  match p.arg with
  | .spawn node va i tag fn =>
    let (st, s1) := s.spawn p.owner.die node va i tag fn
    { s1 with agenda := s1.agenda.map fun q =>
        if q = p then { q with ev := .resultLanding, arg := .landing (.cval (BitVec.ofNat 64 st) none) } else q }
  | _ => s

/-- TSPAWN_APPLY (R195): those of the die's requests that issued before it have come about; the status lands on h0. -/
def execTspawnApply (s : State) : Out :=
  match s.arg with
  | .spawn node va i tag fn =>
    let s0 := (s.spawnsBefore s.cur.die s.ord).foldl (fun t p => t.spawnFirst p) s
    let (st, s1) := s0.spawn s.cur.die node va i tag fn
    .next (s1.modCore s.cur fun c => c.modCtx fun x => { x with c := x.c.land (BitVec.ofNat 64 st) none })
  | _ => .refused (.notPending "TSPAWN_APPLY")

/-! ### Control nodes (R187) -/

/-- The nodes of a loop's body in their first state; the places that ready ones among them leave go to waiting nodes (R190). -/
def State.rearmBody (s : State) (r : NodeRef) (first last : Nat) : State :=
  let rs := (List.range (last + 1 - first)).map fun i => { r with node := first + i }
  (s.rearm rs).doWork ((s.queuesOf rs).map .pull)

/-- CONTROL_NODE_EVALUATE (R187): the word is read, and a loop's counter written; in the next cycle the node completes, or the
loop releases its body. -/
def execControlNodeEvaluate (s : State) : Out :=
  match s.arg with
  | .node r read =>
    match s.nodeRec r with
    | none => .refused (.notPending "CONTROL_NODE_EVALUATE")
    | some (_, n) =>
      match read with
      | none =>
        let again := fun (t : State) (v : Nat × Nat) => Host.Outcome.next (t.scheduleDom s.cur 1 .controlNodeEvaluate (.node r (some v)))
        if n.a % 8 ≠ 0 then again s (0x13, 0)
        else match s.schedRead r.die n.a 8 with
        | .error e => again s (e, 0)
        | .ok bs =>
          let w := leNat bs
          let s1 := s.schedFix r.die n.a 8
          if n.kind = 4 ∧ w ≠ 0 then
            (match s1.schedPa r.die true n.a with
            | .ok pa => again (s1.poke pa (leBytes (w - 1) 8)) (0, w)
            | .error e => again s1 (e, 0))
          else again s1 (0, w)
      | some (cause, w) =>
        if cause ≠ 0 then .next (s.doWork [.faulted r ⟨cause, none, 0⟩])
        else if n.kind = 4 ∧ w ≠ 0 then
          let s1 := s.rearmBody r (fld n.b 0 16) (fld n.b 16 16)
          .next (if s1.frozen r then s1 else s1.doWork ((n.succ.take 1).map fun i => .release { r with node := i } r.node true))
        else
          let sel := match n.kind with
            | 3 | 4 => if w ≠ 0 then 0 else 1
            | _ => if w < n.nsucc - 1 then w else n.nsucc - 1
          .next (s.doWork [.done r w (some sel)])
  | _ => .refused (.notPending "CONTROL_NODE_EVALUATE")

/-! ### Launching (R176, R177) -/

/-- What a launch copies into a scratchpad: the code image, the mould image and a placement's arguments, each with its address, its
place in the scratchpad and its length. -/
def Desc.parts (d : Desc) : List (Nat × Nat × Nat) :=
  [(d.code, d.imagebase, 64 * d.imagelen), (d.mouldva, d.mouldbase, 16 * d.mouldlen), (d.argva, d.argbase, if d.locked then d.arglen else 0)]

/-- The bytes i to j − 1 of some parts laid end to end, the first of them at offset o. -/
def cutParts (i j : Nat) : Nat → List (Nat × Nat × Nat) → List (Nat × Nat × Nat)
  | _, [] => []
  | o, (va, base, len) :: rest =>
    let a := max i o - o
    let b := min len (j - o)
    (if a < b then [(va + a, base + a, b - a)] else []) ++ cutParts i j (o + len) rest

/-- The cycles of a launch's copies, at 64 bytes a cycle. -/
def Desc.loadCycles (d : Desc) : Nat := ((d.parts.map fun p => p.2.2).sum + 63) / 64

/-- One cycle of a launch's copies into the scratchpad of a core; what cannot be read any more is not copied (log entry 116). -/
def State.loadBeat (s : State) (die : Nat) (d : Desc) (c : CoreId) (k : Nat) : State :=
  (cutParts (64 * k) (64 * k + 64) 0 d.parts).foldl (fun (t : State) p => match t.schedRange die false p.1 p.2.2 with
    | .ok segs => (t.correct (segsPas segs)).poke (padBase c + p.2.1) (segs.flatMap fun g => t.bytesFrom g.pa g.len)
    | .error _ => t) s

/-- A launch's copies begin for some cores, after all that they copy has been found readable: 64 bytes are copied in this cycle, and in
each that follows (R176). -/
def State.loadImages (s : State) (die : Nat) (d : Desc) (cores : List CoreId) : Except Nat State := do
  let _ ← d.parts.mapM fun p => s.schedBytes die p.1 p.2.2
  return cores.foldl (fun (t : State) c => t.scheduleDom c 0 .taskLaunch (.load die d 0)) s

/-- The entry line of a cluster in CLUSTERS (R111). -/
def entryLine (w : Nat) (cl : Cluster) : Nat :=
  match cl with | .c => fld w 4 14 | .l => fld w 18 14 | .x => fld w 32 14 | .s => fld w 46 14

/-- CLUSTERS with the entry lines of absent clusters 0 (R111). -/
def clustersWord (w : Nat) : Word :=
  let line := fun (k lo : Nat) => if w / 2 ^ k % 2 = 1 then fld w lo 14 else 0
  packWord [(0, 4, w), (4, 14, line 0 4), (18, 14, line 1 18), (32, 14, line 2 32), (46, 14, line 3 46)]

/-- A cluster's stream at its entry line; its first item reaches issue in the task's first cycle (R21, R25). -/
def entryStream (w : Nat) (cl : Cluster) : Stream :=
  let bit := match cl with | .c => 0 | .l => 1 | .x => 2 | .s => 3
  if w / 2 ^ bit % 2 = 1 then ⟨.run, entryLine w cl, 2, true, 0, none, none⟩ else Stream.absent

/-- The mould table that a launch loads (R62). The bytes of an entry beyond MOULDLEN, of which R62 says only that it is invalid, are all 0
(DESIGN CHOICE, log entry 107). -/
def State.launchMoulds (s : State) (id : CoreId) (d : Desc) : List (Nat × BitVec 128) :=
  (List.range d.mouldlen).map fun k => (k, BitVec.ofNat 128 (s.numFrom (padBase id + d.mouldbase + 16 * k) 16))

/-- The registers that a launch sets (R177). -/
def launchRegs (r : LaunchReq) (x : Ctx) : Ctx :=
  let d := r.desc
  let addr : Word := BitVec.ofNat 64 (if d.locked then d.argbase else d.argva)
  let set := fun (v : Vector Word 32) (i n : Nat) => v.set! i (BitVec.ofNat 64 n)
  { x with
    c := { x.c with s := (set (set (set x.c.s 0 r.a) 1 r.b) 3 (if d.locked then d.arglen else d.recsize)).set! 2 addr }
    l := { x.l with a := x.l.a.set! 0 addr }
    st := { x.st with b := x.st.b.set! 0 addr } }

/-- The context of a task at its first cycle (R14, R62, R111, R112, R176 to R178). -/
def State.launchCtx (s : State) (id : CoreId) (r : LaunchReq) : Ctx :=
  let d := r.desc
  launchRegs r { Ctx.zero with
    moulds := s.launchMoulds id d
    sys := { Sys.zero with
      imagebase := BitVec.ofNat 64 d.imagebase, imagelen := BitVec.ofNat 64 d.imagelen
      mouldbase := BitVec.ofNat 64 d.mouldbase, mouldlen := BitVec.ofNat 64 d.mouldlen
      clusters := clustersWord d.clusters, argbase := BitVec.ofNat 64 (d.argbase % 2 ^ 20) }
    streams := #v[entryStream d.clusters .c, entryStream d.clusters .l, entryStream d.clusters .x, entryStream d.clusters .s] }

/-- The task that a launch starts (R178). -/
def LaunchReq.task (r : LaunchReq) : Task where
  locked := r.desc.locked
  slot := r.desc.slot
  desc := BitVec.ofNat 64 r.descVa
  ref := r.ref
  graphId := r.graphId
  budget := r.desc.budget
  domtag := BitVec.ofNat 16 r.tag
  fn := r.fn
  group := r.group
  chunk := if r.desc.locked then none else some (r.a, r.b)
  exit := none
  halted := false
  lanes := []
  run := r.run

/-- PTROOT as a launch sets it (R201): the root of the function's page table, where it has one; else it stays (log entry 5). -/
def State.launchRoot (s : State) (id : CoreId) (fn : Nat) : Word :=
  let root := (s.domain.fns[fn]?.map (·.root)).getD 0
  if root = 0 then (s.core id).ptroot else BitVec.ofNat 64 (root % 2 ^ 52 / 2 ^ 13 * 2 ^ 13)

/-- TASK_LAUNCH (R176, R177, R186, R201, R229): a cycle of the copies that come before a task, or the task's first cycle. -/
def execTaskLaunch (s : State) : Out :=
  match s.arg with
  | .launch r =>
    if (s.core s.cur).task.isSome then .refused (.notPending "TASK_LAUNCH")
    else
      let x := s.launchCtx s.cur r
      let s1 := s.modCore s.cur fun c =>
        { c with task := some r.task, ctx := x, heldBy := [], landing := [], ptroot := s.launchRoot s.cur r.fn }
      .next (s1.startNode r.ref s.cur)
  | .load die d k =>
    let s1 := s.loadBeat die d s.cur k
    .next (if k + 1 < d.loadCycles then s1.scheduleDom s.cur 1 .taskLaunch (.load die d (k + 1)) else s1)
  | _ => .refused (.notPending "TASK_LAUNCH")

/-! ### Running nodes (R179, R185, R188, R193) -/

def State.modRunning (s : State) (id : Nat) (f : Running → Running) : State :=
  s.modSched fun k => { k with running := k.running.map fun r => if r.id = id then f r else r }

/-- The running node with a number. -/
def State.running? (s : State) (id : Nat) : Option Running := s.sched.running.find? fun r => r.id == id

/-- A running node without a core left completes, unless it has faulted already; its completion is a fence of each core that ran
it (R229). -/
def State.closeRunning (s : State) (id : Nat) : State :=
  match s.running? id with
  | none => s
  | some r =>
    if r.left.isEmpty then
      let s1 := (s.modSched fun k => { k with
        running := k.running.filter fun e => e.id != id, slots := k.slots.filter fun g => g.1 != id }).fenceNode r.cores
      if r.fault.isSome then s1 else s1.doWork [.done r.ref r.sum none]
    else s

/-- Everything that a core's task issued has landed or performed (R179). -/
def State.settled (s : State) (id : CoreId) : Bool :=
  let x := (s.core id).ctx
  decide (s.ifqCount id = 0) && (s.busyIds id).isEmpty && x.mloads.isEmpty && (s.core id).cresizes.all (fun r => !r.own) && x.retry.isEmpty

/-- A core's task ends in this cycle (R179). -/
def State.taskDone (s : State) (id : CoreId) : Bool :=
  let c := s.core id
  c.task.isSome && !c.tauStands && c.ctx.drain.isNone && c.streamsEnded && s.settled id

/-- A task that has ended gives its exit value to its node; a card's core asks again (R179, R185, R188). -/
def State.taskOver (s : State) (id : CoreId) (run exit : Nat) : State :=
  match s.running? run with
  | none => s
  | some r =>
    let out := fun (q : Running) => { q with left := q.left.filter (· != id), sum := (q.sum + exit) % 2 ^ 64 }
    if r.kind = 2 ∧ r.remaining ≠ 0 ∧ !s.frozen r.ref then
      s.modRunning r.id fun q => { q with ask := q.ask ++ [id], sum := (q.sum + exit) % 2 ^ 64 }
    else (s.modRunning r.id out).closeRunning r.id

/-- TASK_END (R179): the core is free. -/
def execTaskEnd (s : State) : Out :=
  let id := s.cur
  if s.taskDone id then
    match (s.core id).task with
    | none => .refused (.notPending "TASK_END")
    | some t => .next ((s.freeCore id).taskOver id t.run ((t.exit.getD 0).toNat))
  else .refused (.notPending "TASK_END")

/-! ### Free cores (R189, R191) -/

/-- The core runs no task and none is about to start on it, no claim holds it, and its vault is not being copied. -/
def State.coreFree (s : State) (c : CoreId) : Bool :=
  let k := s.core c
  k.task.isNone && decide (k.copyUntil ≤ s.clock) && !s.domain.off.contains c.die &&
  !(s.agenda.any fun p => p.owner == c && (p.ev == .taskLaunch || p.ev == .taskRestore)) &&
  !s.sched.claims.any fun q => q.held.contains c

/-- Free work may start on the core. -/
def State.openCore (s : State) (c : CoreId) : Bool :=
  s.coreFree c && !s.reservedBy c && !s.sched.suspended.any fun t => t.core == c

/-- One ready node ranks before another (R189). -/
def ReadyNode.before (a b : ReadyNode) : Bool :=
  decide (b.prio < a.prio) || (a.prio == b.prio && (decide (a.time < b.time) || (a.time == b.time && decide (a.addr < b.addr))))

/-- The highest-ranked entry that passes a test. -/
def bestReady (es : List ReadyNode) (p : ReadyNode → Bool) : Option ReadyNode :=
  (es.filter p).foldl (fun (b : Option ReadyNode) e => match b with
    | none => some e
    | some m => if e.before m then some e else b) none

/-- Ready nodes in rank order. -/
def rankInsert (e : ReadyNode) : List ReadyNode → List ReadyNode
  | [] => [e]
  | x :: xs => if e.before x then e :: x :: xs else x :: rankInsert e xs
def rankOrder (es : List ReadyNode) : List ReadyNode := es.foldl (fun l e => rankInsert e l) []

/-! ### Dispatch (R188, R189, R193) -/

/-- What the scheduler of a die has to do in this cycle. -/
inductive Dispatch where
  | fault (f : NodeFault)
  | ask (id : Nat) (c : CoreId)
  | coll (e : ReadyNode)
  | card (e : ReadyNode)
  deriving DecidableEq, Repr

/-- The lowest core of a list. -/
def lowestCore (cs : List CoreId) : Option CoreId :=
  cs.foldl (fun (b : Option CoreId) c => match b with
    | none => some c
    | some m => if CoreId.num c < CoreId.num m then some c else b) none

/-- A card's core that asks can be served: it leaves the card, or it can take a chunk. -/
def State.askReady (s : State) (r : Running) (c : CoreId) : Bool := r.remaining == 0 || s.frozen r.ref || s.openCore c

/-- The first thing that a die's scheduler has to do (R189). -/
def State.dispatch (s : State) (die : Nat) : Option Dispatch :=
  match s.faultq.find? fun f => f.core.die == die with
  | some f => some (.fault f)
  | none =>
  match s.sched.running.findSome? fun r =>
      (lowestCore (r.ask.filter fun c => c.die == die && s.askReady r c)).map fun c => Dispatch.ask r.id c with
  | some d => some d
  | none =>
    let mine := s.sched.ready.filter fun e => e.die == die && e.queued && !s.frozen e.ref
    match bestReady mine fun e => e.kind == 7 with
    | some e => some (.coll e)
    | none =>
      if s.sched.carded.contains (die, s.clock) then none
      else (bestReady mine fun e => e.kind == 2 && e.set.any s.openCore).map .card

/-- The chunk of a card of n cores with the given records left (R188). -/
def chunkOf (remaining n : Nat) : Nat := max 1 (remaining / (2 * n))

/-- A core of a card is dealt its next chunk, whose task starts in d cycles. -/
def State.deal (s : State) (r : Running) (c : CoreId) (n d : Nat) (h : Header) (rec_ : NodeRec) (desc : Desc) : State :=
  let count := chunkOf r.remaining n
  let g := s.graph? r.ref.die r.ref.graph
  let req : LaunchReq := ⟨r.ref, h.id, rec_.a, desc, 0, r.next, count, (g.map (·.tag)).getD 0, (g.map (·.fn)).getD 0, r.id⟩
  (s.modRunning r.id fun q => { q with next := q.next + count, remaining := q.remaining - count, ask := q.ask.filter (· != c)
                                       cores := if q.cores.contains c then q.cores else q.cores ++ [c] }).scheduleDom
    c d .taskLaunch (.launch req)

/-- A core leaves its card. -/
def State.leaveCard (s : State) (id : Nat) (c : CoreId) : State :=
  (s.modRunning id fun q => { q with left := q.left.filter (· != c), ask := q.ask.filter (· != c) }).closeRunning id

/-- A card that cannot be launched on a core is faulted, and the core leaves it. -/
def State.askFails (s : State) (r : Running) (c : CoreId) (f : FaultCode) : State :=
  let s1 := if r.fault.isSome then s else s.doWork [.faulted r.ref f]
  (s1.modRunning r.id fun q => { q with fault := q.fault <|> some (f.cause, c) }).leaveCard r.id c

/-- A core's ask is served (R188): its first chunk starts after the launch copies of R176. -/
def State.serveAsk (s : State) (id : Nat) (c : CoreId) : State :=
  match s.running? id with
  | none => s
  | some r =>
    if r.remaining = 0 ∨ s.frozen r.ref then s.leaveCard id c
    else match s.nodeRec r.ref with
      | none => s.leaveCard id c
      | some (h, n) =>
        match s.descAt r.ref.die n.a false with
        | .error f => s.askFails r c f
        | .ok d =>
          let n' := (coreSet h n).length
          let s := s.schedFix r.ref.die n.a 64
          if r.cores.contains c then s.deal r c n' 16 h n d
          else match s.loadImages r.ref.die d [c] with
            | .error cause => s.askFails r c ⟨cause, none, 0⟩
            | .ok s1 => s1.deal r c n' d.loadCycles h n d

/-- A card's node runs: its state is written, it leaves the queue, and every core of its set asks for work (R188, R189). -/
def State.beginCard (s : State) (e : ReadyNode) (n : NodeRec) : State :=
  (((s.putNodeState n 2 n.pending).unready e.ref).modSched fun k => { k with
    running := k.running ++ [⟨e.ref, 2, s.seq, [], e.set, 0, none, 0, n.b % 2 ^ 32, e.set⟩]
    carded := (k.carded.filter fun p => p.2 == s.clock) ++ [(e.die, s.clock)] }).bump

/-- A card starts (R188, R189): every core of its set asks, and the free ones are served in ascending order; one that is not free
is served once it is (R233; log entry 96). -/
def State.startCard (s : State) (e : ReadyNode) : State :=
  match s.nodeRec e.ref with
  | none => s.unready e.ref
  | some (_, n) =>
    match s.descAt e.ref.die n.a false with
    | .error f => s.doWork [.faulted e.ref f]
    | .ok d =>
      match s.loadImages e.ref.die d [] with
      | .error cause => s.doWork [.faulted e.ref ⟨cause, none, 0⟩]
      | .ok s1 =>
        ((e.set.filter s.openCore).foldl (fun (t : State) c => t.serveAsk s1.seq c) (s1.beginCard e n)).doWork [.pull e.die]

/-- The block of a node's collective, checked at the issue as COLL checks it at I (R373, R379): its pieces, or a cause code. -/
def State.nodeBlock (s : State) (die va : Nat) : Except Nat (List Seg) :=
  if va % 64 ≠ 0 then .error 0x13
  else do
    let _ ← s.schedRange die false va 128
    s.schedRange die true va 128

/-- A collective node starts: core 0 of each die of its range issues the block, a fence of that core (R229); one that cannot reach
it faults the node (R189, R193, R379). -/
def State.startColl (s : State) (e : ReadyNode) : State :=
  match s.nodeRec e.ref with
  | none => s.unready e.ref
  | some (_, n) =>
    let cores := (List.range n.dies).map fun d => (⟨n.first + d, 0⟩ : CoreId)
    let blocks := cores.map fun c => (c, s.nodeBlock c.die n.a)
    let issued := blocks.filterMap fun b => match b.2 with | .ok segs => some (b.1, segs) | .error _ => none
    let failed := blocks.findSome? fun b => match b.2 with | .ok _ => none | .error code => some (code, b.1)
    let s1 := ((s.putNodeState n 2 n.pending).unready e.ref).modSched fun k => { k with
      running := k.running ++ [⟨e.ref, 7, s.seq, cores, issued.map (·.1), 0, failed, 0, 0, []⟩] }
    let s2 := issued.foldl (fun (t : State) b =>
      let j : CollJob := ⟨b.1.die, BitVec.ofNat 64 n.a, b.2, [], false, 0, [], none, [], [], 0, none, [], none, 0, [], [],
        some e.ref, false, ⟨.c, 0, 0⟩⟩
      let t := t.startNode e.ref b.1
      { t with seq := t.seq + 1, jobs := t.jobs ++ [⟨t.seq, b.1, false, .coll j⟩]
               agenda := t.agenda ++ [⟨.dom, t.clock + t.flat, b.1, t.seq, false, .collBlockRead, .beat t.seq 0 true⟩] }) s1.bump
    match failed with
    | none => s2.doWork [.pull e.die]
    | some (code, _) => (s2.doWork [.faulted e.ref ⟨code, none, 0⟩, .pull e.die]).closeRunning s.seq

/-- A fatal end of a task faults its node (R193); the node's other tasks run on. -/
def State.nodeFault (s : State) (f : NodeFault) : State :=
  let s1 := { s with faultq := s.faultq.filter (· != f) }
  match s1.running? f.run with
  | none => s1
  | some r =>
    let s2 := s1.modRunning r.id fun q => { q with
      left := q.left.filter (· != f.core), fault := q.fault <|> some (f.cause, f.core) }
    let s3 := if r.fault.isNone then s2.doWork [.faulted r.ref ⟨f.cause, some f.core, 0⟩] else s2
    s3.closeRunning r.id

/-- NODE_DISPATCH (R189): the scheduler of a die does the first thing it has to do. -/
def execNodeDispatch (s : State) : Out :=
  match s.dispatch s.cur.die with
  | none => .refused (.notPending "NODE_DISPATCH")
  | some (.fault f) => .next (s.nodeFault f)
  | some (.ask id c) => .next (s.serveAsk id c)
  | some (.coll e) => .next (s.startColl e)
  | some (.card e) => .next (s.startCard e)

/-! ### Placements (R191, R192) -/

/-- The time slots that the compiled schedule of a node's lock group claims (R2, R359). -/
def State.slotsFor (s : State) (r : NodeRef) : List FabSlot :=
  match s.sched.compiled.find? fun e => e.1 == r with | some e => e.2 | none => []

/-- A scheduled slot that a node's group claims is claimed by an admitted group already (R359). -/
def State.slotsTaken (s : State) (r : NodeRef) : Bool :=
  (s.slotsFor r).any fun u => u.slot % 8 != 7 && s.sched.slots.any fun g => g.2.contains u

/-- The cycle at which the tasks of a placement admitted in the present frame start: slot s of the next frame. -/
def startCycle (clock slot : Nat) : Nat := (clock / 32768 + 1) * 32768 + 2048 * slot

/-- A placement is admitted: its slot assignments and its images are loaded, and its tasks start together (R176, R191, R359). -/
def State.admitNode (s : State) (e : ReadyNode) : State :=
  match s.nodeRec e.ref with
  | none => s.unready e.ref
  | some (h, n) =>
    match s.descAt e.ref.die n.a true with
    | .error f => s.doWork [.faulted e.ref f]
    | .ok d =>
      match s.loadImages e.ref.die d e.set with
      | .error cause => s.doWork [.faulted e.ref ⟨cause, none, 0⟩]
      | .ok s1 =>
        let id := s1.seq + 1
        let g := s1.graph? e.ref.die e.ref.graph
        let s2 := ((s1.putNodeState n 2 n.pending).unready e.ref).modSched fun k => { k with
          running := k.running ++ [⟨e.ref, 1, id, e.set, e.set, 0, none, 0, 0, []⟩]
          slots := k.slots ++ [(id, s1.slotsFor e.ref)] }
        let s3 := (e.set.zipIdx).foldl (fun (t : State) c =>
          t.scheduleDom c.1 (startCycle t.clock d.slot - t.clock) .taskLaunch
            (.launch ⟨e.ref, h.id, n.a, d, id, c.2, e.set.length, (g.map (·.tag)).getD 0, (g.map (·.fn)).getD 0, id⟩))
          { s2 with seq := s2.seq + 2 }
        s3.doWork [.pull e.die]

/-- The dies of a set. -/
def diesOf (cs : List CoreId) : List Nat := (cs.map (·.die)).eraseDups

/-- The entry of a ready node changed. -/
def State.modReady (s : State) (r : NodeRef) (f : ReadyNode → ReadyNode) : State :=
  s.modSched fun k => { k with ready := k.ready.map fun e => if e.ref = r then f e else e }

/-- A placement that is not admitted reserves its set (R191). -/
def State.reserve (s : State) (e : ReadyNode) : State := s.modReady e.ref fun x => { x with reserved := true }

/-- The members of a claim answer at a boundary: those whose cores are free hold them (R192). -/
def State.answer (s : State) (e : ReadyNode) (k : Claim) : State :=
  let yes := fun d => (e.set.filter fun c => c.die == d).all s.coreFree
  let s1 := s.modSched fun q => { q with claims := q.claims.map fun x =>
    if x.id = k.id then { x with frame := some (s.clock / 32768), held := e.set.filter fun c => yes c.die } else x }
  let s2 := if (diesOf e.set).all yes then s1 else s1.reserve e
  (diesOf e.set).foldl (fun (t : State) d =>
    if t.aligned d then t.scheduleDom ⟨d, 0⟩ (nearestLatency t.flat ⟨d, 0⟩ (vaultBase ⟨e.die, 0⟩)) .placementReply (.ids k.id (2 * d + (if yes d then 1 else 0)))
    else t) s2

/-- The ready placements in rank order at a boundary (R191, R192). -/
def State.admitAll (s : State) : State :=
  (rankOrder (s.sched.ready.filter fun e => e.kind == 1 && e.queued && !s.frozen e.ref)).foldl (fun (t : State) e =>
    if (diesOf e.set).length ≤ 1 then
      (if e.set.all t.coreFree && !t.slotsTaken e.ref then t.admitNode e else t.reserve e)
    else match t.sched.claims.find? fun k => k.ref == e.ref && k.frame.isNone with
      | some k => t.answer e k
      | none => t) s

/-- Aging of free work (R189). -/
def ReadyNode.age (e : ReadyNode) : ReadyNode :=
  if e.queued && (e.kind == 2 || e.kind == 7) then
    if 64 ≤ e.aged + 1 then { e with aged := 0, prio := min 3 (e.prio + 1) } else { e with aged := e.aged + 1 }
  else e

/-- Pre-emption requests are posted to the free tasks on reserved cores (R333). -/
def State.askPreempt (s : State) : State :=
  { s with cores := s.cores.map fun e =>
      if e.2.isFree && e.2.ctx.drain.isNone && s.reservedBy e.1 then
        (e.1, e.2.modCtx fun x => { x with sys := { x.sys with preempting := true } })
      else e }

/-- A frame boundary is to be handled. -/
def State.boundaryDue (s : State) : Bool := decide (s.sched.frame < s.clock / 32768)

/-- FRAME_BOUNDARY (R18, R189, R191, R192, R333): a new frame has begun, FCYC being 0. -/
def execFrameBoundary (s : State) : Out :=
  if s.boundaryDue then
    let s1 := s.modSched fun k => { k with frame := s.clock / 32768, ready := k.ready.map ReadyNode.age }
    let lost := s1.sched.ready.filter fun e => e.kind == 1 && !(diesOf e.set).all s1.aligned
    let s2 := lost.foldl (fun (t : State) e =>
      (t.modSched fun k => { k with claims := k.claims.filter fun c => c.ref != e.ref }).doWork [.faulted e.ref ⟨0, none, 4⟩]) s1
    .next s2.admitAll.askPreempt
  else .refused (.notPending "FRAME_BOUNDARY")

/-- A ready placement of several dies whose claim is still to be sent. -/
def State.claimDue (s : State) (die : Nat) : Option ReadyNode :=
  bestReady s.sched.ready fun e => e.die == die && e.kind == 1 && e.queued && e.claim.isNone && !s.frozen e.ref &&
    decide (1 < (diesOf e.set).length)

/-- PLACEMENT_CLAIM (R192): the lead sends a claim to its members. -/
def execPlacementClaim (s : State) : Out :=
  match s.claimDue s.cur.die with
  | none => .refused (.notPending "PLACEMENT_CLAIM")
  | some e =>
    .next (((s.modReady e.ref fun x => { x with claim := some s.seq }).modSched fun k => { k with
      claims := k.claims ++ [⟨s.seq, e.ref, none, [], []⟩] }).bump)

/-- PLACEMENT_REPLY (R192): a member's reply reaches the lead; with the last one the lead decides. -/
def execPlacementReply (s : State) : Out :=
  match s.arg with
  | .ids id v =>
    match s.sched.claims.find? fun k => k.id == id with
    | none => .refused (.notPending "PLACEMENT_REPLY")
    | some k =>
      let k1 := { k with votes := k.votes ++ [(v / 2, v % 2 == 1)] }
      let s1 := s.modSched fun q => { q with claims := q.claims.map fun x => if x.id = id then k1 else x }
      match s.sched.ready.find? fun e => e.ref == k.ref with
      | none => .next s1
      | some e =>
        .next (if (diesOf e.set).all fun d => k1.votes.any fun w => w.1 == d then s1.scheduleDom ⟨e.die, 0⟩ 1 .placementGo (.ids id 0) else s1)
  | _ => .refused (.notPending "PLACEMENT_REPLY")

/-- PLACEMENT_GO (R191, R192): the common go, where every member, each still of the aligned domain, has said so; or the cancel, on which
every member frees its cores, the placement's set is reserved and the claim is repeated. -/
def execPlacementGo (s : State) : Out :=
  match s.arg with
  | .ids id _ =>
    match s.sched.claims.find? fun k => k.id == id with
    | none => .refused (.notPending "PLACEMENT_GO")
    | some k =>
      let s1 := s.modSched fun q => { q with claims := q.claims.filter fun x => x.id != id }
      match s.sched.ready.find? fun e => e.ref == k.ref with
      | none => .next s1
      | some e =>
        let again := s1.modReady e.ref fun x => { x with claim := none }
        .next (if s.frozen e.ref then again
          else if k.votes.all (·.2) && (diesOf e.set).all s.aligned && !s.slotsTaken e.ref then s1.admitNode e else again.reserve e)
  | _ => .refused (.notPending "PLACEMENT_GO")

/-! ### The error token (R194) -/

/-- The token goes on until it has marked a node, or has none to visit; a successor index outside the graph names no node (R183). -/
def State.tokenWalk (s : State) (die va : Nat) : Nat → List Nat → State × List Nat
  | 0, front => (s, front)
  | _ + 1, [] => (s, [])
  | fuel + 1, i :: rest =>
    let r : NodeRef := ⟨die, va, i⟩
    match s.nodeRec r with
    | some (h, n) =>
      if i < h.count ∧ (n.state = 0 ∨ n.state = 1) then
        (s.cancelNode r n, rest ++ n.succ)
      else s.tokenWalk die va fuel rest
    | none => s.tokenWalk die va fuel rest

/-- ERROR_TOKEN_STEP (R194). -/
def execErrorTokenStep (s : State) : Out :=
  match s.arg with
  | .node r _ =>
    match s.sched.tokens.find? fun t => t.die == r.die && t.graph == r.graph with
    | none => .refused (.notPending "ERROR_TOKEN_STEP")
    | some t =>
      let (s1, front) := s.tokenWalk t.die t.graph (t.front.length + 1) t.front
      let s2 := s1.modSched fun k => { k with tokens := k.tokens.filter (· != t) ++ (if front.isEmpty then [] else [⟨t.die, t.graph, front⟩]) }
      .next (if front.isEmpty then s2 else s2.scheduleDom ⟨t.die, 0⟩ 1 .errorTokenStep (.node r none))
  | _ => .refused (.notPending "ERROR_TOKEN_STEP")

end Sys2Proof.Machine
end

