-- ==== Sys2Proof/Machine/Vaults.lean ====
section
/-! DEFINITION. Vault ways and CRESIZE, the scrubber and vault overruns (R199, R200, R209, R210, R340, R392). -/

namespace Sys2Proof.Machine

open Sys2Proof

/-- CRESIZE (R200): the promise is pushed at I + 1; the resizing runs in the core's timeline. -/
def execCresize (n : BitVec 5) (s : State) : Out :=
  issue .c (fun s c => do
    engineOk c
    legal (decide (n.toNat ≤ 16))
    if 2 ≤ c.cresizes.length then .error (.trap .queueFull (BitVec.ofNat 64 (18 + 2 * 256)))
    else if (16 - n.toNat) * 524288 < s.friezeEnd s.cur.die then .error (.trap .protection (n.setWidth 64))
    else
      let now := s.timeline s.cur
      let st := match c.cresizes.getLast? with | some r => r.done + 1 - (if r.own then 0 else c.ctx.lag) | none => now
      let c0 := match c.cresizes.getLast? with | some r => r.n | none => c.ways
      let d := if c0 ≤ n.toNat then n.toNat - c0 else c0 - n.toNat
      let fin := st + 64 + 4096 * d
      let ev := fun (t : Nat) (e : Instr) => (⟨t - now, some s.cur, false, e, .ids n.toNat c0⟩ : Req)
      return .plain { c with cresizes := c.cresizes ++ [⟨n.toNat, st, fin, c0, true⟩] }
        [pushH0 1 (BitVec.ofNat 64 (fin % 2 ^ 63)), ev st .cresizeStart, ev fin .cresizeComplete]) s

/-- The direct storage of the ways that a test picks is 0. -/
def State.clearWays (s : State) (id : CoreId) (p : Nat → Bool) : State :=
  let hit := fun pa => paSpace pa == 0 && paCore pa == id && p (paOff pa / 524288)
  { s with mem := s.mem.filter fun e => !hit e.1
           ledger := s.ledger.filter fun r => !hit r.pa
           poison := s.poison.filter fun w => !hit (8 * w)
           soft := s.soft.filter fun w => !hit (8 * w) }

/-- CRESIZE_START (R200): the moving ways that were direct lose their contents. -/
def execCresizeStart (s : State) : Out :=
  match (s.core s.cur).cresizes with
  | r :: _ =>
    if r.start = s.cresizeNow s.cur r then .next (s.clearWays s.cur r.moves) else .refused (.notPending "CRESIZE_START")
  | [] => .refused (.notPending "CRESIZE_START")

/-- CRESIZE_COMPLETE (R200): the new count holds, and ways that become direct hold 0. -/
def execCresizeComplete (s : State) : Out :=
  match (s.core s.cur).cresizes with
  | r :: rest =>
    if r.done = s.cresizeNow s.cur r then
      .next ((s.clearWays s.cur r.moves).modCore s.cur fun c => { c with ways := r.n, cresizes := rest, resized := some r })
    else .refused (.notPending "CRESIZE_COMPLETE")
  | [] => .refused (.notPending "CRESIZE_COMPLETE")

/-! ### Scrubbing (R210, R392) -/

/-- A scrub step is due: one every 64 cycles. -/
def State.scrubDue (s : State) : Bool := decide (64 * (s.scrubs + 1) ≤ s.clock)

/-- The words of a vault that the present step reads: 64 bytes at the place that the count gives. -/
def State.scrubs? (s : State) (w : Nat) : Bool :=
  let pa := 8 * w
  paSpace pa == 0 && paOff pa / 64 == s.scrubs % 131072

/-- The firmware posts the core positions that have become candidates for a spare (R389, R392). -/
def State.postCandidates (s : State) : State :=
  (s.cores.filter fun e => e.2.spare.1 && !e.2.spares.2.2).foldl (fun (t : State) e =>
    (t.modCore e.1 fun c => { c with spares := (c.spares.1, c.spares.2.1, true) }).post 0 6 e.1 0) s

/-- SCRUB_STEP (R210): 64 bytes of every vault are read, corrected and rewritten. -/
def execScrubStep (s : State) : Out :=
  if s.scrubDue then
    let bad := s.poison.filter s.scrubs?
    let s1 := bad.foldl (fun (t : State) w => t.modCore (paCore (8 * w)) fun c => { c with wear := (c.wear.1, c.wear.2.1 + 1, c.wear.2.2) }) s
    let s2 := (s1.correct ((s.soft.filter s.scrubs?).map (8 * ·))).postCandidates
    .next { s2 with scrubs := s.scrubs + 1 }
  else .refused (.notPending "SCRUB_STEP")

/-! ### Vault overruns (R209, R316) -/

/-- The physical addresses that a coming event of a core's accesses. -/
def Arg.pas : Arg → List Nat
  | .access a => a.pas
  | .atom r => [r.pa]
  | .hist pa _ _ _ _ => [pa]
  | .acq r => [r.pa]
  | .rel r => [r.pa]
  | .bind r => [r.pa]
  | .ldqk r => r.pa :: r.row.elim [] fun w => [w.pa]
  | .side r => r.els.flatMap El.pas
  | _ => []

/-- What an attention request is still to read or write: its block and its operands until they are read, its entries, its bitmap, the
pages of the entries read, and its results (R280). -/
def State.attnReach (s : State) (id : CoreId) (k : AttnJob) : List Nat :=
  let b := attnBlockOf k.block
  let known := !k.block.isEmpty && k.status == 0
  k.blk.map (·.pa) ++ (k.out ++ k.triple).map (·.pa) ++
  (if known && k.query.isEmpty then s.operandEnds id k ++ s.endsOf id b.output (4 * b.g * headDim b.dcode) else []) ++
  (if known then (List.range (k.ne - k.ents.length)).flatMap fun i => s.endsOf id (b.table + BitVec.ofNat 64 (16 * (k.ents.length + i))) 16
   else []) ++
  (if known && b.bitmapOn && k.bitmap.isEmpty then s.endsOf id b.bitmap ((k.tokens + 7) / 8) else []) ++
  k.ents.map fun e => (kvOf e).page

/-- What a cast request is still to reach, as far as its steps so far tell: its block, header, tokens and image, the nodes, buckets and slots
of its coming steps, and what it writes at F (R290). -/
def State.castReach (s : State) (job : Job) (k : CastJob) : List Nat :=
  let of := fun (va : Word) n => ((s.castRange job.owner k .r va n).toOption.getD []).flatMap fun g => [g.pa, g.pa + g.len - 1]
  k.blk.map (·.pa) ++ k.reads ++ k.overlay.map (·.1) ++ k.anchors ++ k.dropped.map (·.1) ++
  (match k.hdr with
   | some va => of va 128 ++ of (k.toks + BitVec.ofNat 64 (4 * k.tree.g * k.k)) (4 * (k.n - k.tree.g * k.k)) ++
      [Instr.castProbeStep, .castConfirmStep, .castAllocateStep, .castEvictStep, .castDepositStep].flatMap (s.castAhead job k)
   | none => of k.va 128)

/-- The addresses that an engine request is still to access, so far as it knows them: of each range where its pieces begin. -/
def State.jobReach (s : State) (j : Job) : List Nat :=
  match j.body with
  | .copy k => (k.src ++ k.dst).map (·.pa)
  | .page k => (k.a ++ k.b).map (·.pa) ++ k.ents.flatMap fun e => [(kvOf e.2.1).page, (kvOf e.2.1).anchorPa]
  | .attn k => s.attnReach j.owner k
  | .cast k => s.castReach j k
  | .coll k => (k.blk ++ k.src ++ k.dst).map (·.pa)

/-- The accesses of a core's walk, of a blocked acquire and of the blocks in its matrix unit. -/
def Ctx.pas (x : Ctx) : List Nat :=
  (match x.pause with | some (.walk w) => [w.table] | some (.acquire r _ _) => [r.pa] | _ => []) ++
  x.mat.cmds.flatMap fun m => m.ops.flatMap fun o => o.segs.flatMap fun g => g.map (·.pa)

/-- The cores with an access pending on a vault, by their items, walks, matrix units or engine requests (R209, R316). -/
def State.usersOf (s : State) (v : CoreId) : List CoreId :=
  let hit := fun (pas : List Nat) => pas.any fun pa => paSpace pa == 0 && paCore pa == v
  (((s.agenda.filter fun p => hit p.arg.pas).map (·.owner)) ++ ((s.jobs.filter fun (j : Job) => j.live && hit (s.jobReach j)).map (·.owner)) ++
    (s.cores.filter fun e => e.2.task.isSome && hit e.2.ctx.pas).map (·.1)).eraseDups

/-- Whole lock groups for cores with a locked task (R316). -/
def State.wholeGroups (s : State) (cs : List CoreId) : List CoreId :=
  (cs.flatMap fun c => match (s.core c).task with
    | some t => if t.locked then s.groupCores t.group else [c]
    | none => []).eraseDups

/-- VAULT_OVERRUN (R209): every lock group and free task with an access pending on the vault is held, until the access can
perform. -/
def execVaultOverrun (s : State) : Out :=
  match s.arg with
  | .ids d _ =>
    let cs := s.wholeGroups (s.usersOf s.cur)
    if cs.isEmpty then .refused (.notPending "VAULT_OVERRUN")
    else
      let h := s.seq
      .next ((s.startHold 4 none s.cur cs []).scheduleDom s.cur d .releaseStart (.ids h 0))
  | _ => .refused (.notPending "VAULT_OVERRUN")

end Sys2Proof.Machine
end

