-- ==== Sys2Proof/Machine/Preempt.lean ====
section
/-! DEFINITION. Pre-emption: PHINT and its liveness record, the drain, the save area, the save engine and the restore (R325 to
R333). -/

namespace Sys2Proof.Machine

open Sys2Proof

/-! ### The liveness record (R326) -/

/-- A liveness record (R326). -/
structure LiveRec where
  s : Nat
  v : Nat
  a : Nat
  b : Nat
  cDepth : Nat
  xDepth : Nat
  accs : Nat
  defq : Bool
  ranges : List (Nat × Nat)
  deriving DecidableEq, Repr

/-- The fields of a record with a limit: offset and whether the value keeps it, in ascending offset. -/
def liveChecks (bs : List Byte) : List (Nat × Bool) :=
  let n := numAt bs 0x0E 2
  [(0x0A, decide (numAt bs 0x0A 1 ≤ 16)), (0x0B, decide (numAt bs 0x0B 1 ≤ 16)), (0x0C, decide (numAt bs 0x0C 1 ≤ 15)),
    (0x0D, decide (numAt bs 0x0D 1 ≤ 1)), (0x0E, decide (n ≤ 8))] ++
  (List.range 8).flatMap fun k =>
    let off := numAt bs (0x10 + 6 * k) 3
    let len := numAt bs (0x13 + 6 * k) 3
    if k < n then
      [(0x10 + 6 * k, off % 64 == 0),
        (0x13 + 6 * k, len % 64 == 0 && decide (64 ≤ len) && decide (len ≤ 2 ^ 20) && decide (off + len ≤ 2 ^ 20))]
    else [(0x10 + 6 * k, off == 0), (0x13 + 6 * k, len == 0)]

/-- The offset of the first field that breaks its limit. -/
def liveBad (bs : List Byte) : Option Nat := ((liveChecks bs).find? fun c => !c.2).map (·.1)

def liveOf (bs : List Byte) : LiveRec :=
  ⟨numAt bs 0 4, numAt bs 4 2, numAt bs 6 2, numAt bs 8 2, numAt bs 0x0A 1 % 32, numAt bs 0x0B 1 % 32, numAt bs 0x0C 1 % 16,
    numAt bs 0x0D 1 % 2 == 1,
    (List.range (min 8 (numAt bs 0x0E 2 % 16))).map fun k => (numAt bs (0x10 + 6 * k) 3, numAt bs (0x13 + 6 * k) 3)⟩

/-- The place of a record's line in a scratchpad. -/
def Core.recordPas (c : Core) (id : CoreId) (line : Nat) : List Nat :=
  pasFrom (padBase id + c.ctx.sys.imagebase.toNat + 64 * line) 64

/-- PHINT (R325): the record is checked; a free task with a request pending takes it. -/
def execPhint (line : BitVec 14) (s : State) : Out :=
  issue .c (fun s c => do
    engineOk c
    if c.imagelen ≤ line.toNat then .error (.trap .protection (accessInfo 0 0 false))
    else
      let pas := c.recordPas s.cur line.toNat
      let bs := s.readAs s.cur pas
      if s.poisoned pas then
        .error (.trap .eccUncorrectable
          (accessInfo (BitVec.ofNat 64 (windowBase + c.ctx.sys.imagebase.toNat + 64 * line.toNat)) 0 false))
      else match liveBad bs with
        | some off => .error (.trap .illegal (BitVec.ofNat 64 (1 + off * 256)))
        | none =>
          let take := !c.isLocked && c.ctx.sys.preempting
          let c1 := if take then c.modCtx fun x => { x with
              drain := some ⟨bs, false, 0, 0⟩, sys := { x.sys with preempting := false } } else c
          return { IssueOut.plain c1 [] with reads := pas }) s

/-! ### The save area (R329, R330) -/

/-- Pieces at offsets, one after another, each padded to a multiple of 64 bytes. -/
def layOut : Nat → List (List Byte) → List (Nat × List Byte)
  | _, [] => []
  | off, p :: ps => if p.isEmpty then layOut off ps else (off, p) :: layOut (off + (p.length + 63) / 64 * 64) ps

/-- The end of the last piece, with its padding. -/
def layEnd (off : Nat) (ps : List (List Byte)) : Nat := ps.foldl (fun o p => o + (p.length + 63) / 64 * 64) off

/-- The named registers of a file, ascending. -/
def namedBytes (mask n w : Nat) (get : Nat → Nat) : List Byte := (maskList mask n).flatMap fun i => leBytes (get i) w

/-- An accumulator's words, maxima and sums (R330). -/
def Tile.saved (t : Tile) : List Byte :=
  (t.array.toList.flatMap fun w => leBytes w.toNat 4) ++ (t.m.toList.flatMap fun w => leBytes w.toNat 4) ++
  t.s.toList.flatMap fun w => leBytes w.toNat 4

/-- The segments of the variable part (R330). -/
def State.saveSegs (s : State) (id : CoreId) (r : LiveRec) : List (List Byte) :=
  let x := (s.core id).ctx
  [namedBytes r.s 32 8 (fun i => (x.c.s[i]!).toNat),
   (List.range r.cDepth).flatMap (fun i => leBytes (x.c.h[i]!).toNat 8),
   (maskList r.v 16).flatMap (fun i => vecBytes x.x.v[i]!),
   (List.range r.xDepth).flatMap (fun i => vecBytes x.x.h[i]!),
   namedBytes r.a 16 8 (fun i => (x.l.a[i]!).toNat),
   namedBytes r.b 16 8 (fun i => (x.st.b[i]!).toNat)] ++
  (maskList r.accs 4).map (fun i => (x.acc[i]!).saved) ++
  [if r.defq then x.x.defq.flatMap (fun w => leBytes w.toNat 8) else []] ++
  r.ranges.map fun g => s.readAs id (pasFrom (padBase id + g.1) g.2)

/-- An address generator's 64 bytes (R329). -/
def AddrGen.saved (g : AddrGen) : List Byte :=
  leBytes g.base.toNat 8 ++ ((List.range 4).flatMap fun i =>
    leBytes (g.stride[i]!).toNat 4 ++ leBytes (g.count[i]!).toNat 4 ++ leBytes (g.idx[i]!) 4) ++
  leBytes (g.ind.toNat + g.tb.toNat * 2 ^ 8) 4 ++ leBytes g.bound.toNat 4

def walkTabBytes (t : WalkTab) : List Byte := t.toList.flatMap fun e => leBytes e.a.toNat 8 ++ leBytes e.b.toNat 8 ++ leBytes e.n 8

/-- A resume position (R329). -/
def Core.savedPos (c : Core) (cl : Cluster) : Nat :=
  let st := c.stream cl
  match st.mode with
  | .absent | .ended => 2 ^ 31
  | _ => (32 * st.line + st.parcel) % 2 ^ 19

/-- A stale map's 128 bytes (R63). -/
def staleBytes (l : List Nat) : List Byte := leBytes (l.foldl (fun n m => n + 2 ^ m) 0) 128

/-- The fixed part (R329), with the valid bit 0. -/
def State.savedFixed (s : State) (id : CoreId) (d : Drain) (n : Nat) : List (Nat × List Byte) :=
  let c := s.core id
  let x := c.ctx
  let y := x.sys
  let w := fun (v : Word) => leBytes v.toNat 8
  [(0x0004, leBytes n 4), (0x0008, leBytes d.clock 8),
   (0x0010, [Cluster.c, .l, .x, .s].flatMap fun k => leBytes (c.savedPos k) 4),
   (0x0020, match c.task with | some t => w t.desc ++ w t.info | none => []),
   (0x0040, d.record),
   (0x0080, (x.c.k.toList ++ x.l.k.toList ++ x.x.k.toList ++ x.st.k.toList).flatMap fun k => leBytes k.toNat 4),
   (0x00C0, (List.range 7).flatMap fun i => w x.x.p[i + 1]!),
   (0x0100, [BitVec.ofNat 64 x.tau, BitVec.ofNat 64 d.lag, y.tbase, y.tvec, y.cbtab, y.ropetab, y.savebase, y.savelen, s.cpystat id,
     pair32 x.copy.issued x.copy.inTime, pair32 x.copy.late x.copy.evicted, binWord x.copy.bins 0, binWord x.copy.bins 4,
     x.mat.mseqWord, x.mat.mrowp, y.rdvWord].flatMap w),
   (0x0180, x.l.ag.toList.flatMap AddrGen.saved),
   (0x0280, x.l.cb.toList.flatMap w ++ leBytes x.x.defq.length 8),
   (0x0300, walkTabBytes x.mat.shadow ++ walkTabBytes x.mat.active),
   (0x0500, x.mat.fq.flatMap fun e => w e.1 ++ leBytes e.2 8),
   (0x0580, x.castq.flatMap fun e => leBytes ((e.done.getD 0) % 2 ^ 32 + e.kind * 2 ^ 32) 8),
   (0x05C0, w x.castqWord ++ w (s.kvstat id) ++ w (s.collst id)),
   (0x1000, (List.range 1024).flatMap fun m => leBytes (x.mould m) 16),
   (0x5000, x.stale.toList.flatMap staleBytes)]

/-- The whole area (R329, R330): its pieces and its size N. -/
def State.saveArea (s : State) (id : CoreId) (d : Drain) : List (Nat × List Byte) × Nat :=
  let segs := s.saveSegs id (liveOf d.record)
  let n := layEnd 0x5200 segs
  (s.savedFixed id d n ++ layOut 0x5200 segs, n)

/-- A byte of an area given by its pieces. -/
def areaByte (ps : List (Nat × List Byte)) (k : Nat) : Byte :=
  match ps.find? fun p => decide (p.1 ≤ k) && decide (k < p.1 + p.2.length) with
  | some p => p.2.getD (k - p.1) 0
  | none => 0

/-! ### The drain and the stop (R327, R328) -/

/-- Nothing of the core's is in flight or pending any more (R327). -/
def State.drained (s : State) (id : CoreId) : Bool :=
  s.settled id && (List.range 5).all fun e => ((s.core id).ctx.markers[e]!).isEmpty

/-- A drain has come to its end, q (R327). -/
def State.drainOver (s : State) (id : CoreId) : Bool :=
  let c := s.core id
  !c.tauStands && s.drained id && match c.ctx.drain with | some d => !d.ended | none => false

/-- Every cluster continues at its due item, which reaches issue in the present cycle of the timeline (R327). -/
def Core.allDue (c : Core) : Core :=
  [Cluster.c, .l, .x, .s].foldl (fun (d : Core) k =>
    let st := d.stream k
    if st.mode = .run then d.setStream k { st with reach := d.ctx.tau, latched := none } else d) c

/-- The outcome of an attempt in PREEMPTST (R328) and TINFO (R327). -/
def Core.attempt (c : Core) (outcome n : Nat) : Core :=
  c.modCtx fun x => { x with sys := { x.sys with
    preemptOutcome := outcome, preemptSize := n
    preemptRefusals := if outcome = 1 then x.sys.preemptRefusals else min (x.sys.preemptRefusals + 1) (2 ^ 32 - 1)
    tinfo := BitVec.ofNat 64 (n % 2 ^ 32 + outcome * 2 ^ 32) } }

/-- A refused pre-emption: the task continues (R327). -/
def Core.refuse (c : Core) : Core := (c.modCtx fun x => { x with trapped := none, drain := none }).allDue

/-- PREEMPT_STOP (R327): at the drain's end q the stop is set for the next cycle; then the core stops for PREEMPT, TRAPLINE naming
the item after the PHINT, and its channels are checked. A budget that is used up at c itself comes first (log entry 98). -/
def execPreemptStop (s : State) : Out :=
  let id := s.cur
  let c := s.core id
  match s.arg, c.ctx.drain with
  | .ids 1 _, some ⟨record, true, _, _⟩ =>
    if c.tauStands then .refused (.notPending "PREEMPT_STOP")
    else if c.overBudget then
      .next ((s.modCore id fun c => c.modCtx fun x => { x with drain := none }).stopAtDue id .deadline
        (BitVec.ofNat 64 ((c.task.map (·.budget)).getD 0 % 2 ^ 32)))
    else
      let d : Drain := ⟨record, true, s.clock % 2 ^ 63, c.ctx.lag⟩
      let n := (s.saveArea id d).2
      let c1 := c.writeTrap .preempt (BitVec.ofNat 64 n) (s.afterItem id c) false false
      if c.ctx.chan.toList.any fun q => !q.isEmpty then .next (s.tick.tick.setCore id (c1.attempt 4 n).refuse)
      else
        let s1 := s.tick.tick.setCore id (c1.modCtx fun x => { x with trapped := some (.saving 0 n), drain := some d })
        .next (s1.scheduleDom id 0 .saveBeat (.beat 0 0 true))
  | _, some d =>
    if s.drainOver id then
      let s1 := s.modCore id fun c => c.modCtx fun x => { x with drain := some { d with ended := true } }
      .next ({ s1.schedule ⟨.tau id, c.ctx.tau + 1, id, s.seq, false, .preemptStop, .ids 1 0⟩ with seq := s.seq + 1 })
    else .refused (.notPending "PREEMPT_STOP")
  | _, _ => .refused (.notPending "PREEMPT_STOP")

/-! ### The save engine (R331) -/

/-- The class and address that SAVEBASE names. -/
def Sys.saveCls (y : Sys) : Cls := match bits y.savebase 1 0 with | 0 => .n | 1 => .d | 2 => .p | _ => .f
def Sys.saveVa (y : Sys) : Word := signExt 48 (bits y.savebase 47 6 * 64)

/-- The beat's pieces, by the core's buffer only. -/
def State.beatSegs (s : State) (id : CoreId) (j n : Nat) : Option (List Seg) :=
  let c := s.core id
  match checkWhole s id c c.ctx.sys.saveCls .w (c.ctx.sys.saveVa + BitVec.ofNat 64 (128 * j)) n with
  | .ok (segs, _) => some segs
  | .error _ => none

/-- The attempt is over with an outcome; the task resumes in the next cycle. -/
def State.abort (s : State) (id : CoreId) (outcome n : Nat) : State :=
  (s.modCore id fun c => c.attempt outcome n).scheduleDom id 1 .saveBeat (.beat 0 0 false)

/-- SAVE_BEAT (R331): beat j is checked and issues, or the save is aborted; a first part false is the resumption after an abort. -/
def execSaveBeat (s : State) : Out :=
  let id := s.cur
  let c := s.core id
  match s.arg, c.ctx.trapped, c.ctx.drain with
  | .beat _ j true, some (.saving _ n), some d =>
    if c.ctx.sys.savelen.toNat ≤ 128 * j then .next (s.abort id 3 n)
    else
      let m := min 128 (n - 128 * j)
      match s.beatSegs id j m with
      | none => .next (s.abort id 2 n)
      | some segs =>
        let ps := (s.saveArea id d).1
        let bs := (List.range m).map fun i => areaByte ps (128 * j + i)
        let lat := s.segLat id c.ctx.sys.saveCls segs
        let va := c.ctx.sys.saveVa + BitVec.ofNat 64 (128 * j)
        let els := segs.map fun g => (⟨va + BitVec.ofNat 64 g.off, g.len, 0, g.pa⟩ : El)
        let s1 := s.scheduleDom id lat .accessPerform (.access ⟨.st bs, els, c.posOf .c, none⟩)
        .next (if 128 * (j + 1) < n then s1.scheduleDom id 1 .saveBeat (.beat 0 (j + 1) true)
          else s1.scheduleDom id (1 + lat) .saveComplete (.beat 0 0 true))
  | .beat _ _ false, some (.saving _ _), _ => .next (s.setCore id c.refuse)
  | _, _, _ => .refused (.notPending "SAVE_BEAT")

/-- SAVE_COMPLETE (R331): the valid word performs at e, and at e + 1 the task is suspended and its core free. -/
def execSaveComplete (s : State) : Out :=
  let id := s.cur
  let c := s.core id
  match s.arg, c.ctx.trapped, c.ctx.drain, c.task with
  | .beat _ _ true, some (.saving _ n), some _, _ =>
    match s.beatSegs id 0 4 with
    | none => .next (s.abort id 2 n)
    | some segs =>
      .next (((s.writeAs id (writesAt (segsPas segs) c.ctx.sys.saveVa.toNat (leBytes 1 4))).modCore id fun c => c.attempt 1 n).scheduleDom
        id 1 .saveComplete (.beat 0 0 false))
  | .beat _ _ false, some (.saving _ n), some _, some t =>
    let e : Suspended := ⟨id, t, c.ctx.sys.savebase, n, c.ctx.copy, c.ctx.streams, c.ctx.joined, c.ctx.sys.preemptRefusals⟩
    .next ((s.freeCore id).modSched fun k => { k with suspended := k.suspended ++ [e] })
  | _, _, _, _ => .refused (.notPending "SAVE_COMPLETE")

/-! ### The restore (R332) -/

/-- n numbers of w bytes from an offset. -/
def numsAt (bs : List Byte) (off w n : Nat) : List Nat := (List.range n).map fun i => numAt bs (off + w * i) w

/-- The entry of a list for every index that a mask names, in order; 0 elsewhere. -/
def spread {α : Type} [Inhabited α] (mask n : Nat) (zero : α) (l : List α) : List α :=
  (List.range n).map fun i =>
    if mask / 2 ^ i % 2 = 1 then l.getD ((List.range i).filter fun k => decide (mask / 2 ^ k % 2 = 1)).length zero else zero

/-- A vector of n words of w bits from a list. -/
def vecNums (w n : Nat) (l : List Nat) : Vector (BitVec w) n := Vector.ofFn fun i => BitVec.ofNat w (l.getD i.val 0)

/-- The segment that starts at an offset of the variable part, and the offset after it. -/
def takeSeg (bs : List Byte) (off n : Nat) : List Byte × Nat := ((bs.drop off).take n, off + (n + 63) / 64 * 64)

/-- 256 bytes as a vector, for each of a list. -/
def vecsOf (bs : List Byte) (n : Nat) : List Vec := (List.range n).map fun i => vecOfBytes ((bs.drop (256 * i)).take 256)

/-- An address generator's saved bytes read back. -/
def savedAg (bs : List Byte) : AddrGen :=
  let dim := fun (k o : Nat) => numAt bs (8 + 12 * k + o) 4
  { base := BitVec.ofNat 64 (numAt bs 0 8)
    stride := vecNums 32 4 ((List.range 4).map fun k => dim k 0)
    count := vecNums 16 4 ((List.range 4).map fun k => dim k 4)
    idx := Vector.ofFn fun k => dim k.val 8
    ind := BitVec.ofNat 3 (numAt bs 56 4)
    tb := BitVec.ofNat 20 (numAt bs 56 4 / 2 ^ 8)
    bound := BitVec.ofNat 32 (numAt bs 60 4) }

/-- A walk table read back. -/
def savedTab (bs : List Byte) : WalkTab :=
  Vector.ofFn fun i => ⟨BitVec.ofNat 64 (numAt bs (24 * i.val) 8), BitVec.ofNat 64 (numAt bs (24 * i.val + 8) 8), numAt bs (24 * i.val + 16) 8⟩

/-- An accumulator read back. -/
def savedTile (bs : List Byte) : Tile :=
  let ws := (numsAt bs 0 4 4096).zipIdx.filterMap fun p => if p.1 = 0 then none else some (p.2, BitVec.ofNat 32 p.1)
  ⟨ws, vecNums 32 64 (numsAt bs 16384 4 64), vecNums 32 64 (numsAt bs 16640 4 64)⟩

/-- The indices of the bits of a stale map. -/
def savedStale (bs : List Byte) : List Nat := (List.range 1024).filter fun m => decide (leNat bs / 2 ^ m % 2 = 1)

/-- The named registers of a saved context, by the record (R330), and the saved scratchpad ranges. The deferral queue keeps its saved
count; its entries are 0 where the record does not name it (R332). -/
def restoreVar (bs : List Byte) (r : LiveRec) (x : Ctx) : Ctx × List (Nat × List Byte) :=
  let cnt := fun (m n : Nat) => (maskList m n).length
  let (bS, o) := takeSeg bs 0x5200 (8 * cnt r.s 32)
  let (bH, o) := takeSeg bs o (8 * r.cDepth)
  let (bV, o) := takeSeg bs o (256 * cnt r.v 16)
  let (bX, o) := takeSeg bs o (256 * r.xDepth)
  let (bA, o) := takeSeg bs o (8 * cnt r.a 16)
  let (bB, o) := takeSeg bs o (8 * cnt r.b 16)
  let tiles := (List.range (cnt r.accs 4)).map fun i => savedTile ((bs.drop (o + 16896 * i)).take 16896)
  let o := o + 16896 * cnt r.accs 4
  let nq := numAt bs 0x02A0 8
  let (bQ, o) := takeSeg bs o (if r.defq then 8 * nq else 0)
  let ranges := (r.ranges.foldl (fun (acc : List (Nat × List Byte) × Nat) g =>
    let (b, o) := takeSeg bs acc.2 g.2
    (acc.1 ++ [(g.1, b)], o)) ([], o)).1
  let vs := vecsOf bV (cnt r.v 16)
  let hs := vecsOf bX r.xDepth
  ({ x with
    c := { x.c with
      s := vecNums 64 32 (spread r.s 32 0 (numsAt bS 0 8 (cnt r.s 32)))
      h := vecNums 64 16 (numsAt bH 0 8 r.cDepth) }
    x := { x.x with
      v := Vector.ofFn fun i => (spread r.v 16 Vec.zero vs).getD i.val Vec.zero
      h := Vector.ofFn fun i => hs.getD i.val Vec.zero
      defq := (numsAt bQ 0 8 nq).map (BitVec.ofNat 64) }
    l := { x.l with a := vecNums 64 16 (spread r.a 16 0 (numsAt bA 0 8 (cnt r.a 16))) }
    st := { x.st with b := vecNums 64 16 (spread r.b 16 0 (numsAt bB 0 8 (cnt r.b 16))) }
    acc := Vector.ofFn fun i => (spread r.accs 4 Tile.zero tiles).getD i.val Tile.zero }, ranges)

/-- The saved predicates; p0 is all ones. -/
def savedPreds (bs : List Byte) : Vector Word 8 :=
  Vector.ofFn fun i => if i.val = 0 then BitVec.allOnes 64 else BitVec.ofNat 64 (numAt bs (0xC0 + 8 * (i.val - 1)) 8)

/-- A stream at its saved position, its item reaching issue at the task clock's value; st is the stream as it was saved, whose mode
goes with its position (log entry 98). -/
def savedStream (bs : List Byte) (present : Bool) (st : Stream) (k tau : Nat) : Stream :=
  let p := numAt bs (0x10 + 4 * k) 4
  let line := p % 2 ^ 19 / 32
  if !present then Stream.absent
  else if 2 ^ 31 ≤ p then ⟨.ended, 0, 2, false, tau, none, none⟩
  else if st.mode ≠ .run ∧ st.line = line ∧ st.parcel = p % 32 then st
  else if st.line = line ∧ st.parcel = p % 32 then { st with reach := tau, latched := none }
  else ⟨.run, line, p % 32, p % 32 == 2, tau, none, none⟩

/-- PFCNT and PFHIST read back (R241, R243). -/
def CopyState.withCounts (y : CopyState) (w : Nat → Word) : CopyState :=
  { y with
    issued := (w 9).setWidth 32, inTime := (w 9 >>> 32).setWidth 32
    late := (w 10).setWidth 32, evicted := (w 10 >>> 32).setWidth 32
    bins := Vector.ofFn fun i => BitVec.ofNat 16 ((w (11 + i.val / 4)).toNat / 2 ^ (16 * (i.val % 4))) }

/-- The pending cast requests read back, complete (R332). -/
def savedCasts (bs : List Byte) : List CastEnt :=
  (List.range (numAt bs 0x5C0 8 % 16)).map fun i =>
    let w := numAt bs (0x580 + 8 * i) 8
    ⟨i, w / 2 ^ 32 % 4, some (w % 2 ^ 32)⟩

/-- The context that the area's fixed part restores (R329, R332), over that of a launch. -/
def restoreFixed (bs : List Byte) (e : Suspended) (x : Ctx) : Ctx :=
  let w := fun (i : Nat) => BitVec.ofNat 64 (numAt bs (0x100 + 8 * i) 8)
  let k := fun (c : Nat) => vecNums 32 4 (numsAt bs (0x80 + 16 * c) 4 4)
  let tau := numAt bs 0x100 8
  let cpy := numAt bs 0x140 8
  { x with
    c := { x.c with k := k 0 }
    l := { x.l with k := k 1, cb := vecNums 64 4 (numsAt bs 0x280 8 4), ag := Vector.ofFn fun i => savedAg ((bs.drop (0x180 + 64 * i.val)).take 64) }
    x := { x.x with k := k 2, p := savedPreds bs }
    st := { x.st with k := k 3 }
    moulds := (List.range 1024).filterMap fun m => let v := numAt bs (0x1000 + 16 * m) 16; if v = 0 then none else some (m, BitVec.ofNat 128 v)
    stale := Vector.ofFn fun i => savedStale ((bs.drop (0x5000 + 128 * i.val)).take 128)
    copy := { e.copy with next := BitVec.ofNat 16 (cpy / 2 ^ 16), crcFails := cpy / 2 ^ 32 % 2 ^ 16 }.withCounts w
    mat := { x.mat with
      shadow := savedTab ((bs.drop 0x300).take 240), active := savedTab ((bs.drop 0x3F0).take 240)
      fq := ((List.range 8).map fun i => (BitVec.ofNat 64 (numAt bs (0x500 + 16 * i) 8), numAt bs (0x508 + 16 * i) 8)).filter fun q => q.2 != 0
      mseq := BitVec.ofNat 16 (w 13).toNat, mrowp := w 14 }
    castq := savedCasts bs
    attnFails := BitVec.ofNat 16 (numAt bs 0x5C8 8 / 2 ^ 16)
    collFails := BitVec.ofNat 16 (numAt bs 0x5D0 8 / 2 ^ 16)
    tau := tau
    sys := { x.sys with
      tbase := w 2, tvec := w 3, cbtab := w 4, ropetab := w 5, savebase := w 6, savelen := w 7
      rdv := Vector.ofFn fun i => BitVec.ofNat 12 ((w 15).toNat / 2 ^ (12 * i.val))
      preemptOutcome := 1, preemptSize := e.size, preemptRefusals := e.refusals } }

/-- The bytes of the area that the save engine reads back in a cycle, up to 128 from an offset; or the cause code of a fault. -/
def State.areaPas (s : State) (e : Suspended) (off : Nat) : Except Nat (List Nat) :=
  let va := (signExt 48 (bits e.base 47 6 * 64)).toNat + off
  (List.range (min 128 (e.size - off) / 64)).flatMapM fun i => do
    let pa ← s.agentPa e.core false ((va + 64 * i) % 2 ^ 64)
    return pasFrom pa 64

/-- The core's suspended task can be restored now (R332). -/
def State.restorable (s : State) (c : CoreId) : Option Suspended :=
  if s.coreFree c && !s.reservedBy c then s.sched.suspended.find? fun e => e.core == c else none

/-- The restore fails: the task ends as fatally faulted, TCAUSE holds the cause, and TINFO tells the outcome where the area is not
valid (R332). -/
def State.restoreFails (s : State) (e : Suspended) (cause : Nat) : State :=
  let s1 := s.modCore e.core fun c => c.modCtx fun x => { x with
    sys := { x.sys with tcause := BitVec.ofNat 64 cause, tinfo := if cause = 0x3A then BitVec.ofNat 64 (2 ^ 32) else s.freeTinfo } }
  { s1.tick.modSched fun k => { k with suspended := k.suspended.filter (· != e) } with faultq := s.faultq ++ [⟨e.core, cause, e.task.run⟩] }

/-- The scratchpad of a core is 0. -/
def State.clearPad (s : State) (id : CoreId) : State :=
  let hit := fun pa => paSpace pa == 1 && paCore pa == id
  { s with mem := s.mem.filter fun e => !hit e.1, ledger := s.ledger.filter fun r => !hit r.pa }

/-- The suspended task runs on with everything that the area holds (R332). -/
def State.restoreTask (s : State) (e : Suspended) (d : Desc) (bs : List Byte) : State :=
  let req : LaunchReq := ⟨e.task.ref, e.task.graphId, e.task.desc.toNat, d, 0, 0, 0, 0, 0, e.task.run⟩
  let x0 := { s.launchCtx e.core req with c := CRegs.zero, l := LRegs.zero, st := SRegs.zero }
  let x1 := restoreFixed bs e x0
  let (x2, ranges) := restoreVar bs (liveOf ((bs.drop 0x40).take 64)) x1
  let present := fun k => decide (d.clusters / 2 ^ k % 2 = 1)
  let tl := numAt bs 8 8 - numAt bs 0x108 8
  let x3 := { x2 with
    lag := s.clock - tl
    streams := Vector.ofFn fun k => savedStream bs (present k.val) e.streams[k] k.val x2.tau
    joined := e.joined }
  let s2 := ranges.foldl (fun (t : State) g => t.poke (padBase e.core + g.1) g.2) s
  (s2.modCore e.core fun c =>
    { c with task := some e.task, ctx := x3, heldBy := [], landing := [], ptroot := s.launchRoot e.core e.task.fn }).modSched
    fun k => { k with suspended := k.suspended.filter (· != e) }

/-- One cycle of the save engine's read of the area, with what it has read before; with the whole area read, the task continues (R332).
Single-bit errors are corrected (R210). -/
def State.restoreBeat (s : State) (e : Suspended) (d : Desc) (bs : List Byte) : State :=
  if e.size ≤ bs.length then s.restoreTask e d bs
  else match s.areaPas e bs.length with
    | .error cause => s.restoreFails e cause
    | .ok pas =>
      let beat := pas.map s.byteAt
      if s.poisoned pas then s.restoreFails e 0x30
      else if bs.isEmpty && decide (numAt beat 0 4 % 2 = 0) then s.restoreFails e 0x3A
      else (s.correct pas).scheduleDom e.core 1 .taskRestore (.bytes 0 0 (bs ++ beat))

/-- TASK_RESTORE (R332): the launch copies the images again, the save engine reads the area, 128 bytes a cycle, and the task
continues. -/
def execTaskRestore (s : State) : Out :=
  match s.arg with
  | .bytes _ _ bs =>
    (match s.sched.suspended.find? fun e => e.core == s.cur with
    | none => .refused (.notPending "TASK_RESTORE")
    | some e => match s.descAt e.task.ref.die e.task.desc.toNat false with
      | .error f => .next (s.restoreFails e f.cause)
      | .ok d => .next (s.restoreBeat e d bs))
  | _ =>
    match s.restorable s.cur with
    | none => .refused (.notPending "TASK_RESTORE")
    | some e => match s.descAt e.task.ref.die e.task.desc.toNat false with
      | .error f => .next (s.restoreFails e f.cause)
      | .ok d => match (s.clearPad s.cur).loadImages e.task.ref.die d [s.cur] with
        | .error cause => .next (s.restoreFails e cause)
        | .ok s1 => .next (s1.scheduleDom s.cur d.loadCycles .taskRestore (.bytes 0 0 []))

end Sys2Proof.Machine
end

