-- ==== Sys2Proof/Machine/Frieze.lean ====
section
/-! DEFINITION. The frieze: rings and places, slots and their maps, PDISP, PROW and PDONE, formation and loading, and the repair
after the loss of a die (R338 to R357, R403, R406). -/

namespace Sys2Proof.Machine

open Sys2Proof

/-- The address of a byte of a slice of a place (R340). -/
def State.placePa (s : State) (die : Nat) (l : FzLane) (x slice b : Nat) : Nat :=
  vaultBase ⟨die, slice⟩ + s.laneOff die l + 65536 * x + b

/-- n bytes from byte b of each of the 96 slices of a place; what an uncorrectable word gives is open (R320). -/
def State.readPlace (s : State) (die : Nat) (l : FzLane) (x b n : Nat) : List Byte :=
  (List.range 96).flatMap fun i => (pasFrom (s.placePa die l x i b) n).map fun pa =>
    if s.poison.contains (eccWord pa) then BitVec.ofNat 8 (Config.freeNat s.ctr pa) else s.byteAt pa

/-- The single-bit errors that such a read corrects (R210). -/
def State.correctPlace (s : State) (die : Nat) (l : FzLane) (x b n : Nat) : State :=
  s.correct ((List.range 96).flatMap fun i => pasFrom (s.placePa die l x i b) n)

/-- n bytes written from byte b of each of the 96 slices of a place. -/
def State.writePlace (s : State) (die : Nat) (l : FzLane) (x b n : Nat) (bs : List Byte) : State :=
  (List.range 96).foldl (fun (t : State) i => t.poke (s.placePa die l x i b) ((bs.drop (n * i)).take n)) s

def State.modPort (s : State) (die : Nat) (l : FzLane) (f : Port → Port) : State :=
  { s with ports := s.ports.map fun p => if p.die = die ∧ p.lane = l then f p else p }

/-- Every port of a ring changed. -/
def State.modPorts (s : State) (r : Nat) (f : Port → Port) : State :=
  { s with ports := s.ports.map fun p => if p.ring = r then f p else p }

/-- The state of a ring's ports, all of which the firmware sets together but for the start. -/
def State.ringState (s : State) (r : Nat) : Nat := match s.ports.find? fun p => p.ring == r with | some p => p.state | none => 0

/-! ### The slot (R341, R342, R351) -/

/-- An event of a port of a ring, in the port's timeline (R352). -/
def State.ringEvent (s : State) (g : Ring) (t : Nat) (owner : CoreId) (ev : Instr) : State :=
  s.schedule ⟨.port owner.die g.lane, t, owner, 0, false, ev, .lane g.lane g.id t⟩

/-- The ring of an event with its number. -/
def State.laneArg (s : State) : Option (Ring × Nat) :=
  match s.arg with | .lane _ r j => (s.ring? r).map fun g => (g, j) | _ => none

/-- The stripe of a panel and its number among the stripe's members, 8 for the parity panel; none for other kinds (R344). -/
def stripeOf (t : Nat) : Option (Nat × Nat) :=
  if tagKind t = 0 then some (tagIndex t / 8, tagIndex t % 8) else if tagKind t = 1 then some (tagIndex t, 8) else none

def xorBytes (a b : List Byte) : List Byte := (a.zip b).map fun e => e.1 ^^^ e.2

/-- The place of an accumulator (R354). -/
def FzAcc.place' (a : FzAcc) (g : Ring) : Nat := 2 * g.q + a.place

/-- What a stripe member's header tells about a lost panel's checksums (R343, R355). -/
def FzAcc.learn (a : FzAcc) (h : List Byte) : FzAcc :=
  match stripeOf a.tag, stripeOf (headTag h) with
  | some (s1, i), some (s2, j) =>
    if s1 ≠ s2 then a
    else if j = 8 then { a with crc := some (numAt h (0x10 + 4 * i) 4) }
    else { a with list := listSet a.list j (numAt h 8 4) }
  | _, _ => a

/-- The panel that was current in slot k at a repair die goes into the accumulators of its stripe (R355). -/
def State.accumulate (s : State) (g : Ring) (p : Port) (k : Nat) : State :=
  let h := p.header (g.placeOf k)
  let t := headTag h
  match stripeOf t with
  | none => s
  | some (st, _) =>
    let mine := fun (a : FzAcc) => (stripeOf a.tag).any fun e => e.1 == st
    let s1 := (p.accs.filter mine).foldl (fun (u : State) a =>
      u.writePlace p.die p.lane (a.place' g) 0 65536
        (xorBytes (u.readPlace p.die p.lane (a.place' g) 0 65536) (u.readPlace p.die p.lane (g.placeOf k) 0 65536))) s
    s1.modPort p.die p.lane fun q => { q with accs := q.accs.map fun a => if mine a then a.learn h else a }

/-- The rebuilt payload passes its check (R355, R403). -/
def State.accOk (s : State) (g : Ring) (p : Port) (a : FzAcc) : Bool :=
  match tagKind a.tag with
  | 0 => a.crc == some (crc32c (s.readPlace p.die p.lane (a.place' g) 0 65536))
  | 1 => true
  | 2 => true
  | _ => false

/-- The ring is broken (R356): the state of its ports, and the report. Panels not reloaded stay holes. -/
def State.breakRing (s : State) (g : Ring) : State :=
  (s.modPorts g.id fun p => { p with state := 4, accs := p.accs.map fun a => if a.panel.isSome then a else { a with ready := none } }).post
    0 4 (portId (g.dieOf g.counter)) (Config.freeNat s.ctr 389)

/-- The end of the Np slots of a rebuild, at the boundary of slot k: the repair die's checks, and the first slot of re-injection
(R355). -/
def State.endRebuild (s : State) (g : Ring) (p : Port) (k : Nat) : State :=
  if p.accs.all fun a => s.accOk g p a then
    s.modPort p.die p.lane fun q => { q with accs := q.accs.map fun a => { a with ready := some (2048 * k) } }
  else s.breakRing g

/-- No port of a ring has an accumulator any more: the repair, or the reload, is over (R355, R406). -/
def State.ringWhole (s : State) (g : Ring) : State :=
  if (s.ports.filter fun p => p.ring == g.id).all (·.accs.isEmpty) then s.modPorts g.id fun p => { p with state := 2 } else s

/-- What a repair does at a port at the boundary of its slot k, and the start of a loaded port (R355, R406). -/
def State.repairSlot (s : State) (g : Ring) (p : Port) (k : Nat) : State :=
  match p.state, g.repair with
  | 3, some kr =>
    if kr < k ∧ k ≤ kr + g.np then
      if p.accs.isEmpty then s
      else
        let s1 := (s.correctPlace p.die p.lane (g.placeOf ((k : Int) - 1)) 0 65536).accumulate g p (k - 1)
        if k = kr + g.np then
          match s1.port? p.die p.lane with
          | some q => s1.endRebuild g q k
          | none => s1
        else s1
    else s.ringWhole g
  | 4, _ => s.ringWhole g
  | 1, _ => s.modPort p.die p.lane fun q => { q with state := 2 }
  | _, _ => s

/-- The port of the acting die in a ring; none once the die is lost or off. -/
def State.actingPort (s : State) (g : Ring) : Option Port :=
  match s.port? s.cur.die g.lane with
  | some p => if p.ring = g.id ∧ 1 ≤ p.state then some p else none
  | none => none

/-- SLOT_BOUNDARY (R347, R351): at Fk the port's tags and places switch and its map is built; its next slot's boundary and the
publication follow. -/
def execSlotBoundary (s : State) : Out :=
  match s.laneArg with
  | none => .refused (.notPending "SLOT_BOUNDARY")
  | some (g, t) =>
    match s.actingPort g with
    | none => .next s
    | some p =>
      let k := t / 2048
      let s1 := s.repairSlot g p k
      let s2 := s1.modPort p.die p.lane fun q =>
        { q.atBoundary g k with was := some ⟨t, q.cur, q.ret, q.curPlace, q.retPlace, q.rows, q.parked, q.leftOut⟩ }
      .next ((s2.ringEvent g (t + 16) s.cur .mapPublish).ringEvent g (t + 2048) s.cur .slotBoundary)

/-- MAP_PUBLISH (R347): the maps built at the slot's boundary are what PROW reads from now on. -/
def execMapPublish (s : State) : Out :=
  match s.laneArg with
  | none => .refused (.notPending "MAP_PUBLISH")
  | some (g, t) =>
    match s.actingPort g with
    | none => .next s
    | some p => .next (s.modPort p.die p.lane fun q => if q.carries then { q with map := q.built, mapWas := some (t, q.map) } else q)

/-- PANEL_BEAT_SEND (R338, R342): the beat that lands at cycle t of the ring is read from the oldest place. A panel that passes
lost dies comes later by Q slots for each (R354), and stands meanwhile in the reserve. -/
def execPanelBeatSend (s : State) : Out :=
  match s.laneArg with
  | none => .refused (.notPending "PANEL_BEAT_SEND")
  | some (g, now) =>
    match s.actingPort g with
    | none => .next s
    | some p =>
      let t := now + 64
      let j := t % 2048
      let x := g.placeOf (t / 2048 + 1)
      let body := s.readPlace p.die g.lane x (32 * j) 32
      let bs := if j = 0 then p.header x ++ body else body
      let s1 := (s.correctPlace p.die g.lane x (32 * j) 32).ringEvent g (now + 1) s.cur .panelBeatSend
      match g.nextFrom p.rank with
      | none => .next s1
      | some (r, m) =>
        let due := t + 2048 * g.q * m
        let s2 := (s1.modRing g.id fun g => { g with beats := g.beats ++ [(r, due, bs)] }).ringEvent g due (portId (g.dieOf r)) .panelBeatLand
        .next (if m = 0 ∨ 16 < g.q then s2 else s2.writePlace (g.dieOf r) g.lane (g.q + x) (32 * j) 32 body)

/-- The header with which a lost panel goes in again, given the hole's tag (R355, R403). -/
def State.rebuiltHeader (s : State) (g : Ring) (p : Port) (a : FzAcc) (hole : Nat) : List Byte :=
  let tag := setTag hole 28 4 (tagKind a.tag)
  match a.panel with
  | some bs => withTag (bs.take 256) tag
  | none =>
    let crc := crc32c (s.readPlace p.die p.lane (a.place' g) 0 65536)
    let list := if tagKind a.tag = 1 then (List.range 8).flatMap fun i => leBytes ((listGet? a.list i).getD 0) 4 else List.replicate 32 0
    leBytes tag 8 ++ leBytes crc 4 ++ List.replicate 4 0 ++ list ++ List.replicate 208 0

/-- Beat j of a lost panel that goes in again: 32 bytes of each slice. -/
def State.rebuiltBeat (s : State) (g : Ring) (p : Port) (a : FzAcc) (j : Nat) : List Byte :=
  match a.panel with
  | some bs => (List.range 96).flatMap fun i => ((bs.drop (256 + 65536 * i + 32 * j)).take 32)
  | none => s.readPlace p.die p.lane (a.place' g) (32 * j) 32

/-- PANEL_BEAT_LAND (R342, R354, R355): the beat is written into the landing place, with the header on beat 0; of a hole, the header
alone; where a lost panel goes in again, its own beat. -/
def execPanelBeatLand (s : State) : Out :=
  match s.laneArg with
  | none => .refused (.notPending "PANEL_BEAT_LAND")
  | some (g, t) =>
    match s.actingPort g with
    | none => .next s
    | some p =>
      match g.beats.find? fun b => b.1 == p.rank && b.2.1 == t with
      | none => .next s
      | some (_, _, bs) =>
        let j := t % 2048
        let x := g.placeOf (t / 2048 + 1)
        let s1 := s.modRing g.id fun g => { g with beats := g.beats.filter fun b => b.1 != p.rank || b.2.1 != t }
        let head := if j = 0 then bs.take 256 else p.header x
        let body := if j = 0 then bs.drop 256 else bs
        match p.accs.find? fun a => a.pos == g.posOf (t / 2048 + 1) p.rank && a.ready.any fun c => decide (c ≤ 2048 * (t / 2048)) with
        | some a =>
          let s2 := s1.writePlace p.die g.lane x (32 * j) 32 (s1.rebuiltBeat g p a j)
          .next (s2.modPort p.die g.lane fun q =>
            let q1 := if j = 0 then q.landHeader x (s1.rebuiltHeader g p a (headTag head)) else q
            if j = 2047 then { q1 with accs := q1.accs.filter fun b => b.pos != a.pos } else q1)
        | none =>
          let s2 := if j = 0 then s1.modPort p.die g.lane fun q => q.landHeader x head else s1
          .next (if tagKind (headTag head) = 4 then s2 else s2.writePlace p.die g.lane x (32 * j) 32 body)

/-! ### PDISP, PROW and PDONE (R348 to R350) -/

/-- The task of a core uses a lane (R352). -/
def Core.useLane (c : Core) (l : FzLane) : Core :=
  { c with task := c.task.map fun t => if t.lanes.contains l then t else { t with lanes := t.lanes ++ [l] } }

/-- PDISP (R348). -/
def execPdisp (lane : FzLane) (a b : CSrc) (t : Target) (s : State) : Out :=
  issue .c (fun s c => do
    let (x, y, c) ← readC2 s c a b
    let tag := s.fzCur s.cur lane
    let c := c.useLane lane
    let label := branchC s c true (targetLine (c.lineOf .c) t) t.parcel.toNat []
    if x.toNat % 4 ≠ 0 then .error (.trap .align (accessInfo x 0 false))
    else
      let i := (tagIndex tag.toNat + 65536 - bits y 15 0) % 65536
      if tagKind tag.toNat ≠ 0 ∨ bits y 31 16 ≤ i then label
      else
        let off := x.toNat + 4 * i
        if 2 ^ 20 < off + 4 then .error (.trap .protection (accessInfo (BitVec.ofNat 64 off) 0 false))
        else
          let pas := pasFrom (padBase s.cur + off) 4
          if s.poisoned pas then .error (.trap .eccUncorrectable (accessInfo (BitVec.ofNat 64 off) 0 false))
          else
            let e := leNat (s.readAs s.cur pas)
            if e = 0 then do
              let o ← label
              return { o with reads := pas }
            else do
              legal (decide (2 ≤ e % 32))
              let o ← branchC s c true (e / 32) (e % 32) []
              return { o with reads := pas }) s

/-- PROW (R349). -/
def execProw (cnt : Bool) (lane : FzLane) (a : CSrc) (s : State) : Out :=
  issue .c (fun s c => do
    engineOk c
    let port := s.laneView s.cur lane
    let map := match port with | some p => if p.carries then p.map else [] | none => []
    if cnt then
      let v := packWord [(0, 7, (map.filter fun e => decide (e.1 < 56)).length), (8, 4, (map.filter fun e => decide (56 ≤ e.1)).length),
        (16, 1, if port.any Port.carries then 1 else 0)]
      return .plain (c.useLane lane) [pushH0 4 v]
    else
      let (x, c) ← readC1 s c a
      let v := match map.find? fun e => e.1 == x.toNat with | some e => e.2.2 | none => 0
      return .plain (c.useLane lane) [pushH0 4 (BitVec.ofNat 64 v)]) s

/-- PDONE (R350): the checks at I; the change is applied at I + 160. -/
def execPdone (op : PdoneOp) (lane : FzLane) (a b e : CSrc) (s : State) : Out :=
  issue .c (fun s c => do
    engineOk c
    legal (c.srcOk a && (op == .free || c.srcOk b) && (op != .admitRow || c.srcOk e))
    let (x, c) ← readC s c a
    let (y, c) ← if op = .free then pure ((0 : Word), c) else readC s c b
    let (z, c) ← if op = .admitRow then readC s c e else pure ((0 : Word), c)
    match s.laneView s.cur lane with
    | none => .error (.trap .protection x)
    | some p =>
      if !p.carries ∨ 64 ≤ x.toNat then .error (.trap .protection x)
      else if z.toNat % 64 ≠ 0 then .error (.trap .align (accessInfo z 0 false))
      else if !canonical z.toNat then .error (.trap .protection (accessInfo z 0 false))
      else
        let r : PdoneReq := ⟨op, lane, x.toNat, y.setWidth 16, z, p.ring, c.posOf .c, false⟩
        return .plain (c.useLane lane) [⟨160, none, true, .pdoneApply, .pdone r⟩]) s

/-- TINFO of a fault at A (R350). -/
def PdoneReq.info (r : PdoneReq) (row : FzRow) : Word :=
  packWord [(0, 6, r.row), (6, 1, match r.lane with | .e => 0 | .w => 1), (8, 2, row.state), (16, 16, row.n), (32, 16, r.n.toNat)]

/-- A row changed by a PDONE that a core's timeline has come to: at a port that a hold stopped later, behind whose boundary it would come, the
map is built anew; at one that a hold stopped earlier, it waits for the port's timeline (R352). -/
def State.putRow (s : State) (p : Port) (r : PdoneReq) (row : FzRow) : State :=
  if 0 < s.fzSkew s.cur p then
    s.schedule ⟨.port p.die p.lane, s.fzNow s.cur p, s.cur, s.ord, false, .pdoneApply, .pdone { r with told := true }⟩
  else s.modPort p.die p.lane fun q =>
    match q.was with
    | some w => if s.fzSkew s.cur p < 0 ∧ s.fzNow s.cur p ≤ w.at_ then q.lateRow w r.row row else { q with rows := q.rows.set! r.row row }
    | none => { q with rows := q.rows.set! r.row row }

/-- PDONE_APPLY (R350, R352). -/
def execPdoneApply (s : State) : Out :=
  match s.arg with
  | .pdone r =>
    if r.told then .next (match s.port? s.cur.die r.lane with
      | some p => (match r.apply (p.rows.toArray.getD r.row FzRow.zero) with
        | some row => s.modPort p.die p.lane fun q => { q with rows := q.rows.set! r.row row }
        | none => s)
      | none => s)
    else match s.pdoneView s.cur r.lane with
    | none => .next (s.takeTrap s.cur .protection (r.info FzRow.zero) r.pos)
    | some p =>
      let row := p.rows.toArray.getD r.row FzRow.zero
      if !p.carries ∨ p.ring ≠ r.formed then .next (s.takeTrap s.cur .protection (r.info row) r.pos)
      else match r.apply row with
        | some row1 => .next (s.putRow p r row1)
        | none =>
          .next (s.takeTrap s.cur (if r.op = .adv ∧ row.state = 2 then .panelMiss else .protection) (r.info row) r.pos)
  | _ => .refused (.notPending "PDONE_APPLY")

/-! ### Formation and loading (R339, R340, R345, R406) -/

/-- The firmware's pins of a lane's places in a core (R345). -/
def State.lanePins (s : State) (id : CoreId) (l : FzLane) : List TlbEntry :=
  let base := (s.fzBase id.die l).toNat
  (List.range (s.lanePlaces id.die l)).map fun x =>
    ⟨base + 65536 * x, 65536, s.placePa id.die l x id.core 0, true, false, false, true, 0⟩

/-- The pins of a lane of a die leave the buffers of its cores, or enter them. -/
def State.unpin (s : State) (die : Nat) (l : FzLane) : State :=
  (List.range 96).foldl (fun (t : State) i => t.modCore ⟨die, i⟩ fun c =>
    { c with tlb := c.tlb.filter fun e => !(s.lanePins ⟨die, i⟩ l).any fun p => p.va == e.va && p.pa == e.pa && e.pinned }) s

def State.pin (s : State) (die : Nat) (l : FzLane) : State :=
  (List.range 96).foldl (fun (t : State) i => t.modCore ⟨die, i⟩ fun c =>
    { c with tlb := (s.lanePins ⟨die, i⟩ l).foldl (tlbFill 256) c.tlb }) s

/-- A range of every vault of a die is 0. -/
def State.clearRange (s : State) (die lo hi : Nat) : State :=
  let hit := fun pa => paDie pa == die && paSpace pa == 0 && decide (lo ≤ paOff pa) && decide (paOff pa < hi)
  { s with mem := s.mem.filter fun e => !hit e.1
           ledger := s.ledger.filter fun r => !hit r.pa
           poison := s.poison.filter fun w => !hit (8 * w)
           soft := s.soft.filter fun w => !hit (8 * w) }

/-- A lane of a die is turned off: its range returns to ordinary storage (R340). -/
def State.laneOffDie (s : State) (l : FzLane) (die : Nat) : State :=
  let lo := s.laneOff die l
  ((s.unpin die l).clearRange die lo (lo + 65536 * s.lanePlaces die l))

/-- The dies of a lane-E ring that have a lane W, whose places lie behind lane E's (R340). -/
def State.laneBehind (s : State) (l : FzLane) (dies : List Nat) : List Nat :=
  if l = .e then dies.filter fun d => (s.port? d .w).isSome else []

/-- A ring is taken out of service: its ports and coming events go, and the places behind its own move. -/
def State.dropRing (s : State) (g : Ring) : State :=
  let ws := s.laneBehind g.lane g.dies
  let s0 := ws.foldl (fun (t : State) d => t.unpin d .w) s
  let s1 := g.dies.foldl (fun (t : State) d => t.laneOffDie g.lane d) s0
  let s2 := { s1 with
    rings := s1.rings.filter fun h => h.id != g.id
    ports := s1.ports.filter fun p => p.ring != g.id
    agenda := s1.agenda.filter fun p => match p.arg with | .lane _ r _ => r != g.id | _ => true }
  ws.foldl (fun (t : State) d => t.pin d .w) s2

/-- A port in state 1 (R340, R345). -/
def Port.formed (die : Nat) (l : FzLane) (r rank : Nat) : Port :=
  ⟨die, l, r, 1, rank, [], BitVec.allOnes 64, BitVec.allOnes 64, 63, 63, [], [], Vector.replicate 64 FzRow.zero, 0, 0, false, [], 0, 0, [], none, none⟩

/-- FZBASE as the firmware chooses it: lane E's and lane W's ranges lie apart (log entry 60). -/
def fzChoice (l : FzLane) (f : Nat) : Nat := 2 ^ 28 * (2 * (f % 2 ^ 17) + (match l with | .e => 0 | .w => 1))

/-- The start and the end of the range of a lane that is to be formed on a die. -/
def State.formRange (s : State) (die : Nat) (l : FzLane) (places : Nat) : Nat × Nat :=
  let lo := match l with | .e => 0 | .w => 65536 * s.lanePlaces die .e
  (lo, lo + 65536 * places)

/-- FRIEZE_FORM finds a vault too small, a writable pin on the range, or no room for its pins (R207, R340). -/
def State.formFails (s : State) (l : FzLane) (dies : List Nat) (places : Nat) : Bool :=
  dies.any fun d =>
    let (lo, end_) := s.formRange d l places
    let hi := if l = .e then end_ + 65536 * s.lanePlaces d .w else end_
    (List.range 96).any fun i =>
      let c := s.core ⟨d, i⟩
      decide ((16 - c.ways) * 524288 < hi) || decide (192 < (c.tlb.filter (·.pinned)).length + places) ||
      s.cores.any fun e => e.2.tlb.any fun t => t.pinned && t.w && paSpace t.pa == 0 && paCore t.pa == ⟨d, i⟩ &&
        decide (paOff t.pa < hi) && decide (lo < paOff t.pa + t.size)

/-- A ring of a lane would go over a link that has not trained (R390; log entry 67). -/
def State.cutLane (s : State) (l : FzLane) (dies : List Nat) : Bool :=
  dies.any fun d => s.domain.deadLinks.contains (4 * d + match l with | .e => 1 | .w => 2)

/-- FRIEZE_FORM (R339, R340, R387, R390): the status, the result and the state. -/
def State.friezeForm (s : State) (l : FzLane) (fid q : Nat) (dies : List Nat) (k0 : Nat) : Nat × Nat × State :=
  let np := dies.length * q
  if q < 3 ∨ 48 < q ∨ dies.isEmpty ∨ dies.eraseDups.length ≠ dies.length ∨ 65536 < np ∨ !dies.all s.aligned then (2, 0, s)
  else
    let old := s.rings.filter fun g => g.lane == l && g.dies.any dies.contains
    let s0 := old.foldl State.dropRing s
    let g : Ring := ⟨s.seq, l, fid, dies, q, k0, [], fzChoice l (Config.freeNat s.ctr 345), [], none, [], []⟩
    if s0.formFails l dies g.places || s0.cutLane l dies then (6, 0, s)
    else
      let ws := s0.laneBehind l dies
      let s1 := ws.foldl (fun (t : State) d => t.unpin d .w) s0
      let s2 := { s1 with
        seq := s1.seq + 1, ctr := s1.ctr + 1
        rings := s1.rings ++ [g]
        ports := s1.ports ++ (dies.zipIdx).map fun e => Port.formed e.1 l g.id e.2 }
      let s3 := dies.foldl (fun (t : State) d =>
        let (lo, hi) := t.formRange d l g.places
        (t.clearRange d lo hi).pin d l) s2
      (0, np, ws.foldl (fun (t : State) d => t.pin d .w) s3)

/-- The cycle of the ring at which a fully loaded frieze starts (R406). -/
def Ring.startSlot (g : Ring) (now : Nat) : Nat :=
  let ok := fun (k : Nat) => decide ((now : Int) < 2048 * ((k : Int) - 1))
  if ok g.k0 then g.k0
  else
    let j := (now / 2048 + 1 + 1 - g.k0 + g.np - 1) / g.np
    let k := g.k0 + j * g.np
    if ok k then k else k + g.np

/-- The frieze starts: its first boundary, and the sending of the first panel of every die (R351, R406). -/
def State.startRing (s : State) (g : Ring) : State :=
  let k := g.startSlot (s.nowOf (.port (g.dieOf 0) g.lane))
  g.dies.foldl (fun (t : State) d =>
    (t.ringEvent g (2048 * k) (portId d) .slotBoundary).ringEvent g (2048 * k - 64) (portId d) .panelBeatSend) s

/-- A panel at load: the firmware sets the frieze id and the count (R344). -/
def loadHeader (g : Ring) (h : List Byte) : List Byte := withTag h (setTag (setTag (headTag h) 48 16 g.fid) 0 28 0)

/-- The rank and the slot, among the Q slots up to the start slot, at which a position is current: there its panel is loaded (R341,
R406). -/
def Ring.slotFor (g : Ring) (pos : Nat) : Option (Nat × Int) :=
  ((List.range g.dies.length).flatMap fun r => (List.range g.q).map fun (i : Nat) => (r, (g.k0 : Int) - (i : Int))).find?
    fun e => g.posOf e.2 e.1 == pos

/-- FRIEZE_LOAD (R387, R406): the status, the result and the state. -/
def State.friezeLoad (s : State) (fid pos : Nat) (panel : List Byte) : Nat × Nat × State :=
  match s.rings.find? fun g => g.fid == fid with
  | none => (2, 0, s)
  | some g =>
    let h := loadHeader g (panel.take 256)
    if g.np ≤ pos ∨ 4 ≤ tagKind (headTag h) then (2, 0, s)
    else if s.ringState g.id = 1 ∧ g.loaded.length < g.np then
      match g.slotFor pos with
      | none => (2, 0, s)
      | some (r, k) =>
        let d := g.dieOf r
        let x := g.placeOf k
        let g1 := { g with loaded := setInsert g.loaded pos }
        let s1 := ((s.writePlace d g.lane x 0 65536 (panel.drop 256)).modPort d g.lane fun p => p.putHeader x h).modRing g.id fun _ => g1
        let left := g.np - g1.loaded.length
        (0, left, if left = 0 then s1.startRing g1 else s1)
    else if s.ringState g.id = 4 then
      if (s.ports.any fun p => p.ring == g.id && p.accs.any fun a => a.pos == pos) then
        let s1 := s.modPorts g.id fun p => { p with accs := p.accs.map fun a =>
          if a.pos = pos then { a with panel := some (h ++ panel.drop 256), ready := some (s.nowOf (.port p.die p.lane)), tag := headTag h } else a }
        (0, ((s1.ports.filter fun p => p.ring == g.id).flatMap fun p => p.accs.filter fun a => a.panel.isNone).length, s1)
      else (2, 0, s)
    else (2, 0, s)

/-! ### The loss of a die (R353 to R356) -/

/-- The lost positions of a failed port with their places and tags: what its places held in slot k. The header of the oldest is gone
when beat 0 of the slot has landed. -/
def Port.lostTags (p : Port) (g : Ring) (k : Nat) : List (Nat × Nat × Nat) :=
  (List.range g.q).map fun i =>
    let j := (k : Int) - (g.q - 1 - i : Nat)
    let x := g.placeOf j
    let landed := i = 0 && !g.beats.any fun b => b.1 == p.rank && b.2.1 == 2048 * k
    (g.posOf j p.rank, x, if landed then p.leaving else headTag (p.header x))

/-- The lost panels of a failed port: its lost positions, but for holes. -/
def Port.lostPanels (p : Port) (g : Ring) (k : Nat) : List FzAcc :=
  (p.lostTags g k).filterMap fun e => if tagKind e.2.2 = 4 then none else some ⟨e.1, e.2.1, e.2.2, none, [], none, none⟩

/-- The holes that stand for a failed port's positions at the rank r, which the panels reach n slots later: kind 4, the lost index, and
the count that the panel would have had. Where the port itself counted the rotations, the repair die counts them again (R344, R354). -/
def Port.holes (p : Port) (g : Ring) (k r n : Nat) : List (Nat × Nat × Nat) :=
  (p.lostTags g k).zipIdx.map fun e =>
    let c := fld e.1.2.2 0 28
    (r, k + n + 1 + e.2 - g.q, setTag (setTag e.1.2.2 28 4 4) 0 28 (if p.rank = g.counter then c + 2 ^ 28 - 1 else c))

/-- Two members of one stripe. -/
def stripeTwice (as : List FzAcc) : Bool :=
  let ss := as.filterMap fun a => (stripeOf a.tag).map (·.1)
  ss.eraseDups.length != ss.length

/-- The beats of the panel that a failed die was receiving in slot k: those that have landed come from the place. -/
def State.salvage (s : State) (g : Ring) (p : Port) (k now : Nat) : List (Nat × List Byte) :=
  let x := g.placeOf (k + 1)
  (List.range (now + 1 - 2048 * k)).filterMap fun j =>
    let t := 2048 * k + j
    if g.beats.any fun b => b.1 == p.rank && b.2.1 == t then none
    else some (t, (if j = 0 then p.header x else []) ++ s.readPlace p.die g.lane x (32 * j) 32)

/-- A second die of a module fails, which may not be bypassed (R353): the ring is cut, and nothing goes round it any more; its ports are
broken (R356; log entry 119). -/
def State.cutRing (s : State) (g : Ring) (p : Port) : State :=
  let s1 := { s with
    ports := s.ports.filter fun q => q.die != p.die || q.lane != p.lane
    agenda := s.agenda.filter fun e => match e.arg with | .lane _ r _ => r != g.id | _ => true }
  ((s1.modRing g.id fun h => { h with beats := [], holes := [] }).post 0 4 (portId p.die) (Config.freeNat s.ctr 353)).breakRing g

/-- The bypass round a failed die of a ring (R353, R354, R356): the die downstream becomes the repair die. At most one die of a module
is bypassed. -/
def State.bypass (s : State) (g : Ring) (p : Port) : State :=
  match g.nextFrom p.rank with
  | none => s.dropRing g
  | some (r, m) =>
    if r = p.rank then s.dropRing g
    else if g.lost.any fun i => g.dieOf i / 8 == p.die / 8 then s.cutRing g p
    else
      let now := s.nowOf (.port p.die p.lane)
      let k := now / 2048
      let d := g.dieOf r
      let running := decide (2 ≤ p.state)
      let lost := if running then p.lostPanels g k else []
      let accs := p.accs ++ lost
      let others := (s.ports.filter fun q => q.ring == g.id && q.die != p.die).flatMap (·.accs)
      let broken := !running || decide (16 < g.q) || p.state != 2 || stripeTwice (accs ++ others)
      let late := (if running then (s.salvage g p k now) else []) ++
        ((g.beats.filter fun b => b.1 == p.rank).map fun b => (b.2.1, b.2.2))
      let n := g.q * (m + 1)
      let shift := 2048 * n
      let s1 := { s with
        ports := s.ports.filter fun q => q.die != p.die || q.lane != p.lane
        rings := s.rings.map fun h => if h.id = g.id then { h with
          lost := setInsert h.lost p.rank, repair := some k, holes := if running then p.holes g k r n else []
          beats := (h.beats.filter fun b => b.1 != p.rank && (b.1 != r || decide (now + 64 < b.2.1))) ++ late.map fun b => (r, b.1 + shift, b.2) } else h }
      let s2 := late.foldl (fun (t : State) b => t.ringEvent g (b.1 + shift) (portId d) .panelBeatLand) s1
      let s3 := if g.q ≤ 16 ∧ !broken then
          (List.range g.q).foldl (fun (t : State) i => t.writePlace d g.lane (2 * g.q + i) 0 65536 (List.replicate (96 * 65536) 0)) s2
        else s2
      let s4 := (s3.modPort d g.lane fun q => { q with repair := true, accs := q.accs ++ accs }).modPorts g.id fun q => { q with state := 3 }
      let s5 := s4.post 0 4 (portId p.die) (Config.freeNat s.ctr 353)
      if broken then s5.breakRing g else s5

/-- The rings of a die that have not lost it. -/
def State.ringsOf (s : State) (die : Nat) : List (Ring × Port) :=
  s.rings.filterMap fun g => (s.port? die g.lane).bind fun p => if p.ring = g.id then some (g, p) else none

/-- The largest distance of a hold. -/
def Hold.reach (h : Hold) : Nat := h.members.foldl (fun m e => max m e.2) 0

end Sys2Proof.Machine
end

