-- ==== Sys2Proof/Machine/Collectives.lean ====
section
/-! DEFINITION. Collectives: the parameter block, COLL, matching, the two timelines, the operations, chunk counters and TCINC (R366
to R380, R405). -/

namespace Sys2Proof.Machine

open Sys2Proof

/-! ### The parameter block (R367) -/

/-- The fields of a parameter block. -/
structure CollBlock where
  op : Nat
  rop : Nat
  dt : Nat
  flags : Nat
  m : Nat
  root : Nat
  count : Nat
  table : Word
  src : Word
  srcStride : Word
  dst : Word
  dstStride : Word
  s0 : Nat
  c0 : Nat
  nch : Nat
  threshold : Nat
  q : Nat
  perm : List Nat
  deriving DecidableEq, Repr

def collBlockOf (bs : List Byte) : CollBlock :=
  let w := fun o => BitVec.ofNat 64 (numAt bs o 8)
  ⟨numAt bs 0 1, numAt bs 1 1, numAt bs 2 1, numAt bs 3 1, numAt bs 4 2, numAt bs 6 2, numAt bs 8 4, w 0x10, w 0x18, w 0x20, w 0x28,
    w 0x30, numAt bs 0x38 8, numAt bs 0x40 2, numAt bs 0x42 2, numAt bs 0x44 4, numAt bs 0x48 1,
    (List.range 44).map fun j => numAt bs (0x50 + j) 1⟩

def CollBlock.timed (b : CollBlock) : Bool := b.flags % 2 == 1
def CollBlock.chunked (b : CollBlock) : Bool := b.flags / 2 % 2 == 1

/-- The element alignment, and the element size (R367). -/
def CollBlock.elemAlign (b : CollBlock) : Nat := if b.dt = 1 ∨ b.dt = 2 then 2 else if b.dt = 14 then 8 else 4
def CollBlock.elemSize (b : CollBlock) : Nat := if b.dt = 15 then 8 + 4 * b.count else b.elemAlign

/-- ⌈log2 m⌉. -/
def ceilLog2 (m : Nat) : Nat := if m ≤ 1 then 0 else Nat.log2 (m - 1) + 1

/-- The source bytes of a rank, and its destination bytes (R369). -/
def CollBlock.srcLen (b : CollBlock) (rank : Nat) : Nat :=
  let n := b.count * b.elemSize
  match b.op with
  | 2 => if rank = b.root then n else 0
  | 4 => b.m * n
  | 5 => b.m * n
  | 7 => b.elemSize
  | _ => n

def CollBlock.dstLen (b : CollBlock) (rank : Nat) : Nat :=
  let n := b.count * b.elemSize
  match b.op with
  | 1 => if rank = b.root then n else 0
  | 3 => b.m * n
  | 5 => b.m * n
  | 7 => b.elemSize
  | _ => n

/-- The bytes of one member's source, L of R374. -/
def CollBlock.len (b : CollBlock) : Nat := b.srcLen b.root

/-- The limits of R367, R370, R372 and R375, with the fields that the operation does not use 0. -/
def CollBlock.limits (b : CollBlock) (bs : List Byte) : Bool :=
  let zero := fun o n => numAt bs o n == 0
  let g := Nat.log2 b.m
  decide (b.op ≤ 7) && decide (b.rop ≤ 2) && [0, 1, 2, 6, 14, 15].contains b.dt && ((b.dt == 15) == (b.op == 7)) &&
  decide (b.flags < 4) && decide (1 ≤ b.m) && decide (b.m ≤ 4096) && decide (1 ≤ b.count) && decide (b.count ≤ 2 ^ 28) &&
  zero 0x0C 4 && zero 0x49 7 &&
  (b.rop == 0 || ((b.op == 0 || b.op == 1 || b.op == 4) && b.dt != 14)) &&
  (if b.op = 1 ∨ b.op = 2 then decide (b.root < b.m) else b.root == 0) &&
  (b.timed || b.s0 == 0) &&
  b.srcStride.toNat % b.elemAlign == 0 && b.dstStride.toNat % b.elemAlign == 0 &&
  (if b.chunked then decide (1 ≤ b.nch) && decide (b.nch ≤ 256) && decide (b.c0 ≤ 255) && decide (b.c0 + b.nch ≤ 256) &&
      decide (1 ≤ b.threshold) && [0, 2, 3, 4].contains b.op &&
      (if b.op = 4 then b.m * b.count else b.count) % b.nch == 0
    else b.c0 == 0 && b.nch == 0 && b.threshold == 0) &&
  (if b.op = 6 then
      2 ^ g == b.m && decide (g ≤ b.q) && decide (b.q ≤ 44) && b.count == 2 ^ (b.q - g) &&
      (List.range b.q).all (fun i => (b.perm.take b.q).contains i) && (b.perm.drop b.q).all (· == 0)
    else b.q == 0 && b.perm.all (· == 0))

/-- The fields that all members must agree in (R368). -/
def CollBlock.key (b : CollBlock) : List Nat :=
  [b.op, b.rop, b.dt, if b.timed then 1 else 0, b.m, b.root, b.count, b.s0, b.q] ++ b.perm

/-- b(x) of R374, plus 1. -/
def beatsOf (x : Nat) : Nat := (x + 255) / 256

/-- Lcoll (R374), with the hops Hg; that of a reserved operation is open (log entry 83). -/
def CollBlock.latency (b : CollBlock) (hg : Nat) : Nat :=
  let u := 203 + 240 * hg
  match b.op with
  | 2 => u + beatsOf b.len
  | 3 => u + beatsOf (b.m * b.len)
  | 5 => u + beatsOf b.len
  | 6 => u + beatsOf b.len
  | 7 => u + 24 * ceilLog2 b.m + beatsOf b.len
  | op => if op ≤ 4 then u + 8 * ceilLog2 b.m + beatsOf b.len else Config.freeNat op 374

/-- Hg: the hops from the hub of rank 0's module to the farthest member's (R374). -/
def collHops (n : Nat) (table : List Nat) : Nat :=
  table.foldl (fun h d => max h (moduleHops n (table.headD 0 / 8) (d / 8))) 0

def CollJob.info (k : CollJob) : CollBlock := collBlockOf k.block

/-- A member's Lcoll by its own block, in a domain of n modules. -/
def collLat (n : Nat) (k : CollJob) : Nat := k.info.latency (collHops n k.table)

/-! ### COLL (R373) -/

/-- COLL (R373): the request is accepted, and its block is read at P. -/
def execColl (cl : Cls) (a : CSrc) (s : State) : Out :=
  issue .c (fun s c => do
    engineOk c
    let (va, c) ← readC1 s c a
    if 4 ≤ s.collCount s.cur then .error (.trap .queueFull (BitVec.ofNat 64 (28 + 4 * 256)))
    else if va.toNat % 64 ≠ 0 then .error (.trap .align (accessInfo va 0 false))
    else do
      let (segs, c) ← checkWhole s s.cur c cl .rw va 128
      let k : CollJob := ⟨s.cur.die, va, segs, [], false, 0, [], none, [], [], 0, none, [], none, 0, [], [], none, false, c.posOf .c⟩
      let rs := s.memReqs s.cur c (segPas segs 0 128) .collBlockRead (.beat s.seq 0 true) (s.segLat s.cur cl segs)
      return ⟨c, rs, .next 1, none, [⟨s.seq, s.cur, true, .coll k⟩], []⟩) s

/-- The collective with a number. -/
def State.coll? (s : State) (id : Nat) : Option (Job × CollJob) :=
  (s.job? id).bind fun j => match j.body with | .coll k => some (j, k) | _ => none

/-- The collective in the event's argument, with the number beside it. -/
def State.collArg (s : State) : Option (Job × CollJob × Nat) :=
  match s.arg with
  | .beat id j _ => (s.coll? id).map fun p => (p.1, p.2, j)
  | _ => none

def State.putColl (s : State) (id : Nat) (f : CollJob → CollJob) : State :=
  s.modJob id fun b => match b with | .coll k => .coll (f k) | b => b

/-- The clock of a step of a collective: domain cycles, the issuing task's (R213), or its timeline when it is timed (R374). -/
inductive CollClock where
  | dom | task | line
  deriving DecidableEq, Repr

/-- A step of a collective d cycles from now, with the bytes that it reaches: those of a member of the lock group are reached in the
member's timeline (R314, R315), and all of an ended task in domain cycles (R296). -/
def State.collStep (s : State) (job : Job) (ck : CollClock) (d : Nat) (pas : List Nat) (ev : Instr) (j : Nat) : State :=
  let o := job.owner
  let put := fun clk due => s.schedule ⟨clk, due, o, job.id, false, ev, .beat job.id j true⟩
  if !job.live || ck == .dom then put .dom (s.clock + d)
  else match s.accessTarget o (s.core o) pas with
    | some t => (put (.tl t) (s.ownNow o + d)).reachesMember t o job.id d (s.ownNow o + d) pas
    | none => if ck = .line then put (.tl o) (s.ownNow o + d) else put (.tau o) (s.jobNow job + d)

/-- The clock of a member's start and source beats. -/
def CollBlock.clock (b : CollBlock) : CollClock := if b.timed then .line else .task

/-! ### The members' own checks (R376, R405) -/

/-- A range checked as class D accesses of the issuing core: its pieces, a status code, or a walk of a free task. -/
def State.collRange (s : State) (job : Job) (k : CollJob) (write : Bool) (va : Word) (n : Nat) : Except (Nat ⊕ Walk) (List Seg) :=
  if k.node.isSome then
    match s.schedRange k.die write va.toNat n with
    | .error code => .error (.inl code)
    | .ok segs => if segs.all fun g => paDie g.pa == k.die then .ok segs else .error (.inl 0x12)
  else match checkWhole s job.owner (s.core job.owner) .d (if write then .w else .r) va n with
    | .ok r => .ok r.1
    | .error (.trap cause _) => .error (.inl cause.code)
    | .error (.walk w) => if job.live then .error (.inr w) else .error (.inl 0x10)
    | .error _ => .error (.inl 0x10)

/-- The address of a rank's buffer (R367). -/
def rankVa (base stride : Word) (rank : Nat) : Word := base + BitVec.ofNat 64 rank * stride

/-- The group table of a member's block: the logical die ids, or the first problem; a walk stops the step. -/
def State.collTable (s : State) (job : Job) (k : CollJob) (b : CollBlock) : Except Walk (Except Nat (List Nat) × State) :=
  if b.m = 0 ∨ 4096 < b.m then .ok (.error 0x02, s)
  else if b.table.toNat % 2 ≠ 0 then .ok (.error 0x13, s)
  else match s.collRange job k false b.table (2 * b.m) with
    | .error (.inr w) => .error w
    | .error (.inl code) => .ok (.error code, s)
    | .ok segs =>
      let (bs, s1) := s.engineRead job (fun i => b.table.toNat + i) (segsPas segs) k.pos
      .ok (.ok ((List.range b.m).map fun i => numAt bs (2 * i) 2), s1)

/-- The own checks of a member, in order, on its block's bytes: its table, rank, buffers and first problem (R405). -/
def State.collChecks (s : State) (job : Job) (k : CollJob) : Except Walk (CollJob × State) := do
  let b := k.info
  let p1 := if !b.limits k.block then 0x02
    else if b.table.toNat % 2 ≠ 0 ∨ b.src.toNat % b.elemAlign ≠ 0 ∨ b.dst.toNat % b.elemAlign ≠ 0 then 0x13 else 0
  let first := fun (p q : Nat) => if p = 0 then q else p
  match ← s.collTable job k b with
  | (.error code, s1) => return ({ k with problem := first p1 code }, s1)
  | (.ok t, s1) =>
    if t.eraseDups.length ≠ t.length ∨ !t.contains k.die then return ({ k with problem := first p1 0x11 }, s1)
    else
      let rank := t.findIdx (· == k.die)
      let k1 := { k with table := t, rank := some rank, problem := p1 }
      if p1 ≠ 0 then return (k1, s1)
      else match s1.collRange job k false (rankVa b.src b.srcStride rank) (b.srcLen rank) with
        | .error (.inr w) => .error w
        | .error (.inl code) => return ({ k1 with problem := code }, s1)
        | .ok src => match s1.collRange job k true (rankVa b.dst b.dstStride rank) (b.dstLen rank) with
          | .error (.inr w) => .error w
          | .error (.inl code) => return ({ k1 with problem := code }, s1)
          | .ok dst => return ({ k1 with src := src, dst := dst }, s1)

/-! ### Matching and the members' starts (R405, R374) -/

/-- A die's collective that is next to be matched for a table; none while an earlier one is still to be read. -/
def State.nextColl (s : State) (die : Nat) (t : List Nat) : Option (Job × CollJob) :=
  let mine := s.jobs.filterMap fun (j : Job) => match j.body with
    | .coll k => if k.die = die ∧ k.group = [] ∧ (!k.read || (k.rank.isSome && k.table == t)) then some (j, k) else none
    | _ => none
  match mine with | (j, k) :: _ => if k.read then some (j, k) else none | [] => none

/-- The common status of matched members, by rank (R405). -/
def commonStatus (ks : List CollJob) : Nat :=
  match ks.findIdx? fun k => k.problem != 0 with
  | some r => (ks.map (·.problem)).getD r 0 + 256 * r
  | none =>
    let key := (ks.map fun k => k.info.key)
    match key.findIdx? fun x => x != key.headD [] with
    | some r => 0x02 + 256 * r
    | none => 0

/-- The bytes of a member's destination beat, and of its status. -/
def CollJob.destPas (k : CollJob) (j : Nat) : List Nat :=
  match k.rank with | some r => segPas k.dst (256 * j) (min 256 (k.info.dstLen r - 256 * j)) | none => []
def CollJob.statusPas (k : CollJob) : List Nat := segPas k.blk 0x7C 4

/-- The end of a member at F, in d cycles: its destination beats, and the status (R374); F counts domain cycles, or the timeline of a
timed one. -/
def State.collEnd (s : State) (job : Job) (k : CollJob) (ck : CollClock) (d : Nat) : State :=
  let nd := match k.status, k.rank with | some 0, some r => (k.info.dstLen r + 255) / 256 | _, _ => 0
  if nd = 0 then s.collStep job ck d k.statusPas .collComplete 0 else s.collStep job ck (d - (nd - 1)) (k.destPas 0) .collDestBeat 0

/-- Untimed members end once every member has started: F is the latest start plus Lcoll. -/
def State.settle (s : State) (group : List Nat) : State :=
  let ms := group.filterMap s.coll?
  if group.isEmpty || ms.any fun m => m.2.start.isNone then s
  else
    let last := ms.foldl (fun t m => max t (m.2.start.getD 0)) 0
    ms.foldl (fun (t : State) m =>
      if m.2.info.timed ∨ m.2.fin ≠ 0 then t
      else
        let f := last + collLat s.modules m.2
        (t.putColl m.1.id fun k => { k with fin := f }).collEnd m.1 m.2 .dom (f - t.clock)) s

/-- A member starts now (R374). The sources are read from now on unless the collective has failed. -/
def State.collBegin (s : State) (job : Job) (k : CollJob) : State :=
  let b := k.info
  let s1 := s.putColl job.id fun k => { k with start := some s.clock, fin := if b.timed then b.s0 + collLat s.modules k else k.fin }
  let ok := k.problem == 0 && (k.status == none || k.status == some 0)
  let n := match k.rank with | some r => b.srcLen r | none => 0
  let s2 := if ok && decide (0 < n) && (b.timed || !b.chunked) then s1.collStep job b.clock 0 (segPas k.src 0 (min 256 n)) .collSourceBeat 0 else s1
  if b.timed then s2.collEnd job k .line (collLat s.modules k) else s2.settle k.group

/-- The members that all dies of a table have issued are matched. -/
def State.matchColl (s : State) (t : List Nat) : State :=
  let ms := t.map fun d => s.nextColl d t
  if ms.any Option.isNone then s
  else
    let ms := ms.filterMap id
    let st := commonStatus (ms.map (·.2))
    let group := ms.map fun m => m.1.id
    let s1 := group.foldl (fun (u : State) i => u.putColl i fun k => { k with group := group, status := some st }) s
    let s2 := ms.foldl (fun (u : State) m =>
      let b := m.2.info
      let late := b.timed && m.2.start.isNone && decide (b.s0 ≤ u.ownNow m.1.owner % 2 ^ 63)
      let stuck := !b.timed && b.chunked && m.2.start.isNone && st != 0 && m.2.problem == 0
      if late then u.collStep m.1 .line 0 [] .collMemberStart 0
      else if stuck then u.collStep m.1 .task (m.2.p + 64 - u.taskNow m.1) [] .collMemberStart 0 else u) s1
    s2.settle group

/-- The node of a collective faults (R379). -/
def State.collNodeFault (s : State) (job : Job) (r : NodeRef) (code : Nat) : State :=
  let s1 := s.dropJob job.id
  match s1.sched.running.find? fun q => q.kind == 7 && q.ref == r with
  | none => s1
  | some q =>
    let s2 := if q.fault.isNone then s1.doWork [.faulted r ⟨code, none, 0⟩] else s1
    (s2.modRunning q.id fun e => { e with fault := some (code, job.owner), left := e.left.filter (· != job.owner) }).closeRunning q.id

/-- Every table that a collective which waits for its match names is tried (R405). -/
def State.matchAll (s : State) : State :=
  let ts := s.jobs.filterMap fun (j : Job) => match j.body with
    | .coll k => if k.read ∧ k.rank.isSome ∧ k.group = [] then some k.table else none
    | _ => none
  ts.eraseDups.foldl State.matchColl s

/-- A member whose block has been read and checked takes part from now on. -/
def State.collJoin (s : State) (job : Job) (k : CollJob) : State :=
  let b := k.info
  let s1 := s.putColl job.id fun _ => { k with read := true, p := s.jobNow job }
  match k.rank with
  | none => (s1.putColl job.id fun k => { k with status := some k.problem }).collStep job b.clock 64 k.statusPas .collComplete 0
  | some _ =>
    if b.timed then s1.collStep job .line (b.s0 - s.ownNow job.owner % 2 ^ 63) [] .collMemberStart 0
    else if b.chunked ∧ k.problem = 0 then s1 else s1.collStep job .task 64 [] .collMemberStart 0

/-- What COLL pushes at P + 1 (R373): F of a timed collective, which is P + 64 for a member without a rank. -/
def State.collPromise (s : State) (k : CollJob) (owner : CoreId) : Word :=
  if !k.info.timed then BitVec.allOnes 64
  else match k.rank with
    | none => BitVec.ofNat 64 ((s.ownNow owner + 64) % 2 ^ 63)
    | some _ => BitVec.ofNat 64 ((k.info.s0 + collLat s.modules k) % 2 ^ 63)

/-- COLL_BLOCK_READ (R373, R379, R405): the block at P, the checks of a timed one, the push, and the member's own checks. -/
def execCollBlockRead (s : State) : Out :=
  match s.collArg with
  | none => .refused (.notPending "COLL_BLOCK_READ")
  | some (job, k0, _) =>
    let (bs, s1) := s.engineRead job (fun i => k0.va.toNat + i) (segPas k0.blk 0 128) k0.pos
    let job := s1.again job
    let k := { k0 with block := bs }
    let b := k.info
    match b.timed, k.node with
    | true, some r => .next (s1.collNodeFault job r 0x02).matchAll
    | _, _ =>
      if b.timed && job.live && !(s1.core job.owner).isLocked then
        .next ((s1.dropJob job.id).takeTrap job.owner .illegalFormat 0 k.pos).matchAll
      else if b.timed && decide (b.s0 < s1.ownNow job.owner % 2 ^ 63 + 64) then
        .next (if job.live then (s1.dropJob job.id).takeTrap job.owner .syncLate (BitVec.ofNat 64 (b.s0 % 2 ^ 63)) k.pos
          else s1.dropJob job.id).matchAll
      else match s1.collChecks job k with
        | .error w => .next (s.engineWalk job .collBlockRead w)
        | .ok (k1, s2) =>
          let s3 := if job.live then s2.schedule ⟨.tau job.owner, s2.jobNow job + 1, job.owner, job.id, true, .resultLanding,
              .landing (.cval (s2.collPromise k1 job.owner) none)⟩ else s2
          .next ((s3.collJoin (s3.again job) k1).walkTold job.owner).matchAll

/-- COLL_MEMBER_START (R374, R405): a member starts; a timed one that its group still waits for takes no step. -/
def execCollMemberStart (s : State) : Out :=
  match s.collArg with
  | none => .refused (.notPending "COLL_MEMBER_START")
  | some (job, k, _) =>
    if k.start.isSome ∨ (k.info.timed ∧ k.group = []) then .next s else .next (s.collBegin job k)

/-! ### Chunks (R377) -/

/-- A chunk counter of a die. -/
def State.chunk (s : State) (die c : Nat) : Nat :=
  match s.chunks.find? fun e => e.1 == die && e.2.1 == c with | some e => e.2.2 | none => 0

def State.setChunk (s : State) (die c v : Nat) : State :=
  { s with chunks := (s.chunks.filter fun e => e.1 != die || e.2.1 != c) ++ (if v = 0 then [] else [(die, c, v)]) }

/-- The bytes of a chunk. -/
def CollJob.chunkLen (k : CollJob) : Nat := (match k.rank with | some r => k.info.srcLen r | none => 0) / k.info.nch

/-- The first chunk of an untimed collective of a die that can be released now, in the order of acceptance. -/
def State.chunkReady (s : State) (die : Nat) : Option (Job × CollJob × Nat) :=
  s.jobs.findSome? fun (j : Job) => match j.body with
    | .coll k =>
      let b := k.info
      if k.die = die ∧ k.read ∧ b.chunked ∧ !b.timed ∧ k.rank.isSome ∧ k.problem = 0 ∧ k.start.isNone ∧ k.p + 64 ≤ s.taskNow j ∧ !(j.live && (s.core j.owner).tauStands) ∧
          (k.status = none ∨ k.status = some 0) then
        ((List.range b.nch).find? fun i => (listGet? k.released i).isNone && decide (b.threshold ≤ s.chunk die (b.c0 + i))).map fun i => (j, k, i)
      else none
    | _ => none

/-- CHUNK_RELEASE (R377): the counter falls by the threshold, and the chunk's beats are read from the next cycle. A member starts
with its last chunk. -/
def execChunkRelease (s : State) : Out :=
  match s.chunkReady s.cur.die with
  | none => .refused (.notPending "CHUNK_RELEASE")
  | some (job, k, i) =>
    let b := k.info
    let s1 := s.setChunk k.die (b.c0 + i) (s.chunk k.die (b.c0 + i) - b.threshold)
    let s2 := s1.putColl job.id fun k => { k with released := listSet k.released i s.clock }
    let s3 := if k.chunkLen = 0 then s2 else s2.collStep job .task 1 (segPas k.src (i * k.chunkLen) (min 256 k.chunkLen)) .collSourceBeat (i * k.chunkLen)
    .next (if k.released.length + 1 = b.nch then s3.collStep job .task 1 [] .collMemberStart 0 else s3)

/-- The chunks whose first byte lies in the beat at an offset of a timed member's source. -/
def CollJob.chunksAt (k : CollJob) (off : Nat) : List Nat :=
  if k.info.chunked then (List.range k.info.nch).filter fun i => decide (off ≤ i * k.chunkLen) && decide (i * k.chunkLen < off + 256) else []

/-- The counters of a timed member's chunks are tested and reduced, each by itself; the first that fails, with its value. -/
def State.takeChunks (s : State) (k : CollJob) : List Nat → State × Option (Nat × Nat)
  | [] => (s, none)
  | i :: is =>
    let c := k.info.c0 + i
    let v := s.chunk k.die c
    if v < k.info.threshold then let (t, _) := s.takeChunks k is; (t, some (c, v))
    else (s.setChunk k.die c (v - k.info.threshold)).takeChunks k is

/-- The staging areas of a die's package: the first byte of a stream's, in the aperture (R202, R366). -/
def stagingBase (die stream : Nat) : Nat := die / 8 * 8 * 2 ^ 40 + 3 * 2 ^ 38 + stream * 2 ^ 31

/-- What a die pushes into the aperture, or pulls out of it, stands in a staging area of its hub; in which, and where, is open
(R366; log entry 97). -/
def State.stage (s : State) (die : Nat) (bs : List Byte) : State :=
  let a := stagingBase die (Config.freeNat s.ctr 366 % 128) + Config.freeNat s.ctr 367 % (2 ^ 31 - 256)
  { s with staging := s.staging.write a bs, ctr := s.ctr + 1 }

/-- COLL_SOURCE_BEAT (R374, R377): a member's source beat at a byte offset goes to the hub. A chunk that a timed one finds short stops the
issuing core, while the request runs on (R321). -/
def execCollSourceBeat (s : State) : Out :=
  match s.collArg with
  | none => .refused (.notPending "COLL_SOURCE_BEAT")
  | some (job, k, off) =>
    let b := k.info
    let total := match k.rank with | some r => b.srcLen r | none => 0
    let stop := if b.chunked && !b.timed then (off / k.chunkLen + 1) * k.chunkLen else total
    let n := min 256 (stop - off)
    let (s1, bad) := if b.timed then s.takeChunks k (k.chunksAt off) else (s, none)
    let s1 := match bad with
      | some (c, v) => if job.live then s1.stopAtDue job.owner .syncLate (packWord [(0, 8, c), (32, 32, v)]) else s1
      | none => s1
    let (bs, s2) := s1.engineRead job (fun i => (rankVa b.src b.srcStride (k.rank.getD 0)).toNat + off + i) (segPas k.src off n) k.pos
    let s3 := (s2.putColl job.id fun k => { k with data := listSet k.data off bs }).stage k.die bs
    .next (if off + n < stop then
        s3.collStep (s3.again job) b.clock 1 (segPas k.src (off + 256) (min 256 (stop - (off + 256)))) .collSourceBeat (off + 256)
      else s3)

/-! ### The operations (R369 to R372) -/

/-- Neighbours joined; a value without a neighbour stays (R370). -/
def pairUp {α : Type} (f : α → α → α) : List α → List α
  | x :: y :: rest => f x y :: pairUp f rest
  | l => l

/-- HubTree (R370), s doubling each round. -/
def hubTree {α : Type} (f : α → α → α) : Nat → List α → List α
  | 0, l => l
  | n + 1, l => hubTree f n (pairUp f l)

/-- One reduction step on the values of a data type: F32 for the floating-point types, CF32 part by part, I32 signed. -/
def collOp (dt rop : Nat) (x y : Nat) : Nat :=
  let f := fun (a b : Nat) =>
    let g := match rop with | 0 => fadd | 1 => fmax | _ => fmin
    (g (BitVec.ofNat 32 a) (BitVec.ofNat 32 b)).toNat
  if dt = 6 then
    match rop with
    | 0 => (x + y) % 2 ^ 32
    | 1 => if (BitVec.ofNat 32 x).toInt ≤ (BitVec.ofNat 32 y).toInt then y else x
    | _ => if (BitVec.ofNat 32 x).toInt ≤ (BitVec.ofNat 32 y).toInt then x else y
  else if dt = 14 then f (x % 2 ^ 32) (y % 2 ^ 32) + f (x / 2 ^ 32) (y / 2 ^ 32) * 2 ^ 32
  else f x y

/-- Element values decoded exactly to F32 before, and encoded once after (R370). -/
def collIn (dt x : Nat) : Nat :=
  if dt = 1 then (f32ne (fBF16.decode x)).toNat else if dt = 2 then (f32ne (fF16.decode x)).toNat else x
def collOut (dt x : Nat) : Nat :=
  if dt = 1 then fBF16.encode .rne (fF32.decode x) else if dt = 2 then fF16.encode .rne (fF32.decode x) else x

/-- Element e reduced over the ranks' sources. -/
def reduceElem (b : CollBlock) (e : Nat) (srcs : List (List Byte)) : List Byte :=
  let w := b.elemSize
  let vs := srcs.map fun x => collIn b.dt (numAt x (e * w) w)
  if b.m = 1 then (srcs.headD []).drop (e * w) |>.take w
  else leBytes (collOut b.dt ((hubTree (collOp b.dt b.rop) (ceilLog2 b.m) vs).headD 0)) w

/-- The combined triple (R371). -/
def combineAll (b : CollBlock) (srcs : List (List Byte)) : List Byte :=
  let tr := srcs.map fun x => (f32At x 0, f32At x 1, (List.range b.count).map fun i => f32At x (2 + i))
  if b.m = 1 then srcs.headD []
  else match hubTree (fun x y => combine x.1 x.2.1 x.2.2 y.1 y.2.1 y.2.2) (ceilLog2 b.m) tr with
    | (m, s, o) :: _ => leBytes m.toNat 4 ++ leBytes s.toNat 4 ++ o.flatMap fun v => leBytes v.toNat 4
    | [] => []

/-- Where the bit permutation finds the element that goes to global index y (R372). -/
def permSource (b : CollBlock) (y : Nat) : Nat :=
  (List.range b.q).foldl (fun x j => x + y / 2 ^ j % 2 * 2 ^ ((b.perm.getD j 0))) 0

/-- A rank's destination bytes from all the ranks' sources (R369). -/
def collResult (b : CollBlock) (rank : Nat) (srcs : List (List Byte)) : List Byte :=
  let w := b.elemSize
  let n := b.count
  match b.op with
  | 2 => srcs.getD b.root []
  | 3 => srcs.flatten
  | 4 => (List.range n).flatMap fun e => reduceElem b (rank * n + e) srcs
  | 5 => srcs.flatMap fun x => (x.drop (rank * n * w)).take (n * w)
  | 6 => (List.range n).flatMap fun l =>
      let x := permSource b (rank * n + l)
      ((srcs.getD (x / n) []).drop (x % n * w)).take w
  | 7 => combineAll b srcs
  | _ => (List.range n).flatMap fun e => reduceElem b e srcs

/-! ### The end (R374, R375) -/

/-- The bytes of a member's source. -/
def CollJob.srcBytes (k : CollJob) : Nat := match k.rank with | some r => k.info.srcLen r | none => 0

/-- The bytes of a member's source that no beat has read yet. -/
def CollJob.unread (k : CollJob) : List Nat :=
  ((List.range k.srcBytes).filter fun i => !k.data.any fun e => decide (e.1 ≤ i) && decide (i < e.1 + e.2.length)).map (segPa k.src)

/-- A member's source: the beats read, and what no beat has read yet as it stands (log entry 64). -/
def State.collSource (s : State) (m : Job × CollJob) : List Byte :=
  let k := m.2
  (List.range k.srcBytes).map fun i =>
    match k.data.find? fun e => decide (e.1 ≤ i) && decide (i < e.1 + e.2.length) with
    | some e => e.2.getD (i - e.1) 0
    | none => (s.engineBytes m.1.owner [segPa k.src i]).headD 0

/-- COLL_DEST_BEAT (R369, R374): a beat of a member's destination is written; F comes with the last. Single-bit errors in what has not been
read before are corrected (R210). -/
def execCollDestBeat (s : State) : Out :=
  match s.collArg with
  | none => .refused (.notPending "COLL_DEST_BEAT")
  | some (job, k, j) =>
    let b := k.info
    let rank := k.rank.getD 0
    let ms := k.group.filterMap s.coll?
    let out := collResult b rank (ms.map s.collSource)
    let bs := (out.drop (256 * j)).take 256
    let s1 := ((s.correct (ms.flatMap fun m => m.2.unread)).writeAs job.owner (writesAt (segPas k.dst (256 * j) bs.length) ((rankVa b.dst b.dstStride rank).toNat + 256 * j) bs)).stage k.die bs
    let ck := if b.timed then CollClock.line else .dom
    .next (if 256 * (j + 1) < b.dstLen rank then s1.collStep job ck 1 (k.destPas (j + 1)) .collDestBeat (j + 1)
      else s1.collStep job ck 0 k.statusPas .collComplete 0)

/-- The node of a collective hears of a member's end (R379): the exit value is rank 0's status, and a nonzero one faults it. -/
def State.collNodeDone (s : State) (owner : CoreId) (k : CollJob) (r : NodeRef) (st : Nat) : State :=
  match s.sched.running.find? fun q => q.kind == 7 && q.ref == r with
  | none => s
  | some q =>
    let s1 := if st ≠ 0 ∧ q.fault.isNone then s.doWork [.faulted r ⟨st % 256, none, 0⟩] else s
    let sum := if k.rank = some 0 ∨ q.left.length = q.cores.length then st else q.sum
    (s1.modRunning q.id fun e => { e with
      left := e.left.filter (· != owner), sum := sum
      fault := e.fault <|> (if st ≠ 0 then some (st % 256, owner) else none) }).closeRunning q.id

/-- A member has ended: it no longer counts as pending, and its source is kept until all have ended. -/
def State.collOver (s : State) (job : Job) (k : CollJob) : State :=
  let s1 := s.setJob { s.again job with live := false, body := .coll { k with gone := true } }
  let done := fun (i : Nat) => match s1.coll? i with | some m => m.2.gone | none => true
  if k.group.all done then { s1 with jobs := s1.jobs.filter fun (j : Job) => j.id != job.id && !k.group.contains j.id } else s1

/-- COLL_COMPLETE (R375, R380): the status is written at F. -/
def execCollComplete (s : State) : Out :=
  match s.collArg with
  | none => .refused (.notPending "COLL_COMPLETE")
  | some (job, k, _) =>
    let st := k.status.getD 0
    let s1 := s.writeAs job.owner (writesAt (segPas k.blk 0x7C 4) (k.va.toNat + 0x7C) (leBytes st 4))
    let s3 := s1.collOver job k
    let s4 := if job.live ∧ st ≠ 0 then s3.modCore job.owner fun c => c.modCtx fun x => { x with collFails := satInc x.collFails } else s3
    .next (match k.node with | some r => s4.collNodeDone job.owner k r st | none => s4)

/-! ### TCINC (R378) -/

/-- TCINC (R378). -/
def execTcinc (ctr : BitVec 8) (n : BitVec 8) (s : State) : Out :=
  issue .s (fun _ c => .ok (.plain c [⟨160, none, true, .tcincApply, .ids ctr.toNat (n.toNat + 1)⟩])) s

/-- A write that the core issued before a place in its order, and that is still to perform after this cycle. A chunked collective, whose
chunks a TCINC is to release, has issued its writes once it has read its whole source; any other request with its acceptance (log entry
118). -/
def State.writesPending (s : State) (id : CoreId) (ord : Nat) : Bool :=
  (s.agenda.any fun p => p.owner == id && decide (p.ord < ord) && decide (s.nowOf p.clk < p.due) && p.arg.stores) ||
  (s.jobsOf id).any fun j => decide (j.id < ord) && (match j.body with
    | .coll k => !k.read || !k.info.chunked || decide (k.srcBytes ≤ (k.data.map fun e => e.2.length).sum)
    | _ => true)

/-- TCINC_APPLY (R378): at max(I + 160, p) the counter rises, saturating. -/
def execTcincApply (s : State) : Out :=
  match s.arg with
  | .ids c n =>
    if s.writesPending s.cur s.ord then
      let k := (s.core s.cur).ownClk s.cur
      .next (s.schedule ⟨k, s.nowOf k + 1, s.cur, s.ord, true, .tcincApply, s.arg⟩)
    else .next (s.setChunk s.cur.die c (min (s.chunk s.cur.die c + n) (2 ^ 32 - 1)))
  | _ => .refused (.notPending "TCINC_APPLY")

end Sys2Proof.Machine
end

