-- ==== Sys2Proof/Machine/Fabric.lean ====
section
/-! DEFINITION. The fabric's flits and their retries, and the alignment of the domain (R358 to R365). -/

namespace Sys2Proof.Machine

open Sys2Proof


/-! ### Retries (R360) -/

/-- The hub at the end of a link, and the link itself as an agent of the same cycle before it. -/
def hubId (package : Nat) : CoreId := ⟨8 * package, 127⟩
def linkId (package : Nat) : CoreId := ⟨8 * package, 125⟩

/-- The first slack slot after a time slot (R359). -/
def slackAfter (u : Nat) : Nat := u / 8 * 8 + 7 + (if u % 8 = 7 then 8 else 0)

/-- Two entries stand for one flit. -/
def Flit.same (a b : Flit) : Bool := a.package == b.package && a.port == b.port && a.slot == b.slot && a.due == b.due && a.users == b.users

/-- The flit waits to be sent again. -/
def State.retrying (s : State) (f : Flit) : Option Flit := s.domain.retries.find? f.same

/-- A link's retry is counted (R392, R407): ports 16 to 23 are the die links, 24 + 2d and 25 + 2d the ring lanes E and W of die d of the
module (log entry 66). -/
def Domain.countRetry (d : Domain) (f : Flit) : Domain :=
  if f.port < 16 then d
  else
    let k := if f.port < 24 then 4 * (8 * f.package + (f.port - 16)) else 4 * (8 * f.package + (f.port - 24) / 2) + 1 + f.port % 2
    { d with linkRetries := listSet d.linkRetries k ((listGet? d.linkRetries k).getD 0 + 1) }

/-- The next slack slot of a flit's port. -/
def State.nextSlack (s : State) (f : Flit) (u : Nat) : State :=
  let t := 64 * slackAfter u
  if s.agenda.any fun p => p.ev == .slackSlotRetry && p.arg == .ids f.package f.port && decide (p.due = max t s.clock) then s
  else s.scheduleDom (hubId f.package) (t - s.clock) .slackSlotRetry (.ids f.package f.port)

/-- FLIT_ARRIVAL (R358, R360): a good flit is there, and ends the hold that waits for it in the next cycle; a bad one is to be
sent again, and its data is late from its due cycle on. -/
def execFlitArrival (s : State) : Out :=
  match s.arg with
  | .flit f =>
    match f.good, s.retrying f with
    | true, none => .next s
    | true, some g =>
      let s1 := s.modDomain fun d => { d with retries := d.retries.filter fun e => !f.same e }
      .next (match g.hold with | some h => s1.scheduleDom (hubId f.package) 1 .releaseStart (.ids h 0) | none => s1)
    | false, none =>
      let s1 := s.modDomain fun d => { d.countRetry f with retries := d.retries ++ [{ f with hold := none }] }
      .next ((s1.scheduleDom (hubId f.package) (f.due - s.clock) .retryOverrun (.flit f)).nextSlack f f.slot)
    | false, some _ => .next ((s.modDomain fun d => d.countRetry f).nextSlack f (s.clock / 64))
  | _ => .refused (.notPending "FLIT_ARRIVAL")

/-- SLACK_SLOT_RETRY (R360): up to 64 flits of a port go again, oldest first; whether one arrives intact, 64 cycles later, is open
(log entry 66). The others wait for the next slack slot. -/
def execSlackSlotRetry (s : State) : Out :=
  match s.arg with
  | .ids package port =>
    let fs := s.domain.retries.filter fun f => f.package == package && f.port == port
    let s1 := ((fs.take 64).zipIdx).foldl (fun (t : State) e =>
      (t.scheduleDom (linkId package) (e.2 + 64) .flitArrival (.flit { e.1 with good := Config.freeNat t.ctr (360 + e.2) % 2 == 0 })).tick) s
    .next (match fs.drop 64 with | f :: _ => s1.nextSlack f (s.clock / 64) | [] => s1)
  | _ => .refused (.notPending "SLACK_SLOT_RETRY")

/-- RETRY_OVERRUN (R360): at the due cycle of data that is late, the hub holds every group and task that needs it. -/
def execRetryOverrun (s : State) : Out :=
  match s.arg with
  | .flit f =>
    match s.retrying f with
    | none => .next s
    | some g =>
      if g.hold.isSome then .refused (.notPending "RETRY_OVERRUN")
      else
        let h := s.seq
        let s1 := s.startHold 3 none (hubId f.package) (s.wholeGroups f.users) []
        .next (s1.modDomain fun d => { d with retries := d.retries.map fun e => if f.same e then { e with hold := some h } else e })
  | _ => .refused (.notPending "RETRY_OVERRUN")

/-! ### Alignment (R361 to R364) -/

/-- The treatment of a skew (R363). -/
inductive Treatment where
  | trim | trimWarn | exclude
  deriving DecidableEq, Repr

def treatment (skew : Int) : Treatment := if skew.natAbs ≤ 8 then .trim else if skew.natAbs ≤ 64 then .trimWarn else .exclude

/-- FLAT of a diameter (R361). -/
def flatOf (h : Nat) : Nat := max 640 (64 * ((256 + 160 * h + 63) / 64))

/-- The fabric diameter of some modules of a domain of n (R361). -/
def diameterOf (n : Nat) (ms : List Nat) : Nat := ms.foldl (fun h a => ms.foldl (fun h b => max h (moduleHops n a b)) h) 0

/-- The skew that the barrier measures for a module; the lead's is 0 (R362; log entry 67). -/
def State.skewOf (s : State) (m : Nat) : Int := if m = 0 then 0 else (Config.freeNat s.ctr (36200 + m) : Int) - Config.freeNat s.ctr (37200 + m)

/-- A member's report to the host: a warning, or its exclusion (R363, R389). -/
def State.postAlign (s : State) (m : Nat) : State := s.post 0 3 ⟨8 * m, 0⟩ (Config.freeNat s.ctr 363)

/-- The report of a module that the first alignment excludes. It has no logical number, and no physical one is shown (R9, R363), so the
die and the core in the result are open (log entry 114). -/
def State.postExcluded (s : State) : State :=
  (s.postWord 0 (hubId 0) (eventWord 3 ⟨Config.freeNat s.ctr 363, Config.freeNat s.ctr 364⟩ (Config.freeNat s.ctr 365))).tick

/-- Every lock group with a core on a module ends as fatally faulted (R364; log entry 62). -/
def State.endGroupsOn (s : State) (m : Nat) : State :=
  let gs := ((s.cores.filter fun e => e.1.die / 8 == m && e.2.isLocked).map fun e => (e.2.task.map (·.group)).getD 0).eraseDups
  gs.foldl (fun (t : State) g => t.startHold 6 (some (g, s.openCause)) (hubId m) (t.groupCores g) []) s

/-- A member is trimmed or excluded at a re-alignment (R362, R363). -/
def State.realignOne (s : State) (m : Nat) : State :=
  let k := s.skewOf m
  let trim := fun (t : State) => t.modDomain fun d => { d with trims := d.trims.filter (·.1 != m) ++ [(m, -k)] }
  match treatment k with
  | .trim => trim s
  | .trimWarn => (trim s).postAlign m
  | .exclude =>
    ((s.modDomain fun d => { d with gone := setInsert d.gone m, excluded := d.excluded + 1 }).postAlign m).endGroupsOn m

/-- The spares that take over for optical lanes past their threshold (R392). -/
def Domain.spareLanes (d : Domain) : Domain :=
  { d with laneSpares := d.linkRetries.foldl (fun l e =>
      let (n, last) := (listGet? l e.1).getD (0, 0)
      if laneThreshold ≤ e.2 - last then listSet l e.1 (n + 1, e.2) else l) d.laneSpares }

/-- A re-alignment (R362, R363): logical numbers, FRAMENO and FCYC stay, and spare optical lanes take over (R392). -/
def State.realign (s : State) : State :=
  let ms := (List.range s.modules).filter fun m => !s.domain.gone.contains m
  ((ms.foldl State.realignOne s).modDomain Domain.spareLanes).tick

/-- Step 5 of an alignment on the command ALIGN: the lead sets H, FLAT and the routes of the modules that remain (R361, R362). -/
def State.setRoutes (s : State) : State :=
  let h := diameterOf s.modules ((List.range s.modules).filter fun m => !s.domain.gone.contains m)
  { s.modDomain (fun d => { d with diameter := h }) with flat := flatOf h }

/-- The dies of a module's eight that lack 96 good positions, which stay out of the ring and the domain: an open set (R390; log
entry 68). -/
def State.poorDies (s : State) (n : Nat) : List Nat :=
  (List.range (8 * n)).filter fun d => Config.freeNat s.ctr (39000 + d) % 101 < 96

/-- The die links and ring lanes of n modules that fail to train, as linkRetries numbers them: an open set (R390; log entry 67). -/
def State.untrained (s : State) (n : Nat) : List Nat :=
  (List.range (32 * n)).filter fun k => k % 4 != 3 && Config.freeNat s.ctr (48000 + k) % 2 == 1

/-- The physical modules that have trained a fabric link: an open number (R390; log entry 67). -/
def State.trained (s : State) : Nat := 1 + Config.freeNat s.ctr 390 % 512

/-- The alignment at bring-up (R361 to R363): the counter starts at 0, and the included modules are numbered densely. -/
def State.alignFirst (s : State) : State :=
  let all := List.range s.trained
  let inn := all.filter fun m => treatment (s.skewOf m) != .exclude
  let out := all.filter fun m => treatment (s.skewOf m) == .exclude
  let h := diameterOf inn.length (List.range inn.length)
  let dead := s.untrained inn.length
  let s1 := { s with
    clock := 0, modules := inn.length, flat := flatOf h, scrubs := 0
    agenda := s.agenda.map fun p => if p.clk = .dom then { p with due := p.due - s.clock } else p
    inputs := s.inputs.map fun i => { i with at_ := i.at_ - s.clock }
    sched := { s.sched with frame := 0 }
    domain := { s.domain with
      stage := 5, diameter := h, fwAt := 0, gone := [], excluded := out.length, deadLinks := dead
      off := ((dead.filter fun k => k % 4 == 0).map (· / 4)).foldl setInsert (s.poorDies inn.length)
      boots := s.domain.boots + 1
      trims := (inn.zipIdx).map fun e => (e.2, -(s.skewOf e.1)) } }
  let warn := (inn.zipIdx).filter fun e => treatment (s.skewOf e.1) == .trimWarn
  let s2 := warn.foldl (fun (t : State) e => t.postAlign e.2) s1
  (out.foldl (fun (t : State) _ => t.postExcluded) s2).tick

/-- ALIGNMENT_BARRIER (R361 to R363, R386, R390): at bring-up, or the re-alignment after a drift, whose hold it then releases. -/
def execAlignmentBarrier (s : State) : Out :=
  match s.arg with
  | .ids 0 _ => if s.domain.stage = 4 then .next s.alignFirst else .refused (.notPending "ALIGNMENT_BARRIER")
  | .ids _ h => .next (s.realign.scheduleDom s.cur 0 .releaseStart (.ids h 0))
  | _ => .refused (.notPending "ALIGNMENT_BARRIER")

/-- ALIGNMENT_FLIT (R364): a difference above 8 cycles is drift: every lock group of the member is held with reason 5, and the hub
re-aligns. -/
def execAlignmentFlit (s : State) : Out :=
  match s.arg with
  | .skew m diff =>
    if diff.natAbs ≤ 8 then .next s
    else
      let hub : CoreId := ⟨s.cur.die, 127⟩
      let cs := s.wholeGroups ((s.cores.filter fun e => e.1.die / 8 == m && e.2.isLocked).map (·.1))
      let h := s.seq
      let s1 := s.startHold 5 none hub cs []
      let d := match s1.hold? h with | some k => k.reach | none => 0
      .next ((s1.scheduleDom hub (d + 1 + Config.firmwareDelay s1.ctr) .alignmentBarrier (.ids 1 h)).tick)
  | _ => .refused (.notPending "ALIGNMENT_FLIT")

end Sys2Proof.Machine
end

