-- ==== Sys2Proof/Machine/Debug.lean ====
section
/-! DEFINITION. The control space as the debugger and the supervisor reach it: the mould table and stale maps, the in-flight queue, the
landing buffer and the channels (R63, R322, R323, R324), the registers (R201, R207, R322), and the die's blocks (R346, R377). -/

namespace Sys2Proof.Machine

open Sys2Proof

/-! ### Descriptors (R323) -/

/-- An entry of the in-flight queue or the landing buffer: kind, cluster, destination, slot, physical address, value. -/
structure DescView where
  kind : Nat
  cl : Nat
  dest : Nat
  slot : Nat
  pa : Nat
  value : List Byte
  deriving DecidableEq, Repr

/-- The fill of a channel place that is one effect with a landing: that of a C value sent to cq, cl or cs, or of an X vector sent to
sq0 to sq3 (R36, R38). -/
def Pending.fills (p q : Pending) : Bool :=
  q.owner == p.owner && q.ord == p.ord && (match p.arg, q.arg with
    | .landing (.cval _ none), .chan ch _ _ => decide (12 ≤ ch) && decide (ch ≤ 14)
    | .landing (.xvec _ none _), .chan ch _ _ => decide (8 ≤ ch) && decide (ch ≤ 11)
    | _, _ => false)

def State.fillOf (s : State) (p : Pending) : Option Pending := s.agenda.find? fun q => p.fills q

/-- The channel that a landing's fill names. -/
def State.fillChan (s : State) (p : Pending) : Option Nat :=
  match s.fillOf p with
  | some q => match q.arg with | .chan ch _ _ => some ch | _ => none
  | none => none

/-- A memory access as a descriptor shows it. -/
def Access.view (a : Access) : DescView :=
  let (kind, bs) := match a.kind with
    | .st bs => (6, bs)
    | .stn _ => (8, [])
    | _ => (7, a.data.getD [])
  ⟨kind, encCluster a.pos.cl, (a.els.foldl (fun n e => n + e.z) 0 - 1) % 256, 0, (a.els.map (·.pa)).headD 0, bs⟩

/-- What a coming event shows; none for the kinds that R323 does not list. An operation on a sync object is shown as an atomic of 64
bytes (log entry 70). -/
def State.descView (s : State) (id : CoreId) (p : Pending) : Option DescView :=
  match p.arg with
  | .landing (.cval v d) =>
    some ⟨1, 0, match d with | some r => r.val | none => ((s.fillChan p).map fun ch => 74 - ch).getD 63, 0, 0, leBytes v.toNat 8⟩
  | .landing (.xvec v d _) =>
    some ⟨2, 2, match d with | some r => r.val | none => ((s.fillChan p).map fun ch => ch + 8).getD 31, 0, 0, vecBytes v⟩
  | .landing (.pred pd v) => some ⟨3, 2, pd.val, 0, 0, leBytes v.toNat 8⟩
  | .landing (.areg i v) => some ⟨5, 1, i.val, 0, 0, leBytes v.toNat 8⟩
  | .landing (.breg i v) => some ⟨5, 3, i.val, 0, 0, leBytes v.toNat 8⟩
  | .landing (.loop cl k v) => some ⟨5, encCluster cl, 16 + k.val, 0, 0, leBytes v.toNat 8⟩
  | .chan ch i v =>
    let es := (s.core id).ctx.chan.toArray.getD ch []
    if h : ch < 18 then some ⟨4, encCluster (chanFrom ⟨ch, h⟩), ch, (es.findIdx? fun e => e.id == i).getD 0, 0, vecBytes v⟩ else none
  | .access a => some a.view
  | .atom r => some ⟨8, encCluster r.pos.cl, r.size - 1, 0, r.pa, []⟩
  | .hist pa _ _ _ pos => some ⟨8, encCluster pos.cl, 255, 0, pa, []⟩
  | .ldqk r => some (match r.row with
    | some k => ⟨7, encCluster r.pos.cl, min 256 (headDim k.dcode * elemSize (fmtBit r.fmt)) - 1, 0, k.pa, k.bytes.getD []⟩
    | none => ⟨7, encCluster r.pos.cl, 15, 0, r.pa, []⟩)
  | .side r => some ⟨7, encCluster r.pos.cl, 255, 0, (r.els.map (·.pa)).headD 0, r.data⟩
  | .acq r => some ⟨8, encCluster r.pos.cl, 63, 0, r.pa, []⟩
  | .rel r => some ⟨8, encCluster r.pos.cl, 63, 0, r.pa, []⟩
  | .bind r => some ⟨8, 3, 63, 0, r.pa, []⟩
  | _ => none

/-- An event brings something to its own core, wherever it performs (R313). -/
def Arg.lands : Arg → Bool
  | .access a => match a.kind with | .st _ | .stn _ => false | _ => true
  | .atom r => r.ret.isSome
  | .acq r => r.chan.isSome
  | .hist .. | .rel _ | .bind _ => false
  | _ => true

/-- The entries of a core's in-flight queue, oldest issue first (R313, R322): its coming effects, but for accesses that perform in another
member's timeline and bring nothing back. -/
def State.inFlight (s : State) (id : CoreId) : List (Pending × DescView) :=
  let own := s.agenda.filter fun p => p.ifq && p.owner == id && (p.arg.lands || match p.clk with | .tl t => t == id | _ => true)
  let es := own.filterMap fun p => if own.any fun q => q.fills p then none else (s.descView id p).map fun d => (p, d)
  es.mergeSort fun a b => decide (a.1.ord ≤ b.1.ord)

/-- A step of an engine request that waits at a core, as a descriptor shows it (R314, R323): a write with the bytes that the request
holds for it, an anchor's update as an atomic, and every other step as a read. -/
def State.stepView (s : State) (p : Pending) (a : Arrival) : DescView :=
  let copy : Option (CopyJob × Nat) := match p.arg with | .beat id j _ => (s.copyJob id).map fun e => (e.2, j) | _ => Option.none
  let n := match copy with | some (k, j) => (k.beat j).2 | none => a.n
  let kind := match p.ev with
    | .copyBeatWrite | .kmapWrite | .collDestBeat | .collComplete => 6
    | .pageEntryApply => 8
    | _ => 7
  ⟨kind, 0, (min 256 n - 1) % 256, 0, a.pa, if p.ev = .copyBeatWrite then (copy.bind fun e => listGet? e.1.buf e.2).getD [] else []⟩

/-- The entries of a core's landing buffer, which are the first 128 that have arrived (R314, R322). -/
def State.landed (s : State) (id : CoreId) : List (Pending × DescView) :=
  ((s.core id).landing.take 128).filterMap fun a =>
    (s.agenda.find? fun p => p.ord == a.ord && p.due == a.due && p.clk == .tl id && p.ev != .landingBufferArrival).map fun p =>
      (p, (s.descView p.owner p).getD (s.stepView p a))

/-- The two words of a descriptor. -/
def State.descWord (s : State) (p : Pending) (d : DescView) (hi : Bool) : Nat :=
  if hi then d.pa
  else (packWord [(0, 1, 1), (1, 4, d.kind), (5, 2, d.cl), (8, 8, d.dest), (16, 16, d.slot), (32, 32, p.due - s.nowOf p.clk)]).toNat

/-- An entry of the agenda changed, or removed. -/
def State.editPending (s : State) (p : Pending) (f : Pending → Option Pending) : State :=
  { s with agenda := s.agenda.filterMap fun q => if q = p then f q else some q }

/-- A destination code that the kind has (R36, R38, R113, R323). -/
def destOk (kind dest : Nat) : Bool :=
  match kind with
  | 1 => decide (dest < 32) || (decide (60 ≤ dest) && decide (dest < 64))
  | 2 => decide (dest < 20) || dest == 31
  | 3 => decide (0 < dest) && decide (dest < 8)
  | 4 => decide (dest < 18)
  | 5 => decide (dest < 20)
  | _ => decide (dest < 256)

/-- A kind that is written (R323). -/
def kindOk (kind : Nat) : Bool := decide (1 ≤ kind) && decide (kind ≤ 8)

/-- The number of the entry of a channel that stands at a place, or failing a place of the oldest that is still to be filled. -/
def Core.entryAt (c : Core) (ch : Nat) (slot : Option Nat) : Option Nat :=
  let es := c.ctx.chan.toArray.getD ch []
  match slot with
  | some k => es[k]?.map (·.id)
  | none => (es.find? fun e => !e.landed).map (·.id)

/-- An access with another first byte count, as one piece from its first address on. -/
def Access.resized (a : Access) (n : Nat) : Access :=
  if a.els.foldl (fun t e => t + e.z) 0 = n then a
  else match a.els with
    | [] => a
    | e :: _ => { a with
        els := [{ e with z := n }]
        kind := match a.kind with | .st bs => .st ((bs ++ List.replicate n 0).take n) | k => k }

/-- The event and what it is about for a descriptor, with the value that the entry was to deliver. A read that was none before has no
destination and delivers nothing, and which atomic operation an entry becomes that was none is open (log entry 70). -/
def Core.rebuilt (c : Core) (op : Nat) (d : DescView) (mask : Word) (kind dest slot : Nat) (cl : Cluster) : Option (Instr × Arg) :=
  let w := BitVec.ofNat 64 (leNat (d.value.take 8))
  match kind with
  | 1 => some (.resultLanding, .landing (.cval w (if h : dest < 32 then some ⟨dest, h⟩ else none)))
  | 2 => some (.resultLanding, .landing (.xvec (vecOfBytes d.value) (if h : dest < 16 then some ⟨dest, h⟩ else none) mask))
  | 3 => if h : dest < 8 then some (.resultLanding, .landing (.pred ⟨dest, h⟩ w)) else none
  | 4 => (c.entryAt dest (some slot)).map fun i => (.channelEntryLanding, .chan dest i (vecOfBytes d.value))
  | 5 =>
    if h : dest < 16 then match cl with
      | .l => some (.resultLanding, .landing (.areg ⟨dest, h⟩ w))
      | .s => some (.resultLanding, .landing (.breg ⟨dest, h⟩ w))
      | _ => none
    else if h : dest < 20 then some (.resultLanding, .landing (.loop cl ⟨dest - 16, by omega⟩ (w.setWidth 32)))
    else none
  | 6 => some (.accessPerform, .access ⟨.st ((d.value ++ List.replicate (dest + 1) 0).take (dest + 1)), [⟨0, dest + 1, 0, d.pa⟩],
      ⟨cl, 0, 0⟩, none⟩)
  | 7 => some (.accessPerform, .access ⟨.ldQ 18 0, [⟨0, dest + 1, 0, d.pa⟩], ⟨cl, 0, 0⟩, none⟩)
  | 8 => some (.atomicPerform, .atom ⟨[AtomOp.add, .fadd, .max, .min, .and, .or, .xor, .xchg, .cas].getD (op % 9) .add, false, dest + 1, d.pa,
      0, w, 0, none, ⟨cl, 0, 0⟩⟩)
  | _ => none

/-- A memory access of kind 6 to 8 with another size and cluster: an AHIST keeps the lanes within its bytes, and an LDQK and an operation on a
sync object, whose size their rules fix, keep theirs (log entry 70). -/
def Arg.reshaped (a : Arg) (dest : Nat) (cl : Cluster) : Arg :=
  match a with
  | .access x => .access { x.resized (dest + 1) with pos := { x.pos with cl := cl } }
  | .atom r => .atom { r with size := dest + 1, pos := { r.pos with cl := cl } }
  | .hist pa va v m pos => .hist pa va v (m &&& BitVec.ofNat 64 (2 ^ ((dest + 1) / 4) - 1)) { pos with cl := cl }
  | .ldqk r => .ldqk { r with pos := { r.pos with cl := cl } }
  | .side r => .side { r with pos := { r.pos with cl := cl } }
  | .acq r => .acq { r with pos := { r.pos with cl := cl } }
  | .rel r => .rel { r with pos := { r.pos with cl := cl } }
  | x => x

/-- The physical address of an access moved. -/
def Arg.movedTo (a : Arg) (old pa : Nat) : Arg :=
  match a with
  | .access x => .access { x with els := x.els.map fun e => { e with pa := e.pa + pa - old } }
  | .atom r => .atom { r with pa := pa }
  | .hist _ va v m pos => .hist pa va v m pos
  | .ldqk r => .ldqk (match r.row with | .some k => { r with row := .some { k with pa := pa } } | .none => { r with pa := pa })
  | .side r => .side { r with els := r.els.map fun e => { e with pa := e.pa + pa - old } }
  | .acq r => .acq { r with pa := pa }
  | .rel r => .rel { r with pa := pa }
  | .bind r => .bind { r with pa := pa }
  | x => x

/-- An entry that has arrived in a landing buffer takes another delay, or leaves (R322). -/
def State.reland (s : State) (p : Pending) (due : Option Nat) : State :=
  match p.clk with
  | .tl t => s.modCore t fun c => { c with landing := c.landing.filterMap fun a =>
      if a.ord = p.ord ∧ a.due = p.due then due.map fun d => { a with due := d } else some a }
  | _ => s

/-- A descriptor's first word written, with valid bit 1 (R322, R323): the entry takes the kind, cluster, destination, slot and delay
that the word gives, and keeps its value. A word with a kind that is not written, or a destination outside the kind's codes, changes
nothing; nor does one that asks for what the model has no entry of (log entry 70). -/
def State.rewriteDesc (s : State) (id : CoreId) (p : Pending) (d : DescView) (w : Nat) : State :=
  let kind := fld w 1 4
  let dest := fld w 8 8
  let due := s.nowOf p.clk + fld w 32 32
  let cl := (decCluster (fld w 5 2)).getD .c
  if !destOk kind dest || !kindOk kind then s
  else if kind = d.kind ∧ 6 ≤ kind then s.editPending p fun q => some { q with due := due, arg := q.arg.reshaped dest cl }
  else
    let c := s.core id
    let mask := match p.arg with | .landing (.xvec _ _ m) => m | _ => BitVec.allOnes 64
    match c.rebuilt (Config.freeNat s.ctr 323) d mask kind dest (fld w 16 16) cl with
    | none => s
    | some (ev, arg) =>
      let ch := if kind = 1 ∧ 60 ≤ dest ∧ dest < 63 then some (74 - dest) else if kind = 2 ∧ 16 ≤ dest ∧ dest < 20 then some (dest - 8) else none
      let (old, place) := match s.fillOf p with
        | some q => (some q, match q.arg with | .chan k i _ => if ch = some k then some i else none | _ => none)
        | none => (none, none)
      let v := if kind = 2 then vecOfBytes d.value else vecOfWord (BitVec.ofNat 64 (leNat (d.value.take 8)))
      let new := match ch with
        | some k => ((place <|> c.entryAt k none).map fun i => { p with due := due, ev := .channelEntryLanding, arg := Arg.chan k i v }).toList
        | none => []
      { s with agenda := s.agenda.flatMap fun q =>
          if q = p then { q with due := due, ev := ev, arg := arg } :: new else if old = some q then [] else [q] }

/-- A descriptor word written (R322, R323): a valid bit of 0 removes the entry, with what it would fill. -/
def State.putDesc (s : State) (id : CoreId) (e : Pending × DescView) (hi : Bool) (w : Nat) : State :=
  let (p, d) := e
  if hi then s.editPending p fun q => some { q with arg := q.arg.movedTo d.pa (w % 2 ^ 52) }
  else if fld w 0 1 = 0 then { s.reland p none with agenda := s.agenda.filter fun q => q != p && !p.fills q }
  else
    let t := s.rewriteDesc id p d w
    if t.agenda.contains p then t else t.reland p (some (s.nowOf p.clk + fld w 32 32))

/-- Bytes of a list replaced from an offset on. -/
def patch (bs : List Byte) (o : Nat) (ws : List Byte) : List Byte := (bs.take o ++ ws ++ bs.drop (o + ws.length)).take bs.length

/-- A vector's bytes replaced. -/
def patchVec (v : Vec) (o : Nat) (ws : List Byte) : Vec := vecOfBytes (patch (vecBytes v) o ws)

/-- A 64-bit value's bytes replaced, in its first 8 bytes. -/
def patchWord (v : Word) (o : Nat) (ws : List Byte) : Word := BitVec.ofNat 64 (leNat (patch (leBytes v.toNat 8) o ws))

/-- The value area of an entry written. -/
def Arg.patch (a : Arg) (o : Nat) (ws : List Byte) : Arg :=
  match a with
  | .landing (.cval v d) => .landing (.cval (patchWord v o ws) d)
  | .landing (.xvec v d m) => .landing (.xvec (patchVec v o ws) d m)
  | .landing (.pred d v) => .landing (.pred d (patchWord v o ws))
  | .landing (.areg i v) => .landing (.areg i (patchWord v o ws))
  | .landing (.breg i v) => .landing (.breg i (patchWord v o ws))
  | .landing (.loop cl k v) => .landing (.loop cl k ((patchWord (v.setWidth 64) o ws).setWidth 32))
  | .chan ch i v => .chan ch i (patchVec v o ws)
  | .access x => .access { x with data := x.data.map fun bs => Machine.patch bs o ws, kind := match x.kind with | .st bs => .st (Machine.patch bs o ws) | k => k }
  | a => a

/-- The value area of an entry written: what the entry fills takes the same bytes (R322, R324). -/
def State.putValue (s : State) (p : Pending) (o : Nat) (ws : List Byte) : State :=
  { s with agenda := s.agenda.map fun q => if q = p ∨ p.fills q then { q with arg := q.arg.patch o ws } else q }

/-! ### The control space (R63, R202, R322) -/

/-- A place of a core's control space. -/
inductive CtlPlace where
  | mould (e o : Nat)
  | stale (k o : Nat)
  | flight (k : Nat) (hi : Bool)
  | buffer (k : Nat) (hi : Bool)
  | flightValue (k o : Nat)
  | bufferValue (k o : Nat)
  | channel (n e o : Nat)
  | laneMask (n e : Nat)
  /-- No chapter gives this place a layout. -/
  | other
  deriving DecidableEq, Repr

/-- The place of an aligned word. -/
def ctlPlace (off : Nat) : CtlPlace :=
  let at_ := fun (lo n : Nat) => decide (lo ≤ off) && decide (off < lo + n)
  if at_ 0x40000 0x4000 then .mould ((off - 0x40000) / 16) (off % 16)
  else if at_ 0x44000 0x200 then .stale ((off - 0x44000) / 128) (off % 128)
  else if at_ 0x50000 0x400 then .flight ((off - 0x50000) / 16) (off % 16 == 8)
  else if at_ 0x50400 0x800 then .buffer ((off - 0x50400) / 16) (off % 16 == 8)
  else if at_ 0x51000 0x4000 then .flightValue ((off - 0x51000) / 256) (off % 256)
  else if at_ 0x55000 0x8000 then .bufferValue ((off - 0x55000) / 256) (off % 256)
  else if at_ 0x5D000 0x9000 then .channel ((off - 0x5D000) / 2048) ((off - 0x5D000) / 256 % 8) (off % 256)
  else if at_ 0x66000 0x100 then .laneMask (8 + (off - 0x66000) / 64) ((off - 0x66000) / 8 % 8)
  else .other

/-- The core is held (R63, R322). -/
def Core.held (c : Core) : Bool := !c.heldBy.isEmpty

/-- The word of a mould's entry, and the entry with a word changed (R55). -/
def mouldWord (e o : Nat) : Nat := e / 2 ^ (8 * o) % 2 ^ 64

/-- The stale map of the cluster in the order of R63: C, L, X, S. -/
def staleIdx (k : Nat) : Nat := (match k with | 0 => Cluster.c | 1 => .l | 2 => .x | _ => .s).idx

/-- The banks of a core's state that no chapter places in the control space (R201, R207, R322, R324). -/
inductive Bank where
  | s | h | v | xh | p | k | areg | breg | acc | ag | cb | defq | walks | ptroot | tlb | sys
  deriving DecidableEq, Repr

/-- The words of 8 bytes of a bank. -/
def Bank.words : Bank → Nat
  | .s => 32 | .h => 16 | .v => 512 | .xh => 512 | .p => 8 | .k => 16 | .areg => 16 | .breg => 16 | .acc => 8448 | .ag => 32 | .cb => 4
  | .defq => 512 | .walks => 60 | .ptroot => 1 | .tlb => 512 | .sys => 128

/-- The bank of a word, and its number there, when the banks follow one another. -/
def bankOf : List Bank → Nat → Option (Bank × Nat)
  | [], _ => none
  | b :: bs, n => if n < b.words then some (b, n) else bankOf bs (n - b.words)

/-- The word of a core's state that stands at an offset without a layout: which one is open (log entry 70). -/
def regPlace (off : Nat) : Option (Bank × Nat) :=
  bankOf [.s, .h, .v, .xh, .p, .k, .areg, .breg, .acc, .ag, .cb, .defq, .walks, .ptroot, .tlb, .sys] (Config.ctlMap 0 off)

/-- A buffer entry's two words: the virtual page with the binary logarithm of its size, and the leaf as R206 lays it out. -/
def TlbEntry.word (e : TlbEntry) (hi : Bool) : Nat :=
  if hi then 3 + e.r.toNat * 4 + e.w.toNat * 8 + e.pinned.toNat * 16 + e.sup.toNat * 32 + e.pa else e.va + Nat.log2 e.size

def TlbEntry.putWord (e : TlbEntry) (hi : Bool) (w : Nat) : TlbEntry :=
  if hi then { e with r := fld w 2 1 == 1, w := fld w 3 1 == 1, pinned := fld w 4 1 == 1, sup := fld w 5 1 == 1, pa := fld w 8 44 * 256 }
  else { e with va := fld w 6 42 * 64, size := 2 ^ fld w 0 6 }

/-- The loop counter i of a cluster. -/
def Ctx.loopOf (x : Ctx) (cl : Cluster) (k : Fin 4) : BitVec 32 :=
  match cl with | .c => x.c.k[k] | .x => x.x.k[k] | .l => x.l.k[k] | .s => x.st.k[k]

/-- A word of a bank. -/
def State.bankWord (s : State) (id : CoreId) (b : Bank) (i : Nat) : Nat :=
  let c := s.core id
  let x := c.ctx
  match b with
  | .s => (x.c.s[i]!).toNat
  | .h => (x.c.h[i]!).toNat
  | .v => numAt (vecBytes x.x.v[i / 32]!) (i % 32 * 8) 8
  | .xh => numAt (vecBytes x.x.h[i / 32]!) (i % 32 * 8) 8
  | .p => (x.x.p[i]!).toNat
  | .k => (x.loopOf ((decCluster (i / 4)).getD .c) (Fin.ofNat 4 i)).toNat
  | .areg => (x.l.a[i]!).toNat
  | .breg => (x.st.b[i]!).toNat
  | .acc => numAt (x.acc[i / 2112]!).saved (i % 2112 * 8) 8
  | .ag => numAt (x.l.ag[Fin.ofNat 4 (i / 8)]).saved (i % 8 * 8) 8
  | .cb => (x.l.cb[i]!).toNat
  | .defq => (x.x.defq.getD i 0).toNat
  | .walks => numAt (walkTabBytes x.mat.shadow ++ walkTabBytes x.mat.active) (i * 8) 8
  | .ptroot => c.ptroot.toNat
  | .tlb => match c.tlb[i / 2]? with | some e => e.word (i % 2 == 1) | none => 0
  | .sys => match decSysReg i with | some r => (readSys s id c r).toNat | none => 0

/-- A system register as the debugger writes it: what a PUTC writes, and the registers of a trap whole. -/
def Core.pokeSys (c : Core) (r : SysReg) (v : Word) : Core :=
  let sys := fun (f : Sys → Sys) => c.modCtx fun x => { x with sys := f x.sys }
  match r with
  | .tcause => sys fun y => { y with tcause := v }
  | .tinfo => sys fun y => { y with tinfo := v }
  | .trapline => sys fun y => { y with trapline := keepBits v 0x37FFFF }
  | r => c.writeSys r v

/-- A word of a bank written: a location that reads as a constant, or through another unit, keeps its value. -/
def Core.putBank (c : Core) (b : Bank) (i w : Nat) : Core :=
  let ws := leBytes w 8
  let v := BitVec.ofNat 64 w
  let ctx := c.modCtx
  match b with
  | .s => ctx fun x => { x with c := { x.c with s := x.c.s.set! i v } }
  | .h => ctx fun x => { x with c := { x.c with h := x.c.h.set! i v } }
  | .v => ctx fun x => { x with x := { x.x with v := x.x.v.set! (i / 32) (patchVec x.x.v[i / 32]! (i % 32 * 8) ws) } }
  | .xh => ctx fun x => { x with x := { x.x with h := x.x.h.set! (i / 32) (patchVec x.x.h[i / 32]! (i % 32 * 8) ws) } }
  | .p => if i = 0 then c else ctx fun x => { x with x := { x.x with p := x.x.p.set! i v } }
  | .k => ctx fun x => x.setLoop ((decCluster (i / 4)).getD .c) (Fin.ofNat 4 i) (v.setWidth 32)
  | .areg => ctx fun x => { x with l := { x.l with a := x.l.a.set! i v } }
  | .breg => ctx fun x => { x with st := { x.st with b := x.st.b.set! i v } }
  | .acc => ctx fun x => { x with acc := x.acc.set! (i / 2112) (savedTile (patch (x.acc[i / 2112]!).saved (i % 2112 * 8) ws)) }
  | .ag => ctx fun x => { x with l := { x.l with
      ag := x.l.ag.set! (i / 8) (savedAg (patch (x.l.ag[Fin.ofNat 4 (i / 8)]).saved (i % 8 * 8) ws)) } }
  | .cb => ctx fun x => { x with l := { x.l with cb := x.l.cb.set! i v } }
  | .defq => ctx fun x => { x with x := { x.x with defq := x.x.defq.set i v } }
  | .walks => ctx fun x =>
      let bs := patch (walkTabBytes x.mat.shadow ++ walkTabBytes x.mat.active) (i * 8) ws
      { x with mat := { x.mat with shadow := savedTab (bs.take 240), active := savedTab (bs.drop 240) } }
  | .ptroot => { c with ptroot := keepBits v 0xFFFFFFFFFE000 }
  | .tlb =>
    if h : i / 2 < c.tlb.length then { c with tlb := c.tlb.set (i / 2) (c.tlb[i / 2].putWord (i % 2 == 1) w) }
    else if c.tlb.length < 256 then { c with tlb := c.tlb ++ [(⟨0, 1, 0, false, false, false, false, 0⟩ : TlbEntry).putWord (i % 2 == 1) w] }
    else c
  | .sys => match decSysReg i with | some r => c.pokeSys r v | none => c

/-- The supervisor writes the root of the tables and the buffer at any time (R201, R207); the rest of a core's state only a debugger
does, while the core is held (R322). -/
def Bank.atAnyTime : Bank → Bool
  | .ptroot | .tlb => true
  | _ => false

/-- An aligned word of a core's control space; what no chapter lays out is open (log entry 70). -/
def State.ctlWord (s : State) (id : CoreId) (off : Nat) : Nat :=
  let x := (s.core id).ctx
  let free := Config.freeNat s.ctr off % 2 ^ 64
  let valueAt := fun (bs : List Byte) o => numAt bs o 8
  match ctlPlace off with
  | .mould e o => mouldWord (x.mould e) o
  | .stale k o => valueAt (staleBytes (x.stale[staleIdx k]!)) o
  | .flight k hi => match (s.inFlight id)[k]? with | some e => s.descWord e.1 e.2 hi | none => 0
  | .buffer k hi => match (s.landed id)[k]? with | some e => s.descWord e.1 e.2 hi | none => 0
  | .flightValue k o => match (s.inFlight id)[k]? with | some e => valueAt e.2.value o | none => 0
  | .bufferValue k o => match (s.landed id)[k]? with | some e => valueAt e.2.value o | none => 0
  | .channel n e o => match (x.chan[n]!)[e]? with | some c => valueAt (vecBytes c.v) o | none => 0
  | .laneMask n e => match (x.chan[n]!)[e]? with | some c => c.mask.toNat | none => 0
  | .other => match regPlace off with | some (b, i) => s.bankWord id b i | none => free

/-- The streams' predecoded items discarded: each latches its item afresh (R63), a short parcel in the cycle in which the core goes on,
from which its idle count then runs (DESIGN CHOICE: R63 is silent; log entry 89). -/
def Core.discardPredecoded (c : Core) : Core :=
  c.modCtx fun x => { x with streams := x.streams.map fun st => { st with latched := none } }

/-- Entry e of channel n changed. -/
def Core.editChan (c : Core) (n e : Nat) (f : ChanEntry → ChanEntry) : Core :=
  c.modChan n fun es => es.zipIdx.map fun p => if p.2 = e then f p.1 else p.1

/-- An aligned word of a core's control space written, which takes effect only while the core is held (R63, R322). -/
def State.putCtlWord (s : State) (id : CoreId) (off w : Nat) : State :=
  let c := s.core id
  let ws := leBytes w 8
  let place := ctlPlace off
  let reg := if place = .other then regPlace off else none
  if !c.held && !(reg.elim false fun r => r.1.atAnyTime) then s
  else match place with
    | .mould e o =>
      let v := leNat (patch (leBytes (c.ctx.mould e) 16) o ws)
      s.setCore id (c.discardPredecoded.modCtx fun x => { x with moulds := listSet x.moulds e (BitVec.ofNat 128 v) })
    | .stale k o =>
      let i := staleIdx k
      let keep := (c.ctx.stale[i]!).filter fun m => decide (m < 8 * o) || decide (8 * o + 64 ≤ m)
      let new := (List.range 64).filterMap fun b => if w / 2 ^ b % 2 = 1 then some (8 * o + b) else none
      s.setCore id (c.modCtx fun x => { x with stale := x.stale.set! i (new.foldl setInsert keep) })
    | .flight k hi => match (s.inFlight id)[k]? with | some e => s.putDesc id e hi w | none => s
    | .buffer k hi => match (s.landed id)[k]? with | some e => s.putDesc e.1.owner e hi w | none => s
    | .flightValue k o => match (s.inFlight id)[k]? with
      | some e => s.putValue e.1 o ws
      | none => s
    | .bufferValue k o => match (s.landed id)[k]? with
      | some e => s.putValue e.1 o ws
      | none => s
    | .channel n e o => s.setCore id (c.editChan n e fun q => { q with v := patchVec q.v o ws })
    | .laneMask n e => s.setCore id (c.editChan n e fun q => { q with mask := BitVec.ofNat 64 w })
    | .other => match reg with | some (b, i) => s.setCore id (c.putBank b i w) | none => s

/-! ### The die's blocks (R346, R377) -/

/-- What a place of a die-level block's control space shows. -/
inductive DiePlace where
  | row (l : FzLane) (i : Nat) (hi : Bool)
  | chunk (c : Nat)
  deriving DecidableEq, Repr

/-- The unit of the frieze port's block, and the offset of its tables in it: 64 rows of 16 bytes for lane E, and those of lane W behind
them (R346); no chapter gives either (log entry 70). -/
def fzUnit : Nat := 96 + Config.freeNat 0 346 % 32
def fzTable : Nat := 2048 * (Config.freeNat 1 346 % 2 ^ 20)

/-- The place of a word in the block of a unit: which unit is which block, and where it begins, no chapter says (log entry 70). -/
def diePlace (unit off : Nat) : Option DiePlace :=
  let n := Config.ctlMap unit off
  if unit = fzUnit ∧ fzTable ≤ off ∧ off < fzTable + 2048 then
    let w := (off - fzTable) / 8
    some (.row (if w < 128 then .e else .w) (w / 2 % 64) (w % 2 == 1))
  else if n < 256 then some (.chunk n)
  else none

/-- A row's two words (R346). -/
def FzRow.word (r : FzRow) (hi : Bool) : Nat :=
  if hi then r.addr.toNat % 2 ^ 48 else (packWord [(0, 2, r.state), (2, 2, r.mark), (16, 16, r.n), (32, 16, r.parks)]).toNat

/-- A row's word written: the reserved bits read 0, and a state or a mark of 3 is not written (R346). -/
def FzRow.putWord (r : FzRow) (hi : Bool) (w : Nat) : FzRow :=
  if hi then { r with addr := BitVec.ofNat 64 (fld w 6 42 * 64) }
  else if fld w 0 2 = 3 ∨ fld w 2 2 = 3 then r
  else { r with state := fld w 0 2, mark := fld w 2 2, n := fld w 16 16, parks := fld w 32 16 }

/-- An aligned word of a die-level block. -/
def State.dieWord (s : State) (die unit off : Nat) : Nat :=
  match diePlace unit off with
  | some (.row l i hi) => match s.port? die l with | some p => (p.rows[i]!).word hi | none => 0
  | some (.chunk c) => s.chunk die c
  | none => Config.freeNat s.ctr off % 2 ^ 64

/-- An aligned word of a die-level block written: the chunk counters are read only (R377). -/
def State.putDieWord (s : State) (die unit off w : Nat) : State :=
  match diePlace unit off with
  | some (.row l i hi) => s.modPort die l fun p => { p with rows := p.rows.set! i ((p.rows[i]!).putWord hi w) }
  | _ => s

/-! ### Physical space for the host and the debugger (R382, R387) -/

/-- The address in the aperture of a package, whichever of its dies is named (R366). -/
def hubPa (pa : Nat) : Nat := pa - paDie pa % 8 * 2 ^ 40

/-- An aligned word of any space, as the firmware reads it: what an uncorrectable word gives, and the places without a layout, are
open. -/
def State.spaceWord (s : State) (pa : Nat) : Nat :=
  let free := Config.freeNat s.ctr pa % 2 ^ 64
  if paSpace pa = 2 then (if paUnit pa < 96 then s.ctlWord (paCore pa) (paOff pa) else s.dieWord (paDie pa) (paUnit pa) (paOff pa))
  else if paSpace pa = 3 then s.staging.num (hubPa pa) 8
  else if s.poison.contains (eccWord pa) then free
  else s.numFrom pa 8

/-- An aligned word of any space written by the firmware. -/
def State.putSpaceWord (s : State) (pa w : Nat) : State :=
  if paSpace pa = 2 then
    (if paUnit pa < 96 then s.putCtlWord (paCore pa) (paOff pa) w else s.putDieWord (paDie pa) (paUnit pa) (paOff pa) w)
  else if paSpace pa = 3 then { s with staging := s.staging.write (hubPa pa) (leBytes w 8) }
  else s.poke pa (leBytes w 8)

/-- A range of words read, and written. -/
def State.spaceBytes (s : State) (pa n : Nat) : List Byte :=
  (List.range (n / 8)).flatMap fun i => leBytes (s.spaceWord (pa + 8 * i)) 8

def State.putSpace (s : State) (pa : Nat) (bs : List Byte) : State :=
  (List.range (bs.length / 8)).foldl (fun (t : State) i => t.putSpaceWord (pa + 8 * i) (numAt bs (8 * i) 8)) s

/-- R203 allows the host a byte, the control space besides (R382). -/
def State.hostOk (s : State) (pa : Nat) : Bool :=
  s.aligned (paDie pa) &&
  (if paSpace pa = 2 then true
   else decide (paUnit pa < 96) &&
    (if paSpace pa = 0 then (s.core (paCore pa)).direct (paOff pa) else paSpace pa = 1 && decide (paOff pa < 2 ^ 20)))

/-- A whole range that the host may reach; every part of 8 bytes is tested. -/
def State.hostRange (s : State) (pa n : Nat) : Bool :=
  decide (pa + n ≤ 2 ^ 52) && (List.range ((n + 7) / 8)).all fun i => s.hostOk (pa + 8 * i) && s.hostOk (min (pa + n - 1) (pa + 8 * i + 7))

end Sys2Proof.Machine
end

