-- ==== Sys2Proof/Machine/Host.lean ====
section
/-! DEFINITION. The host's side: function registers, BAR2, the command queue, the commands, events (R381 to R389, R391, R392,
R407). -/

namespace Sys2Proof.Machine

open Sys2Proof

/-! ### Functions and their queues (R383, R384) -/

def State.fnOf (s : State) (f : Nat) : HostFn := s.domain.fns.toArray.getD f HostFn.zero

/-- The agent that writes memory for a function (R382). -/
def hostId (f : Nat) : CoreId := ⟨f, 120⟩

/-- The entry count; other values disable the queue. -/
def HostFn.count (h : HostFn) : Nat := if 4 ≤ h.logn ∧ h.logn ≤ 12 then 2 ^ h.logn else 0

/-- The firmware may fetch from the queue. -/
def HostFn.fetches (h : HostFn) : Bool :=
  h.enable && h.count != 0 && !h.stuck && h.resetting.isNone && h.cqhead != h.cqtail

/-- The host memory that a write changes. -/
def State.putHost (s : State) (a : Nat) (bs : List Byte) : State := s.modDomain fun d => { d with hostMem := d.hostMem.write a bs }
def State.getHost (s : State) (a n : Nat) : List Byte := s.domain.hostMem.read a n

/-- The address of an entry. -/
def HostFn.entry (h : HostFn) (slot : Nat) : Nat := h.cqbase + 64 * slot

/-- The entry that the firmware fetches next: function and place, round robin (R384). -/
def State.fetchNext (s : State) : Option (Nat × Nat) :=
  if s.domain.stage = 0 ∨ s.clock < s.domain.fwAt then none
  else ((List.range 16).map fun i => (s.domain.served + 1 + i) % 16).findSome? fun f =>
    let h := s.fnOf f
    if h.fetches then some (f, h.cqhead) else none

/-- The entry's 64 bytes. -/
def State.entryBytes (s : State) (f slot : Nat) : List Byte := s.getHost ((s.fnOf f).entry slot) 64

/-- The entry at an address completes: the result, then the status with done; an interrupt where the function asks for them (R383,
R384). An entry keeps its place, whatever CQBASE holds by then. -/
def State.complete (s : State) (f addr code result : Nat) : State :=
  ((s.putHost (addr + 0x38) (leBytes result 8)).putHost (addr + 4) (leBytes (code + 2 ^ 31) 4)).modFn f
    fun h => if h.irqAll then { h with irqs := h.irqs + 1 } else h

/-- An entry is fetched: the head goes on, and the firmware is busy for an open time (log entry 12). -/
def State.fetched (s : State) (f : Nat) : State :=
  ((s.modFn f fun h => { h with cqhead := (h.cqhead + 1) % max 1 h.count }).modDomain fun d =>
    { d with served := f, fwAt := s.clock + 1 + Config.firmwareDelay s.ctr }).tick

/-- The command that an entry holds. -/
def commandOf (e : List Byte) : Instr :=
  let flag := fun o => numAt e o 1 % 2
  match numAt e 0 2 with
  | 0x01 => .identify
  | 0x02 => .negotiate
  | 0x03 => match numAt e 8 1 with | 1 => .resetDie | 2 => .resetDomain | _ => .resetFunction
  | 0x04 => .writeCmd
  | 0x05 => .readCmd
  | 0x06 => if flag 0x26 = 1 then .unmapCmd else .mapCmd
  | 0x07 => .launchGraph
  | 0x08 => if numAt e 0x10 1 = 1 then .freeGraph else .freezeGraph
  | 0x09 => .query
  | 0x0A => .friezeForm
  | 0x0B => .friezeLoad
  | 0x0C => .alignCmd
  | 0x0D => .remapSpares
  | 0x0E => .counters
  | 0x10 => .haltCommand
  | 0x11 => .resume
  | 0x12 => .peek
  | 0x13 => .poke
  | 0x14 => .eventCmd
  | _ => .reservedCommand

/-- What a command ends in. -/
inductive Reply where
  | done (code result : Nat) (s : State)
  /-- Parked, or otherwise completed later (R384, R388). -/
  | later (s : State)
  deriving DecidableEq, Repr

/-- A command: whether it is answered before its function has negotiated, the feature it needs, the parameter bytes it uses,
whether it is refused to the function, and its effect for a function, the address of the entry and its bytes. -/
structure Command where
  early : Bool
  feature : Option Nat
  used : Nat
  denied : Nat → List Byte → State → Bool
  run : Nat → Nat → List Byte → State → Reply

/-- A feature bit is accepted. -/
def HostFn.has (h : HostFn) (bit : Nat) : Bool := match h.features with | some w => w / 2 ^ bit % 2 == 1 | none => false

/-- The negotiation that a command of a function still lacks (R386). -/
def State.unready' (s : State) (f : Nat) (negotiate : Bool) (k : Command) : Bool :=
  (decide (f ≠ 0) && !(s.fnOf 0).has 0 && !k.early) ||
  (!k.early && !negotiate && (s.fnOf f).features.isNone) ||
  (match k.feature with | some b => !(s.fnOf f).has b | none => false)

/-- The status that comes before the command's own, by the order of R385; 0 for none. -/
def State.refusal (s : State) (f : Nat) (e : List Byte) (negotiate : Bool) (k : Command) : Nat :=
  if s.domain.stage = 7 then 7
  else if s.domain.stage < 5 then 4
  else if k.denied f e s then 3
  else if s.unready' f negotiate k then 5
  else if (e.drop (8 + k.used)).take (48 - k.used) |>.any (· != 0) then 2
  else 0

/-- The firmware takes the next entry, which holds the given command (R384). -/
def State.command (s : State) (i : Instr) (name : String) (k : Command) : Out :=
  match s.fetchNext with
  | none => .refused (.notPending name)
  | some (f, slot) =>
    let e := s.entryBytes f slot
    let addr := (s.fnOf f).entry slot
    if commandOf e ≠ i then .refused (.notPending name)
    else
      let s1 := s.fetched f
      let code := s.refusal f e (i == .negotiate) k
      if code ≠ 0 then .next (s1.complete f addr code 0)
      else match k.run f addr e s1 with
        | .done code result s2 => .next (s2.complete f addr code result)
        | .later s2 => .next s2

/-- Parameter fields. -/
def par (e : List Byte) (o n : Nat) : Nat := numAt e o n

/-- No function is refused. -/
def anyFn : Nat → List Byte → State → Bool := fun _ _ _ => false
/-- Only the PF is served. -/
def pfOnly : Nat → List Byte → State → Bool := fun f _ _ => f != 0

/-! ### Registers (R383) -/

/-- CQTAIL_DOORBELL (R383). -/
def execCqtailDoorbell (s : State) : Out :=
  match s.arg with
  | .words f v =>
    let n := (s.fnOf f.toNat).count
    let t := v.toNat % 4096
    .next (s.modFn f.toNat fun h => if n ≠ 0 ∧ n ≤ t then { h with bad := true, stuck := true } else { h with cqtail := t })
  | _ => .refused (.notPending "CQTAIL_DOORBELL")

/-- A function register as the host reads it (R8, R383, R391): reserved bits, and every other offset (R381), read 0. -/
def State.regRead (s : State) (f off : Nat) : Word :=
  let h := s.fnOf f
  match off with
  | 0x000 => BitVec.ofNat 64 h.cqbase
  | 0x008 => packWord [(0, 1, h.enable.toNat), (1, 4, h.logn), (5, 1, h.irqAll.toNat)]
  | 0x010 => packWord [(0, 12, h.cqtail)]
  | 0x018 => packWord [(0, 12, h.cqhead)]
  | 0x020 => packWord [(0, 3, s.domain.stage), (3, 1, h.bad.toNat), (16, 16, h.dropped), (32, 32, h.refused)]
  | 0x028 => if f = 0 then BitVec.ofNat 64 h.winbase else 0
  | _ => 0

/-- WINBASE for a value and a size of BAR2: a multiple of the size below 2^52 (R383). -/
def winbaseOf (v n : Nat) : Nat := v % 2 ^ 52 / 2 ^ n * 2 ^ n

/-- The host resizes the PF's BAR2, from 1 GiB to 64 GiB (R381). -/
def State.resizeBar (s : State) (n : Nat) : State :=
  if 30 ≤ n ∧ n ≤ 36 then s.modFn 0 fun h => { h with bar2 := n, winbase := winbaseOf h.winbase n } else s

/-- CQCTL_WRITE (R383): a host write of CQBASE, CQCTL or WINBASE; clearing enable discards the entries not fetched. -/
def execCqctlWrite (s : State) : Out :=
  match s.arg with
  | .bytes f off bs =>
    let v := leNat bs
    match off with
    | 0x000 => .next (s.modFn f fun h => { h with cqbase := v % 2 ^ 64 / 4096 * 4096 })
    | 0x008 =>
      let on := v % 2 == 1
      .next (s.modFn f fun h =>
        let h1 := { h with enable := on, logn := v / 2 % 16, irqAll := v / 32 % 2 == 1 }
        if on then h1
        else { h1 with cqhead := 0, cqtail := 0, stuck := false, resetting := h.resetting.map fun r => { r with tail := none } })
    | 0x028 => .next (if f = 0 then s.modFn f fun h => { h with winbase := winbaseOf v h.bar2 } else s)
    | _ => .next s
  | _ => .refused (.notPending "CQCTL_WRITE")

/-- DEVSTAT_CLEAR (R383): the bad-doorbell bit is cleared by writing 1; the queue stays stopped. -/
def execDevstatClear (s : State) : Out :=
  match s.arg with
  | .words f v => .next (s.modFn f.toNat fun h => if v.getLsbD 3 then { h with bad := false } else h)
  | _ => .refused (.notPending "DEVSTAT_CLEAR")

/-! ### Addresses of a function (R381, R382, R387) -/

/-- A VF's translation (R382). -/
def State.vfPa (s : State) (f : Nat) (write : Bool) (va : Nat) : Option Nat :=
  if !canonical va then none
  else
    let v := va % 2 ^ 48
    match walkTables s v 4 1 ((s.fnOf f).root % 2 ^ 52 / 2 ^ 13 * 2 ^ 13) with
    | none => none
    | some e => if e.sup || !(if write then e.w else e.r) then none else some (e.pa + (v - e.va))

/-- The physical addresses of the bytes of a range that a function names; none where it is refused. -/
def State.fnBytes (s : State) (f : Nat) (write : Bool) (a n : Nat) : Option (List Nat) :=
  if f = 0 then (if s.hostRange a n then some (pasFrom a n) else none)
  else
    let ps := (List.range n).map fun i => s.vfPa f write ((a + i) % 2 ^ 64)
    if ps.all fun p => p.any s.hostOk then some (ps.filterMap id) else none

/-- The bytes of an access through BAR2 at an offset, whatever its alignment: they lie within the BAR (R381, R382). -/
def State.barBytes (s : State) (f : Nat) (write : Bool) (off n : Nat) : Option (List Nat) :=
  let h := s.fnOf f
  if 2 ^ (if f = 0 then h.bar2 else 30) < off + n then none
  else s.fnBytes f write (if f = 0 then h.winbase + off else off) n

/-- A byte of any space. -/
def State.spaceByte (s : State) (pa : Nat) : Byte := BitVec.ofNat 8 (s.spaceWord (pa / 8 * 8) / 2 ^ (8 * (pa % 8)))

/-- Bytes of any space read for the host, which sees every write (log entry 22): single-bit errors in them are corrected (R210). -/
def State.hostGet (s : State) (ps : List Nat) : List Byte × State := (ps.map s.spaceByte, s.tick.correct ps)

/-- Bytes written for a function to any space (R382). Those of memory are its plain writes; those of the control space go in as whole
words. -/
def State.hostPut (s : State) (f : Nat) (es : List (Nat × Byte)) : State :=
  let (ms, cs) := es.partition fun e => decide (paSpace e.1 ≤ 1)
  let s1 := s.writeAs (hostId f) (ms.map fun e => ⟨e.1, 0, e.2⟩)
  (cs.map fun e => e.1 / 8).eraseDups.foldl (fun (t : State) w =>
    let old := leBytes (t.spaceWord (8 * w)) 8
    t.putSpaceWord (8 * w) (leNat (cs.foldl (fun bs e => if e.1 / 8 = w then bs.set (e.1 % 8) e.2 else bs) old))) s1

/-- HOST_BAR2_READ (R382): the bytes go to the host; a refused read is a Completer Abort. -/
def execHostBar2Read (s : State) : Out :=
  match s.arg with
  | .bytes f off bs =>
    match s.barBytes f false off bs.length with
    | none => .next (s.tick.modDomain fun d => { d with answer := none })
    | some ps =>
      let (r, s1) := s.hostGet ps
      .next (s1.modDomain fun d => { d with answer := some r })
  | _ => .refused (.notPending "HOST_BAR2_READ")

/-- HOST_BAR2_WRITE (R382): a refused write is dropped and counted. -/
def execHostBar2Write (s : State) : Out :=
  match s.arg with
  | .bytes f off bs =>
    match s.barBytes f true off bs.length with
    | none => .next (s.modFn f fun h => { h with refused := min (h.refused + 1) (2 ^ 32 - 1) })
    | some ps => .next (s.hostPut f (ps.zip bs))
  | _ => .refused (.notPending "HOST_BAR2_WRITE")

/-! ### IDENTIFY and NEGOTIATE (R386, R387) -/

/-- The supported feature bits (R386). -/
def supportedBits : Nat := 63

/-- The part number (R1), in ASCII. -/
def partNumber : List Byte := [0x4B, 0x58, 0x38, 0x2D, 0x37, 0x36, 0x38, 0x2D, 0x41, 0, 0, 0, 0, 0, 0, 0]

/-- IDENTIFY (R387): part number, firmware version, DOMINFO, feature bits and VF count (log entry 72 for their places). -/
def execIdentify (s : State) : Out :=
  s.command .identify "IDENTIFY" ⟨true, none, 8, anyFn, fun _ _ e s =>
    let buf := par e 8 8
    if buf % 8 ≠ 0 then .done 2 0 s
    else
      let bs := partNumber ++ leBytes (Config.freeNat s.ctr 38701 % 2 ^ 64) 8 ++
        leBytes (s.dominfo 0).toNat 8 ++ leBytes supportedBits 32 ++ leBytes 15 8 ++ List.replicate 4024 0
      .done 0 0 (s.tick.putHost buf bs)⟩

/-- NEGOTIATE (R386). -/
def execNegotiate (s : State) : Out :=
  s.command .negotiate "NEGOTIATE" ⟨false, none, 8, anyFn, fun f _ e s =>
    let buf := par e 8 8
    if buf % 8 ≠ 0 ∨ (s.fnOf f).features.isSome then .done 2 0 s
    else
      let w := leNat (s.getHost buf 32) &&& supportedBits
      let s1 := (s.putHost buf (leBytes w 32)).modFn f fun h => { h with features := some w }
      .done 0 0 (if f = 0 ∧ s1.domain.stage = 5 then s1.modDomain fun d => { d with stage := 6 } else s1)⟩

/-! ### WRITE and READ (R382, R387) -/

/-- The parameters of a copy: address, buffer, length. -/
def copyPar (e : List Byte) : Nat × Nat × Nat := (par e 8 8, par e 0x10 8, par e 0x18 4)

/-- Length and buffer are within their limits. -/
def copyOk (buf n : Nat) : Bool := buf % 8 == 0 && decide (8 ≤ n) && decide (n ≤ 2 ^ 24) && n % 8 == 0

/-- A range that the function may not name (R382). -/
def copyDenied (write : Bool) (f : Nat) (e : List Byte) (s : State) : Bool :=
  let (a, _, n) := copyPar e
  (s.fnBytes f write a n).isNone

/-- WRITE (R387). -/
def execWriteCmd (s : State) : Out :=
  s.command .writeCmd "WRITE" ⟨false, none, 20, copyDenied true, fun f _ e s =>
    let (a, buf, n) := copyPar e
    if !copyOk buf n then .done 2 0 s
    else match s.fnBytes f true a n with
      | none => .done 3 0 s
      | some ps => .done 0 0 (s.hostPut f (ps.zip (s.getHost buf n)))⟩

/-- READ (R387): an uncorrectable word stops the copy. -/
def execReadCmd (s : State) : Out :=
  s.command .readCmd "READ" ⟨false, none, 20, copyDenied false, fun f _ e s =>
    let (a, buf, n) := copyPar e
    if !copyOk buf n then .done 2 0 s
    else match s.fnBytes f false a n with
      | none => .done 3 0 s
      | some ps =>
        let bad := ps.findIdx? fun pa => paSpace pa ≤ 1 && s.poison.contains (eccWord pa)
        let (bs, s1) := s.hostGet (ps.take (bad.getD n))
        let s2 := s1.putHost buf bs
        match bad with
        | none => .done 0 0 s2
        | some k =>
          let pa := ps.getD k 0
          .done 7 k (s2.post f 8 (paCore pa) (pa / 8 % 2 ^ 32))⟩

/-! ### MAP and unmap (R207, R340, R387) -/

/-- The parameters of MAP: die, cores, virtual address, leaf, flags. -/
structure MapPar where
  die : Nat
  cores : List CoreId
  va : Nat
  leaf : Nat
  flags : Nat
  deriving DecidableEq, Repr

def mapPar (e : List Byte) : MapPar :=
  let die := par e 8 2
  ⟨die, (maskList (par e 0xA 12) 96).map fun i => ⟨die, i⟩, par e 0x16 8, par e 0x1E 8, par e 0x26 1⟩

/-- The level and the size of the page. -/
def MapPar.level (m : MapPar) : Nat := match m.flags / 2 % 4 with | 0 => 4 | 1 => 3 | _ => 2
def MapPar.size (m : MapPar) : Nat := levelPage m.level
def MapPar.pa (m : MapPar) : Nat := fld m.leaf 8 44 * 256
def MapPar.writable (m : MapPar) : Bool := fld m.leaf 3 1 == 1

/-- The buffer entry; none for a leaf that breaks R206, or an address that is no multiple of the page. -/
def MapPar.entry (m : MapPar) : Option TlbEntry :=
  if m.va % m.size ≠ 0 ∨ m.flags / 2 % 4 = 3 ∨ 8 ≤ m.flags then none
  else match walkStep m.va m.level m.leaf 0 with
    | .leaf e => some { e with pinned := true }
    | _ => none

/-- A page meets the frieze range of a vault (R340). -/
def State.onFrieze (s : State) (pa size : Nat) : Bool :=
  s.ports.any fun p => p.state != 0 && paDie pa == p.die && paSpace pa == 0 &&
    (let lo := s.laneOff p.die p.lane
     decide (paOff pa < lo + 65536 * s.lanePlaces p.die p.lane) && decide (lo < paOff pa + size))

/-- A VF's page table maps every byte of a page with R, and with W where it is asked for (R387). -/
def State.vfMaps (s : State) (f pa size : Nat) (w : Bool) : Bool :=
  (List.range (size / 65536)).all fun i => (List.range (2 ^ 32)).any fun p =>
    match walkTables s (65536 * p) 4 1 ((s.fnOf f).root % 2 ^ 52 / 2 ^ 13 * 2 ^ 13) with
    | some e => e.r && (!w || e.w) && e.pa + (65536 * p - e.va) == pa + 65536 * i
    | none => false

/-- MAP is not permitted to the function. -/
def mapDenied (f : Nat) (e : List Byte) (s : State) : Bool :=
  let m := mapPar e
  let un := m.flags % 2 == 1
  (f != 0 && (!((s.fnOf f).cores.any fun c => c.die == m.die) || !(m.cores.all fun c => (s.fnOf f).cores.contains c) ||
    (!un && !s.vfMaps f m.pa m.size m.writable))) ||
  (!un && m.writable && s.onFrieze m.pa m.size)

/-- Two entries stand for one page. -/
def TlbEntry.samePage (a b : TlbEntry) : Bool := a.va == b.va && a.size == b.size

/-- A pinned entry put into a core's buffer, in place of one for the same page; the pipes drop what they hold for it (R263). -/
def Core.pinEntry (c : Core) (e : TlbEntry) : Core :=
  let keep := fun (l : List TlbEntry) => l.filter fun f => !(decide (f.va < e.va + e.size) && decide (e.va < f.va + f.size))
  { c.modCtx fun x => { x with mat := { x.mat with pipeA := keep x.mat.pipeA, pipeB := keep x.mat.pipeB } } with
    tlb := tlbFill 256 (c.tlb.filter fun f => !(f.pinned && f.samePage e)) e }

/-- The pinned entries of a page taken out. -/
def Core.unpinEntry (c : Core) (va size : Nat) : Core :=
  let keep := fun (l : List TlbEntry) => l.filter fun f => !(decide (f.va < va + size) && decide (va < f.va + f.size))
  { c.modCtx fun x => { x with mat := { x.mat with pipeA := keep x.mat.pipeA, pipeB := keep x.mat.pipeB } } with
    tlb := c.tlb.filter fun f => !(f.pinned && f.va == va && f.size == size) }

/-- MAP (R387). -/
def execMapCmd (s : State) : Out :=
  s.command .mapCmd "MAP" ⟨false, none, 31, mapDenied, fun _ _ e s =>
    let m := mapPar e
    match m.entry with
    | none => .done 2 0 s
    | some t =>
      let full := fun (c : CoreId) =>
        let k := ((s.core c).tlb.filter fun f => f.pinned && !f.samePage t).length
        decide (192 < k + 1)
      if !s.aligned m.die then .done 2 0 s
      else if m.cores.any full then .done 6 0 s
      else .done 0 m.cores.length (m.cores.foldl (fun (u : State) c => u.modCore c fun k => k.pinEntry { t with used := u.seq }) s)⟩

/-- MAP with the unmap flag (R387). -/
def execUnmapCmd (s : State) : Out :=
  s.command .unmapCmd "UNMAP" ⟨false, none, 31, mapDenied, fun _ _ e s =>
    let m := mapPar e
    if m.va % m.size ≠ 0 ∨ m.flags / 2 % 4 = 3 ∨ 8 ≤ m.flags ∨ !s.aligned m.die then .done 2 0 s
    else
      let va := m.va % 2 ^ 48
      let n := (m.cores.filter fun c => (s.core c).tlb.any fun f => f.pinned && f.va == va && f.size == m.size).length
      .done 0 n (m.cores.foldl (fun (u : State) c => u.modCore c fun k => k.unpinEntry va m.size) s)⟩

/-! ### Graphs (R195, R382, R387) -/

/-- A graph that a function may name: a VF only its own. -/
def State.graphOf (s : State) (f va : Nat) : Option GraphRec :=
  s.sched.graphs.find? fun g => g.va == va && (f == 0 || g.fn == f)

/-- A graph that a VF did not launch. -/
def graphDenied (f : Nat) (e : List Byte) (s : State) : Bool := f != 0 && (s.graphOf f (par e 8 8)).isNone

/-- A die that a VF may name. -/
def State.ownDie (s : State) (f die : Nat) : Bool := f == 0 || (s.fnOf f).cores.any fun c => c.die == die

/-- The writes that a function has made by now are published to the tasks of a graph (R382). -/
def State.publishTo (s : State) (f die va : Nat) : State :=
  { s with ledger := s.ledger.map fun r => if r.by_ = hostId f then { r with pubs := graphKey die va :: r.pubs } else r }

/-- LAUNCH_GRAPH (R382, R386, R387). -/
def execLaunchGraph (s : State) : Out :=
  s.command .launchGraph "LAUNCH_GRAPH" ⟨false, none, 10, fun f e s => !s.ownDie f (par e 0x10 2), fun f _ e s =>
    let die := par e 0x10 2
    if par e 8 8 % 64 ≠ 0 ∨ !s.aligned die then .done 2 0 s
    else
      let (st, s1) := (s.publishTo f die (par e 8 8)).spawnGraph die (par e 8 8) (0x30 + f) f
      .done 0 st s1⟩

/-- FREEZE_GRAPH, action 0 (R194, R387). -/
def execFreezeGraph (s : State) : Out :=
  s.command .freezeGraph "FREEZE_GRAPH" ⟨false, none, 9, graphDenied, fun f _ e s =>
    match s.graphOf f (par e 8 8) with
    | none => .done 2 0 s
    | some g => if par e 0x10 1 ≠ 0 then .done 2 0 s else .done 0 0 (s.setFrozen g.die g.va true)⟩

/-- The nodes of a graph that are not yet complete, running ones among them, go back to their first state, the places that they leave go to
waiting nodes (R190), and those that were not running and have no predecessors become ready (R387; log entry 117). -/
def State.rearmWaiting (s : State) (g : GraphRec) : State :=
  match s.header g.die g.va with
  | none => s
  | some h =>
    let rs := s.nodesWhere g.die g.va h fun n => decide (n.state < 3)
    let first := s.nodesWhere g.die g.va h fun n => decide (n.state < 2) && n.npred == 0
    ((s.rearm rs).doWork ((s.queuesOf rs).map .pull)).doWork (first.map .ready)

/-- FREEZE_GRAPH, action 1 (R387). -/
def execFreeGraph (s : State) : Out :=
  s.command .freeGraph "FREE_GRAPH" ⟨false, none, 9, graphDenied, fun f _ e s =>
    match s.graphOf f (par e 8 8) with
    | none => .done 2 0 s
    | some g => .done 0 0 ((s.setFrozen g.die g.va false).rearmWaiting g)⟩

/-- QUERY (R182, R387): the node's bytes 0x40 to 0x5F go to a place of host memory that no rule names (log entry 80); the result is
its state. -/
def execQuery (s : State) : Out :=
  s.command .query "QUERY" ⟨false, none, 10, graphDenied, fun f _ e s =>
    match s.graphOf f (par e 8 8) with
    | none => .done 2 0 s
    | some g => match s.header g.die g.va with
      | none => .done 2 0 s
      | some h =>
        if h.count ≤ par e 0x10 2 then .done 2 0 s
        else match s.nodeRec ⟨g.die, g.va, par e 0x10 2⟩ with
          | some (_, n) => .done 0 n.state ((s.tick.correct (pasFrom (n.pa + 0x40) 32)).putHost
              (8 * (Config.freeNat s.ctr 38710 % 2 ^ 61)) (s.bytesFrom (n.pa + 0x40) 32))
          | none => .done 2 0 s⟩

/-! ### The frieze, alignment, spares and counters (R340, R362, R392, R406, R407) -/

/-- FRIEZE_FORM (R340, R387): the member list in host memory is a 16-bit count and so many 16-bit dies (log entry 73). -/
def execFriezeForm (s : State) : Out :=
  s.command .friezeForm "FRIEZE_FORM" ⟨false, some 1, 20, pfOnly, fun _ _ e s =>
    let list := par e 0xC 8
    let n := leNat (s.getHost list 2)
    let dies := (List.range n).map fun i => leNat (s.getHost (list + 2 + 2 * i) 2)
    if list % 8 ≠ 0 ∨ 1 < par e 8 1 then .done 2 0 s
    else
      let (code, r, s1) := s.friezeForm (if par e 8 1 = 0 then .e else .w) (par e 9 2) (par e 0xB 1) dies (par e 0x14 8)
      .done code r s1⟩

/-- FRIEZE_LOAD (R387, R406). -/
def execFriezeLoad (s : State) : Out :=
  s.command .friezeLoad "FRIEZE_LOAD" ⟨false, some 1, 12, pfOnly, fun _ _ e s =>
    let buf := par e 0xC 8
    if buf % 8 ≠ 0 then .done 2 0 s
    else
      let (code, r, s1) := s.friezeLoad (par e 8 2) (par e 0xA 2) (s.getHost buf (256 + 96 * 65536))
      .done code r s1⟩

/-- ALIGN (R362, R363, R387). -/
def execAlignCmd (s : State) : Out :=
  s.command .alignCmd "ALIGN" ⟨false, none, 0, pfOnly, fun _ _ _ s =>
    let s1 := s.realign.setRoutes
    .done 0 s1.domain.excluded s1⟩

/-- REMAP_SPARES (R392): candidates of a die, by their order, are accepted for its spares, of which it has 4 (log entry 74). -/
def execRemapSpares (s : State) : Out :=
  s.command .remapSpares "REMAP_SPARES" ⟨false, some 5, 10, pfOnly, fun _ _ e s =>
    let die := par e 8 2
    let cs := ((List.range 96).map fun i => (⟨die, i⟩ : CoreId))
    let cand := cs.filter fun c => (s.core c).spare == (true, false)
    let pick := (cand.zipIdx.filter fun p => decide (p.2 < 64) && par e 0xA 8 / 2 ^ p.2 % 2 == 1).map (·.1)
    let used := cs.foldl (fun n c => n + (s.core c).spares.1 + if (s.core c).spare.2 then 1 else 0) 0
    if !s.aligned die ∨ 2 ^ min 64 cand.length ≤ par e 0xA 8 then .done 2 0 s
    else if 4 < used + pick.length then .done 6 0 s
    else .done 0 pick.length (pick.foldl (fun (t : State) c => t.modCore c fun k => { k with spare := (true, true) }) s)⟩

/-- A maintenance point of a core whose spare has been accepted: a frame boundary at which it is free and nothing reserves it. -/
def State.remapDue (s : State) (c : CoreId) : Bool :=
  (s.core c).spare == (true, true) && s.clock % 32768 == 0 && !s.boundaryDue && s.coreFree c && !s.reservedBy c

/-- SPARE_REMAP_APPLY (R392): the vault is copied in 65,536 cycles, during which nothing starts on the core; then the remap, which
changes nothing that a program sees. -/
def execSpareRemapApply (s : State) : Out :=
  if s.remapDue s.cur then .next (s.modCore s.cur fun k => { k with
      spare := (false, false), spares := (k.spares.1 + 1, k.wear.1, false), copyUntil := s.clock + 65536 })
  else .refused (.notPending "SPARE_REMAP_APPLY")

/-- The bytes of a block of counters (R407). -/
def State.counterBlock (s : State) (die block : Nat) : List Byte :=
  let cs := (List.range 96).map fun i => (⟨die, i⟩ : CoreId)
  let w := fun (v : Word) => leBytes v.toNat 8
  match block with
  | 0 => cs.flatMap fun c => w (s.memerr (s.core c))
  | 1 => w (s.fzstat die) ++ w (s.fzcfg die .e) ++ w (s.fzcfg die .w)
  | 2 => cs.flatMap fun c => if (s.core c).task.isSome then w (s.cpystat c) else List.replicate 8 0
  | _ =>
    let k := fun i => leBytes ((listGet? s.domain.linkRetries (4 * die + i)).getD 0) 8
    (cs.flatMap fun c =>
      let (a, b, r) := (s.core c).wear
      leBytes a 4 ++ leBytes b 4 ++ leBytes r 4 ++ List.replicate 4 0) ++ k 0 ++ k 1 ++ k 2 ++ List.replicate 8 0

/-- COUNTERS (R387, R407). -/
def execCounters (s : State) : Out :=
  s.command .counters "COUNTERS" ⟨false, none, 11, fun f e s => !s.ownDie f (par e 8 2), fun _ _ e s =>
    let buf := par e 0xB 8
    if buf % 8 ≠ 0 ∨ 4 ≤ par e 0xA 1 ∨ !s.aligned (par e 8 2) then .done 2 0 s
    else
      let bs := s.counterBlock (par e 8 2) (par e 0xA 1)
      .done 0 bs.length (s.putHost buf bs)⟩

/-! ### Debugging (R322, R384, R387) -/

/-- The cores that run a task of a graph. -/
def State.graphCores (s : State) (g : GraphRec) : List CoreId :=
  (s.cores.filter fun e => match e.2.task with | some t => t.ref.die == g.die && t.ref.graph == g.va | none => false).map (·.1)

/-- HALT (R316, R384, R387): one hold for each lock group of the graph, and one for each free task; the entry is parked until they
have reached every core. -/
def execHaltCommand (s : State) : Out :=
  s.command .haltCommand "HALT_COMMAND" ⟨false, some 3, 8, graphDenied, fun f addr e s =>
    match s.graphOf f (par e 8 8) with
    | none => .done 2 0 s
    | some g =>
      let cs := s.graphCores g
      let gs := ((cs.filter fun c => (s.core c).isLocked).map fun c => ((s.core c).task.map (·.group)).getD 0).eraseDups
      let sets := (gs.map fun k => s.groupCores k) ++ (cs.filter fun c => (s.core c).isFree).map fun c => [c]
      let (s1, hs) := sets.foldl (fun (p : State × List Nat) set =>
        (p.1.startHold 2 none ((lowestCore set).getD ⟨0, 0⟩) set [], p.2 ++ [p.1.seq])) (s, [])
      let d := (hs.filterMap s1.hold?).foldl (fun m h => max m h.reach) 0
      .later ((s1.modFn f fun h => { h with parked := h.parked ++ [⟨addr, true, hs⟩] }).scheduleDom ⟨g.die, 0⟩ (max 1 d)
        .haltCommandComplete (.cmd f addr))⟩

/-- HALT_COMMAND_COMPLETE (R384). -/
def execHaltCommandComplete (s : State) : Out :=
  match s.arg with
  | .cmd f addr =>
    if (s.fnOf f).parked.any fun p => p.halt && p.addr == addr then
      .next ((s.modFn f fun h => { h with parked := h.parked.filter fun p => !(p.halt && p.addr == addr) }).complete f addr 0 0)
    else .next s
  | _ => .refused (.notPending "HALT_COMMAND_COMPLETE")

/-- RESUME (R312, R387): the debugger holds on the graph's tasks are released, and SYSCALL and BREAK stops go on. -/
def execResume (s : State) : Out :=
  s.command .resume "RESUME" ⟨false, some 3, 8, graphDenied, fun f _ e s =>
    match s.graphOf f (par e 8 8) with
    | none => .done 2 0 s
    | some g =>
      let cs := s.graphCores g
      let hs := s.holds.filter fun h => h.reason == 2 && h.release.isNone && h.members.any fun m => cs.contains m.1
      let s1 := hs.foldl (fun (t : State) h => t.release h.origin (some h.id)) s
      .done 0 0 (cs.foldl (fun (t : State) c => match (t.core c).ctx.trapped with
        | some (.untilResume old) => (t.dropReports c).goOn c old
        | _ => t) s1)⟩

/-- A range of the debugger: whole words of the domain (log entry 70). -/
def debugBad (e : List Byte) (s : State) : Bool :=
  let (a, buf, n) := copyPar e
  !copyOk buf n || a % 8 != 0 || decide (2 ^ 52 < a + n) || !s.aligned (paDie a) || !s.aligned (paDie (a + n - 1))

/-- The debugger of a virtual function names a core that is not the function's own, or a die-level block or an aperture of a die on which
it has none (R387). -/
def peekDenied (f : Nat) (e : List Byte) (s : State) : Bool :=
  let (a, _, n) := copyPar e
  let own := fun (pa : Nat) => if paUnit pa < 96 ∧ paSpace pa ≠ 3 then (s.fnOf f).cores.contains (paCore pa) else s.ownDie f (paDie pa)
  f != 0 && !(own a && own (a + n - 1))

/-- A control space range of a die's units lies, but for its moulds, in cores that are held (R322, R387). -/
def State.heldRange (s : State) (a n : Nat) : Bool :=
  (List.range (paUnit (a + n - 1) + 1 - paUnit a)).all fun i =>
    let u := paUnit a + i
    let lo := if i = 0 then paOff a else 0
    let hi := if u = paUnit (a + n - 1) then paOff (a + n - 1) + 1 else 2 ^ 31
    decide (96 ≤ u) || (decide (0x40000 ≤ lo) && decide (hi ≤ 0x44200)) || (s.core ⟨paDie a, u⟩).held

/-- PEEK (R322, R387): the state of a core that is not held is not readable, whichever part of the range it stands in; single-bit
errors in what is read are corrected (R210). -/
def execPeek (s : State) : Out :=
  s.command .peek "PEEK" ⟨false, some 3, 20, peekDenied, fun _ _ e s =>
    let (a, buf, n) := copyPar e
    if debugBad e s then .done 2 0 s
    else if paSpace a = 2 ∧ !s.heldRange a n then .done 2 0 s
    else .done 0 0 ((s.tick.correct ((s.soft.filter fun w => decide (a < 8 * w + 8) && decide (8 * w < a + n)).map (8 * ·))).putHost buf
      (s.spaceBytes a n))⟩

/-- POKE (R63, R322, R324, R387). -/
def execPoke (s : State) : Out :=
  s.command .poke "POKE" ⟨false, some 3, 20, peekDenied, fun _ _ e s =>
    let (a, buf, n) := copyPar e
    if debugBad e s then .done 2 0 s else .done 0 0 (s.putSpace a (s.getHost buf n))⟩

/-! ### Events (R384, R389) -/

/-- An event is posted to a function: the oldest parked EVENT completes, or the event waits, or it is dropped. -/
def State.postNow (s : State) (f : Nat) (w : Word) : State :=
  match (s.fnOf f).parked.find? fun p => !p.halt with
  | some p =>
    (s.modFn f fun h => { h with parked := h.parked.filter (· != p) }).complete f p.addr 0 w.toNat
  | none => s.modFn f fun h =>
    if h.events.length < 256 then { h with events := h.events ++ [w] } else { h with dropped := min (h.dropped + 1) 65535 }

/-- EVENT (R389): parked; an event that waits completes it at once. -/
def execEventCmd (s : State) : Out :=
  s.command .eventCmd "EVENT" ⟨false, some 4, 0, anyFn, fun f addr _ s =>
    let h := s.fnOf f
    match h.events with
    | w :: rest => .done 0 w.toNat (s.modFn f fun h => { h with events := rest })
    | [] =>
      if 16 ≤ (h.parked.filter fun p => !p.halt).length then .done 6 0 s
      else .later (s.modFn f fun h => { h with parked := h.parked ++ [⟨addr, false, []⟩] })⟩

/-- EVENT_POST (R389). -/
def execEventPost (s : State) : Out :=
  match s.arg with
  | .words f w => .next (s.postNow f.toNat w)
  | _ => .refused (.notPending "EVENT_POST")

/-- RESERVED_COMMAND (R385): an unknown or reserved opcode completes with status 0x01. -/
def execReservedCommand (s : State) : Out :=
  match s.fetchNext with
  | none => .refused (.notPending "RESERVED_COMMAND")
  | some (f, slot) =>
    if commandOf (s.entryBytes f slot) ≠ .reservedCommand then .refused (.notPending "RESERVED_COMMAND")
    else .next ((s.fetched f).complete f ((s.fnOf f).entry slot) (if s.domain.stage = 7 then 7 else if s.domain.stage < 5 then 4 else 1) 0)

end Sys2Proof.Machine
end

