-- ==== Sys2Proof/Machine/Bringup.lean ====
section
/-! DEFINITION. Resets, bring-up, thermal steps and the reserved opcode (R50, R353, R388, R390, R391,
R393). -/

namespace Sys2Proof.Machine

open Sys2Proof

/-- RESERVED_OPCODE (R50): ILLEGAL at issue. -/
def execReservedOpcode (s : State) : Out := issue s.curCl (fun _ _ => .error .illegal) s

/-! ### RESET of a function (R388) -/

/-- The running tasks that a test picks end as fatally faulted (R321): a free task at once, a locked one with its group, held
with reason 6 from the group's lowest core. -/
def State.endTasks (s : State) (p : CoreId → Task → Bool) : State :=
  let cs := (s.cores.filter fun e => match e.2.task with | some t => p e.1 t | none => false).map (·.1)
  let gs := ((cs.filter fun c => (s.core c).isLocked).map fun c => ((s.core c).task.map (·.group)).getD 0).eraseDups
  let s1 := (cs.filter fun c => (s.core c).isFree).foldl (fun (t : State) c => t.fatalEnd c s.openCause) s
  (gs.foldl (fun (t : State) g =>
    let ms := t.groupCores g
    t.startHold 6 (some (g, s.openCause)) ((lowestCore ms).getD ⟨0, 0⟩) ms []) s1).tick

/-- The cores that run a function's tasks. -/
def State.fnCores (s : State) (f : Nat) : List CoreId :=
  (s.cores.filter fun e => match e.2.task with | some t => t.fn == f | none => false).map (·.1)

/-- The tasks that are about to start on some cores, and those suspended there, end with them as fatally faulted: they neither start nor
come back (R321, R388). -/
def State.dropComing (s : State) (p : CoreId → Nat → Bool) : State :=
  let starts := s.agenda.filterMap fun (e : Pending) => match e.arg with
    | .launch r => if p e.owner r.fn then some (e, r.run) else none
    | _ => none
  let away := s.sched.suspended.filter fun (t : Suspended) => p t.core t.task.fn
  { s with
    agenda := s.agenda.filter fun (e : Pending) =>
      !(starts.any fun d => d.1 == e) && !(e.ev == .taskRestore && away.any fun t => t.core == e.owner)
    sched := { s.sched with suspended := s.sched.suspended.filter fun t => !away.contains t }
    faultq := s.faultq ++ (starts.map fun d => ⟨d.1.owner, s.openCause, d.2⟩) ++ away.map fun t => ⟨t.core, s.openCause, t.task.run⟩ }

/-- The function whose RESET is complete: its tasks are gone, and the requests that they left are at their ends. -/
def State.resetOver (s : State) : Option Nat :=
  (List.range 16).find? fun f => match (s.fnOf f).resetting with
    | some r => (s.fnCores f).isEmpty && !(s.jobs.any fun (j : Job) => s.sched.left.contains (j.id, f) && !r.earlier.contains j.id)
    | none => false

/-- The slots from the one after a slot to the tail. -/
def slotsTo (n slot tail : Nat) : List Nat :=
  (List.range ((tail + n - (slot + 1) % n) % n)).map fun i => (slot + 1 + i) % n

/-- The end of a function's RESET: 0x08 to the parked entries and to those that stood behind the RESET, each in its own place, then its
own result. A queue that has been disabled meanwhile keeps its CQHEAD (R383). -/
def State.endReset (s : State) (f : Nat) : State :=
  let h := s.fnOf f
  match h.resetting with
  | none => s
  | some r =>
    let s1 := (h.parked.map (·.addr) ++ r.behind).foldl (fun (t : State) a => t.complete f a 8 0) s
    (s1.modFn f fun h => { h with
      parked := [], features := none, stops := [], cqhead := r.tail.getD h.cqhead, resetting := none }).complete f r.entry 0 0

/-- Every graph of a function freezes (R388): in the scheduler's record, and in its header where that can be written (R194). -/
def State.freezeAll (s : State) (f : Nat) : State :=
  (s.sched.graphs.filter fun (g : GraphRec) => g.fn == f).foldl (fun (t : State) (g : GraphRec) => t.setFrozen g.die g.va true) s

/-- RESET of a function (R388): its graphs freeze, its tasks end, and the RESET waits; or a RESET that waits is complete. A scope
above 2 is no scope. -/
def execResetFunction (s : State) : Out :=
  match s.resetOver with
  | some f => .next (s.endReset f)
  | none =>
    s.command .resetFunction "RESET_FUNCTION" ⟨true, none, 3, anyFn, fun f addr e s =>
      if par e 8 1 ≠ 0 then .done 2 0 s
      else
        let earlier := (s.sched.left.filter fun e => e.2 == f).map (·.1)
        let s1 := (s.freezeAll f).endTasks fun _ t => t.fn == f
        let s2 := s1.dropComing fun _ g => g == f
        .later (s2.modFn f fun h =>
          let slot := (addr - h.cqbase) / 64
          { h with resetting := some ⟨addr, (slotsTo (max 1 h.count) slot h.cqtail).map h.entry, some h.cqtail, earlier⟩ })⟩

/-! ### RESET of a die and of the domain (R199, R388) -/

/-- A core at its die's reset: its wear counters stay, and MEMERR counts from now on (R201, R407). -/
def Core.dieReset (c : Core) (passes : Nat) : Core :=
  { Core.reset with scrubBase := passes, wear := c.wear, spare := c.spare, spares := c.spares, rows := c.rows, copyUntil := c.copyUntil }

/-- The vaults of a die hold 0 (R199). -/
def State.clearVaults (s : State) (die : Nat) : State :=
  let hit := fun pa => paDie pa == die && paSpace pa == 0
  { s with mem := s.mem.filter fun e => !hit e.1
           ledger := s.ledger.filter fun r => !hit r.pa
           poison := s.poison.filter fun w => !hit (8 * w)
           soft := s.soft.filter fun w => !hit (8 * w) }

/-- A die that is reset or loses its power: what was to start or to come back on its cores does not, its engines' requests are gone,
and at every member every collective that it has matched; its reset discards those too that still wait for another of their members
(R388, R393, R405; log entry 62). -/
def State.dropDie (s : State) (die : Nat) (reset : Bool) : State :=
  let own := fun (j : Job) => j.owner.die == die
  let ids := (s.jobs.filter own).map (·.id)
  let gone := s.jobs.filter fun (j : Job) => own j || match j.body with
    | .coll k => (reset && k.table.contains die) || k.group.any ids.contains
    | _ => false
  let s1 := s.dropComing fun c _ => c.die == die
  { s1 with
    jobs := s1.jobs.filter fun j => !gone.any fun g => g.id == j.id
    agenda := s1.agenda.filter fun (e : Pending) => match e.arg with | .beat id _ _ => !gone.any fun g => g.id == id | _ => true }.matchAll

/-- The tasks of a die that is reset or fails end as fatally faulted, and hold the other members of their lock groups with reason 6
(log entry 62). -/
def State.endDie (s : State) (die : Nat) : State :=
  let cs := (s.cores.filter fun e => e.1.die == die && e.2.task.isSome).map (·.1)
  let gs := ((cs.filter fun c => (s.core c).isLocked).map fun c => ((s.core c).task.map (·.group)).getD 0).eraseDups
  let s1 := cs.foldl (fun (t : State) c => t.fatalEnd c s.openCause) s
  gs.foldl (fun (t : State) g =>
    let ms := t.groupCores g
    if ms.isEmpty then t else t.startHold 6 (some (g, s.openCause)) ⟨die, 127⟩ ms []) s1

/-- A die's reset (R199, R345, R377, R388): its cores, vaults, chunk counters and frieze registers. -/
def State.resetDie (s : State) (die : Nat) : State :=
  let s2 := s.endDie die
  let s3 := { s2.dropDie die true with
    chunks := s2.chunks.filter fun c => c.1 != die
    ports := s2.ports.filter fun (p : Port) => p.die != die }
  let s4 := { s3 with cores := s3.cores.map fun (e : CoreId × Core) =>
    if e.1.die = die then (e.1, e.2.dieReset (s.scrubs / 131072)) else e }
  (s4.clearVaults die).tick

/-- RESET of a die (R388). -/
def execResetDie (s : State) : Out :=
  s.command .resetDie "RESET_DIE" ⟨true, none, 3, pfOnly, fun _ _ e s =>
    if !s.aligned (par e 9 2) then .done 2 0 s else .done 0 0 (s.resetDie (par e 9 2))⟩

/-- A stage of bring-up begins; the next begins after an open time (log entry 12). -/
def State.bringUp (s : State) (stage : Nat) (next : Instr) (arg : Arg) : State :=
  ((s.modDomain fun d => { d with stage := stage }).scheduleDom ⟨0, 0⟩ (1 + Config.firmwareDelay s.ctr) next arg).tick

/-- A function at a domain reset: its registers stay, its session does not. -/
def HostFn.domainReset (h : HostFn) : HostFn :=
  { h with features := none, parked := [], events := [], resetting := none, stops := [], cores := [], root := 0 }

/-- The domain before ROM boot: what the host has outside the device stays. -/
def State.domainReset (s : State) : State :=
  { State.reset with
    clock := s.clock, seq := s.seq, ctr := s.ctr, cur := s.cur, agenda := [], inputs := s.inputs
    domain := { Domain.zero with hostMem := s.domain.hostMem, fns := s.domain.fns.map HostFn.domainReset, boots := s.domain.boots } }

/-- RESET of the domain (R388): bring-up runs again from ROM boot. The entry completes before. -/
def execResetDomain (s : State) : Out :=
  s.command .resetDomain "RESET_DOMAIN" ⟨true, none, 3, pfOnly, fun f addr _ s =>
    .later ((s.complete f addr 0 0).domainReset.bringUp 1 .fuseRemap .none)⟩

/-! ### The loss of a die (R353, R393) -/

/-- A failed die is without power: its tasks and requests end with it (log entry 62). -/
def State.failDie (s : State) (die : Nat) : State :=
  (({ s with domain := { s.domain with off := setInsert s.domain.off die } }.endDie die).dropDie die false).tick

/-- DIE_LOSS (R353): the hub holds the hold set of every ring of the die with reason 7; while the hold lasts the firmware sets up
the bypass, and releases. -/
def execDieLoss (s : State) : Out :=
  match s.arg with
  | .ids 0 _ =>
    let die := s.cur.die
    if s.domain.off.contains die then .refused (.notPending "DIE_LOSS")
    else
      let s1 := (s.ringsOf die).foldl (fun (t : State) e =>
        let h := t.seq
        let u := t.startHold 7 none ⟨die, 127⟩ [] [e.1.id]
        let d := match u.hold? h with | some k => k.reach | none => 0
        (u.scheduleDom s.cur (d + 1 + Config.firmwareDelay u.ctr) .dieLoss (.ids (e.1.id + 1) h)).tick) s
      .next (s1.failDie die)
  | .ids (r + 1) h =>
    match (s.ringsOf s.cur.die).find? fun e => e.1.id == r with
    | some (g, p) => .next ((s.bypass g p).scheduleDom s.cur 0 .releaseStart (.ids h 0))
    | none => .next (s.scheduleDom s.cur 0 .releaseStart (.ids h 0))
  | _ => .refused (.notPending "DIE_LOSS")

/-! ### Bring-up (R390) -/

/-- POWER_ON: stage 0; where the power fails, which only an input can tell, the stage stays 0 (R390). -/
def execPowerOn (s : State) : Out :=
  if s.arg = .ids 7 0 then
    if s.domain.stage = 0 then .next { s with agenda := s.agenda.filter fun (p : Pending) => p.ev != Instr.romBoot }
    else .refused (.notPending "POWER_ON")
  else if s.domain.stage = 0 ∧ s.modules = 0 then .next (s.bringUp 0 .romBoot .none) else .refused (.notPending "POWER_ON")

/-- ROM_BOOT: stage 1; a failed one, which only an input can tell, ends in stage 7 (R390). -/
def execRomBoot (s : State) : Out :=
  match s.arg with
  | .ids 7 _ =>
    if s.domain.stage = 1 then .next ({ s with agenda := s.agenda.filter fun (p : Pending) => p.ev != Instr.fuseRemap }.modDomain fun d => { d with stage := 7 })
    else .refused (.notPending "ROM_BOOT")
  | _ => if s.domain.stage = 0 then .next (s.bringUp 1 .fuseRemap .none) else .refused (.notPending "ROM_BOOT")

/-- FUSE_REMAP: stage 2; vaults and scratchpads are scrubbed to 0 (R390). -/
def execFuseRemap (s : State) : Out :=
  if s.domain.stage = 1 then .next ({ s with mem := [], ledger := [], poison := [], soft := [] }.bringUp 2 .linkTraining (.ids 0 0))
  else .refused (.notPending "FUSE_REMAP")

/-- LINK_TRAINING: stage 3, and at its end stage 4 (R390). -/
def execLinkTraining (s : State) : Out :=
  match s.arg with
  | .ids 1 _ => if s.domain.stage = 3 then .next (s.bringUp 4 .alignmentBarrier (.ids 0 0)) else .refused (.notPending "LINK_TRAINING")
  | _ => if s.domain.stage = 2 then .next (s.bringUp 3 .linkTraining (.ids 1 0)) else .refused (.notPending "LINK_TRAINING")

/-! ### Thermal steps (R393) -/

/-- THERMAL_STEP (R393): a die nears its limit, or has cooled down; a step takes effect at the next frame boundary. -/
def execThermalStep (s : State) : Out :=
  let die := s.cur.die
  match s.arg with
  | .ids 0 _ =>
    let s1 := s.modDomain fun d => { d with hot := setInsert d.hot die }
    .next (if 700 < s.domain.mhz then s1.scheduleDom s.cur (32768 - s.clock % 32768) .thermalStep (.ids 1 0) else s1)
  | .ids 1 _ =>
    if 700 < s.domain.mhz then
      .next ((s.modDomain fun d => { d with mhz := d.mhz - 100 }).post 0 7 ⟨die, 0⟩ (Config.freeNat s.ctr 393))
    else .next s
  | .ids _ _ => .next (s.modDomain fun d => { d with hot := d.hot.filter (· != die) })
  | _ => .refused (.notPending "THERMAL_STEP")

/-- THERMAL_SHUTDOWN (R393): a die that stays above its limit at 0.7 GHz is powered off, and treated as failed (R353). -/
def execThermalShutdown (s : State) : Out :=
  let d := s.domain
  if d.mhz ≤ 700 ∧ d.hot.contains s.cur.die ∧ ¬ d.off.contains s.cur.die then
    .next ((s.post 0 7 ⟨s.cur.die, 0⟩ (Config.freeNat s.ctr 394)).scheduleDom s.cur 0 .dieLoss (.ids 0 0))
  else .refused (.notPending "THERMAL_SHUTDOWN")

end Sys2Proof.Machine
end

