-- ==== Sys2Proof/Machine/Dispatch.lean ====
section
/-! DEFINITION. One arm per constructor of Instr: the call of its meaning. -/

namespace Sys2Proof.Machine

def exec (i : Instr) (s : State) : Host.Outcome State Fault Refusal :=
  match i with
  | .idle v => Sys2Proof.Machine.execIdle v s
  | .shortParcel m c cl => Sys2Proof.Machine.execShortParcel m c cl s
  | .nop => Sys2Proof.Machine.execNop s
  | .add d a b => Sys2Proof.Machine.execAdd d a b s
  | .sub d a b => Sys2Proof.Machine.execSub d a b s
  | .mul d a b => Sys2Proof.Machine.execMul d a b s
  | .mulh d u a b => Sys2Proof.Machine.execMulh d u a b s
  | .div d u a b => Sys2Proof.Machine.execDiv d u a b s
  | .rem d u a b => Sys2Proof.Machine.execRem d u a b s
  | .and d a b => Sys2Proof.Machine.execAnd d a b s
  | .or d a b => Sys2Proof.Machine.execOr d a b s
  | .xor d a b => Sys2Proof.Machine.execXor d a b s
  | .andn d a b => Sys2Proof.Machine.execAndn d a b s
  | .shl d a b => Sys2Proof.Machine.execShl d a b s
  | .shr d a b => Sys2Proof.Machine.execShr d a b s
  | .sar d a b => Sys2Proof.Machine.execSar d a b s
  | .rol d a b => Sys2Proof.Machine.execRol d a b s
  | .min d u a b => Sys2Proof.Machine.execMin d u a b s
  | .max d u a b => Sys2Proof.Machine.execMax d u a b s
  | .cmp d bound cc a b => Sys2Proof.Machine.execCmp d bound cc a b s
  | .clz d a => Sys2Proof.Machine.execClz d a s
  | .ctz d a => Sys2Proof.Machine.execCtz d a s
  | .popc d a => Sys2Proof.Machine.execPopc d a s
  | .brev d a => Sys2Proof.Machine.execBrev d a s
  | .bfx d u a b => Sys2Proof.Machine.execBfx d u a b s
  | .bfi d a b c => Sys2Proof.Machine.execBfi d a b c s
  | .ext d w u a => Sys2Proof.Machine.execExt d w u a s
  | .move d a => Sys2Proof.Machine.execMove d a s
  | .sel d a b c => Sys2Proof.Machine.execSel d a b c s
  | .madd d a b c => Sys2Proof.Machine.execMadd d a b c s
  | .addi d a imm => Sys2Proof.Machine.execAddi d a imm s
  | .andi d a imm => Sys2Proof.Machine.execAndi d a imm s
  | .ori d a imm => Sys2Proof.Machine.execOri d a imm s
  | .xori d a imm => Sys2Proof.Machine.execXori d a imm s
  | .shli d a imm => Sys2Proof.Machine.execShli d a imm s
  | .shri d a imm => Sys2Proof.Machine.execShri d a imm s
  | .sari d a imm => Sys2Proof.Machine.execSari d a imm s
  | .cmpi d cc a imm => Sys2Proof.Machine.execCmpi d cc a imm s
  | .muli d a imm => Sys2Proof.Machine.execMuli d a imm s
  | .li d imm => Sys2Proof.Machine.execLi d imm s
  | .lih d hi a imm => Sys2Proof.Machine.execLih d hi a imm s
  | .fadd d rm a b => Sys2Proof.Machine.execFadd d rm a b s
  | .fsub d rm a b => Sys2Proof.Machine.execFsub d rm a b s
  | .fmul d rm a b => Sys2Proof.Machine.execFmul d rm a b s
  | .ffma d rm a b c => Sys2Proof.Machine.execFfma d rm a b c s
  | .fdiv d rm a b => Sys2Proof.Machine.execFdiv d rm a b s
  | .fmin d a b => Sys2Proof.Machine.execFmin d a b s
  | .fmax d a b => Sys2Proof.Machine.execFmax d a b s
  | .fcmp d fc a b => Sys2Proof.Machine.execFcmp d fc a b s
  | .fcvt d kind rm a => Sys2Proof.Machine.execFcvt d kind rm a s
  | .fsqrt d rm a => Sys2Proof.Machine.execFsqrt d rm a s
  | .fexp2 d a => Sys2Proof.Machine.execFexp2 d a s
  | .frcp d rm a => Sys2Proof.Machine.execFrcp d rm a s
  | .br cc a b t => Sys2Proof.Machine.execBr cc a b t s
  | .bri cc a imm t => Sys2Proof.Machine.execBri cc a imm t s
  | .call t => Sys2Proof.Machine.execCall t s
  | .ret a => Sys2Proof.Machine.execRet a s
  | .jmpi a p => Sys2Proof.Machine.execJmpi a p s
  | .jtab a b t => Sys2Proof.Machine.execJtab a b t s
  | .bdec k t => Sys2Proof.Machine.execBdec k t s
  | .loopset k b t => Sys2Proof.Machine.execLoopset k b t s
  | .pdisp lane a b t => Sys2Proof.Machine.execPdisp lane a b t s
  | .ld d sz cl off base => Sys2Proof.Machine.execLd d sz cl off base s
  | .lds d sz cl off base => Sys2Proof.Machine.execLds d sz cl off base s
  | .st sz cl data off base => Sys2Proof.Machine.execSt sz cl data off base s
  | .mload a b n => Sys2Proof.Machine.execMload a b n s
  | .mouldf => Sys2Proof.Machine.execMouldf s
  | .getc d r => Sys2Proof.Machine.execGetc d r s
  | .putc r a => Sys2Proof.Machine.execPutc r a s
  | .trap a code => Sys2Proof.Machine.execTrap a code s
  | .brk code => Sys2Proof.Machine.execBrk code s
  | .waitf a => Sys2Proof.Machine.execWaitf a s
  | .sleepu a => Sys2Proof.Machine.execSleepu a s
  | .halt a => Sys2Proof.Machine.execHalt a s
  | .fsc sc => Sys2Proof.Machine.execFsc sc s
  | .mnest a b e n => Sys2Proof.Machine.execMnest a b e n s
  | .mform a r => Sys2Proof.Machine.execMform a r s
  | .mgo => Sys2Proof.Machine.execMgo s
  | .mside a str cl t => Sys2Proof.Machine.execMside a str cl t s
  | .mrsc a mx cl t => Sys2Proof.Machine.execMrsc a mx cl t s
  | .cpy scl dcl pf crc a b c => Sys2Proof.Machine.execCpy scl dcl pf crc a b c s
  | .cbatch => Sys2Proof.Machine.execCbatch s
  | .cwait n => Sys2Proof.Machine.execCwait n s
  | .mark m mask => Sys2Proof.Machine.execMark m mask s
  | .rdvw m mask => Sys2Proof.Machine.execRdvw m mask s
  | .attn cl a => Sys2Proof.Machine.execAttn cl a s
  | .kpos ad cl a b n => Sys2Proof.Machine.execKpos ad cl a b n s
  | .kfork cl a b n => Sys2Proof.Machine.execKfork cl a b n s
  | .kdrop cl a b n => Sys2Proof.Machine.execKdrop cl a b n s
  | .kmap sl cl a b => Sys2Proof.Machine.execKmap sl cl a b s
  | .cfind hold cl a => Sys2Proof.Machine.execCfind hold cl a s
  | .cput hold cl a => Sys2Proof.Machine.execCput hold cl a s
  | .crel a b => Sys2Proof.Machine.execCrel a b s
  | .cstat => Sys2Proof.Machine.execCstat s
  | .coll cl a => Sys2Proof.Machine.execColl cl a s
  | .tspawn node a b => Sys2Proof.Machine.execTspawn node a b s
  | .phint line => Sys2Proof.Machine.execPhint line s
  | .cresize n => Sys2Proof.Machine.execCresize n s
  | .prow cnt lane a => Sys2Proof.Machine.execProw cnt lane a s
  | .pdone op lane a b c => Sys2Proof.Machine.execPdone op lane a b c s
  | .xnop => Sys2Proof.Machine.execXnop s
  | .vadd vd p fmt rm a b => Sys2Proof.Machine.execVadd vd p fmt rm a b s
  | .vsub vd p fmt rm a b => Sys2Proof.Machine.execVsub vd p fmt rm a b s
  | .vmul vd p fmt rm a b => Sys2Proof.Machine.execVmul vd p fmt rm a b s
  | .vfma vd p fmt rm a b c => Sys2Proof.Machine.execVfma vd p fmt rm a b c s
  | .vfms vd p fmt rm a b c => Sys2Proof.Machine.execVfms vd p fmt rm a b c s
  | .vfnma vd p fmt rm a b c => Sys2Proof.Machine.execVfnma vd p fmt rm a b c s
  | .vmin vd p fmt a b => Sys2Proof.Machine.execVmin vd p fmt a b s
  | .vmax vd p fmt a b => Sys2Proof.Machine.execVmax vd p fmt a b s
  | .vabs vd p fmt a => Sys2Proof.Machine.execVabs vd p fmt a s
  | .vneg vd p fmt a => Sys2Proof.Machine.execVneg vd p fmt a s
  | .vdiv vd p fmt rm a b => Sys2Proof.Machine.execVdiv vd p fmt rm a b s
  | .vsqrt vd p fmt rm a => Sys2Proof.Machine.execVsqrt vd p fmt rm a s
  | .vrcp vd p fmt rm a => Sys2Proof.Machine.execVrcp vd p fmt rm a s
  | .vrsq vd p fmt rm a => Sys2Proof.Machine.execVrsq vd p fmt rm a s
  | .vexp2 vd p fmt a => Sys2Proof.Machine.execVexp2 vd p fmt a s
  | .vlog2 vd p fmt rm a => Sys2Proof.Machine.execVlog2 vd p fmt rm a s
  | .vclamp vd p fmt a b c => Sys2Proof.Machine.execVclamp vd p fmt a b c s
  | .vrope vd p fmt a b c => Sys2Proof.Machine.execVrope vd p fmt a b c s
  | .viadd vd p fmt sat a b => Sys2Proof.Machine.execViadd vd p fmt sat a b s
  | .visub vd p fmt sat a b => Sys2Proof.Machine.execVisub vd p fmt sat a b s
  | .vimul vd p fmt sat a b => Sys2Proof.Machine.execVimul vd p fmt sat a b s
  | .vimulh vd p fmt a b => Sys2Proof.Machine.execVimulh vd p fmt a b s
  | .vimin vd p fmt a b => Sys2Proof.Machine.execVimin vd p fmt a b s
  | .vimax vd p fmt a b => Sys2Proof.Machine.execVimax vd p fmt a b s
  | .vand vd p fmt a b => Sys2Proof.Machine.execVand vd p fmt a b s
  | .vor vd p fmt a b => Sys2Proof.Machine.execVor vd p fmt a b s
  | .vxor vd p fmt a b => Sys2Proof.Machine.execVxor vd p fmt a b s
  | .vandn vd p fmt a b => Sys2Proof.Machine.execVandn vd p fmt a b s
  | .vshl vd p fmt a b => Sys2Proof.Machine.execVshl vd p fmt a b s
  | .vshr vd p fmt a b => Sys2Proof.Machine.execVshr vd p fmt a b s
  | .vsar vd p fmt a b => Sys2Proof.Machine.execVsar vd p fmt a b s
  | .vpopc vd p fmt a => Sys2Proof.Machine.execVpopc vd p fmt a s
  | .vclz vd p fmt a => Sys2Proof.Machine.execVclz vd p fmt a s
  | .visat vd p fmt tgt a => Sys2Proof.Machine.execVisat vd p fmt tgt a s
  | .vaddi vd p fmt rm a imm => Sys2Proof.Machine.execVaddi vd p fmt rm a imm s
  | .vmuli vd p fmt rm a imm => Sys2Proof.Machine.execVmuli vd p fmt rm a imm s
  | .viaddi vd p fmt sat a imm => Sys2Proof.Machine.execViaddi vd p fmt sat a imm s
  | .vandi vd p fmt a imm => Sys2Proof.Machine.execVandi vd p fmt a imm s
  | .vori vd p fmt a imm => Sys2Proof.Machine.execVori vd p fmt a imm s
  | .vshli vd p fmt a imm => Sys2Proof.Machine.execVshli vd p fmt a imm s
  | .vshri vd p fmt a imm => Sys2Proof.Machine.execVshri vd p fmt a imm s
  | .vcvt vd p fmt rm dst a => Sys2Proof.Machine.execVcvt vd p fmt rm dst a s
  | .vpack vd p fmt rm dst q a b c => Sys2Proof.Machine.execVpack vd p fmt rm dst q a b c s
  | .vunpk vd p fmt rm dst q a => Sys2Proof.Machine.execVunpk vd p fmt rm dst q a s
  | .vcbdec vd p fmt g a => Sys2Proof.Machine.execVcbdec vd p fmt g a s
  | .vscale vd p fmt rm a b => Sys2Proof.Machine.execVscale vd p fmt rm a b s
  | .vkeyx vd p fmt inv a => Sys2Proof.Machine.execVkeyx vd p fmt inv a s
  | .vdigit vd p fmt d8 a b => Sys2Proof.Machine.execVdigit vd p fmt d8 a b s
  | .vcmp pd pa cop fmt h a b => Sys2Proof.Machine.execVcmp pd pa cop fmt h a b s
  | .vcmpi pd pa cop fmt a imm => Sys2Proof.Machine.execVcmpi pd pa cop fmt a imm s
  | .pand pd pa pb => Sys2Proof.Machine.execPand pd pa pb s
  | .por pd pa pb => Sys2Proof.Machine.execPor pd pa pb s
  | .pxor pd pa pb => Sys2Proof.Machine.execPxor pd pa pb s
  | .pnot pd pa => Sys2Proof.Machine.execPnot pd pa s
  | .pcnt pa => Sys2Proof.Machine.execPcnt pa s
  | .pfirst pd pa => Sys2Proof.Machine.execPfirst pd pa s
  | .vrsum vd p fmt x a => Sys2Proof.Machine.execVrsum vd p fmt x a s
  | .vrmax vd p fmt x a => Sys2Proof.Machine.execVrmax vd p fmt x a s
  | .vrmin vd p fmt x a => Sys2Proof.Machine.execVrmin vd p fmt x a s
  | .vargmax vd p fmt x a => Sys2Proof.Machine.execVargmax vd p fmt x a s
  | .vargmin vd p fmt x a => Sys2Proof.Machine.execVargmin vd p fmt x a s
  | .vscan vd p fmt a => Sys2Proof.Machine.execVscan vd p fmt a s
  | .vhist vd p fmt a b => Sys2Proof.Machine.execVhist vd p fmt a b s
  | .vmov vd p fmt a => Sys2Proof.Machine.execVmov vd p fmt a s
  | .vsel vd p fmt a b c => Sys2Proof.Machine.execVsel vd p fmt a b c s
  | .vperm vd p fmt a b => Sys2Proof.Machine.execVperm vd p fmt a b s
  | .vrot vd p fmt a b => Sys2Proof.Machine.execVrot vd p fmt a b s
  | .vbcast vd p fmt a b => Sys2Proof.Machine.execVbcast vd p fmt a b s
  | .vcompress vd p fmt x a => Sys2Proof.Machine.execVcompress vd p fmt x a s
  | .vexpand vd p fmt a b => Sys2Proof.Machine.execVexpand vd p fmt a b s
  | .vlane fmt a k => Sys2Proof.Machine.execVlane fmt a k s
  | .vins vd p fmt a b k => Sys2Proof.Machine.execVins vd p fmt a b k s
  | .defer a b p => Sys2Proof.Machine.execDefer a b p s
  | .drain vd dsel => Sys2Proof.Machine.execDrain vd dsel s
  | .dcount => Sys2Proof.Machine.execDcount s
  | .dclear => Sys2Proof.Machine.execDclear s
  | .accrd vd acc row p fmt => Sys2Proof.Machine.execAccrd vd acc row p fmt s
  | .accwr v acc row p fmt => Sys2Proof.Machine.execAccwr v acc row p fmt s
  | .accz acc => Sys2Proof.Machine.execAccz acc s
  | .siderd vd acc p sum => Sys2Proof.Machine.execSiderd vd acc p sum s
  | .xjmp t => Sys2Proof.Machine.execXjmp t s
  | .xbdec k t => Sys2Proof.Machine.execXbdec k t s
  | .xloopset k n t => Sys2Proof.Machine.execXloopset k n t s
  | .xbany p t => Sys2Proof.Machine.execXbany p t s
  | .xbnone p t => Sys2Proof.Machine.execXbnone p t s
  | .xmouldf => Sys2Proof.Machine.execXmouldf s
  | .lnop => Sys2Proof.Machine.execLnop s
  | .ldq oq a cl fmt cnt inc imm => Sys2Proof.Machine.execLdq oq a cl fmt cnt inc imm s
  | .ldqb oq a cl fmt inc imm => Sys2Proof.Machine.execLdqb oq a cl fmt inc imm s
  | .ldqs oq a cl fmt cnt inc imm => Sys2Proof.Machine.execLdqs oq a cl fmt cnt inc imm s
  | .ldqg oq ag cl fmt cb => Sys2Proof.Machine.execLdqg oq ag cl fmt cb s
  | .lgen oq ag cl fmt si => Sys2Proof.Machine.execLgen oq ag cl fmt si s
  | .ldqk oq a cl fmt t g => Sys2Proof.Machine.execLdqk oq a cl fmt t g s
  | .lpf a cl cnt inc imm => Sys2Proof.Machine.execLpf a cl cnt inc imm s
  | .agset ag grp => Sys2Proof.Machine.execAgset ag grp s
  | .agidx ag => Sys2Proof.Machine.execAgidx ag s
  | .agrst ag => Sys2Proof.Machine.execAgrst ag s
  | .laddi ad as imm => Sys2Proof.Machine.execLaddi ad as imm s
  | .lmovi ad imm => Sys2Proof.Machine.execLmovi ad imm s
  | .ladd ad as => Sys2Proof.Machine.execLadd ad as s
  | .lpopc ad => Sys2Proof.Machine.execLpopc ad s
  | .lgcb cb => Sys2Proof.Machine.execLgcb cb s
  | .cbclr cb => Sys2Proof.Machine.execCbclr cb s
  | .cbget cb => Sys2Proof.Machine.execCbget cb s
  | .ljmp t => Sys2Proof.Machine.execLjmp t s
  | .lbdec k t => Sys2Proof.Machine.execLbdec k t s
  | .lloopset k n t => Sys2Proof.Machine.execLloopset k n t s
  | .lmouldf => Sys2Proof.Machine.execLmouldf s
  | .snop => Sys2Proof.Machine.execSnop s
  | .stq sq b cl fmt inc imm => Sys2Proof.Machine.execStq sq b cl fmt inc imm s
  | .stqs sq b cl fmt inc imm => Sys2Proof.Machine.execStqs sq b cl fmt inc imm s
  | .stqg sq b cl fmt imm => Sys2Proof.Machine.execStqg sq b cl fmt imm s
  | .sgen sq b cl fmt sp si stride => Sys2Proof.Machine.execSgen sq b cl fmt sp si stride s
  | .stn sq b cl fmt step off h => Sys2Proof.Machine.execStn sq b cl fmt step off h s
  | .aadd b cl fmt rt d64 off => Sys2Proof.Machine.execAadd b cl fmt rt d64 off s
  | .afadd b cl fmt rt d64 off => Sys2Proof.Machine.execAfadd b cl fmt rt d64 off s
  | .amax b cl fmt rt d64 off => Sys2Proof.Machine.execAmax b cl fmt rt d64 off s
  | .amin b cl fmt rt d64 off => Sys2Proof.Machine.execAmin b cl fmt rt d64 off s
  | .aand b cl fmt rt d64 off => Sys2Proof.Machine.execAand b cl fmt rt d64 off s
  | .aor b cl fmt rt d64 off => Sys2Proof.Machine.execAor b cl fmt rt d64 off s
  | .axor b cl fmt rt d64 off => Sys2Proof.Machine.execAxor b cl fmt rt d64 off s
  | .axchg b cl fmt rt d64 off => Sys2Proof.Machine.execAxchg b cl fmt rt d64 off s
  | .acas b cl fmt rt d64 off => Sys2Proof.Machine.execAcas b cl fmt rt d64 off s
  | .ahist sq b cl fmt off => Sys2Proof.Machine.execAhist sq b cl fmt off s
  | .acq b cl gen off => Sys2Proof.Machine.execAcq b cl gen off s
  | .tryacq b cl gen off => Sys2Proof.Machine.execTryacq b cl gen off s
  | .rel b cl off => Sys2Proof.Machine.execRel b cl off s
  | .sobind b cl slot off => Sys2Proof.Machine.execSobind b cl slot off s
  | .tcinc c n => Sys2Proof.Machine.execTcinc c n s
  | .saddi ad as imm => Sys2Proof.Machine.execSaddi ad as imm s
  | .smovi ad imm => Sys2Proof.Machine.execSmovi ad imm s
  | .sadd ad as => Sys2Proof.Machine.execSadd ad as s
  | .spopc ad => Sys2Proof.Machine.execSpopc ad s
  | .sjmp t => Sys2Proof.Machine.execSjmp t s
  | .sbdec k t => Sys2Proof.Machine.execSbdec k t s
  | .sloopset k n t => Sys2Proof.Machine.execSloopset k n t s
  | .smouldf => Sys2Proof.Machine.execSmouldf s
  | .resultLanding => Sys2Proof.Machine.execResultLanding s
  | .channelEntryLanding => Sys2Proof.Machine.execChannelEntryLanding s
  | .accessPerform => Sys2Proof.Machine.execAccessPerform s
  | .translationWalkEnd => Sys2Proof.Machine.execTranslationWalkEnd s
  | .joinedGroupStart => Sys2Proof.Machine.execJoinedGroupStart s
  | .taskLaunch => Sys2Proof.Machine.execTaskLaunch s
  | .taskEnd => Sys2Proof.Machine.execTaskEnd s
  | .deadline => Sys2Proof.Machine.execDeadline s
  | .frameBoundary => Sys2Proof.Machine.execFrameBoundary s
  | .sleepuWake => Sys2Proof.Machine.execSleepuWake s
  | .waitfWake => Sys2Proof.Machine.execWaitfWake s
  | .rdvwWake => Sys2Proof.Machine.execRdvwWake s
  | .cwaitWake => Sys2Proof.Machine.execCwaitWake s
  | .cstatWake => Sys2Proof.Machine.execCstatWake s
  | .fenceComplete => Sys2Proof.Machine.execFenceComplete s
  | .mouldEntryWrite => Sys2Proof.Machine.execMouldEntryWrite s
  | .formatQueueEntry => Sys2Proof.Machine.execFormatQueueEntry s
  | .tctlResume => Sys2Proof.Machine.execTctlResume s
  | .tctlEnd => Sys2Proof.Machine.execTctlEnd s
  | .handlerModeEnd => Sys2Proof.Machine.execHandlerModeEnd s
  | .supervisorDisposition => Sys2Proof.Machine.execSupervisorDisposition s
  | .holdReachesMember => Sys2Proof.Machine.execHoldReachesMember s
  | .releaseStart => Sys2Proof.Machine.execReleaseStart s
  | .releaseReachesMember => Sys2Proof.Machine.execReleaseReachesMember s
  | .landingBufferArrival => Sys2Proof.Machine.execLandingBufferArrival s
  | .vaultOverrun => Sys2Proof.Machine.execVaultOverrun s
  | .releasePoint => Sys2Proof.Machine.execReleasePoint s
  | .acqPerform => Sys2Proof.Machine.execAcqPerform s
  | .acqSuccess => Sys2Proof.Machine.execAcqSuccess s
  | .tryacqPerform => Sys2Proof.Machine.execTryacqPerform s
  | .sobindPerform => Sys2Proof.Machine.execSobindPerform s
  | .atomicPerform => Sys2Proof.Machine.execAtomicPerform s
  | .ahistPerform => Sys2Proof.Machine.execAhistPerform s
  | .markerRetire => Sys2Proof.Machine.execMarkerRetire s
  | .scrubStep => Sys2Proof.Machine.execScrubStep s
  | .cresizeStart => Sys2Proof.Machine.execCresizeStart s
  | .cresizeComplete => Sys2Proof.Machine.execCresizeComplete s
  | .copyBeatRead => Sys2Proof.Machine.execCopyBeatRead s
  | .copyBeatWrite => Sys2Proof.Machine.execCopyBeatWrite s
  | .copyComplete => Sys2Proof.Machine.execCopyComplete s
  | .matrixCommandStart => Sys2Proof.Machine.execMatrixCommandStart s
  | .matrixBlockRead => Sys2Proof.Machine.execMatrixBlockRead s
  | .matrixBlockAdd => Sys2Proof.Machine.execMatrixBlockAdd s
  | .matrixScoreStep => Sys2Proof.Machine.execMatrixScoreStep s
  | .msideLoadWrite => Sys2Proof.Machine.execMsideLoadWrite s
  | .mrscWrite => Sys2Proof.Machine.execMrscWrite s
  | .ldqkEntryRead => Sys2Proof.Machine.execLdqkEntryRead s
  | .pageEntryRead => Sys2Proof.Machine.execPageEntryRead s
  | .pageEntryApply => Sys2Proof.Machine.execPageEntryApply s
  | .kmapWrite => Sys2Proof.Machine.execKmapWrite s
  | .attnStart => Sys2Proof.Machine.execAttnStart s
  | .attnBlockRead => Sys2Proof.Machine.execAttnBlockRead s
  | .attnOperandRead => Sys2Proof.Machine.execAttnOperandRead s
  | .attnEntryRead => Sys2Proof.Machine.execAttnEntryRead s
  | .attnBitmapRead => Sys2Proof.Machine.execAttnBitmapRead s
  | .attnSignatureRead => Sys2Proof.Machine.execAttnSignatureRead s
  | .attnPageRead => Sys2Proof.Machine.execAttnPageRead s
  | .attnComplete => Sys2Proof.Machine.execAttnComplete s
  | .castRequestStart => Sys2Proof.Machine.execCastRequestStart s
  | .castStartStep => Sys2Proof.Machine.execCastStartStep s
  | .castChunkStep => Sys2Proof.Machine.execCastChunkStep s
  | .castProbeStep => Sys2Proof.Machine.execCastProbeStep s
  | .castConfirmStep => Sys2Proof.Machine.execCastConfirmStep s
  | .castAllocateStep => Sys2Proof.Machine.execCastAllocateStep s
  | .castEvictStep => Sys2Proof.Machine.execCastEvictStep s
  | .castDepositStep => Sys2Proof.Machine.execCastDepositStep s
  | .castRequestFinish => Sys2Proof.Machine.execCastRequestFinish s
  | .nodeDispatch => Sys2Proof.Machine.execNodeDispatch s
  | .controlNodeEvaluate => Sys2Proof.Machine.execControlNodeEvaluate s
  | .placementClaim => Sys2Proof.Machine.execPlacementClaim s
  | .placementReply => Sys2Proof.Machine.execPlacementReply s
  | .placementGo => Sys2Proof.Machine.execPlacementGo s
  | .errorTokenStep => Sys2Proof.Machine.execErrorTokenStep s
  | .tspawnApply => Sys2Proof.Machine.execTspawnApply s
  | .preemptStop => Sys2Proof.Machine.execPreemptStop s
  | .saveBeat => Sys2Proof.Machine.execSaveBeat s
  | .saveComplete => Sys2Proof.Machine.execSaveComplete s
  | .taskRestore => Sys2Proof.Machine.execTaskRestore s
  | .slotBoundary => Sys2Proof.Machine.execSlotBoundary s
  | .mapPublish => Sys2Proof.Machine.execMapPublish s
  | .panelBeatSend => Sys2Proof.Machine.execPanelBeatSend s
  | .panelBeatLand => Sys2Proof.Machine.execPanelBeatLand s
  | .pdoneApply => Sys2Proof.Machine.execPdoneApply s
  | .dieLoss => Sys2Proof.Machine.execDieLoss s
  | .flitArrival => Sys2Proof.Machine.execFlitArrival s
  | .slackSlotRetry => Sys2Proof.Machine.execSlackSlotRetry s
  | .retryOverrun => Sys2Proof.Machine.execRetryOverrun s
  | .alignmentFlit => Sys2Proof.Machine.execAlignmentFlit s
  | .alignmentBarrier => Sys2Proof.Machine.execAlignmentBarrier s
  | .collBlockRead => Sys2Proof.Machine.execCollBlockRead s
  | .collMemberStart => Sys2Proof.Machine.execCollMemberStart s
  | .collSourceBeat => Sys2Proof.Machine.execCollSourceBeat s
  | .collDestBeat => Sys2Proof.Machine.execCollDestBeat s
  | .collComplete => Sys2Proof.Machine.execCollComplete s
  | .chunkRelease => Sys2Proof.Machine.execChunkRelease s
  | .tcincApply => Sys2Proof.Machine.execTcincApply s
  | .cqtailDoorbell => Sys2Proof.Machine.execCqtailDoorbell s
  | .cqctlWrite => Sys2Proof.Machine.execCqctlWrite s
  | .devstatClear => Sys2Proof.Machine.execDevstatClear s
  | .hostBar2Read => Sys2Proof.Machine.execHostBar2Read s
  | .hostBar2Write => Sys2Proof.Machine.execHostBar2Write s
  | .identify => Sys2Proof.Machine.execIdentify s
  | .negotiate => Sys2Proof.Machine.execNegotiate s
  | .resetFunction => Sys2Proof.Machine.execResetFunction s
  | .resetDie => Sys2Proof.Machine.execResetDie s
  | .resetDomain => Sys2Proof.Machine.execResetDomain s
  | .writeCmd => Sys2Proof.Machine.execWriteCmd s
  | .readCmd => Sys2Proof.Machine.execReadCmd s
  | .mapCmd => Sys2Proof.Machine.execMapCmd s
  | .unmapCmd => Sys2Proof.Machine.execUnmapCmd s
  | .launchGraph => Sys2Proof.Machine.execLaunchGraph s
  | .freezeGraph => Sys2Proof.Machine.execFreezeGraph s
  | .freeGraph => Sys2Proof.Machine.execFreeGraph s
  | .query => Sys2Proof.Machine.execQuery s
  | .friezeForm => Sys2Proof.Machine.execFriezeForm s
  | .friezeLoad => Sys2Proof.Machine.execFriezeLoad s
  | .alignCmd => Sys2Proof.Machine.execAlignCmd s
  | .remapSpares => Sys2Proof.Machine.execRemapSpares s
  | .counters => Sys2Proof.Machine.execCounters s
  | .haltCommand => Sys2Proof.Machine.execHaltCommand s
  | .haltCommandComplete => Sys2Proof.Machine.execHaltCommandComplete s
  | .resume => Sys2Proof.Machine.execResume s
  | .peek => Sys2Proof.Machine.execPeek s
  | .poke => Sys2Proof.Machine.execPoke s
  | .eventCmd => Sys2Proof.Machine.execEventCmd s
  | .eventPost => Sys2Proof.Machine.execEventPost s
  | .powerOn => Sys2Proof.Machine.execPowerOn s
  | .romBoot => Sys2Proof.Machine.execRomBoot s
  | .fuseRemap => Sys2Proof.Machine.execFuseRemap s
  | .linkTraining => Sys2Proof.Machine.execLinkTraining s
  | .spareRemapApply => Sys2Proof.Machine.execSpareRemapApply s
  | .thermalStep => Sys2Proof.Machine.execThermalStep s
  | .thermalShutdown => Sys2Proof.Machine.execThermalShutdown s
  | .reservedOpcode => Sys2Proof.Machine.execReservedOpcode s
  | .reservedCommand => Sys2Proof.Machine.execReservedCommand s

end Sys2Proof.Machine
end

