-- ==== Sys2Proof/Machine/Cycle.lean ====
section
/-! DEFINITION. What a cycle is made of: the coming event that is due, the event that the state itself brings about, the items that
reach issue and issue (R24 to R27, R121, R122), and the cycles that pass until the next of these. -/

namespace Sys2Proof.Machine

open Sys2Proof

/-! ### Items reach issue (R22 to R27) -/

/-- A fault found as an item reaches issue: TINFO is none where no rule gives it. -/
structure EFault where
  cause : Cause
  tinfo : Option Word
  pos : Pos
  deriving DecidableEq, Repr

/-- Items of the core may reach issue and issue: its clock runs, and no drain and no coming end of handler mode forbids it
(R304, R308, R310, R327); a handler runs although its task drains (log entry 98). -/
def Core.issues (c : Core) : Bool :=
  c.task.isSome &&
  (match c.ctx.trapped with
   | some (.handler h) => h.action.isNone && c.ctx.pause.isNone
   | _ => c.ctx.drain.isNone && !c.tauStands)

/-- The cluster's stream runs, and issues in the core's present mode (R308). -/
def Core.active (c : Core) (cl : Cluster) : Bool :=
  (c.stream cl).mode == .run && (cl == .c || !c.inHandler)

/-- The stream of a cluster is changed. -/
def State.modStream (s : State) (id : CoreId) (cl : Cluster) (f : Stream → Stream) : State :=
  s.modCore id fun c => c.setStream cl (f (c.stream cl))

/-- The line that a stream stands before is entered (R24, R28, R126), a single-bit error in its link word corrected (R210); a line left
by its last item's padding leads on to the next. -/
def State.enter (s0 : State) (id : CoreId) (cl : Cluster) : Nat → State × Option EFault
  | 0 => (s0, none)
  | fuel + 1 =>
    let st := (s0.core id).stream cl
    if !st.entering then (s0, none)
    else
      let s := s0.correct (s0.linkPas id st.line)
      let c := s.core id
      match s.enterLine id c cl st.line st.parcel with
      | .fault cause => (s, some ⟨cause, none, c.posOf cl⟩)
      | .ends => (s.modStream id cl fun st => { st with mode := .ended, reach := s.itemCycle id, entering := false }, none)
      | .joined g => (s.modStream id cl fun st => { st with mode := .arrived g, entering := false }, none)
      | .handlerJoined => (s, some ⟨.joinForm, some (joinInfo 9 (st.line % 4) (st.line / 4)), c.posOf cl⟩)
      | .absentJoined => (s, some ⟨.joinForm, some (joinInfo 8 (st.line % 4) (st.line / 4)), c.posOf cl⟩)
      | .item q =>
        if q < 32 then (s.modStream id cl fun st => { st with parcel := q, entering := false }, none)
        else (s.modStream id cl fun st => { st with line := linkNext (s.link id st.line), parcel := 2 }).enter id cl fuel

/-- An item is latched, to issue in a cycle. -/
def State.latch (s : State) (id : CoreId) (cl : Cluster) (i : Nat) (l : Latched) : State :=
  s.modStream id cl fun st => { st with latched := some (i, l) }

/-- The issue cycle of a long word that reaches issue (R25, R27, R309). -/
def State.timing (s : State) (id : CoreId) (cl : Cluster) (w : Nat) : Except EFault Nat :=
  let c := s.core id
  let t := fld w 46 15
  let pos := c.posOf cl
  let now := s.itemCycle id
  match fld w 61 2 with
  | 0 => .ok ((c.stream cl).reach + t)
  | 1 =>
    let f := s.framecnt id % 32768
    if c.inHandler || c.isFree then .error ⟨.illegal, none, pos⟩
    else if f ≤ t then .ok (now + (t - f)) else .error ⟨.stampLate, some (lateInfo t 1 (f - t)), pos⟩
  | 2 =>
    let d := c.ctx.sys.tbase.toNat + t
    if c.inHandler then .error ⟨.illegal, none, pos⟩
    else if now ≤ d then .ok d else .error ⟨.stampLate, some (lateInfo t 2 (now - d)), pos⟩
  | _ => .error ⟨.illegal, none, pos⟩

/-- The state in which a cluster's item, or a core's event, comes about. -/
def State.acting (s : State) (id : CoreId) (cl : Cluster) : State :=
  { s with cur := id, curCl := cl, raised := none, walked := false, away := none }

/-- The bytes of the item that a cluster is at. -/
def State.fetchPas (s : State) (id : CoreId) (cl : Cluster) : List Nat :=
  let c := s.core id
  let a := padBase id + c.ctx.sys.imagebase.toNat + 64 * (c.stream cl).line
  pasFrom (a + 2 * (c.stream cl).parcel) (2 * min 4 (32 - (c.stream cl).parcel))

/-- The item of a cluster reaches issue: its line is entered, and the item is latched with its issue cycle, or a fault is found.
Single-bit errors in what is fetched are corrected (R210). -/
def State.reachItem (s : State) (id : CoreId) (cl : Cluster) : State × Option EFault :=
  match s.enter id cl 3 with
  | (s1, some f) => (s1, some f)
  | (s0, none) =>
    let s1 := s0.correct (s0.fetchPas id cl)
    let c := s1.core id
    let st := c.stream cl
    if st.mode ≠ .run then (s1, none)
    else match decodeItem st.parcel (s1.parcelsFrom id st.line st.parcel) with
      | .ok (.idle v) => (s1.latch id cl (st.reach + v.toNat) (.idle v), none)
      | .ok (.short m v) =>
        (match exec (.shortParcel m v cl) (s1.acting id cl) with
         | .next t => (match t.raised with
            | some (cause, info, pos) => (s1, some ⟨cause, some info, pos⟩)
            | none => (t, none))
         | _ => (s1, some ⟨.illegal, none, c.posOf cl⟩))
      | .ok (.long w) =>
        (match s1.timing id cl w with
         | .ok i => (s1.latch id cl i (.word w), none)
         | .error f => (s1, some f))
      | _ => (s1, some ⟨.illegal, none, c.posOf cl⟩)

/-- The item of the cluster reaches issue now. -/
def State.reaches (s : State) (id : CoreId) (cl : Cluster) : Bool :=
  let c := s.core id
  c.active cl && (c.stream cl).latched.isNone && decide ((c.stream cl).reach ≤ s.itemCycle id)

/-- The latched item of the cluster that issues now. -/
def State.dueItem (s : State) (id : CoreId) (cl : Cluster) : Option Latched :=
  let c := s.core id
  if c.active cl then
    match (c.stream cl).latched with
    | some (i, l) => if i ≤ s.itemCycle id then some l else none
    | none => none
  else none

/-- The rendezvous of a core that fails now: a cluster waits, and another waits at another group, or has ended, be it before the
first arrived (R126; log entry 86). The cluster that waited is named (log entry 79). -/
def State.rendezvousFails (s : State) (id : CoreId) : Option EFault :=
  let c := s.core id
  match if c.inHandler then none else c.longestWait with
  | some (cl, k, g, _) =>
    if clusterOrder.any fun k => match (c.stream k).mode with
        | .arrived h => h != g
        | .ended => decide ((c.stream k).reach ≤ c.ctx.tau)
        | _ => false
    then some ⟨.joinForm, some (joinInfo 4 k g), ⟨cl, 4 * g + k, 2⟩⟩ else none
  | none => none

/-- The start of a group that fails as its last lines are entered: clusters wait at the group, and each other one enters in this
cycle its line of the group, which carries J = 0 (R123 reason 1, R126). -/
def State.startFails (s : State) (id : CoreId) (entered : List Cluster) : Option EFault :=
  let c := s.core id
  match (if c.inHandler then [] else lineClusters).findSome? fun e => match (c.stream e.1).mode with | .arrived g => some g | _ => none with
  | none => none
  | some g =>
    let entersIt := fun (e : Cluster × Nat) => (c.stream e.1).mode == .run && (c.stream e.1).line == 4 * g + e.2 && entered.contains e.1
    if (lineClusters.all fun e => (c.stream e.1).mode == .arrived g || entersIt e) && lineClusters.any entersIt then
      (s.groupFault id c g).map fun (cause, reason, k) =>
        ⟨cause, if cause = .joinForm then some (joinInfo reason k g) else none, ⟨(lineClusters.getD k (.c, 0)).1, 4 * g + k, 2⟩⟩
    else none

/-- A fault found at E is raised. -/
def State.raiseE (s : State) (id : CoreId) (f : EFault) : State :=
  match f.tinfo with
  | some info => s.raise id f.cause info f.pos
  | none => s.tick.raise id f.cause s.freeTinfo f.pos

/-- The stop that a TRAP or BREAK asked for is due (R108). -/
def State.stopDue (s : State) (id : CoreId) : Bool :=
  let c := s.core id
  c.stopComes && decide ((c.stream .c).reach ≤ s.itemCycle id)

/-- Something of the core's streams comes about in this cycle. -/
def State.issueDue (s : State) (id : CoreId) : Bool :=
  (s.core id).issues && (s.stopDue id || clusterOrder.any (fun cl => s.reaches id cl || (s.dueItem id cl).isSome) || (s.rendezvousFails id).isSome)

/-! ### Issue (R121, R122) -/

/-- The instruction that a latched item is, as its cluster reads it (R33, R50). -/
def Latched.instr (cl : Cluster) : Latched → Instr
  | .idle v => .idle v
  | .word w => match decodeWord cl w with | .ok lw => lw.instr | .error _ => .reservedOpcode

/-- A stop of one cluster's item stops the items of all of them in the cycle: it is taken in the state before any issued (R122);
what the item itself does before it stops stays (R165, R171). -/
def State.stopCycle (s0 : State) (id : CoreId) (cl : Cluster) (i : Instr) (t : State) : State :=
  match exec i (s0.acting id cl) with
  | .next u => if u.raised = t.raised ∧ u.walked = t.walked then u
    else match t.raised with
      | some (cause, info, pos) => s0.raise id cause info pos
      | none => { s0 with cores := setCoreIn s0.cores id (t.core id), agenda := t.agenda, seq := t.seq }
  | _ => t

/-- The items of a cycle issue in the order of their clusters. -/
def State.issueAll (s0 : State) (id : CoreId) : List (Cluster × Option EFault × Option Latched) → State → Out
  | [], s => .next s
  | (_, some f, _) :: _, _ => .next (s0.raiseE id f)
  | (_, none, none) :: rest, s => s0.issueAll id rest s
  | (cl, none, some l) :: rest, s =>
    match exec (l.instr cl) (s.acting id cl) with
    | .next t => if t.raised.isSome || t.walked then .next (s0.stopCycle id cl (l.instr cl) t) else s0.issueAll id rest t
    | o => o

/-- The translations found for the items that have issued are forgotten (R207), and a HALT's end of every stream stands (R29). -/
def State.afterIssue (s : State) (id : CoreId) (some_ : Bool) : State :=
  let c := s.core id
  if !some_ || (c.ctx.found.isEmpty && c.ctx.walkFail.isNone && !(c.task.any fun t => t.halted)) then s
  else
    let c1 := c.modCtx fun x => { x with found := [], walkFail := none }
    s.setCore id (if c1.task.any fun t => t.halted then c1.haltAll c1.ctx.tau else c1)

/-- The checks of R241 that the next C item's reaching issue makes, and the stop of a TRAP or BREAK, before anything of the cycle. -/
def State.checkCopies (s : State) (id : CoreId) : State :=
  let st := (s.core id).stream .c
  match st.check with
  | some (kind, v) =>
    if s.stopDue id then (s.modStream id .c fun st => { st with check := none }).askedStop id kind v
    else if s.reaches id .c && decide (kind < 3) then
      let q := if st.entering then (s.nextItem id st.line st.parcel).getD st.parcel else st.parcel
      (s.modStream id .c fun st => { st with check := none, parcel := q }).copyCheck id kind v
    else s
  | none => s

/-- A cycle's issue in a core (R121, R122). -/
def State.issueCycle (s : State) (id : CoreId) : Out :=
  let s1 := (s.acting id .c).checkCopies id
  if s1.raised.isSome then .next s1
  else
    let step1 := fun (p : State × List (Cluster × Option EFault)) cl =>
      if p.1.reaches id cl then let (t, f) := p.1.reachItem id cl; (t, p.2 ++ [(cl, f)]) else (p.1, p.2 ++ [(cl, none)])
    let (s2, fs) := clusterOrder.foldl step1 (s1, [])
    let rv := s2.rendezvousFails id
    let entered := clusterOrder.filter fun cl => s1.reaches id cl && ((s1.core id).stream cl).entering
    let start := (s2.startFails id entered).map fun f => (Cluster.c, some f, (none : Option Latched))
    let todo := start.toList ++ fs.map fun e =>
      (e.1, (match e.2, rv with | some f, _ => some f | none, some f => if f.pos.cl = e.1 then some f else none | _, _ => none), s2.dueItem id e.1)
    match s2.issueAll id todo s2 with
    | .next t => .next (if t.raised.isSome || t.walked then t else t.afterIssue id (todo.any fun e => e.2.2.isSome))
    | o => o

/-! ### Coming events -/

/-- The order of the events of one cycle (R105, R121, R211, R217, R228, R317, R347): slot boundaries and the waves first, then by die
and core; within a core, register writes first, then by the place of the issue, and last its operations on sync objects and its
fences, which take in every access of the core that performs in their cycle. -/
def Pending.key (p : Pending) : List Nat :=
  let first := match p.ev with
    | .slotBoundary | .holdReachesMember | .releaseReachesMember | .releaseStart => 0
    | _ => 1
  let sub := match p.ev, p.arg with
    | _, .landing (.sysreg _ _) => 0
    | .acqPerform, _ | .tryacqPerform, _ | .releasePoint, _ | .sobindPerform, _ | .fenceComplete, _ => 2
    | _, _ => 1
  [first, p.owner.die, p.owner.core, sub, p.ord]

/-- One list of numbers comes before another. -/
def listBefore : List Nat → List Nat → Bool
  | a :: as, b :: bs => decide (a < b) || (a == b && listBefore as bs)
  | _, _ => false

/-- The first of some entries, by their keys and then their places. -/
def firstPending (l : List (Pending × Nat)) : Option (Pending × Nat) :=
  l.foldl (fun (b : Option (Pending × Nat)) e => match b with
    | none => some e
    | some m => if listBefore e.1.key m.1.key then some e else b) none

/-- The coming event that comes about next in this cycle, with its place in the agenda. -/
def State.agendaDue (s : State) : Option (Pending × Nat) := firstPending (s.agenda.zipIdx.filter fun e => s.isDue e.1)

/-- An event that no longer stands for anything pending has no effect. -/
def orDropped (s : State) : Out → Out
  | .refused (.notPending _) => .next s
  | o => o

/-- The entry counts a member's timeline, and its own core is stopped or has not come to its cycle (R314). -/
def State.awayNow (s : State) (p : Pending) : Bool :=
  (match p.clk with | .tl o => o != p.owner | _ => false) && ((s.core p.owner).stopped || decide (s.timeline p.owner < p.due))

/-- An event comes about. What performs in a member's timeline before its own core's timeline has come to it makes no stop of that
core: where it would, it performs at its cycle of the core's own timeline (R313, R314). -/
def State.runDue (s : State) (p : Pending) (k : Nat) : Out :=
  let rest := s.agenda.eraseIdx k
  let away := s.awayNow p
  let s1 := { s with agenda := rest, cur := p.owner, curCl := .c, arg := p.arg, ord := p.ord, raised := none, walked := false,
                     away := if away then some (max p.due (s.timeline p.owner)) else none }
  let s1 := match p.clk with | .tl t => if t = p.owner then s1 else s1.leaveBuffer t | _ => s1
  let out := orDropped s1 (exec p.ev s1)
  match out with
  | .next t =>
    let c := s.core p.owner
    let d := t.core p.owner
    if away && (c.ctx.trapped != d.ctx.trapped || c.task != d.task) then
      .next { s with agenda := rest ++ [{ p with clk := .tl p.owner }] }
    else out
  | _ => out

/-- The state once what is due in the present cycle has come about. -/
def State.served (s : State) : Nat → State
  | 0 => s
  | fuel + 1 =>
    match s.agendaDue with
    | none => s
    | some (p, k) => (match s.runDue p k with
      | .next t => t.served fuel
      | _ => s)

/-- The word that the C item of a core is, if it issues in this cycle. -/
def State.wordDue (s : State) (id : CoreId) : Option Nat :=
  let c := s.core id
  let due := fun (c : Core) => match (c.stream .c).latched with
    | some (i, .word w) => if i ≤ s.itemCycle id then some w else none
    | _ => none
  if !(c.issues && c.active .c) then none
  else if s.reaches id .c then due ((s.reachItem id .c).1.core id) else due c

/-- The CRESIZEs that issue in this cycle and start in it, which accesses of the cycle find begun (R200). -/
def State.resizesNow (s : State) : List (CoreId × Cresize) :=
  let ids := (s.cores.map (·.1)).filter fun id => match s.wordDue id with | some w => fld w 39 7 == 0x7D | none => false
  if ids.isEmpty then []
  else
    let t := s.served (s.agenda.length + 64)
    ids.filterMap fun id => match t.issueCycle id with
      | .next u => ((u.core id).cresizes.drop (t.core id).cresizes.length).head?.bind fun r =>
          if r.start = u.timeline id then some (id, r) else none
      | _ => none

/-- What comes about in a cycle finds the CRESIZEs begun that start in it (R200). -/
def State.withSoon (s : State) (f : State → Out) : Out :=
  match f { s with soon := s.resizesNow } with
  | .next t => .next { t with soon := [] }
  | o => o

/-- The event that is due comes about. -/
def State.runPending (s : State) (p : Pending) (k : Nat) : Out := s.withSoon fun t => t.runDue p k

/-! ### Inputs -/

/-- The events that come from outside (R209, R353, R358, R364, R381 to R384, R390, R393). -/
def external : Instr → Bool
  | .vaultOverrun | .flitArrival | .alignmentFlit | .dieLoss | .cqtailDoorbell | .cqctlWrite | .devstatClear
  | .hostBar2Read | .hostBar2Write | .thermalStep | .thermalShutdown | .romBoot => true
  | _ => false

/-- The input that is due. -/
def State.inputDue (s : State) : Option (Input × Nat) := s.inputs.zipIdx.find? fun e => decide (e.1.at_ ≤ s.clock)

/-- An input takes its effect. -/
def State.takeInput (i : Input) (k : Nat) (s : State) : Out :=
  let s1 := { s with inputs := s.inputs.eraseIdx k }
  match i.kind with
  | .event ev arg =>
    if external ev then
      let s2 := { s1 with cur := i.owner, curCl := .c, arg := arg, ord := s1.seq, raised := none, walked := false, away := none }
      orDropped s2 (exec ev s2)
    else .next s1
  | .hostMem a bs => .next (s1.putHost a bs)
  | .provision f root cores => .next (if f = 0 then s1 else s1.modFn f fun h => { h with root := root, cores := cores })
  | .soft w => .next { s1 with soft := if s1.poison.contains w then s1.soft else setInsert s1.soft w }
  | .hard w => .next { s1 with poison := setInsert s1.poison w, soft := s1.soft.filter (· != w) }
  | .barSize n => .next (s1.resizeBar n)
  | .readReg f off => .next (s1.modDomain fun d => { d with answer := some (leBytes (s1.regRead f off).toNat 8) })
  | .schedule r slots => .next (s1.modSched fun k => { k with compiled := (k.compiled.filter fun c => c.1 != r) ++ [(r, slots)] })

/-- The input that is due takes its effect. -/
def State.runInput (s : State) (i : Input) (k : Nat) : Out := s.withSoon (State.takeInput i k)

/-! ### Events that the state brings about -/

/-- The wake that a waiting C stream of a core has come to (R109, R232, R240, R295). -/
def State.wakeDue (s : State) (id : CoreId) : Option Instr :=
  let c := s.core id
  if (s.castAnswer id).isSome then some .cstatWake
  else match s.cWait id with
    | some (.sleepu v) => if v ≤ s.framecnt id then some .sleepuWake else none
    | some (.waitf w) => if w ≤ s.framecnt id then some .waitfWake else none
    | some (.rdvw m mask) => if !c.tauStands && c.ctx.rdvFails m mask == 0 then some .rdvwWake else none
    | some (.cwait n) => if !c.tauStands && decide (s.batches id ≤ n) then some .cwaitWake else none
    | _ => none

/-- The blocked acquire that is served next: the one that began to wait first (R216). -/
def State.acqNext (s : State) : Option CoreId :=
  ((s.cores.filter fun e => s.acqReady e.1).foldl (fun (b : Option (Nat × CoreId)) e =>
    let since := match e.2.ctx.pause with | some (.acquire _ t _) => t | _ => 0
    match b with
    | some (m, _) => if since < m then some (since, e.1) else b
    | none => some (since, e.1)) none).map (·.2)

/-- The event of a core's own engines, markers and waits that is due. -/
def State.coreEvent (s : State) (id : CoreId) : Option (Instr × Arg) :=
  let c := s.core id
  if c.task.isNone then none
  else match (List.range 5).find? fun e => s.markerReady id e with
    | some e => some (.markerRetire, .ids e 0)
    | none => match s.wakeDue id with
      | some ev => some (ev, .none)
      | none =>
        if c.tauStands then none
        else match c.ctx.mat.phase with
          | .start a => if a ≤ c.ctx.tau then some (.matrixCommandStart, .none) else none
          | .block uid j a => if a ≤ c.ctx.tau then some (.matrixBlockRead, .beat uid j true) else none
          | .idle => none

/-- The stop of a drain that has ended is to come in this cycle (R327). -/
def Core.stopsNow (c : Core) : Bool := match c.ctx.drain with | some d => d.ended | none => false

/-- The event of a core's streams, its task's end or its budget that is due. -/
def State.taskEvent (s : State) (id : CoreId) : Option (Instr × Arg) :=
  let c := s.core id
  if c.task.isNone then none
  else
    let next := s.groupNext id
    if next = some .ends then some (.joinedGroupStart, .none)
    else if s.taskDone id then some (.taskEnd, .none)
    else if (s.acqLate id).isSome || (c.overBudget && !c.stopsNow) then some (.deadline, .none)
    else if s.drainOver id then some (.preemptStop, .ids 0 0)
    else if next.isSome then some (.joinedGroupStart, .none)
    else none

/-- The dies whose schedulers may have something to do, ascending. -/
def State.schedDies (s : State) : List Nat :=
  (s.faultq.map (·.core.die) ++ s.sched.ready.map (·.die) ++ s.sched.running.flatMap fun r => r.ask.map (·.die)).foldl setInsert []

/-- The command that the firmware takes next. -/
def State.hostEvent (s : State) : Option Instr :=
  if s.resetOver.isSome then some .resetFunction else s.fetchNext.map fun p => commandOf (s.entryBytes p.1 p.2)

/-- The event of the schedulers, the vaults and the firmware that is due. -/
def State.domainEvent (s : State) : Option (CoreId × Instr × Arg) :=
  if s.modules ≠ 0 ∧ s.boundaryDue then some (⟨0, 0⟩, .frameBoundary, .none)
  else match s.schedDies.find? fun d => (s.dispatch d).isSome with
  | some d => some (⟨d, 0⟩, .nodeDispatch, .none)
  | none => match s.schedDies.find? fun d => (s.claimDue d).isSome with
  | some d => some (⟨d, 0⟩, .placementClaim, .none)
  | none => match (s.jobs.filterMap fun (j : Job) => match j.body with | .coll k => some k.die | _ => none).find? fun d => (s.chunkReady d).isSome with
  | some d => some (⟨d, 0⟩, .chunkRelease, .none)
  | none => match s.sched.suspended.find? fun e => (s.restorable e.core).isSome with
  | some e => some (e.core, .taskRestore, .none)
  | none => match s.cores.find? fun e => s.remapDue e.1 with
  | some e => some (e.1, .spareRemapApply, .none)
  | none =>
    if s.modules ≠ 0 ∧ s.scrubDue then some (⟨0, 0⟩, .scrubStep, .none)
    else s.hostEvent.map fun i => (⟨0, 0⟩, i, .none)

/-- The event that the state itself brings about next in this cycle. -/
def State.stateEvent (s : State) : Option (CoreId × Instr × Arg) :=
  match s.cores.findSome? fun e => (s.coreEvent e.1).map fun p => (e.1, p) with
  | some e => some e
  | none => match s.acqNext with
  | some id => some (id, .acqSuccess, .none)
  | none => match s.cores.findSome? fun e => (s.taskEvent e.1).map fun p => (e.1, p) with
  | some e => some e
  | none => s.domainEvent

/-- What takes its place in the order of fences before a fence that is due (R228, R229): the end of a task on a core that comes before the
fence's, whose node may complete with it, or the start of a collective on such a core 0. -/
def State.beforeFence (s : State) (p : Pending) : Option (CoreId × Instr × Arg) :=
  if p.ev = .fenceComplete then
    match s.cores.find? fun e => decide (CoreId.num e.1 < CoreId.num p.owner) && s.taskEvent e.1 == some (.taskEnd, .none) with
    | some e => some (e.1, .taskEnd, .none)
    | none => (s.schedDies.find? fun d => decide (CoreId.num ⟨d, 0⟩ < CoreId.num p.owner) && match s.dispatch d with | some (.coll _) => true | _ => false).map
        fun d => (⟨d, 0⟩, .nodeDispatch, .none)
  else none

/-- Such an event comes about. -/
def State.runEvent (s : State) (id : CoreId) (ev : Instr) (arg : Arg) : Out :=
  s.withSoon fun t => exec ev { t with cur := id, curCl := .c, arg := arg, ord := t.seq, raised := none, walked := false, away := none }

/-- The state as the blocked acquires see it that are tested again in this cycle (R200, R216). -/
def State.retested (s : State) : State :=
  if s.cores.any fun e => match e.2.ctx.pause with | some (.acquire ..) => true | _ => false then { s with soon := s.resizesNow } else s

/-- The first core with items that reach issue or issue now. -/
def State.issuer (s : State) : Option CoreId := (s.cores.find? fun e => s.issueDue e.1).map (·.1)

/-! ### The cycles that pass -/

/-- A later cycle of a clock as a number of cycles from now. -/
def ahead (now at_ : Nat) : List Nat := if now < at_ then [at_ - now] else []

/-- The cycles after which something may come about in a core. -/
def State.coreAhead (s : State) (id : CoreId) : List Nat :=
  let c := s.core id
  let x := c.ctx
  let streams := clusterOrder.flatMap fun cl =>
    let st := c.stream cl
    match st.mode with
    | .run => if c.issues && c.active cl then ahead (s.itemCycle id) (match st.latched with | some (i, _) => i | none => st.reach) else []
    | .ended => if c.tauStands then [] else ahead x.tau st.reach
    | _ => []
  let stop := if c.issues && c.stopComes then ahead (s.itemCycle id) (c.stream .c).reach else []
  let wait := match s.cWait id with
    | some (.sleepu v) => ahead (s.framecnt id) v
    | some (.waitf w) => ahead (s.framecnt id) w
    | _ => []
  let pause := match x.pause with
    | some (.resume r) => ahead s.clock r
    | some (.acquire _ since _) => ahead s.clock (since + 1) ++ (match c.task with | some t => ahead s.clock (since + t.budget) | none => [])
    | _ => []
  let tau := if c.tauStands then [] else
    (match c.groupDone with | some t => ahead x.tau t | none => []) ++
    (match c.task with | some t => ahead x.tau t.budget | none => []) ++
    (match x.mat.phase with | .start a => ahead x.tau a | .block _ _ a => ahead x.tau a | .idle => []) ++
    (x.markers.toList.flatMap fun ms => ms.flatMap fun m => ahead x.tau m.earliest) ++
    (x.mat.owns.flatMap fun o => match o.until_ with | some u => ahead x.tau (u + 1) | none => [])
  streams ++ stop ++ wait ++ pause ++ tau ++ ahead s.clock c.copyUntil

/-- The cycles after which something may come about. -/
def State.allAhead (s : State) : List Nat :=
  (s.agenda.filterMap fun p => s.dueIn p).filter (0 < ·) ++
  s.inputs.flatMap (fun i => ahead s.clock i.at_) ++
  s.cores.flatMap (fun e => s.coreAhead e.1) ++
  (s.jobs.flatMap fun (j : Job) => match j.body with
    | .coll k => if j.live && (s.core j.owner).tauStands then [] else ahead (s.taskNow j) (k.p + 64)
    | _ => []) ++
  (s.sched.carded.flatMap fun e => ahead s.clock (e.2 + 1)) ++
  (if s.modules ≠ 0 then [32768 - s.clock % 32768, 64 - s.clock % 64] else []) ++
  ahead s.clock s.domain.fwAt

/-- The smallest of some numbers. -/
def leastOf : List Nat → Option Nat
  | [] => none
  | a :: as => some (as.foldl min a)

/-- Cycles pass until something may come about. -/
def State.idleOn (s : State) : Out :=
  match leastOf s.allAhead with
  | some d => .next (s.pass d)
  | none => .fault .waitsForever

end Sys2Proof.Machine
end

