-- ==== Sys2Proof/Machine/Step.lean ====
section
/-! DEFINITION. The step of the machine, and the state in which its next step runs a given word. -/

namespace Sys2Proof.Machine

open Sys2Proof

/-- One step: an input that is due; else the first coming event that is due, or what comes before it in the order of fences; else an
event that the state brings about; else the items of one core in this cycle; else the cycles until the next of these pass (R121). -/
def step (s0 : State) : Host.Outcome State Fault Refusal :=
  let s := s0.requeue
  match s.inputDue with
  | some (i, k) => s.runInput i k
  | none => match s.agendaDue with
  | some (p, k) => (match s.beforeFence p with
    | some (id, ev, arg) => s.runEvent id ev arg
    | none => s.runPending p k)
  | none => match s.retested.stateEvent with
  | some (id, ev, arg) => s.runEvent id ev arg
  | none => match s.issuer with
  | some id => s.issueCycle id
  | none => s.idleOn

/-- The core whose next item withFetchWord places. -/
def fetchCore : CoreId := ⟨0, 0⟩

/-- A free task with C alone, whose image is one line. -/
def fetchTask : Task := ⟨false, 0, 0, ⟨0, 0, 0⟩, 0, 2 ^ 32 - 1, 0, 0, 0, none, none, false, [], 0⟩

/-- The task-clock cycle in which the word issues, its item having reached issue in cycle 0 (R23, R25). -/
def fetchDelay (w : Nat) : Nat :=
  if 65504 ≤ w % 65536 then w % 32 else if 8192 ≤ w % 65536 then 0 else fld w 0 13 * 4 + fld w 30 2

/-- The context of that task, at its first item, in the cycle in which the word issues. -/
def fetchCtx (x : Ctx) (tau : Nat) : Ctx :=
  { x with
    tau := tau, pause := none, found := [], walkFail := none, retry := [], report := none, trapped := none, drain := none, joined := none
    markers := Vector.replicate 5 []
    mat := Mat.zero
    sys := { x.sys with imagebase := 0, imagelen := 1, clusters := 1 }
    streams := #v[⟨.run, 0, 2, true, 0, none, none⟩, Stream.absent, Stream.absent, Stream.absent] }

/-- The state in which the next step fetches and runs a table word: core 0 of die 0 runs a free task, with C alone, whose line 0 ends
the stream and holds the word at parcel 2; nothing else is due. -/
def State.withFetchWord (s : State) (nbits w : Nat) : State :=
  let line := bytesOfParcel 0x1000 ++ bytesOfParcel 0 ++ tableBytes (w % 2 ^ nbits)
  let c := s.core fetchCore
  let s1 := s.setCore fetchCore { c with task := some fetchTask, ctx := fetchCtx c.ctx (fetchDelay (w % 2 ^ nbits)), heldBy := [] }
  { s1 with
    cores := s1.cores.filter fun e => e.1 == fetchCore
    mem := s1.mem.write (padBase fetchCore) line
    agenda := [], inputs := [], jobs := [], faultq := [], rings := [], sched := { Sched.zero with frame := s.clock / 32768 }
    modules := max 1 s.modules, scrubs := max s.scrubs (s.clock / 64)
    domain := { s.domain with fns := Vector.replicate 16 HostFn.zero } }

end Sys2Proof.Machine
end

