-- ==== Sys2Proof/Safety.lean ====
section
/-! DEFINITION. What counts as a safe run, and the conditions on a state and on operands that the statements speak of: an
instruction can read its operands and finds its places, so that it has its own effect. -/

namespace Sys2Proof.Machine

open Sys2Proof

/-- The memories, that of the domain, that of the host and the staging areas, are in canonical form. -/
def State.MemOk (s : State) : Prop := s.mem.wf = true ∧ s.domain.hostMem.wf = true ∧ s.staging.wf = true

/-- A read of these bytes finds them as memory holds them: no word that ECC cannot correct, no way in movement (R200, R210). -/
def State.Clean (s : State) (pas : List Nat) : Prop := s.poisoned pas = false ∧ ∀ pa ∈ pas, s.inMotion pa = false

/-- An entry of the agenda is a step of the present operation that comes d cycles behind it, in its core's own time, or in that of the
member whose memory it reaches (R314, R315). -/
def State.ComesIn (s : State) (p : Pending) (d : Nat) : Prop :=
  p.owner = s.cur ∧ ((p.clk = .tau s.cur ∧ p.due = s.ownTau s.cur + d) ∨ ∃ m, p.clk = .tl m ∧ p.due = s.ownNow s.cur + d)

/-- The bytes of the pieces of a range. -/
def State.held (s : State) (segs : List Seg) : List Byte := (segsPas segs).map s.mem.get

/-- A step of an attention request takes place and leaves the request with a property. -/
def AttnStep (i : Instr) (s : State) (job : Job) (p : AttnJob → Prop) : Prop :=
  ∃ t job1 k, exec i s = .next t ∧ t.attnJob job.id = some (job1, k) ∧ p k

/-- A range of an attention request passes its checks. -/
def AttnReach (s : State) (job : Job) (k : AttnJob) (perm : Perm) (va : Word) (n : Nat) (segs : List Seg) : Prop :=
  ∃ c, s.attnRange job k perm va n = .ok (segs, c)

/-- A step of a cast request takes place, leaves the request with a property, and its next step is to come. -/
def CastLeaves (i : Instr) (s : State) (job : Job) (next : Instr) (p : CastJob → Prop) : Prop :=
  ∃ t job1 k, exec i s = .next t ∧ t.job? job.id = some job1 ∧ job1.body = .cast k ∧ p k ∧
    ∃ q ∈ t.agenda, q.ev = next ∧ q.arg = .beat job.id 0 true

/-- A range that a cast request reaches, with the bytes that it sees there: its own writes to come before those of memory. -/
def CastSees (s : State) (job : Job) (k : CastJob) (va : Word) (n : Nat) (segs : List Seg) (bs : List Byte) : Prop :=
  s.castRange job.owner k .r va n = .ok segs ∧ s.Clean (segsPas segs) ∧ bs.length = n ∧
    bs = (segsPas segs).map fun pa => (listGet? k.overlay pa).getD (s.mem.get pa)

/-- An outcome that is no refusal. -/
def Safe : Host.Outcome State Fault Refusal → Prop
  | .refused _ => False
  | _ => True

/-- The core whose item issues, or whose event comes about. -/
def State.me (s : State) : Core := s.core s.cur

/-- The in-flight queue has a place (R313). -/
def State.Roomy (s : State) : Prop := s.ifqCount s.cur < 64

/-- The instruction issues, goes on to the next item, and asks for the given effects; c is its core after its pops and
reservations. -/
def Issues (cl : Cluster) (i : Instr) (s : State) (c : Core) (reqs : List Req) : Prop :=
  exec i s = .next (s.commit cl (.plain c reqs))

/-- The instruction issues with the given outcome. -/
def IssuesAs (cl : Cluster) (i : Instr) (s : State) (o : IssueOut) : Prop := exec i s = .next (s.commit cl o)

/-- The instruction stops at its issue, in the state before it, with a trap. -/
def TrapsAt (cl : Cluster) (i : Instr) (s : State) (cause : Cause) (tinfo : Word) : Prop :=
  exec i s = .next (s.raise s.cur cause tinfo (s.me.posOf cl))

/-! ### Operands of C -/

/-- A C destination that the task has, with its place taken (R36, R111, R114). -/
def ReadyC0 (s : State) (d : CDst) (c : Core) : Prop :=
  s.me.dstOk d = true ∧ s.Roomy ∧ s.me.reserveC s.seq d = .ok c

/-- One, two and three C operands read in order, with their values, and the destination's place taken (R35, R36, R86). -/
def ReadyC1 (s : State) (d : CDst) (a : CSrc) (x : Word) (c : Core) : Prop :=
  s.me.dstOk d = true ∧ s.me.srcOk a = true ∧ s.Roomy ∧
    ∃ c1, readC s s.me a = .ok (x, c1) ∧ c1.reserveC s.seq d = .ok c

def ReadyC2 (s : State) (d : CDst) (a b : CSrc) (x y : Word) (c : Core) : Prop :=
  s.me.dstOk d = true ∧ s.me.srcOk a = true ∧ s.me.srcOk b = true ∧ s.Roomy ∧
    ∃ c1 c2, readC s s.me a = .ok (x, c1) ∧ readC s c1 b = .ok (y, c2) ∧ c2.reserveC s.seq d = .ok c

def ReadyC3 (s : State) (d : CDst) (a b e : CSrc) (x y z : Word) (c : Core) : Prop :=
  s.me.dstOk d = true ∧ s.me.srcOk a = true ∧ s.me.srcOk b = true ∧ s.me.srcOk e = true ∧ s.Roomy ∧
    ∃ c1 c2 c3, readC s s.me a = .ok (x, c1) ∧ readC s c1 b = .ok (y, c2) ∧ readC s c2 e = .ok (z, c3) ∧
      c3.reserveC s.seq d = .ok c

/-- The operands of a C instruction without a destination. -/
def SourcesC1 (s : State) (a : CSrc) (x : Word) (c : Core) : Prop :=
  s.me.srcOk a = true ∧ s.Roomy ∧ readC s s.me a = .ok (x, c)

def SourcesC2 (s : State) (a b : CSrc) (x y : Word) (c : Core) : Prop :=
  s.me.srcOk a = true ∧ s.me.srcOk b = true ∧ s.Roomy ∧
    ∃ c1, readC s s.me a = .ok (x, c1) ∧ readC s c1 b = .ok (y, c)

def SourcesC3 (s : State) (a b e : CSrc) (x y z : Word) (c : Core) : Prop :=
  s.me.srcOk a = true ∧ s.me.srcOk b = true ∧ s.me.srcOk e = true ∧ s.Roomy ∧
    ∃ c1 c2, readC s s.me a = .ok (x, c1) ∧ readC s c1 b = .ok (y, c2) ∧ readC s c2 e = .ok (z, c)

/-- The result v of a C instruction lands at I + n (R15, R16). -/
def ResultC (i : Instr) (s : State) (c : Core) (d : CDst) (n : Nat) (v : Word) : Prop :=
  Issues .c i s c (landC s.seq d n v)

/-- The instruction issues and an engine accepts its request, under the instruction's own number (R237). -/
def Accepts (i : Instr) (s : State) (c : Core) (reqs : List Req) (body : JobBody) (reads : List Nat) : Prop :=
  IssuesAs .c i s ⟨c, reqs, .next 1, none, [⟨s.seq, s.cur, true, body⟩], reads⟩

/-- The line that a C transfer may go to: in a joined line, the C line of a joined group (R123, R125). -/
def TargetOk (s : State) (c : Core) (line : Nat) : Prop :=
  c.inJoined = true → c.inHandler = false → line % 4 = 0 ∧ line < c.imagelen ∧ linkJ (s.link s.cur line) = true

/-- A transfer's outcome: taken, the stream goes to the target; else on to the next item (R100). -/
def transfer (c : Core) (taken : Bool) (line parcel : Nat) (reqs : List Req) : IssueOut :=
  ⟨c, reqs, if taken then .jump line parcel else .next 1, none, [], []⟩

/-! ### Operands of X -/

/-- One, two and three X operands read in order as elements of a width, with the lanes that the predicate makes active
and the destination's place taken; an sq entry's lane mask is the predicate itself (R38, R116 to R118). -/
def ReadyX1 (s : State) (w : Nat) (d : XDst) (p : Fin 8) (a : XSrc) (m : Word) (x : Vec) (c : Core) : Prop :=
  s.me.xdstOk d = true ∧ s.me.xsrcOk a = true ∧ s.Roomy ∧ m = laneMask w (s.me.pred p) ∧
    ∃ c1, readX w s.me a = .ok (x, c1) ∧ c1.reserveX s.seq d (s.me.pred p) = .ok c

def ReadyX2 (s : State) (w : Nat) (d : XDst) (p : Fin 8) (a b : XSrc) (m : Word) (x y : Vec) (c : Core) : Prop :=
  s.me.xdstOk d = true ∧ s.me.xsrcOk a = true ∧ s.me.xsrcOk b = true ∧ s.Roomy ∧ m = laneMask w (s.me.pred p) ∧
    ∃ c1 c2, readX w s.me a = .ok (x, c1) ∧ readX w c1 b = .ok (y, c2) ∧ c2.reserveX s.seq d (s.me.pred p) = .ok c

def ReadyX3 (s : State) (w : Nat) (d : XDst) (p : Fin 8) (a b e : XSrc) (m : Word) (x y z : Vec) (c : Core) : Prop :=
  s.me.xdstOk d = true ∧ s.me.xsrcOk a = true ∧ s.me.xsrcOk b = true ∧ s.me.xsrcOk e = true ∧ s.Roomy ∧
    m = laneMask w (s.me.pred p) ∧
    ∃ c1 c2 c3, readX w s.me a = .ok (x, c1) ∧ readX w c1 b = .ok (y, c2) ∧ readX w c2 e = .ok (z, c3) ∧
      c3.reserveX s.seq d (s.me.pred p) = .ok c

/-- The vector v of an X instruction lands at I + n in the active lanes m (R117, R118). -/
def ResultX (i : Instr) (s : State) (c : Core) (d : XDst) (n : Nat) (m : Word) (v : Vec) : Prop :=
  Issues .x i s c (landX s.seq d n m v)

/-- The instruction lands a vector of w-bit elements: element e is f e. -/
def ResultElems (i : Instr) (s : State) (c : Core) (d : XDst) (n : Nat) (m : Word) (w : Nat) (f : Nat → Nat) : Prop :=
  ∃ v, ResultX i s c d n m v ∧ ∀ e, e < 2048 / w → elem w v e = f e % 2 ^ w

/-- The operand of an instruction whose predicate only picks inputs, with the destination's place, and one on xq when it is asked
for (R142, R147). -/
def ReadyPick1 (s : State) (w : Nat) (d : XDst) (p : Fin 8) (x : Bool) (a : XSrc) (m : Word) (v : Vec) (c : Core) : Prop :=
  s.me.xdstOk d = true ∧ s.me.xsrcOk a = true ∧ (x = true → s.me.chanPresent chXq = true) ∧ s.Roomy ∧ m = s.me.pred p ∧
    ∃ c1 c2, readX w s.me a = .ok (v, c1) ∧ c1.reserveX s.seq d (BitVec.allOnes 64) = .ok c2 ∧
      (if x then c2.reserveXq s.seq else .ok c2) = .ok c

/-- Two such operands. -/
def ReadyPick2 (s : State) (w : Nat) (d : XDst) (p : Fin 8) (a b : XSrc) (m : Word) (u v : Vec) (c : Core) : Prop :=
  s.me.xdstOk d = true ∧ s.me.xsrcOk a = true ∧ s.me.xsrcOk b = true ∧ s.Roomy ∧ m = s.me.pred p ∧
    ∃ c1 c2, readX w s.me a = .ok (u, c1) ∧ readX w c1 b = .ok (v, c2) ∧
      c2.reserveX s.seq d (BitVec.allOnes 64) = .ok c

/-- The result of such an instruction: the vector r in every lane, and the scalar y on xq when it is asked for. -/
def ResultPick (i : Instr) (s : State) (c : Core) (d : XDst) (n : Nat) (x : Bool) (r : Vec) (y : Word) : Prop :=
  Issues .x i s c (landX s.seq d n (BitVec.allOnes 64) r ++ if x then [landScalar chXq s.seq n y] else [])

/-- x is below y in numeric order, −0 equal to +0; a NaN is below and above nothing (R98, R139). -/
def FVal.Under : FVal → FVal → Prop
  | .inf a, .inf b => a = true ∧ b = false
  | .inf a, .fin .. => a = true
  | .fin .., .inf b => b = false
  | .fin a m e, .fin b n g =>
    (if a then -1 else 1) * ((m : Int) * 2 ^ (e - (if e < g then e else g)).toNat) < (if b then -1 else 1) * ((n : Int) * 2 ^ (g - (if e < g then e else g)).toNat)
  | _, _ => False

/-- x is below y where −0 ranks below +0 (R75, R144). -/
def FVal.RanksUnder (x y : FVal) : Prop := x.Under y ∨ ∃ e g, x = .fin true 0 e ∧ y = .fin false 0 g

/-- A place on xq for a scalar result. -/
def ReadyXq (s : State) (c : Core) : Prop :=
  s.me.chanPresent chXq = true ∧ s.Roomy ∧ s.me.reserveXq s.seq = .ok c

end Sys2Proof.Machine
end

