-- ==== Sys2Proof/Certificates/Slice0/Obligations.lean ====
section
/-! DEFINITION. The statements about the model that are to be proved or refuted. -/

open Sys2Proof Sys2Proof.Machine

/-! ### C: integers (R86 to R96) -/

/-- The C instructions of two register operands land their results at I + 1, and at I + 3 for the multiplies (R85, R90, R93). -/
def Obligations.IntegerPairsLand : Prop :=
  ∀ (s : State) (d : CDst) (a b : CSrc) (x y : Word) (c : Core), ReadyC2 s d a b x y c →
    ResultC (.add d a b) s c d 1 (x + y) ∧
    ResultC (.sub d a b) s c d 1 (x - y) ∧
    ResultC (.mul d a b) s c d 3 (x * y) ∧
    ResultC (.mulh d false a b) s c d 3 (BitVec.ofInt 64 (x.toInt * y.toInt / 2 ^ 64)) ∧
    ResultC (.mulh d true a b) s c d 3 (BitVec.ofNat 64 (x.toNat * y.toNat / 2 ^ 64)) ∧
    ResultC (.and d a b) s c d 1 (x &&& y) ∧
    ResultC (.or d a b) s c d 1 (x ||| y) ∧
    ResultC (.xor d a b) s c d 1 (x ^^^ y) ∧
    ResultC (.andn d a b) s c d 1 (x &&& ~~~y) ∧
    ResultC (.shl d a b) s c d 1 (x <<< (y.toNat % 64)) ∧
    ResultC (.shr d a b) s c d 1 (x >>> (y.toNat % 64)) ∧
    ResultC (.sar d a b) s c d 1 (x.sshiftRight (y.toNat % 64)) ∧
    ResultC (.rol d a b) s c d 1 (x.rotateLeft (y.toNat % 64)) ∧
    ResultC (.min d false a b) s c d 1 (if x.slt y then x else y) ∧
    ResultC (.min d true a b) s c d 1 (if x.ult y then x else y) ∧
    ResultC (.max d false a b) s c d 1 (if x.slt y then y else x) ∧
    ResultC (.max d true a b) s c d 1 (if x.ult y then y else x) ∧
    (∀ cc, ResultC (.cmp d false cc a b) s c d 1 (if condTest cc x y then 1 else 0))

/-- DIV and REM never trap: on readable operands they land at I + 12, with the results of R91 where b is 0 or the
quotient overflows. -/
def Obligations.DivisionNeverTraps : Prop :=
  ∀ (s : State) (d : CDst) (a b : CSrc) (x y : Word) (c : Core), ReadyC2 s d a b x y c →
    (∃ q, ResultC (.div d false a b) s c d 12 q ∧
      (y = 0 → q = BitVec.allOnes 64) ∧
      (x = BitVec.ofInt 64 (-(2 ^ 63)) ∧ y = BitVec.allOnes 64 → q = x) ∧
      (y ≠ 0 → q = BitVec.ofInt 64 (x.toInt.tdiv y.toInt))) ∧
    (∃ q, ResultC (.div d true a b) s c d 12 q ∧
      (y = 0 → q = BitVec.allOnes 64) ∧
      (y ≠ 0 → q.toNat = x.toNat / y.toNat)) ∧
    (∃ r, ResultC (.rem d false a b) s c d 12 r ∧
      (y = 0 → r = x) ∧
      (x = BitVec.ofInt 64 (-(2 ^ 63)) ∧ y = BitVec.allOnes 64 → r = 0) ∧
      (y ≠ 0 → r = x - y * BitVec.ofInt 64 (x.toInt.tdiv y.toInt)) ∧
      (r = 0 ∨ r.msb = x.msb)) ∧
    (∃ r, ResultC (.rem d true a b) s c d 12 r ∧
      (y = 0 → r = x) ∧
      (y ≠ 0 → r.toNat = x.toNat % y.toNat))

/-- The C instructions of one register operand, with or without an immediate, land at I + 1, MULI at I + 3 (R85, R90, R94, R95); a
shift by an immediate that is not 0 to 63 is no well-formed instruction (R94). -/
def Obligations.IntegerUnaryLand : Prop :=
  ∀ (s : State) (d : CDst) (a : CSrc) (x : Word) (c : Core) (imm : BitVec 24), ReadyC1 s d a x c →
    (∃ n, ResultC (.clz d a) s c d 1 (BitVec.ofNat 64 n) ∧ n ≤ 64 ∧
      (∀ i, i < n → x.getMsbD i = false) ∧ (n < 64 → x.getMsbD n = true)) ∧
    (∃ n, ResultC (.ctz d a) s c d 1 (BitVec.ofNat 64 n) ∧ n ≤ 64 ∧
      (∀ i, i < n → x.getLsbD i = false) ∧ (n < 64 → x.getLsbD n = true)) ∧
    ResultC (.popc d a) s c d 1 (BitVec.ofNat 64 ((List.range 64).countP fun i => x.getLsbD i)) ∧
    (∃ v, ResultC (.brev d a) s c d 1 v ∧ ∀ i, i < 64 → v.getLsbD i = x.getLsbD (63 - i)) ∧
    ResultC (.ext d .w8 false a) s c d 1 ((x.setWidth 8).signExtend 64) ∧
    ResultC (.ext d .w16 false a) s c d 1 ((x.setWidth 16).signExtend 64) ∧
    ResultC (.ext d .w32 false a) s c d 1 ((x.setWidth 32).signExtend 64) ∧
    ResultC (.ext d .w8 true a) s c d 1 ((x.setWidth 8).setWidth 64) ∧
    ResultC (.ext d .w16 true a) s c d 1 ((x.setWidth 16).setWidth 64) ∧
    ResultC (.ext d .w32 true a) s c d 1 ((x.setWidth 32).setWidth 64) ∧
    ResultC (.move d a) s c d 1 x ∧
    ResultC (.addi d a imm) s c d 1 (x + imm.signExtend 64) ∧
    ResultC (.andi d a imm) s c d 1 (x &&& imm.signExtend 64) ∧
    ResultC (.ori d a imm) s c d 1 (x ||| imm.signExtend 64) ∧
    ResultC (.xori d a imm) s c d 1 (x ^^^ imm.signExtend 64) ∧
    (imm.toNat < 64 → ResultC (.shli d a imm) s c d 1 (x <<< imm.toNat)) ∧
    (imm.toNat < 64 → ResultC (.shri d a imm) s c d 1 (x >>> imm.toNat)) ∧
    (imm.toNat < 64 → ResultC (.sari d a imm) s c d 1 (x.sshiftRight imm.toNat)) ∧
    (64 ≤ imm.toNat → (Instr.shli d a imm).wf = false ∧ (Instr.shri d a imm).wf = false ∧ (Instr.sari d a imm).wf = false) ∧
    ResultC (.muli d a imm) s c d 3 (x * imm.signExtend 64) ∧
    (∃ v, ResultC (.lih d false a imm) s c d 1 v ∧
      ∀ i, i < 64 → v.getLsbD i = if 32 ≤ i ∧ i < 56 then imm.getLsbD (i - 32) else x.getLsbD i) ∧
    (∃ v, ResultC (.lih d true a imm) s c d 1 v ∧
      ∀ i, i < 64 → v.getLsbD i = if 40 ≤ i then imm.getLsbD (i - 40) else x.getLsbD i) ∧
    (∀ cc, cc ≠ CmpiCond.bound →
      ResultC (.cmpi d cc a imm) s c d 1 (if condTest (cmpiCond cc) x (imm.signExtend 64) then 1 else 0))

/-- BFX, BFI, SEL, MADD and LI; CMP and CMPI in their bound forms: the value passes through, or BOUND is raised with TINFO a, and
nothing is popped or written (R90, R92, R93, R95, R96). -/
def Obligations.FieldsSelectsAndBounds : Prop :=
  ((∀ (s : State) (d : CDst) (a b : CSrc) (x y : Word) (c : Core), ReadyC2 s d a b x y c →
    let pos := y.toNat % 64
    let w := min (y.toNat / 256 % 128) (64 - pos)
    (∃ v, ResultC (.bfx d true a b) s c d 1 v ∧
      ∀ i, i < 64 → v.getLsbD i = (decide (i < w) && x.getLsbD (pos + i))) ∧
    (∃ v, ResultC (.bfx d false a b) s c d 1 v ∧
      ∀ i, i < 64 → v.getLsbD i = (decide (0 < w) && x.getLsbD (pos + min i (w - 1))))) ∧
  (∀ (s : State) (d : CDst) (a b e : CSrc) (x y z : Word) (c : Core), ReadyC3 s d a b e x y z c →
    let pos := y.toNat % 64
    let w := min (y.toNat / 256 % 128) (64 - pos)
    (∃ v, ResultC (.bfi d a b e) s c d 1 v ∧
      ∀ i, i < 64 → v.getLsbD i = if pos ≤ i ∧ i < pos + w then x.getLsbD (i - pos) else z.getLsbD i) ∧
    ResultC (.sel d a b e) s c d 1 (if z = 0 then y else x) ∧
    ResultC (.madd d a b e) s c d 3 (x * y + z)) ∧
  (∀ (s : State) (d : CDst) (c : Core) (imm : BitVec 33), ReadyC0 s d c →
    ResultC (.li d imm) s c d 1 (imm.signExtend 64))) ∧
  ((∀ (s : State) (d : CDst) (a b : CSrc) (x y : Word) (c : Core) (cc : Cond), ReadyC2 s d a b x y c →
    (condTest cc x y = true → ResultC (.cmp d true cc a b) s c d 1 x) ∧
    (condTest cc x y = false → TrapsAt .c (.cmp d true cc a b) s .bound x)) ∧
  (∀ (s : State) (d : CDst) (a : CSrc) (x : Word) (c : Core) (imm : BitVec 24), ReadyC1 s d a x c →
    (x.ult (imm.signExtend 64) = true → ResultC (.cmpi d .bound a imm) s c d 1 x) ∧
    (x.ult (imm.signExtend 64) = false → TrapsAt .c (.cmpi d .bound a imm) s .bound x)))


/-! ### C: scalar FP32 (R97 to R99) -/

/-- The scalar FP32 instructions land the once-rounded result, zero-extended, at the offsets of R85; where an operand
is NaN, the arithmetic ones give the canonical NaN, and on numbers FCMP tests their order, −0 equal to +0 (R68, R97 to R99). -/
def Obligations.ScalarFloatsLand : Prop :=
  (∀ (s : State) (d : CDst) (a b : CSrc) (x y : Word) (c : Core) (rm : Rm), ReadyC2 s d a b x y c →
    let res := fun (v : FVal) => (f32of rm v).setWidth 64
    ResultC (.fadd d rm a b) s c d 4 (res ((fpOf x).add rm (fpOf y))) ∧
    ResultC (.fsub d rm a b) s c d 4 (res ((fpOf x).add rm (fpOf y).neg)) ∧
    ResultC (.fmul d rm a b) s c d 4 (res ((fpOf x).mul (fpOf y))) ∧
    ResultC (.fdiv d rm a b) s c d 14 (res ((fpOf x).div (fpOf y))) ∧
    ResultC (.fmin d a b) s c d 2 ((f32of .rne ((fpOf x).min (fpOf y))).setWidth 64) ∧
    ResultC (.fmax d a b) s c d 2 ((f32of .rne ((fpOf x).max (fpOf y))).setWidth 64) ∧
    (∀ fc, ResultC (.fcmp d fc a b) s c d 2 (if fcmpTest fc (fpOf x) (fpOf y) then 1 else 0)) ∧
    ((fpOf x).isNan = true ∨ (fpOf y).isNan = true →
      ResultC (.fadd d rm a b) s c d 4 0x7FC00000 ∧ ResultC (.fsub d rm a b) s c d 4 0x7FC00000 ∧
      ResultC (.fmul d rm a b) s c d 4 0x7FC00000 ∧ ResultC (.fdiv d rm a b) s c d 14 0x7FC00000 ∧
      ResultC (.fmin d a b) s c d 2 0x7FC00000 ∧ ResultC (.fmax d a b) s c d 2 0x7FC00000 ∧
      ResultC (.fcmp d .eq a b) s c d 2 0 ∧ ResultC (.fcmp d .lt a b) s c d 2 0 ∧ ResultC (.fcmp d .le a b) s c d 2 0 ∧
      ResultC (.fcmp d .un a b) s c d 2 1 ∧ ResultC (.fcmp d .ne a b) s c d 2 1)) ∧
  (∀ (s : State) (d : CDst) (a b e : CSrc) (x y z : Word) (c : Core) (rm : Rm), ReadyC3 s d a b e x y z c →
    ResultC (.ffma d rm a b e) s c d 4 ((f32of rm (((fpOf x).mul (fpOf y)).add rm (fpOf z))).setWidth 64)) ∧
  (∀ (s : State) (d : CDst) (a : CSrc) (x : Word) (c : Core) (rm : Rm), ReadyC1 s d a x c →
    ResultC (.fsqrt d rm a) s c d 14 ((f32of rm (fpOf x).sqrt).setWidth 64) ∧
    ResultC (.frcp d rm a) s c d 8 ((f32of rm ((FVal.ofInt 1).div (fpOf x))).setWidth 64) ∧
    ResultC (.fexp2 d a) s c d 6 ((exp2 (x.setWidth 32)).setWidth 64) ∧
    ResultC (.fcvt d .f32i64 rm a) s c d 3 ((f32of rm (FVal.ofInt x.toInt)).setWidth 64) ∧
    ResultC (.fcvt d .f32i32 rm a) s c d 3 ((f32of rm (FVal.ofInt (x.setWidth 32).toInt)).setWidth 64) ∧
    ResultC (.fcvt d .f32u32 rm a) s c d 3 ((f32of rm (FVal.ofInt (x.setWidth 32).toNat)).setWidth 64) ∧
    ResultC (.fcvt d .i32f32 rm a) s c d 3 (BitVec.ofInt 64 ((fpOf x).toRange rm (-(2 ^ 31)) (2 ^ 31 - 1))) ∧
    ResultC (.fcvt d .u32f32 rm a) s c d 3 (BitVec.ofInt 64 ((fpOf x).toRange rm 0 (2 ^ 32 - 1))) ∧
    ResultC (.fcvt d .i64f32 rm a) s c d 3 (BitVec.ofInt 64 ((fpOf x).toRange rm (-(2 ^ 63)) (2 ^ 63 - 1))) ∧
    ResultC (.fcvt d .f16f32 rm a) s c d 3 (BitVec.ofNat 64 (fF16.encode rm (fpOf x))) ∧
    ResultC (.fcvt d .f32f16 .rne a) s c d 3 ((f32of .rne (fF16.decode (x.toNat % 65536))).setWidth 64)) ∧
  (∀ x y : FVal, x ≠ .nan → y ≠ .nan →
    (fcmpTest .eq x y = true ↔ ¬ x.Under y ∧ ¬ y.Under x) ∧ (fcmpTest .lt x y = true ↔ x.Under y) ∧
    (fcmpTest .le x y = true ↔ ¬ y.Under x) ∧ (fcmpTest .ne x y = true ↔ x.Under y ∨ y.Under x) ∧ fcmpTest .un x y = false)

/-- Decoding the bits of a floating-point format and encoding the value again gives the bits back, in every rounding mode; a NaN
gives the canonical NaN of the format. Element e of a vector made of given elements is the low bits of the given one, for every
element width (R66 to R68, R70). -/
def Obligations.NumberFormatsRoundTrip : Prop :=
  (∀ (f : FFmt) (rm : Rm) (b : Nat), f ∈ [fF32, fBF16, fF16, fE4M3, fE5M2, fE2M1] → b < 2 ^ f.w →
    f.encode rm (f.decode b) = if (f.decode b).isNan then f.nan else b) ∧
  (∀ (f : Fmt) (g : Nat → Nat) (e : Nat), e < f.count → elem f.width (vecOfElems f.width g) e = g e % 2 ^ f.width)

/-! ### C: transfers and loops (R100 to R103) -/

/-- The transfers of C: where each goes and when it is taken (R101 to R103). -/
def Obligations.TransfersGoToTheirTargets : Prop :=
  (∀ (s : State) (cc : Cond) (a b : CSrc) (t : Target) (x y : Word) (c : Core), SourcesC2 s a b x y c →
    (TargetOk s c (targetLine (c.lineOf .c) t) →
      IssuesAs .c (.br cc a b t) s (transfer c (condTest cc x y) (targetLine (c.lineOf .c) t) t.parcel.toNat [])) ∧
    (∀ n : Nat, (n : Int) = (c.lineOf .c : Int) + t.line.toInt + x.toNat → TargetOk s c n →
      IssuesAs .c (.jtab a b t) s (transfer c (x.ult y) n t.parcel.toNat []))) ∧
  (∀ (s : State) (cc : Cond) (a : CSrc) (imm : BitVec 6) (t : Target) (p : BitVec 5) (k : Fin 4) (x : Word) (c : Core),
    SourcesC1 s a x c →
    (TargetOk s c (targetLine (c.lineOf .c) t) →
      IssuesAs .c (.bri cc a imm t) s
        (transfer c (condTest cc x (imm.signExtend 64)) (targetLine (c.lineOf .c) t) t.parcel.toNat []) ∧
      IssuesAs .c (.loopset k a t) s
        (transfer c (x.setWidth 32 == (0 : BitVec 32)) (targetLine (c.lineOf .c) t) t.parcel.toNat [loopReq .c k (x.setWidth 32)])) ∧
    (TargetOk s c (x.toNat / 32) → 2 ≤ x.toNat % 32 →
      IssuesAs .c (.ret a) s (transfer c true (x.toNat / 32) (x.toNat % 32) [])) ∧
    (TargetOk s c x.toNat → IssuesAs .c (.jmpi a p) s (transfer c true x.toNat p.toNat []))) ∧
  (∀ (s : State) (k : Fin 4) (t : Target), s.Roomy → TargetOk s s.me (targetLine (s.me.lineOf .c) t) →
    IssuesAs .c (.bdec k t) s (transfer s.me (s.me.ctx.c.k[k] - 1 != 0) (targetLine (s.me.lineOf .c) t) t.parcel.toNat
      [loopReq .c k (s.me.ctx.c.k[k] - 1)]) ∧
    (∀ l p, s.after s.cur (s.me.stream .c).line (s.me.stream .c).parcel = some (l, p) →
      IssuesAs .c (.call t) s (transfer s.me true (targetLine (s.me.lineOf .c) t) t.parcel.toNat
        [pushH0 1 (BitVec.ofNat 64 (32 * l + p))])))

/-- A transfer taken in cycle I outside joined lines makes the next item of the cluster reach issue at I + 2; one that is
not taken, and every other plain item, at I + 1 (R25, R100). -/
def Obligations.TakenTransfersReachIssueTwoLater : Prop :=
  ∀ (s : State) (cl : Cluster) (c : Core) (line parcel : Nat) (reqs : List Req),
    c.inJoined = false ∨ c.inHandler = true →
    let now := s.itemCycle s.cur
    let t := s.commit cl (transfer c true line parcel reqs)
    let u := s.commit cl (transfer c false line parcel reqs)
    ((t.core s.cur).stream cl).mode = .run ∧ ((t.core s.cur).stream cl).line = line ∧
    ((t.core s.cur).stream cl).parcel = parcel ∧ ((t.core s.cur).stream cl).entering = true ∧
    ((t.core s.cur).stream cl).reach = now + 2 ∧ ((t.core s.cur).stream cl).latched = none ∧
    (((u.core s.cur).stream cl).mode = .run → ((u.core s.cur).stream cl).reach = now + 1)

/-! ### C: memory (R104, R154 to R156) -/

/-- LD, LDS and ST: with an address that passes the checks of R154 the access performs at its padded latency; an
address that is no multiple of the size is ALIGN (R104, R156, R208). -/
def Obligations.ScalarAccessesIssue : Prop :=
  (∀ (s : State) (d : CDst) (sz : Size) (cl : Cls) (off : BitVec 17) (base : CSrc) (b : Word) (c c1 : Core) (pa : Nat),
    ReadyC1 s d base b c →
    let va := b + off.signExtend 64
    let z := sizeBytes sz
    (checkElem s s.cur c cl .r va z z 0 false = .ok (pa, c1) → ∀ signed : Bool,
      Issues .c (if signed then .lds d sz cl off base else .ld d sz cl off base) s c1
        (s.accessReqs s.cur c1 ⟨.ldC (match d with | .s r => some r | _ => none) ((dstChan d).map fun ch => (ch.val, s.seq)) signed,
          [⟨va, z, 0, pa⟩], c1.posOf .c, none⟩ (s.latency s.cur cl (pasFrom pa z)))) ∧
    (va.toNat % z ≠ 0 →
      TrapsAt .c (.ld d sz cl off base) s .align (accessInfo va 0 false) ∧
      TrapsAt .c (.lds d sz cl off base) s .align (accessInfo va 0 false))) ∧
  (∀ (s : State) (sz : Size) (cl : Cls) (off : BitVec 17) (base data : CSrc) (b x : Word) (c c1 : Core) (pa : Nat),
    SourcesC2 s base data b x c →
    let va := b + off.signExtend 64
    let z := sizeBytes sz
    (checkElem s s.cur c cl .w va z z 0 false = .ok (pa, c1) →
      Issues .c (.st sz cl data off base) s c1
        (s.accessReqs s.cur c1 ⟨.st (leBytes x.toNat z), [⟨va, z, 0, pa⟩], c1.posOf .c, none⟩
          (s.latency s.cur cl (pasFrom pa z)))) ∧
    (va.toNat % z ≠ 0 → TrapsAt .c (.st sz cl data off base) s .align (accessInfo va 0 false)))

/-! ### C: the system instructions (R29, R59 to R61, R106 to R110) -/

/-- NOP, IDLE, GETC, PUTC, WAITF, SLEEPU, HALT and FSC: what each does at its issue (R23, R29, R88, R107, R109,
R110). -/
def Obligations.SystemInstructionsIssue : Prop :=
  (∀ s : State, s.Roomy → Issues .c .nop s s.me [] ∧ (∀ v, Issues s.curCl (.idle v) s s.me []) ∧
    (∀ sc, IssuesAs .c (.fsc sc) s
      ⟨s.me, [⟨fenceDelay s sc, none, true, .fenceComplete, .scope sc⟩], .next (fenceDelay s sc), none, [], []⟩)) ∧
  (∀ (s : State) (d : CDst) (r : SysReg) (c : Core), ReadyC0 s d c →
    ResultC (.getc d r) s c d 2 (readSys s s.cur s.me r)) ∧
  (∀ (s : State) (a : CSrc) (r : SysReg) (x : Word) (c : Core), SourcesC1 s a x c →
    (r ≠ .tctl → Issues .c (.putc r a) s c [⟨1, none, true, .resultLanding, .landing (.sysreg r x)⟩]) ∧
    (s.me.inHandler = false → Issues .c (.putc .tctl a) s c []) ∧
    (s.me.inHandler = false → s.me.isLocked = true → s.framecnt s.cur < x.toNat % 2 ^ 48 * 32768 →
      IssuesAs .c (.waitf a) s ⟨c, [], .wait (.waitf (x.toNat % 2 ^ 48 * 32768)), none, [], []⟩) ∧
    (s.me.inHandler = false → s.me.isLocked = true → x.toNat % 2 ^ 48 * 32768 ≤ s.framecnt s.cur →
      TrapsAt .c (.waitf a) s .stampLate (lateInfo 0 1 (s.framecnt s.cur - x.toNat % 2 ^ 48 * 32768))) ∧
    (s.me.inHandler = false → s.framecnt s.cur < x.toNat % 2 ^ 63 →
      IssuesAs .c (.sleepu a) s ⟨c, [], .wait (.sleepu (x.toNat % 2 ^ 63)), none, [], []⟩) ∧
    (s.me.inHandler = false → x.toNat % 2 ^ 63 ≤ s.framecnt s.cur →
      IssuesAs .c (.sleepu a) s ⟨c, [], .checked 1 (x.toNat % 2 ^ 63), none, [], []⟩) ∧
    (s.me.inHandler = false → c.longestWait = none → IssuesAs .c (.halt a) s ⟨c, [], .halt x, none, [], []⟩))

/-- TRAP and BREAK issue at I, and the stop they ask for comes in the next cycle, before any item of it: TCAUSE tells the cause,
TINFO the code with the low word of a, or the code, and TRAPLINE the item after (R108, R305, R307). -/
def Obligations.TrapAndBreakStopBehind : Prop :=
  (∀ (s : State) (a : CSrc) (code : BitVec 15) (x : Word) (c : Core), SourcesC1 s a x c →
    IssuesAs .c (.trap a code) s ⟨c, [], .checked 3 (code.toNat + x.toNat % 2 ^ 32 * 2 ^ 32), none, [], []⟩) ∧
  (∀ (s : State) (code : BitVec 15), s.Roomy → IssuesAs .c (.brk code) s ⟨s.me, [], .checked 4 code.toNat, none, [], []⟩) ∧
  (∀ (s : State) (id : CoreId) (c : Core) (cyc kind v : Nat),
    ((s.flow id .c c cyc (.checked kind v)).stream .c).check = some (kind, v) ∧
    ((s.flow id .c c cyc (.checked kind v)).stream .c).reach = cyc + 1) ∧
  (∀ (s : State) (id : CoreId) (kind v : Nat), ((s.core id).stream .c).check = some (kind, v) → (s.core id).issues = true →
    ((s.core id).stream .c).reach ≤ s.itemCycle id →
    let u := (s.acting id .c).modStream id .c fun st => { st with check := none }
    (kind = 3 → s.issueDue id = true ∧ s.issueCycle id = .next (u.tick.tick.raise id .syscall (BitVec.ofNat 64 v) (u.afterItem id (u.core id)))) ∧
    (kind = 4 → s.issueDue id = true ∧ s.issueCycle id = .next (u.tick.tick.raise id .break_ (BitVec.ofNat 64 v) (u.afterItem id (u.core id))))) ∧
  (∀ (s : State) (id : CoreId), ((s.core id).stream .c).mode = .run → ((s.core id).stream .c).entering = false →
    s.afterItem id (s.core id) = (s.core id).posOf .c)

/-- MLOAD queues the copy, which starts at I + 4 where no other is pending, and makes its entries stale for every cluster; the fences
clear the stale bits of their own cluster but those of entries with a write pending; a short parcel whose entry is valid and current
becomes the filled long word, issued T cycles later (R57, R59, R61). -/
def Obligations.MouldsLoadFenceExpand : Prop :=
  (∀ (s : State) (a b : CSrc) (n : BitVec 11) (x y : Word) (c : Core), SourcesC2 s a b x y c →
    x.toNat % 16 = 0 → x.toNat + 16 * n.toNat ≤ 2 ^ 20 → c.ctx.mloads.length < 4 →
    let j : MloadJob := ⟨s.seq, x.toNat, y.toNat % 1024, n.toNat, 0⟩
    ∃ c1, Issues .c (.mload a b n) s c1 (if c.ctx.mloads.isEmpty then [⟨4, none, false, .mouldEntryWrite, .ids s.seq 0⟩] else []) ∧
      c1.ctx.mloads = c.ctx.mloads ++ [j] ∧
      (∀ k : Fin 4, c1.ctx.stale[k] = j.left.foldl setInsert c.ctx.stale[k]) ∧
      c1.ctx.moulds = c.ctx.moulds) ∧
  (∀ s : State, s.Roomy →
    let fenced := fun (k : Fin 4) => (s.me.ctx.stale[k]).filter fun m => (s.me.ctx.mloads.flatMap MloadJob.left).contains m
    ∀ (cl : Cluster) (i : Instr), (cl, i) ∈ [(Cluster.c, Instr.mouldf), (.x, .xmouldf), (.l, .lmouldf), (.s, .smouldf)] →
      ∃ c1, Issues cl i s c1 [] ∧
        ∀ k : Fin 4, c1.ctx.stale[k] = if k.val = cl.idx then fenced k else s.me.ctx.stale[k]) ∧
  (∀ (s : State) (m : BitVec 10) (v : BitVec 5) (cl : Cluster) (w : Nat),
    let e := s.me.ctx.mould m.toNat
    e / 2 ^ 80 % 2 = 1 → (s.me.ctx.stale[cl.idx]!).contains m.toNat = false → fillMould cl e v.toNat = .ok w →
    s.me.inJoined = false ∨ s.me.inHandler = true ∨ branchOpcode cl (w / 2 ^ 39 % 128) = false →
    ∃ t, exec (.shortParcel m v cl) s = .next t ∧ t.mem = s.mem ∧ t.agenda = s.agenda ∧ (t.core s.cur).ctx.c = s.me.ctx.c ∧
      ((t.core s.cur).stream cl).latched = some (s.itemCycle s.cur + w / 2 ^ 46 % 2 ^ 15, .word w))

/-! ### C: engine requests (R200, R231, R232, R238 to R240, R252 to R256, R264, R265, R272, R279, R289, R295, R380) -/

/-- MARK, RDVW and CWAIT: a marker joins the queue of each named engine; the waits go on at once where their condition holds, wait
in a free task, and are SYNC_LATE in a locked one (R231, R232, R240). -/
def Obligations.MarkersAndWaitsIssue : Prop :=
  ∀ (s : State), s.Roomy → s.me.inHandler = false →
    (∀ (m : BitVec 12) (mask : BitVec 5), (∀ e, e < 5 → mask.getLsbD e = true → (s.me.ctx.markers[e]!).length < 8) →
      ∃ c, Issues .c (.mark m mask) s c [] ∧ ∀ e, e < 5 → c.ctx.markers[e]! =
        if mask.getLsbD e then s.me.ctx.markers[e]! ++ [⟨m, s.behind s.cur e, s.me.ctx.tau + 1⟩] else s.me.ctx.markers[e]!) ∧
    (∀ (m : BitVec 12) (mask : BitVec 5),
      (s.me.ctx.rdvFails m.toNat mask.toNat = 0 → Issues .c (.rdvw m mask) s s.me []) ∧
      (s.me.ctx.rdvFails m.toNat mask.toNat ≠ 0 → s.me.isLocked = false →
        IssuesAs .c (.rdvw m mask) s ⟨s.me, [], .wait (.rdvw m.toNat mask.toNat), none, [], []⟩) ∧
      (s.me.ctx.rdvFails m.toNat mask.toNat ≠ 0 → s.me.isLocked = true →
        TrapsAt .c (.rdvw m mask) s .syncLate (BitVec.ofNat 64 (m.toNat + s.me.ctx.rdvFails m.toNat mask.toNat * 65536)))) ∧
    (∀ n : BitVec 4,
      (s.batches s.cur ≤ n.toNat → IssuesAs .c (.cwait n) s ⟨s.me, [], .checked 2 0, none, [], []⟩) ∧
      (n.toNat < s.batches s.cur → s.me.isLocked = false →
        IssuesAs .c (.cwait n) s ⟨s.me, [], .wait (.cwait n.toNat), none, [], []⟩) ∧
      (n.toNat < s.batches s.cur → s.me.isLocked = true →
        TrapsAt .c (.cwait n) s .syncLate (BitVec.ofNat 64 (n.toNat + min (s.batches s.cur) 15 * 256))))

/-- CPY is accepted with the promise FRAMECNT(I) + (F − I) on h0, where S = max(I + 1, the last copy's S + n) and F = S + n − 1 +
latS + latD, or F = I + 1 for a length of 0; CBATCH pushes the greatest promise of the batch and closes it (R239, R240). -/
def Obligations.CopiesAreAccepted : Prop :=
  (∀ (s : State) (scl dcl : Cls) (pf crc : Bool) (a b e : CSrc) (src dst len : Word) (c0 c1 c2 : Core) (ss ds : List Seg),
    SourcesC3 s a b e src dst len c0 → s.me.inHandler = false → (s.copies s.cur).length < 8 →
    src.toNat % 8 = 0 → dst.toNat % 8 = 0 → len.toNat % 8 = 0 → len.toNat ≤ 2 ^ 24 →
    checkCopy s s.cur scl .r src (len.toNat / 65536 + 2) 0 len.toNat c0 = .ok (ss, c1) →
    checkCopy s s.cur dcl .w dst (len.toNat / 65536 + 2) 0 len.toNat c1 = .ok (ds, c2) →
    let n := (len.toNat + 127) / 128
    let st := max (c2.ctx.tau + 1) c2.ctx.copy.prev
    let fin := if len.toNat = 0 then c2.ctx.tau + 1 else st + n - 1 + s.segLat s.cur scl ss + s.segLat s.cur dcl ds
    let first := if len.toNat = 0 then [⟨1, none, false, .copyComplete, .beat s.seq 0 true⟩]
      else s.memReqs s.cur c2 (segPas ss 0 1) .copyBeatRead (.beat s.seq 0 true) (st + s.segLat s.cur scl ss - c2.ctx.tau) false
    ∃ c3 k, Accepts (.cpy scl dcl pf crc a b e) s c3
        (pushH0 1 (BitVec.ofNat 64 ((s.framecnt s.cur + (fin - c2.ctx.tau)) % 2 ^ 63)) :: first) (.copy k) [] ∧
      k.num = c2.ctx.copy.next ∧ k.src = ss ∧ k.dst = ds ∧ k.len = len.toNat ∧ k.start = st ∧ k.fin = fin ∧
      c3.ctx.copy.next = c2.ctx.copy.next + 1 ∧ c3.ctx.copy.prev = (if len.toNat = 0 then c2.ctx.copy.prev else st + n)) ∧
  (∀ s : State, s.Roomy → s.me.inHandler = false → s.closedBatches s.cur < 8 →
    (s.me.ctx.copy.opened = [] →
      Issues .c .cbatch s s.me [pushH0 1 (BitVec.ofNat 64 ((s.framecnt s.cur + 1) % 2 ^ 63))]) ∧
    (s.me.ctx.copy.opened ≠ [] → ∃ c, Issues .c .cbatch s c [pushH0 1 (BitVec.ofNat 64 (s.me.ctx.copy.opened.foldl max 0))] ∧
      c.ctx.copy.opened = [] ∧ c.ctx.copy.batch = s.me.ctx.copy.batch + 1))

/-- The commands of the matrix unit: MNEST writes the shadow table at I + 1, MFORM queues a legal format word at I + 1, MGO latches
the shadow table and exchanges the tables, MSIDE and MRSC own their tile until their end (R252 to R258, R264, R265). -/
def Obligations.MatrixCommandsIssue : Prop :=
  (∀ (s : State) (a b : CSrc) (e : Fin 10) (n : BitVec 16) (x y : Word) (c : Core), SourcesC2 s a b x y c → s.me.inHandler = false →
    (e.val = 3 → x.toNat % 1024 = 0 ∧ y.toNat < 256) →
    Issues .c (.mnest a b e n) s c [⟨1, none, true, .resultLanding, .landing (.nest e x y n.toNat)⟩]) ∧
  (∀ (s : State) (a : CSrc) (r : BitVec 16) (w : Word) (c : Core), SourcesC1 s a w c → s.me.inHandler = false →
    (formFault w = none → c.ctx.mat.fq.length < 8 →
      Issues .c (.mform a r) s c [⟨1, none, true, .formatQueueEntry, .words w (BitVec.ofNat 64 (r.toNat + 1))⟩]) ∧
    (∀ k, formFault w = some k → TrapsAt .c (.mform a r) s .illegalFormat (BitVec.ofNat 64 k))) ∧
  (∀ s : State, s.Roomy → s.me.inHandler = false → walkCount s.me.ctx.mat.shadow < 2 ^ 32 → s.me.ctx.mat.walks.length < 2 →
    ∃ c, Issues .c .mgo s c [] ∧ c.ctx.mat.active = s.me.ctx.mat.shadow ∧ c.ctx.mat.shadow = s.me.ctx.mat.active ∧
      c.ctx.mat.walks = s.me.ctx.mat.walks ++ [⟨s.seq, s.me.ctx.mat.shadow, 0⟩]) ∧
  (∀ (s : State) (a : CSrc) (cl : Cls) (t : Fin 4) (va : Word) (c c1 : Core) (segs : List Seg), SourcesC1 s a va c →
    s.me.inHandler = false → accFree c t = .ok () → va.toNat % 8 = 0 →
    let reqs := fun (ev : Instr) (arg : Arg) => s.memReqs s.cur c1 (segsPas segs) ev arg (s.segLat s.cur cl segs) false
    (checkWhole s s.cur c cl .w va 512 = .ok (segs, c1) → Issues .c (.mside a true cl t) s c1
      (reqs .accessPerform (.access ⟨.st ((c1.ctx.acc[t].m.toList ++ c1.ctx.acc[t].s.toList).flatMap fun x => leBytes x.toNat 4),
        segEls va segs, c1.posOf .c, none⟩))) ∧
    (checkWhole s s.cur c cl .r va 512 = .ok (segs, c1) → Issues .c (.mside a false cl t) s
      (c1.ownTile s.seq t (c1.ctx.tau + s.segLat s.cur cl segs + 1))
      (reqs .msideLoadWrite (.side ⟨s.seq, 0, t, segEls va segs, [], c1.posOf .c⟩))) ∧
    (checkWhole s s.cur c cl .r va 256 = .ok (segs, c1) → Issues .c (.mrsc a true cl t) s
      (c1.ownTile s.seq t (c1.ctx.tau + s.segLat s.cur cl segs + 16))
      (reqs .mrscWrite (.side ⟨s.seq, 1, t, segEls va segs, [], c1.posOf .c⟩)))) ∧
  (∀ (s : State) (a : CSrc) (cl : Cls) (t : Fin 4), s.Roomy → s.me.inHandler = false → accFree s.me t = .ok () →
    Issues .c (.mrsc a false cl t) s (s.me.ownTile s.seq t (s.me.ctx.tau + 16))
      [⟨16, none, false, .mrscWrite, .side ⟨s.seq, 2, t, [], [], s.me.posOf .c⟩⟩])

/-- The page instructions and ATTN are accepted on aligned ranges that pass the checks; ATTN pushes its promise (R272, R279, R280). -/
def Obligations.PagesAndAttentionAreAccepted : Prop :=
  (∀ (s : State) (ad : Bool) (cl : Cls) (a b : CSrc) (n : BitVec 12) (x y : Word) (c c1 : Core) (sa : List Seg),
    SourcesC2 s a b x y c → s.me.inHandler = false → s.pageJobs s.cur < 4 → x.toNat % 16 = 0 →
    checkWhole s s.cur c cl .rw x (16 * (n.toNat + 1)) = .ok (sa, c1) →
    Accepts (.kpos ad cl a b n) s c1
      (s.memReqs s.cur c1 (segPas sa 0 16) .pageEntryRead (.beat s.seq 0 true) (s.segLat s.cur cl sa) false)
      (.page ⟨if ad then .add else .set, x, 0, sa, [], n.toNat + 1, y, s.segLat s.cur cl sa, c1.domtag, 0, 0, [], none, c1.posOf .c⟩) []) ∧
  (∀ (s : State) (cl : Cls) (sl : Bool) (a b : CSrc) (n : BitVec 12) (x y : Word) (c c1 : Core) (sa sb : List Seg),
    SourcesC2 s a b x y c → s.me.inHandler = false → s.pageJobs s.cur < 4 → x.toNat % 16 = 0 →
    let req := s.memReqs s.cur c1 (segPas sa 0 16) .pageEntryRead (.beat s.seq 0 true) (s.segLat s.cur cl sa) false
    let job := fun (op : PageOp) (k : Nat) => JobBody.page
      ⟨op, x, y, sa, sb, k, 0, s.segLat s.cur cl sa, c1.domtag, 0, 0, [], none, c1.posOf .c⟩
    (y.toNat % 16 = 0 → checkTwo s s.cur c cl .r .rw x y (16 * (n.toNat + 1)) (16 * (n.toNat + 1)) = .ok (sa, sb, c1) →
      Accepts (.kfork cl a b n) s c1 req (job .fork (n.toNat + 1)) []) ∧
    (y.toNat % 8 = 0 → checkTwo s s.cur c cl .rw .rw x y (16 * (n.toNat + 1)) (8 * (n.toNat + 1)) = .ok (sa, sb, c1) →
      Accepts (.kdrop cl a b n) s c1 req (job .drop (n.toNat + 1)) []) ∧
    (y.toNat % 16 = 0 → checkTwo s s.cur c cl .r .rw x y 16 16 = .ok (sa, sb, c1) →
      Accepts (.kmap sl cl a b) s c1 req (job (.map sl) 1) [])) ∧
  (∀ (s : State) (cl : Cls) (a : CSrc) (va : Word) (c c1 : Core) (segs : List Seg), SourcesC1 s a va c → s.me.inHandler = false →
    s.attnJobs s.cur < 4 → va.toNat % 64 = 0 → checkWhole s s.cur c cl .rw va 128 = .ok (segs, c1) →
    s.poisoned (segPas segs 0x40 5) = false →
    ∃ k wait, Accepts (.attn cl a) s c1 [pushH0 1 (BitVec.ofNat 64 ((s.framecnt s.cur + wait + k.span) % 2 ^ 63)),
        ⟨wait, none, false, .attnStart, .beat s.seq 0 true⟩] (.attn k) (segPas segs 0x40 5) ∧
      1 ≤ wait ∧ k.engine = s.cur.core % 8 ∧ k.start = c1.ctx.tau + wait ∧ k.blk = segs ∧ k.va = va)

/-- The cast requests are accepted into the core's list, CSTAT reports the oldest, and COLL is accepted with its block's read as
its effect in flight (R289, R295, R373). -/
def Obligations.CastsAndCollectivesAreAccepted : Prop :=
  (∀ (s : State) (hold : Bool) (cl : Cls) (a : CSrc) (va : Word) (c c1 : Core) (segs : List Seg), SourcesC1 s a va c →
    s.me.inHandler = false → va.toNat % 64 = 0 →
    (c.ctx.castq.length < 8 → checkWhole s s.cur c cl .rw va 64 = .ok (segs, c1) →
      ∃ c2 k l, c2.ctx.castq = c1.ctx.castq ++ [⟨s.seq, 0, none⟩] ∧ k.op = .find hold ∧ k.va = va ∧ k.blk = segs ∧
        Accepts (.cfind hold cl a) s c2 [⟨1, none, false, .castRequestStart, .beat s.seq 0 true⟩] (.cast k) [] ∧
        l.op = .put hold ∧ l.va = va ∧ l.blk = segs ∧ ∃ c3, c3.ctx.castq = c1.ctx.castq ++ [⟨s.seq, 1, none⟩] ∧
        Accepts (.cput hold cl a) s c3 [⟨1, none, false, .castRequestStart, .beat s.seq 0 true⟩] (.cast l) []) ∧
    (s.collCount s.cur < 4 → checkWhole s s.cur c cl .rw va 128 = .ok (segs, c1) →
      ∃ k, k.die = s.cur.die ∧ k.va = va ∧ k.blk = segs ∧
        Accepts (.coll cl a) s c1
          (s.memReqs s.cur c1 (segPas segs 0 128) .collBlockRead (.beat s.seq 0 true) (s.segLat s.cur cl segs)) (.coll k) [])) ∧
  (∀ (s : State) (a b : CSrc) (va h : Word) (c c1 : Core) (segs : List Seg), SourcesC2 s a b va h c → s.me.inHandler = false →
    va.toNat % 64 = 0 → c.ctx.castq.length < 8 → checkWhole s s.cur c .d .r va 128 = .ok (segs, c1) →
    ∃ c2 k, c2.ctx.castq = c1.ctx.castq ++ [⟨s.seq, 2, none⟩] ∧ k.op = .rel ∧ k.handle = h ∧ k.va = va ∧
      Accepts (.crel a b) s c2 [⟨1, none, false, .castRequestStart, .beat s.seq 0 true⟩] (.cast k) []) ∧
  (∀ s : State, s.Roomy → s.me.inHandler = false →
    (s.me.ctx.castq = [] → Issues .c .cstat s s.me [pushH0 1 (BitVec.allOnes 64)]) ∧
    (∀ q rest, s.me.ctx.castq = q :: rest →
      (q.done = none → s.me.isLocked = true → TrapsAt .c .cstat s .syncLate 0) ∧
      (q.done = none → s.me.isLocked = false → ∃ c, IssuesAs .c .cstat s ⟨c, [], .wait .cstat, none, [], []⟩) ∧
      (∀ st, q.done = some st → castCause st = none →
        ∃ c, c.ctx.castq = rest ∧ Issues .c .cstat s c [pushH0 1 (BitVec.ofNat 64 st)])))

/-- TSPAWN, PHINT, CRESIZE and TCINC: what each asks for; CRESIZE pushes the cycle of its completion, 64 + 4096 cycles a way after
its start, which is after the one before has completed (R195, R200, R325, R378). -/
def Obligations.SchedulerRequestsIssue : Prop :=
  (∀ (s : State) (a b : CSrc) (x y : Word) (c : Core), s.me.inHandler = false → x.toNat % 64 = 0 → canonical x.toNat = true →
    let tag := match c.task with | some t => t.domtag.toNat | none => 0
    let fn := match c.task with | some t => t.fn | none => 0
    (SourcesC1 s a x c → Issues .c (.tspawn false a b) s c [⟨160, none, true, .tspawnApply, .spawn false x.toNat 0 tag fn⟩]) ∧
    (SourcesC2 s a b x y c →
      Issues .c (.tspawn true a b) s c [⟨160, none, true, .tspawnApply, .spawn true x.toNat y.toNat tag fn⟩])) ∧
  (∀ (s : State) (line : BitVec 14), s.Roomy → s.me.inHandler = false → line.toNat < s.me.imagelen →
    let pas := s.me.recordPas s.cur line.toNat
    s.poisoned pas = false → liveBad (s.readAs s.cur pas) = none →
    ∃ c, IssuesAs .c (.phint line) s ⟨c, [], .next 1, none, [], pas⟩ ∧
      (s.me.isLocked = false ∧ s.me.ctx.sys.preempting = true →
        c.ctx.drain = some ⟨s.readAs s.cur pas, false, 0, 0⟩ ∧ c.ctx.sys.preempting = false) ∧
      (s.me.isLocked = true ∨ s.me.ctx.sys.preempting = false → c = s.me)) ∧
  (∀ (s : State) (n : BitVec 5), s.Roomy → s.me.inHandler = false → n.toNat ≤ 16 → s.me.cresizes.length < 2 →
    s.friezeEnd s.cur.die ≤ (16 - n.toNat) * 524288 →
    let c0 := match s.me.cresizes.getLast? with | some r => r.n | none => s.me.ways
    let st := match s.me.cresizes.getLast? with | some r => r.done + 1 - (if r.own then 0 else s.me.ctx.lag) | none => s.timeline s.cur
    let fin := st + 64 + 4096 * (max n.toNat c0 - min n.toNat c0)
    ∃ c, c.cresizes = s.me.cresizes ++ [⟨n.toNat, st, fin, c0, true⟩] ∧ c.ways = s.me.ways ∧
      Issues .c (.cresize n) s c [pushH0 1 (BitVec.ofNat 64 (fin % 2 ^ 63)),
        ⟨st - s.timeline s.cur, some s.cur, false, .cresizeStart, .ids n.toNat c0⟩,
        ⟨fin - s.timeline s.cur, some s.cur, false, .cresizeComplete, .ids n.toNat c0⟩]) ∧
  (∀ (s : State) (k n : BitVec 8), s.Roomy →
    Issues .s (.tcinc k n) s s.me [⟨160, none, true, .tcincApply, .ids k.toNat (n.toNat + 1)⟩])

/-- The frieze instructions: PDISP goes to the entry of the panel in place or to the label, PROW pushes a row's panel or the counts
onto h0 at I + 4, PDONE applies at I + 160 (R348 to R350). What a core sees of its die's port is the port itself where no hold is on its
way (R352). -/
def Obligations.FriezeInstructionsIssue : Prop :=
  (∀ (s : State) (lane : FzLane) (a b : CSrc) (t : Target) (x y : Word) (c : Core), SourcesC2 s a b x y c → x.toNat % 4 = 0 →
    let tag := s.fzCur s.cur lane
    let i := (tagIndex tag.toNat + 65536 - bits y 15 0) % 65536
    let pas := pasFrom (padBase s.cur + (x.toNat + 4 * i)) 4
    let e := leNat (s.readAs s.cur pas)
    let label := targetLine (c.lineOf .c) t
    (tagKind tag.toNat ≠ 0 ∨ bits y 31 16 ≤ i → TargetOk s (c.useLane lane) label →
      IssuesAs .c (.pdisp lane a b t) s (transfer (c.useLane lane) true label t.parcel.toNat [])) ∧
    (tagKind tag.toNat = 0 → i < bits y 31 16 → x.toNat + 4 * i + 4 ≤ 2 ^ 20 → s.poisoned pas = false →
      (e = 0 → TargetOk s (c.useLane lane) label →
        IssuesAs .c (.pdisp lane a b t) s { transfer (c.useLane lane) true label t.parcel.toNat [] with reads := pas }) ∧
      (2 ≤ e % 32 → TargetOk s (c.useLane lane) (e / 32) →
        IssuesAs .c (.pdisp lane a b t) s { transfer (c.useLane lane) true (e / 32) (e % 32) [] with reads := pas }))) ∧
  (∀ (s : State) (lane : FzLane) (a : CSrc) (x : Word) (c : Core), s.me.inHandler = false →
    let map := match s.laneView s.cur lane with | some p => if p.carries then p.map else [] | none => []
    (s.Roomy → ∃ v, Issues .c (.prow true lane a) s (s.me.useLane lane) [pushH0 4 v] ∧
      v.toNat % 128 = (map.filter fun e => decide (e.1 < 56)).length % 128 ∧
      v.toNat / 256 % 16 = (map.filter fun e => decide (56 ≤ e.1)).length % 16) ∧
    (SourcesC1 s a x c → Issues .c (.prow false lane a) s (c.useLane lane)
      [pushH0 4 (BitVec.ofNat 64 (match map.find? fun e => e.1 == x.toNat with | some e => e.2.2 | none => 0))])) ∧
  (∀ (s : State) (lane : FzLane) (a b e : CSrc) (x y z : Word) (c : Core) (p : Port), s.me.inHandler = false →
    s.laneView s.cur lane = some p → p.carries = true → x.toNat < 64 →
    let ask := fun (op : PdoneOp) (n : BitVec 16) (w : Word) (c : Core) =>
      ([⟨160, none, true, .pdoneApply, .pdone ⟨op, lane, x.toNat, n, w, p.ring, (c.useLane lane).posOf .c, false⟩⟩] : List Req)
    (SourcesC2 s a b x y c → Issues .c (.pdone .adv lane a b e) s (c.useLane lane) (ask .adv (y.setWidth 16) 0 c)) ∧
    (SourcesC1 s a x c → Issues .c (.pdone .free lane a b e) s (c.useLane lane) (ask .free 0 0 c)) ∧
    (SourcesC3 s a b e x y z c → z.toNat % 64 = 0 → canonical z.toNat = true →
      Issues .c (.pdone .admitRow lane a b e) s (c.useLane lane) (ask .admitRow (y.setWidth 16) z c))) ∧
  (∀ (s : State) (lane : FzLane), s.holds = [] → s.laneView s.cur lane = s.port? s.cur.die lane)

/-! ### X: vectors (R67, R116 to R118, R128 to R152) -/


/-- The floating-point instructions of X land element-wise results, each exact result rounded once, at the offsets of R130
(R128, R131 to R133, R135, R138). -/
def Obligations.VectorFloatsLand : Prop :=
  (∀ (s : State) (vd : XDst) (p : Fin 8) (fmt : Fmt) (rm : Rm) (a : XSrc) (imm : BitVec 16) (m : Word) (x : Vec) (c : Core),
    ReadyX1 s fmt.width vd p a m x c →
    let res := fun (i : Instr) (n : Nat) (f : Nat → Nat) => ResultX i s c vd n m (map1 fmt.width f x)
    res (.vabs vd p fmt a) 2 (fpElem1 fmt .rne FVal.abs) ∧
    res (.vneg vd p fmt a) 2 (negElem fmt) ∧
    res (.vsqrt vd p fmt rm a) 16 (fpElem1 fmt rm FVal.sqrt) ∧
    res (.vrcp vd p fmt rm a) 8 (fpElem1 fmt rm fun v => (FVal.ofInt 1).div v) ∧
    res (.vrsq vd p fmt rm a) 8 (fpElem1 fmt rm FVal.rsqrt) ∧
    res (.vexp2 vd p fmt a) 8 (fun v => (exp2 (BitVec.ofNat 32 v)).toNat) ∧
    res (.vlog2 vd p fmt rm a) 10 (fpElem1 fmt rm FVal.log2) ∧
    res (.vaddi vd p fmt rm a imm) 4 (fun v => fpElem2 fmt rm (FVal.add rm) v (immFp fmt imm)) ∧
    res (.vmuli vd p fmt rm a imm) 4 (fun v => fpElem2 fmt rm FVal.mul v (immFp fmt imm))) ∧
  (∀ (s : State) (vd : XDst) (p : Fin 8) (fmt : Fmt) (rm : Rm) (a b : XSrc) (m : Word) (x y : Vec) (c : Core),
    ReadyX2 s fmt.width vd p a b m x y c →
    let res := fun (i : Instr) (n : Nat) (f : Nat → Nat → Nat) => ResultX i s c vd n m (map2 fmt.width f x y)
    res (.vadd vd p fmt rm a b) 4 (addElem fmt rm false) ∧
    res (.vsub vd p fmt rm a b) 4 (addElem fmt rm true) ∧
    res (.vmul vd p fmt rm a b) (if fmt = .cf32 then 6 else 4) (mulElem fmt rm) ∧
    res (.vdiv vd p fmt rm a b) 16 (fpElem2 fmt rm FVal.div) ∧
    res (.vmin vd p fmt a b) 2 (fpElem2 fmt .rne FVal.min) ∧
    res (.vmax vd p fmt a b) 2 (fpElem2 fmt .rne FVal.max) ∧
    res (.vscale vd p fmt rm a b) 4 (scaleElem fmt rm)) ∧
  (∀ (s : State) (vd : XDst) (p : Fin 8) (fmt : Fmt) (rm : Rm) (a b e : XSrc) (m : Word) (x y z : Vec) (c : Core),
    ReadyX3 s fmt.width vd p a b e m x y z c →
    let res := fun (i : Instr) (n : Nat) (f : Nat → Nat → Nat → Nat) => ResultX i s c vd n m (map3 fmt.width f x y z)
    let n := if fmt = .cf32 then 6 else 4
    res (.vfma vd p fmt rm a b e) n (fmaElem fmt rm false false) ∧
    res (.vfms vd p fmt rm a b e) n (fmaElem fmt rm false true) ∧
    res (.vfnma vd p fmt rm a b e) n (fmaElem fmt rm true false) ∧
    res (.vclamp vd p fmt a b e) 2 (fpElem3 fmt .rne fun x y z => (x.max y).min z) ∧
    ResultX (.vrope vd p fmt a b e) s c vd 8 m (ropeVec x y z)) ∧
  (∀ (fmt : Fmt) (rm : Rm) (a b c : Nat), fmt ≠ .cf32 →
    let dec := (ffmt fmt).decode
    let enc := (ffmt fmt).encode rm
    addElem fmt rm false a b = enc ((dec a).add rm (dec b)) ∧ addElem fmt rm true a b = enc ((dec a).add rm (dec b).neg) ∧
    mulElem fmt rm a b = enc ((dec a).mul (dec b)) ∧
    fmaElem fmt rm false false a b c = enc (((dec a).mul (dec b)).add rm (dec c)) ∧
    fmaElem fmt rm false true a b c = enc (((dec a).mul (dec b)).add rm (dec c).neg) ∧
    fmaElem fmt rm true false a b c = enc (((dec a).mul (dec b)).neg.add rm (dec c))) ∧
  (∀ (rm : Rm) (a b c : Nat),
    let re := fun x => fF32.decode (x % 2 ^ 32)
    let im := fun x => fF32.decode (x / 2 ^ 32 % 2 ^ 32)
    let pair := fun x y => fF32.encode rm x + fF32.encode rm y * 2 ^ 32
    let pre := ((re a).mul (re b)).add rm ((im a).mul (im b)).neg
    let pim := ((re a).mul (im b)).add rm ((im a).mul (re b))
    addElem .cf32 rm false a b = pair ((re a).add rm (re b)) ((im a).add rm (im b)) ∧
    addElem .cf32 rm true a b = pair ((re a).add rm (re b).neg) ((im a).add rm (im b).neg) ∧
    mulElem .cf32 rm a b = pair pre pim ∧
    fmaElem .cf32 rm false false a b c = pair (pre.add rm (re c)) (pim.add rm (im c)) ∧
    fmaElem .cf32 rm false true a b c = pair (pre.add rm (re c).neg) (pim.add rm (im c).neg) ∧
    fmaElem .cf32 rm true false a b c = pair (pre.neg.add rm (re c)) (pim.neg.add rm (im c))) ∧
  (∀ (x y z : Vec) (i : Nat), i < 32 →
    let u := x[2 * i]!
    let v := x[2 * i + 1]!
    let phase := y[2 * i]!.toNat * (z[2 * i]!.toNat + 2 ^ 32 * z[2 * i + 1]!.toNat) % 2 ^ 64
    let cs := cosSin phase
    (ropeVec x y z)[2 * i]! = fsub (fmul u cs.1) (fmul v cs.2) ∧ (ropeVec x y z)[2 * i + 1]! = fadd (fmul u cs.2) (fmul v cs.1))

/-- The integer instructions of X land, element by element, the exact integer wrapped to the format, or clamped to it when
saturating (R134, R135). -/
def Obligations.VectorIntegersLand : Prop :=
  (∀ (s : State) (vd : XDst) (p : Fin 8) (fmt : Fmt) (sat : Bool) (a b : XSrc) (m : Word) (x y : Vec) (c : Core),
    ReadyX2 s fmt.width vd p a b m x y c →
    let w := fmt.width
    let res := fun (i : Instr) (n : Nat) (f : Nat → Nat → Nat) =>
      ResultElems i s c vd n m w fun e => f (elem w x e) (elem w y e)
    let fit := fun (v : Int) => if sat then clampBits fmt v else wrapBits w v
    res (.viadd vd p fmt sat a b) 1 (fun u v => fit (intVal fmt u + intVal fmt v)) ∧
    res (.visub vd p fmt sat a b) 1 (fun u v => fit (intVal fmt u - intVal fmt v)) ∧
    res (.vimul vd p fmt sat a b) 3 (fun u v => fit (intVal fmt u * intVal fmt v)) ∧
    res (.vimulh vd p fmt a b) 3 (fun u v => wrapBits w (intVal fmt u * intVal fmt v / (2 ^ w : Nat))) ∧
    res (.vimin vd p fmt a b) 1 (fun u v => if intVal fmt u ≤ intVal fmt v then u else v) ∧
    res (.vimax vd p fmt a b) 1 (fun u v => if intVal fmt u < intVal fmt v then v else u) ∧
    res (.vand vd p fmt a b) 1 (fun u v => u &&& v) ∧
    res (.vor vd p fmt a b) 1 (fun u v => u ||| v) ∧
    res (.vxor vd p fmt a b) 1 (fun u v => u ^^^ v) ∧
    res (.vandn vd p fmt a b) 1 (fun u v => u &&& (2 ^ w - 1 - v)) ∧
    res (.vshl vd p fmt a b) 1 (fun u v => u * 2 ^ (v % w)) ∧
    res (.vshr vd p fmt a b) 1 (fun u v => u / 2 ^ (v % w)) ∧
    res (.vsar vd p fmt a b) 1 (fun u v => wrapBits w (toSigned w u / (2 ^ (v % w) : Nat)))) ∧
  (∀ (s : State) (vd : XDst) (p : Fin 8) (fmt tgt : Fmt) (sat : Bool) (a : XSrc) (imm : BitVec 16) (m : Word) (x : Vec) (c : Core),
    ReadyX1 s fmt.width vd p a m x c →
    let w := fmt.width
    let res := fun (i : Instr) (n : Nat) (f : Nat → Nat) => ResultElems i s c vd n m w fun e => f (elem w x e)
    res (.vpopc vd p fmt a) 1 (fun u => (List.range w).countP fun i => u.testBit i) ∧
    res (.vclz vd p fmt a) 1 (leadingZeros w) ∧
    res (.visat vd p fmt tgt a) 1 (fun u => clampBits fmt (clampInt (Fmt.lo tgt) (Fmt.hi tgt) (intVal fmt u))) ∧
    res (.viaddi vd p fmt sat a imm) 1
      (fun u => if sat then clampBits fmt (intVal fmt u + imm.toInt) else wrapBits w (intVal fmt u + imm.toInt)) ∧
    res (.vandi vd p fmt a imm) 1 (fun u => u &&& wrapBits w imm.toInt) ∧
    res (.vori vd p fmt a imm) 1 (fun u => u ||| wrapBits w imm.toInt) ∧
    (imm.toNat < w → res (.vshli vd p fmt a imm) 1 (fun u => u * 2 ^ imm.toNat) ∧
      res (.vshri vd p fmt a imm) 1 (fun u => u / 2 ^ imm.toNat)))

/-- The conversions, packings, codebook decoding and key transforms of X land: a conversion between floating-point formats rounds the
exact value, one to an integer rounds and clamps, and VKEYX maps the patterns as R138 says (R71, R136 to R138). -/
def Obligations.VectorConversionsLand : Prop :=
  (∀ (s : State) (vd : XDst) (p : Fin 8) (fmt dst : Fmt) (rm : Rm) (q : Fin 4) (g : Fin 16) (inv : Bool) (a : XSrc) (m : Word)
    (x : Vec) (c : Core), ReadyX1 s fmt.width vd p a m x c →
    ResultX (.vcvt vd p fmt rm dst a) s c vd 3 m (map1 fmt.width (convert fmt dst rm) x) ∧
    ResultX (.vunpk vd p fmt rm dst q a) s c vd 2 m
      (vecOfElems dst.width fun e => convert fmt dst rm (elem fmt.width x (q.val * dst.count + e))) ∧
    ResultX (.vkeyx vd p fmt inv a) s c vd 1 m (map1 fmt.width (keyElem fmt.width inv) x) ∧
    (let pas := s.me.cbtabPas s.cur
     s.poisoned pas = false →
      IssuesAs .x (.vcbdec vd p fmt g a) s
        { IssueOut.plain c (landX s.seq vd 3 m (cbdecVec fmt g.val x fun k =>
            leNat (((s.readAs s.cur pas).drop (4 * k)).take 4))) with reads := pas })) ∧
  (∀ (s : State) (vd : XDst) (p : Fin 8) (fmt dst : Fmt) (rm : Rm) (q : Fin 4) (d8 : Bool) (a b e : XSrc) (m : Word)
    (x y : Vec) (c : Core), ReadyX2 s fmt.width vd p a b m x y c →
    ResultX (.vdigit vd p fmt d8 a b) s c vd 1 m
      (map1 fmt.width (fun v => v / 2 ^ (elem fmt.width y 0 % 32) % 2 ^ (if d8 then 8 else 4)) x) ∧
    (fmt.width = 2 * dst.width → ResultX (.vpack vd p fmt rm dst q a b e) s c vd 2 m (packVec fmt dst rm q.val x y Vec.zero))) ∧
  (∀ (s : State) (vd : XDst) (p : Fin 8) (fmt dst : Fmt) (rm : Rm) (q : Fin 4) (a b e : XSrc) (m : Word)
    (x y z : Vec) (c : Core), ReadyX3 s fmt.width vd p a b e m x y z c → fmt.width ≠ 2 * dst.width →
    ResultX (.vpack vd p fmt rm dst q a b e) s c vd 2 m (packVec fmt dst rm q.val x y z)) ∧
  (∀ (fmt dst : Fmt) (rm : Rm) (q : Nat) (x y z : Vec) (k : Nat), k < dst.count →
    let lo := 2 * q * fmt.count
    let r := elem dst.width (packVec fmt dst rm q x y z) k
    (k < lo ∨ lo + 2 * fmt.count ≤ k → r = elem dst.width z k) ∧
    (lo ≤ k → k < lo + fmt.count → r = convert fmt dst rm (elem fmt.width x (k - lo)) % 2 ^ dst.width) ∧
    (lo + fmt.count ≤ k → k < lo + 2 * fmt.count →
      r = convert fmt dst rm (elem fmt.width y (k - lo - fmt.count)) % 2 ^ dst.width)) ∧
  (∀ (fmt : Fmt) (g : Nat) (x : Vec) (table : Nat → Nat) (t i : Nat), fmt = .f32 ∨ fmt = .bf16 ∨ fmt = .f16 → 8 * t + 8 ≤ fmt.count →
    i < 8 →
    let word := elem 16 x (g * (if fmt = .f32 then 8 else 16) + t)
    let size := 2 * (table (word / 256) / 16 ^ i % 16) + word % 2
    let minus := if i = 7 then ((List.range 7).countP fun k => word.testBit (k + 1)) % 2 == 1 else word.testBit (1 + i)
    elem fmt.width (cbdecVec fmt g x table) (8 * t + i) =
      (ffmt fmt).encode .rne (.fin (size != 0 && minus) size (-2)) % 2 ^ fmt.width) ∧
  (∀ (a b : Fmt) (rm : Rm) (v : Nat),
    let signed := fun (f : Fmt) => f ∈ [Fmt.i32, .i16, .i8, .i4]
    let lo : Int := if signed b then -2 ^ (b.width - 1) else 0
    let hi : Int := if signed b then 2 ^ (b.width - 1) - 1 else 2 ^ b.width - 1
    let bits := fun (x : Int) => (x % 2 ^ b.width).toNat
    let low := v % 2 ^ a.width
    let n : Int := if signed a ∧ 2 ^ (a.width - 1) ≤ low then (low : Int) - 2 ^ a.width else low
    (a.isFp = true → b.isFp = true → convert a b rm v = (ffmt b).encode rm ((ffmt a).decode v)) ∧
    (a.isFp = true → b.isFp = false → convert a b rm v = bits (match (ffmt a).decode v with
      | .nan => 0
      | .inf neg => if neg then lo else hi
      | .fin neg m e => max lo (min hi (roundInt rm neg m e)))) ∧
    (a.isFp = false → b.isFp = true → convert a b rm v = (ffmt b).encode rm (.fin (decide (n < 0)) n.natAbs 0)) ∧
    (a.isFp = false → b.isFp = false → convert a b rm v = bits (max lo (min hi n)))) ∧
  (∀ (rm : Rm) (neg : Bool) (m : Nat) (e : Int),
    let r := (roundInt rm neg m e).natAbs
    let d := (-e).toNat
    let whole := m / 2 ^ d
    let rest := m % 2 ^ d
    roundInt rm neg m e = (if neg then -(r : Int) else r) ∧ (0 ≤ e → r = m * 2 ^ e.toNat) ∧
    (e < 0 → (rest = 0 → r = whole) ∧ (rest ≠ 0 → match rm with
      | .rtz => r = whole
      | .rdn => r = if neg then whole + 1 else whole
      | .rup => r = if neg then whole else whole + 1
      | .rna => r = if 2 ^ d ≤ 2 * rest then whole + 1 else whole
      | .rne => r = if 2 * rest < 2 ^ d ∨ (2 * rest = 2 ^ d ∧ whole % 2 = 0) then whole else whole + 1))) ∧
  (∀ w v : Nat, 0 < w → v < 2 ^ w →
    keyElem w false v = (if 2 ^ (w - 1) ≤ v then 2 ^ w - 1 - v else v + 2 ^ (w - 1)) ∧
    keyElem w true v = (if 2 ^ (w - 1) ≤ v then v - 2 ^ (w - 1) else 2 ^ w - 1 - v))

/-- Compares and predicate instructions: the predicate lands at I + 2, or I + 1, and PCNT's and PFIRST's numbers on xq; bit i of a
compare's predicate is the governing predicate's bit i and the condition on element (32 ÷ w) × i + h (R139 to R141). -/
def Obligations.PredicatesLand : Prop :=
  (∀ (s : State) (pd pa : Fin 8) (cop : VCmp) (fmt : Fmt) (h : Fin 8) (a b : XSrc) (imm : BitVec 16) (x y : Vec) (c1 c2 : Core),
    s.Roomy → s.me.xsrcOk a = true → readX fmt.width s.me a = .ok (x, c1) →
    (Issues .x (.vcmpi pd pa cop fmt a imm) s c1
      [predReq 2 pd (cmpPred cop fmt 0 (s.me.pred pa) x fun _ => immBits fmt imm)]) ∧
    (s.me.xsrcOk b = true → readX fmt.width c1 b = .ok (y, c2) →
      Issues .x (.vcmp pd pa cop fmt h a b) s c2
        [predReq 2 pd (cmpPred cop fmt h.val (s.me.pred pa) x fun e => elem fmt.width y e)])) ∧
  (∀ (s : State) (pd pa pb : Fin 8), s.Roomy →
    Issues .x (.pand pd pa pb) s s.me [predReq 1 pd (s.me.pred pa &&& s.me.pred pb)] ∧
    Issues .x (.por pd pa pb) s s.me [predReq 1 pd (s.me.pred pa ||| s.me.pred pb)] ∧
    Issues .x (.pxor pd pa pb) s s.me [predReq 1 pd (s.me.pred pa ^^^ s.me.pred pb)] ∧
    Issues .x (.pnot pd pa) s s.me [predReq 1 pd (~~~ s.me.pred pa)]) ∧
  (∀ (s : State) (pd pa : Fin 8) (c : Core), ReadyXq s c →
    Issues .x (.pcnt pa) s c
      [landScalar chXq s.seq 1 (BitVec.ofNat 64 ((List.range 64).countP fun i => (s.me.pred pa).getLsbD i))] ∧
    ∃ v, Issues .x (.pfirst pd pa) s c [predReq 1 pd v,
        landScalar chXq s.seq 1 (BitVec.ofNat 64 (trailingZeros 64 (s.me.pred pa).toNat))] ∧
      ∀ i, i < 64 → v.getLsbD i = ((s.me.pred pa).getLsbD i && !((List.range i).any fun j => (s.me.pred pa).getLsbD j))) ∧
  (∀ (cop : VCmp) (fmt : Fmt) (h i : Nat) (pa : Word) (x : Vec) (b : Nat → Nat), i < 64 →
    let e := 32 / fmt.width * i + h
    let p := (ffmt fmt).decode (elem fmt.width x e)
    let q := (ffmt fmt).decode (b e)
    let m := intVal fmt (elem fmt.width x e)
    let n := intVal fmt (b e)
    let numbers := p ≠ .nan ∧ q ≠ .nan
    let floats : Prop := match cop with
      | .eq => numbers ∧ ¬ p.Under q ∧ ¬ q.Under p
      | .ne => ¬ numbers ∨ p.Under q ∨ q.Under p
      | .lt => numbers ∧ p.Under q
      | .le => numbers ∧ ¬ q.Under p
      | .gt => numbers ∧ q.Under p
      | .ge => numbers ∧ ¬ p.Under q
      | .un => ¬ numbers
    let integers : Prop := match cop with
      | .eq => m = n
      | .ne => m ≠ n
      | .lt => m < n
      | .le => m ≤ n
      | .gt => n < m
      | .ge => n ≤ m
      | .un => False
    ((cmpPred cop fmt h pa x b).getLsbD i = true ↔ pa.getLsbD i = true ∧ if fmt.isFp then floats else integers))

/-- Reductions, scans, histograms and the moves of elements land; floating-point sums go by the tree of R83, and elements rank as R144
says, a NaN above all; in those whose predicate only picks inputs every lane is written, and a place on sq is taken with a mask of all ones (R142 to R147; the mask is DEDUCED, log entry 91). -/
def Obligations.ReductionsAndMovesLand : Prop :=
  (∀ (s : State) (vd : XDst) (p : Fin 8) (fmt : Fmt) (x : Bool) (a : XSrc) (m : Word) (v : Vec) (c : Core),
    ReadyPick1 s fmt.width vd p x a m v c →
    let one := fun (i : Instr) (n r : Nat) => ResultPick i s c vd n x (vecOfLanes [BitVec.ofNat 32 r]) (BitVec.ofNat 64 r)
    let two := fun (i : Instr) (r : Nat × Nat) =>
      ResultPick i s c vd 14 x (vecOfLanes [BitVec.ofNat 32 r.1, BitVec.ofNat 32 r.2]) (BitVec.ofNat 64 (r.1 + r.2 * 2 ^ 32))
    one (.vrsum vd p fmt x a) 24 (rsum fmt m v) ∧
    one (.vrmax vd p fmt x a) 12 (rext fmt true m v) ∧
    one (.vrmin vd p fmt x a) 12 (rext fmt false m v) ∧
    two (.vargmax vd p fmt x a) (rarg fmt true m v) ∧
    two (.vargmin vd p fmt x a) (rarg fmt false m v) ∧
    ResultPick (.vcompress vd p fmt x a) s c vd 3 x (compressVec m v)
      (BitVec.ofNat 64 ((List.range 64).countP fun i => m.getLsbD i))) ∧
  (∀ (s : State) (vd : XDst) (p : Fin 8) (fmt : Fmt) (a b : XSrc) (m : Word) (x y : Vec) (c : Core),
    ReadyPick2 s fmt.width vd p a b m x y c →
    Issues .x (.vhist vd p fmt a b) s c (landX s.seq vd 6 (BitVec.allOnes 64) (histVec fmt.width m x y)) ∧
    Issues .x (.vexpand vd p fmt a b) s c (landX s.seq vd 3 (BitVec.allOnes 64) (expandVec m x y))) ∧
  (∀ (s : State) (vd : XDst) (p : Fin 8) (fmt : Fmt) (a : XSrc) (m : Word) (x : Vec) (c : Core),
    ReadyX1 s fmt.width vd p a m x c →
    ResultX (.vscan vd p fmt a) s c vd 20 m (scanVec fmt m x) ∧ ResultX (.vmov vd p fmt a) s c vd 1 m x) ∧
  (∀ (s : State) (vd : XDst) (p : Fin 8) (fmt : Fmt) (a b : XSrc) (k : BitVec 9) (m : Word) (x y : Vec) (c : Core),
    ReadyX2 s fmt.width vd p a b m x y c →
    let w := fmt.width
    ResultElems (.vperm vd p fmt a b) s c vd 3 m w (fun e => elem w x (elem w y e % fmt.count)) ∧
    ResultElems (.vrot vd p fmt a b) s c vd 2 m w (fun e => elem w x ((e + elem w y 0) % fmt.count)) ∧
    ResultElems (.vbcast vd p fmt a b) s c vd 2 m w (fun _ => elem w x (elem w y 0 % fmt.count)) ∧
    ResultElems (.vins vd p fmt a b k) s c vd 2 m w (fun e => if e = k.toNat then elem w y 0 else elem w x e)) ∧
  (∀ (s : State) (vd : XDst) (p : Fin 8) (fmt : Fmt) (a b e : XSrc) (m : Word) (x y z : Vec) (c : Core),
    ReadyX3 s fmt.width vd p a b e m x y z c →
    ResultElems (.vsel vd p fmt a b e) s c vd 1 m fmt.width
      (fun i => if elem fmt.width z i = 0 then elem fmt.width y i else elem fmt.width x i)) ∧
  (∀ (s : State) (fmt : Fmt) (a : XSrc) (k : BitVec 9) (x : Vec) (c1 c2 : Core), s.Roomy → s.me.xsrcOk a = true →
    s.me.chanPresent chXq = true → readX fmt.width s.me a = .ok (x, c1) → c1.chanPresent chXq = true → c1.reserveXq s.seq = .ok c2 →
    Issues .x (.vlane fmt a k) s c2 [landScalar chXq s.seq 2 (BitVec.ofNat 64 (elem fmt.width x k.toNat))]) ∧
  ((∀ (fmt : Fmt) (m : Word) (v : Vec),
    let on := fun e => m.getLsbD (e * fmt.width / 32)
    let val := fun e => intVal fmt (elem fmt.width v e)
    (fmt.isFp = false → rsum fmt m v = wrapBits 32 (((List.range fmt.count).map fun e => if on e then val e else 0).sum)) ∧
    (fmt = .f32 ∨ fmt = .bf16 ∨ fmt = .f16 →
      let dec := fun e => (ffmt fmt).decode (elem fmt.width v e)
      let lane := fun (i : Nat) => if m.getLsbD i then (List.range (32 / fmt.width)).foldl (fun acc j =>
        fadd acc (f32of .rne (dec (32 / fmt.width * i + j)))) (0x80000000 : F32) else 0x80000000
      let tree := [32, 16, 8, 4, 2, 1].foldl (fun (x : Nat → F32) s i => fadd (x i) (x (i + s))) lane
      rsum fmt m v = (tree 0).toNat ∧ ∀ mx : Bool,
        ((∃ e, e < fmt.count ∧ on e = true ∧ dec e = .nan) → rext fmt mx m v = (ffmt fmt).nan) ∧
        ((∀ e, e < fmt.count → on e = false) → rext fmt mx m v = (ffmt fmt).encode .rne (.inf mx)) ∧
        ((∃ e, e < fmt.count ∧ on e = true) → (∀ e, e < fmt.count → on e = true → dec e ≠ .nan) →
          ∃ e, e < fmt.count ∧ on e = true ∧ rext fmt mx m v = elem fmt.width v e ∧
            ∀ k, k < fmt.count → on k = true → if mx then ¬ (dec e).RanksUnder (dec k) else ¬ (dec k).RanksUnder (dec e))) ∧
    (∀ a b, let p := (ffmt fmt).decode a
      let q := (ffmt fmt).decode b
      (ranksAbove fmt a b = true ↔ if fmt.isFp then q ≠ .nan ∧ (p = .nan ∨ q.RanksUnder p) else intVal fmt b < intVal fmt a)) ∧
    (fmt.isFp = false → ∀ mx : Bool, (∀ e, e < fmt.count → on e = false) →
      rext fmt mx m v = wrapBits fmt.width (if mx then Fmt.lo fmt else Fmt.hi fmt)) ∧
    (fmt.isFp = false → ∀ e0, e0 < fmt.count → on e0 = true → ∀ mx : Bool,
      ∃ e, e < fmt.count ∧ on e = true ∧ rext fmt mx m v = elem fmt.width v e ∧
        ∀ k, k < fmt.count → on k = true → if mx then val k ≤ val e else val e ≤ val k) ∧
    ((∀ e, e < fmt.count → on e = false) → ∀ mx : Bool, rarg fmt mx m v = (0, 2 ^ 32 - 1)) ∧
    (∀ e0, e0 < fmt.count → on e0 = true → ∀ mx : Bool,
      let above := fun i j => if mx then ranksAbove fmt (elem fmt.width v i) (elem fmt.width v j)
        else ranksAbove fmt (elem fmt.width v j) (elem fmt.width v i)
      ∃ e, e < fmt.count ∧ on e = true ∧ rarg fmt mx m v = (elem fmt.width v e, e) ∧
        ∀ k, k < fmt.count → on k = true → above k e = false ∧ (k < e → above e k = true))) ∧
  (∀ (w : Nat) (m : Word) (x y : Vec) (i : Nat), i < 64 →
    (histVec w m x y)[i]! = y[i]! + BitVec.ofNat 32 ((List.range (2048 / w)).countP fun e =>
      m.getLsbD (e * w / 32) && min (elem w x e) 16 == i)) ∧
  (∀ (fmt : Fmt) (m : Word) (x y : Vec) (i : Nat), i < 64 →
    let rank := (List.range i).countP fun k => m.getLsbD k
    let plus := fun (u v : Lane) => if fmt.isFp then fadd u v else u + v
    let before := if i = 0 then (if fmt.isFp then fNegZero else 0) else (scanVec fmt m x)[i - 1]!
    (scanVec fmt m x)[i]! = (if m.getLsbD i then plus before x[i]! else before) ∧
    (m.getLsbD i = true → (compressVec m x)[rank]! = x[i]! ∧ (expandVec m x y)[i]! = x[rank]!) ∧
    (m.getLsbD i = false → (expandVec m x y)[i]! = y[i]!) ∧
    (((List.range 64).countP fun k => m.getLsbD k) ≤ i → (compressVec m x)[i]! = 0)))

/-- The deferral queue and the accumulator tiles: DEFER appends the active lanes' pairs, DRAIN takes up to 64, and a tile that no
matrix operation owns is read at I + 8 and written at I + 2; an owned one is ACC_BUSY (R120, R148, R150, R151; that DRAIN takes a place
on sq with a mask of all ones is DEDUCED, log entry 91). -/
def Obligations.DeferralAndTilesIssue : Prop :=
  (∀ (s : State) (a b : XSrc) (p : Fin 8) (x y : Vec) (c1 c2 : Core), s.Roomy → s.me.xsrcOk a = true → s.me.xsrcOk b = true →
    readX 32 s.me a = .ok (x, c1) → readX 32 c1 b = .ok (y, c2) →
    let es := deferEntries (s.me.pred p) x y
    let q := c2.ctx.x.defq
    (q.length + es.length ≤ 512 → ∃ c, c.ctx.x.defq = q ++ es ∧ c.ctx.x.v = s.me.ctx.x.v ∧ Issues .x (.defer a b p) s c []) ∧
    (512 < q.length + es.length →
      TrapsAt .x (.defer a b p) s .deferFull (BitVec.ofNat 64 (q.length + es.length * 1024)))) ∧
  (∀ (s : State) (vd : XDst) (c : Core), s.Roomy → s.me.xdstOk vd = true → s.me.reserveX s.seq vd (BitVec.allOnes 64) = .ok c →
    ∀ sel : DrainSel, ∃ c1, c1.ctx.x.defq = (if sel = .take then s.me.ctx.x.defq.drop 64 else s.me.ctx.x.defq) ∧
      Issues .x (.drain vd sel) s c1 (landX s.seq vd 4 (BitVec.allOnes 64)
        (vecOfLanes ((s.me.ctx.x.defq.take 64).map fun (e : Word) =>
          if sel = .key then (e >>> 32).setWidth 32 else e.setWidth 32)))) ∧
  (∀ (s : State) (c : Core), ReadyXq s c →
    Issues .x .dcount s c [landScalar chXq s.seq 1 (BitVec.ofNat 64 s.me.ctx.x.defq.length)]) ∧
  (∀ s : State, s.Roomy → ∃ c, c.ctx.x.defq = [] ∧ c.ctx.x.v = s.me.ctx.x.v ∧ Issues .x .dclear s c []) ∧
  (∀ (s : State) (vd : XDst) (t : Fin 4) (row : BitVec 16) (p : Fin 8) (fmt : Fmt) (sum : Bool) (c : Core), s.Roomy →
    accFree s.me t = .ok () →
    (s.me.xdstOk vd = true → s.me.reserveX s.seq vd (s.me.pred p) = .ok c →
      ResultX (.accrd vd t row p fmt) s c vd 8 (laneMask fmt.width (s.me.pred p)) (s.me.ctx.acc[t].row fmt row.toNat)) ∧
    (s.me.xdstOk vd = true → s.me.reserveX s.seq vd (s.me.pred p) = .ok c →
      ResultX (.siderd vd t p sum) s c vd 8 (s.me.pred p) (if sum then s.me.ctx.acc[t].s else s.me.ctx.acc[t].m)) ∧
    (∀ v : Fin 16, Issues .x (.accwr v t row p fmt) s s.me [⟨2, none, true, .resultLanding,
      .landing (.accRow t fmt row s.me.ctx.x.v[v] (laneMask fmt.width (s.me.pred p)))⟩]) ∧
    Issues .x (.accz t) s s.me [⟨2, none, true, .resultLanding, .landing (.accZero t)⟩]) ∧
  (∀ (s : State) (t : Fin 4) (o : Own) (before after : List Own) (vd : XDst) (row : BitVec 16) (p : Fin 8) (fmt : Fmt) (sum : Bool)
      (v : Fin 16) (c : Core), s.me.ctx.mat.owns = before ++ o :: after → o.tile = t.val → o.at s.me.ctx.tau = true →
    (∀ b ∈ before, b.tile ≠ t.val ∨ b.at s.me.ctx.tau = false) →
    let busy := fun (i : Instr) => TrapsAt .x i s .accBusy (BitVec.ofNat 64 (t.val + o.seq.toNat * 2 ^ 32))
    busy (.accz t) ∧ busy (.accwr v t row p fmt) ∧
    (s.me.xdstOk vd = true → s.me.reserveX s.seq vd (s.me.pred p) = .ok c → busy (.accrd vd t row p fmt) ∧ busy (.siderd vd t p sum)))

/-- The control instructions of X, L and S: outside joined lines a taken transfer goes to its label, and a counter's new value lands
at I + 1; a jump in a joined line is JOIN_FORM with reason 5 (R123, R152, R169). -/
def Obligations.ApartTransfersIssue : Prop :=
  ∀ (s : State) (t : Target) (k : Fin 4) (n : BitVec 13) (p : Fin 8), s.Roomy →
    Issues .x .xnop s s.me [] ∧ Issues .l .lnop s s.me [] ∧ Issues .s .snop s s.me [] ∧
    (s.me.inJoined = false →
      let go := fun (cl : Cluster) (i : Instr) (taken : Bool) (reqs : List Req) =>
        IssuesAs cl i s (transfer s.me taken (targetLine (s.me.lineOf cl) t) t.parcel.toNat reqs)
      go .x (.xjmp t) true [] ∧ go .l (.ljmp t) true [] ∧ go .s (.sjmp t) true [] ∧
      go .x (.xbdec k t) (s.me.ctx.x.k[k] - 1 != 0) [loopReq .x k (s.me.ctx.x.k[k] - 1)] ∧
      go .l (.lbdec k t) (s.me.ctx.l.k[k] - 1 != 0) [loopReq .l k (s.me.ctx.l.k[k] - 1)] ∧
      go .s (.sbdec k t) (s.me.ctx.st.k[k] - 1 != 0) [loopReq .s k (s.me.ctx.st.k[k] - 1)] ∧
      go .x (.xloopset k n t) (n == 0) [loopReq .x k (n.setWidth 32)] ∧
      go .l (.lloopset k n t) (n == 0) [loopReq .l k (n.setWidth 32)] ∧
      go .s (.sloopset k n t) (n == 0) [loopReq .s k (n.setWidth 32)] ∧
      go .x (.xbany p t) (s.me.pred p != 0) [] ∧ go .x (.xbnone p t) (s.me.pred p == 0) []) ∧
    (s.me.inJoined = true →
      TrapsAt .x (.xjmp t) s .joinForm (joinInfo 5 2 (s.me.lineOf .x / 4)) ∧
      TrapsAt .l (.ljmp t) s .joinForm (joinInfo 5 1 (s.me.lineOf .l / 4)) ∧
      TrapsAt .s (.sjmp t) s .joinForm (joinInfo 5 3 (s.me.lineOf .s / 4)))

/-! ### L: loads (R154 to R169) -/

/-- The queue loads: a place on oq, the elements in order, their performing at the padded latency and the address register's write
at I + 1; LPF only steps its register; LDQK asks for its page entry, when that passes the checks and the rotation table lies in the
scratchpad (R155 to R160, R164). -/
def Obligations.LoadsToQueuesIssue : Prop :=
  ((∀ (s : State) (oq : Fin 8) (a : Fin 16) (cl : Cls) (fmt : Fmt) (cnt : BitVec 6) (inc : Inc) (imm : BitVec 18) (c : Core),
    s.Roomy → s.me.chanPresent (chOq oq) = true → s.me.reserve (chOq oq) s.seq (BitVec.allOnes 64) = .ok c →
    let x := s.me.ctx.l.a[a]
    let va := if inc = .post then x else x + imm.signExtend 64
    let z := max 1 (fmt.width / 8)
    let m := if cnt = 0 then 256 else 4 * cnt.toNat
    let upd := fun (span : Nat) => if inc = .keep then []
      else aregReq a (some (if inc = .step then x + BitVec.ofNat 64 span else x + imm.signExtend 64))
    let reqs := fun (els : List El) (c1 : Core) =>
      s.accessReqs s.cur c1 ⟨.ldQ (chOq oq).val s.seq, els, c1.posOf .l, none⟩ (s.latency s.cur cl (els.flatMap El.pas))
    Issues .l (.lpf a cl cnt inc imm) s s.me (upd m) ∧
    (∀ els c1, checkPlaces s s.cur cl .r (contiguous va.toNat z m) c = .ok (els, c1) →
      Issues .l (.ldq oq a cl fmt cnt inc imm) s c1 (reqs els c1 ++ upd m)) ∧
    (∀ els c1, checkPlaces s s.cur cl .r [⟨va.toNat, z, z, 0⟩] c = .ok (els, c1) →
      Issues .l (.ldqb oq a cl fmt inc imm) s c1 (reqs (List.replicate fmt.count els).flatten c1 ++ upd z)) ∧
    (va.toNat % z ≠ 0 → TrapsAt .l (.ldqb oq a cl fmt inc imm) s .align (accessInfo va 0 false) ∧
      (z ≤ m → TrapsAt .l (.ldq oq a cl fmt cnt inc imm) s .align (accessInfo va 0 false)))) ∧
  (∀ (s : State) (oq : Fin 8) (a : Fin 16) (cl : Cls) (fmt : Fmt) (cnt : BitVec 6) (inc : SInc) (imm : BitVec 18) (c c1 : Core)
    (els : List El), s.Roomy → s.me.chanPresent (chOq oq) = true → s.me.reserve (chOq oq) s.seq (BitVec.allOnes 64) = .ok c →
    let x := s.me.ctx.l.a[a]
    let z := max 1 (fmt.width / 8)
    let k := if cnt = 0 then fmt.count else cnt.toNat
    let places := (List.range k).map fun (e : Nat) => (⟨addrSum x.toNat ((e : Int) * imm.toInt), z, z, e * z / 4⟩ : Place)
    checkPlaces s s.cur cl .r places c = .ok (els, c1) →
    Issues .l (.ldqs oq a cl fmt cnt inc imm) s c1
      (s.accessReqs s.cur c1 ⟨.ldQ (chOq oq).val s.seq, els, c1.posOf .l, none⟩ (s.latency s.cur cl (els.flatMap El.pas)) ++
        match inc with
        | .keep => []
        | .elem => aregReq a (some (x + BitVec.ofNat 64 z))
        | .span => aregReq a (some (x + BitVec.ofInt 64 (k * imm.toInt))))) ∧
  (∀ (s : State) (oq : Fin 8) (ag : Fin 4) (cl : Cls) (fmt : Fmt) (sg : Fin 7) (c c1 : Core) (els : List El),
    s.Roomy → s.me.chanPresent (chOq oq) = true → s.me.reserve (chOq oq) s.seq (BitVec.allOnes 64) = .ok c →
    let g := s.me.ctx.l.ag[ag]
    let k := 2 ^ sg.val
    genSegs s s.cur cl ag (max 1 (fmt.width / 8)) (256 / k) k 0 g c = .ok (els, c1) →
    IssuesAs .l (.lgen oq ag cl fmt sg) s { IssueOut.plain c1
        (s.accessReqs s.cur c1 ⟨.ldQ (chOq oq).val s.seq, els, c1.posOf .l, none⟩
          (s.latency s.cur cl (els.flatMap El.pas) + if g.ind = 0 then 0 else 4) ++ [agReq ag (g.steps k)])
      with reads := g.reads s.cur k })) ∧
  (∀ (s : State) (oq : Fin 8) (a : Fin 16) (cl : Cls) (fmt : Fmt) (t : BitVec 6) (g : BitVec 2) (c c1 : Core) (pa : Nat),
    s.Roomy → s.me.chanPresent (chOq oq) = true →
    let va := s.me.ctx.l.a[a]
    (checkElem s s.cur s.me cl .r va 16 16 0 false = .ok (pa, c) → c.reserve (chOq oq) s.seq (BitVec.allOnes 64) = .ok c1 →
      c1.ctx.sys.ropetab.toNat % 2 ^ 20 + 1024 ≤ 2 ^ 20 →
      Issues .l (.ldqk oq a cl fmt t g) s c1 (s.memReqs s.cur c1 (pasFrom pa 16) .ldqkEntryRead
        (.ldqk ⟨pa, va, cl, fmt, t.toNat, g.toNat, (chOq oq).val, s.seq, c1.ctx.sys.ropetab.toNat % 2 ^ 20, none, c1.posOf .l⟩)
        (s.latency s.cur cl (pasFrom pa 16)))) ∧
    (va.toNat % 16 ≠ 0 → TrapsAt .l (.ldqk oq a cl fmt t g) s .align (accessInfo va 0 false)))

/-- A step of an address generator whose indices lie below its counts takes the mixed-radix number of its indices, dimension 0
lowest, to the next one, and the last to 0; the indices stay below the counts. A generator without an indirect dimension gives the
address base + the sum of index times stride, wrapped (R161, R162). -/
def Obligations.GeneratorsStepAndAddress : Prop :=
  (∀ g : AddrGen, (∀ d : Fin 4, g.idx[d] < g.n d) →
    let number := fun (h : AddrGen) => h.idx[0] + g.n 0 * (h.idx[1] + g.n 1 * (h.idx[2] + g.n 2 * h.idx[3]))
    (∀ d : Fin 4, g.step.idx[d] < g.n d) ∧
    number g.step = (number g + 1) % (g.n 0 * g.n 1 * g.n 2 * g.n 3) ∧
    g.step.base = g.base ∧ g.step.stride = g.stride ∧ g.step.count = g.count) ∧
  (∀ (s : State) (id : CoreId) (k : Fin 4) (g : AddrGen) (lane : Nat) (prog : Bool), g.ind = 0 →
    ∃ a, genAddr s id k g lane prog = .ok a ∧
      a = g.base + BitVec.ofNat 64 g.idx[0] * (g.stride[0]).signExtend 64 + BitVec.ofNat 64 g.idx[1] * (g.stride[1]).signExtend 64 +
        BitVec.ofNat 64 g.idx[2] * (g.stride[2]).signExtend 64 + BitVec.ofNat 64 g.idx[3] * (g.stride[3]).signExtend 64)


/-- LDQG and STQG: with no lane failing, every pending lane performs, the bitmap clears and the generator steps 64 times, or both
entries leave the queue; when a later lane fails, the lanes before it perform, and the fault is taken behind their record. The lanes not
pending are those whose bit the bitmap holds, and those whose record is still to land (R156, R165, R171). -/
def Obligations.GathersAndScattersIssue : Prop :=
  (∀ (s : State) (oq : Fin 8) (ag : Fin 4) (cl : Cls) (fmt : Fmt) (cb : Fin 4) (p : Pass), s.Roomy →
    s.me.chanPresent (chOq oq) = true →
    let g := s.me.ctx.l.ag[ag]
    let mask := s.bitmap s.cur cb s.me.ctx.l.cb[cb]
    let reused := match (s.me.ctx.chan[chOq oq]).getLast? with
      | some e => if e.cb = some cb then some e.id else none
      | none => none
    (reused = none → s.me.occ (chOq oq) < 8) → gatherLanes s s.cur cl ag mask 64 0 g s.me false = p →
    (p.fail = none → ∃ (c1 c2 : Core) (a : Access) (reads : List Nat), a.els = p.els.map (·.2) ∧
      a.kind = .ldG (chOq oq).val (reused.getD s.seq) (p.els.map (·.1)) true ∧
      IssuesAs .l (.ldqg oq ag cl fmt cb) s { IssueOut.plain c2
        (s.accessReqs s.cur c1 a (s.latency s.cur cl a.pas + if g.ind = 0 then 0 else 4) ++ [cbReq cb 0, agReq ag (g.steps 64)])
        with reads := reads }) ∧
    (∀ lane cause tinfo, p.fail = some (lane, .trap cause tinfo) → cause ≠ .operandEmpty →
      (p.els = [] → TrapsAt .l (.ldqg oq ag cl fmt cb) s cause tinfo) ∧
      (p.els ≠ [] → ∃ (c1 : Core) (a : Access) (reads : List Nat) (done : Word), a.els = p.els.map (·.2) ∧
        a.kind = .ldG (chOq oq).val (reused.getD s.seq) (p.els.map (·.1)) false ∧
        (∀ i, i < 64 → done.getLsbD i = (mask.getLsbD i || (p.els.map (·.1)).contains i)) ∧
        IssuesAs .l (.ldqg oq ag cl fmt cb) s ⟨c1,
          s.accessReqs s.cur c1 a (s.latency s.cur cl a.pas + if g.ind = 0 then 0 else 4) ++ [cbReq cb done],
          .next 1, some ⟨true, cause, tinfo⟩, [], reads⟩))) ∧
  (∀ (s : State) (sq : Fin 4) (b : Fin 16) (cl : Cls) (fmt : Fmt) (imm : BitVec 25) (ie de : ChanEntry) (rest : List ChanEntry)
    (p : Pass), s.Roomy → s.me.chanPresent (chSq sq) = true → s.me.ctx.chan[chSq sq] = ie :: de :: rest →
    ie.landed = true → de.landed = true →
    scatterLanes s s.cur cl s.me.ctx.st.b[b] imm.toInt ie.v de.mask 64 0 s.me false = p →
    let a : Access := ⟨.st ((p.els.map (·.1)).flatMap fun i => leBytes (laneNat de.v i) 4), p.els.map (·.2), s.me.posOf .s, none⟩
    (p.fail = none → ∃ c reqs, Issues .s (.stqg sq b cl fmt imm) s c reqs ∧ c.ctx.chan[chSq sq] = rest ∧
      (p.els = [] → reqs = []) ∧ (p.els ≠ [] → reqs = s.accessReqs s.cur p.core a (s.latency s.cur cl a.pas))) ∧
    (∀ lane cause tinfo, p.fail = some (lane, .trap cause tinfo) → cause ≠ .operandEmpty →
      (p.els = [] → TrapsAt .s (.stqg sq b cl fmt imm) s cause tinfo) ∧
      (p.els ≠ [] → ∃ c left, IssuesAs .s (.stqg sq b cl fmt imm) s
          ⟨c, s.accessReqs s.cur p.core a (s.latency s.cur cl a.pas), .next 1, some ⟨true, cause, tinfo⟩, [], []⟩ ∧
        c.ctx.chan[chSq sq] = ie :: { de with mask := left } :: rest ∧
        ∀ i, i < 64 → left.getLsbD i = (de.mask.getLsbD i && !(p.els.map (·.1)).contains i)))) ∧
  (∀ (s : State) (id : CoreId) (j : Fin 4) (v : Word) (i : Nat), (s.bitmap id j v).getLsbD i = (v.getLsbD i ||
    s.agenda.any fun p => match p.arg with | .landing (.cb k w) => p.owner == id && k == j && w.getLsbD i | _ => false))

/-- The address registers of L and S, the address generators and the completion bitmaps: what is written, and lands at I + 1 (R155,
R161, R163, R167, R168). -/
def Obligations.AddressRegistersLand : Prop :=
  (∀ (s : State) (d a : Fin 16) (imm : BitVec 31) (k : Fin 4), s.Roomy →
    Issues .l (.laddi d a imm) s s.me (aregReq d (some (s.me.ctx.l.a[a] + imm.signExtend 64))) ∧
    Issues .l (.lmovi d imm) s s.me (aregReq d (some (imm.signExtend 64))) ∧
    Issues .s (.saddi d a imm) s s.me (bregReq d (some (s.me.ctx.st.b[a] + imm.signExtend 64))) ∧
    Issues .s (.smovi d imm) s s.me (bregReq d (some (imm.signExtend 64))) ∧
    Issues .l (.agrst k) s s.me [agReq k { s.me.ctx.l.ag[k] with idx := Vector.replicate 4 0 }] ∧
    Issues .l (.cbclr k) s s.me [⟨1, none, true, .resultLanding, .landing (.cbClear k)⟩]) ∧
  (∀ (s : State) (d a : Fin 16) (k : Fin 4) (e : ChanEntry) (c : Core), s.Roomy → s.me.chanPresent chCl = true →
    s.me.pop chCl = .ok (e, c) →
    let v := wordOfVec e.v
    let g := c.ctx.l.ag[k]
    let sets := fun (grp : AgGroup) (h : AddrGen) => Issues .l (.agset k grp) s c [agReq k h]
    Issues .l (.ladd d a) s c (aregReq d (some (c.ctx.l.a[a] + v))) ∧
    Issues .l (.lpopc d) s c (aregReq d (some v)) ∧
    Issues .l (.lgcb k) s c [cbReq k v] ∧
    (∃ idx : Vector Nat 4, Issues .l (.agidx k) s c [agReq k { g with idx := idx }] ∧
      ∀ i : Fin 4, idx[i] = v.toNat / 2 ^ (16 * i.val) % 65536 % g.n i) ∧
    sets .base { g with base := v } ∧
    (∀ i : Fin 4, sets (.dim i) { g with
      stride := g.stride.set i (v.setWidth 32), count := g.count.set i ((v >>> 32).setWidth 16), idx := g.idx.set i 0 }) ∧
    sets .bound { g with bound := v.setWidth 32 } ∧
    (v.toNat % 8 ≤ 4 → v.toNat / 2 ^ 32 % 4 = 0 → sets .ind { g with ind := v.setWidth 3, tb := (v >>> 32).setWidth 20 })) ∧
  (∀ (s : State) (d a : Fin 16) (e : ChanEntry) (c : Core), s.Roomy → s.me.chanPresent chCs = true → s.me.pop chCs = .ok (e, c) →
    Issues .s (.sadd d a) s c (bregReq d (some (c.ctx.st.b[a] + wordOfVec e.v))) ∧
    Issues .s (.spopc d) s c (bregReq d (some (wordOfVec e.v)))) ∧
  (∀ (s : State) (k : Fin 4) (c : Core), s.Roomy → s.me.chanPresent chLq = true →
    s.me.reserve chLq s.seq (BitVec.allOnes 64) = .ok c →
    Issues .l (.cbget k) s c [landScalar chLq s.seq 1 c.ctx.l.cb[k]])


/-! ### S: stores, atomics and sync (R168 to R174, R219 to R226) -/

/-- The queue stores pop an entry and store the bytes of its active lanes; nothing is accessed when no lane is active (R119, R157,
R170, R172, R173). -/
def Obligations.QueueStoresIssue : Prop :=
  ∀ (s : State) (sq : Fin 4) (b : Fin 16) (cl : Cls) (fmt : Fmt) (e : ChanEntry) (c : Core), s.Roomy →
    s.me.popSq sq = .ok (e, c) →
    let x := c.ctx.st.b[b]
    let z := max 1 (fmt.width / 8)
    let stores := fun (i : Instr) (ps : List (Place × List Byte)) (upd : List Req) =>
      ∀ els c1, checkPlaces s s.cur cl .w (ps.map (·.1)) c = .ok (els, c1) →
        let a : Access := ⟨.st (ps.flatMap (·.2)), els, c1.posOf .s, none⟩
        Issues .s i s c1 ((if ps = [] then [] else s.accessReqs s.cur c1 a (s.latency s.cur cl a.pas)) ++ upd)
    (∀ (inc : Inc) (imm : BitVec 25),
      let va := if inc = .post then x else x + imm.signExtend 64
      stores (.stq sq b cl fmt inc imm) (segPlaces e va.toNat z 0 256)
        (if inc = .keep then [] else bregReq b (some (if inc = .step then x + 256 else x + imm.signExtend 64)))) ∧
    (∀ (inc : SInc) (imm : BitVec 25),
      stores (.stqs sq b cl fmt inc imm)
        ((List.range fmt.count).flatMap fun (k : Nat) => segPlaces e (addrSum x.toNat ((k : Int) * imm.toInt)) z (k * z) z)
        (match inc with
          | .keep => []
          | .elem => bregReq b (some (x + BitVec.ofNat 64 z))
          | .span => bregReq b (some (x + BitVec.ofInt 64 (fmt.count * imm.toInt))))) ∧
    (∀ (sp : Bool) (sg : Fin 7) (stride : BitVec 22),
      let k := 2 ^ sg.val
      stores (.sgen sq b cl fmt sp sg stride)
        ((List.range k).flatMap fun (j : Nat) =>
          segPlaces e (addrSum x.toNat ((j : Int) * stride.toInt)) z (j * (256 / k)) (256 / k))
        (if sp then bregReq b (some (x + BitVec.ofInt 64 ((k : Int) * stride.toInt))) else [])) ∧
    (∀ (step : Bool) (off : BitVec 21) (h : Fin 9) (els : List El) (c1 : Core),
      let va := x + off.signExtend 64
      let es := (List.range 512).filter fun k => e.mask.getLsbD (k / 8) && (h.val == 8 || k % 8 == h.val)
      checkPlaces s s.cur cl .w (es.map fun (k : Nat) => (⟨(va.toNat : Int) + (k / 2 : Nat), 1, 1, k / 8⟩ : Place)) c = .ok (els, c1) →
      let a : Access := ⟨.stn (es.map fun k => (k % 2 == 1, BitVec.ofNat 4 (elem 4 e.v k))), els, c1.posOf .s, none⟩
      Issues .s (.stn sq b cl fmt step off h) s c1
        ((if es = [] then [] else s.accessReqs s.cur c1 a (s.latency s.cur cl a.pas)) ++
          if step then bregReq b (some (x + 256)) else [])) ∧
    (∀ off : BitVec 27,
      let va := x + off.signExtend 64
      let m := e.mask &&& 0xFFFF
      (m = 0 → Issues .s (.ahist sq b cl fmt off) s c []) ∧
      (m ≠ 0 → va.toNat % 64 ≠ 0 → ∃ lane, TrapsAt .s (.ahist sq b cl fmt off) s .align
        (accessInfo (va + BitVec.ofNat 64 (4 * lane)) lane false) ∧ e.mask.getLsbD lane = true ∧ lane < 16 ∧
          ∀ i, i < lane → e.mask.getLsbD i = false) ∧
      (∀ l ls els c1, activeLanes m = l :: ls → va.toNat % 64 = 0 → va.toNat < windowBase →
        checkPlaces s s.cur cl .w ((l :: ls).map fun (i : Nat) => ⟨(va.toNat : Int) + (4 * i : Nat), 4, 4, i⟩) c = .ok (els, c1) →
        let pa := (els.headD ⟨0, 0, 0, 0⟩).pa - 4 * l
        paSpace pa = 0 →
        Issues .s (.ahist sq b cl fmt off) s c1
          (s.memReqs s.cur c1 (pasFrom pa 64) .ahistPerform (.hist pa va e.v m (c1.posOf .s)) (s.classLat cl))))

/-- The atomics pop their operands, take a place on sr when the old value is wanted, check the element with read and write
permission, and perform at the padded latency (R225, R226). -/
def Obligations.AtomicsIssue : Prop :=
  ∀ (s : State) (b : Fin 16) (cl : Cls) (fmt : Fmt) (rt d64 : Bool) (off : BitVec 24) (e f : ChanEntry) (c0 c2 c3 c4 c : Core)
    (pa : Nat), s.Roomy → s.me.chanPresent chCs = true → (rt = true → s.me.chanPresent chSr = true) →
    s.me.pop chCs = .ok (e, c0) → (if rt then c0.reserve chSr s.seq (BitVec.allOnes 64) else .ok c0) = .ok c →
    let va := c.ctx.st.b[b] + off.signExtend 64
    let z := if d64 then 8 else 4
    let reqs := fun (op : AtomOp) (va v n : Word) (c1 : Core) => s.memReqs s.cur c1 (pasFrom pa z) .atomicPerform
      (.atom ⟨op, Fmt.isSigned fmt, z, pa, va, v, n, if rt then some s.seq else none, c1.posOf .s⟩)
      (s.latency s.cur cl (pasFrom pa z))
    (∀ op i, (op, i) ∈ [(AtomOp.add, Instr.aadd b cl fmt rt d64 off), (.fadd, .afadd b cl fmt rt d64 off),
        (.max, .amax b cl fmt rt d64 off), (.min, .amin b cl fmt rt d64 off), (.and, .aand b cl fmt rt d64 off),
        (.or, .aor b cl fmt rt d64 off), (.xor, .axor b cl fmt rt d64 off), (.xchg, .axchg b cl fmt rt d64 off)] →
      (∀ c1, checkElem s s.cur c cl .rw va z z 0 false = .ok (pa, c1) → Issues .s i s c1 (reqs op va (wordOfVec e.v) 0 c1)) ∧
      (va.toNat % z ≠ 0 → TrapsAt .s i s .align (accessInfo va 0 false))) ∧
    (c0.pop chCs = .ok (f, c2) → (if rt then c2.reserve chSr s.seq (BitVec.allOnes 64) else .ok c2) = .ok c3 →
      let va := c3.ctx.st.b[b] + off.signExtend 64
      checkElem s s.cur c3 cl .rw va z z 0 false = .ok (pa, c4) →
      Issues .s (.acas b cl fmt rt d64 off) s c4 (reqs .cas va (wordOfVec e.v) (wordOfVec f.v) c4))

/-- The sync instructions check their object, 64 aligned bytes of a vault, and perform at their latency, REL not before the writes
that the core has issued; a misaligned object is ALIGN (R217, R219 to R224). -/
def Obligations.SyncInstructionsIssue : Prop :=
  ∀ (s : State) (b : Fin 16) (cl : Cls) (off : BitVec 24) (slot : Fin 4) (e f : ChanEntry) (c0 c2 c3 c1 : Core) (pa : Nat), s.Roomy →
    let object := fun (c : Core) =>
      (c.ctx.st.b[b] + off.signExtend 64).toNat % 64 = 0 ∧ paSpace pa = 0 ∧
        checkBytes s s.cur c cl .rw (c.ctx.st.b[b] + off.signExtend 64) 64 0 false = .ok (pa, c1)
    let va := fun (c : Core) => c.ctx.st.b[b] + off.signExtend 64
    let reqs := fun (ev : Instr) (arg : Arg) (lat : Nat) => s.memReqs s.cur c1 (pasFrom pa 64) ev arg lat
    (object s.me →
      Issues .s (.acq b cl false off) s c1 (reqs .acqPerform (.acq ⟨pa, va s.me, none, none, c1.posOf .s⟩) (s.classLat cl)) ∧
      Issues .s (.rel b cl off) s c1 (reqs .releasePoint (.rel ⟨pa, va s.me, c1.posOf .s⟩)
        (max (s.classLat cl) (s.writesLeft s.cur)))) ∧
    (s.me.chanPresent chSr = true → s.me.reserve chSr s.seq (BitVec.allOnes 64) = .ok c3 → object c3 →
      Issues .s (.tryacq b cl false off) s c1
        (reqs .tryacqPerform (.acq ⟨pa, va c3, none, some s.seq, c1.posOf .s⟩) (s.classLat cl))) ∧
    (s.me.chanPresent chCs = true → s.me.pop chCs = .ok (e, c0) →
      (object c0 → Issues .s (.acq b cl true off) s c1
        (reqs .acqPerform (.acq ⟨pa, va c0, some ((wordOfVec e.v).setWidth 32), none, c1.posOf .s⟩) (s.classLat cl))) ∧
      (s.me.chanPresent chSr = true → c0.reserve chSr s.seq (BitVec.allOnes 64) = .ok c3 → object c3 →
        Issues .s (.tryacq b cl true off) s c1
          (reqs .tryacqPerform (.acq ⟨pa, va c3, some ((wordOfVec e.v).setWidth 32), some s.seq, c1.posOf .s⟩) (s.classLat cl))) ∧
      (c0.pop chCs = .ok (f, c2) → object c2 → canonical (wordOfVec e.v).toNat = true → (wordOfVec f.v).toNat ≤ 2 ^ 47 →
        Issues .s (.sobind b cl slot off) s c1
          (reqs .sobindPerform (.bind ⟨pa, va c2, slot, wordOfVec e.v, wordOfVec f.v, c1.posOf .s⟩) (s.classLat cl)))) ∧
    ((va s.me).toNat % 64 ≠ 0 →
      TrapsAt .s (.acq b cl false off) s .align (accessInfo (va s.me) 0 false) ∧
      TrapsAt .s (.rel b cl off) s .align (accessInfo (va s.me) 0 false))

/-! ### Results and accesses take effect (R16, R17, R105, R114, R117, R141, R150, R154) -/

/-- A landing writes the register or registers its kind names in its core's context, and changes nothing else there or elsewhere: a C
value is pushed onto h0 and written to its s register (R16, R17); an X vector is pushed with inactive lanes 0 and merged into its v
register (R117, R118); a predicate, p0 discarded (R141); a loop counter (R85); an address register, a generator, a completion bitmap
(R155, R163, R167), CBCLR also dropping the open entries that record its bitmap; a row of a tile by R149's word numbers, in the active
lanes, and a cleared tile (R150); a shadow entry of the walk table (R254); every register that PUTC can write keeps its reserved and
read-only bits, and a register that it cannot write keeps its value (R8, R107, R307); a channel place is filled (R112, R114). -/
def Obligations.LandingsTakeEffect : Prop :=
  ∀ s : State,
    let lands := fun (l : Landing) (P : Ctx → Prop) =>
      s.arg = .landing l → ∃ y, exec .resultLanding s = .next (s.setCore s.cur { s.me with ctx := y }) ∧ P y
    let x := s.me.ctx
    (∀ v d, lands (.cval v d) fun y => y.c.h[0] = v ∧ (∀ i : Fin 15, y.c.h[i.val + 1] = x.c.h[i.val]) ∧
      (∀ r : Fin 32, y.c.s[r] = if d = some r then v else x.c.s[r]) ∧ y = { x with c := { x.c with h := y.c.h, s := y.c.s } }) ∧
    (∀ v d m, lands (.xvec v d m) fun y =>
      (∀ i : Fin 64, (y.x.h[0])[i] = if m.getLsbD i.val then v[i] else 0) ∧ (∀ i : Fin 15, y.x.h[i.val + 1] = x.x.h[i.val]) ∧
      (∀ (r : Fin 16) (i : Fin 64), (y.x.v[r])[i] = if d = some r ∧ m.getLsbD i.val = true then v[i] else (x.x.v[r])[i]) ∧
      y = { x with x := { x.x with h := y.x.h, v := y.x.v } }) ∧
    (∀ pd v, lands (.pred pd v) fun y =>
      (∀ p : Fin 8, y.x.p[p] = if p = pd ∧ p.val ≠ 0 then v else x.x.p[p]) ∧ y = { x with x := { x.x with p := y.x.p } }) ∧
    (∀ cl k v, lands (.loop cl k v) fun y => match cl with
      | .c => y = { x with c := { x.c with k := x.c.k.set k v } }
      | .x => y = { x with x := { x.x with k := x.x.k.set k v } }
      | .l => y = { x with l := { x.l with k := x.l.k.set k v } }
      | .s => y = { x with st := { x.st with k := x.st.k.set k v } }) ∧
    (∀ i v, lands (.areg i v) fun y => y = { x with l := { x.l with a := x.l.a.set i v } }) ∧
    (∀ i v, lands (.breg i v) fun y => y = { x with st := { x.st with b := x.st.b.set i v } }) ∧
    (∀ i g, lands (.ag i g) fun y => y = { x with l := { x.l with ag := x.l.ag.set i g } }) ∧
    (∀ i v, lands (.cb i v) fun y => y = { x with l := { x.l with cb := x.l.cb.set i v } }) ∧
    (∀ i, lands (.cbClear i) fun y =>
      (∀ ch : Fin 18, y.chan[ch] = (x.chan[ch]).filter fun e => decide (e.cb ≠ some i)) ∧
      y = { x with l := { x.l with cb := x.l.cb.set i 0 }, chan := y.chan }) ∧
    (∀ t, lands (.accZero t) fun y => (∀ u : Fin 4, u ≠ t → y.acc[u] = x.acc[u]) ∧
      (∀ fmt row, (y.acc[t]).row fmt row = Vec.zero) ∧ (y.acc[t]).s = Vector.replicate 64 0 ∧
      (y.acc[t]).m = Vector.replicate 64 0xFF800000 ∧ y = { x with acc := y.acc }) ∧
    (∀ (t : Fin 4) fmt row v m, lands (.accRow t fmt row v m) fun y =>
      let r := row.toNat
      let num := fun (i : Nat) =>
        if fmt = .cf32 then 1024 * (r / 64 % 2 + 2 * (i % 2)) + 32 * (r % 32) + i / 2 else 64 * (r % 64) + i
      (∀ i : Fin 64, m.getLsbD i.val = true → (y.acc[t]).array[num i.val]? = some v[i]) ∧
      (∀ w, w < 4096 → (∀ i : Fin 64, m.getLsbD i.val = true → num i.val ≠ w) → (y.acc[t]).array[w]? = (x.acc[t]).array[w]?) ∧
      (y.acc[t]).m = (x.acc[t]).m ∧ (y.acc[t]).s = (x.acc[t]).s ∧ (∀ u : Fin 4, u ≠ t → y.acc[u] = x.acc[u]) ∧
      y = { x with acc := y.acc }) ∧
    (∀ e a b n, lands (.nest e a b n) fun y => y = { x with mat := { x.mat with shadow := x.mat.shadow.set e ⟨a, b, n⟩ } }) ∧
    lands .marker (fun y => y = x) ∧
    (∀ v, lands (.sysreg .tbase v) fun y => y = { x with sys := { x.sys with tbase := v } }) ∧
    (∀ v, lands (.sysreg .cbtab v) fun y => y = { x with sys := { x.sys with cbtab := v &&& 0xFFC00 } }) ∧
    (∀ v, lands (.sysreg .ropetab v) fun y => y = { x with sys := { x.sys with ropetab := v &&& 0xFFFF8 } }) ∧
    (∀ v, lands (.sysreg .tvec v) fun y => y = { x with sys := { x.sys with tvec := v &&& 0x7FFFF } }) ∧
    (∀ v, lands (.sysreg .savebase v) fun y => y = { x with sys := { x.sys with savebase := v &&& 0xFFFFFFFFFFC3 } }) ∧
    (∀ v, lands (.sysreg .savelen v) fun y => y = { x with sys := { x.sys with savelen := v &&& 0xFFFFFFC0 } }) ∧
    (∀ v, lands (.sysreg .trapline v) fun y =>
      y = if s.me.inHandler = true then { x with sys := { x.sys with trapline := (x.sys.trapline &&& 0x300000) ||| (v &&& 0x7FFFF) } }
        else x) ∧
    (∀ v, lands (.sysreg .pfcnt0 v) fun y =>
      y = { x with copy := { x.copy with issued := v.extractLsb' 0 32, inTime := v.extractLsb' 32 32 } }) ∧
    (∀ v, lands (.sysreg .pfcnt1 v) fun y =>
      y = { x with copy := { x.copy with late := v.extractLsb' 0 32, evicted := v.extractLsb' 32 32 } }) ∧
    (∀ v, lands (.sysreg .pfhist0 v) fun y =>
      (∀ i : Fin 8, y.copy.bins[i] = if i.val < 4 then v.extractLsb' (16 * i.val) 16 else x.copy.bins[i]) ∧
      y = { x with copy := { x.copy with bins := y.copy.bins } }) ∧
    (∀ v, lands (.sysreg .pfhist1 v) fun y =>
      (∀ i : Fin 8, y.copy.bins[i] = if 4 ≤ i.val then v.extractLsb' (16 * (i.val - 4)) 16 else x.copy.bins[i]) ∧
      y = { x with copy := { x.copy with bins := y.copy.bins } }) ∧
    (∀ r v, r ∉ [SysReg.tbase, .cbtab, .ropetab, .tvec, .savebase, .savelen, .trapline, .pfcnt0, .pfcnt1, .pfhist0, .pfhist1] →
      lands (.sysreg r v) fun y => y = x) ∧
    (∀ (ch : Fin 18) id v, s.arg = .chan ch.val id v → ∃ c, exec .channelEntryLanding s = .next (s.setCore s.cur c) ∧
      c.ctx.chan[ch] = (x.chan[ch]).map (fun e => if e.id = id then { e with v := v, landed := true } else e) ∧
      (∀ k : Fin 18, k ≠ ch → c.ctx.chan[k] = x.chan[k]) ∧ c.ctx.c = x.c ∧ c.ctx.x = x.x ∧ c.ctx.l = x.l ∧ c.ctx.st = x.st)

/-- A store performs: the bytes of each of its elements are written, in their order, and every other byte of memory is unchanged; STN
writes its nibbles, and every other nibble keeps. A load performs: the little-endian value of its bytes arrives in its register and
place, the bytes of a queue load in its entry, each lane of a gather takes its four bytes and the entry lands with the last lane of a
complete gather, and no byte of memory changes; what a member's memory gives a core that is stopped arrives after its resume (R104, R105,
R154, R158, R165, R170 to R172, R313). A word that ECC cannot correct stops the load (R156, R320). -/
def Obligations.AccessesPerform : Prop :=
  (∀ (s : State) (a : Access) (bs : List Byte), s.MemOk → s.arg = .access a → a.kind = .st bs → a.data = none →
    ∃ t, exec .accessPerform s = .next t ∧
      (∀ pa, (∀ e ∈ a.els, pa < e.pa ∨ e.pa + e.z ≤ pa) → t.mem.get pa = s.mem.get pa) ∧
      (a.els.Pairwise (fun e f => e.pa + e.z ≤ f.pa ∨ f.pa + f.z ≤ e.pa) →
        ∀ before e after, a.els = before ++ e :: after → ∀ k, k < e.z →
          let i := (before.map El.z).sum + k
          i < bs.length → s.inMotion (e.pa + k) = false → t.mem.get (e.pa + k) = bs[i]!) ∧
      (t.core s.cur).ctx = s.me.ctx) ∧
  (∀ (s : State) (a : Access) (nibs : List (Bool × BitVec 4)), s.MemOk → s.arg = .access a → a.kind = .stn nibs → a.data = none →
    let nib := fun (m : Mem) (pa : Nat) (hi : Bool) => if hi then (m.get pa).toNat / 16 else (m.get pa).toNat % 16
    let tgt := a.els.zip nibs
    ∃ t, exec .accessPerform s = .next t ∧
      (∀ pa hi, (∀ p ∈ tgt, ¬ (p.1.pa = pa ∧ p.2.1 = hi)) → nib t.mem pa hi = nib s.mem pa hi) ∧
      ((tgt.map fun p => (p.1.pa, p.2.1)).Nodup → ∀ p ∈ tgt, s.inMotion p.1.pa = false → nib t.mem p.1.pa p.2.1 = p.2.2.toNat)) ∧
  (∀ (s : State) (a : Access), s.arg = .access a → a.data = none → s.poisoned a.pas = false → s.ledger = [] →
    (∀ pa ∈ a.pas, s.inMotion pa = false) →
    let bs := a.pas.map s.mem.get
    (s.away = none →
      (∀ d chan signed, a.kind = .ldC d chan signed → bs.length ∈ [1, 2, 4, 8] →
        let v := if signed then (BitVec.ofNat 64 (leNat bs) <<< (64 - 8 * bs.length)).sshiftRight (64 - 8 * bs.length)
          else BitVec.ofNat 64 (leNat bs)
        ∃ t, exec .accessPerform s = .next t ∧ t.mem = s.mem ∧ (t.core s.cur).ctx.c.h[0] = v ∧
          (∀ r : Fin 32, (t.core s.cur).ctx.c.s[r] = if d = some r then v else s.me.ctx.c.s[r])) ∧
      (∀ (ch : Fin 18) id, a.kind = .ldQ ch.val id → ∃ t v, exec .accessPerform s = .next t ∧ t.mem = s.mem ∧
        (t.core s.cur).ctx.chan[ch] = (s.me.ctx.chan[ch]).map (fun e => if e.id = id then { e with v := v, landed := true } else e) ∧
        (∀ k : Fin 18, k ≠ ch → (t.core s.cur).ctx.chan[k] = s.me.ctx.chan[k]) ∧
        ∀ i : Fin 64, v[i] = BitVec.ofNat 32 (leNat ((bs.drop (4 * i.val)).take 4))) ∧
      (∀ (ch : Fin 18) id lanes whole, a.kind = .ldG ch.val id lanes whole → lanes.Nodup → lanes.length = a.els.length →
        (∀ e ∈ a.els, e.z = 4) →
        let more := s.agenda.any fun p => match p.arg with
          | .access b => p.owner == s.cur && (match b.kind with | .ldG ch2 id2 _ _ => ch2 == ch.val && id2 == id | _ => false)
          | _ => false
        ∃ t, ∃ fill : Vec → Vec, exec .accessPerform s = .next t ∧ t.mem = s.mem ∧
          (t.core s.cur).ctx.chan[ch] = (s.me.ctx.chan[ch]).map (fun e =>
            if e.id = id then { e with v := fill e.v, landed := e.cb.isNone && !more } else e) ∧
          (∀ k : Fin 18, k ≠ ch → (t.core s.cur).ctx.chan[k] = s.me.ctx.chan[k]) ∧
          ∀ (v : Vec) (i : Fin 64), (i.val ∉ lanes → (fill v)[i] = v[i]) ∧
            ∀ p ∈ lanes.zip a.els, p.1 = i.val → (fill v)[i] = BitVec.ofNat 32 (s.mem.num p.2.pa 4))) ∧
    (∀ due, s.away = some due → (∀ x, a.kind ≠ .st x) → (∀ x, a.kind ≠ .stn x) →
      ∃ t, exec .accessPerform s = .next t ∧ t.mem = s.mem ∧ (t.core s.cur).ctx.chan = s.me.ctx.chan ∧
        (t.core s.cur).ctx.c = s.me.ctx.c ∧
        ⟨.tl s.cur, due, s.cur, s.ord, true, .accessPerform, .access { a with data := some bs }⟩ ∈ t.agenda)) ∧
  (∀ (s : State) (a : Access) (e : El), s.arg = .access a → a.data = none → (∀ x, a.kind ≠ .st x) → (∀ x, a.kind ≠ .stn x) →
    a.els.find? (fun e => s.poisoned e.pas) = some e →
      ∃ u : State, u.mem = s.mem ∧ u.cur = s.cur ∧ (u.core s.cur).ctx = s.me.ctx ∧
        exec .accessPerform s = .next (u.takeTrap s.cur .eccUncorrectable (accessInfo e.va e.lane false) a.pos)) ∧
  (∀ (s : State) (a : Access) (bs : List Byte) (ch : Fin 18) (id : Nat), s.arg = .access a → a.data = some bs →
    (a.kind = .ldQ ch.val id → ∃ t v, exec .accessPerform s = .next t ∧ t.mem = s.mem ∧
      (t.core s.cur).ctx.chan[ch] = (s.me.ctx.chan[ch]).map (fun e => if e.id = id then { e with v := v, landed := true } else e) ∧
      ∀ i : Fin 64, v[i] = BitVec.ofNat 32 (leNat ((bs.drop (4 * i.val)).take 4))) ∧
    (∀ lanes whole, a.kind = .ldG ch.val id lanes whole → lanes.Nodup → bs.length = 4 * lanes.length →
      ∃ t, ∃ fill : Vec → Vec, exec .accessPerform s = .next t ∧ t.mem = s.mem ∧
        (∃ landed : ChanEntry → Bool, (t.core s.cur).ctx.chan[ch] = (s.me.ctx.chan[ch]).map fun e =>
          if e.id = id then { e with v := fill e.v, landed := landed e } else e) ∧
        ∀ (v : Vec) (i : Fin 64), (i.val ∉ lanes → (fill v)[i] = v[i]) ∧
          ∀ k, lanes[k]? = some i.val → (fill v)[i] = BitVec.ofNat 32 (leNat ((bs.drop (4 * k)).take 4))))

/-- ATOMIC_PERFORM and AHIST_PERFORM: the word takes its new value in one event, the old one goes to sr when it is wanted, and no
other byte changes (R173, R226, R227). -/
def Obligations.AtomicsPerform : Prop :=
  (∀ (s : State) (r : AtomReq), s.MemOk → s.arg = .atom r → (r.size = 4 ∨ r.size = 8) →
    let pas := pasFrom r.pa r.size
    s.poisoned pas = false → s.ledger = [] → (∀ pa ∈ pas, s.inMotion pa = false) →
    let w := 8 * r.size
    let old := s.mem.num r.pa r.size
    let v := r.v.toNat % 2 ^ w
    let less := fun (a b : Nat) =>
      if r.signed then (BitVec.ofNat w a).slt (BitVec.ofNat w b) else (BitVec.ofNat w a).ult (BitVec.ofNat w b)
    ∃ t, exec .atomicPerform s = .next t ∧ (∀ pa, pa ∉ pas → t.mem.get pa = s.mem.get pa) ∧
      (r.op = .add → t.mem.num r.pa r.size = (old + v) % 2 ^ w) ∧
      (r.op = .max → t.mem.num r.pa r.size = if less old v then v else old) ∧
      (r.op = .min → t.mem.num r.pa r.size = if less v old then v else old) ∧
      (r.op = .and → t.mem.num r.pa r.size = old &&& v) ∧
      (r.op = .or → t.mem.num r.pa r.size = old ||| v) ∧
      (r.op = .xor → t.mem.num r.pa r.size = old ^^^ v) ∧
      (r.op = .xchg → t.mem.num r.pa r.size = v) ∧
      (r.op = .cas → t.mem.num r.pa r.size = if old = v then r.n.toNat % 2 ^ w else old) ∧
      (r.op = .fadd → r.size = 4 →
        t.mem.num r.pa 4 = (f32of .rne ((fF32.decode old).add .rne (fF32.decode v))).toNat) ∧
      (∀ id, r.ret = some id → s.away = none → (t.core s.cur).ctx.chan[chSr] = (s.me.ctx.chan[chSr]).map fun e =>
        if e.id = id then { e with v := vecOfWord (BitVec.ofNat 64 old), landed := true } else e)) ∧
  (∀ (s : State) (pa : Nat) (va : Word) (v : Vec) (mask : Word) (pos : Pos), s.MemOk → s.arg = .hist pa va v mask pos →
    s.poisoned (pasFrom pa 256) = false → s.ledger = [] → (∀ k, k < 256 → s.inMotion (pa + k) = false) →
    ∃ t, exec .ahistPerform s = .next t ∧
      (∀ i, i < 64 → t.mem.num (pa + 4 * i) 4 =
        if mask.getLsbD i then (s.mem.num (pa + 4 * i) 4 + laneNat v i) % 2 ^ 32 else s.mem.num (pa + 4 * i) 4) ∧
      (∀ q, q < pa ∨ pa + 256 ≤ q → t.mem.get q = s.mem.get q))

/-- The operations on sync objects: what each kind's acquire, release and bind leave in the object, and that no other byte changes; a
failed acquire waits in a free task and is SYNC_LATE in a locked one; a release of a mutex that the core does not hold is PROTECTION
(R214, R215, R220 to R224). -/
def Obligations.SyncObjectsPerform : Prop :=
  (∀ (s : State) (r : AcqReq) (o : SyncObj), s.MemOk → s.arg = .acq r → s.poisoned (pasFrom r.pa 64) = false →
    (∀ pa ∈ pasFrom r.pa 64, s.inMotion pa = false) → s.syncObj r.pa = some o →
    let keeps := fun (t : State) => (∀ pa, pa ∉ pasFrom r.pa 8 → t.mem.get pa = s.mem.get pa) ∧
      (if o.kind = .mutex then t.mem.num r.pa 4 = o.g ∧ t.mem.num (r.pa + 4) 4 = holderOf s.cur % 2 ^ 32 else t.mem = s.mem)
    (o.test r.gen = some true →
      (∃ t, exec .acqPerform s = .next t ∧ keeps t) ∧
      (∃ t, exec .tryacqPerform s = .next t ∧ keeps t ∧ (∀ id, r.chan = some id → s.away = none → (t.core s.cur).ctx.chan[chSr] =
        (s.me.ctx.chan[chSr]).map fun e => if e.id = id then { e with v := vecOfWord 1, landed := true } else e))) ∧
    (o.test r.gen = some false →
      (∃ t, exec .tryacqPerform s = .next t ∧ t.mem = s.mem ∧ (∀ id, r.chan = some id → s.away = none →
        (t.core s.cur).ctx.chan[chSr] =
          (s.me.ctx.chan[chSr]).map fun e => if e.id = id then { e with v := vecOfWord 0, landed := true } else e)) ∧
      (s.me.isLocked = false → ∃ t, exec .acqPerform s = .next t ∧ t.mem = s.mem ∧
        (t.core s.cur).ctx.pause = some (.acquire r s.clock s.ord)) ∧
      (s.me.isLocked = true → ∃ u : State, u.mem = s.mem ∧
        (u.core s.cur).ctx = { s.me.ctx with copy := (u.core s.cur).ctx.copy } ∧
        exec .acqPerform s = .next (u.takeTrap s.cur .syncLate (BitVec.ofNat 64 (o.g + o.h * 2 ^ 32)) r.pos)))) ∧
  (∀ (s : State) (r : AcqReq) (since ord : Nat) (o : SyncObj), s.MemOk → s.me.ctx.pause = some (.acquire r since ord) → since < s.clock →
    s.me.stopped = false → s.poisoned (pasFrom r.pa 64) = false → (∀ pa ∈ pasFrom r.pa 64, s.inMotion pa = false) →
    s.syncObj r.pa = some o → o.test r.gen = some true →
    ∃ t, exec .acqSuccess s = .next t ∧ (t.core s.cur).ctx.pause = some (.resume (s.clock + 1)) ∧
      (o.kind = .mutex → t.mem.num (r.pa + 4) 4 = holderOf s.cur % 2 ^ 32) ∧ (o.kind ≠ .mutex → t.mem = s.mem)) ∧
  (∀ (s : State) (r : RelReq) (o : SyncObj), s.MemOk → s.arg = .rel r → s.poisoned (pasFrom r.pa 64) = false →
    (∀ pa ∈ pasFrom r.pa 64, s.inMotion pa = false) → s.syncObj r.pa = some o →
    (o.kind = .mutex → o.h ≠ holderOf s.cur → ∃ u : State, u.mem = s.mem ∧
      (u.core s.cur).ctx = { s.me.ctx with copy := (u.core s.cur).ctx.copy } ∧
      exec .releasePoint s = .next (u.takeTrap s.cur .protection (accessInfo r.va 0 false) r.pos)) ∧
    (o.kind = .mutex → o.h = holderOf s.cur → ∃ t, exec .releasePoint s = .next t ∧
      t.mem.num r.pa 4 = (o.g + 1) % 2 ^ 32 ∧ t.mem.num (r.pa + 4) 4 = 0) ∧
    (o.kind = .barrier → ∃ t, exec .releasePoint s = .next t ∧
      t.mem.num r.pa 4 = (if o.h + 1 = o.n then (o.g + 1) % 2 ^ 32 else o.g) ∧
      t.mem.num (r.pa + 4) 4 = if o.h + 1 = o.n then 0 else o.h + 1) ∧
    (o.kind = .event → ∃ t, exec .releasePoint s = .next t ∧
      t.mem.num r.pa 4 = (o.g + 1) % 2 ^ 32 ∧ t.mem.num (r.pa + 4) 4 = 0) ∧
    (∀ t, o.kind ≠ .mutex ∨ o.h = holderOf s.cur → exec .releasePoint s = .next t →
      ∀ pa, pa ∉ pasFrom r.pa 8 → t.mem.get pa = s.mem.get pa)) ∧
  (∀ (s : State) (r : BindReq) (o : SyncObj), s.MemOk → s.arg = .bind r → s.poisoned (pasFrom r.pa 64) = false →
    (∀ pa ∈ pasFrom r.pa 64, s.inMotion pa = false) → s.syncObj r.pa = some o →
    ∃ t, exec .sobindPerform s = .next t ∧ t.mem.num (r.pa + 16 + 12 * r.slot.val) 6 = r.base.toNat % 2 ^ 48 ∧
      t.mem.num (r.pa + 22 + 12 * r.slot.val) 6 = r.len.toNat % 2 ^ 48 ∧
      ∀ pa, pa ∉ pasFrom (r.pa + 16 + 12 * r.slot.val) 12 → t.mem.get pa = s.mem.get pa)

/-! ### Waits, fences and engine queues (R57, R59, R109, R228, R231, R232, R240, R250, R295) -/

/-- A waiting C stream wakes when its condition holds, and its next item reaches issue in that cycle with the checks of R241; a CSTAT
reports the oldest request and drops it. FENCE_COMPLETE writes no memory; a mould copy's entry takes its 16 bytes; a format word joins
the format queue; the oldest marker of an engine retires into RDV (R57, R59, R109, R228, R231, R232, R240, R250, R295). -/
def Obligations.WaitsEndAndQueuesAdvance : Prop :=
  (∀ (s : State) (w : Wait), (s.me.stream .c).mode = .wait w → s.me.stopped = false →
    let woken := fun (i : Instr) (check : Option (Nat × Nat)) => ∃ c, exec i s = .next (s.setCore s.cur c) ∧
      c.stream .c = { s.me.stream .c with mode := .run, reach := s.me.ctx.tau, check := check } ∧
      c.ctx.c = s.me.ctx.c ∧ c.ctx.x = s.me.ctx.x ∧ c.ctx.sys = s.me.ctx.sys ∧ c.task = s.me.task
    (∀ v, w = .sleepu v → v ≤ s.framecnt s.cur → woken .sleepuWake (some (1, v))) ∧
    (∀ v, w = .waitf v → v ≤ s.framecnt s.cur → woken .waitfWake none) ∧
    (∀ m mask, w = .rdvw m mask → s.me.tauStands = false → s.me.ctx.rdvFails m mask = 0 → woken .rdvwWake none) ∧
    (∀ n, w = .cwait n → s.me.tauStands = false → s.batches s.cur ≤ n → woken .cwaitWake (some (2, 0))) ∧
    (∀ q rest st, w = .cstat → s.me.tauStands = false → s.me.ctx.castq = q :: rest → s.me.ctx.report = some q.id →
      q.done = some st →
      (castCause st = none → ∃ t, exec .cstatWake s = .next t ∧ (t.core s.cur).ctx.castq = rest ∧
        ((t.core s.cur).stream .c).mode = .run ∧ ∃ p ∈ t.agenda, p.owner = s.cur ∧ p.due = s.me.ctx.tau + 1 ∧
          p.ev = .resultLanding ∧ p.arg = .landing (.cval (BitVec.ofNat 64 st) none)) ∧
      (∀ cause, castCause st = some cause → ∃ u : State, (u.core s.cur).ctx.castq = rest ∧ u.mem = s.mem ∧
        exec .cstatWake s = .next (u.takeTrap s.cur cause (BitVec.ofNat 64 (st % 2 ^ 32 + q.kind * 2 ^ 32))
          (u.afterItem s.cur (u.core s.cur)))))) ∧
  ((∀ (s : State) (sc : Scope), s.arg = .scope sc → ∃ t, exec .fenceComplete s = .next t ∧ t.mem = s.mem ∧ t.cores = s.cores ∧
    t.agenda = s.agenda ∧ t.ledger.map (fun r => (r.pa, r.val, r.by_)) = s.ledger.map (fun r => (r.pa, r.val, r.by_)) ∧
    (∀ r ∈ t.ledger, r.visible s.cur = true → (s.cur, sc) ∈ r.fences)) ∧
  (∀ (s : State) (j : MloadJob) (rest : List MloadJob), s.me.ctx.mloads = j :: rest → s.arg = .ids j.id j.done →
    s.ledger = [] → (∀ i, i < 16 → s.inMotion (padBase s.cur + (j.src + 16 * j.done) + i) = false) →
    ∃ t, exec .mouldEntryWrite s = .next t ∧ t.mem = s.mem ∧
      (t.core s.cur).ctx.mould ((j.first + j.done) % 1024) =
        s.mem.num (padBase s.cur + (j.src + 16 * j.done)) 16 ∧
      (t.core s.cur).ctx.mloads = if j.done + 1 = j.n then rest else { j with done := j.done + 1 } :: rest) ∧
  (∀ (s : State) (w r : Word), s.arg = .words w r → ∃ c, exec .formatQueueEntry s = .next (s.setCore s.cur c) ∧
    c.ctx.mat.fq = s.me.ctx.mat.fq ++ [(w, r.toNat)] ∧ c.ctx.mat.walks = s.me.ctx.mat.walks ∧ c.ctx.acc = s.me.ctx.acc) ∧
  (∀ (s : State) (e n : Nat) (m : Marker) (rest : List Marker), e < 5 → s.arg = .ids e n → s.me.tauStands = false →
    s.me.ctx.markers[e]! = m :: rest → m.earliest ≤ s.me.ctx.tau → ((s.busyIds s.cur).all fun b => !m.behind.contains b.1) = true →
    ∃ c, exec .markerRetire s = .next (s.setCore s.cur c) ∧ c.ctx.markers[e]! = rest ∧ c.ctx.sys.rdv[e]! = m.m ∧
      ∀ k, k < 5 → k ≠ e → c.ctx.markers[k]! = s.me.ctx.markers[k]! ∧ c.ctx.sys.rdv[k]! = s.me.ctx.sys.rdv[k]!))


/-! ### Exceptions: taking, returning, holding (R306 to R321) -/

/-- Taking an exception: TCAUSE holds the cause, its class and whether the handler runs, TINFO the information, TRAPLINE the item; a
USER cause with a handler enters it at TVEC two cycles later and saves C's queue, counters, TBASE and stream; without one, for a
SUPERVISOR cause, and for every cause in handler mode, the supervisor acts, an open time of at least a cycle later (the model's choice,
log entry 12); the task's registers and memory stay; a locked task's group is held with reason 1. A FATAL cause outside handler mode
ends a free task: the core is free, its in-flight effects are dropped, and the scheduler is to mark the node faulted; every other core
is unchanged. In a locked task it stops the core and starts a hold of reason 6 that ends every task of the group (R306 to R308, R316,
R321). -/
def Obligations.TakingAnException : Prop :=
  (∀ (s : State) (id : CoreId) (cause : Cause) (info : Word) (pos : Pos), cause.cls ≠ .fatal ∨ (s.core id).inHandler = true →
    let c := s.core id
    let t := s.takeTrap id cause info pos
    let d := t.core id
    let handled := cause.cls = .user ∧ c.inHandler = false ∧ c.ctx.sys.tvec ≠ 0 ∧ c.ctx.sys.handlerOk = true
    d.ctx.sys.tinfo = info ∧
    d.ctx.sys.trapline = BitVec.ofNat 64 (pos.cl.idx * 2 ^ 20 + (32 * pos.line + pos.parcel) % 2 ^ 19) ∧
    d.ctx.sys.tcause.toNat % 256 = cause.code ∧ d.ctx.sys.tcause.toNat / 256 % 4 = cause.cls.code ∧
    d.ctx.c.s = c.ctx.c.s ∧ d.ctx.c.h = c.ctx.c.h ∧ d.ctx.x = c.ctx.x ∧ d.ctx.l = c.ctx.l ∧ d.ctx.st = c.ctx.st ∧
    d.ctx.acc = c.ctx.acc ∧ d.ctx.chan = c.ctx.chan ∧ t.mem = s.mem ∧ t.holds.take s.holds.length = s.holds ∧
    (handled → d.inHandler = true ∧ (d.stream .c).line = c.ctx.sys.tvec.toNat / 32 ∧
      (d.stream .c).parcel = c.ctx.sys.tvec.toNat % 32 ∧ (d.stream .c).mode = .run ∧ (d.stream .c).reach = s.clock + 2 ∧
      d.ctx.sys.tcause.getLsbD 10 = true ∧
      ∃ h, d.ctx.trapped = some (.handler h) ∧ h.h = c.ctx.c.h ∧ h.k = c.ctx.c.k ∧ h.tbase = c.ctx.sys.tbase ∧
        h.stream = c.stream .c ∧ h.action = none) ∧
    (¬ handled → d.ctx.trapped = some .supervisor ∧ (c.inHandler = true → d.ctx.sys.tcause.getLsbD 11 = true) ∧
      ∃ p ∈ t.agenda, p.owner = id ∧ p.ev = .supervisorDisposition ∧ s.clock < p.due) ∧
    (c.isLocked = true → c.inHandler = false → ∃ h ∈ t.holds, h.origin = id ∧ h.reason = 1 ∧ h.start = s.clock ∧ h.release = none) ∧
    (c.isLocked = false → t.holds = s.holds)) ∧
  (∀ (s : State) (id : CoreId) (info : Word) (pos : Pos) (k : Task), (s.core id).task = some k → (s.core id).inHandler = false →
    let t := s.takeTrap id .eccUncorrectable info pos
    (k.locked = false → (t.core id).task = none ∧ (t.core id).ctx = Ctx.zero ∧ t.faultq = s.faultq ++ [⟨id, 0x30, k.run⟩] ∧
      t.mem = s.mem ∧ t.holds = s.holds ∧ (∀ c, c ≠ id → t.core c = s.core c) ∧
      ∀ p ∈ t.agenda, p.owner = id → p.ifq = false) ∧
    (k.locked = true → (t.core id).ctx.trapped = some .supervisor ∧ (t.core id).ctx.c = (s.core id).ctx.c ∧ t.mem = s.mem ∧
      (t.core id).ctx.sys.tcause.toNat % 256 = 0x30 ∧ t.faultq = s.faultq ∧
      ∃ h ∈ t.holds, h.origin = id ∧ h.reason = 6 ∧ h.start = s.clock ∧ h.kill = some (k.group, 0x30) ∧
        ∀ c ∈ s.groupCores k.group, ∃ d, (c, d) ∈ h.members ∧
          ∃ p ∈ t.agenda, p.owner = c ∧ p.ev = .holdReachesMember ∧ p.due = s.clock + d ∧ p.arg = .ids h.id 0))


/-- The handler's two actions and what ends it: RESUME restores what the entry saved and goes on at an unchanged TRAPLINE, END is the
task's fatal end, that of a locked task by a hold of its group; the budget's DEADLINE, which names the C item that is due; what the
supervisor does with a BREAK or SYSCALL, whose stop it reports and holds until RESUME (where the host reads TCAUSE, TINFO and TRAPLINE
is the model's reading, log entry 99), a PANEL_MISS, after which every cluster goes on at its due item (log entry 31), a REFCOUNT_SAT,
whose fork goes on with a copy of the page, and any other cause; a report reaches the host an open time of at least a cycle later (the
model's choice, log entry 12) (R180, R274, R306, R310 to R312, R321). -/
def Obligations.HandlersAndSupervisorsDispose : Prop :=
  let groupEnds := fun (s t : State) (k : Task) => t.faultq = s.faultq ∧ (t.core s.cur).task = some k ∧
    ∃ h ∈ t.holds, h.id = s.seq ∧ h.reason = 6 ∧ h.kill = some (k.group, s.me.ctx.sys.tcause.toNat % 256) ∧ h.origin = s.cur
  (∀ (s : State) (h : Handler) (a : Nat), s.me.ctx.trapped = some (.handler h) → h.action = some a →
    (∀ i, (i = Instr.tctlResume ∧ a = 1) ∨ (i = .tctlEnd ∧ a = 2) → ∃ t, exec i s = .next t ∧ t.cores = s.cores ∧
      ∃ p ∈ t.agenda, p.owner = s.cur ∧ p.ev = .handlerModeEnd ∧ p.clk = .dom ∧ s.clock ≤ p.due) ∧
    (a = 1 → s.me.ctx.sys.trapline = h.trapline → ∃ t, exec .handlerModeEnd s = .next t ∧
      (t.core s.cur).ctx.trapped = none ∧ (t.core s.cur).ctx.c.h = h.h ∧ (t.core s.cur).ctx.c.k = h.k ∧
      (t.core s.cur).ctx.c.s = s.me.ctx.c.s ∧ (t.core s.cur).ctx.sys.tbase = h.tbase ∧
      (t.core s.cur).ctx.sys.tcause.getLsbD 10 = false ∧ (t.core s.cur).ctx.sys.tinfo = s.me.ctx.sys.tinfo ∧ t.mem = s.mem) ∧
    (∀ k, a = 2 → s.me.task = some k → k.locked = false → ∃ t, exec .handlerModeEnd s = .next t ∧ (t.core s.cur).task = none ∧
      t.faultq = s.faultq ++ [⟨s.cur, s.me.ctx.sys.tcause.toNat % 256, k.run⟩]) ∧
    (∀ k, a = 2 → s.me.task = some k → k.locked = true → ∃ t, exec .handlerModeEnd s = .next t ∧ groupEnds s t k)) ∧
  (∀ (s : State) (k : Task), s.me.task = some k →
    (s.me.tauStands = false → k.budget ≤ s.me.ctx.tau →
      ∃ u : State, u.mem = s.mem ∧ (u.core s.cur).ctx.c = s.me.ctx.c ∧ (u.core s.cur).ctx.sys = s.me.ctx.sys ∧
        (u.core s.cur).ctx.drain = none ∧ (∀ cl, cl ≠ .c → (u.core s.cur).stream cl = s.me.stream cl) ∧
        exec .deadline s = .next (u.takeTrap s.cur .deadline (BitVec.ofNat 64 (k.budget % 2 ^ 32)) (s.afterItem s.cur s.me))) ∧
    (∀ r since ord, s.me.ctx.pause = some (.acquire r since ord) → s.me.stopped = false → since + k.budget ≤ s.clock →
      ∃ u : State, (u.core s.cur).ctx = { s.me.ctx with pause := none } ∧ u.mem = s.mem ∧
        exec .deadline s = .next (u.takeTrap s.cur .deadline (BitVec.ofNat 64 (k.budget % 2 ^ 32)) r.pos))) ∧
  (∀ s : State, s.me.ctx.trapped = some .supervisor →
    let code := s.me.ctx.sys.tcause.toNat % 256
    let nested := s.me.ctx.sys.tcause.getLsbD 11
    let reports := fun (t : State) (n : Nat) => ∃ p ∈ t.agenda, p.ev = .eventPost ∧ s.clock < p.due ∧
      p.arg = .words (BitVec.ofNat 64 s.me.fn) (eventWord n s.cur (s.me.ctx.sys.tinfo.toNat % 2 ^ 32))
    (nested = false → code = 0x38 ∨ code = 0x39 → ∃ t, exec .supervisorDisposition s = .next t ∧
      (t.core s.cur).ctx = { s.me.ctx with trapped := some (.untilResume s.me.ctx.sys.trapline) } ∧ reports t 2 ∧
      ∀ fn : Fin 16, fn.val = s.me.fn → t.domain.fns[fn].stops = s.domain.fns[fn].stops ++
        [(s.cur, s.me.ctx.sys.tcause, s.me.ctx.sys.tinfo, s.me.ctx.sys.trapline)]) ∧
    (nested = false → code = 0x28 → ∃ t, exec .supervisorDisposition s = .next t ∧
      (t.core s.cur).ctx = { s.me.ctx with trapped := none } ∧ reports t 5) ∧
    (∀ k, nested = true ∨ code ∉ [0x20, 0x28, 0x38, 0x39] → s.me.task = some k → k.locked = false →
      ∃ t, exec .supervisorDisposition s = .next t ∧ (t.core s.cur).task = none ∧ t.faultq = s.faultq ++ [⟨s.cur, code, k.run⟩]) ∧
    (∀ k, nested = true ∨ code ∉ [0x20, 0x28, 0x38, 0x39] → s.me.task = some k → k.locked = true →
      ∃ t, exec .supervisorDisposition s = .next t ∧ groupEnds s t k) ∧
    (nested = false → code = 0x20 →
      (∀ k, s.satJob s.cur = none → s.me.task = some k →
        ∃ t, exec .supervisorDisposition s = .next t ∧ if k.locked then groupEnds s t k
          else (t.core s.cur).task = none ∧ t.faultq = s.faultq ++ [⟨s.cur, code, k.run⟩]) ∧
      (∀ job k j, s.satJob s.cur = some (job, k, j) →
        let r := (s.dropJob job.id).forkOn job k j ((List.range k.n).drop j)
        job ∈ s.jobs ∧ job.owner = s.cur ∧ job.body = .page k ∧ k.sat = some j ∧
        (r.2 = none → exec .supervisorDisposition s = .next (r.1.goOnDue s.cur)))))

/-- The hold wave stops each member that has a task and writes HOLDINFO, the release wave leaves for each member after its distance,
and a member resumes when it arrives (R314, R316, R317, R319). -/
def Obligations.HoldWavesSpread : Prop :=
  (∀ (s : State) (h : Hold) (n : Nat), s.arg = .ids h.id n → s.hold? h.id = some h →
    (∀ k, memberLane s.cur = none → s.me.task = some k → (∀ g code, h.kill = some (g, code) → k.locked = false ∨ k.group ≠ g) →
      ∃ c, exec .holdReachesMember s = .next (s.setCore s.cur c) ∧ c.heldBy = setInsert s.me.heldBy h.id ∧ c.stopped = true ∧
        c.ctx.sys.holdinfo.toNat % 16 = h.reason % 16 ∧ c.ctx.c = s.me.ctx.c ∧ c.ctx.x = s.me.ctx.x ∧ c.task = s.me.task) ∧
    (memberLane s.cur = none → s.me.task = none → exec .holdReachesMember s = .next s) ∧
    (∀ lane, memberLane s.cur = some lane → ∃ t, exec .holdReachesMember s = .next t ∧ t.cores = s.cores ∧ t.mem = s.mem ∧
      ∀ p ∈ s.ports, p.die = s.cur.die → p.lane = lane → { p with heldBy := setInsert p.heldBy h.id } ∈ t.ports) ∧
    (h.release = none → ∃ t, exec .releaseStart s = .next t ∧ t.cores = s.cores ∧ t.mem = s.mem ∧
      (∀ m ∈ h.members, ∃ p ∈ t.agenda, p.owner = m.1 ∧ p.clk = .dom ∧ p.due = s.clock + m.2 ∧ p.ev = .releaseReachesMember)) ∧
    (∃ t, exec .releaseReachesMember s = .next t ∧ t.mem = s.mem ∧
      (memberLane s.cur = none → ∀ k, k ∈ (t.core s.cur).heldBy ↔ k ∈ s.me.heldBy ∧ k ≠ h.id) ∧
      (t.core s.cur).ctx.trapped = s.me.ctx.trapped)) ∧
  (∀ (s : State) (m : CoreId) (e : Arrival), s.arg = .arrival m e →
    let c := s.core m
    ∃ t, exec .landingBufferArrival s = .next t ∧ t.mem = s.mem ∧ (t.core m).ctx = c.ctx ∧ (∀ k, k ≠ m → t.core k = s.core k) ∧
      (t.core m).landing = if c.stopped = true ∧ s.timeline m ≤ e.due ∧ e ∉ c.landing then c.landing ++ [e] else c.landing) ∧
  (∀ (s : State) (d n : Nat), s.arg = .ids d n → s.wholeGroups (s.usersOf s.cur) ≠ [] →
    ∃ t, exec .vaultOverrun s = .next t ∧ t.cores = s.cores ∧ t.mem = s.mem ∧
      (∃ h ∈ t.holds, h.reason = 4 ∧ h.origin = s.cur ∧ ∀ c ∈ s.wholeGroups (s.usersOf s.cur), ∃ dist, (c, dist) ∈ h.members) ∧
      ∃ p ∈ t.agenda, p.ev = .releaseStart ∧ p.due = s.clock + d)

/-! ### Tasks (R14, R62, R111, R112, R123 to R126, R161, R176 to R179, R189, R205 to R207, R333) -/

/-- A walk reads its level's entry: it goes on to the next level's table, puts the page into the buffer and lets the item go on, or
notes why the translation fails (R205 to R207). -/
def Obligations.WalksReadTheTables : Prop :=
  ∀ (s : State) (w : Walk), s.me.ctx.pause = some (.walk w) → s.poisoned (pasFrom w.entryPa 8) = false → s.me.inHandler = false →
    let e := s.numFrom w.entryPa 8
    let addr := e / 256 % 2 ^ 44 * 256
    let valid := e % 2 = 1 ∧ e / 64 % 4 = 0 ∧ e / 2 ^ 52 = 0
    let size := match w.level with | 2 => 2 ^ 28 | 3 => 2 ^ 21 | _ => 2 ^ 16
    let table := match w.level with | 1 => 8192 | 2 => 1024 | _ => 256
    (valid → e / 2 % 2 = 0 → w.level < 4 → 1 ≤ w.level → e / 4 % 16 = 0 → addr % table = 0 →
      ∃ t w1, exec .translationWalkEnd s = .next t ∧ (t.core s.cur).ctx.pause = some (.walk w1) ∧ w1.level = w.level + 1 ∧
        w1.table = addr ∧ w1.va = w.va ∧ t.mem = s.mem) ∧
    (valid → e / 2 % 2 = 1 → 2 ≤ w.level → w.level ≤ 4 → addr % size = 0 →
      ∃ t f, exec .translationWalkEnd s = .next t ∧ t.mem = s.mem ∧ (t.core s.cur).ctx.pause = none ∧
        (t.core s.cur).tlb = tlbFill 256 s.me.tlb f ∧ (∀ k, k ≠ s.cur → (t.core k).tlb = (s.core k).tlb) ∧
        f.va = w.va % 2 ^ 48 / size * size ∧ f.size = size ∧ f.pa = addr ∧ f.pinned = false ∧
        f.r = decide (e / 4 % 2 = 1) ∧ f.w = decide (e / 8 % 2 = 1)) ∧
    (e % 2 = 0 → ∃ t, exec .translationWalkEnd s = .next t ∧ t.mem = s.mem ∧ (t.core s.cur).ctx.pause = none ∧
      (t.core s.cur).tlb = s.me.tlb ∧ (t.core s.cur).ctx.walkFail = some (w.va % 2 ^ 48 / 65536, w.level, 1))

/-- A launched task starts with every register at its starting value: the queues 0, the predicates ones, the generators at counts 1,
s0 to s3, a0 and b0 as R177 gives them, ARGBASE as R178 does, and its task clock at 0; other cores and memory are unchanged (R14, R62,
R112, R161, R177, R178). A cycle of the copies before it writes nothing outside their places, and the next follows a cycle later, as long
as there is more to copy at 64 bytes a cycle (R176). -/
def Obligations.LaunchedTasksStart : Prop :=
  (∀ (s : State) (r : LaunchReq), s.arg = .launch r → s.me.task = none →
    ∃ t, exec .taskLaunch s = .next t ∧ t.mem = s.mem ∧ (∀ k, k ≠ s.cur → t.core k = s.core k) ∧
      let c := t.core s.cur
      let addr := BitVec.ofNat 64 (if r.desc.locked then r.desc.argbase else r.desc.argva)
      c.task = some r.task ∧ r.task.locked = r.desc.locked ∧ c.ctx.tau = 0 ∧ c.ctx.trapped = none ∧ c.heldBy = [] ∧
      c.ctx.c.s[0] = BitVec.ofNat 64 r.a ∧ c.ctx.c.s[1] = BitVec.ofNat 64 r.b ∧ c.ctx.c.s[2] = addr ∧
      c.ctx.c.s[3] = BitVec.ofNat 64 (if r.desc.locked then r.desc.arglen else r.desc.recsize) ∧
      (∀ i : Fin 32, 4 ≤ i.val → c.ctx.c.s[i] = 0) ∧ (∀ i : Fin 16, c.ctx.c.h[i] = 0) ∧
      (∀ i : Fin 8, c.ctx.x.p[i] = BitVec.allOnes 64) ∧ (∀ i : Fin 16, c.ctx.x.v[i] = Vec.zero) ∧
      c.ctx.l.a[0] = addr ∧ c.ctx.st.b[0] = addr ∧ (∀ (k d : Fin 4), (c.ctx.l.ag[k]).count[d] = 1) ∧
      (∀ ch : Fin 18, c.ctx.chan[ch] = []) ∧ c.ctx.sys.tvec = 0 ∧ c.ctx.sys.tcause = 0 ∧
      c.ctx.sys.imagelen = BitVec.ofNat 64 r.desc.imagelen ∧ c.ctx.sys.argbase = BitVec.ofNat 64 (r.desc.argbase % 2 ^ 20)) ∧
  (∀ (s : State) (die : Nat) (d : Desc) (k : Nat), s.MemOk → s.arg = .load die d k → ∃ t, exec .taskLaunch s = .next t ∧
    (∀ pa, (∀ p ∈ d.parts, pa < padBase s.cur + p.2.1 ∨ padBase s.cur + p.2.1 + p.2.2 ≤ pa) → t.mem.get pa = s.mem.get pa) ∧
    (64 * (k + 1) < (d.parts.map fun p => p.2.2).sum → ∃ p ∈ t.agenda, p.owner = s.cur ∧ p.clk = .dom ∧ p.due = s.clock + 1 ∧
      p.ev = .taskLaunch ∧ p.arg = .load die d (k + 1)))

/-- A task whose streams have ended and whose effects have landed leaves its core free, and its exit value is added to its node's sum; a
joined group starts its four lines in one cycle, single-bit errors in their link words corrected, or ends the four streams together; a frame boundary ages free work and asks the free
tasks of reserved cores to yield (R123, R124, R179, R189, R210, R333). -/
def Obligations.TasksEndAndFramesBegin : Prop :=
  (∀ s : State, s.taskDone s.cur = true → ∃ t, exec .taskEnd s = .next t ∧
    ∀ k, s.me.task = some k →
      (s.running? k.run = none → (t.core s.cur).task = none ∧ (t.core s.cur).ctx = Ctx.zero ∧ t.mem = s.mem) ∧
      (∀ r, s.running? k.run = some r → r.kind = 1 → r.left.filter (· != s.cur) ≠ [] →
        (t.core s.cur).task = none ∧ (t.core s.cur).ctx = Ctx.zero ∧ t.mem = s.mem ∧
        ∃ q, t.running? k.run = some q ∧ q.left = r.left.filter (· != s.cur) ∧
          q.sum = (r.sum + (k.exit.getD 0).toNat) % 2 ^ 64 ∧ q.cores = r.cores)) ∧
  (∀ s : State,
    let links := fun (g : Nat) => s.correct ((List.range 4).flatMap fun k => s.linkPas s.cur (4 * g + k))
    (s.groupNext s.cur = some .ends → ∃ c, exec .joinedGroupStart s = .next (s.setCore s.cur c) ∧ c.inJoined = false ∧
      ∀ cl, (c.stream cl).mode = .ended ∧ (c.stream cl).reach = s.me.ctx.tau) ∧
    (∀ g p, s.groupNext s.cur = some (.start g p) → s.groupFault s.cur s.me g = none →
      ∃ c, exec .joinedGroupStart s = .next ((links g).setCore s.cur c) ∧ c.ctx.joined.map (·.g) = some g ∧ c.ctx.c = s.me.ctx.c) ∧
    (∀ g p reason k, s.groupNext s.cur = some (.start g p) → s.groupFault s.cur s.me g = some (.joinForm, reason, k) → k < 4 →
      exec .joinedGroupStart s = .next ((links g).raise s.cur .joinForm (joinInfo reason k g)
        ⟨(match k with | 0 => .c | 1 => .l | 2 => .x | _ => .s), 4 * g + k, 2⟩))) ∧
  (∀ s : State, s.sched.frame < s.clock / 32768 → ∃ t, exec .frameBoundary s = .next t ∧
    ((∀ e ∈ s.sched.ready, e.kind ≠ 1) → t.mem = s.mem ∧ t.sched.frame = s.clock / 32768 ∧
      t.sched.ready = s.sched.ready.map (fun e => if e.queued = true ∧ (e.kind = 2 ∨ e.kind = 7) then
        (if 63 ≤ e.aged then { e with aged := 0, prio := min 3 (e.prio + 1) } else { e with aged := e.aged + 1 }) else e) ∧
      ∀ e ∈ s.cores, e.2.isFree = true → e.2.ctx.drain = none → s.reservedBy e.1 = true →
        ∃ e' ∈ t.cores, e'.1 = e.1 ∧ e'.2.ctx.sys.preempting = true))

/-! ### Vaults and copies (R199, R200, R210, R239 to R242) -/

/-- CRESIZE's start and completion clear the direct storage of the moving ways and change no other byte; its completion sets the
number of ways; a scrub step corrects the soft errors of its 64 bytes in every vault and changes no byte (R200, R210). -/
def Obligations.VaultsResizeAndScrub : Prop :=
  (∀ (s : State) (r : Cresize) (rest : List Cresize), s.MemOk → s.me.cresizes = r :: rest →
    let moved := fun (pa : Nat) => paSpace pa = 0 ∧ paCore pa = s.cur ∧
      16 - max r.n r.c0 ≤ paOff pa / 524288 ∧ paOff pa / 524288 < 16 - min r.n r.c0
    let clears := fun (t : State) => ∀ pa, (moved pa → t.mem.get pa = 0) ∧ (¬ moved pa → t.mem.get pa = s.mem.get pa)
    (r.start = s.cresizeNow s.cur r → ∃ t, exec .cresizeStart s = .next t ∧ clears t ∧ t.cores = s.cores) ∧
    (r.done = s.cresizeNow s.cur r → ∃ t, exec .cresizeComplete s = .next t ∧ clears t ∧ (t.core s.cur).ways = r.n ∧
      (t.core s.cur).cresizes = rest ∧ (t.core s.cur).ctx = s.me.ctx)) ∧
  (∀ s : State, 64 * (s.scrubs + 1) ≤ s.clock → ∃ t, exec .scrubStep s = .next t ∧ t.mem = s.mem ∧ t.scrubs = s.scrubs + 1 ∧
    t.poison = s.poison ∧ (∀ w ∈ t.soft, w ∈ s.soft) ∧
    ∀ w ∈ s.soft, (paSpace (8 * w) = 0 ∧ paOff (8 * w) / 64 = s.scrubs % 131072 → w ∉ t.soft))

/-- A copy's beat is read into the request and not yet written; its write stores the beat's bytes and no other; at completion the
request is gone, and a failed CRC check is counted and reported (R239, R241, R242). -/
def Obligations.CopiesPerform : Prop :=
  ∀ (s : State) (id j : Nat) (b : Bool) (job : Job) (k : CopyJob), s.MemOk → s.arg = .beat id j b → s.copyJob id = some (job, k) →
    let n := min 128 (k.len - 128 * j)
    let src := segPas k.src (128 * j) n
    let dst := segPas k.dst (128 * j) n
    (s.poisoned src = false → s.ledger = [] → (∀ pa ∈ src, s.inMotion pa = false) →
      ∃ t job' k', exec .copyBeatRead s = .next t ∧ t.mem = s.mem ∧ t.copyJob id = some (job', k') ∧
        k'.buf = k.buf ++ [(j, src.map s.mem.get)] ∧ k'.dst = k.dst ∧ k'.fin = k.fin) ∧
    (∀ bs, listGet? k.buf j = some bs → ∃ t, exec .copyBeatWrite s = .next t ∧
      (∀ pa, pa ∉ dst → t.mem.get pa = s.mem.get pa) ∧
      (dst.Nodup → bs.length = n → (∀ pa ∈ dst, s.inMotion pa = false) →
        ∀ i, i < n → t.mem.get (segPa k.dst (128 * j + i)) = bs[i]!)) ∧
    (∃ t, exec .copyComplete s = .next t ∧ t.mem = s.mem ∧ t.job? id = none ∧
      (t.core job.owner).ctx.copy.crcFails = if job.live = true ∧ k.crc = true ∧ k.reg ^^^ 0xFFFFFFFF ≠ leNat k.tail
        then min ((s.core job.owner).ctx.copy.crcFails + 1) 65535 else (s.core job.owner).ctx.copy.crcFails)

/-! ### The matrix unit (R246 to R266) -/

/-- A command starts once its tiles are free, takes a use of the oldest format and the next number, or is FORMAT_UNDERFLOW; its blocks
are read and added to its tile alone, each element taking the rounded sum with its block's scaled products, a complex one its
compensated sums; the score step folds the tile into the running softmax of the other and changes these two alone. MSIDE's load and MRSC
perform: the bytes are read, then the side registers of the one tile take them; .max rescales to the greater maxima (R257 to R265). -/
def Obligations.MatrixStepsPerform : Prop :=
  ((∀ (s : State) (wk : MWalk), s.me.tauStands = false → s.me.ctx.mat.startDue s.me.ctx.tau = true →
    s.me.ctx.mat.nextWalk = some wk →
    (s.me.ctx.mat.fq = [] → ∃ u : State, u.mem = s.mem ∧ (u.core s.cur).ctx.acc = s.me.ctx.acc ∧
      exec .matrixCommandStart s = .next (u.takeTrap s.cur .formatUnderflow
        (BitVec.ofNat 64 (s.me.ctx.mat.mseq.toNat + wk.next % 2 ^ 32 * 2 ^ 16)) (s.afterItem s.cur s.me))) ∧
    (∀ w r rest, s.me.ctx.mat.fq = (w, r) :: rest →
      let f := formOf w
      let cur : Vector Word 4 := Vector.ofFn fun o => walkAddr wk.tab o.val wk.next
      let at_ := s.me.ctx.mat.startAt f (s.matrixLat s.cur cur wk.tab f) s.me.ctx.tau
      (s.me.ctx.tau < at_ → ∃ c, exec .matrixCommandStart s = .next (s.setCore s.cur c) ∧ c.ctx.mat.phase = .start at_ ∧
        c.ctx.mat.fq = s.me.ctx.mat.fq ∧ c.ctx.mat.cmds = s.me.ctx.mat.cmds) ∧
      (at_ ≤ s.me.ctx.tau → ∃ t k, exec .matrixCommandStart s = .next t ∧ t.mem = s.mem ∧
        (t.core s.cur).ctx.mat.fq = (if r ≤ 1 then rest else (w, r - 1) :: rest) ∧
        (t.core s.cur).ctx.mat.mseq = s.me.ctx.mat.mseq + 1 ∧ (t.core s.cur).ctx.mat.cmds = s.me.ctx.mat.cmds ++ [k] ∧
        k.w = w ∧ k.no = wk.next ∧ k.seq = s.me.ctx.mat.mseq ∧ k.cur = cur ∧ (t.core s.cur).ctx.acc = s.me.ctx.acc))) ∧
  (∀ (s : State) (uid j : Nat) (k : MCmd), s.me.ctx.mat.cmd uid = some k →
    (∀ segs c1, s.arg = .beat uid j true → s.me.tauStands = false → s.me.ctx.mat.blockDue s.me.ctx.tau = true →
      checkPieces s s.cur k.tab (j != 0) (blockPieces k.cur k.tab (formOf k.w) j) s.me = .ok (segs, c1) →
      ∃ t q, exec .matrixBlockRead s = .next t ∧ t.mem = s.mem ∧ (t.core s.cur).ctx.acc = s.me.ctx.acc ∧
        (t.core s.cur).ctx.mat.cmd uid = some q ∧ q.ops = k.ops ++ [⟨j, segs⟩]) ∧
    (∀ o, s.arg = .beat uid j false → k.ops.find? (fun o => o.j == j) = some o →
      (∀ g ∈ o.segs, s.poisoned (segsPas g) = false) →
      ∃ t q d, exec .matrixBlockRead s = .next t ∧ t.mem = s.mem ∧ (t.core s.cur).ctx.acc = s.me.ctx.acc ∧
        (t.core s.cur).ctx.mat.cmd uid = some q ∧ q.data = k.data ++ [d] ∧ d.j = j) ∧
    (∀ d b, s.arg = .beat uid j b → k.data.find? (fun o => o.j == j) = some d →
      ∃ t, exec .matrixBlockAdd s = .next t ∧ t.mem = s.mem ∧
        (∀ u : Fin 4, u.val ≠ (formOf k.w).t → (t.core s.cur).ctx.acc[u] = s.me.ctx.acc[u]) ∧
        (t.core s.cur).ctx.c = s.me.ctx.c ∧ (t.core s.cur).ctx.x = s.me.ctx.x ∧
        let f := formOf k.w
        let ps := (blockPieces k.cur k.tab f j).zip d.bytes
        let was := s.me.ctx.acc[f.t]!
        let old := fun i => if j = 0 ∧ f.z = true then 0 else was.array.getD i 0
        let tile := (t.core s.cur).ctx.acc[f.t]!
        let new := fun i => tile.array.getD i 0
        tile.m = was.m ∧ tile.s = was.s ∧
        (f.fa ≠ .cf32 → ∀ m n, m < 64 → n < 64 → new (64 * m + n) = fadd (old (64 * m + n))
          (sumBlock ((List.range 32).map fun i => ((rowA f d ps m).getD i .nan).mul ((colB f ps n).getD i .nan))
            (scaleOf f.sa (rowBytes ps .sa m)) (scaleOf f.sb (rowBytes ps .sb n)))) ∧
        (f.fa = .cf32 → ∀ m n, m < 32 → n < 32 →
          let part := fun (o : MOp) (r i h : Nat) => (BitVec.ofNat 32 (leNat (rowBytes ps o r) / 2 ^ (64 * i + 32 * h)) : F32)
          let prod := fun i => cprod (part .a m i 0) (part .a m i 1) (part .b n i 0) (part .b n i 1)
          let sum := fun (from_ : Nat) (p : Nat → FVal) => (List.range 32).foldl (fun (a : F32 × F32) i => cacc a.1 a.2 (p i))
            (old (from_ + 32 * m + n), old (from_ + 1024 + 32 * m + n))
          (new (32 * m + n), new (1024 + 32 * m + n)) = sum 0 (fun i => (prod i).1) ∧
            (new (2048 + 32 * m + n), new (3072 + 32 * m + n)) = sum 2048 (fun i => (prod i).2))) ∧
    (∀ b, s.arg = .beat uid j b → ∃ c, exec .matrixScoreStep s = .next (s.setCore s.cur c) ∧
      (∀ u : Fin 4, u.val ≠ (formOf k.w).t → u.val ≠ (formOf k.w).u → c.ctx.acc[u] = s.me.ctx.acc[u]) ∧
      c.ctx.c = s.me.ctx.c ∧ c.ctx.x = s.me.ctx.x ∧
      let f := formOf k.w
      let t := s.me.ctx.acc[f.t]!
      let u := s.me.ctx.acc[f.u]!
      f.t ≠ f.u → ∀ r : Fin 64,
        let x := fun n => t.array.getD (64 * r.val + n) 0
        let mn := fmax u.m[r] (reduce64 fmax fNegInf ((List.range 64).map fun n => if n < f.vcols then x n else fNegInf))
        let a := if mn = fNegInf ∨ feq u.m[r] mn = true then fOne else exp2 (fsub u.m[r] mn)
        let p := fun n => if mn = fNegInf ∨ f.vcols ≤ n then 0 else exp2 (fsub (x n) mn)
        (c.ctx.acc[f.u]!).m[r] = mn ∧
        (c.ctx.acc[f.u]!).s[r] = fadd (fmul u.s[r] a) (reduce64 fadd fNegZero ((List.range 64).map p)) ∧
        ∀ n, n < 64 → (c.ctx.acc[f.t]!).array.getD (64 * r.val + n) 0 = p n ∧
          (c.ctx.acc[f.u]!).array.getD (64 * r.val + n) 0 = fmul (u.array.getD (64 * r.val + n) 0) a))) ∧
  (∀ (f : Form) (d : BlockData) (ps : List (Piece × List Byte)) (m i : Nat), i < 32 →
    let val := fun (fmt : Fmt) (bs : List Byte) i => opValue fmt (leNat bs / 2 ^ (fmt.width * i) % 2 ^ fmt.width)
    let abs := if f.asrc = 0 then rowBytes ps .a m else d.a.getD m []
    let nib := leNat (rowBytes ps .md m) / 16 ^ (i / 4)
    let word := leNat (rowBytes ps .b m) / 2 ^ (16 * (i / 8)) % 2 ^ 16
    let size := 2 * (leNat (((rowBytes ps .tb 0).drop (4 * (word / 256))).take 4) / 16 ^ (i % 8) % 16) + word % 2
    let minus := if i % 8 = 7 then ((List.range 7).countP fun k => word.testBit (k + 1)) % 2 == 1 else word.testBit (1 + i % 8)
    (f.sp = false → (rowA f d ps m)[i]? = some (val f.fa abs i)) ∧
    (f.sp = true → (rowA f d ps m)[i]? = some (if i % 4 = nib / 4 % 4 then val f.fa abs (2 * (i / 4) + 1)
      else if i % 4 = nib % 4 then val f.fa abs (2 * (i / 4)) else .fin false 0 0)) ∧
    (f.fb ≠ .cb2 → (colB f ps m)[i]? = some (val f.fb (rowBytes ps .b m) i)) ∧
    (f.fb = .cb2 → (colB f ps m)[i]? = some (.fin (size != 0 && minus) size (-2)))) ∧
  (∀ (s : State) (r : SideReq), s.arg = .side r →
    let x := s.me.ctx.acc[r.tile]
    let done := fun (t : State) => t.mem = s.mem ∧ (∀ u : Fin 4, u ≠ r.tile → (t.core s.cur).ctx.acc[u] = s.me.ctx.acc[u]) ∧
      r.id ∉ (t.core s.cur).ctx.mat.ops
    (r.data = [] → (∀ e ∈ r.els, s.poisoned e.pas = false) → s.ledger = [] → (∀ e ∈ r.els, ∀ pa ∈ e.pas, s.inMotion pa = false) →
      let bs := (r.els.flatMap El.pas).map s.mem.get
      (∃ t, exec .msideLoadWrite s = .next t ∧ t.mem = s.mem ∧ (t.core s.cur).ctx.acc = s.me.ctx.acc ∧
        ∃ p ∈ t.agenda, p.ev = .msideLoadWrite ∧ p.arg = .side { r with data := bs }) ∧
      (r.kind = 1 → ∃ t, exec .mrscWrite s = .next t ∧ t.mem = s.mem ∧ (t.core s.cur).ctx.acc = s.me.ctx.acc ∧
        ∃ p ∈ t.agenda, p.ev = .mrscWrite ∧ p.arg = .side { r with data := bs })) ∧
    (r.data ≠ [] → ∃ t, exec .msideLoadWrite s = .next t ∧ done t ∧
      ∀ i : Fin 64, ((t.core s.cur).ctx.acc[r.tile]).m[i] = BitVec.ofNat 32 (leNat ((r.data.drop (4 * i.val)).take 4)) ∧
        ((t.core s.cur).ctx.acc[r.tile]).s[i] = BitVec.ofNat 32 (leNat ((r.data.drop (4 * (64 + i.val))).take 4))) ∧
    (r.kind = 1 → r.data ≠ [] → ∃ t, exec .mrscWrite s = .next t ∧ done t ∧
      ∀ i : Fin 64, ((t.core s.cur).ctx.acc[r.tile]).m[i] =
        f32of .rne ((fF32.decode x.m[i].toNat).max (fF32.decode (BitVec.ofNat 32 (leNat ((r.data.drop (4 * i.val)).take 4))).toNat))) ∧
    (r.kind = 2 → ∃ t, exec .mrscWrite s = .next t ∧ done t ∧ ((t.core s.cur).ctx.acc[r.tile]).m = x.m ∧
      ((t.core s.cur).ctx.acc[r.tile]).s = x.s))


/-! ### Pages, attention and casts (R159, R160, R268 to R296) -/

/-- LDQK's two reads, the whole page's checks between them, and its turned row; the steps of the page instructions: KPOS writes its entry's base and nothing else, KFORK counts a reference
and writes the copy, KDROP drops one and the last makes the anchor invalid, KMAP makes an anchor of one reference; an entry that fails
its checks is PROTECTION and writes nothing (R159, R269 to R276). -/
def Obligations.PageStepsPerform : Prop :=
  (∀ (s : State) (r : LdqkReq), s.arg = .ldqk r → s.ledger = [] →
    (r.row = none → s.poisoned (pasFrom r.pa 16) = false → (∀ pa ∈ pasFrom r.pa 16, s.inMotion pa = false) →
      let e := kvOf ((pasFrom r.pa 16).map s.mem.get)
      let n := headDim e.dcode * elemSize (fmtBit r.fmt)
      (e.valid = false ∨ e.tag ≠ s.me.domtag → ∃ u : State, u.mem = s.mem ∧
        exec .ldqkEntryRead s = .next (u.takeTrap s.cur .protection (accessInfo r.va 0 false) r.pos)) ∧
      (∀ cause, e.valid = true → e.tag = s.me.domtag →
        s.reach s.cur r.cl e.page (e.image + 16) = .error cause → ∃ u : State, u.mem = s.mem ∧
        exec .ldqkEntryRead s = .next (u.takeTrap s.cur cause (accessInfo r.va 0 false) r.pos)) ∧
      (∀ lat, e.valid = true → e.tag = s.me.domtag → s.reach s.cur r.cl e.page (e.image + 16) = .ok lat →
        ∃ t, exec .ldqkEntryRead s = .next t ∧ t.mem = s.mem ∧ ∃ p ∈ t.agenda, s.ComesIn p lat ∧
          p.ev = .ldqkEntryRead ∧ p.arg = .ldqk { r with row := some ⟨e.page + r.t * n, e.dcode,
            if r.t < e.count then some ((e.base + r.t) % 2 ^ 32) else none, none⟩ })) ∧
    (∀ k, r.row = some k →
      let pas := if k.bytes.isSome then [] else pasFrom k.pa (headDim k.dcode * elemSize (fmtBit r.fmt))
      let om := ldqkOmega s.cur r
      (s.away = none → s.poisoned (pas ++ om) = false → (∀ pa ∈ pas ++ om, s.inMotion pa = false) →
        let v := match k.pos with
          | some p => ldqkRow (fmtBit r.fmt) r.g k.dcode p (k.bytes.getD (pas.map s.mem.get)) (om.map s.mem.get)
          | none => Vec.zero
        ∃ t, exec .ldqkEntryRead s = .next t ∧ t.mem = s.mem ∧
          ∃ p ∈ t.agenda, s.ComesIn p 8 ∧ p.ev = .channelEntryLanding ∧ p.arg = .chan r.chan r.id v) ∧
      (s.away ≠ none → k.bytes = none → s.poisoned pas = false → (∀ pa ∈ pas, s.inMotion pa = false) →
        ∃ t, exec .ldqkEntryRead s = .next t ∧ t.mem = s.mem ∧ ∃ p ∈ t.agenda, s.ComesIn p 0 ∧ p.ev = .ldqkEntryRead ∧
          p.arg = .ldqk { r with row := some { k with bytes := some (pas.map s.mem.get) } }))) ∧
  (∀ (format g dcode pos : Nat) (row om : List Byte) (j : Nat), j < 32 →
    let w := if format = 0 then 2 else 1
    let elem := fun (n : Nat) => if 64 * (dcode + 1) ≤ n then (0 : F32) else
      f32of .rne ((if format = 0 then fBF16 else fE4M3).decode (leNat ((row.drop (n * w)).take w)))
    let p := rotPair (elem (2 * (32 * g + j))) (elem (2 * (32 * g + j) + 1)) pos (leNat ((om.drop (8 * j)).take 8))
    (ldqkRow format g dcode pos row om)[2 * j]! = p.1 ∧ (ldqkRow format g dcode pos row om)[2 * j + 1]! = p.2) ∧
  (∀ (s : State) (id j : Nat) (b : Bool) (job : Job) (k : PageJob), s.MemOk → s.arg = .beat id j b → s.pageJob id = some (job, k) → s.ledger = [] →
    (s.poisoned (segPas k.a (16 * j) 16) = false → (∀ pa ∈ segPas k.a (16 * j) 16, s.inMotion pa = false) →
      ∃ t job' k', exec .pageEntryRead s = .next t ∧ t.mem = s.mem ∧ t.pageJob id = some (job', k') ∧
        k'.ents = k.ents ++ [(j, (segPas k.a (16 * j) 16).map s.mem.get, k.sum)]) ∧
    (∀ bs sum, listGet? k.ents j = some (bs, sum) → bs.length = 16 →
      let e := kvOf bs
      let an := kvOf ((pasFrom e.anchorPa 16).map s.mem.get)
      let keeps := fun (t : State) (written : List Nat) => ∀ pa, pa ∉ written → t.mem.get pa = s.mem.get pa
      (∃ t, exec .kmapWrite s = .next t ∧ t.pageJob id = none ∧
        keeps t (pasFrom (e.page + e.image - 4) 4 ++ pasFrom e.anchorPa 16 ++ segPas k.b 0 16) ∧
        ((∀ pa ∈ pasFrom e.anchorPa 16, s.inMotion pa = false ∧ pa ∉ segPas k.b 0 16) →
          let an := kvOf ((pasFrom e.anchorPa 16).map t.mem.get)
          k.tag < 65536 → an.valid = true ∧ an.anchor = true ∧ an.refs = 1 ∧ an.tag = k.tag ∧ an.page = e.page)) ∧
      (e.valid = false ∨ e.tag ≠ k.tag → k.op ∈ [PageOp.set, .add, .fork, .drop] → job.live = true →
        ∃ u : State, u.mem = s.mem ∧
          exec .pageEntryApply s = .next (u.takeTrap job.owner .protection (pageInfo j 0) k.pos)) ∧
      (e.valid = true → e.tag = k.tag → s.pageHome job.owner e = true →
        (k.op = .set ∨ k.op = .add → ∃ t, exec .pageEntryApply s = .next t ∧ keeps t (segPas k.a (16 * j + 8) 4) ∧
          ((segPas k.a (16 * j + 8) 4).Nodup → (∀ pa ∈ segPas k.a (16 * j + 8) 4, s.inMotion pa = false) →
            leNat ((segPas k.a (16 * j + 8) 4).map t.mem.get) =
              (if k.op = .set then k.arg.toNat + sum else e.base + k.arg.toNat) % 2 ^ 32)) ∧
        ((∀ pa ∈ pasFrom e.anchorPa 16, s.inMotion pa = false) → s.poisoned (pasFrom e.anchorPa 16) = false →
        (k.op = .fork → an.valid = true → an.format = e.format → an.dcode = e.dcode → an.refs < 4095 →
          ∃ t, exec .pageEntryApply s = .next t ∧ keeps t (pasFrom e.anchorPa 16 ++ segPas k.b (16 * j) 16) ∧
            ((∀ pa ∈ segPas k.b (16 * j) 16, pa ∉ pasFrom e.anchorPa 16) →
              (kvOf ((pasFrom e.anchorPa 16).map t.mem.get)).refs = an.refs + 1)) ∧
        (k.op = .drop → an.valid = true → an.format = e.format → an.dcode = e.dcode → e.anchor = false → an.refs ≠ 0 →
          ∃ t, exec .pageEntryApply s = .next t ∧
            keeps t (pasFrom e.anchorPa 16 ++ segPas k.a (16 * j) 1 ++ segPas k.b (8 * k.freed) 8) ∧
            ((∀ pa ∈ segPas k.a (16 * j) 1 ++ segPas k.b (8 * k.freed) 8, pa ∉ pasFrom e.anchorPa 16) →
              let after := kvOf ((pasFrom e.anchorPa 16).map t.mem.get)
              after.refs = an.refs - 1 ∧ after.valid = (an.refs != 1) ∧ after.page = an.page)))) ∧
      (k.op = .map false → s.pageHome job.owner e = true → s.poisoned (pasFrom e.anchorPa 16) = false →
        (∀ pa ∈ pasFrom e.anchorPa 16, s.inMotion pa = false) → an.valid = false →
        ∃ t, exec .pageEntryApply s = .next t ∧ t.mem = s.mem)))

/-- Every step of an attention or cast request but its last changes no byte of memory; the last of an attention request writes the
status and, when it is 0, the results, and nothing else, that of a cast reports the status to the core's list, and the request is gone.
What the steps of an attention request read goes into it: block, operands, entries, bitmap, signatures; a page is folded into each row
by R281, of the tokens that the mask, the bitmap and the selection keep, and the rows are written divided by their sums, or with their
triples. A cast's steps hash a chunk, probe a bucket, compare the tokens, allocate, evict and check the image, and at F the request's
writes, its result, hold, releases of evicted pages and deposit take their places (R279 to R282, R286, R287, R290 to R296). The
order among several problems of one entry is the model's reading (log entry 27). -/
def Obligations.RequestsWriteAtTheirEnd : Prop :=
  (∀ (s : State) (job : Job) (k : AttnJob) (j : Nat), s.MemOk → s.attnArg = some (job, k, j) →
    (∀ i, i ∈ [Instr.attnStart, .attnBlockRead, .attnOperandRead, .attnEntryRead, .attnBitmapRead, .attnSignatureRead,
        .attnPageRead] → ∃ t, exec i s = .next t ∧ t.mem = s.mem) ∧
    (∃ t, exec .attnComplete s = .next t ∧ t.job? job.id = none ∧
      (∀ pa, pa ∉ segPas k.blk 0x7C 4 → (k.status = 0 → ∀ w ∈ k.results, w.pa ≠ pa) → t.mem.get pa = s.mem.get pa) ∧
      ((segPas k.blk 0x7C 4).Nodup → (∀ pa ∈ segPas k.blk 0x7C 4, s.inMotion pa = false) →
        leNat ((segPas k.blk 0x7C 4).map t.mem.get) = k.status % 2 ^ 32))) ∧
  (∀ (s : State) (job : Job) (k : CastJob), s.castArg = some (job, k) →
    (∀ i, i ∈ [Instr.castRequestStart, .castStartStep, .castChunkStep, .castProbeStep, .castConfirmStep, .castAllocateStep,
        .castEvictStep, .castDepositStep] → ∃ t, exec i s = .next t ∧ t.mem = s.mem) ∧
    (∃ t word, exec .castRequestFinish s = .next t ∧ t.job? job.id = none ∧
      (job.live = true → ∀ q ∈ (t.core job.owner).ctx.castq, q.id = job.id → q.done = some word) ∧
      (s.poisoned ((k.anchors ++ k.dropped.map (·.1)).flatMap fun a => pasFrom a 16) = false →
        (t.core job.owner).ctx.c = (s.core job.owner).ctx.c ∧ (t.core job.owner).ctx.x = (s.core job.owner).ctx.x))) ∧
  -- the reads of an attention request (R280, R282)
  (∀ (s : State) (job : Job) (k : AttnJob) (j : Nat), s.attnArg = some (job, k, j) → s.ledger = [] →
    let b := attnBlockOf k.block
    let d := headDim b.dcode
    let step := fun (i : Instr) => AttnStep i s job
    let reach := AttnReach s job k
    (s.Clean (segPas k.blk 0 128) → step .attnBlockRead fun k1 =>
      k1.block = (segPas k.blk 0 128).map s.mem.get ∧ (k.status ≠ 0 → k1.status = k.status)) ∧
    (∀ q om pj ti out tr, k.status = 0 → reach .r b.query (b.g * d * elemSize b.format) q → reach .r b.omega (4 * d) om →
      (if b.select then reach .r b.proj (256 * d) pj else pj = []) → (if b.tripleIn then reach .r b.triple (8 * b.g) ti else ti = []) →
      reach .w b.output (4 * b.g * d) out →
      (if b.tripleOut then reach .w b.triple (8 * b.g) tr else tr = []) →
      s.Clean (segsPas (q ++ om ++ pj ++ ti) ++ if b.tripleIn then segsPas out else []) →
      step .attnOperandRead fun k1 => k1.query = s.held q ∧ k1.omega = s.held om ∧ k1.proj = s.held pj ∧ k1.out = out ∧ k1.triple = tr ∧
        k1.rows = (List.range b.g).map fun r =>
          if b.tripleIn then ⟨f32At (s.held ti) (2 * r), f32At (s.held ti) (2 * r + 1),
            (List.range d).map fun e => f32At (s.held out) (r * d + e)⟩
          else ⟨fNegInf, 0, List.replicate d 0⟩) ∧
    (∀ segs, k.status = 0 → reach .r (b.table + BitVec.ofNat 64 (16 * j)) 16 segs → s.Clean (segsPas segs) →
      let e := kvOf (s.held segs)
      let named := e.valid = true ∧ e.tag = k.tag
      let fits := e.format = b.format ∧ e.dcode = b.dcode
      step .attnEntryRead fun k1 =>
        (named → fits → s.pageHome job.owner e = true → k1.ents = k.ents ++ [s.held segs] ∧ k1.status = 0) ∧
        (¬ named ∨ (fits ∧ s.pageHome job.owner e = false) → k1.status = 0x11 + j % 65536 * 256) ∧
        (named → ¬ fits → k1.status = 0x02 + j % 65536 * 256)) ∧
    (∀ segs, k.status = 0 → b.bitmapOn = true → reach .r b.bitmap ((k.tokens + 7) / 8) segs → s.Clean (segsPas segs) →
      step .attnBitmapRead fun k1 => k1.bitmap = s.held segs) ∧
    (let pas := pasFrom ((k.ent j).page + (k.ent j).image - 1024) 512
     k.status = 0 → s.Clean pas → step .attnSignatureRead fun k1 => k1.sigs = k.sigs ++ [pas.map s.mem.get]) ∧
    (let e := k.ent j
     let img := (pasFrom e.page e.image).map s.mem.get
     let whole := crc32c (img.take (e.image - 4)) = leNat (img.drop (e.image - 4))
     k.status = 0 → b.ne ≠ 0 → e.format = b.format → e.dcode = b.dcode → (∀ row ∈ k.rows, row.o.length = d) →
     s.Clean (pasFrom e.page e.image) →
     step .attnPageRead fun k1 =>
       (e.sealed_ = true → ¬ whole → k1.rows = k.rows ∧ k1.status = 0x21 + j % 65536 * 256) ∧
       (e.sealed_ = false ∨ whole → k1.status = 0 ∧ k1.rows.length = k.rows.length ∧ ∀ (r : Nat) (row : SoftRow), k.rows[r]? = some row →
         k1.rows[r]? = some (foldPage b k.omega img (turned b.format b.qpos (k.queryRow r) k.omega) (k.kept r) j row))) ∧
    (let value := fun (row : SoftRow) (v : F32) => if b.tripleOut then v else if (f32val row.s).isZero then 0 else fdiv v row.s
     let word := fun (t : State) (segs : List Seg) i => BitVec.ofNat 32 (leNat ((((segsPas segs).drop (4 * i)).take 4).map t.mem.get))
     let own := fun (pas others : List Nat) => pas.Nodup ∧ ∀ pa ∈ pas, pa ∉ others ∧ s.inMotion pa = false
     k.status = 0 → (∀ row ∈ k.rows, row.o.length = d) → (segsPas k.out).length = 4 * d * k.rows.length →
     own (segsPas k.out) (segsPas k.triple ++ segPas k.blk 0x7C 4) →
     ∃ t, exec .attnComplete s = .next t ∧
       (∀ (r e : Nat) (row : SoftRow), k.rows[r]? = some row → e < d → word t k.out (r * d + e) = value row (row.o.getD e 0)) ∧
       (b.tripleOut = true → (segsPas k.triple).length = 8 * k.rows.length → own (segsPas k.triple) (segPas k.blk 0x7C 4) →
         ∀ (r : Nat) (row : SoftRow), k.rows[r]? = some row → word t k.triple (2 * r) = row.m ∧ word t k.triple (2 * r + 1) = row.s))) ∧
  -- the arithmetic of R281
  (∀ (format pos q : Nat) (x : List F32) (omega : List Byte), q < x.length / 2 →
    let code := fun (v : F32) =>
      if format = 0 then fBF16.decode (fBF16.encode .rne (f32val v)) else fE4M3.decode (fE4M3.encode .rne (f32val v))
    let p := rotPair (x.getD (2 * q) 0) (x.getD (2 * q + 1) 0) pos (leNat ((omega.drop (8 * q)).take 8))
    (turned format pos x omega)[2 * q]? = some (code p.1) ∧ (turned format pos x omega)[2 * q + 1]? = some (code p.2)) ∧
  (∀ (k : AttnJob) (r : Nat) (t : Tok),
    let b := attnBlockOf k.block
    let allowed := fun (t : Tok) (i : Nat) => k.toks[i]? = some t ∧ (b.kind = 1 ∨ b.kind = 2 → t.pos ≤ b.qpos) ∧
      (b.kind = 2 → b.qpos - t.pos < b.window) ∧ (b.bitmapOn = true → ((k.bitmap.getD (i / 8) 0).getLsbD (i % 8)) = true)
    let far := fun (t : Tok) => hamming (signature (k.queryRow r) k.proj) (leNat (((k.sigs.getD t.j []).drop (8 * t.c)).take 8))
    (b.select = false → (t ∈ k.kept r ↔ ∃ i, allowed t i)) ∧
    (b.select = true → (k.kept r).length ≤ b.budget ∧ (t ∈ k.kept r → far t ≤ b.radius ∧ ∃ i, allowed t i) ∧
      (∀ i, allowed t i → far t ≤ b.radius → t ∉ k.kept r → (k.kept r).length = b.budget ∧ ∀ u ∈ k.kept r, far u ≤ far t))) ∧
  (∀ (b : AttnBlock) (omega img : List Byte) (q : List FVal) (kept : List Tok) (j : Nat) (row : SoftRow), q.length = headDim b.dcode →
    let d := headDim b.dcode
    let body := 128 * d * elemSize b.format
    let scale := fun o => if b.format = 0 then f32val fOne else f32val (s24 (leNat ((img.drop o).take 3)))
    let sq := if b.format = 0 then f32val fOne else f32val (s24 b.qscale)
    let slot := fun c => kept.find? fun t => t.j == j && t.c == c
    let dot := fun (key : List FVal) (sk : FVal) => (List.range (d / 32)).foldl (fun (x : F32) h =>
      fadd x (sumBlock ((List.range 32).map fun i => (q.getD (32 * h + i) .nan).mul (key.getD (32 * h + i) .nan)) sq sk)) 0
    let x := fun c => match slot c with
      | some t => dot (turned b.format t.pos ((List.range d).map fun e => rowElem b.format img (c * d + e)) omega) (scale (body + 512 + 3 * c))
      | none => fNegInf
    let mn := fmax row.m (reduce64 fmax fNegInf ((List.range 64).map x))
    let a := if mn = fNegInf ∨ feq row.m mn = true then fOne else exp2 (fsub row.m mn)
    let p := fun c => if mn = fNegInf ∨ slot c = none then 0 else exp2 (fsub (x c) mn)
    let pv := fun h e => sumBlock ((List.range 32).map fun i => (fBF16.decode (fBF16.encode .rne (f32val (p (32 * h + i))))).mul
      (f32val (rowElem b.format img ((64 + 32 * h + i) * d + e)))) (f32val fOne) (scale (body + 704))
    let next := foldPage b omega img q kept j row
    next.m = mn ∧ next.s = fadd (fmul row.s a) (reduce64 fadd fNegZero ((List.range 64).map p)) ∧ next.o.length = row.o.length ∧
      ∀ (e : Nat) (o : F32), row.o[e]? = some o → next.o[e]? = some (fadd (fadd (fmul o a) (pv 0 e)) (pv 1 e))) ∧
  -- the steps of a cast request before F (R286, R287, R290 to R293)
  (∀ (s : State) (job : Job) (k : CastJob), s.castArg = some (job, k) → s.ledger = [] →
    let tr := k.tree
    let find := ∃ hold, k.op = .find hold
    let put := ∃ hold, k.op = .put hold
    let leaves := fun (i : Instr) => CastLeaves i s job
    let sees := CastSees s job k
    let more := k.k + 1 < k.n / tr.g
    (∀ segs bs, sees (k.toks + BitVec.ofNat 64 (4 * tr.g * k.k)) (4 * tr.g) segs bs →
      let h := (List.range tr.g).foldl (fun h i =>
        (h * tagBase s.domain.boots tr.tag + leNat ((bs.drop (4 * i)).take 4)) % (2 ^ 61 - 1)) k.h
      leaves .castChunkStep .castProbeStep fun k1 => k1.chunk = bs ∧ k1.h = h ∧ k1.bucket = h % 2 ^ tr.nb ∧ k1.probes = 0 ∧ k1.free = none) ∧
    (∀ segs bs, sees (tr.bucketVa k.bucket) 4 segs bs →
      let w := leNat bs
      let free := k.free.orElse fun _ => some k.bucket
      let on := fun (f : Option Nat) (k1 : CastJob) => k1.bucket = (k.bucket + 1) % 2 ^ tr.nb ∧ k1.probes = k.probes + 1 ∧ k1.free = f ∧
        k1.h = k.h ∧ k1.parent = k.parent
      (w = 0 → put → leaves .castProbeStep .castAllocateStep fun k1 => k1.free = free ∧ k1.parent = k.parent) ∧
      (w = 0 → find → leaves .castProbeStep .castRequestFinish fun k1 => k1.best = k.best ∧ k1.status = k.status) ∧
      (w = 0xFFFFFFFF → k.probes + 1 ≠ 64 → leaves .castProbeStep .castProbeStep (on free)) ∧
      (∀ segs nb, w ≠ 0 → w ≠ 0xFFFFFFFF → sees (tr.nodeVa w) 64 segs nb →
        let nd := nodeOf nb
        let same := nd.valid = true ∧ nd.tag = tr.tag ∧ nd.key = k.h ∧ nd.parent = k.parent
        (same → leaves .castProbeStep .castConfirmStep fun k1 => k1.cand = w ∧ k1.parent = k.parent) ∧
        (¬ same → k.probes + 1 ≠ 64 → leaves .castProbeStep .castProbeStep (on k.free)) ∧
        (¬ same → k.probes + 1 = 64 → find → leaves .castProbeStep .castRequestFinish fun k1 => k1.best = k.best) ∧
        (¬ same → k.probes + 1 = 64 → put → k.free = none →
          leaves .castProbeStep .castRequestFinish fun k1 => k1.status = 0x22))) ∧
    (∀ segs bs, sees (tr.chunkVa k.cand) (4 * tr.g) segs bs →
      (bs ≠ k.chunk → k.probes + 1 ≠ 64 → leaves .castConfirmStep .castProbeStep fun k1 =>
        k1.eng.mismatch = min (k.eng.mismatch + 1) (2 ^ 32 - 1) ∧ k1.bucket = (k.bucket + 1) % 2 ^ tr.nb) ∧
      (∀ nsegs nb, bs = k.chunk → sees (tr.nodeVa k.cand) 64 nsegs nb →
        let on := fun (cast : Bool) (k1 : CastJob) => k1.parent = k.cand ∧ k1.path = k.path ++ [k.cand] ∧ k1.k = k.k + 1 ∧
          k1.best = (if cast then ((k.k + 1) * tr.g, k.cand) else k.best) ∧
          ((segsPas nsegs).Nodup → leNat ((((segsPas nsegs).map fun pa => (listGet? k1.overlay pa).getD 0).drop 0x18).take 8) =
            k.eng.clock % 2 ^ 64)
        (find → more → leaves .castConfirmStep .castChunkStep (on (nodeOf nb).cast)) ∧
        (find → ¬ more → leaves .castConfirmStep .castRequestFinish (on (nodeOf nb).cast)) ∧
        (put → more → leaves .castConfirmStep .castChunkStep (on true)))) ∧
    (let made := fun (w : Nat) (k1 : CastJob) => k1.parent = w ∧ k1.path = k.path ++ [w] ∧ k1.k = k.k + 1 ∧ k1.best = ((k.k + 1) * tr.g, w)
     put → more → k.parent = 0 →
     (∀ nsegs nb, k.eng.free ≠ 0 → sees (tr.nodeVa k.eng.free) 64 nsegs nb →
       leaves .castAllocateStep .castChunkStep fun k1 =>
         made k.eng.free k1 ∧ k1.eng.free = (nodeOf nb).next ∧ k1.eng.used = k.eng.used + 1) ∧
     (∀ segs, k.eng.free = 0 → k.eng.high < tr.nn → s.castRange job.owner k .r (tr.nodeVa (k.eng.high + 1)) 64 = .ok segs →
       s.Clean (segsPas segs) → leaves .castAllocateStep .castChunkStep fun k1 =>
         made (k.eng.high + 1) k1 ∧ k1.eng.high = k.eng.high + 1 ∧ k1.eng.used = k.eng.used + 1) ∧
     (∀ segs nb, sees (tr.nodeVa k.victim) 64 segs nb → (nodeOf nb).cast = false → (nodeOf nb).parent = 0 →
       leaves .castEvictStep .castChunkStep fun k1 =>
         made k.victim k1 ∧ k1.eng.evictions = (k.eng.evictions + 1) % 2 ^ 32 ∧ k1.dropped = k.dropped)) ∧
    (k.eng.free = 0 → tr.nn ≤ k.eng.high → castVictim s job { k with reads := [] } = none →
      leaves .castAllocateStep .castRequestFinish fun k1 => k1.status = 0x22) ∧
    (∀ hsegs hb segs bs, sees k.img 64 hsegs hb →
      let np := numAt hb 4 4
      let size := 64 + 16 * np + numAt hb 0x10 4
      let es := (List.range np).map fun j => kvOf ((bs.drop (64 + 16 * j)).take 16)
      let anchor := fun (e : KvEntry) => kvOf ((pasFrom e.anchorPa 16).map s.mem.get)
      (tr.maxp < np ∨ tr.cs < size → leaves .castDepositStep .castRequestFinish fun k1 => k1.status = 0x02 ∧ k1.deposit = k.deposit) ∧
      (np ≤ tr.maxp → size ≤ tr.cs → (∀ b ∈ hb.drop 0x14, b = 0) → sees k.img size segs bs →
        (∀ e ∈ es, e.valid = true ∧ e.anchor = false ∧ e.refs = 0 ∧ e.tag = k.tag ∧ s.pageHome job.owner e = true ∧
          s.Clean (pasFrom e.anchorPa 16) ∧ (anchor e).valid = true ∧ (anchor e).format = e.format ∧ (anchor e).dcode = e.dcode) →
        leaves .castDepositStep .castRequestFinish fun k1 =>
          k1.deposit = true ∧ k1.image = bs ∧ k1.anchors = es.map (·.anchorPa) ∧ k1.status = k.status))) ∧
  (∀ (s : State) (job : Job) (k : CastJob),
    let node := fun i => (castNode s job k i).toOption.map (·.1)
    let evictable := fun i nd => 1 ≤ i ∧ i ≤ k.eng.high ∧ node i = some nd ∧ nd.valid = true ∧ nd.children = 0 ∧ nd.refs = 0 ∧ i ∉ k.path
    (castVictim s job k = none → ∀ i nd, ¬ evictable i nd) ∧
    (∀ w, castVictim s job k = some w → ∃ nd, evictable w nd ∧
      ∀ i md, evictable i md → nd.last < md.last ∨ (nd.last = md.last ∧ w ≤ i))) ∧
  -- F (R290 to R294)
  (∀ (s : State) (job : Job) (k : CastJob) (va : Word) (a : Nat), s.castArg = some (job, k) → s.ledger = [] → k.hdr = some va →
    s.castRange job.owner k .r (va + 64) 64 = .ok [⟨0, 64, a⟩] →
    let res := if k.op = .rel then [] else segPas k.blk 0x30 12
    let fixed := pasFrom a 64 ++ res
    let apart := fun (pas others : List Nat) => pas.Nodup ∧ ∀ pa ∈ pas, pa ∉ fixed ++ others ∧ s.inMotion pa = false
    let bytes := fun (t : State) (pas : List Nat) => pas.map t.mem.get
    let plain := k.dropped = [] ∧ k.deposit = false ∧ k.anchors = []
    let quiet := ∀ hold, (k.op = .find hold ∨ k.op = .put hold) → hold = false
    -- the word of the result, and the counters
    let ends := fun (t : State) (st held : Nat) =>
      (res.Nodup → (∀ pa ∈ res, s.inMotion pa = false) → k.op ≠ .rel →
        leNat (bytes t (res.take 4)) = k.best.1 % 2 ^ 32 ∧ leNat (bytes t ((res.drop 4).take 4)) = k.best.2 % 2 ^ 32 ∧
        leNat (bytes t (res.drop 8)) = (st + (if k.found then 256 else 0) + 512 * held) % 2 ^ 32) ∧
      ((∀ pa ∈ pasFrom a 64, pa ∉ res ∧ s.inMotion pa = false) →
        t.mem.num (a + 0x10) 8 = (k.eng.clock + if k.good = true ∧ k.op ≠ .rel then 1 else 0) % 2 ^ 64 ∧
        t.mem.num (a + 0x20) 4 = (k.eng.lookups + if k.op = .find true ∨ k.op = .find false then 1 else 0) % 2 ^ 32 ∧
        t.mem.num (a + 0x28) 4 = (if st = 0x22 then min (k.eng.full + 1) (2 ^ 32 - 1) else k.eng.full % 2 ^ 32))
    (plain → quiet → ∃ t, exec .castRequestFinish s = .next t ∧ ends t k.status 0 ∧
      (∀ pa v, listGet? k.overlay pa = some v → pa ∉ fixed → s.inMotion pa = false → t.mem.get pa = v) ∧
      (∀ pa, listGet? k.overlay pa = none → pa ∉ fixed → t.mem.get pa = s.mem.get pa)) ∧
    (∀ segs nb, plain → ¬ quiet → k.status = 0 → k.best.2 ≠ 0 → CastSees s job k (k.tree.nodeVa k.best.2) 64 segs nb →
      apart (segsPas segs) [] → ∃ t, exec .castRequestFinish s = .next t ∧
        ((nodeOf nb).refs = 65535 → ends t 0x20 0) ∧
        ((nodeOf nb).refs ≠ 65535 → ends t 0 1 ∧ (nodeOf (bytes t (segsPas segs))).refs = (nodeOf nb).refs + 1)) ∧
    (∀ slot node, k.deposit = true → k.dropped = [] → quiet → k.status = 0 → (∀ x ∈ k.anchors, s.Clean (pasFrom x 16)) →
      s.castRange job.owner k .r (k.tree.slotVa k.parent) k.image.length = .ok slot →
      s.castRange job.owner k .r (k.tree.nodeVa k.parent) 64 = .ok node →
      let refs := fun (t : State) x => (kvOf (bytes t (pasFrom x 16))).refs
      ∃ t, exec .castRequestFinish s = .next t ∧
        ((∃ x ∈ k.anchors, 4095 < refs s x + k.anchors.count x) → ends t 0x20 0 ∧
          ∀ pa, listGet? k.overlay pa = none → pa ∉ fixed → t.mem.get pa = s.mem.get pa) ∧
        ((∀ x ∈ k.anchors, refs s x + k.anchors.count x ≤ 4095) → ends t 0 0 ∧
          (apart (segsPas slot) (segsPas node) → (segsPas slot).length = k.image.length → bytes t (segsPas slot) = k.image) ∧
          (apart (segsPas node) (segsPas slot) → (segsPas node).length = 64 → (nodeOf (bytes t (segsPas node))).cast = true) ∧
          ∀ x ∈ k.anchors, apart (pasFrom x 16) (k.overlay.map (·.1) ++ segsPas slot ++ segsPas node) →
            (∀ y ∈ k.anchors, y ≠ x → ∀ pa ∈ pasFrom y 16, pa ∉ pasFrom x 16) → refs t x = refs s x + k.anchors.count x)) ∧
    (∀ x page ring, k.dropped = [(x, page)] → k.deposit = false → k.anchors = [] → quiet → s.Clean (pasFrom x 16) →
      s.castRange job.owner k .r (k.tree.ring + BitVec.ofNat 64 (8 * (k.eng.ring % k.tree.ringN))) 8 = .ok ring →
      let an := kvOf (bytes s (pasFrom x 16))
      ∃ t, exec .castRequestFinish s = .next t ∧ ends t k.status 0 ∧
        (1 ≤ an.refs → apart (pasFrom x 16) (k.overlay.map (·.1) ++ segsPas ring) →
          (kvOf (bytes t (pasFrom x 16))).refs = an.refs - 1 ∧ (kvOf (bytes t (pasFrom x 16))).valid = (an.valid && an.refs != 1)) ∧
        (an.refs = 1 → apart (segsPas ring) (pasFrom x 16) → (segsPas ring).length = 8 → leNat (bytes t (segsPas ring)) = page % 2 ^ 64) ∧
        (an.refs = 1 → (∀ pa ∈ pasFrom a 64, pa ∉ res ∧ s.inMotion pa = false) →
          t.mem.num (a + 0x18) 4 = (k.eng.ring + 1) % 2 ^ 32)))

/-! ### The graph scheduler and pre-emption (R185 to R195, R325 to R333) -/

/-- The scheduler's steps take place: a dispatch serves the first thing due; a control node's word is read and, a cycle later, selects
a successor, a loop's counter first going down by 1; claims, replies and the go of a placement over several dies, whose tasks start
at its slot of the next frame; the error token; TSPAWN's status (R185 to R195). A drain's end stops the task, the save engine stores
beats of 128 bytes and the valid word, and the core is free; a restore reads the area back (R325 to R333). The model's choices in it:
control nodes are read as core 0 of their die, with write permission asked only where the counter is written (log entry 40), every core
of a card's set asks (log entry 96), a budget used up at the stop comes before the pre-emption (log entry 98), and a queue that a node
is to enter on another die is tested as well as the request's own (log entry 115). -/
def Obligations.SchedulingStepsPerform : Prop :=
  let wrote := fun (s t : State) (n : NodeRec) (state : Nat) => s.mem.wf = true → (∀ q ∈ pasFrom (n.pa + 64) 8, s.inMotion q = false) →
    t.mem.num (n.pa + 64) 8 = state + n.pending % 65536 * 65536
  ((∀ (s : State) (d : Dispatch), s.dispatch s.cur.die = some d → ∃ t, exec .nodeDispatch s = .next t ∧
      (∀ f, d = .fault f → f ∉ t.faultq ∧
        ∀ r h n, s.running? f.run = some r → r.fault = none → s.nodeRec r.ref = some (h, n) →
          ((∀ x ∈ r.left, x = f.core) ∨ ∃ q ∈ t.sched.running, q.id = f.run ∧ f.core ∉ q.left ∧ q.fault = some (f.cause, f.core)) ∧
          ∀ g ∈ t.sched.graphs, g.die = r.ref.die → g.va = r.ref.graph → g.frozen = true) ∧
      (∀ id c r, d = .ask id c → s.running? id = some r →
        (r.remaining = 0 → ∀ q ∈ t.sched.running, q.id = id → c ∉ q.left) ∧
        (∀ h n k, r.remaining ≠ 0 → s.frozen r.ref = false → s.nodeRec r.ref = some (h, n) → s.descAt r.ref.die n.a false = .ok k →
          let chunk := max 1 (r.remaining / (2 * (coreSet h n).length))
          let dealt := fun (delay : Nat) =>
            (∃ q ∈ t.sched.running, q.id = id ∧ q.next = r.next + chunk ∧ q.remaining = r.remaining - chunk ∧ c ∈ q.cores ∧ c ∉ q.ask) ∧
            ∃ p ∈ t.agenda, p.clk = .dom ∧ p.due = s.clock + delay ∧ p.owner = c ∧ p.ev = .taskLaunch ∧
              ∃ q, p.arg = .launch q ∧ q.ref = r.ref ∧ q.desc = k ∧ q.run = id ∧ q.a = r.next ∧ q.b = chunk
          (c ∈ r.cores → t.mem = s.mem ∧ dealt 16) ∧
          (∀ u, c ∉ r.cores → (s.schedFix r.ref.die n.a 64).loadImages r.ref.die k [c] = .ok u →
            t.mem = u.mem ∧ dealt ((64 * k.imagelen + 16 * k.mouldlen + 63) / 64) ∧
              ∃ p ∈ t.agenda, p.clk = .dom ∧ p.due = s.clock ∧ p.owner = c ∧ p.ev = .taskLaunch ∧ p.arg = .load r.ref.die k 0))) ∧
      (∀ e h n k u, d = .card e → s.nodeRec e.ref = some (h, n) → s.descAt e.ref.die n.a false = .ok k →
        s.loadImages e.ref.die k [] = .ok u →
        t = (((e.set.filter s.openCore).foldl (fun (v : State) c => v.serveAsk u.seq c) (u.beginCard e n)).doWork [.pull e.die])) ∧
      (∀ id c, d = .ask id c → t = s.serveAsk id c) ∧
      (∀ e h n, d = .coll e → s.nodeRec e.ref = some (h, n) → (∀ i < n.dies, ∃ g, s.nodeBlock (n.first + i) n.a = .ok g) →
        (∀ x ∈ s.sched.ready, x.die = e.die → x.queued = true) →
        let cores := (List.range n.dies).map fun i => (⟨n.first + i, 0⟩ : CoreId)
        t.sched.running = s.sched.running ++ [⟨e.ref, 7, s.seq, cores, cores, 0, none, 0, 0, []⟩] ∧
        (∀ x ∈ t.sched.ready, x.ref ≠ e.ref) ∧ wrote s t n 2 ∧
        ∀ c ∈ cores, ∃ j ∈ t.jobs, ∃ k, j.owner = c ∧ j.body = .coll k ∧ k.die = c.die ∧ k.va = BitVec.ofNat 64 n.a ∧ k.node = some e.ref ∧
          ∃ p ∈ t.agenda, p.clk = .dom ∧ p.due = s.clock + s.flat ∧ p.owner = c ∧ p.ev = .collBlockRead ∧ p.arg = .beat j.id 0 true)) ∧
  (∀ (s : State) (e : ReadyNode) (n : NodeRec), (s.beginCard e n).sched.running =
      s.sched.running ++ [⟨e.ref, 2, s.seq, [], e.set, 0, none, 0, n.b % 2 ^ 32, e.set⟩] ∧
    (∀ x ∈ (s.beginCard e n).sched.ready, x.ref ≠ e.ref) ∧ (e.die, s.clock) ∈ (s.beginCard e n).sched.carded ∧
    wrote s (s.beginCard e n) n 2) ∧
  (∀ (s : State) (r : NodeRef) (h : Header) (n : NodeRec), s.MemOk → s.nodeRec r = some (h, n) →
    (s.arg = .node r none → n.a % 8 ≠ 0 → ∃ t, exec .controlNodeEvaluate s = .next t ∧ t.cores = s.cores ∧ t.mem = s.mem ∧
      ∃ p ∈ t.agenda, p.clk = .dom ∧ p.due = s.clock + 1 ∧ p.ev = .controlNodeEvaluate ∧ p.arg = .node r (some (0x13, 0))) ∧
    (∀ bs, s.arg = .node r none → n.a % 8 = 0 → s.schedRead r.die n.a 8 = .ok bs →
      ∃ t, exec .controlNodeEvaluate s = .next t ∧ (s.soft = [] → t.cores = s.cores) ∧
        (n.kind ≠ 4 ∨ leNat bs = 0 → t.mem = s.mem ∧
          ∃ p ∈ t.agenda, p.clk = .dom ∧ p.due = s.clock + 1 ∧ p.ev = .controlNodeEvaluate ∧ p.arg = .node r (some (0, leNat bs))) ∧
        (∀ pa, n.kind = 4 → leNat bs ≠ 0 → s.schedPa r.die true n.a = .ok pa → (∀ q ∈ pasFrom pa 8, s.inMotion q = false) →
          leNat ((pasFrom pa 8).map t.mem.get) = (leNat bs - 1) % 2 ^ 64 ∧ (∀ q, q ∉ pasFrom pa 8 → t.mem.get q = s.mem.get q) ∧
          ∃ p ∈ t.agenda, p.clk = .dom ∧ p.due = s.clock + 1 ∧ p.ev = .controlNodeEvaluate ∧ p.arg = .node r (some (0, leNat bs))) ∧
        (∀ e, n.kind = 4 → leNat bs ≠ 0 → s.schedPa r.die true n.a = .error e → t.mem = s.mem ∧
          ∃ p ∈ t.agenda, p.clk = .dom ∧ p.due = s.clock + 1 ∧ p.ev = .controlNodeEvaluate ∧ p.arg = .node r (some (e, 0)))) ∧
    (∀ cause w, s.arg = .node r (some (cause, w)) →
      (cause ≠ 0 → exec .controlNodeEvaluate s = .next (s.doWork [.faulted r ⟨cause, none, 0⟩])) ∧
      (cause = 0 → n.kind = 3 →
        exec .controlNodeEvaluate s = .next (s.doWork [.done r w (some (if w ≠ 0 then 0 else 1))])) ∧
      (cause = 0 → n.kind = 4 → w = 0 → exec .controlNodeEvaluate s = .next (s.doWork [.done r w (some 1)])) ∧
      (cause = 0 → n.kind = 4 → w ≠ 0 →
        let u := s.rearmBody r (n.b % 2 ^ 16) (n.b / 2 ^ 16 % 2 ^ 16)
        exec .controlNodeEvaluate s =
          .next (if u.frozen r then u else u.doWork ((n.succ.take 1).map fun i => .release { r with node := i } r.node true))) ∧
      (cause = 0 → n.kind = 5 →
        exec .controlNodeEvaluate s = .next (s.doWork [.done r w (some (min w (n.nsucc - 1)))])))) ∧
  (∀ (s : State) (e : ReadyNode), s.claimDue s.cur.die = some e →
    ∃ t, exec .placementClaim s = .next t ∧ t.mem = s.mem ∧ t.cores = s.cores ∧
      (∃ k ∈ t.sched.claims, k.id = s.seq ∧ k.ref = e.ref ∧ k.votes = [] ∧ k.held = []) ∧
      (∀ x ∈ t.sched.ready, x.ref = e.ref → x.claim = some s.seq)) ∧
  (∀ (s : State) (id v : Nat) (k : Claim), s.arg = .ids id v → s.sched.claims.find? (fun k => k.id == id) = some k →
    (∃ t, exec .placementReply s = .next t ∧ t.mem = s.mem ∧ t.cores = s.cores ∧
      (∃ q ∈ t.sched.claims, q.id = id ∧ q.ref = k.ref ∧ q.votes = k.votes ++ [(v / 2, v % 2 == 1)]) ∧
      (∀ e, s.sched.ready.find? (fun e => e.ref == k.ref) = some e →
        (∀ d ∈ diesOf e.set, d = v / 2 ∨ ∃ w ∈ k.votes, w.1 = d) →
        ∃ p ∈ t.agenda, p.clk = .dom ∧ p.due = s.clock + 1 ∧ p.ev = .placementGo ∧ p.arg = .ids id 0)) ∧
    (∃ t, exec .placementGo s = .next t ∧
      (∀ e, s.sched.ready.find? (fun e => e.ref == k.ref) = some e →
        (k.votes.all (·.2) = false → t.mem = s.mem ∧ t.cores = s.cores ∧ (∀ q ∈ t.sched.claims, q.id ≠ id) ∧
          ∀ x ∈ t.sched.ready, x.ref = e.ref → x.claim = none) ∧
        (s.frozen e.ref = false → (diesOf e.set).all s.aligned = false ∨ s.slotsTaken e.ref = true → t.mem = s.mem ∧ t.cores = s.cores ∧
          ∀ x ∈ t.sched.ready, x.ref = e.ref → x.claim = none ∧ x.reserved = true) ∧
        (∀ h n d u, k.votes.all (·.2) = true → s.frozen e.ref = false → (diesOf e.set).all s.aligned = true →
          s.slotsTaken e.ref = false → s.nodeRec e.ref = some (h, n) →
          s.descAt e.ref.die n.a true = .ok d →
          (s.modSched fun q => { q with claims := q.claims.filter fun x => x.id != id }).loadImages e.ref.die d e.set = .ok u →
          (∀ i c, e.set[i]? = some c → ∃ p ∈ t.agenda, p.clk = .dom ∧ p.owner = c ∧ p.due = startCycle s.clock d.slot ∧ p.ev = .taskLaunch ∧
            ∃ q, p.arg = .launch q ∧ q.ref = e.ref ∧ q.desc = d ∧ q.a = i ∧ q.b = e.set.length ∧ q.group = q.run) ∧
          (∀ c ∈ e.set, ∃ p ∈ t.agenda, p.clk = .dom ∧ p.owner = c ∧ p.due = s.clock ∧ p.ev = .taskLaunch ∧ p.arg = .load e.ref.die d 0) ∧
          ((∀ x ∈ s.sched.ready, x.die = e.die → x.queued = true) →
            (∃ q ∈ t.sched.running, q.ref = e.ref ∧ q.kind = 1 ∧ q.cores = e.set ∧ q.left = e.set ∧ q.fault = none ∧
              (q.id, s.slotsFor e.ref) ∈ t.sched.slots) ∧
            (∀ x ∈ t.sched.ready, x.ref ≠ e.ref) ∧ wrote u t n 2))))) ∧
  (∀ (s : State) (r : NodeRef) (x : Option (Nat × Nat)) (k : ErrToken), s.arg = .node r x →
    s.sched.tokens.find? (fun t => t.die == r.die && t.graph == r.graph) = some k →
    let node := fun (i : Nat) => (⟨k.die, k.graph, i⟩ : NodeRef)
    let passed := fun (i : Nat) => ∀ h n, s.nodeRec (node i) = some (h, n) → h.count ≤ i ∨ 2 ≤ n.state
    ∃ t, exec .errorTokenStep s = .next t ∧
      ((∀ i ∈ k.front, passed i) → t.mem = s.mem ∧ t.cores = s.cores ∧ k ∉ t.sched.tokens) ∧
      (∀ pre i rest h n, k.front = pre ++ i :: rest → (∀ j ∈ pre, passed j) → s.nodeRec (node i) = some (h, n) → i < h.count → n.state ≤ 1 →
        (∀ x ∈ s.sched.ready, x.queued = true) →
        wrote s t n 5 ∧ (∀ x ∈ t.sched.ready, x.ref ≠ node i) ∧ (∀ x ∈ t.sched.claims, x.ref ≠ node i) ∧
        (rest ++ n.succ ≠ [] → ⟨k.die, k.graph, rest ++ n.succ⟩ ∈ t.sched.tokens ∧
          ∃ p ∈ t.agenda, p.clk = .dom ∧ p.due = s.clock + 1 ∧ p.ev = .errorTokenStep ∧ p.arg = .node r none))) ∧
  (∀ (s : State) (node : Bool) (va i tag fn : Nat), s.arg = .spawn node va i tag fn →
    let u := (s.spawnsBefore s.cur.die s.ord).foldl (fun t q => t.spawnFirst q) s
    let p := if node then u.spawnNode ⟨s.cur.die, va, i⟩ tag fn else u.spawnGraph s.cur.die va tag fn
    p.1 ≤ 4 ∧ exec .tspawnApply s = .next (p.2.modCore s.cur fun c => c.modCtx fun x => { x with c := x.c.land (BitVec.ofNat 64 p.1) none }) ∧
    (u.header s.cur.die va = none → p = (3, u)) ∧
    (∀ h, u.header s.cur.die va = some h →
      (1024 ≤ u.queueLen s.cur.die → node = false ∨ i < h.count → p = (2, u)) ∧
      (node = true → h.count ≤ i → p = (3, u)) ∧
      (∀ x, node = true → i < h.count → u.queueLen s.cur.die < 1024 → u.nodeRec ⟨s.cur.die, va, i⟩ = some x →
        (1024 ≤ u.queueLen (x.2.queue s.cur.die) → p = (2, u)) ∧
        (u.queueLen (x.2.queue s.cur.die) < 1024 → p.1 = if u.frozen ⟨s.cur.die, va, i⟩ then 1 else 0)) ∧
      (node = false → u.queueFull s.cur.die (u.nodesWhere s.cur.die va h fun n => n.npred == 0) = false →
        (u.nodesWhere s.cur.die va h (fun n => n.state == 1 || n.state == 2) = [] → p.1 = 0) ∧
        (u.nodesWhere s.cur.die va h (fun n => n.state == 1 || n.state == 2) ≠ [] → p = (4, u))))) ∧
  (∀ (s : State) (die ord : Nat),
    (∀ q, q ∈ s.spawnsBefore die ord ↔ q ∈ s.agenda ∧ q.ev = .tspawnApply ∧ q.owner.die = die ∧ q.ord < ord ∧ s.isDue q = true) ∧
    (s.spawnsBefore die ord).Pairwise (fun a b => a.ord ≤ b.ord) ∧
    (∀ rs, s.queueFull die rs = true ↔ 1024 ≤ s.queueLen die ∨
      ∃ r ∈ rs, ∃ x, s.nodeRec r = some x ∧ 1024 ≤ s.queueLen (x.2.queue r.die)) ∧
    ∀ (q : Pending) (node : Bool) (va i tag fn : Nat), q.arg = .spawn node va i tag fn →
      let p := if node then s.spawnNode ⟨q.owner.die, va, i⟩ tag fn else s.spawnGraph q.owner.die va tag fn
      (s.spawnFirst q).mem = p.2.mem ∧ (s.spawnFirst q).sched = p.2.sched ∧
        (q ∈ p.2.agenda → { q with ev := .resultLanding, arg := .landing (.cval (BitVec.ofNat 64 p.1) none) } ∈ (s.spawnFirst q).agenda))) ∧
  ((∀ (s : State) (k : Drain), s.me.ctx.drain = some k → s.me.tauStands = false →
    (k.ended = false → s.drainOver s.cur = true → (∀ x, s.arg ≠ .ids 1 x) →
      ∃ t, exec .preemptStop s = .next t ∧ t.mem = s.mem ∧
        ∃ p ∈ t.agenda, p.clk = .tau s.cur ∧ p.due = s.me.ctx.tau + 1 ∧ p.owner = s.cur ∧ p.ev = .preemptStop) ∧
    (∀ x, k.ended = true → s.arg = .ids 1 x →
      let n := (s.saveArea s.cur { k with clock := s.clock % 2 ^ 63, lag := s.me.ctx.lag }).2
      (s.me.overBudget = true → ∃ u : State, u.mem = s.mem ∧ exec .preemptStop s = .next (u.takeTrap s.cur .deadline
        (BitVec.ofNat 64 ((s.me.task.map (·.budget)).getD 0 % 2 ^ 32)) (s.afterItem s.cur s.me))) ∧
      (s.me.overBudget = false →
        ∃ t, exec .preemptStop s = .next t ∧ t.mem = s.mem ∧
          (t.core s.cur).ctx.sys.tcause = tcauseWord .preempt s.me.inHandler false ∧
          (t.core s.cur).ctx.sys.trapline = posWord (s.afterItem s.cur s.me) ∧
          ((t.core s.cur).ctx.trapped = some (.saving 0 n) ∧ (t.core s.cur).ctx.sys.tinfo = BitVec.ofNat 64 n ∧
              (∃ p ∈ t.agenda, p.owner = s.cur ∧ p.due = s.clock ∧ p.ev = .saveBeat ∧ p.arg = .beat 0 0 true) ∨
            (∃ q ∈ s.me.ctx.chan.toList, q.isEmpty = false) ∧ (t.core s.cur).ctx.trapped = none ∧ (t.core s.cur).ctx.drain = none ∧
              (t.core s.cur).ctx.sys.preemptOutcome = 4)))) ∧
  (∀ (s : State) (k : Drain) (n : Nat), s.me.ctx.drain = some k → s.me.ctx.trapped = some (.saving 0 n) →
    (∀ a j, s.arg = .beat a j false → ∃ t, exec .saveBeat s = .next t ∧ t.mem = s.mem ∧
      (t.core s.cur).ctx.trapped = none ∧ (t.core s.cur).ctx.drain = none) ∧
    (∀ a j, s.arg = .beat a j true →
      (s.me.ctx.sys.savelen.toNat ≤ 128 * j → ∃ t, exec .saveBeat s = .next t ∧ t.mem = s.mem ∧
        (t.core s.cur).ctx.sys.preemptOutcome = 3) ∧
      (128 * j < s.me.ctx.sys.savelen.toNat → s.beatSegs s.cur j (min 128 (n - 128 * j)) = none →
        ∃ t, exec .saveBeat s = .next t ∧ t.mem = s.mem ∧ (t.core s.cur).ctx.sys.preemptOutcome = 2) ∧
      (∀ segs, 128 * j < s.me.ctx.sys.savelen.toNat → s.beatSegs s.cur j (min 128 (n - 128 * j)) = some segs →
        ∃ t, exec .saveBeat s = .next t ∧ t.mem = s.mem ∧ t.cores = s.cores ∧
          (∃ p ∈ t.agenda, ∃ bs els, p.due = s.clock + s.segLat s.cur s.me.ctx.sys.saveCls segs ∧ p.owner = s.cur ∧
            p.ev = .accessPerform ∧ p.arg = .access ⟨.st bs, els, s.me.posOf .c, none⟩ ∧ bs.length = min 128 (n - 128 * j)) ∧
          (128 * (j + 1) < n → ∃ p ∈ t.agenda, p.due = s.clock + 1 ∧ p.ev = .saveBeat ∧ p.arg = .beat 0 (j + 1) true) ∧
          (n ≤ 128 * (j + 1) → ∃ p ∈ t.agenda, p.due = s.clock + 1 + s.segLat s.cur s.me.ctx.sys.saveCls segs ∧ p.ev = .saveComplete))) ∧
    (∀ a j segs, s.arg = .beat a j true → s.beatSegs s.cur 0 4 = some segs →
      ∃ t, exec .saveComplete s = .next t ∧ (t.core s.cur).ctx.sys.preemptOutcome = 1 ∧ (t.core s.cur).ctx.sys.preemptSize = n ∧
        ∀ pa, pa ∉ segsPas segs → t.mem.get pa = s.mem.get pa) ∧
    (∀ a j k, s.arg = .beat a j false → s.me.task = some k →
      ∃ t, exec .saveComplete s = .next t ∧ t.mem = s.mem ∧ (t.core s.cur).task = none ∧
        ∃ e ∈ t.sched.suspended, e.core = s.cur ∧ e.task = k ∧ e.base = s.me.ctx.sys.savebase ∧ e.size = n)) ∧
  (∀ (s : State) (e : Suspended),
    (∀ d u, (∀ a b bs, s.arg ≠ .bytes a b bs) → s.restorable s.cur = some e → s.descAt e.task.ref.die e.task.desc.toNat false = .ok d →
      (s.clearPad s.cur).loadImages e.task.ref.die d [s.cur] = .ok u →
      ∃ t, exec .taskRestore s = .next t ∧ t.cores = s.cores ∧
        (∀ pa, ¬ (paSpace pa = 1 ∧ paCore pa = s.cur) → t.mem.get pa = s.mem.get pa) ∧
        (∀ pa, paSpace pa = 1 → paCore pa = s.cur → t.mem.get pa = 0) ∧
        (∃ p ∈ t.agenda, p.clk = .dom ∧ p.due = s.clock ∧ p.owner = s.cur ∧ p.ev = .taskLaunch ∧ p.arg = .load e.task.ref.die d 0) ∧
        ∃ p ∈ t.agenda, p.clk = .dom ∧ p.due = s.clock + ((d.parts.map fun p => p.2.2).sum + 63) / 64 ∧ p.owner = s.cur ∧
          p.ev = .taskRestore ∧ p.arg = .bytes 0 0 []) ∧
    (∀ a b bs d, s.arg = .bytes a b bs → s.sched.suspended.find? (fun e => e.core == s.cur) = some e →
      s.descAt e.task.ref.die e.task.desc.toNat false = .ok d →
      (∀ pas, bs.length < e.size → s.areaPas e bs.length = .ok pas → s.poisoned pas = false →
        (bs = [] → numAt (pas.map s.byteAt) 0 4 % 2 = 0 → ∃ t, exec .taskRestore s = .next t ∧ t.mem = s.mem ∧
          ⟨e.core, 0x3A, e.task.run⟩ ∈ t.faultq ∧ e ∉ t.sched.suspended ∧ (t.core s.cur).ctx.sys.tcause = 0x3A ∧
          (t.core s.cur).ctx.sys.tinfo = BitVec.ofNat 64 (2 ^ 32)) ∧
        (bs ≠ [] ∨ numAt (pas.map s.byteAt) 0 4 % 2 = 1 → ∃ t, exec .taskRestore s = .next t ∧ t.mem = s.mem ∧
          ∃ p ∈ t.agenda, p.clk = .dom ∧ p.due = s.clock + 1 ∧ p.owner = s.cur ∧ p.ev = .taskRestore ∧
            p.arg = .bytes 0 0 (bs ++ pas.map s.byteAt))) ∧
      (e.size ≤ bs.length →
        ∃ t, exec .taskRestore s = .next t ∧ e ∉ t.sched.suspended ∧ (t.core s.cur).task = some e.task ∧
          (t.core s.cur).ctx.tau = numAt bs 0x100 8 ∧ (t.core s.cur).ctx.lag = s.clock - (numAt bs 8 8 - numAt bs 0x108 8) ∧
          (t.core s.cur).ctx.sys.tvec = BitVec.ofNat 64 (numAt bs 0x118 8) ∧ (t.core s.cur).ctx.x.defq.length = numAt bs 0x2A0 8 ∧
          (t.core s.cur).ctx.trapped = none))))


/-! ### The frieze (R338 to R357) -/

/-- A slot boundary switches a port's tags and places, counts the rotation at the counting rank, builds the map by the table of R347
and starts the next slot and the map's publication 16 cycles later; a beat is read 64 cycles before it lands in its place, with the
header on beat 0; a PDONE changes its row by the table of R350, is PANEL_MISS for .adv on a parked row, and PROTECTION for any other
pairing; the loss of a die ends its tasks (the model's choice, log entry 62: R353 does not say it), and the bypass makes the die
downstream the repair die, unless a die of its module is bypassed already (then the ring is cut: the model's choice, log entry 119;
R338 to R354). -/
def Obligations.FriezeStepsPerform : Prop :=
  let holds := fun (t : Word) (n : Nat) => t.toNat / 2 ^ 28 % 16 == 0 && t.toNat / 2 ^ 32 % 65536 == n
  (∀ (s : State) (g : Ring) (t : Nat), s.laneArg = some (g, t) →
    (s.actingPort g = none → exec .slotBoundary s = .next s ∧ exec .mapPublish s = .next s ∧ exec .panelBeatSend s = .next s ∧
      exec .panelBeatLand s = .next s) ∧
    (∀ p, s.actingPort g = some p →
      let k : Int := (t / 2048 : Nat)
      let land := g.placeOf (k + 1)
      let at_ := fun (x i n : Nat) => pasFrom (s.placePa p.die g.lane x i (32 * (n % 2048))) 32
      let mine := fun (q : Port) => q.die = p.die ∧ q.lane = p.lane
      (∃ u, exec .slotBoundary s = .next u ∧
        (∃ e ∈ u.agenda, e.clk = .port s.cur.die g.lane ∧ e.due = t + 16 ∧ e.owner = s.cur ∧ e.ev = .mapPublish) ∧
        (∃ e ∈ u.agenda, e.clk = .port s.cur.die g.lane ∧ e.due = t + 2048 ∧ e.owner = s.cur ∧ e.ev = .slotBoundary) ∧
        (p.state ≤ 2 → u.mem = s.mem ∧ u.cores = s.cores) ∧
        (∀ q ∈ s.ports, q.ring ≠ g.id → ¬ mine q → q ∈ u.ports) ∧
        ∀ q ∈ u.ports, mine q →
          q.curPlace = g.placeOf k ∧ q.retPlace = g.placeOf (k - 1) ∧
          q.cur = BitVec.ofNat 64 (headTag (q.header q.curPlace)) ∧ q.ret = BitVec.ofNat 64 (headTag (q.header q.retPlace)) ∧
          (p.state ≤ 2 → g.holes = [] → s.ports.filter (fun q => q.die == p.die && q.lane == p.lane) = [p] →
            let tag := headTag (p.header (g.placeOf k))
            let prim := fun (i : Fin 64) => p.rows[i].state != 0 && holds q.cur p.rows[i].n
            let late := fun (i : Fin 64) => p.rows[i].state == 1 && !holds q.cur p.rows[i].n && p.rows[i].mark != 2 && holds q.ret p.rows[i].n
            let park := fun (i : Fin 64) => p.rows[i].state == 1 && !holds q.cur p.rows[i].n && p.rows[i].mark == 2
            let before := fun (c : Fin 64 → Bool) (i : Fin 64) => ((List.finRange 64).filter fun j => decide (j < i) && c j).length
            let number := fun (c : Fin 64 → Bool) => ((List.finRange 64).filter c).length
            let word := fun (i : Fin 64) (tag : Word) =>
              i.val + 2 ^ 6 * (p.rows[i].addr.toNat / 64 % 2 ^ 42) + 2 ^ 48 * (tag.toNat / 2 ^ 32 % 65536)
            headTag (q.header q.curPlace) / 2 ^ 28 = tag / 2 ^ 28 ∧
            headTag (q.header q.curPlace) % 2 ^ 28 = (if p.rank = g.counter then tag + 1 else tag) % 2 ^ 28 ∧
            (∀ i : Fin 64, q.rows[i] = if prim i then { p.rows[i] with state := 1, mark := 1 }
              else if late i then { p.rows[i] with mark := 2 }
              else if park i then { p.rows[i] with state := 2, mark := 0, parks := min (p.rows[i].parks + 1) 65535 }
              else { p.rows[i] with mark := 0 }) ∧
            (∀ pos i w, (pos, i, w) ∈ q.built ↔ ∃ r : Fin 64, r.val = i ∧
              ((prim r = true ∧ pos = before prim r ∧ pos < 56 ∧ w = word r q.cur) ∨
                (late r = true ∧ pos = 56 + before late r ∧ before late r < 8 ∧ w = word r q.ret))) ∧
            q.parked = min (p.parked + number park) 65535 ∧
            q.leftOut = min (p.leftOut + (number prim - 56) + (number late - 8)) 65535 ∧ q.map = p.map)) ∧
      (∃ u, exec .mapPublish s = .next u ∧ u.cores = s.cores ∧ u.mem = s.mem ∧
        (∀ q ∈ u.ports, mine q → q.carries = true → q.map = q.built) ∧ ∀ q ∈ s.ports, ¬ mine q → q ∈ u.ports) ∧
      (∀ r m, g.nextFrom p.rank = some (r, m) →
        ∃ u h bs, exec .panelBeatSend s = .next u ∧ (s.soft = [] → u.cores = s.cores) ∧ (m = 0 → u.mem = s.mem) ∧
          u.ring? g.id = some h ∧ h.beats = g.beats ++ [(r, t + 64 + 2048 * g.q * m, bs)] ∧
          (let x := g.placeOf (((t + 64) / 2048 : Nat) + 1 : Int)
           (∀ i < 96, s.Clean (at_ x i (t + 64))) → bs =
             (if (t + 64) % 2048 = 0 then p.header x else []) ++ (List.range 96).flatMap fun i => (at_ x i (t + 64)).map s.mem.get) ∧
          (∃ e ∈ u.agenda, e.clk = .port (g.dieOf r) g.lane ∧ e.due = t + 64 + 2048 * g.q * m ∧ e.owner = portId (g.dieOf r) ∧
            e.ev = .panelBeatLand) ∧
          ∃ e ∈ u.agenda, e.clk = .port s.cur.die g.lane ∧ e.due = t + 1 ∧ e.owner = s.cur ∧ e.ev = .panelBeatSend) ∧
      (∀ b bs, s.MemOk → g.beats.find? (fun b => b.1 == p.rank && b.2.1 == t) = some (b, t, bs) → p.accs = [] →
        (∀ i < 96, ∀ pa ∈ at_ land i t, s.inMotion pa = false) →
        let head := if t % 2048 = 0 then bs.take 256 else p.header land
        let body := if t % 2048 = 0 then bs.drop 256 else bs
        ∃ u, exec .panelBeatLand s = .next u ∧ u.cores = s.cores ∧
          (tagKind (headTag head) = 4 → u.mem = s.mem) ∧
          (tagKind (headTag head) ≠ 4 → body.length = 3072 → ∀ i k, i < 96 → k < 32 →
            u.mem.get (s.placePa p.die g.lane land i (32 * (t % 2048)) + k) = body[32 * i + k]!) ∧
          (t % 2048 = 0 → ∃ q ∈ u.ports, mine q ∧ q.header land = head ∧ q.leaving = headTag (p.header land))))) ∧
  (∀ (s : State) (r : PdoneReq), s.arg = .pdone r → r.told = false → r.row < 64 →
    let info := fun (row : FzRow) => BitVec.ofNat 64 (r.row + (match r.lane with | .e => 0 | .w => 2 ^ 6) + 2 ^ 8 * (row.state % 4) +
      2 ^ 16 * (row.n % 2 ^ 16) + 2 ^ 32 * r.n.toNat)
    let faults := fun (cause : Cause) (row : FzRow) => exec .pdoneApply s = .next (s.takeTrap s.cur cause (info row) r.pos)
    (s.holds = [] → s.pdoneView s.cur r.lane = s.port? s.cur.die r.lane) ∧
    (s.port? s.cur.die r.lane = none → faults .protection FzRow.zero) ∧
    (∀ p, s.pdoneView s.cur r.lane = some p →
      let row := p.rows.toArray.getD r.row FzRow.zero
      let takes := fun (v : FzRow) => s.holds = [] → ∃ u, exec .pdoneApply s = .next u ∧ u.mem = s.mem ∧ u.cores = s.cores ∧ u.rings = s.rings ∧
        ∃ q ∈ u.ports, q.die = p.die ∧ q.lane = p.lane ∧ q.map = p.map ∧ q.rows.toArray.getD r.row FzRow.zero = v ∧
          ∀ i : Fin 64, i.val ≠ r.row → q.rows[i] = p.rows[i]
      (p.carries = false ∨ p.ring ≠ r.formed → faults .protection row) ∧
      (p.carries = true → p.ring = r.formed → match r.op, row.state with
        | .adv, 1 => takes { row with n := r.n.toNat, mark := 0 }
        | .adv, 2 => faults .panelMiss row
        | .admitRow, 0 => takes ⟨1, 0, r.n.toNat, 0, r.addr⟩
        | .free, 1 => takes { row with state := 0, mark := 0 }
        | .free, 2 => takes { row with state := 0, mark := 0 }
        | .adv, 0 => faults .protection row
        | .admitRow, 1 => faults .protection row
        | .admitRow, 2 => faults .protection row
        | .free, 0 => faults .protection row
        | _, _ => True))) ∧
  (∀ (s : State) (n h : Nat), s.arg = .ids n h →
    (n = 0 → s.cur.die ∉ s.domain.off → ∃ u, exec .dieLoss s = .next u ∧ u.mem = s.mem ∧ s.cur.die ∈ u.domain.off ∧
      ∀ e ∈ s.cores, e.1.die = s.cur.die → (u.core e.1).task = none) ∧
    (n ≠ 0 → ∃ u, exec .dieLoss s = .next u ∧
      (∃ p ∈ u.agenda, p.due = u.clock ∧ p.owner = s.cur ∧ p.ev = .releaseStart ∧ p.arg = .ids h 0) ∧
      (∀ g p r m, (s.ringsOf s.cur.die).find? (fun e => e.1.id == n - 1) = some (g, p) → g.nextFrom p.rank = some (r, m) → r ≠ p.rank →
        s.ring? g.id = some g → (∃ i ∈ g.lost, g.dieOf i / 8 = p.die / 8) →
        (∃ k, u.ring? g.id = some k ∧ k.lost = g.lost ∧ k.repair = g.repair ∧ k.dies = g.dies) ∧
        (∀ q ∈ u.ports, q.die ≠ p.die ∨ q.lane ≠ p.lane) ∧ ∀ q ∈ u.ports, q.ring = g.id → q.state = 4) ∧
      ∀ g p r m, (s.ringsOf s.cur.die).find? (fun e => e.1.id == n - 1) = some (g, p) → g.nextFrom p.rank = some (r, m) → r ≠ p.rank →
        s.ring? g.id = some g → (∀ i ∈ g.lost, g.dieOf i / 8 ≠ p.die / 8) →
        (∃ k, u.ring? g.id = some k ∧ p.rank ∈ k.lost ∧ k.dies = g.dies ∧ k.repair.isSome = true) ∧
        (∀ q ∈ u.ports, q.die ≠ p.die ∨ q.lane ≠ p.lane) ∧
        (∀ q ∈ u.ports, q.ring = g.id → q.state = 3 ∨ q.state = 4) ∧
        ∀ q ∈ u.ports, q.die = g.dieOf r → q.lane = g.lane → q.repair = true))


/-! ### The fabric and the collectives (R358 to R380) -/

/-- Flits, their retries and the holds of data that is late and of drift (R358 to R364); that flit i of a slack slot arrives 64 + i cycles
after the slot's start is the model's choice (log entry 66). The steps of a collective: a member starts, its source beats are read, its
destination beats and its status are written and nothing else; that a destination beat takes the source bytes that no beat has read yet
from memory is the model's reading (log entry 64). Chunks are counted up by TCINC and down by their release (R369 to R380). -/
def Obligations.FabricAndCollectivesPerform : Prop :=
  ((∀ (s : State) (f : Flit), s.arg = .flit f →
    (f.good = true → s.retrying f = none → exec .flitArrival s = .next s) ∧
    (∀ g, f.good = true → s.retrying f = some g → ∃ t, exec .flitArrival s = .next t ∧ t.mem = s.mem ∧ t.cores = s.cores ∧
      (∀ e ∈ t.domain.retries, f.same e = false) ∧
      ∀ h, g.hold = some h → ∃ p ∈ t.agenda, p.clk = .dom ∧ p.due = s.clock + 1 ∧ p.ev = .releaseStart ∧ p.arg = .ids h 0) ∧
    (f.good = false → ∃ t, exec .flitArrival s = .next t ∧ t.mem = s.mem ∧ t.cores = s.cores ∧
      (s.retrying f = none → { f with hold := none } ∈ t.domain.retries ∧
        ∃ p ∈ t.agenda, p.clk = .dom ∧ p.due = max s.clock f.due ∧ p.ev = .retryOverrun ∧ p.arg = .flit f)) ∧
    (s.retrying f = none → exec .retryOverrun s = .next s) ∧
    (∀ g, s.retrying f = some g → g.hold = none → ∃ t, exec .retryOverrun s = .next t ∧ t.mem = s.mem ∧ t.cores = s.cores ∧
      (∃ h ∈ t.holds, h.id = s.seq ∧ h.reason = 3) ∧ ∃ e ∈ t.domain.retries, f.same e = true ∧ e.hold = some s.seq)) ∧
  (∀ (s : State) (package port : Nat), s.arg = .ids package port → ∃ t, exec .slackSlotRetry s = .next t ∧
    t.mem = s.mem ∧ t.cores = s.cores ∧
    ∀ i f, i < 64 → (s.domain.retries.filter fun f => f.package == package && f.port == port)[i]? = some f →
      ∃ p ∈ t.agenda, p.clk = .dom ∧ p.due = s.clock + 64 + i ∧ p.ev = .flitArrival ∧ ∃ b, p.arg = .flit { f with good := b }) ∧
  (∀ (s : State) (m : Nat) (diff : Int), s.arg = .skew m diff →
    (diff.natAbs ≤ 8 → exec .alignmentFlit s = .next s) ∧
    (8 < diff.natAbs → ∃ t, exec .alignmentFlit s = .next t ∧ t.mem = s.mem ∧ t.cores = s.cores ∧
      (∃ h ∈ t.holds, h.id = s.seq ∧ h.reason = 5) ∧ ∃ p ∈ t.agenda, p.ev = .alignmentBarrier ∧ p.arg = .ids 1 s.seq)) ∧
  (∀ (s : State) (n h : Nat), s.arg = .ids n h →
    (n = 0 → s.domain.stage = 4 → ∃ t, exec .alignmentBarrier s = .next t ∧ t.clock = 0 ∧ t.domain.stage = 5 ∧ t.mem = s.mem ∧
      t.modules ≤ s.trained ∧ t.flat = flatOf (diameterOf t.modules (List.range t.modules))) ∧
    (n ≠ 0 → ∃ t, exec .alignmentBarrier s = .next t ∧ t.mem = s.mem ∧ t.clock = s.clock ∧
      ∃ p ∈ t.agenda, p.clk = .dom ∧ p.due = s.clock ∧ p.ev = .releaseStart ∧ p.arg = .ids h 0))) ∧
  ((∀ (s : State) (job : Job) (k : CollJob) (j : Nat), s.MemOk → s.collArg = some (job, k, j) →
    let rank := k.rank.getD 0
    (k.node = none → ∃ t, exec .collBlockRead s = .next t ∧ t.mem = s.mem) ∧
    (k.start.isSome = true ∨ (k.info.timed = true ∧ k.group = []) → exec .collMemberStart s = .next s) ∧
    (k.start = none → k.info.timed = false ∨ k.group ≠ [] → ∃ t m, exec .collMemberStart s = .next t ∧ t.mem = s.mem ∧
      t.cores = s.cores ∧ t.coll? job.id = some m ∧ m.2.start = some s.clock) ∧
    (k.info.chunked = false → ∃ t m, exec .collSourceBeat s = .next t ∧ t.mem = s.mem ∧ t.coll? job.id = some m ∧
      (let pas := segPas k.src j (min 256 ((match k.rank with | some r => k.info.srcLen r | none => 0) - j))
       s.poisoned pas = false → s.ledger = [] → (∀ pa ∈ pas, s.inMotion pa = false) →
         listGet? m.2.data j = some (pas.map s.mem.get))) ∧
    (∃ t, exec .collDestBeat s = .next t ∧ (s.soft = [] → t.cores = s.cores) ∧
      (∀ pa, pa ∉ segPas k.dst (256 * j) 256 → t.mem.get pa = s.mem.get pa) ∧
      (let out := collResult k.info rank ((k.group.filterMap s.coll?).map s.collSource)
       (segPas k.dst (256 * j) 256).Nodup → (∀ pa ∈ segPas k.dst (256 * j) 256, s.inMotion pa = false) →
         ∀ i, i < 256 → 256 * j + i < out.length → t.mem.get (segPa k.dst (256 * j + i)) = out[256 * j + i]!)) ∧
    (k.node = none → ∃ t, exec .collComplete s = .next t ∧
      (∀ pa, pa ∉ segPas k.blk 0x7C 4 → t.mem.get pa = s.mem.get pa) ∧
      ((segPas k.blk 0x7C 4).Nodup → (∀ pa ∈ segPas k.blk 0x7C 4, s.inMotion pa = false) →
        leNat ((segPas k.blk 0x7C 4).map t.mem.get) = k.status.getD 0 % 2 ^ 32) ∧
      (job.live = true → k.status = some 0 → t.cores = s.cores))) ∧
  (∀ (s : State) (job : Job) (k : CollJob) (i : Nat), s.chunkReady s.cur.die = some (job, k, i) →
    ∃ t, exec .chunkRelease s = .next t ∧ t.mem = s.mem ∧ t.cores = s.cores ∧
      t.chunk k.die (k.info.c0 + i) = s.chunk k.die (k.info.c0 + i) - k.info.threshold) ∧
  (∀ (s : State) (c n : Nat), s.arg = .ids c n →
    (s.writesPending s.cur s.ord = true → ∃ t, exec .tcincApply s = .next t ∧ t.mem = s.mem ∧ t.chunks = s.chunks ∧
      ∃ p ∈ t.agenda, p.owner = s.cur ∧ p.ord = s.ord ∧ p.ev = .tcincApply ∧ p.arg = .ids c n) ∧
    (s.writesPending s.cur s.ord = false → ∃ t, exec .tcincApply s = .next t ∧ t.mem = s.mem ∧ t.cores = s.cores ∧
      t.chunk s.cur.die c = min (s.chunk s.cur.die c + n) (2 ^ 32 - 1) ∧
      ∀ d e, (d, e) ≠ (s.cur.die, c) → t.chunk d e = s.chunk d e)))


/-! ### The host and the firmware (R381 to R393, R407) -/

/-- Host accesses to a function's registers and BAR2, and every command: the firmware takes the next entry and completes it (status
with done, result), or parks it; in stage 7 every command gets 0x07, before stage 5 0x04 (R382 to R385, R390). On a command that no
check refuses its own effect is stated, for every command (R386 to R389). The model's choices in it: the bytes of host memory that
nothing has written read as 0, and a register without a stated reset value starts at 0 (log entries 1 and 9); the places in IDENTIFY's
block (log entry 72); FRIEZE_FORM's member list is a 16-bit count and so many 16-bit dies (log entry 73); the host address that QUERY
copies to is open (log entry 80); the candidates of REMAP_SPARES (log entry 74); at the end of a function's RESET every entry behind it
is completed with 0x08 (log entry 101); a queue that a node of a launched graph would have to wait for is full as well (log entry 115);
running nodes of a freed graph are re-armed too (log entry 117). -/
def Obligations.HostCommandsComplete : Prop :=
  let status := fun (t : State) (addr code : Nat) => t.getHost (addr + 4) 4 = leBytes (code + 2 ^ 31) 4
  let apart := fun (a n b : Nat) => a + n ≤ b ∨ b + 64 ≤ a
  ((∀ (s : State) (f v : Word), s.arg = .words f v → f.toNat < 16 →
    let h := s.fnOf f.toNat
    (∃ t, exec .cqtailDoorbell s = .next t ∧ t.mem = s.mem ∧ t.cores = s.cores ∧ t.domain.hostMem = s.domain.hostMem ∧
      t.fnOf f.toNat = if h.count ≠ 0 ∧ h.count ≤ v.toNat % 4096 then { h with bad := true, stuck := true }
        else { h with cqtail := v.toNat % 4096 }) ∧
    (∃ t, exec .devstatClear s = .next t ∧ t.mem = s.mem ∧ t.cores = s.cores ∧
      t.fnOf f.toNat = if v.getLsbD 3 then { h with bad := false } else h) ∧
    (∃ t, exec .eventPost s = .next t ∧ t.mem = s.mem ∧ t.cores = s.cores ∧
      (h.parked.all (·.halt) = true → h.events.length < 256 → t.fnOf f.toNat = { h with events := h.events ++ [v] }) ∧
      (h.parked.all (·.halt) = true → 256 ≤ h.events.length →
        t.fnOf f.toNat = { h with dropped := min (h.dropped + 1) 65535 }) ∧
      (∀ p, h.parked.find? (fun p => !p.halt) = some p → s.MemOk →
        status t p.addr 0 ∧ t.getHost (p.addr + 0x38) 8 = leBytes v.toNat 8 ∧ p ∉ (t.fnOf f.toNat).parked))) ∧
  (∀ (s : State) (f off : Nat) (bs : List Byte), s.arg = .bytes f off bs → f < 16 →
    (∃ t, exec .cqctlWrite s = .next t ∧ t.mem = s.mem ∧ t.cores = s.cores ∧
      (off = 0 → (t.fnOf f).cqbase = leNat bs % 2 ^ 64 / 4096 * 4096) ∧
      (off = 8 → leNat bs % 2 = 0 → (t.fnOf f).enable = false ∧ (t.fnOf f).cqhead = 0 ∧ (t.fnOf f).cqtail = 0 ∧
        (t.fnOf f).stuck = false) ∧
      (off = 8 → leNat bs % 2 = 1 → (t.fnOf f).enable = true ∧ (t.fnOf f).logn = leNat bs / 2 % 16) ∧
      (off = 0x28 → f = 0 → (t.fnOf 0).winbase = leNat bs % 2 ^ 52 / 2 ^ (s.fnOf 0).bar2 * 2 ^ (s.fnOf 0).bar2)) ∧
    (∃ t, exec .hostBar2Read s = .next t ∧ t.mem = s.mem ∧ (s.soft = [] → t.cores = s.cores) ∧
      t.domain.answer = (s.barBytes f false off bs.length).map fun ps => ps.map s.spaceByte) ∧
    (s.barBytes f true off bs.length = none → ∃ t, exec .hostBar2Write s = .next t ∧ t.mem = s.mem ∧ t.cores = s.cores ∧
      (t.fnOf f).refused = min ((s.fnOf f).refused + 1) (2 ^ 32 - 1)) ∧
    (∀ pa, s.MemOk → s.barBytes f true off bs.length = some (pasFrom pa bs.length) →
      (∀ q ∈ pasFrom pa bs.length, paSpace q ≤ 1 ∧ s.inMotion q = false) →
      ∃ t, exec .hostBar2Write s = .next t ∧ t.cores = s.cores ∧ t.mem.read pa bs.length = bs ∧
        ∀ q, q < pa ∨ pa + bs.length ≤ q → t.mem.get q = s.mem.get q)) ∧
  (∀ (s : State) (f addr : Nat), s.arg = .cmd f addr → s.MemOk → f < 16 → ∃ t, exec .haltCommandComplete s = .next t ∧
    t.mem = s.mem ∧ t.cores = s.cores ∧
    (((s.fnOf f).parked.any fun p => p.halt && p.addr == addr) = true → status t addr 0)) ∧
  (∀ (s : State) (f : Nat) (r : Resetting), s.MemOk → s.resetOver = some f → (s.fnOf f).resetting = some r →
    ∃ t, exec .resetFunction s = .next t ∧ t.mem = s.mem ∧ t.cores = s.cores ∧ status t r.entry 0 ∧
      (t.fnOf f).resetting = none ∧ (t.fnOf f).parked = [] ∧ (t.fnOf f).features = none ∧
      let others := (s.fnOf f).parked.map (·.addr) ++ r.behind
      ∀ a ∈ others, (∀ b ∈ r.entry :: others, b = a ∨ a + 64 ≤ b ∨ b + 64 ≤ a) → a ≠ r.entry → status t a 8)) ∧
  (∀ (s : State) (f slot : Nat) (i : Instr), s.MemOk → s.fetchNext = some (f, slot) → s.resetOver = none →
    commandOf (s.entryBytes f slot) = i →
    let addr := (s.fnOf f).entry slot
    let ends := fun (t : State) (code result : Nat) => status t addr code ∧ t.getHost (addr + 0x38) 8 = leBytes result 8
    let atOnce := [Instr.identify, .negotiate, .resetDie, .writeCmd, .readCmd, .mapCmd, .unmapCmd, .launchGraph, .freezeGraph,
      .freeGraph, .query, .friezeForm, .friezeLoad, .alignCmd, .remapSpares, .counters, .resume, .peek, .poke, .reservedCommand]
    let later := [Instr.resetFunction, .resetDomain, .haltCommand, .eventCmd]
    (i ∈ atOnce ∨ i ∈ later) ∧
    (i ∈ later → ∃ t, exec i s = .next t) ∧
    (i ∈ atOnce → ∃ t code result, exec i s = .next t ∧ code ≤ 8 ∧ ends t code result) ∧
    (s.domain.stage = 7 ∨ s.domain.stage < 5 → ∃ t, exec i s = .next t ∧ t.mem = s.mem ∧ t.cores = s.cores ∧
      ends t (if s.domain.stage = 7 then 7 else 4) 0) ∧
    (i = .reservedCommand → 5 ≤ s.domain.stage → s.domain.stage ≠ 7 → ∃ t, exec i s = .next t ∧ t.mem = s.mem ∧
      t.cores = s.cores ∧ ends t 1 0) ∧
    (s.domain.stage = 5 ∨ s.domain.stage = 6 → ∀ e, s.entryBytes f slot = e →
      let blank := fun (used : Nat) => ((e.drop (8 + used)).take (48 - used)).all (· == 0) = true
      let ready := fun (bit : Option Nat) => (f = 0 ∨ (s.fnOf 0).has 0 = true) ∧ (s.fnOf f).features.isSome = true ∧
        ∀ b, bit = some b → (s.fnOf f).has b = true
      let done := fun (t : State) (result : Nat) => exec i s = .next t ∧ ends t 0 result
      let quiet := fun (t : State) => t.mem = s.mem ∧ t.cores = s.cores
      let u := s.fetched f
      let die := par e 0x10 2
      let va := par e 8 8
      let (a, buf, n) := copyPar e
      -- IDENTIFY, NEGOTIATE (R386, R387)
      (i = .identify → blank 8 → par e 8 8 % 8 = 0 → ∃ t, done t 0 ∧ quiet t ∧
        let b := par e 8 8
        (apart b 4096 addr → t.getHost b 16 = [0x4B, 0x58, 0x38, 0x2D, 0x37, 0x36, 0x38, 0x2D, 0x41, 0, 0, 0, 0, 0, 0, 0] ∧
          t.getHost (b + 24) 8 = leBytes (s.dominfo 0).toNat 8 ∧ t.getHost (b + 32) 32 = leBytes 63 32 ∧
          t.getHost (b + 64) 8 = leBytes 15 8 ∧ t.getHost (b + 72) 4024 = List.replicate 4024 0)) ∧
      (i = .negotiate → blank 8 → (f = 0 ∨ (s.fnOf 0).has 0 = true) → (s.fnOf f).features = none → par e 8 8 % 8 = 0 →
        ∃ t, done t 0 ∧ (t.fnOf f).features = some (leNat (s.getHost (par e 8 8) 32) &&& 63) ∧
          t.domain.stage = (if f = 0 then 6 else s.domain.stage) ∧ quiet t) ∧
      -- RESET (R388)
      (i = .resetFunction → blank 3 → (par e 8 1 ≠ 0 → ∃ t, exec i s = .next t ∧ ends t 2 0) ∧
        (par e 8 1 = 0 → ∃ t r, exec i s = .next t ∧ (∀ g ∈ t.sched.graphs, g.fn = f → g.frozen = true) ∧
          (∀ c k, (s.core c).task = some k → k.fn = f → k.locked = false → (t.core c).task = none) ∧
          (∀ c k, (s.core c).task = some k → k.fn ≠ f → (t.core c).task = some k) ∧
          (t.fnOf f).resetting = some r ∧ r.entry = addr ∧ r.tail = some (s.fnOf f).cqtail)) ∧
      (i = .resetDie → blank 3 → f = 0 → s.aligned (par e 9 2) = true → ∃ t, done t 0 ∧
        (∀ c, c.die = par e 9 2 → (t.core c).task = none) ∧
        ∀ pa, t.mem.get pa = if paDie pa = par e 9 2 ∧ paSpace pa = 0 then 0 else s.mem.get pa) ∧
      (i = .resetDomain → blank 3 → f = 0 → ∃ t, done t 0 ∧ t.domain.stage = 1 ∧ t.cores = State.reset.cores ∧
        t.mem = State.reset.mem ∧ t.clock = s.clock ∧ ∃ p ∈ t.agenda, p.ev = .fuseRemap) ∧
      -- WRITE, READ (R382, R387)
      (∀ ps, i = .writeCmd → blank 20 → ready none → copyOk buf n = true → s.fnBytes f true a n = some ps → ∃ t, done t 0 ∧
        (∀ q, q ∉ ps → t.mem.get q = s.mem.get q) ∧
        (ps.Nodup → (∀ pa ∈ ps, paSpace pa ≤ 1 ∧ s.inMotion pa = false) → ps.map t.mem.get = s.getHost buf n)) ∧
      (∀ ps, i = .readCmd → blank 20 → ready none → copyOk buf n = true → s.fnBytes f false a n = some ps → ∃ t, t.mem = s.mem ∧
        let bad := fun (pa : Nat) => paSpace pa ≤ 1 ∧ s.poison.contains (eccWord pa) = true
        ((∀ pa ∈ ps, ¬ bad pa) → done t 0 ∧
          (apart buf n addr → (∀ pa ∈ ps, paSpace pa ≤ 1 ∧ s.inMotion pa = false) → t.getHost buf n = ps.map s.mem.get)) ∧
        (∀ k pa, ps[k]? = some pa → bad pa → (∀ j q, j < k → ps[j]? = some q → ¬ bad q) → exec i s = .next t ∧ ends t 7 k)) ∧
      -- MAP with and without unmap (R207, R387)
      (let m := mapPar e
       (∀ x, i = .mapCmd → blank 31 → ready none → mapDenied f e s = false → m.entry = some x → s.aligned m.die = true →
        (∀ c ∈ m.cores, ((s.core c).tlb.filter fun y => y.pinned && !y.samePage x).length < 192) →
        ∃ t, done t m.cores.length ∧ t.mem = s.mem ∧
          ∀ c ∈ m.cores, ∃ y ∈ (t.core c).tlb, y.pinned = true ∧ y.va = x.va ∧ y.size = x.size ∧ y.pa = x.pa) ∧
       (i = .unmapCmd → blank 31 → ready none → mapDenied f e s = false → m.va % m.size = 0 → m.flags / 2 % 4 ≠ 3 → m.flags < 8 →
        s.aligned m.die = true →
        let on := fun (y : TlbEntry) => y.pinned && y.va == m.va % 2 ^ 48 && y.size == m.size
        ∃ t, done t (m.cores.filter fun c => (s.core c).tlb.any on).length ∧ t.mem = s.mem ∧
          (∀ c ∈ m.cores, (t.core c).tlb = (s.core c).tlb.filter fun y => !on y) ∧ ∀ c, c ∉ m.cores → t.core c = s.core c)) ∧
      -- graphs (R182, R194, R195, R387)
      (i = .launchGraph → blank 10 → ready none → s.ownDie f die = true → va % 64 = 0 → s.aligned die = true →
        (s.header die va = none → ∃ t, done t 3 ∧ quiet t) ∧
        (∀ h, s.header die va = some h → s.queueFull die (s.nodesWhere die va h fun n => n.npred == 0) = true → ∃ t, done t 2 ∧ quiet t) ∧
        (∀ h, s.header die va = some h → s.queueFull die (s.nodesWhere die va h fun n => n.npred == 0) = false →
          s.nodesWhere die va h (fun n => n.state == 1 || n.state == 2) ≠ [] → ∃ t, done t 4 ∧ quiet t) ∧
        (∀ h, s.header die va = some h → s.queueFull die (s.nodesWhere die va h fun n => n.npred == 0) = false →
          s.nodesWhere die va h (fun n => n.state == 1 || n.state == 2) = [] →
          let v := (((u.publishTo f die va).rearmAll die va h).enrol die va (0x30 + f) f).setFrozen die va false
          let w := v.doWork ((v.nodesWhere die va h fun n => n.npred == 0).map .ready)
          (∃ g ∈ v.sched.graphs, g.die = die ∧ g.va = va ∧ g.fn = f ∧ g.tag = 0x30 + f ∧ g.frozen = false) ∧
          ∃ t, done t 0 ∧ t = w.complete f addr 0 0)) ∧
      (∀ g, i = .freezeGraph → blank 9 → ready none → s.graphOf f va = some g →
        (par e 0x10 1 ≠ 0 → ∃ t, exec i s = .next t ∧ ends t 2 0 ∧ quiet t) ∧
        (par e 0x10 1 = 0 → ∃ t, done t 0 ∧ t.cores = s.cores ∧
          (∀ x ∈ t.sched.graphs, x.die = g.die → x.va = g.va → x.frozen = true) ∧
          ∀ pa, s.schedPa g.die true (g.va + 0x1C) = .ok pa → s.inMotion pa = false →
            t.mem.get pa = 1 ∧ ∀ q, q ≠ pa → t.mem.get q = s.mem.get q)) ∧
      (∀ g, i = .freeGraph → blank 9 → ready none → s.graphOf f va = some g →
        let v := u.setFrozen g.die g.va false
        (∀ x ∈ v.sched.graphs, x.die = g.die → x.va = g.va → x.frozen = false) ∧
        ∃ t, done t 0 ∧ t = (v.rearmWaiting g).complete f addr 0 0 ∧
          ∀ h, v.header g.die g.va = some h → v.nodesWhere g.die g.va h (fun n => decide (n.state < 3)) = [] →
            t.sched.ready = s.sched.ready ∧ t.cores = s.cores ∧
            ∀ pa, s.schedPa g.die true (g.va + 0x1C) = .ok pa → s.inMotion pa = false →
              t.mem.get pa = 0 ∧ ∀ q, q ≠ pa → t.mem.get q = s.mem.get q) ∧
      (∀ g h m, i = .query → blank 10 → ready none → s.graphOf f va = some g → s.header g.die g.va = some h →
        par e 0x10 2 < h.count → s.nodeRec ⟨g.die, g.va, par e 0x10 2⟩ = some (h, m) → ∃ t, done t m.state ∧
          t.mem = s.mem ∧ (s.soft = [] → t.cores = s.cores) ∧
          let dest := 8 * (Config.freeNat u.ctr 38710 % 2 ^ 61)
          (apart dest 32 addr → (∀ q ∈ pasFrom (m.pa + 0x40) 32, s.inMotion q = false) → t.getHost dest 32 = s.mem.read (m.pa + 0x40) 32)) ∧
      -- the frieze, alignment, spares, counters (R340, R362, R392, R406, R407)
      (i = .friezeForm → blank 20 → ready (some 1) → f = 0 → par e 8 1 ≤ 1 → par e 0xC 8 % 8 = 0 →
        let list := par e 0xC 8
        let dies := (List.range (leNat (s.getHost list 2))).map fun i => leNat (s.getHost (list + 2 + 2 * i) 2)
        let r := u.friezeForm (if par e 8 1 = 0 then .e else .w) (par e 9 2) (par e 0xB 1) dies (par e 0x14 8)
        ∃ t, exec i s = .next t ∧ ends t r.1 r.2.1 ∧ t.rings = r.2.2.rings ∧ t.ports = r.2.2.ports ∧ t.mem = r.2.2.mem) ∧
      (i = .friezeLoad → blank 12 → ready (some 1) → f = 0 → par e 0xC 8 % 8 = 0 →
        let r := u.friezeLoad (par e 8 2) (par e 0xA 2) (s.getHost (par e 0xC 8) 6291712)
        ∃ t, exec i s = .next t ∧ ends t r.1 r.2.1 ∧ t.rings = r.2.2.rings ∧ t.ports = r.2.2.ports ∧ t.mem = r.2.2.mem) ∧
      (i = .alignCmd → blank 0 → ready none → f = 0 → ∃ t, done t t.domain.excluded ∧ t.mem = s.mem ∧ t.clock = s.clock ∧
        t.modules = s.modules ∧ (∀ m ∈ s.domain.gone, m ∈ t.domain.gone) ∧
        t.domain.diameter = diameterOf s.modules ((List.range s.modules).filter fun m => !t.domain.gone.contains m) ∧
        t.flat = flatOf t.domain.diameter) ∧
      (i = .remapSpares → blank 10 → ready (some 5) → f = 0 → s.aligned (par e 8 2) = true →
        let cs := (List.range 96).map fun i => (⟨par e 8 2, i⟩ : CoreId)
        let cand := cs.filter fun c => (s.core c).spare == (true, false)
        let pick := (cand.zipIdx.filter fun p => decide (p.2 < 64) && par e 0xA 8 / 2 ^ p.2 % 2 == 1).map (·.1)
        let used := cs.foldl (fun n c => n + (s.core c).spares.1 + if (s.core c).spare.2 then 1 else 0) 0
        par e 0xA 8 < 2 ^ min 64 cand.length →
        (4 < used + pick.length → ∃ t, exec i s = .next t ∧ ends t 6 0 ∧ quiet t) ∧
        (used + pick.length ≤ 4 → ∃ t, done t pick.length ∧ t.mem = s.mem ∧
          (∀ c ∈ pick, t.core c = { s.core c with spare := (true, true) }) ∧ ∀ c, c ∉ pick → t.core c = s.core c)) ∧
      (i = .counters → blank 11 → ready none → s.ownDie f (par e 8 2) = true → par e 0xB 8 % 8 = 0 → par e 0xA 1 < 4 →
        s.aligned (par e 8 2) = true →
        let d := par e 8 2
        let b := par e 0xB 8
        let core := fun i => s.core ⟨d, i⟩
        let link := fun i => leBytes ((listGet? s.domain.linkRetries (4 * d + i)).getD 0) 8
        ∃ t, done t (match par e 0xA 1 with | 0 => 768 | 1 => 24 | 2 => 768 | _ => 1568) ∧ quiet t ∧
          (apart b 1568 addr → match par e 0xA 1 with
            | 0 => ∀ i < 96, t.getHost (b + 8 * i) 8 = leBytes (s.memerr (core i)).toNat 8
            | 1 => t.getHost b 8 = leBytes (s.fzstat d).toNat 8 ∧ t.getHost (b + 8) 8 = leBytes (s.fzcfg d .e).toNat 8 ∧
                t.getHost (b + 16) 8 = leBytes (s.fzcfg d .w).toNat 8
            | 2 => ∀ i < 96, t.getHost (b + 8 * i) 8 =
                if (core i).task.isSome then leBytes (s.cpystat ⟨d, i⟩).toNat 8 else List.replicate 8 0
            | _ => (∀ i < 96, t.getHost (b + 16 * i) 4 = leBytes (core i).wear.1 4 ∧
                  t.getHost (b + 16 * i + 4) 4 = leBytes (core i).wear.2.1 4 ∧ t.getHost (b + 16 * i + 8) 4 = leBytes (core i).wear.2.2 4) ∧
                ∀ i < 3, t.getHost (b + 1536 + 8 * i) 8 = link i)) ∧
      -- debugging (R312, R316, R322, R384)
      (∀ g, i = .haltCommand → blank 8 → ready (some 3) → s.graphOf f va = some g → ∃ t hs, exec i s = .next t ∧ quiet t ∧
        (t.fnOf f).parked = (s.fnOf f).parked ++ [⟨addr, true, hs⟩] ∧
        (∃ p ∈ t.agenda, p.clk = .dom ∧ s.clock < p.due ∧ p.ev = .haltCommandComplete ∧ p.arg = .cmd f addr) ∧
        ∀ c ∈ s.graphCores g, ∀ k, (s.core c).task = some k →
          ∃ h ∈ t.holds, h.id ∈ hs ∧ h.reason = 2 ∧ h.start = s.clock ∧ h.release = none ∧
            h.origin = if k.locked then (lowestCore (s.groupCores k.group)).getD ⟨0, 0⟩ else c) ∧
      (∀ g, i = .resume → blank 8 → ready (some 3) → s.graphOf f va = some g → ∃ t, done t 0 ∧ t.mem = s.mem ∧
        (∀ h ∈ s.holds, h.reason = 2 → h.release = none → (∃ m ∈ h.members, m.1 ∈ s.graphCores g) →
          ∃ p ∈ t.agenda, p.due = s.clock ∧ p.ev = .releaseStart ∧ p.arg = .ids h.id 0) ∧
        ∀ c ∈ s.graphCores g, ∀ old, (s.core c).ctx.trapped = some (.untilResume old) → (s.core c).ctx.sys.trapline = old →
          (t.core c).ctx.trapped = none) ∧
      (i = .peek → blank 20 → ready (some 3) → peekDenied f e s = false → debugBad e s = false →
        let shown := fun (b : Nat) => 96 ≤ paUnit b ∨ (0x40000 ≤ paOff b ∧ paOff b < 0x44200) ∨ (s.core (paCore b)).held = true
        (paSpace a = 2 → (∃ b, a ≤ b ∧ b < a + n ∧ ¬ shown b) → a / 2 ^ 38 = (a + n - 1) / 2 ^ 38 →
          ∃ t, exec i s = .next t ∧ ends t 2 0 ∧ quiet t) ∧
        (paSpace a ≠ 2 ∨ (0 < n ∧ a / 2 ^ 38 = (a + n - 1) / 2 ^ 38 ∧ ∀ b, a ≤ b → b < a + n → shown b) →
          ∃ t, done t 0 ∧ t.mem = s.mem ∧ (s.soft = [] → t.cores = s.cores) ∧ (apart buf n addr → t.getHost buf n = u.spaceBytes a n ∧
            ((∀ q ∈ pasFrom a n, paSpace q ≤ 1 ∧ s.poison.contains (eccWord q) = false ∧ s.inMotion q = false) →
              t.getHost buf n = s.mem.read a n)))) ∧
      (i = .poke → blank 20 → ready (some 3) → peekDenied f e s = false → debugBad e s = false →
        ∃ t, done t 0 ∧ t = (u.putSpace a (s.getHost buf n)).complete f addr 0 0 ∧
          ((∀ q ∈ pasFrom a n, paSpace q ≤ 1 ∧ s.inMotion q = false) → t.cores = s.cores ∧ t.mem.read a n = s.getHost buf n ∧
            ∀ q, q ∉ pasFrom a n → t.mem.get q = s.mem.get q) ∧
          (n = 8 → paSpace a = 2 → paUnit a < 96 → ctlPlace (paOff a) ≠ .other → (s.core (paCore a)).held = false → quiet t)) ∧
      (i = .eventCmd → blank 0 → ready (some 4) → ∃ t, exec i s = .next t ∧ quiet t ∧
        (∀ w rest, (s.fnOf f).events = w :: rest → ends t 0 w.toNat ∧ (t.fnOf f).events = rest) ∧
        ((s.fnOf f).events = [] → ((s.fnOf f).parked.filter fun p => !p.halt).length < 16 →
          (t.fnOf f).parked = (s.fnOf f).parked ++ [⟨addr, false, []⟩])))) ∧
  -- what FRIEZE_FORM and FRIEZE_LOAD leave (R339, R340, R387, R406)
  (∀ (s : State) (l : FzLane) (fid q k0 : Nat) (dies : List Nat), 3 ≤ q → q ≤ 48 → dies ≠ [] → dies.eraseDups.length = dies.length →
    dies.length * q ≤ 65536 → (∀ d ∈ dies, s.aligned d = true) → (∀ g ∈ s.rings, g.lane = l → ∀ d ∈ dies, d ∉ g.dies) →
    s.laneBehind l dies = [] → s.formFails l dies (if q ≤ 16 then 3 * q else q) = false →
    (s.cutLane l dies = true → s.friezeForm l fid q dies k0 = (6, 0, s)) ∧ (s.cutLane l dies = false →
    ∃ t, s.friezeForm l fid q dies k0 = (0, dies.length * q, t) ∧
      (∃ g ∈ t.rings, g.id = s.seq ∧ g.lane = l ∧ g.fid = fid ∧ g.dies = dies ∧ g.q = q ∧ g.k0 = k0 ∧ g.loaded = [] ∧ g.lost = []) ∧
      (∀ r d, dies[r]? = some d → ∃ p ∈ t.ports, p.die = d ∧ p.lane = l ∧ p.ring = s.seq ∧ p.rank = r ∧ p.state = 1) ∧
      ∀ d ∈ dies, ∀ i < 96, ∀ b,
        let lo := match l with | .e => 0 | .w => 65536 * t.lanePlaces d .e
        lo ≤ b → b < lo + 65536 * (if q ≤ 16 then 3 * q else q) → t.mem.get (vaultBase ⟨d, i⟩ + b) = 0)) ∧
  (∀ (s : State) (g : Ring) (fid pos r : Nat) (k : Int) (panel : List Byte), s.MemOk →
    s.rings.find? (fun g => g.fid == fid) = some g → pos < g.np → tagKind (headTag (loadHeader g (panel.take 256))) < 4 →
    s.ringState g.id = 1 → g.loaded.length < g.np → g.slotFor pos = some (r, k) → panel.length = 256 + 96 * 65536 →
    ∃ t, s.friezeLoad fid pos panel = (0, g.np - (setInsert g.loaded pos).length, t) ∧
      (∀ p ∈ t.ports, p.die = g.dieOf r → p.lane = g.lane → p.header (g.placeOf k) = loadHeader g (panel.take 256)) ∧
      ((∀ i < 96, ∀ pa ∈ pasFrom (s.placePa (g.dieOf r) g.lane (g.placeOf k) i 0) 65536, s.inMotion pa = false) →
        ∀ i b, i < 96 → b < 65536 →
          t.mem.get (s.placePa (g.dieOf r) g.lane (g.placeOf k) i b) = panel[256 + 65536 * i + b]!) ∧
      (g.np = (setInsert g.loaded pos).length → ∀ d ∈ g.dies,
        (∃ p ∈ t.agenda, p.clk = .port d g.lane ∧ p.owner = portId d ∧ p.ev = .slotBoundary) ∧
        ∃ p ∈ t.agenda, p.clk = .port d g.lane ∧ p.owner = portId d ∧ p.ev = .panelBeatSend))

/-- The stages of bring-up follow each other, each after at least one cycle (the model's choice, log entry 12), thermal steps lower the
clock by 100 MHz at a frame boundary down to 0.7 GHz, a spare is taken at a maintenance point, and an undefined opcode is ILLEGAL (R50,
R390, R392, R393). -/
def Obligations.BringUpAndThermalSteps : Prop :=
  (∀ (s : State) (i : Instr),
    let next := fun (stage : Nat) (ev : Instr) => ∃ t, exec i s = .next t ∧ t.cores = s.cores ∧ t.clock = s.clock ∧
      t.domain.stage = stage ∧ ∃ p ∈ t.agenda, p.ev = ev ∧ s.clock < p.due
    (i = .powerOn → s.arg ≠ .ids 7 0 → s.domain.stage = 0 → s.modules = 0 → next 0 .romBoot) ∧
    (i = .powerOn → s.arg = .ids 7 0 → s.domain.stage = 0 → ∃ t, exec i s = .next t ∧ t.domain.stage = 0 ∧ t.cores = s.cores ∧
      ∀ p ∈ t.agenda, p.ev ≠ .romBoot) ∧
    (i = .romBoot → (∀ x, s.arg ≠ .ids 7 x) → s.domain.stage = 0 → next 1 .fuseRemap) ∧
    (i = .romBoot → (∃ x, s.arg = .ids 7 x) → s.domain.stage = 1 → ∃ t, exec i s = .next t ∧ t.domain.stage = 7 ∧
      ∀ p ∈ t.agenda, p.ev ≠ .fuseRemap) ∧
    (i = .fuseRemap → s.domain.stage = 1 → next 2 .linkTraining ∧ ∃ t, exec i s = .next t ∧ t.mem = [] ∧ t.poison = []) ∧
    (i = .linkTraining → (∀ x, s.arg ≠ .ids 1 x) → s.domain.stage = 2 → next 3 .linkTraining) ∧
    (i = .linkTraining → (∃ x, s.arg = .ids 1 x) → s.domain.stage = 3 → next 4 .alignmentBarrier)) ∧
  (∀ (s : State) (n x : Nat), s.arg = .ids n x → ∃ t, exec .thermalStep s = .next t ∧ t.mem = s.mem ∧ t.cores = s.cores ∧
    (n = 0 → s.cur.die ∈ t.domain.hot ∧ t.domain.mhz = s.domain.mhz ∧ (700 < s.domain.mhz →
      ∃ p ∈ t.agenda, p.clk = .dom ∧ p.due % 32768 = 0 ∧ s.clock < p.due ∧ p.due ≤ s.clock + 32768 ∧ p.ev = .thermalStep ∧
        p.arg = .ids 1 0)) ∧
    (n = 1 → t.domain.mhz = if 700 < s.domain.mhz then s.domain.mhz - 100 else s.domain.mhz) ∧
    (2 ≤ n → s.cur.die ∉ t.domain.hot ∧ t.domain.mhz = s.domain.mhz)) ∧
  (∀ s : State, s.domain.mhz ≤ 700 → s.cur.die ∈ s.domain.hot → s.cur.die ∉ s.domain.off →
    ∃ t, exec .thermalShutdown s = .next t ∧ t.mem = s.mem ∧ t.cores = s.cores ∧
      ∃ p ∈ t.agenda, p.clk = .dom ∧ p.due = s.clock ∧ p.owner = s.cur ∧ p.ev = .dieLoss ∧ p.arg = .ids 0 0) ∧
  (∀ s : State, s.remapDue s.cur = true → ∃ t, exec .spareRemapApply s = .next t ∧ t.mem = s.mem ∧
    (t.core s.cur).spare = (false, false) ∧ (t.core s.cur).spares.1 = s.me.spares.1 + 1 ∧ (t.core s.cur).copyUntil = s.clock + 65536 ∧
    (t.core s.cur).ctx = s.me.ctx) ∧
  (∀ s : State, exec .reservedOpcode s = .next (s.tick.raise s.cur .illegal s.freeTinfo (s.me.posOf s.curCl)))


/-! ### Decoding, the step, reset and the invariants -/

/-- Words of every grid as the spec's own examples write them out decode to the instructions they stand for (R22, R23, R30 to R33, R50). -/
def Obligations.DecodeKnownWords : Prop :=
  decodeBytes .c 2 [0x00, 0x00, 0x86, 0xC0, 0x00, 0x14, 0x00, 0x00] = .ok (.add (.s 3) (.s 2) (.h 0)) ∧
  decodeBytes .c 6 [0xB1, 0x80] = .ok (.shortParcel 5 17 .c) ∧
  decodeBytes .l 31 [0xE0, 0xFF] = .ok (.idle 0) ∧
  decodeBytes .x 29 [0x00, 0x00, 0x0A, 0x02, 0x50, 0x00, 0x00, 0x20] = .error .straddle ∧
  decodeWord .c 0x40042F7E38000000 = .ok ⟨.task, 16, .halt (.s 7)⟩ ∧
  decodeWord .x 0x0000020A00502000 = .ok ⟨.idle, 0, .vfma (.v 2) 1 .f32 .rne (.oq 0) (.v 1) (.h 0)⟩ ∧
  decodeWord .x 0x0000632042003400 = .ok ⟨.idle, 1, .vhist (.v 8) 1 .u32 (.v 4) (.v 8)⟩ ∧
  decodeWord .l 0x00001000007FFFC2 = .ok ⟨.idle, 0, .ljmp ⟨0x3FFFE, 2⟩⟩ ∧
  decodeWord .l 0x000000810A040080 = .ok ⟨.idle, 0, .ldq 0 1 .n .f16 32 .post 128⟩ ∧
  decodeWord .s 0x00000C0481000000 = .ok ⟨.idle, 0, .acq 2 .d true 0⟩ ∧
  decodeWord .s 0x00000406D4000010 = .ok ⟨.idle, 0, .aadd 3 .d .u32 true false 16⟩ ∧
  decodeWord .c 0x0000297E5AC00389 = .ok ⟨.idle, 0, .st .b4 .d (.s 22) 56 (.s 11)⟩ ∧
  decodeWord .c 0x00002CFEB0138000 = .ok ⟨.idle, 0, .putc .tctl (.s 22)⟩ ∧
  decodeWord .c 0x6000008000000000 = .error .badTiming

/-- Decoding inverts encoding: every well-formed instruction of a cluster, with every operand and every timing, is read back from the
word and from the bytes that the encoder gives for it, and so are IDLE and the short parcels (R22, R23, R32, R33, R50, R51). -/
def Obligations.DecodeInvertsEncode : Prop :=
  (∀ (cl : Cluster) (lw : LongWord), lw.instr.wf = true → lw.instr.cluster = some cl →
    encode lw < 2 ^ 63 ∧ decodeWord cl (encode lw) = .ok lw ∧
    ∀ at_ : Nat, at_ < 29 → decodeBytes cl at_ (encodeBytes lw.tm lw.t lw.instr) = .ok lw.instr) ∧
  (∀ (cl : Cluster) (at_ : Nat) (tm : TMode) (t : BitVec 15),
    (∀ v : BitVec 5, (Instr.idle v).wf = true → decodeBytes cl at_ (encodeBytes tm t (.idle v)) = .ok (.idle v)) ∧
    (∀ (m : BitVec 10) (c : BitVec 5), (Instr.shortParcel m c cl).wf = true →
      decodeBytes cl at_ (encodeBytes tm t (.shortParcel m c cl)) = .ok (.shortParcel m c cl)))

/-- The machine's step runs the instruction that the decoder reads: with nothing else due in the cycle, the item of the one cluster
that issues is latched with its issue cycle, single-bit errors in what is fetched corrected, and, when that has come, step is exec of
the decoded instruction, then the issue's end; a coming event that is due is exec of its row, with the CRESIZEs that start in its cycle
before it, and so is an event that the state itself brings about, ahead of a fence that it comes before (R22, R25, R33, R121, R228). The order in which the things due in one cycle
are served is the model's reading (log entry 8). -/
def Obligations.StepRunsTheItem : Prop :=
  (∀ (s : State) (id : CoreId) (cl : Cluster) (w : Nat) (lw : LongWord) (i : Nat),
    s.requeue = s → s.inputDue = none → s.agendaDue = none → s.retested.stateEvent = none → s.issuer = some id →
    (s.core id).active cl = true → (∀ k, k ≠ cl → (s.core id).active k = false) → ((s.core id).stream .c).check = none →
    s.rendezvousFails id = none → (s.core id).issues = true →
    ((s.core id).stream cl).entering = false → ((s.core id).stream cl).latched = none →
    ((s.core id).stream cl).reach ≤ s.itemCycle id →
    decodeItem ((s.core id).stream cl).parcel (s.parcelsFrom id ((s.core id).stream cl).line ((s.core id).stream cl).parcel) = .ok (.long w) →
    decodeWord cl w = .ok lw → s.timing id cl w = .ok i → i ≤ s.itemCycle id →
    let u := (((s.acting id .c).correct (s.fetchPas id cl)).latch id cl i (.word w)).acting id cl
    step s = match exec lw.instr u with
      | .next t => .next (if t.raised.isSome || t.walked then t else t.afterIssue id true)
      | o => o) ∧
  (∀ (s : State) (p : Pending) (k : Nat) (t : State), s.requeue = s → s.inputDue = none → s.agendaDue = some (p, k) → s.beforeFence p = none →
    (∀ o, p.clk = .tl o → o = p.owner) →
    exec p.ev { s with agenda := s.agenda.eraseIdx k, cur := p.owner, curCl := .c, arg := p.arg, ord := p.ord, raised := none,
                       walked := false, away := none, soon := s.resizesNow } = .next t → step s = .next { t with soon := [] }) ∧
  (∀ (s : State) (id : CoreId) (ev : Instr) (arg : Arg) (t : State), s.requeue = s → s.inputDue = none →
    (s.agendaDue = none ∧ s.retested.stateEvent = some (id, ev, arg)) ∨
      (∃ p k, s.agendaDue = some (p, k) ∧ s.beforeFence p = some (id, ev, arg)) →
    exec ev { s with cur := id, curCl := .c, arg := arg, ord := s.seq, raised := none, walked := false, away := none,
                     soon := s.resizesNow } = .next t → step s = .next { t with soon := [] })

/-- Reset leaves what the spec states: no task on any core, bring-up at stage 0, 1.4 GHz, every function's registers 0, only power-on
to come; a task's context starts with its registers 0, its predicates all ones, its channels empty and its walk tables 0 with level
counts of 1 (R14, R20, R112, R177, R252, R383, R390, R393). The model's choices in it: that every byte of memory reads as 0 before it is
scrubbed (log entry 1), and the values of what the rules give no reset value, such as the functions' windows (log entry 9). -/
def Obligations.ResetLeavesStatedValues : Prop :=
  State.reset.MemOk ∧ (∀ pa, State.reset.mem.get pa = 0) ∧ State.reset.clock = 0 ∧
  State.reset.domain.stage = 0 ∧ State.reset.domain.mhz = 1400 ∧
  (∀ f, f < 16 → State.reset.fnOf f = HostFn.zero) ∧
  (∀ c, (State.reset.core c).task = none ∧ (State.reset.core c).heldBy = [] ∧ (State.reset.core c).corrected = 0) ∧
  State.reset.agenda.map (fun p => (p.due, p.ev)) = [(0, .powerOn)] ∧
  (∀ c, let x := (State.reset.core c).ctx
    (∀ r : Fin 32, x.c.s[r] = 0) ∧ (∀ r : Fin 16, x.c.h[r] = 0 ∧ x.x.v[r] = Vec.zero ∧ x.x.h[r] = Vec.zero ∧ x.l.a[r] = 0 ∧ x.st.b[r] = 0) ∧
    (∀ k : Fin 4, x.c.k[k] = 0 ∧ x.l.k[k] = 0 ∧ x.x.k[k] = 0 ∧ x.st.k[k] = 0) ∧
    (∀ p : Fin 8, x.x.p[p] = BitVec.allOnes 64) ∧ x.x.defq = [] ∧ (∀ ch : Fin 18, x.chan[ch] = []) ∧
    (∀ e : Fin 10, x.mat.shadow[e].a = 0 ∧ x.mat.shadow[e].b = 0 ∧ x.mat.shadow[e].n = (if e.val < 4 then 0 else 1)) ∧
    x.tau = 0 ∧ x.sys.tbase = 0 ∧ x.sys.tvec = 0) ∧
  ∃ t, exec .powerOn State.reset = .next t ∧ t.domain.stage = 0

/-- Every step keeps in canonical form each memory of the state: the memory of the domain, that of the host, and the bytes of the
staging areas. -/
def Obligations.StepKeepsMemOk : Prop := ∀ s t : State, s.MemOk → step s = .next t → t.MemOk

/-- The frame of an issue: whatever instruction a cluster issues, with its own effect or a stop, no byte of memory and no other core's
task or context changes at its issue, and, unless the task is lost, none of its own core's registers, accumulators, predicates and
loop counters: results land, and accesses perform, as the coming events that the statements on them describe (R15, R16, R104, R122). -/
def Obligations.IssueChangesNoRegister : Prop :=
  ∀ (i : Instr) (s t : State), i.cluster.isSome = true ∨ (∃ v, i = .idle v) ∨ (∃ m v cl, i = .shortParcel m v cl) →
    exec i s = .next t →
    t.mem = s.mem ∧ t.domain = s.domain ∧ t.clock = s.clock ∧
    (∀ id, id ≠ s.cur → (t.core id).ctx = (s.core id).ctx ∧ (t.core id).task = (s.core id).task) ∧
    ((t.core s.cur).task.isSome = s.me.task.isSome →
      (t.core s.cur).ctx.c = s.me.ctx.c ∧ (t.core s.cur).ctx.l = s.me.ctx.l ∧ (t.core s.cur).ctx.st = s.me.ctx.st ∧
      (t.core s.cur).ctx.acc = s.me.ctx.acc ∧ (t.core s.cur).ctx.x.v = s.me.ctx.x.v ∧ (t.core s.cur).ctx.x.h = s.me.ctx.x.h ∧
      (t.core s.cur).ctx.x.p = s.me.ctx.x.p ∧ (t.core s.cur).ctx.x.k = s.me.ctx.x.k ∧ (t.core s.cur).ctx.tau = s.me.ctx.tau)
end

