-- ==== Sys2Proof/Laws/State.lean ====
section
/-! SUPPORT. The small lemmas of the state: what each named update of State, of a core and of a context leaves alone, and
that a core written is the core read. -/

namespace Sys2Proof.Machine

open Sys2Proof

/-! ### A core written is the core read -/

theorem find_setCoreIn_self (l : List (CoreId × Core)) (c : CoreId) (v : Core) :
    (setCoreIn l c v).find? (fun e => e.1 == c) = some (c, v) := by
  induction l with
  | nil => simp [setCoreIn]
  | cons e rest ih =>
    obtain ⟨a, b⟩ := e
    simp only [setCoreIn]
    split
    · simp
    · split
      · simp
      · rename_i h _
        simp [h, ih]

theorem find_setCoreIn_other (l : List (CoreId × Core)) (c d : CoreId) (v : Core) (h : d ≠ c) :
    (setCoreIn l c v).find? (fun e => e.1 == d) = l.find? (fun e => e.1 == d) := by
  have hc : (c == d) = false := by simpa using fun e : c = d => h e.symm
  induction l with
  | nil => simp [setCoreIn, hc]
  | cons e rest ih =>
    obtain ⟨a, b⟩ := e
    simp only [setCoreIn]
    split
    · rename_i ha
      subst ha
      simp [hc]
    · split
      · simp [hc]
      · simp [List.find?_cons, ih]

@[simp] theorem State.core_setCore_self (s : State) (c : CoreId) (v : Core) : (s.setCore c v).core c = v := by
  simp [State.core, State.setCore, find_setCoreIn_self]

theorem State.core_setCore_other (s : State) (c d : CoreId) (v : Core) (h : d ≠ c) : (s.setCore c v).core d = s.core d := by
  simp [State.core, State.setCore, find_setCoreIn_other _ _ _ _ h]

@[simp] theorem State.core_modCore_self (s : State) (c : CoreId) (f : Core → Core) :
    (s.modCore c f).core c = f (s.core c) := by
  simp [State.modCore]

theorem State.core_modCore_other (s : State) (c d : CoreId) (f : Core → Core) (h : d ≠ c) :
    (s.modCore c f).core d = s.core d := by
  simp [State.modCore, State.core_setCore_other _ _ _ _ h]

theorem State.core_congr {s t : State} (h : s.cores = t.cores) (c : CoreId) : s.core c = t.core c := by
  simp [State.core, h]

/-! ### What the updates of State leave alone -/

@[simp] theorem State.clock_setCore (s : State) (c : CoreId) (v : Core) : (s.setCore c v).clock = s.clock := rfl
@[simp] theorem State.cur_setCore (s : State) (c : CoreId) (v : Core) : (s.setCore c v).cur = s.cur := rfl
@[simp] theorem State.curCl_setCore (s : State) (c : CoreId) (v : Core) : (s.setCore c v).curCl = s.curCl := rfl
@[simp] theorem State.arg_setCore (s : State) (c : CoreId) (v : Core) : (s.setCore c v).arg = s.arg := rfl
@[simp] theorem State.ord_setCore (s : State) (c : CoreId) (v : Core) : (s.setCore c v).ord = s.ord := rfl
@[simp] theorem State.seq_setCore (s : State) (c : CoreId) (v : Core) : (s.setCore c v).seq = s.seq := rfl
@[simp] theorem State.ctr_setCore (s : State) (c : CoreId) (v : Core) : (s.setCore c v).ctr = s.ctr := rfl
@[simp] theorem State.mem_setCore (s : State) (c : CoreId) (v : Core) : (s.setCore c v).mem = s.mem := rfl
@[simp] theorem State.ledger_setCore (s : State) (c : CoreId) (v : Core) : (s.setCore c v).ledger = s.ledger := rfl
@[simp] theorem State.poison_setCore (s : State) (c : CoreId) (v : Core) : (s.setCore c v).poison = s.poison := rfl
@[simp] theorem State.soft_setCore (s : State) (c : CoreId) (v : Core) : (s.setCore c v).soft = s.soft := rfl
@[simp] theorem State.agenda_setCore (s : State) (c : CoreId) (v : Core) : (s.setCore c v).agenda = s.agenda := rfl
@[simp] theorem State.jobs_setCore (s : State) (c : CoreId) (v : Core) : (s.setCore c v).jobs = s.jobs := rfl
@[simp] theorem State.holds_setCore (s : State) (c : CoreId) (v : Core) : (s.setCore c v).holds = s.holds := rfl
@[simp] theorem State.raised_setCore (s : State) (c : CoreId) (v : Core) : (s.setCore c v).raised = s.raised := rfl
@[simp] theorem State.walked_setCore (s : State) (c : CoreId) (v : Core) : (s.setCore c v).walked = s.walked := rfl
@[simp] theorem State.away_setCore (s : State) (c : CoreId) (v : Core) : (s.setCore c v).away = s.away := rfl
@[simp] theorem State.faultq_setCore (s : State) (c : CoreId) (v : Core) : (s.setCore c v).faultq = s.faultq := rfl
@[simp] theorem State.modules_setCore (s : State) (c : CoreId) (v : Core) : (s.setCore c v).modules = s.modules := rfl
@[simp] theorem State.flat_setCore (s : State) (c : CoreId) (v : Core) : (s.setCore c v).flat = s.flat := rfl
@[simp] theorem State.scrubs_setCore (s : State) (c : CoreId) (v : Core) : (s.setCore c v).scrubs = s.scrubs := rfl
@[simp] theorem State.sched_setCore (s : State) (c : CoreId) (v : Core) : (s.setCore c v).sched = s.sched := rfl
@[simp] theorem State.chunks_setCore (s : State) (c : CoreId) (v : Core) : (s.setCore c v).chunks = s.chunks := rfl
@[simp] theorem State.rings_setCore (s : State) (c : CoreId) (v : Core) : (s.setCore c v).rings = s.rings := rfl
@[simp] theorem State.ports_setCore (s : State) (c : CoreId) (v : Core) : (s.setCore c v).ports = s.ports := rfl
@[simp] theorem State.domain_setCore (s : State) (c : CoreId) (v : Core) : (s.setCore c v).domain = s.domain := rfl
@[simp] theorem State.inputs_setCore (s : State) (c : CoreId) (v : Core) : (s.setCore c v).inputs = s.inputs := rfl
@[simp] theorem State.soon_setCore (s : State) (c : CoreId) (v : Core) : (s.setCore c v).soon = s.soon := rfl
@[simp] theorem State.staging_setCore (s : State) (c : CoreId) (v : Core) : (s.setCore c v).staging = s.staging := rfl
@[simp] theorem State.clock_modCore (s : State) (c : CoreId) (f : Core → Core) : (s.modCore c f).clock = s.clock := rfl
@[simp] theorem State.cur_modCore (s : State) (c : CoreId) (f : Core → Core) : (s.modCore c f).cur = s.cur := rfl
@[simp] theorem State.curCl_modCore (s : State) (c : CoreId) (f : Core → Core) : (s.modCore c f).curCl = s.curCl := rfl
@[simp] theorem State.arg_modCore (s : State) (c : CoreId) (f : Core → Core) : (s.modCore c f).arg = s.arg := rfl
@[simp] theorem State.ord_modCore (s : State) (c : CoreId) (f : Core → Core) : (s.modCore c f).ord = s.ord := rfl
@[simp] theorem State.seq_modCore (s : State) (c : CoreId) (f : Core → Core) : (s.modCore c f).seq = s.seq := rfl
@[simp] theorem State.ctr_modCore (s : State) (c : CoreId) (f : Core → Core) : (s.modCore c f).ctr = s.ctr := rfl
@[simp] theorem State.mem_modCore (s : State) (c : CoreId) (f : Core → Core) : (s.modCore c f).mem = s.mem := rfl
@[simp] theorem State.ledger_modCore (s : State) (c : CoreId) (f : Core → Core) : (s.modCore c f).ledger = s.ledger := rfl
@[simp] theorem State.poison_modCore (s : State) (c : CoreId) (f : Core → Core) : (s.modCore c f).poison = s.poison := rfl
@[simp] theorem State.soft_modCore (s : State) (c : CoreId) (f : Core → Core) : (s.modCore c f).soft = s.soft := rfl
@[simp] theorem State.agenda_modCore (s : State) (c : CoreId) (f : Core → Core) : (s.modCore c f).agenda = s.agenda := rfl
@[simp] theorem State.jobs_modCore (s : State) (c : CoreId) (f : Core → Core) : (s.modCore c f).jobs = s.jobs := rfl
@[simp] theorem State.holds_modCore (s : State) (c : CoreId) (f : Core → Core) : (s.modCore c f).holds = s.holds := rfl
@[simp] theorem State.raised_modCore (s : State) (c : CoreId) (f : Core → Core) : (s.modCore c f).raised = s.raised := rfl
@[simp] theorem State.walked_modCore (s : State) (c : CoreId) (f : Core → Core) : (s.modCore c f).walked = s.walked := rfl
@[simp] theorem State.away_modCore (s : State) (c : CoreId) (f : Core → Core) : (s.modCore c f).away = s.away := rfl
@[simp] theorem State.faultq_modCore (s : State) (c : CoreId) (f : Core → Core) : (s.modCore c f).faultq = s.faultq := rfl
@[simp] theorem State.modules_modCore (s : State) (c : CoreId) (f : Core → Core) : (s.modCore c f).modules = s.modules := rfl
@[simp] theorem State.flat_modCore (s : State) (c : CoreId) (f : Core → Core) : (s.modCore c f).flat = s.flat := rfl
@[simp] theorem State.scrubs_modCore (s : State) (c : CoreId) (f : Core → Core) : (s.modCore c f).scrubs = s.scrubs := rfl
@[simp] theorem State.sched_modCore (s : State) (c : CoreId) (f : Core → Core) : (s.modCore c f).sched = s.sched := rfl
@[simp] theorem State.chunks_modCore (s : State) (c : CoreId) (f : Core → Core) : (s.modCore c f).chunks = s.chunks := rfl
@[simp] theorem State.rings_modCore (s : State) (c : CoreId) (f : Core → Core) : (s.modCore c f).rings = s.rings := rfl
@[simp] theorem State.ports_modCore (s : State) (c : CoreId) (f : Core → Core) : (s.modCore c f).ports = s.ports := rfl
@[simp] theorem State.domain_modCore (s : State) (c : CoreId) (f : Core → Core) : (s.modCore c f).domain = s.domain := rfl
@[simp] theorem State.inputs_modCore (s : State) (c : CoreId) (f : Core → Core) : (s.modCore c f).inputs = s.inputs := rfl
@[simp] theorem State.soon_modCore (s : State) (c : CoreId) (f : Core → Core) : (s.modCore c f).soon = s.soon := rfl
@[simp] theorem State.staging_modCore (s : State) (c : CoreId) (f : Core → Core) : (s.modCore c f).staging = s.staging := rfl
@[simp] theorem State.clock_bump (s : State) : s.bump.clock = s.clock := rfl
@[simp] theorem State.cur_bump (s : State) : s.bump.cur = s.cur := rfl
@[simp] theorem State.curCl_bump (s : State) : s.bump.curCl = s.curCl := rfl
@[simp] theorem State.arg_bump (s : State) : s.bump.arg = s.arg := rfl
@[simp] theorem State.ord_bump (s : State) : s.bump.ord = s.ord := rfl
@[simp] theorem State.ctr_bump (s : State) : s.bump.ctr = s.ctr := rfl
@[simp] theorem State.cores_bump (s : State) : s.bump.cores = s.cores := rfl
@[simp] theorem State.mem_bump (s : State) : s.bump.mem = s.mem := rfl
@[simp] theorem State.ledger_bump (s : State) : s.bump.ledger = s.ledger := rfl
@[simp] theorem State.poison_bump (s : State) : s.bump.poison = s.poison := rfl
@[simp] theorem State.soft_bump (s : State) : s.bump.soft = s.soft := rfl
@[simp] theorem State.agenda_bump (s : State) : s.bump.agenda = s.agenda := rfl
@[simp] theorem State.jobs_bump (s : State) : s.bump.jobs = s.jobs := rfl
@[simp] theorem State.holds_bump (s : State) : s.bump.holds = s.holds := rfl
@[simp] theorem State.raised_bump (s : State) : s.bump.raised = s.raised := rfl
@[simp] theorem State.walked_bump (s : State) : s.bump.walked = s.walked := rfl
@[simp] theorem State.away_bump (s : State) : s.bump.away = s.away := rfl
@[simp] theorem State.faultq_bump (s : State) : s.bump.faultq = s.faultq := rfl
@[simp] theorem State.modules_bump (s : State) : s.bump.modules = s.modules := rfl
@[simp] theorem State.flat_bump (s : State) : s.bump.flat = s.flat := rfl
@[simp] theorem State.scrubs_bump (s : State) : s.bump.scrubs = s.scrubs := rfl
@[simp] theorem State.sched_bump (s : State) : s.bump.sched = s.sched := rfl
@[simp] theorem State.chunks_bump (s : State) : s.bump.chunks = s.chunks := rfl
@[simp] theorem State.rings_bump (s : State) : s.bump.rings = s.rings := rfl
@[simp] theorem State.ports_bump (s : State) : s.bump.ports = s.ports := rfl
@[simp] theorem State.domain_bump (s : State) : s.bump.domain = s.domain := rfl
@[simp] theorem State.inputs_bump (s : State) : s.bump.inputs = s.inputs := rfl
@[simp] theorem State.soon_bump (s : State) : s.bump.soon = s.soon := rfl
@[simp] theorem State.staging_bump (s : State) : s.bump.staging = s.staging := rfl
@[simp] theorem State.clock_tick (s : State) : s.tick.clock = s.clock := rfl
@[simp] theorem State.cur_tick (s : State) : s.tick.cur = s.cur := rfl
@[simp] theorem State.curCl_tick (s : State) : s.tick.curCl = s.curCl := rfl
@[simp] theorem State.arg_tick (s : State) : s.tick.arg = s.arg := rfl
@[simp] theorem State.ord_tick (s : State) : s.tick.ord = s.ord := rfl
@[simp] theorem State.seq_tick (s : State) : s.tick.seq = s.seq := rfl
@[simp] theorem State.cores_tick (s : State) : s.tick.cores = s.cores := rfl
@[simp] theorem State.mem_tick (s : State) : s.tick.mem = s.mem := rfl
@[simp] theorem State.ledger_tick (s : State) : s.tick.ledger = s.ledger := rfl
@[simp] theorem State.poison_tick (s : State) : s.tick.poison = s.poison := rfl
@[simp] theorem State.soft_tick (s : State) : s.tick.soft = s.soft := rfl
@[simp] theorem State.agenda_tick (s : State) : s.tick.agenda = s.agenda := rfl
@[simp] theorem State.jobs_tick (s : State) : s.tick.jobs = s.jobs := rfl
@[simp] theorem State.holds_tick (s : State) : s.tick.holds = s.holds := rfl
@[simp] theorem State.raised_tick (s : State) : s.tick.raised = s.raised := rfl
@[simp] theorem State.walked_tick (s : State) : s.tick.walked = s.walked := rfl
@[simp] theorem State.away_tick (s : State) : s.tick.away = s.away := rfl
@[simp] theorem State.faultq_tick (s : State) : s.tick.faultq = s.faultq := rfl
@[simp] theorem State.modules_tick (s : State) : s.tick.modules = s.modules := rfl
@[simp] theorem State.flat_tick (s : State) : s.tick.flat = s.flat := rfl
@[simp] theorem State.scrubs_tick (s : State) : s.tick.scrubs = s.scrubs := rfl
@[simp] theorem State.sched_tick (s : State) : s.tick.sched = s.sched := rfl
@[simp] theorem State.chunks_tick (s : State) : s.tick.chunks = s.chunks := rfl
@[simp] theorem State.rings_tick (s : State) : s.tick.rings = s.rings := rfl
@[simp] theorem State.ports_tick (s : State) : s.tick.ports = s.ports := rfl
@[simp] theorem State.domain_tick (s : State) : s.tick.domain = s.domain := rfl
@[simp] theorem State.inputs_tick (s : State) : s.tick.inputs = s.inputs := rfl
@[simp] theorem State.soon_tick (s : State) : s.tick.soon = s.soon := rfl
@[simp] theorem State.staging_tick (s : State) : s.tick.staging = s.staging := rfl
@[simp] theorem State.clock_schedule (s : State) (p : Pending) : (s.schedule p).clock = s.clock := rfl
@[simp] theorem State.cur_schedule (s : State) (p : Pending) : (s.schedule p).cur = s.cur := rfl
@[simp] theorem State.curCl_schedule (s : State) (p : Pending) : (s.schedule p).curCl = s.curCl := rfl
@[simp] theorem State.arg_schedule (s : State) (p : Pending) : (s.schedule p).arg = s.arg := rfl
@[simp] theorem State.ord_schedule (s : State) (p : Pending) : (s.schedule p).ord = s.ord := rfl
@[simp] theorem State.seq_schedule (s : State) (p : Pending) : (s.schedule p).seq = s.seq := rfl
@[simp] theorem State.ctr_schedule (s : State) (p : Pending) : (s.schedule p).ctr = s.ctr := rfl
@[simp] theorem State.cores_schedule (s : State) (p : Pending) : (s.schedule p).cores = s.cores := rfl
@[simp] theorem State.mem_schedule (s : State) (p : Pending) : (s.schedule p).mem = s.mem := rfl
@[simp] theorem State.ledger_schedule (s : State) (p : Pending) : (s.schedule p).ledger = s.ledger := rfl
@[simp] theorem State.poison_schedule (s : State) (p : Pending) : (s.schedule p).poison = s.poison := rfl
@[simp] theorem State.soft_schedule (s : State) (p : Pending) : (s.schedule p).soft = s.soft := rfl
@[simp] theorem State.jobs_schedule (s : State) (p : Pending) : (s.schedule p).jobs = s.jobs := rfl
@[simp] theorem State.holds_schedule (s : State) (p : Pending) : (s.schedule p).holds = s.holds := rfl
@[simp] theorem State.raised_schedule (s : State) (p : Pending) : (s.schedule p).raised = s.raised := rfl
@[simp] theorem State.walked_schedule (s : State) (p : Pending) : (s.schedule p).walked = s.walked := rfl
@[simp] theorem State.away_schedule (s : State) (p : Pending) : (s.schedule p).away = s.away := rfl
@[simp] theorem State.faultq_schedule (s : State) (p : Pending) : (s.schedule p).faultq = s.faultq := rfl
@[simp] theorem State.modules_schedule (s : State) (p : Pending) : (s.schedule p).modules = s.modules := rfl
@[simp] theorem State.flat_schedule (s : State) (p : Pending) : (s.schedule p).flat = s.flat := rfl
@[simp] theorem State.scrubs_schedule (s : State) (p : Pending) : (s.schedule p).scrubs = s.scrubs := rfl
@[simp] theorem State.sched_schedule (s : State) (p : Pending) : (s.schedule p).sched = s.sched := rfl
@[simp] theorem State.chunks_schedule (s : State) (p : Pending) : (s.schedule p).chunks = s.chunks := rfl
@[simp] theorem State.rings_schedule (s : State) (p : Pending) : (s.schedule p).rings = s.rings := rfl
@[simp] theorem State.ports_schedule (s : State) (p : Pending) : (s.schedule p).ports = s.ports := rfl
@[simp] theorem State.domain_schedule (s : State) (p : Pending) : (s.schedule p).domain = s.domain := rfl
@[simp] theorem State.inputs_schedule (s : State) (p : Pending) : (s.schedule p).inputs = s.inputs := rfl
@[simp] theorem State.soon_schedule (s : State) (p : Pending) : (s.schedule p).soon = s.soon := rfl
@[simp] theorem State.staging_schedule (s : State) (p : Pending) : (s.schedule p).staging = s.staging := rfl
@[simp] theorem State.clock_scheduleDom (s : State) (o : CoreId) (d : Nat) (ev : Instr) (arg : Arg) : (s.scheduleDom o d ev arg).clock = s.clock := rfl
@[simp] theorem State.cur_scheduleDom (s : State) (o : CoreId) (d : Nat) (ev : Instr) (arg : Arg) : (s.scheduleDom o d ev arg).cur = s.cur := rfl
@[simp] theorem State.curCl_scheduleDom (s : State) (o : CoreId) (d : Nat) (ev : Instr) (arg : Arg) : (s.scheduleDom o d ev arg).curCl = s.curCl := rfl
@[simp] theorem State.arg_scheduleDom (s : State) (o : CoreId) (d : Nat) (ev : Instr) (arg : Arg) : (s.scheduleDom o d ev arg).arg = s.arg := rfl
@[simp] theorem State.ord_scheduleDom (s : State) (o : CoreId) (d : Nat) (ev : Instr) (arg : Arg) : (s.scheduleDom o d ev arg).ord = s.ord := rfl
@[simp] theorem State.ctr_scheduleDom (s : State) (o : CoreId) (d : Nat) (ev : Instr) (arg : Arg) : (s.scheduleDom o d ev arg).ctr = s.ctr := rfl
@[simp] theorem State.cores_scheduleDom (s : State) (o : CoreId) (d : Nat) (ev : Instr) (arg : Arg) : (s.scheduleDom o d ev arg).cores = s.cores := rfl
@[simp] theorem State.mem_scheduleDom (s : State) (o : CoreId) (d : Nat) (ev : Instr) (arg : Arg) : (s.scheduleDom o d ev arg).mem = s.mem := rfl
@[simp] theorem State.ledger_scheduleDom (s : State) (o : CoreId) (d : Nat) (ev : Instr) (arg : Arg) : (s.scheduleDom o d ev arg).ledger = s.ledger := rfl
@[simp] theorem State.poison_scheduleDom (s : State) (o : CoreId) (d : Nat) (ev : Instr) (arg : Arg) : (s.scheduleDom o d ev arg).poison = s.poison := rfl
@[simp] theorem State.soft_scheduleDom (s : State) (o : CoreId) (d : Nat) (ev : Instr) (arg : Arg) : (s.scheduleDom o d ev arg).soft = s.soft := rfl
@[simp] theorem State.jobs_scheduleDom (s : State) (o : CoreId) (d : Nat) (ev : Instr) (arg : Arg) : (s.scheduleDom o d ev arg).jobs = s.jobs := rfl
@[simp] theorem State.holds_scheduleDom (s : State) (o : CoreId) (d : Nat) (ev : Instr) (arg : Arg) : (s.scheduleDom o d ev arg).holds = s.holds := rfl
@[simp] theorem State.raised_scheduleDom (s : State) (o : CoreId) (d : Nat) (ev : Instr) (arg : Arg) : (s.scheduleDom o d ev arg).raised = s.raised := rfl
@[simp] theorem State.walked_scheduleDom (s : State) (o : CoreId) (d : Nat) (ev : Instr) (arg : Arg) : (s.scheduleDom o d ev arg).walked = s.walked := rfl
@[simp] theorem State.away_scheduleDom (s : State) (o : CoreId) (d : Nat) (ev : Instr) (arg : Arg) : (s.scheduleDom o d ev arg).away = s.away := rfl
@[simp] theorem State.faultq_scheduleDom (s : State) (o : CoreId) (d : Nat) (ev : Instr) (arg : Arg) : (s.scheduleDom o d ev arg).faultq = s.faultq := rfl
@[simp] theorem State.modules_scheduleDom (s : State) (o : CoreId) (d : Nat) (ev : Instr) (arg : Arg) : (s.scheduleDom o d ev arg).modules = s.modules := rfl
@[simp] theorem State.flat_scheduleDom (s : State) (o : CoreId) (d : Nat) (ev : Instr) (arg : Arg) : (s.scheduleDom o d ev arg).flat = s.flat := rfl
@[simp] theorem State.scrubs_scheduleDom (s : State) (o : CoreId) (d : Nat) (ev : Instr) (arg : Arg) : (s.scheduleDom o d ev arg).scrubs = s.scrubs := rfl
@[simp] theorem State.sched_scheduleDom (s : State) (o : CoreId) (d : Nat) (ev : Instr) (arg : Arg) : (s.scheduleDom o d ev arg).sched = s.sched := rfl
@[simp] theorem State.chunks_scheduleDom (s : State) (o : CoreId) (d : Nat) (ev : Instr) (arg : Arg) : (s.scheduleDom o d ev arg).chunks = s.chunks := rfl
@[simp] theorem State.rings_scheduleDom (s : State) (o : CoreId) (d : Nat) (ev : Instr) (arg : Arg) : (s.scheduleDom o d ev arg).rings = s.rings := rfl
@[simp] theorem State.ports_scheduleDom (s : State) (o : CoreId) (d : Nat) (ev : Instr) (arg : Arg) : (s.scheduleDom o d ev arg).ports = s.ports := rfl
@[simp] theorem State.domain_scheduleDom (s : State) (o : CoreId) (d : Nat) (ev : Instr) (arg : Arg) : (s.scheduleDom o d ev arg).domain = s.domain := rfl
@[simp] theorem State.inputs_scheduleDom (s : State) (o : CoreId) (d : Nat) (ev : Instr) (arg : Arg) : (s.scheduleDom o d ev arg).inputs = s.inputs := rfl
@[simp] theorem State.soon_scheduleDom (s : State) (o : CoreId) (d : Nat) (ev : Instr) (arg : Arg) : (s.scheduleDom o d ev arg).soon = s.soon := rfl
@[simp] theorem State.staging_scheduleDom (s : State) (o : CoreId) (d : Nat) (ev : Instr) (arg : Arg) : (s.scheduleDom o d ev arg).staging = s.staging := rfl

@[simp] theorem State.seq_bump (s : State) : s.bump.seq = s.seq + 1 := rfl
@[simp] theorem State.ctr_tick (s : State) : s.tick.ctr = s.ctr + 1 := rfl
@[simp] theorem State.agenda_schedule (s : State) (p : Pending) : (s.schedule p).agenda = s.agenda ++ [p] := rfl
@[simp] theorem State.core_bump (s : State) (c : CoreId) : s.bump.core c = s.core c := rfl
@[simp] theorem State.core_tick (s : State) (c : CoreId) : s.tick.core c = s.core c := rfl
@[simp] theorem State.core_schedule (s : State) (p : Pending) (c : CoreId) : (s.schedule p).core c = s.core c := rfl
@[simp] theorem State.core_scheduleDom (s : State) (o : CoreId) (d : Nat) (ev : Instr) (arg : Arg) (c : CoreId) :
    (s.scheduleDom o d ev arg).core c = s.core c := rfl

/-! ### What the updates of a core leave alone -/

@[simp] theorem Core.ptroot_modCtx (c : Core) (f : Ctx → Ctx) : (c.modCtx f).ptroot = c.ptroot := rfl
@[simp] theorem Core.tlb_modCtx (c : Core) (f : Ctx → Ctx) : (c.modCtx f).tlb = c.tlb := rfl
@[simp] theorem Core.ways_modCtx (c : Core) (f : Ctx → Ctx) : (c.modCtx f).ways = c.ways := rfl
@[simp] theorem Core.cresizes_modCtx (c : Core) (f : Ctx → Ctx) : (c.modCtx f).cresizes = c.cresizes := rfl
@[simp] theorem Core.corrected_modCtx (c : Core) (f : Ctx → Ctx) : (c.modCtx f).corrected = c.corrected := rfl
@[simp] theorem Core.scrubBase_modCtx (c : Core) (f : Ctx → Ctx) : (c.modCtx f).scrubBase = c.scrubBase := rfl
@[simp] theorem Core.wear_modCtx (c : Core) (f : Ctx → Ctx) : (c.modCtx f).wear = c.wear := rfl
@[simp] theorem Core.spare_modCtx (c : Core) (f : Ctx → Ctx) : (c.modCtx f).spare = c.spare := rfl
@[simp] theorem Core.copyUntil_modCtx (c : Core) (f : Ctx → Ctx) : (c.modCtx f).copyUntil = c.copyUntil := rfl
@[simp] theorem Core.heldBy_modCtx (c : Core) (f : Ctx → Ctx) : (c.modCtx f).heldBy = c.heldBy := rfl
@[simp] theorem Core.landing_modCtx (c : Core) (f : Ctx → Ctx) : (c.modCtx f).landing = c.landing := rfl
@[simp] theorem Core.resized_modCtx (c : Core) (f : Ctx → Ctx) : (c.modCtx f).resized = c.resized := rfl
@[simp] theorem Core.spares_modCtx (c : Core) (f : Ctx → Ctx) : (c.modCtx f).spares = c.spares := rfl
@[simp] theorem Core.rows_modCtx (c : Core) (f : Ctx → Ctx) : (c.modCtx f).rows = c.rows := rfl
@[simp] theorem Core.task_modCtx (c : Core) (f : Ctx → Ctx) : (c.modCtx f).task = c.task := rfl
@[simp] theorem Core.ctx_modCtx (c : Core) (f : Ctx → Ctx) : (c.modCtx f).ctx = f c.ctx := rfl
@[simp] theorem Core.c_setStream (c : Core) (k : Cluster) (t : Stream) : (c.setStream k t).ctx.c = c.ctx.c := rfl
@[simp] theorem Core.x_setStream (c : Core) (k : Cluster) (t : Stream) : (c.setStream k t).ctx.x = c.ctx.x := rfl
@[simp] theorem Core.l_setStream (c : Core) (k : Cluster) (t : Stream) : (c.setStream k t).ctx.l = c.ctx.l := rfl
@[simp] theorem Core.st_setStream (c : Core) (k : Cluster) (t : Stream) : (c.setStream k t).ctx.st = c.ctx.st := rfl
@[simp] theorem Core.acc_setStream (c : Core) (k : Cluster) (t : Stream) : (c.setStream k t).ctx.acc = c.ctx.acc := rfl
@[simp] theorem Core.moulds_setStream (c : Core) (k : Cluster) (t : Stream) : (c.setStream k t).ctx.moulds = c.ctx.moulds := rfl
@[simp] theorem Core.stale_setStream (c : Core) (k : Cluster) (t : Stream) : (c.setStream k t).ctx.stale = c.ctx.stale := rfl
@[simp] theorem Core.copy_setStream (c : Core) (k : Cluster) (t : Stream) : (c.setStream k t).ctx.copy = c.ctx.copy := rfl
@[simp] theorem Core.mat_setStream (c : Core) (k : Cluster) (t : Stream) : (c.setStream k t).ctx.mat = c.ctx.mat := rfl
@[simp] theorem Core.castq_setStream (c : Core) (k : Cluster) (t : Stream) : (c.setStream k t).ctx.castq = c.ctx.castq := rfl
@[simp] theorem Core.attnFails_setStream (c : Core) (k : Cluster) (t : Stream) : (c.setStream k t).ctx.attnFails = c.ctx.attnFails := rfl
@[simp] theorem Core.collFails_setStream (c : Core) (k : Cluster) (t : Stream) : (c.setStream k t).ctx.collFails = c.ctx.collFails := rfl
@[simp] theorem Core.mloads_setStream (c : Core) (k : Cluster) (t : Stream) : (c.setStream k t).ctx.mloads = c.ctx.mloads := rfl
@[simp] theorem Core.sys_setStream (c : Core) (k : Cluster) (t : Stream) : (c.setStream k t).ctx.sys = c.ctx.sys := rfl
@[simp] theorem Core.joined_setStream (c : Core) (k : Cluster) (t : Stream) : (c.setStream k t).ctx.joined = c.ctx.joined := rfl
@[simp] theorem Core.tau_setStream (c : Core) (k : Cluster) (t : Stream) : (c.setStream k t).ctx.tau = c.ctx.tau := rfl
@[simp] theorem Core.lag_setStream (c : Core) (k : Cluster) (t : Stream) : (c.setStream k t).ctx.lag = c.ctx.lag := rfl
@[simp] theorem Core.pause_setStream (c : Core) (k : Cluster) (t : Stream) : (c.setStream k t).ctx.pause = c.ctx.pause := rfl
@[simp] theorem Core.found_setStream (c : Core) (k : Cluster) (t : Stream) : (c.setStream k t).ctx.found = c.ctx.found := rfl
@[simp] theorem Core.walkFail_setStream (c : Core) (k : Cluster) (t : Stream) : (c.setStream k t).ctx.walkFail = c.ctx.walkFail := rfl
@[simp] theorem Core.retry_setStream (c : Core) (k : Cluster) (t : Stream) : (c.setStream k t).ctx.retry = c.ctx.retry := rfl
@[simp] theorem Core.report_setStream (c : Core) (k : Cluster) (t : Stream) : (c.setStream k t).ctx.report = c.ctx.report := rfl
@[simp] theorem Core.trapped_setStream (c : Core) (k : Cluster) (t : Stream) : (c.setStream k t).ctx.trapped = c.ctx.trapped := rfl
@[simp] theorem Core.drain_setStream (c : Core) (k : Cluster) (t : Stream) : (c.setStream k t).ctx.drain = c.ctx.drain := rfl
@[simp] theorem Core.markers_setStream (c : Core) (k : Cluster) (t : Stream) : (c.setStream k t).ctx.markers = c.ctx.markers := rfl
@[simp] theorem Core.chan_setStream (c : Core) (k : Cluster) (t : Stream) : (c.setStream k t).ctx.chan = c.ctx.chan := rfl
@[simp] theorem Core.c_setChan (c : Core) (k : Fin 18) (es : List ChanEntry) : (c.setChan k es).ctx.c = c.ctx.c := rfl
@[simp] theorem Core.x_setChan (c : Core) (k : Fin 18) (es : List ChanEntry) : (c.setChan k es).ctx.x = c.ctx.x := rfl
@[simp] theorem Core.l_setChan (c : Core) (k : Fin 18) (es : List ChanEntry) : (c.setChan k es).ctx.l = c.ctx.l := rfl
@[simp] theorem Core.st_setChan (c : Core) (k : Fin 18) (es : List ChanEntry) : (c.setChan k es).ctx.st = c.ctx.st := rfl
@[simp] theorem Core.acc_setChan (c : Core) (k : Fin 18) (es : List ChanEntry) : (c.setChan k es).ctx.acc = c.ctx.acc := rfl
@[simp] theorem Core.moulds_setChan (c : Core) (k : Fin 18) (es : List ChanEntry) : (c.setChan k es).ctx.moulds = c.ctx.moulds := rfl
@[simp] theorem Core.stale_setChan (c : Core) (k : Fin 18) (es : List ChanEntry) : (c.setChan k es).ctx.stale = c.ctx.stale := rfl
@[simp] theorem Core.copy_setChan (c : Core) (k : Fin 18) (es : List ChanEntry) : (c.setChan k es).ctx.copy = c.ctx.copy := rfl
@[simp] theorem Core.mat_setChan (c : Core) (k : Fin 18) (es : List ChanEntry) : (c.setChan k es).ctx.mat = c.ctx.mat := rfl
@[simp] theorem Core.castq_setChan (c : Core) (k : Fin 18) (es : List ChanEntry) : (c.setChan k es).ctx.castq = c.ctx.castq := rfl
@[simp] theorem Core.attnFails_setChan (c : Core) (k : Fin 18) (es : List ChanEntry) : (c.setChan k es).ctx.attnFails = c.ctx.attnFails := rfl
@[simp] theorem Core.collFails_setChan (c : Core) (k : Fin 18) (es : List ChanEntry) : (c.setChan k es).ctx.collFails = c.ctx.collFails := rfl
@[simp] theorem Core.mloads_setChan (c : Core) (k : Fin 18) (es : List ChanEntry) : (c.setChan k es).ctx.mloads = c.ctx.mloads := rfl
@[simp] theorem Core.sys_setChan (c : Core) (k : Fin 18) (es : List ChanEntry) : (c.setChan k es).ctx.sys = c.ctx.sys := rfl
@[simp] theorem Core.joined_setChan (c : Core) (k : Fin 18) (es : List ChanEntry) : (c.setChan k es).ctx.joined = c.ctx.joined := rfl
@[simp] theorem Core.tau_setChan (c : Core) (k : Fin 18) (es : List ChanEntry) : (c.setChan k es).ctx.tau = c.ctx.tau := rfl
@[simp] theorem Core.lag_setChan (c : Core) (k : Fin 18) (es : List ChanEntry) : (c.setChan k es).ctx.lag = c.ctx.lag := rfl
@[simp] theorem Core.pause_setChan (c : Core) (k : Fin 18) (es : List ChanEntry) : (c.setChan k es).ctx.pause = c.ctx.pause := rfl
@[simp] theorem Core.found_setChan (c : Core) (k : Fin 18) (es : List ChanEntry) : (c.setChan k es).ctx.found = c.ctx.found := rfl
@[simp] theorem Core.walkFail_setChan (c : Core) (k : Fin 18) (es : List ChanEntry) : (c.setChan k es).ctx.walkFail = c.ctx.walkFail := rfl
@[simp] theorem Core.retry_setChan (c : Core) (k : Fin 18) (es : List ChanEntry) : (c.setChan k es).ctx.retry = c.ctx.retry := rfl
@[simp] theorem Core.report_setChan (c : Core) (k : Fin 18) (es : List ChanEntry) : (c.setChan k es).ctx.report = c.ctx.report := rfl
@[simp] theorem Core.trapped_setChan (c : Core) (k : Fin 18) (es : List ChanEntry) : (c.setChan k es).ctx.trapped = c.ctx.trapped := rfl
@[simp] theorem Core.drain_setChan (c : Core) (k : Fin 18) (es : List ChanEntry) : (c.setChan k es).ctx.drain = c.ctx.drain := rfl
@[simp] theorem Core.markers_setChan (c : Core) (k : Fin 18) (es : List ChanEntry) : (c.setChan k es).ctx.markers = c.ctx.markers := rfl
@[simp] theorem Core.streams_setChan (c : Core) (k : Fin 18) (es : List ChanEntry) : (c.setChan k es).ctx.streams = c.ctx.streams := rfl
@[simp] theorem Core.ptroot_setStream' (c : Core) (k : Cluster) (t : Stream) : (c.setStream k t).ptroot = c.ptroot := rfl
@[simp] theorem Core.ptroot_setChan' (c : Core) (k : Fin 18) (es : List ChanEntry) : (c.setChan k es).ptroot = c.ptroot := rfl
@[simp] theorem Core.tlb_setStream' (c : Core) (k : Cluster) (t : Stream) : (c.setStream k t).tlb = c.tlb := rfl
@[simp] theorem Core.tlb_setChan' (c : Core) (k : Fin 18) (es : List ChanEntry) : (c.setChan k es).tlb = c.tlb := rfl
@[simp] theorem Core.ways_setStream' (c : Core) (k : Cluster) (t : Stream) : (c.setStream k t).ways = c.ways := rfl
@[simp] theorem Core.ways_setChan' (c : Core) (k : Fin 18) (es : List ChanEntry) : (c.setChan k es).ways = c.ways := rfl
@[simp] theorem Core.cresizes_setStream' (c : Core) (k : Cluster) (t : Stream) : (c.setStream k t).cresizes = c.cresizes := rfl
@[simp] theorem Core.cresizes_setChan' (c : Core) (k : Fin 18) (es : List ChanEntry) : (c.setChan k es).cresizes = c.cresizes := rfl
@[simp] theorem Core.corrected_setStream' (c : Core) (k : Cluster) (t : Stream) : (c.setStream k t).corrected = c.corrected := rfl
@[simp] theorem Core.corrected_setChan' (c : Core) (k : Fin 18) (es : List ChanEntry) : (c.setChan k es).corrected = c.corrected := rfl
@[simp] theorem Core.scrubBase_setStream' (c : Core) (k : Cluster) (t : Stream) : (c.setStream k t).scrubBase = c.scrubBase := rfl
@[simp] theorem Core.scrubBase_setChan' (c : Core) (k : Fin 18) (es : List ChanEntry) : (c.setChan k es).scrubBase = c.scrubBase := rfl
@[simp] theorem Core.wear_setStream' (c : Core) (k : Cluster) (t : Stream) : (c.setStream k t).wear = c.wear := rfl
@[simp] theorem Core.wear_setChan' (c : Core) (k : Fin 18) (es : List ChanEntry) : (c.setChan k es).wear = c.wear := rfl
@[simp] theorem Core.spare_setStream' (c : Core) (k : Cluster) (t : Stream) : (c.setStream k t).spare = c.spare := rfl
@[simp] theorem Core.spare_setChan' (c : Core) (k : Fin 18) (es : List ChanEntry) : (c.setChan k es).spare = c.spare := rfl
@[simp] theorem Core.copyUntil_setStream' (c : Core) (k : Cluster) (t : Stream) : (c.setStream k t).copyUntil = c.copyUntil := rfl
@[simp] theorem Core.copyUntil_setChan' (c : Core) (k : Fin 18) (es : List ChanEntry) : (c.setChan k es).copyUntil = c.copyUntil := rfl
@[simp] theorem Core.heldBy_setStream' (c : Core) (k : Cluster) (t : Stream) : (c.setStream k t).heldBy = c.heldBy := rfl
@[simp] theorem Core.heldBy_setChan' (c : Core) (k : Fin 18) (es : List ChanEntry) : (c.setChan k es).heldBy = c.heldBy := rfl
@[simp] theorem Core.landing_setStream' (c : Core) (k : Cluster) (t : Stream) : (c.setStream k t).landing = c.landing := rfl
@[simp] theorem Core.resized_setStream' (c : Core) (k : Cluster) (t : Stream) : (c.setStream k t).resized = c.resized := rfl
@[simp] theorem Core.spares_setStream' (c : Core) (k : Cluster) (t : Stream) : (c.setStream k t).spares = c.spares := rfl
@[simp] theorem Core.rows_setStream' (c : Core) (k : Cluster) (t : Stream) : (c.setStream k t).rows = c.rows := rfl
@[simp] theorem Core.landing_setChan' (c : Core) (k : Fin 18) (es : List ChanEntry) : (c.setChan k es).landing = c.landing := rfl
@[simp] theorem Core.resized_setChan' (c : Core) (k : Fin 18) (es : List ChanEntry) : (c.setChan k es).resized = c.resized := rfl
@[simp] theorem Core.spares_setChan' (c : Core) (k : Fin 18) (es : List ChanEntry) : (c.setChan k es).spares = c.spares := rfl
@[simp] theorem Core.rows_setChan' (c : Core) (k : Fin 18) (es : List ChanEntry) : (c.setChan k es).rows = c.rows := rfl
@[simp] theorem Core.task_setStream' (c : Core) (k : Cluster) (t : Stream) : (c.setStream k t).task = c.task := rfl
@[simp] theorem Core.task_setChan' (c : Core) (k : Fin 18) (es : List ChanEntry) : (c.setChan k es).task = c.task := rfl

end Sys2Proof.Machine
end

