-- ==== Sys2Proof/Laws/Memory.lean ====
section
/-! SUPPORT. The laws of memory: every operation on memory keeps the canonical form, a read after a write gives what was
written, and a write leaves every other byte alone. -/

namespace Sys2Proof.Machine

open Sys2Proof

theorem Mem.wfFrom_mono {m : Mem} {lo hi : Nat} (h : Mem.wfFrom hi m = true) (hle : lo ≤ hi) : Mem.wfFrom lo m = true := by
  cases m with
  | nil => rfl
  | cons e rest =>
    obtain ⟨a, b⟩ := e
    simp [Mem.wfFrom] at h ⊢
    exact ⟨⟨by omega, h.1.2⟩, h.2⟩

theorem Mem.set_wfFrom {m : Mem} {lo k : Nat} (v : Byte) (h : Mem.wfFrom lo m = true) (hk : lo ≤ k) :
    Mem.wfFrom lo (m.set k v) = true := by
  induction m generalizing lo with
  | nil =>
    simp only [Mem.set]
    split
    · rfl
    · rename_i hv
      simp [Mem.wfFrom, hk, hv]
  | cons e rest ih =>
    obtain ⟨a, b⟩ := e
    simp [Mem.wfFrom] at h
    obtain ⟨⟨h1, h2⟩, h3⟩ := h
    simp only [Mem.set]
    split
    · rename_i hka
      split
      · simp [Mem.wfFrom, h1, h2, h3]
      · rename_i hv
        simp [Mem.wfFrom, hk, hv, h2, h3, hka]
    · split
      · rename_i hka
        split
        · exact Mem.wfFrom_mono h3 (by omega)
        · rename_i hv
          subst hka
          simp [Mem.wfFrom, hk, hv, h3]
      · have := ih h3 (by omega)
        simp [Mem.wfFrom, h1, h2, this]

/-- A byte written keeps the canonical form. -/
theorem Mem.set_wf {m : Mem} (k : Nat) (v : Byte) (h : m.wf = true) : (m.set k v).wf = true :=
  Mem.set_wfFrom v h (Nat.zero_le k)

/-- Bytes written keep the canonical form. -/
theorem Mem.write_wf {m : Mem} (a : Nat) (bs : List Byte) (h : m.wf = true) : (m.write a bs).wf = true := by
  induction bs generalizing m a with
  | nil => exact h
  | cons b bs ih => exact ih (a + 1) (Mem.set_wf a b h)

theorem Mem.filter_wfFrom {m : Mem} {lo : Nat} (p : Host.Cell → Bool) (h : Mem.wfFrom lo m = true) :
    Mem.wfFrom lo (m.filter p) = true := by
  induction m generalizing lo with
  | nil => rfl
  | cons e rest ih =>
    obtain ⟨a, b⟩ := e
    simp [Mem.wfFrom] at h
    obtain ⟨⟨h1, h2⟩, h3⟩ := h
    by_cases hp : p (a, b) = true
    · simp [hp, Mem.wfFrom, h1, h2, ih h3]
    · simp [hp]
      exact Mem.wfFrom_mono (ih h3) (by omega)

/-- Entries taken out keep the canonical form. -/
theorem Mem.filter_wf {m : Mem} (p : Host.Cell → Bool) (h : m.wf = true) : Mem.wf (m.filter p) = true :=
  Mem.filter_wfFrom p h

theorem Mem.get_lt_wfFrom {m : Mem} {lo k : Nat} (h : Mem.wfFrom lo m = true) (hk : k < lo) : m.get k = Mem.unlisted := by
  induction m generalizing lo with
  | nil => rfl
  | cons e rest ih =>
    obtain ⟨a, b⟩ := e
    simp [Mem.wfFrom] at h
    have : ¬ a = k := by omega
    simp [Mem.get, this]
    exact ih h.2 (by omega)

theorem Mem.get_set_wfFrom {m : Mem} {lo : Nat} (k j : Nat) (v : Byte) (h : Mem.wfFrom lo m = true) :
    (m.set k v).get j = if j = k then v else m.get j := by
  induction m generalizing lo with
  | nil =>
    simp only [Mem.set]
    by_cases hj : j = k
    · subst hj
      split <;> simp_all [Mem.get]
    · have hk : ¬ k = j := fun e => hj e.symm
      split <;> simp [Mem.get, hk]
  | cons e rest ih =>
    obtain ⟨a, b⟩ := e
    simp [Mem.wfFrom] at h
    obtain ⟨⟨h1, h2⟩, h3⟩ := h
    simp only [Mem.set]
    split
    · rename_i hka
      split
      · rename_i hv
        by_cases hj : j = k
        · subst hj
          have : ¬ a = j := by omega
          simp [Mem.get, this, hv, Mem.get_lt_wfFrom h3 (by omega : j < a + 1)]
        · simp [hj]
      · by_cases hj : j = k
        · subst hj; simp [Mem.get]
        · have hk : ¬ k = j := fun e => hj e.symm
          simp [Mem.get, hj, hk]
    · split
      · rename_i hka
        subst hka
        split
        · rename_i hv
          by_cases hj : j = k
          · subst hj
            simp [hv, Mem.get_lt_wfFrom h3 (by omega : j < j + 1)]
          · have : ¬ k = j := fun e => hj e.symm
            simp [Mem.get, hj, this]
        · by_cases hj : j = k
          · subst hj; simp [Mem.get]
          · have : ¬ k = j := fun e => hj e.symm
            simp [Mem.get, hj, this]
      · rename_i hka hk'
        simp only [Mem.get, ih h3]
        by_cases hj : j = k
        · subst hj
          have : ¬ a = j := fun e => hk' e.symm
          simp [this]
        · simp [hj]

/-- A read after a write of a byte. -/
theorem Mem.get_set {m : Mem} (k j : Nat) (v : Byte) (h : m.wf = true) :
    (m.set k v).get j = if j = k then v else m.get j := Mem.get_set_wfFrom k j v h

/-- The written bytes lie in canonical memory, and every other byte is as before. -/
theorem Mem.get_write_outside {m : Mem} (a j : Nat) (bs : List Byte) (h : m.wf = true) (hj : j < a ∨ a + bs.length ≤ j) :
    (m.write a bs).get j = m.get j := by
  induction bs generalizing m a with
  | nil => rfl
  | cons b bs ih =>
    simp only [List.length_cons] at hj
    have := ih (a + 1) (Mem.set_wf a b h) (by omega)
    rw [Mem.write, this, Mem.get_set _ _ _ h, if_neg (by omega)]

/-! ### Memory of the state -/

@[simp] theorem State.mem_reveal (s : State) (c : CoreId) (p : WriteRec → Bool) : (s.reveal c p).mem = s.mem := rfl
@[simp] theorem State.mem_freshen (s : State) (ws : List ByteWrite) : (s.freshen ws).mem = s.mem := rfl
@[simp] theorem State.mem_fence (s : State) (c : CoreId) (sc : Scope) : (s.fence c sc).mem = s.mem := rfl

theorem State.writeByteAs_wf (s : State) (c : CoreId) (atom : Bool) (w : ByteWrite) (h : s.mem.wf = true) :
    (s.writeByteAs c atom w).mem.wf = true := by
  simp only [State.writeByteAs]
  split
  · exact h
  · exact Mem.set_wf _ _ h

theorem State.writeAs_wf (s : State) (c : CoreId) (ws : List ByteWrite) (h : s.mem.wf = true) :
    (s.writeAs c ws).mem.wf = true := by
  simp only [State.writeAs, State.mem_freshen]
  induction ws generalizing s with
  | nil => exact h
  | cons w ws ih => exact ih _ (State.writeByteAs_wf s c false w h)

theorem State.writeAtomAs_wf (s : State) (c : CoreId) (ws : List ByteWrite) (h : s.mem.wf = true) :
    (s.writeAtomAs c ws).mem.wf = true := by
  simp only [State.writeAtomAs, State.mem_freshen]
  induction ws generalizing s with
  | nil => exact h
  | cons w ws ih => exact ih _ (State.writeByteAs_wf s c true w h)

/-- Bytes stored keep the canonical form, and those in a way that moves are dropped (R200). -/
theorem State.stored_wf (s : State) (pa : Nat) (bs : List Byte) (h : s.mem.wf = true) : (s.stored pa bs).wf = true := by
  simp only [State.stored]
  generalize (pasFrom pa bs.length).zip bs = es
  generalize hm : s.mem = m at h
  clear hm
  induction es generalizing m with
  | nil => exact h
  | cons e es ih =>
    rw [List.foldl_cons]
    refine ih _ ?_
    split
    · exact h
    · exact Mem.set_wf _ _ h

theorem State.poke_wf (s : State) (pa : Nat) (bs : List Byte) (h : s.mem.wf = true) : (s.poke pa bs).mem.wf = true :=
  s.stored_wf pa bs h

/-- The reset memory is in canonical form. -/
theorem State.reset_mem_wf : State.reset.mem.wf = true := rfl

end Sys2Proof.Machine
end

