-- ==== Sys2Proof/Laws/Issue.lean ====
section
/-! SUPPORT. The laws of an issue: what it comes to when its operands are ready, and what no issue changes. -/

namespace Sys2Proof.Machine

open Sys2Proof

/-! ### When an issue has its effect -/

theorem State.Roomy.not_overfull {s : State} (h : s.Roomy) (o : IssueOut) : s.overfull o = false := by
  have : ¬ 64 ≤ s.ifqCount s.cur := by unfold State.Roomy at h; omega
  simp [State.overfull, this]

/-- An issue whose checks pass commits its outcome. -/
theorem issue_ok {cl : Cluster} {f : State → Core → Except Stop IssueOut} {s : State} {o : IssueOut}
    (h : f s s.me = .ok o) (hr : s.overfull o = false) : issue cl f s = .next (s.commit cl o) := by
  have h' : f s (s.core s.cur) = .ok o := h
  simp [issue, h', hr]

/-- An issue whose checks fail stops. -/
theorem issue_error {cl : Cluster} {f : State → Core → Except Stop IssueOut} {s : State} {e : Stop}
    (h : f s s.me = .error e) : issue cl f s = s.stopIssue cl (s.me.report e) := by
  have h' : f s (s.core s.cur) = .error e := h
  simp [issue, h', State.me]

theorem aluC1_lands {s : State} {d a x c n f} (h : ReadyC1 s d a x c) :
    aluC1 d a n f s = .next (s.commit .c (.plain c (landC s.seq d n (f x)))) := by
  obtain ⟨h1, h2, h3, c1, h4, h5⟩ := h
  refine issue_ok ?_ (h3.not_overfull _)
  simp [opC1, legal, h1, h2, h4, h5, bind, Except.bind, pure, Except.pure]

theorem aluC2_lands {s : State} {d a b x y c n f} (h : ReadyC2 s d a b x y c) :
    aluC2 d a b n f s = .next (s.commit .c (.plain c (landC s.seq d n (f x y)))) := by
  obtain ⟨h1, h2, h3, h4, c1, c2, h5, h6, h7⟩ := h
  refine issue_ok ?_ (h4.not_overfull _)
  simp [opC2, legal, h1, h2, h3, h5, h6, h7, bind, Except.bind, pure, Except.pure]

theorem aluC3_lands {s : State} {d a b e x y z c n f} (h : ReadyC3 s d a b e x y z c) :
    aluC3 d a b e n f s = .next (s.commit .c (.plain c (landC s.seq d n (f x y z)))) := by
  obtain ⟨h1, h2, h3, h4, h5, c1, c2, c3, h6, h7, h8, h9⟩ := h
  refine issue_ok ?_ (h5.not_overfull _)
  simp [opC3, legal, h1, h2, h3, h4, h6, h7, h8, h9, bind, Except.bind, pure, Except.pure]

theorem readC1_ok {s : State} {a x c} (h : SourcesC1 s a x c) : readC1 s s.me a = .ok (x, c) := by
  obtain ⟨h1, _, h2⟩ := h
  simp [readC1, legal, h1, h2, bind, Except.bind]

theorem readC2_ok {s : State} {a b x y c} (h : SourcesC2 s a b x y c) : readC2 s s.me a b = .ok (x, y, c) := by
  obtain ⟨h1, h2, _, c1, h3, h4⟩ := h
  simp [readC2, legal, h1, h2, h3, h4, bind, Except.bind, pure, Except.pure]

theorem readC3_ok {s : State} {a b e x y z c} (h : SourcesC3 s a b e x y z c) : readC3 s s.me a b e = .ok (x, y, z, c) := by
  obtain ⟨h1, h2, h3, _, c1, c2, h4, h5, h6⟩ := h
  simp [readC3, legal, h1, h2, h3, h4, h5, h6, bind, Except.bind, pure, Except.pure]

theorem opX1_lands {s : State} {w d p a m x c n f} (h : ReadyX1 s w d p a m x c) :
    issue .x (opX1 w d p a n f) s = .next (s.commit .x (.plain c (landX s.seq d n m (f m x)))) := by
  obtain ⟨h1, h2, h3, rfl, c1, h4, h5⟩ := h
  refine issue_ok ?_ (h3.not_overfull _)
  simp [opX1, legal, h1, h2, h4, h5, bind, Except.bind, pure, Except.pure]

theorem opX2_lands {s : State} {w d p a b m x y c n f} (h : ReadyX2 s w d p a b m x y c) :
    issue .x (opX2 w d p a b n f) s = .next (s.commit .x (.plain c (landX s.seq d n m (f m x y)))) := by
  obtain ⟨h1, h2, h3, h4, rfl, c1, c2, h5, h6, h7⟩ := h
  refine issue_ok ?_ (h4.not_overfull _)
  simp [opX2, legal, h1, h2, h3, h5, h6, h7, bind, Except.bind, pure, Except.pure]

theorem opX3_lands {s : State} {w d p a b e m x y z c n f} (h : ReadyX3 s w d p a b e m x y z c) :
    issue .x (opX3 w d p a b e n f) s = .next (s.commit .x (.plain c (landX s.seq d n m (f m x y z)))) := by
  obtain ⟨h1, h2, h3, h4, h5, rfl, c1, c2, c3, h6, h7, h8, h9⟩ := h
  refine issue_ok ?_ (h5.not_overfull _)
  simp [opX3, legal, h1, h2, h3, h4, h6, h7, h8, h9, bind, Except.bind, pure, Except.pure]

/-! ### What no issue changes -/

theorem foldl_keeps {α β γ : Type} (g : β → γ) (f : β → α → β) (h : ∀ b a, g (f b a) = g b) (l : List α) (b : β) :
    g (l.foldl f b) = g b := by
  induction l generalizing b with
  | nil => rfl
  | cons a l ih => rw [List.foldl_cons, ih, h]

@[simp] theorem State.mem_startHold (s : State) (r : Nat) (k : Option (Nat × Nat)) (o : CoreId) (cs : List CoreId) (rs : List Nat) :
    (s.startHold r k o cs rs).mem = s.mem := by
  simp only [State.startHold]
  split
  · exact foldl_keeps State.mem (fun (t : State) (m : CoreId × Nat) => t.scheduleDom m.1 m.2 .holdReachesMember (.ids s.seq 0))
      (fun _ _ => rfl) _ _
  · exact foldl_keeps State.mem (fun (t : State) (m : CoreId × Nat) => t.scheduleDom m.1 m.2 .holdReachesMember (.ids s.seq 0))
      (fun _ _ => rfl) _ _

@[simp] theorem State.mem_freeCore (s : State) (id : CoreId) : (s.freeCore id).mem = s.mem := rfl

@[simp] theorem State.mem_fatalEnd (s : State) (id : CoreId) (cause : Nat) : (s.fatalEnd id cause).mem = s.mem := by
  simp only [State.fatalEnd]
  split <;> rfl

/-- Taking an exception changes no byte of memory. -/
@[simp] theorem State.mem_takeTrap (s : State) (id : CoreId) (cause : Cause) (info : Word) (pos : Pos) :
    (s.takeTrap id cause info pos).mem = s.mem := by
  simp only [State.takeTrap]
  repeat' split
  all_goals simp

@[simp] theorem State.mem_raise (s : State) (id : CoreId) (cause : Cause) (info : Word) (pos : Pos) :
    (s.raise id cause info pos).mem = s.mem := State.mem_takeTrap s id cause info pos

@[simp] theorem State.mem_correct (s : State) (pas : List Nat) : (s.correct pas).mem = s.mem := by
  exact foldl_keeps State.mem (fun (t : State) (w : Nat) =>
    { t.modCore (paCore (8 * w)) fun c => c.countFix (paSpace (8 * w) == 0) (wordRow w) with soft := t.soft.filter (· != w) }) (fun _ _ => rfl) _ _

@[simp] theorem State.mem_noteRead (s : State) (id : CoreId) (pas : List Nat) : (s.noteRead id pas).mem = s.mem := by
  simp only [State.noteRead]
  split <;> simp

@[simp] theorem State.mem_commit (s : State) (cl : Cluster) (o : IssueOut) : (s.commit cl o).mem = s.mem := by
  simp only [State.commit]
  repeat' split
  all_goals simp

@[simp] theorem State.mem_startWalk (s : State) (id : CoreId) (w : Walk) : (s.startWalk id w).mem = s.mem := rfl

theorem State.mem_stopIssue (s t : State) (cl : Cluster) (e : Stop) (h : s.stopIssue cl e = .next t) : t.mem = s.mem := by
  cases e <;> simp [State.stopIssue] at h <;> subst h <;> simp [State.setWalkInfo]

/-- No issue writes memory: what it stores performs later (R104, R154). -/
theorem issue_mem {cl : Cluster} {f : State → Core → Except Stop IssueOut} {s t : State} (h : issue cl f s = .next t) :
    t.mem = s.mem := by
  simp only [issue] at h
  split at h
  · exact State.mem_stopIssue _ _ _ _ h
  · split at h
    · exact State.mem_stopIssue _ _ _ _ h
    · simp at h; subst h; simp

end Sys2Proof.Machine
end

