-- ==== Sys2Proof/Tests/Slice0.lean ====
section
/-! SUPPORT. Tests: the checks of well-formedness, an instruction word of every kind written out from the spec's encodings, small states
that meet the hypotheses of the statements, and a few results. -/

open Sys2Proof Sys2Proof.Machine

section

set_option Elab.async false

/-! ### The checks of WellFormed, one ill-formed term each -/

/-- R29, R32, R43: an IDLE of 32 cycles, a short parcel of entry 1023, a target of parcel 1. -/
theorem test_wf_items_and_targets :
    ([.idle 31, .shortParcel 1023 0 .c, .br .eq .zero .zero ⟨0, 1⟩, .bri .eq .zero 0 ⟨0, 1⟩, .call ⟨0, 0⟩, .jmpi .zero 1,
      .jtab .zero .zero ⟨0, 1⟩, .bdec 0 ⟨0, 1⟩, .loopset 0 .zero ⟨0, 1⟩, .pdisp .e .zero .zero ⟨0, 1⟩, .xjmp ⟨0, 1⟩, .xbdec 0 ⟨0, 1⟩,
      .xloopset 0 1 ⟨0, 1⟩, .xbany 0 ⟨0, 1⟩, .xbnone 0 ⟨0, 1⟩, .ljmp ⟨0, 1⟩, .lbdec 0 ⟨0, 1⟩, .lloopset 0 1 ⟨0, 1⟩, .sjmp ⟨0, 1⟩,
      .sbdec 0 ⟨0, 1⟩, .sloopset 0 1 ⟨0, 1⟩] : List Instr).all (fun i => !i.wf) = true ∧
    (Instr.idle 30).wf = true ∧ (Instr.shortParcel 1022 0 .c).wf = true ∧ (Instr.xjmp ⟨0, 2⟩).wf = true := by decide +kernel

/-- The C rows (R50, R51, R57, R94, R99, R104, R231, R240, R252, R265). -/
theorem test_wf_c_rows :
    ([.shli .none .zero 64, .shri .none .zero 64, .sari .none .zero 64, .fcvt .none .f32f16 .rtz .zero, .lds .none .b8 .d 0 .zero,
      .mload .zero .zero 0, .mload .zero .zero 1025, .mnest .zero .zero 3 1, .mnest .zero .zero 4 0, .mrsc (.s 1) false .n 0,
      .mrsc (.s 0) false .d 0, .cwait 9, .mark 0 0, .rdvw 0 0, .tspawn false .zero (.s 1), .cresize 17, .prow true .e (.s 1),
      .pdone .adv .e .zero .zero (.s 1), .pdone .free .e .zero (.s 1) (.s 0)] : List Instr).all (fun i => !i.wf) = true ∧
    ([.shli .none .zero 63, .fcvt .none .f32f16 .rne .zero, .mload .zero .zero 1024, .mnest .zero .zero 3 0, .mrsc (.s 0) false .n 0,
      .cwait 8, .cresize 16, .pdone .admitRow .e .zero .zero (.s 1)] : List Instr).all Instr.wf = true := by decide +kernel

/-- The formats that the X arithmetic rows refuse (R67, R72, R131 to R138). -/
theorem test_wf_x_arithmetic :
    ([.vadd .none 0 .i32 .rne .zero .zero, .vsub .none 0 .i32 .rne .zero .zero, .vmul .none 0 .i32 .rne .zero .zero,
      .vfma .none 0 .i32 .rne .zero .zero .zero, .vfms .none 0 .i32 .rne .zero .zero .zero, .vfnma .none 0 .i32 .rne .zero .zero .zero,
      .vmin .none 0 .cf32 .zero .zero, .vmax .none 0 .cf32 .zero .zero, .vabs .none 0 .cf32 .zero, .vneg .none 0 .i8 .zero,
      .vdiv .none 0 .e4m3 .rne .zero .zero, .vsqrt .none 0 .e4m3 .rne .zero, .vrcp .none 0 .e4m3 .rne .zero, .vrsq .none 0 .e4m3 .rne .zero,
      .vexp2 .none 0 .f16 .zero, .vlog2 .none 0 .f16 .rne .zero, .vclamp .none 0 .cf32 .zero .zero .zero, .vrope .none 0 .f16 .zero .zero .zero,
      .viadd .none 0 .f32 false .zero .zero, .visub .none 0 .f32 false .zero .zero, .vimul .none 0 .f32 false .zero .zero,
      .vimulh .none 0 .f32 .zero .zero, .vimin .none 0 .f32 .zero .zero, .vimax .none 0 .f32 .zero .zero, .vand .none 0 .f32 .zero .zero,
      .vor .none 0 .f32 .zero .zero, .vxor .none 0 .f32 .zero .zero, .vandn .none 0 .f32 .zero .zero, .vshl .none 0 .f32 .zero .zero,
      .vshr .none 0 .f32 .zero .zero, .vsar .none 0 .f32 .zero .zero, .vpopc .none 0 .f32 .zero, .vclz .none 0 .f32 .zero,
      .visat .none 0 .i8 .i16 .zero, .vaddi .none 0 .f32 .rne .zero 0x7C01, .vmuli .none 0 .f32 .rne .zero 0xFE00,
      .viaddi .none 0 .f32 false .zero 0, .vandi .none 0 .f32 .zero 0, .vori .none 0 .f32 .zero 0, .vshli .none 0 .i8 .zero 8,
      .vshri .none 0 .i8 .zero 8, .vcvt .none 0 .f32 .rne .f16 .zero, .vpack .none 0 .f32 .rne .f32 0 .zero .zero .zero,
      .vpack .none 0 .f32 .rne .f16 1 .zero .zero (.v 0), .vpack .none 0 .f32 .rne .f16 0 .zero .zero (.v 1),
      .vunpk .none 0 .f16 .rne .f32 2 .zero, .vcbdec .none 0 .bf16 8 .zero, .vscale .none 0 .e4m3 .rne .zero .zero,
      .vkeyx .none 0 .e4m3 false .zero, .vdigit .none 0 .i32 false .zero .zero] : List Instr).all (fun i => !i.wf) = true ∧
    ([.vadd .none 0 .cf32 .rne .zero .zero, .vaddi .none 0 .f32 .rne .zero 0x7C00, .vshli .none 0 .i8 .zero 7,
      .vpack .none 0 .f32 .rne .e4m3 1 .zero .zero (.v 1), .vunpk .none 0 .e4m3 .rne .f32 3 .zero, .visat .none 0 .i16 .i8 .zero,
      .vcbdec .none 0 .f32 15 .zero] : List Instr).all Instr.wf = true := by decide +kernel

/-- The other X rows (R139 to R149). -/
theorem test_wf_x_others :
    ([.vcmp 0 0 .eq .f32 0 .zero .zero, .vcmp 1 0 .un .i32 0 .zero .zero, .vcmp 1 0 .eq .f32 1 .zero .zero,
      .vcmpi 0 0 .eq .f32 .zero 0, .vcmpi 1 0 .eq .f32 .zero 0x7C01, .pand 0 1 1, .por 0 1 1, .pxor 0 1 1, .pnot 0 1, .pfirst 0 1,
      .vrsum .none 0 .i4 false .zero, .vrmax .none 0 .e4m3 false .zero, .vrmin .none 0 .e2m1 false .zero, .vargmax .none 0 .i4 false .zero,
      .vargmin .none 0 .cf32 false .zero, .vscan .none 0 .i16 .zero, .vhist .none 0 .i32 .zero .zero, .vperm .none 0 .i4 .zero .zero,
      .vcompress .none 0 .f16 false .zero, .vexpand .none 0 .f16 .zero .zero, .vlane .f32 .zero 64, .vins .none 0 .f32 .zero .zero 64,
      .accrd .none 0 64 0 .f32, .accrd .none 0 32 0 .cf32, .accwr 0 0 64 0 .f32] : List Instr).all (fun i => !i.wf) = true ∧
    ([.vcmp 1 0 .un .f16 1 .zero .zero, .pcnt 0, .vlane .f32 .zero 63, .accrd .none 0 95 0 .cf32, .accwr 0 0 63 0 .f32] :
      List Instr).all Instr.wf = true := by decide +kernel

/-- The L and S rows (R157 to R164, R167 to R180). -/
theorem test_wf_l_and_s_rows :
    ([.ldq 0 0 .d .cf32 1 .keep 0, .ldqb 0 0 .d .i4 .keep 0, .ldqs 0 0 .d .cf32 33 .keep 0, .ldqg 0 0 .d .f16 0, .lgen 0 0 .d .cf32 6,
      .ldqk 0 0 .d .f32 0 0, .stqs 0 0 .d .e2m1 .keep 0, .stqg 0 0 .d .u16 0, .sgen 0 0 .d .cf32 false 6 0, .stn 0 0 .d .f32 false 0 0,
      .aadd 0 .d .f32 false false 0, .afadd 0 .d .f32 false true 0, .afadd 0 .d .i32 false false 0, .amax 0 .d .i16 false false 0,
      .amin 0 .d .f32 false false 0, .aand 0 .d .f32 false false 0, .aor 0 .d .f32 false false 0, .axor 0 .d .f32 false false 0,
      .axchg 0 .d .f32 false false 0, .acas 0 .d .f32 false false 0, .ahist 0 0 .d .i32 0] : List Instr).all (fun i => !i.wf) = true ∧
    ([.ldq 0 0 .d .cf32 2 .keep 0, .ldqs 0 0 .d .cf32 32 .keep 0, .lgen 0 0 .d .f32 6, .afadd 0 .d .f32 true false 0] :
      List Instr).all Instr.wf = true := by decide +kernel

/-- The two items of one parcel as bytes: IDLE of one cycle and a short parcel of entry 5, cavity value 17 (R29, R32). -/
theorem test_decode_items :
    decodeBytes .x 2 [0xE0, 0xFF] = .ok (.idle 0) ∧ decodeBytes .l 2 [0xB1, 0x80] = .ok (.shortParcel 5 17 .l) := by decide +kernel

/-! ### Every instruction's word, written out from the tables of R33 to R49 -/

/-- The cluster's decoder reads the instruction from the word, with timing I = E and T = 0. -/
def reads (cl : Cluster) (w : Nat) (i : Instr) : Bool := decide (decodeWord cl w = .ok ⟨.idle, 0, i⟩)

theorem test_decode_c_integer :
    (reads .c 0x000000000000 (.nop) &&
    reads .c 0x008624A00000 (.add (.s 3) (.s 4) (.h 5)) &&
    reads .c 0x010624A00000 (.sub (.s 3) (.s 4) (.h 5)) &&
    reads .c 0x018624A00000 (.mul (.s 3) (.s 4) (.h 5)) &&
    reads .c 0x038624A00000 (.and (.s 3) (.s 4) (.h 5)) &&
    reads .c 0x040624A00000 (.or (.s 3) (.s 4) (.h 5)) &&
    reads .c 0x048624A00000 (.xor (.s 3) (.s 4) (.h 5)) &&
    reads .c 0x050624A00000 (.andn (.s 3) (.s 4) (.h 5)) &&
    reads .c 0x058624A00000 (.shl (.s 3) (.s 4) (.h 5)) &&
    reads .c 0x060624A00000 (.shr (.s 3) (.s 4) (.h 5)) &&
    reads .c 0x068624A00000 (.sar (.s 3) (.s 4) (.h 5)) &&
    reads .c 0x070624A00000 (.rol (.s 3) (.s 4) (.h 5)) &&
    reads .c 0x027BAE000200 (.mulh .cl true .xq .zero) &&
    reads .c 0x02FBAE000200 (.div .cl true .xq .zero) &&
    reads .c 0x037BAE000200 (.rem .cl true .xq .zero) &&
    reads .c 0x07FBAE000200 (.min .cl true .xq .zero) &&
    reads .c 0x087BAE000200 (.max .cl true .xq .zero) &&
    reads .c 0x0B7BAE000200 (.bfx .cl true .xq .zero) &&
    reads .c 0x08F9BF002600 (.cmp .cs true .lt .lq .sr) &&
    reads .c 0x097D98000000 (.clz .cq .coreid) &&
    reads .c 0x09FD98000000 (.ctz .cq .coreid) &&
    reads .c 0x0A7D98000000 (.popc .cq .coreid) &&
    reads .c 0x0AFD98000000 (.brev .cq .coreid) &&
    reads .c 0x0CFD98000000 (.move .cq .coreid) &&
    reads .c 0x0C7FA0000A00 (.ext .none .w32 true .dieid) &&
    reads .c 0x0BBF8E578000 (.bfi (.s 31) .fcyc .tclk (.h 15)) &&
    reads .c 0x0D3F8E578000 (.sel (.s 31) .fcyc .tclk (.h 15)) &&
    reads .c 0x0DBF8E578000 (.madd (.s 31) .fcyc .tclk (.h 15))) = true := by decide +kernel

theorem test_decode_c_immediate :
    (reads .c 0x100E4FFFFFF0 (.addi (.s 7) (.s 9) 0xFFFFFE) &&
    reads .c 0x108E4FFFFFF0 (.andi (.s 7) (.s 9) 0xFFFFFE) &&
    reads .c 0x110E4FFFFFF0 (.ori (.s 7) (.s 9) 0xFFFFFE) &&
    reads .c 0x118E4FFFFFF0 (.xori (.s 7) (.s 9) 0xFFFFFE) &&
    reads .c 0x140E4FFFFFF0 (.muli (.s 7) (.s 9) 0xFFFFFE) &&
    reads .c 0x120E480001F8 (.shli (.s 7) (.s 9) 63) &&
    reads .c 0x128E480001F8 (.shri (.s 7) (.s 9) 63) &&
    reads .c 0x130E480001F8 (.sari (.s 7) (.s 9) 63) &&
    reads .c 0x138E48000326 (.cmpi (.s 7) .bound (.s 9) 100) &&
    reads .c 0x148FFFFFFFFB (.li (.s 7) 0x1FFFFFFFB) &&
    reads .c 0x150E4D5E6F79 (.lih (.s 7) true (.s 9) 0xABCDEF)) = true := by decide +kernel

theorem test_decode_c_float :
    (reads .c 0x180210600800 (.fadd (.s 1) .rna (.s 2) (.s 3)) &&
    reads .c 0x188210600800 (.fsub (.s 1) .rna (.s 2) (.s 3)) &&
    reads .c 0x190210600800 (.fmul (.s 1) .rna (.s 2) (.s 3)) &&
    reads .c 0x1A0210600800 (.fdiv (.s 1) .rna (.s 2) (.s 3)) &&
    reads .c 0x198210620200 (.ffma (.s 1) .rtz (.s 2) (.s 3) (.s 4)) &&
    reads .c 0x1A8210600000 (.fmin (.s 1) (.s 2) (.s 3)) &&
    reads .c 0x1B0210600000 (.fmax (.s 1) (.s 2) (.s 3)) &&
    reads .c 0x1B8210603000 (.fcmp (.s 1) .un (.s 2) (.s 3)) &&
    reads .c 0x1C0210005400 (.fcvt (.s 1) .f32i64 .rdn (.s 2)) &&
    reads .c 0x1C8210000600 (.fsqrt (.s 1) .rup (.s 2)) &&
    reads .c 0x1D8210000600 (.frcp (.s 1) .rup (.s 2)) &&
    reads .c 0x1D0210000000 (.fexp2 (.s 1) (.s 2))) = true := by decide +kernel

theorem test_decode_c_transfer :
    (reads .c 0x206082FFFFE6 (.br .tnz (.s 4) (.s 5) ⟨0x3FFFF, 6⟩) &&
    reads .c 0x20B8907FFFE6 (.bri .gt (.s 4) 0x20 ⟨0x3FFFF, 6⟩) &&
    reads .c 0x2100007FFFE6 (.call ⟨0x3FFFF, 6⟩) &&
    reads .c 0x218080000000 (.ret (.s 4)) &&
    reads .c 0x22008000001F (.jmpi (.s 4) 31) &&
    reads .c 0x228082FFFFE6 (.jtab (.s 4) (.s 5) ⟨0x3FFFF, 6⟩) &&
    reads .c 0x2300607FFFE6 (.bdec 3 ⟨0x3FFFF, 6⟩) &&
    reads .c 0x238042FFFFE6 (.loopset 2 (.s 5) ⟨0x3FFFF, 6⟩) &&
    reads .c 0x240882FFFFE6 (.pdisp .w (.s 4) (.s 5) ⟨0x3FFFF, 6⟩)) = true := by decide +kernel

theorem test_decode_c_memory_system :
    (reads .c 0x2802101FFF8D (.ld (.s 1) .b8 .d 0x1FFF8 (.s 2)) &&
    reads .c 0x2882101FFF86 (.lds (.s 1) .b2 .p 0x1FFF8 (.s 2)) &&
    reads .c 0x297E10600083 (.st .b1 .f (.s 3) 8 (.s 2)) &&
    reads .c 0x2A0828000400 (.mload (.s 4) (.s 5) 1024) &&
    reads .c 0x2A8000000000 (.mouldf) &&
    reads .c 0x2C0A00120000 (.getc (.s 5) .tinfo) &&
    reads .c 0x2CFE28130000 (.putc .tvec (.s 5)) &&
    reads .c 0x2D7E28007FFF (.trap (.s 5) 32767) &&
    reads .c 0x2DFE00000009 (.brk 9) &&
    reads .c 0x2E7E28000000 (.waitf (.s 5)) &&
    reads .c 0x2EFE28000000 (.sleepu (.s 5)) &&
    reads .c 0x2F7E28000000 (.halt (.s 5)) &&
    reads .c 0x2FFE00000002 (.fsc .module)) = true := by decide +kernel

theorem test_decode_c_engine :
    (reads .c 0x3008280FFFF9 (.mnest (.s 4) (.s 5) 9 65535) &&
    reads .c 0x30880000012B (.mform (.s 4) 299) &&
    reads .c 0x310000000000 (.mgo) &&
    reads .c 0x31880000000F (.mside (.s 4) true .d 3) &&
    reads .c 0x32080000001E (.mrsc (.s 4) true .f 2) &&
    reads .c 0x340828C00029 (.cpy .d .p false true (.s 4) (.s 5) (.s 6)) &&
    reads .c 0x348000000000 (.cbatch) &&
    reads .c 0x350000000008 (.cwait 8) &&
    reads .c 0x358000050FFF (.mark 4095 5) &&
    reads .c 0x360000100007 (.rdvw 7 16) &&
    reads .c 0x380800000001 (.attn .d (.s 4)) &&
    reads .c 0x388828007FFD (.kpos true .d (.s 4) (.s 5) 4095) &&
    reads .c 0x390828000011 (.kfork .d (.s 4) (.s 5) 2) &&
    reads .c 0x39882800001A (.kdrop .p (.s 4) (.s 5) 3) &&
    reads .c 0x3A0828000005 (.kmap true .d (.s 4) (.s 5)) &&
    reads .c 0x3B0800000005 (.cfind true .d (.s 4)) &&
    reads .c 0x3B8800000001 (.cput false .d (.s 4)) &&
    reads .c 0x3C0C38000000 (.crel (.s 6) (.s 7)) &&
    reads .c 0x3C8000000000 (.cstat) &&
    reads .c 0x3D0800000003 (.coll .f (.s 4)) &&
    reads .c 0x3D8828000001 (.tspawn true (.s 4) (.s 5)) &&
    reads .c 0x3E0000003FFF (.phint 16383) &&
    reads .c 0x3E8000000010 (.cresize 16) &&
    reads .c 0x3F0800000004 (.prow false .w (.s 4)) &&
    reads .c 0x3F8828C00005 (.pdone .admitRow .w (.s 4) (.s 5) (.s 6))) = true := by decide +kernel

theorem test_decode_x_float :
    (reads .x 0x000000000000 (.xnop) &&
    reads .x 0x00C428C0DC04 (.vadd (.sq 1) 6 .cf32 .rna (.v 2) (.oq 3)) &&
    reads .x 0x014428C0DC04 (.vsub (.sq 1) 6 .cf32 .rna (.v 2) (.oq 3)) &&
    reads .x 0x01C428C0DC04 (.vmul (.sq 1) 6 .cf32 .rna (.v 2) (.oq 3)) &&
    reads .x 0x059428C0C401 (.vdiv (.v 5) 6 .f16 .rtz (.v 2) (.oq 3)) &&
    reads .x 0x027D4A316602 (.vfma .none 3 .e4m3 .rdn (.h 4) .cq .lane) &&
    reads .x 0x02FD4A316602 (.vfms .none 3 .e4m3 .rdn (.h 4) .cq .lane) &&
    reads .x 0x037D4A316602 (.vfnma .none 3 .e4m3 .rdn (.h 4) .cq .lane) &&
    reads .x 0x039420C0CA00 (.vmin (.v 5) 6 .e2m1 (.v 2) (.v 3)) &&
    reads .x 0x041420C0CA00 (.vmax (.v 5) 6 .e2m1 (.v 2) (.v 3)) &&
    reads .x 0x04942000C800 (.vabs (.v 5) 6 .e5m2 (.v 2)) &&
    reads .x 0x05142000C200 (.vneg (.v 5) 6 .bf16 (.v 2)) &&
    reads .x 0x06142000C203 (.vsqrt (.v 5) 6 .bf16 .rup (.v 2)) &&
    reads .x 0x06942000C203 (.vrcp (.v 5) 6 .bf16 .rup (.v 2)) &&
    reads .x 0x07142000C203 (.vrsq (.v 5) 6 .bf16 .rup (.v 2)) &&
    reads .x 0x07942000C000 (.vexp2 (.v 5) 6 .f32 (.v 2)) &&
    reads .x 0x08142000C003 (.vlog2 (.v 5) 6 .f32 .rup (.v 2)) &&
    reads .x 0x089420F0C400 (.vclamp (.v 5) 6 .f16 (.v 2) (.v 3) .zero) &&
    reads .x 0x091420C4C000 (.vrope (.v 5) 6 .f32 (.v 2) (.v 3) (.v 4))) = true := by decide +kernel

theorem test_decode_x_integer :
    (reads .x 0x0C1420C0CE01 (.viadd (.v 5) 6 .i16 true (.v 2) (.v 3)) &&
    reads .x 0x0C9420C0CE01 (.visub (.v 5) 6 .i16 true (.v 2) (.v 3)) &&
    reads .x 0x0D1420C0CE01 (.vimul (.v 5) 6 .i16 true (.v 2) (.v 3)) &&
    reads .x 0x0D9420C0D800 (.vimulh (.v 5) 6 .u8 (.v 2) (.v 3)) &&
    reads .x 0x0E1420C0D800 (.vimin (.v 5) 6 .u8 (.v 2) (.v 3)) &&
    reads .x 0x0E9420C0D800 (.vimax (.v 5) 6 .u8 (.v 2) (.v 3)) &&
    reads .x 0x0F1420C0D800 (.vand (.v 5) 6 .u8 (.v 2) (.v 3)) &&
    reads .x 0x0F9420C0D800 (.vor (.v 5) 6 .u8 (.v 2) (.v 3)) &&
    reads .x 0x101420C0D800 (.vxor (.v 5) 6 .u8 (.v 2) (.v 3)) &&
    reads .x 0x109420C0D800 (.vandn (.v 5) 6 .u8 (.v 2) (.v 3)) &&
    reads .x 0x111420C0D800 (.vshl (.v 5) 6 .u8 (.v 2) (.v 3)) &&
    reads .x 0x119420C0D800 (.vshr (.v 5) 6 .u8 (.v 2) (.v 3)) &&
    reads .x 0x121420C0D800 (.vsar (.v 5) 6 .u8 (.v 2) (.v 3)) &&
    reads .x 0x12942000D200 (.vpopc (.v 5) 6 .i4 (.v 2)) &&
    reads .x 0x13142000D200 (.vclz (.v 5) 6 .i4 (.v 2)) &&
    reads .x 0x13942000CD80 (.visat (.v 5) 6 .i32 .u8 (.v 2)) &&
    reads .x 0x141427C00C01 (.vaddi (.v 5) 6 .f32 .rtz (.v 2) 0x7C00) &&
    reads .x 0x149427C00C01 (.vmuli (.v 5) 6 .f32 .rtz (.v 2) 0x7C00) &&
    reads .x 0x15142FFFFD41 (.viaddi (.v 5) 6 .u32 true (.v 2) 0xFFFF) &&
    reads .x 0x15942FFFFD40 (.vandi (.v 5) 6 .u32 (.v 2) 0xFFFF) &&
    reads .x 0x16142FFFFD40 (.vori (.v 5) 6 .u32 (.v 2) 0xFFFF) &&
    reads .x 0x16942000FD60 (.vshli (.v 5) 6 .u16 (.v 2) 15) &&
    reads .x 0x17142000FD60 (.vshri (.v 5) 6 .u16 (.v 2) 15)) = true := by decide +kernel

theorem test_decode_x_convert_predicate :
    (reads .x 0x18142000C0C1 (.vcvt (.v 5) 6 .f32 .rtz .i32 (.v 2)) &&
    reads .x 0x189420C4C069 (.vpack (.v 5) 6 .f32 .rtz .e4m3 1 (.v 2) (.v 3) (.v 4)) &&
    reads .x 0x19142000C619 (.vunpk (.v 5) 6 .e4m3 .rtz .f32 3 (.v 2)) &&
    reads .x 0x19942000C078 (.vcbdec (.v 5) 6 .f32 15 (.v 2)) &&
    reads .x 0x1A1420C0C404 (.vscale (.v 5) 6 .f16 .rna (.v 2) (.v 3)) &&
    reads .x 0x1A942000C401 (.vkeyx (.v 5) 6 .f16 true (.v 2)) &&
    reads .x 0x1B1420C0D401 (.vdigit (.v 5) 6 .u32 true (.v 2) (.v 3)) &&
    reads .x 0x1C72020E1003 (.vcmp 7 1 .gt .i8 3 (.v 2) (.v 3)) &&
    reads .x 0x1CF2029AD6BC (.vcmpi 7 1 .ge .u16 (.v 2) 0x9ABC) &&
    reads .x 0x1D7280000000 (.pand 7 1 2) &&
    reads .x 0x1DF280000000 (.por 7 1 2) &&
    reads .x 0x1E7280000000 (.pxor 7 1 2) &&
    reads .x 0x1EF200000000 (.pnot 7 1) &&
    reads .x 0x1F0A00000000 (.pcnt 5) &&
    reads .x 0x1FF200000000 (.pfirst 7 1)) = true := by decide +kernel

theorem test_decode_x_reduce_move :
    (reads .x 0x20142000C208 (.vrsum (.v 5) 6 .bf16 true (.v 2)) &&
    reads .x 0x20942000C208 (.vrmax (.v 5) 6 .bf16 true (.v 2)) &&
    reads .x 0x21142000C208 (.vrmin (.v 5) 6 .bf16 true (.v 2)) &&
    reads .x 0x21942000C208 (.vargmax (.v 5) 6 .bf16 true (.v 2)) &&
    reads .x 0x22142000C208 (.vargmin (.v 5) 6 .bf16 true (.v 2)) &&
    reads .x 0x22942000CC00 (.vscan (.v 5) 6 .i32 (.v 2)) &&
    reads .x 0x231420C0D600 (.vhist (.v 5) 6 .u16 (.v 2) (.v 3)) &&
    reads .x 0x24142000DA00 (.vmov (.v 5) 6 .cb2 (.v 2)) &&
    reads .x 0x249420C4D200 (.vsel (.v 5) 6 .i4 (.v 2) (.v 3) (.v 4)) &&
    reads .x 0x251420C0D800 (.vperm (.v 5) 6 .u8 (.v 2) (.v 3)) &&
    reads .x 0x259420C0D800 (.vrot (.v 5) 6 .u8 (.v 2) (.v 3)) &&
    reads .x 0x261420C0D800 (.vbcast (.v 5) 6 .u8 (.v 2) (.v 3)) &&
    reads .x 0x26942000D408 (.vcompress (.v 5) 6 .u32 true (.v 2)) &&
    reads .x 0x271420C0D400 (.vexpand (.v 5) 6 .u32 (.v 2) (.v 3)) &&
    reads .x 0x27FC200018FF (.vlane .u8 (.v 2) 255) &&
    reads .x 0x281420C0CBFF (.vins (.v 5) 6 .e2m1 (.v 2) (.v 3) 511) &&
    reads .x 0x2C7C2C40C000 (.defer (.v 2) .lane 6) &&
    reads .x 0x2C9400000002 (.drain (.v 5) .peek) &&
    reads .x 0x2D7C00000000 (.dcount) &&
    reads .x 0x2DFC00000000 (.dclear) &&
    reads .x 0x3017005FDC00 (.accrd (.v 5) 3 0x5F 6 .cf32) &&
    reads .x 0x30BE003FC000 (.accwr 15 2 63 6 .f32) &&
    reads .x 0x317D00000000 (.accz 1) &&
    reads .x 0x31950000C001 (.siderd (.v 5) 1 6 true)) = true := by decide +kernel

theorem test_decode_transfers_apart :
    (reads .x 0x3800007FFFE6 (.xjmp ⟨0x3FFFF, 6⟩) &&
    reads .x 0x38B0007FFFE6 (.xbdec 3 ⟨0x3FFFF, 6⟩) &&
    reads .x 0x392FFFFFFFE6 (.xloopset 2 8191 ⟨0x3FFFF, 6⟩) &&
    reads .x 0x3A8000000000 (.xmouldf) &&
    reads .l 0x1000007FFFE6 (.ljmp ⟨0x3FFFF, 6⟩) &&
    reads .l 0x10B0007FFFE6 (.lbdec 3 ⟨0x3FFFF, 6⟩) &&
    reads .l 0x112FFFFFFFE6 (.lloopset 2 8191 ⟨0x3FFFF, 6⟩) &&
    reads .l 0x118000000000 (.lmouldf) &&
    reads .s 0x1800007FFFE6 (.sjmp ⟨0x3FFFF, 6⟩) &&
    reads .s 0x18B0007FFFE6 (.sbdec 3 ⟨0x3FFFF, 6⟩) &&
    reads .s 0x192FFFFFFFE6 (.sloopset 2 8191 ⟨0x3FFFF, 6⟩) &&
    reads .s 0x198000000000 (.smouldf) &&
    reads .x 0x39F0007FFFE6 (.xbany 7 ⟨0x3FFFF, 6⟩) &&
    reads .x 0x3A70007FFFE6 (.xbnone 7 ⟨0x3FFFF, 6⟩)) = true := by decide +kernel

theorem test_decode_l_loads :
    (reads .l 0x000000000000 (.lnop) &&
    reads .l 0x00FF7BEBFFFC (.ldq 7 15 .d .cf32 62 .pre 0x3FFFC) &&
    reads .l 0x016EB00FFFFC (.ldqb 6 14 .p .u8 .step 0x3FFFC) &&
    reads .l 0x01DDEFF7FFFC (.ldqs 5 13 .f .u16 63 .elem 0x3FFFC) &&
    reads .l 0x024D68000000 (.ldqg 4 3 .d .i32 2) &&
    reads .l 0x02B92C000000 (.lgen 3 2 .d .f16 6) &&
    reads .l 0x03214C0000BF (.ldqk 2 1 .d .e4m3 63 2) &&
    reads .l 0x038C40740005 (.lpf 12 .d 7 .post 5) &&
    reads .l 0x040C00000004 (.agset 3 (.dim 3)) &&
    reads .l 0x048800000000 (.agidx 2) &&
    reads .l 0x050400000000 (.agrst 1) &&
    reads .l 0x084C7FFFFFFF (.laddi 9 8 0x7FFFFFFF) &&
    reads .l 0x08C87FFFFFFE (.lmovi 9 0x7FFFFFFE) &&
    reads .l 0x094C00000000 (.ladd 9 8) &&
    reads .l 0x09C800000000 (.lpopc 9) &&
    reads .l 0x0C0C00000000 (.lgcb 3) &&
    reads .l 0x0C8800000000 (.cbclr 2) &&
    reads .l 0x0D0400000000 (.cbget 1)) = true := by decide +kernel

theorem test_decode_s_stores :
    (reads .s 0x000000000000 (.snop) &&
    reads .s 0x00FEF7FFFFFF (.stq 3 15 .d .cf32 .step 0x1FFFFFF) &&
    reads .s 0x015D65FFFFFC (.stqs 2 14 .p .u8 .span 0x1FFFFFC) &&
    reads .s 0x01BBD1FFFFFC (.stqg 1 13 .f .u32 0x1FFFFFC) &&
    reads .s 0x0238937FFFF8 (.sgen 1 12 .d .f16 true 5 0x3FFFF8) &&
    reads .s 0x02B6CFFFFFE8 (.stn 1 11 .d .i4 true 0x1FFFFE 8) &&
    reads .s 0x0414B6FFFFF8 (.aadd 10 .d .i32 true true 0xFFFFF8) &&
    reads .s 0x0514B6FFFFF8 (.amax 10 .d .i32 true true 0xFFFFF8) &&
    reads .s 0x0594B6FFFFF8 (.amin 10 .d .i32 true true 0xFFFFF8) &&
    reads .s 0x0614B6FFFFF8 (.aand 10 .d .i32 true true 0xFFFFF8) &&
    reads .s 0x0694B6FFFFF8 (.aor 10 .d .i32 true true 0xFFFFF8) &&
    reads .s 0x0714B6FFFFF8 (.axor 10 .d .i32 true true 0xFFFFF8) &&
    reads .s 0x0794B6FFFFF8 (.axchg 10 .d .i32 true true 0xFFFFF8) &&
    reads .s 0x0814B6FFFFF8 (.acas 10 .d .i32 true true 0xFFFFF8) &&
    reads .s 0x049484FFFFF8 (.afadd 10 .d .f32 true false 0xFFFFF8) &&
    reads .s 0x08F4D7FFFFC0 (.ahist 3 10 .d .u32 0x7FFFFC0) &&
    reads .s 0x0C1281FFFFC0 (.acq 9 .d true 0xFFFFC0) &&
    reads .s 0x0C9300000040 (.tryacq 9 .p false 64) &&
    reads .s 0x0D1280FFFFC0 (.rel 9 .d 0xFFFFC0) &&
    reads .s 0x0D9283FFFFC0 (.sobind 9 .d 3 0xFFFFC0) &&
    reads .s 0x10000000FEFF (.tcinc 255 254) &&
    reads .s 0x144C7FFFFFFF (.saddi 9 8 0x7FFFFFFF) &&
    reads .s 0x14C87FFFFFFE (.smovi 9 0x7FFFFFFE) &&
    reads .s 0x154C00000000 (.sadd 9 8) &&
    reads .s 0x15C800000000 (.spopc 9)) = true := by decide +kernel

/-! ### Small states -/

/-- A task of mode locked or free with a large budget. -/
def benchTask (locked : Bool) : Task := { fetchTask with locked := locked, budget := 1000000, group := if locked then 1 else 0 }

/-- A core whose four clusters run at lines 0 to 3, with one pinned page: addresses 0x1_0000 on are vault offsets 0 on. -/
def benchCore (locked : Bool) : Core :=
  { Core.reset with
    task := some (benchTask locked)
    tlb := [⟨0x10000, 0x10000, 0, true, true, false, true, 0⟩]
    ctx := { Ctx.zero with
      sys := { Sys.zero with imagelen := 8, clusters := 15 }
      streams := #v[⟨.run, 0, 2, false, 0, none, none⟩, ⟨.run, 1, 2, false, 0, none, none⟩, ⟨.run, 2, 2, false, 0, none, none⟩,
        ⟨.run, 3, 2, false, 0, none, none⟩] } }

/-- A domain of one module in operation whose core 0 of die 0 is the given one. -/
def bench (c : Core) : State :=
  { State.reset with agenda := [], cores := [(⟨0, 0⟩, c)], modules := 1, flat := 640, domain := { Domain.zero with stage := 6 } }

/-- The free task's core with s1, s2 and s4, a1 and b1 given. -/
def benchRegs (x y z : Word) : State :=
  bench ((benchCore false).modCtx fun k => { k with
    c := { k.c with s := ((k.c.s.set 1 x).set 2 y).set 4 z }
    l := { k.l with a := k.l.a.set 1 x }
    st := { k.st with b := k.st.b.set 1 x } })

/-- The same with the context changed. -/
def benchWith (f : Ctx → Ctx) : State := bench ((benchCore false).modCtx f)

/-- The locked task's core. -/
def benchLocked (f : Ctx → Ctx) : State := bench ((benchCore true).modCtx f)

theorem readyC0_of (s : State) (d : CDst)
    (h : s.me.dstOk d = true ∧ s.ifqCount s.cur < 64 ∧ s.me.reserveC s.seq d = .ok s.me) : ReadyC0 s d s.me := h

theorem readyC1_of (s : State) (d : CDst) (a : CSrc) (x : Word)
    (h : s.me.dstOk d = true ∧ s.me.srcOk a = true ∧ s.ifqCount s.cur < 64 ∧ readC s s.me a = .ok (x, s.me) ∧
      s.me.reserveC s.seq d = .ok s.me) : ReadyC1 s d a x s.me :=
  ⟨h.1, h.2.1, h.2.2.1, s.me, h.2.2.2⟩

theorem readyC2_of (s : State) (d : CDst) (a b : CSrc) (x y : Word)
    (h : s.me.dstOk d = true ∧ s.me.srcOk a = true ∧ s.me.srcOk b = true ∧ s.ifqCount s.cur < 64 ∧
      readC s s.me a = .ok (x, s.me) ∧ readC s s.me b = .ok (y, s.me) ∧ s.me.reserveC s.seq d = .ok s.me) :
    ReadyC2 s d a b x y s.me :=
  ⟨h.1, h.2.1, h.2.2.1, h.2.2.2.1, s.me, s.me, h.2.2.2.2⟩

theorem readyC3_of (s : State) (d : CDst) (a b e : CSrc) (x y z : Word)
    (h : s.me.dstOk d = true ∧ s.me.srcOk a = true ∧ s.me.srcOk b = true ∧ s.me.srcOk e = true ∧ s.ifqCount s.cur < 64 ∧
      readC s s.me a = .ok (x, s.me) ∧ readC s s.me b = .ok (y, s.me) ∧ readC s s.me e = .ok (z, s.me) ∧
      s.me.reserveC s.seq d = .ok s.me) : ReadyC3 s d a b e x y z s.me :=
  ⟨h.1, h.2.1, h.2.2.1, h.2.2.2.1, h.2.2.2.2.1, s.me, s.me, s.me, h.2.2.2.2.2⟩

theorem sourcesC1_of (s : State) (a : CSrc) (x : Word)
    (h : s.me.srcOk a = true ∧ s.ifqCount s.cur < 64 ∧ readC s s.me a = .ok (x, s.me)) : SourcesC1 s a x s.me := h

theorem sourcesC2_of (s : State) (a b : CSrc) (x y : Word)
    (h : s.me.srcOk a = true ∧ s.me.srcOk b = true ∧ s.ifqCount s.cur < 64 ∧ readC s s.me a = .ok (x, s.me) ∧
      readC s s.me b = .ok (y, s.me)) : SourcesC2 s a b x y s.me :=
  ⟨h.1, h.2.1, h.2.2.1, s.me, h.2.2.2⟩

theorem sourcesC3_of (s : State) (a b e : CSrc) (x y z : Word)
    (h : s.me.srcOk a = true ∧ s.me.srcOk b = true ∧ s.me.srcOk e = true ∧ s.ifqCount s.cur < 64 ∧
      readC s s.me a = .ok (x, s.me) ∧ readC s s.me b = .ok (y, s.me) ∧ readC s s.me e = .ok (z, s.me)) :
    SourcesC3 s a b e x y z s.me :=
  ⟨h.1, h.2.1, h.2.2.1, h.2.2.2.1, s.me, s.me, h.2.2.2.2⟩

/-! ### States that meet the hypotheses of the statements -/

/-- Operands in registers, a destination register, for every x, y and z; among them the corners of R91, the bounds of R93 and R95, the
shift amounts of R94 and the NaN of R68. -/
theorem test_witness_c_operands :
    (∀ p ∈ ([(7, 0), (2 ^ 63, BitVec.allOnes 64), (7, 2), (0x7FC00000, 1)] : List (Word × Word)),
      let s := benchRegs p.1 p.2 5
      ReadyC2 s (.s 3) (.s 1) (.s 2) p.1 p.2 s.me) ∧
    ReadyC0 (benchRegs 1 2 3) (.s 3) (benchRegs 1 2 3).me ∧
    ReadyC1 (benchRegs 1 2 3) (.s 3) (.s 1) 1 (benchRegs 1 2 3).me ∧
    ReadyC3 (benchRegs 1 2 3) (.s 3) (.s 1) (.s 2) (.s 4) 1 2 3 (benchRegs 1 2 3).me := by
  refine ⟨fun p hp => ?_, readyC0_of _ _ (by decide +kernel), readyC1_of _ _ _ _ (by decide +kernel),
    readyC3_of _ _ _ _ _ _ _ _ (by decide +kernel)⟩
  simp only [List.mem_cons, List.not_mem_nil, or_false] at hp
  rcases hp with rfl | rfl | rfl | rfl <;> exact readyC2_of _ _ _ _ _ _ (by decide +kernel)

/-- The clauses of the statements on those operands: each condition is met by one of them. -/
theorem test_witness_c_clauses :
    (2 ^ 63 : Word) = BitVec.ofInt 64 (-(2 ^ 63)) ∧ (63 : BitVec 24).toNat < 64 ∧ 64 ≤ (64 : BitVec 24).toNat ∧
    condTest .lt 1 2 = true ∧ condTest .lt 2 2 = false ∧ (1 : Word).ult ((2 : BitVec 24).signExtend 64) = true ∧
    (2 : Word).ult ((2 : BitVec 24).signExtend 64) = false ∧ (fpOf 0x7FC00000).isNan = true ∧
    fF32 ∈ [fF32, fBF16, fF16, fE4M3, fE5M2, fE2M1] ∧ 2 ^ 32 - 1 < 2 ^ fF32.w ∧ 0 < Fmt.count .cf32 := by decide +kernel

/-- A joined group runs: group 0, whose lines carry J = 1. -/
def benchJoined : State :=
  { benchWith fun k => { k with
      c := { k.c with s := k.c.s.set 1 2 }
      joined := some ⟨0, Vector.replicate 4 0, none⟩ } with
    mem := Mem.write [] (padBase ⟨0, 0⟩) (bytesOfParcel 0x3000 ++ bytesOfParcel 0) }

/-- Transfers apart and in a joined group, where a target must be the C line of a group (R125); a return position's parcel is 2 to 31
(R102). -/
theorem test_witness_c_transfers :
    (let s := benchRegs 34 2 0
     SourcesC2 s (.s 1) (.s 2) 34 2 s.me ∧ SourcesC1 s (.s 1) 34 s.me ∧ TargetOk s s.me (targetLine (s.me.lineOf .c) ⟨3, 2⟩) ∧
     TargetOk s s.me ((34 : Word).toNat / 32) ∧ 2 ≤ (34 : Word).toNat % 32 ∧ TargetOk s s.me (34 : Word).toNat ∧ s.Roomy ∧
     ((37 : Nat) : Int) = (s.me.lineOf .c : Int) + (3 : BitVec 18).toInt + (34 : Word).toNat ∧
     s.after s.cur (s.me.stream .c).line (s.me.stream .c).parcel = some (0, 6)) ∧
    (let s := benchJoined
     SourcesC1 s (.s 1) 2 s.me ∧ s.me.inJoined = true ∧ s.me.inHandler = false ∧ TargetOk s s.me (targetLine (s.me.lineOf .c) ⟨0, 2⟩)) ∧
    ((benchRegs 0 0 0).me.inJoined = false ∨ (benchRegs 0 0 0).me.inHandler = true) := by
  refine ⟨⟨sourcesC2_of _ _ _ _ _ (by decide +kernel), sourcesC1_of _ _ _ (by decide +kernel), ?_, ?_, by decide +kernel, ?_, ?_,
    by decide +kernel, by decide +kernel⟩, ⟨sourcesC1_of _ _ _ (by decide +kernel), by decide +kernel, by decide +kernel, ?_⟩,
    by decide +kernel⟩
  all_goals first | (unfold State.Roomy; decide +kernel) | (unfold TargetOk; decide +kernel)

/-- Scalar accesses: an aligned word of the vault, and one that is misaligned. -/
theorem test_witness_ScalarAccessesIssue :
    (let s := benchRegs 0x10008 5 0
     ReadyC1 s (.s 3) (.s 1) 0x10008 s.me ∧ SourcesC2 s (.s 1) (.s 2) 0x10008 5 s.me ∧
     checkElem s s.cur s.me .d .r (0x10008 + (0 : BitVec 17).signExtend 64) (sizeBytes .b8) (sizeBytes .b8) 0 false = .ok (8, s.me) ∧
     checkElem s s.cur s.me .d .w (0x10008 + (0 : BitVec 17).signExtend 64) (sizeBytes .b8) (sizeBytes .b8) 0 false = .ok (8, s.me)) ∧
    ((0x10008 : Word) + (1 : BitVec 17).signExtend 64).toNat % sizeBytes .b8 ≠ 0 := by
  refine ⟨⟨readyC1_of _ _ _ _ (by decide +kernel), sourcesC2_of _ _ _ _ _ (by decide +kernel), ?_, ?_⟩, ?_⟩ <;> decide +kernel

/-- WAITF and SLEEPU that wait, WAITF that is late, HALT with no rendezvous. -/
theorem test_witness_SystemInstructionsIssue :
    (∀ p ∈ ([5, 0] : List Word), let s := benchLocked fun k => { k with c := { k.c with s := k.c.s.set 1 p } }
      SourcesC1 s (.s 1) p s.me ∧ s.me.inHandler = false ∧ s.me.isLocked = true ∧ s.me.longestWait = none) ∧
    (let s := benchLocked fun k => { k with c := { k.c with s := k.c.s.set 1 5 } }
     s.framecnt s.cur < (5 : Word).toNat % 2 ^ 48 * 32768 ∧ s.framecnt s.cur < (5 : Word).toNat % 2 ^ 63 ∧
     (0 : Word).toNat % 2 ^ 48 * 32768 ≤ s.framecnt s.cur) := by
  refine ⟨fun p hp => ?_, by decide +kernel⟩
  simp only [List.mem_cons, List.not_mem_nil, or_false] at hp
  rcases hp with rfl | rfl <;>
    exact ⟨sourcesC1_of _ _ _ (by decide +kernel), by decide +kernel, by decide +kernel, by decide +kernel⟩

/-- A TRAP, and a BREAK, has issued and its stop is due. -/
theorem test_witness_TrapAndBreakStopBehind :
    (∀ kind ∈ [3, 4], let s := benchWith fun k => { k with streams := k.streams.set 0 ⟨.run, 0, 6, false, 0, none, some (kind, 9)⟩ }
      ((s.core ⟨0, 0⟩).stream .c).check = some (kind, 9) ∧ (s.core ⟨0, 0⟩).issues = true ∧
      ((s.core ⟨0, 0⟩).stream .c).reach ≤ s.itemCycle ⟨0, 0⟩ ∧ ((s.core ⟨0, 0⟩).stream .c).mode = .run ∧
      ((s.core ⟨0, 0⟩).stream .c).entering = false) := by decide +kernel

/-- A short parcel whose entry 5 holds a task-stamped ADDI with a cavity of 5 bits in its immediate; an MLOAD of two entries. -/
theorem test_witness_MouldsLoadFenceExpand :
    (let s := benchWith fun k => { k with moulds := [(5, BitVec.ofNat 128 (0x10020802000 + (3 + 4 * 64) * 2 ^ 64 + 2 ^ 80))] }
     s.me.ctx.mould 5 / 2 ^ 80 % 2 = 1 ∧ (s.me.ctx.stale[Cluster.c.idx]!).contains 5 = false ∧
     (∃ w, fillMould .c (s.me.ctx.mould 5) 17 = .ok w) ∧ s.me.inJoined = false) ∧
    (let s := benchRegs 32 1023 0
     SourcesC2 s (.s 1) (.s 2) 32 1023 s.me ∧ (32 : Word).toNat % 16 = 0 ∧ (32 : Word).toNat + 16 * (2 : BitVec 11).toNat ≤ 2 ^ 20 ∧
     s.me.ctx.mloads.length < 4 ∧ s.Roomy) := by
  refine ⟨⟨by decide +kernel, by decide +kernel, ⟨0x10020802000 + 17 * 8, by decide +kernel⟩, by decide +kernel⟩,
    sourcesC2_of _ _ _ _ _ (by decide +kernel), by decide +kernel, by decide +kernel, by decide +kernel, ?_⟩
  unfold State.Roomy; decide +kernel

/-- Markers: a queue with places, an RDV behind and one reached (m = 5 and m = 0 of engine 0); CWAIT 0 with an open batch, in a free and
in a locked task, and CWAIT 1. -/
theorem test_witness_MarkersAndWaitsIssue :
    (∀ l ∈ [false, true], let s := bench ((benchCore l).modCtx fun k => { k with copy := { k.copy with opened := [5] } })
      (s.ifqCount s.cur < 64 ∧ s.me.inHandler = false ∧ s.me.isLocked = l) ∧
      (∀ e, e < 5 → (1 : BitVec 5).getLsbD e = true → (s.me.ctx.markers[e]!).length < 8) ∧
      s.me.ctx.rdvFails 0 1 = 0 ∧ s.me.ctx.rdvFails 5 1 ≠ 0 ∧ (0 : BitVec 4).toNat < s.batches s.cur ∧
      s.batches s.cur ≤ (1 : BitVec 4).toNat) := by decide +kernel

/-- A copy of 256 bytes within a vault, and one of 0 bytes; CBATCH with an empty and with an open batch. -/
theorem test_witness_CopiesAreAccepted :
    (∀ len ∈ [256, 0], let s := benchRegs 0x10000 0x18000 len
      SourcesC3 s (.s 1) (.s 2) (.s 4) 0x10000 0x18000 len s.me ∧ s.me.inHandler = false ∧ (s.copies s.cur).length < 8 ∧
      len.toNat % 8 = 0 ∧ len.toNat ≤ 2 ^ 24 ∧
      checkWhole s s.cur s.me .d .r 0x10000 len.toNat = .ok (if len = 0 then [] else [⟨0, 256, 0⟩], s.me) ∧
      checkWhole s s.cur s.me .d .w 0x18000 len.toNat = .ok (if len = 0 then [] else [⟨0, 256, 0x8000⟩], s.me)) ∧
    (∀ o ∈ [[], [7]], let s := benchWith fun k => { k with copy := { k.copy with opened := o } }
      s.ifqCount s.cur < 64 ∧ s.me.inHandler = false ∧ s.closedBatches s.cur < 8 ∧ s.me.ctx.copy.opened = o) := by
  refine ⟨fun len h => ?_, by decide +kernel⟩
  simp only [List.mem_cons, List.not_mem_nil, or_false] at h
  rcases h with rfl | rfl <;> exact ⟨sourcesC3_of _ _ _ _ _ _ _ (by decide +kernel), by decide +kernel⟩

/-- MNEST of entry 3 in range; a legal format word (BF16 by BF16) and one with a reserved bit; MGO on tables of counts 1; MSIDE and MRSC
on 512 bytes of the vault. -/
theorem test_witness_MatrixCommandsIssue :
    (let s := benchRegs 0x10000 7 0
     SourcesC2 s (.s 1) (.s 2) 0x10000 7 s.me ∧ SourcesC1 s (.s 1) 0x10000 s.me ∧ s.me.inHandler = false ∧
     (0x10000 : Word).toNat % 1024 = 0 ∧ (7 : Word).toNat < 256 ∧ walkCount s.me.ctx.mat.shadow < 2 ^ 32 ∧
     s.me.ctx.mat.walks.length < 2 ∧ accFree s.me 0 = .ok () ∧ (0x10000 : Word).toNat % 8 = 0 ∧
     checkWhole s s.cur s.me .d .w 0x10000 512 = .ok ([⟨0, 512, 0⟩], s.me) ∧
     checkWhole s s.cur s.me .d .r 0x10000 512 = .ok ([⟨0, 512, 0⟩], s.me) ∧
     checkWhole s s.cur s.me .d .r 0x10000 256 = .ok ([⟨0, 256, 0⟩], s.me)) ∧
    (let s := benchRegs 0x200000011 0 0
     SourcesC1 s (.s 1) 0x200000011 s.me ∧ s.me.ctx.mat.fq.length < 8) ∧
    (formFault 0x200000011 = none) ∧ formFault (BitVec.allOnes 64) = some 1 := by
  refine ⟨⟨sourcesC2_of _ _ _ _ _ (by decide +kernel), sourcesC1_of _ _ _ (by decide +kernel), by decide +kernel⟩,
    ⟨sourcesC1_of _ _ _ (by decide +kernel), by decide +kernel⟩, ?_, ?_⟩ <;> decide +kernel

/-- Ranges of one page, and an ATTN block, in the vault. -/
theorem test_witness_PagesAndAttentionAreAccepted :
    (let s := benchRegs 0x10000 0x10100 0
     SourcesC2 s (.s 1) (.s 2) 0x10000 0x10100 s.me ∧ SourcesC1 s (.s 1) 0x10000 s.me ∧ s.me.inHandler = false ∧
     s.pageJobs s.cur < 4 ∧ s.attnJobs s.cur < 4 ∧ (0x10000 : Word).toNat % 64 = 0 ∧ (0x10100 : Word).toNat % 16 = 0 ∧
     checkWhole s s.cur s.me .d .rw 0x10000 (16 * ((1 : BitVec 12).toNat + 1)) = .ok ([⟨0, 32, 0⟩], s.me) ∧
     checkTwo s s.cur s.me .d .r .rw 0x10000 0x10100 (16 * ((1 : BitVec 12).toNat + 1)) (16 * ((1 : BitVec 12).toNat + 1))
       = .ok ([⟨0, 32, 0⟩], [⟨0, 32, 0x100⟩], s.me) ∧
     checkTwo s s.cur s.me .d .rw .rw 0x10000 0x10100 (16 * ((1 : BitVec 12).toNat + 1)) (8 * ((1 : BitVec 12).toNat + 1))
       = .ok ([⟨0, 32, 0⟩], [⟨0, 16, 0x100⟩], s.me) ∧
     checkTwo s s.cur s.me .d .r .rw 0x10000 0x10100 16 16 = .ok ([⟨0, 16, 0⟩], [⟨0, 16, 0x100⟩], s.me) ∧
     checkWhole s s.cur s.me .d .rw 0x10000 128 = .ok ([⟨0, 128, 0⟩], s.me) ∧
     s.poisoned (segPas [⟨0, 128, 0⟩] 0x40 5) = false) :=
  ⟨sourcesC2_of _ _ _ _ _ (by decide +kernel), sourcesC1_of _ _ _ (by decide +kernel), by decide +kernel⟩

/-- Blocks of casts and collectives; CSTAT with no request, one that runs, in a free and in a locked task, and one that has ended. -/
theorem test_witness_CastsAndCollectivesAreAccepted :
    (let s := benchRegs 0x10000 9 0
     SourcesC2 s (.s 1) (.s 2) 0x10000 9 s.me ∧ SourcesC1 s (.s 1) 0x10000 s.me ∧ s.me.inHandler = false ∧
     s.me.ctx.castq.length < 8 ∧ s.collCount s.cur < 4 ∧
     checkWhole s s.cur s.me .d .rw 0x10000 64 = .ok ([⟨0, 64, 0⟩], s.me) ∧
     checkWhole s s.cur s.me .d .rw 0x10000 128 = .ok ([⟨0, 128, 0⟩], s.me) ∧
     checkWhole s s.cur s.me .d .r 0x10000 128 = .ok ([⟨0, 128, 0⟩], s.me) ∧ s.me.ctx.castq = []) ∧
    (∀ l ∈ [false, true], ∀ d ∈ [none, some 0],
      let s := bench ((benchCore l).modCtx fun k => { k with castq := [⟨3, 0, d⟩] })
      s.ifqCount s.cur < 64 ∧ s.me.inHandler = false ∧ s.me.isLocked = l ∧ s.me.ctx.castq = ⟨3, 0, d⟩ :: []) ∧
    castCause 0 = none :=
  ⟨⟨sourcesC2_of _ _ _ _ _ (by decide +kernel), sourcesC1_of _ _ _ (by decide +kernel), by decide +kernel⟩, by decide +kernel⟩

/-- TSPAWN of both forms, PHINT on an empty record with and without a request, CRESIZE of 4 ways, alone and behind another. -/
theorem test_witness_SchedulerRequestsIssue :
    (let s := benchRegs 0x10000 3 0
     SourcesC2 s (.s 1) (.s 2) 0x10000 3 s.me ∧ SourcesC1 s (.s 1) 0x10000 s.me ∧ s.me.inHandler = false ∧
     (0x10000 : Word).toNat % 64 = 0 ∧ canonical (0x10000 : Word).toNat = true) ∧
    (∀ p ∈ [false, true], let s := benchWith fun k => { k with sys := { k.sys with preempting := p } }
     let pas := s.me.recordPas s.cur (3 : BitVec 14).toNat
     s.ifqCount s.cur < 64 ∧ s.me.inHandler = false ∧ (3 : BitVec 14).toNat < s.me.imagelen ∧ s.poisoned pas = false ∧
     liveBad (s.readAs s.cur pas) = none ∧ s.me.isLocked = false ∧ s.me.ctx.sys.preempting = p) ∧
    (∀ q ∈ [[], [⟨4, 10, 90, 0, true⟩], [⟨4, 10, 90, 0, false⟩]], let s := bench { benchCore false with cresizes := q }
     s.ifqCount s.cur < 64 ∧ s.me.inHandler = false ∧ (4 : BitVec 5).toNat ≤ 16 ∧ s.me.cresizes.length < 2 ∧
     s.friezeEnd s.cur.die ≤ (16 - (4 : BitVec 5).toNat) * 524288) :=
  ⟨⟨sourcesC2_of _ _ _ _ _ (by decide +kernel), sourcesC1_of _ _ _ (by decide +kernel), by decide +kernel⟩, by decide +kernel,
    by decide +kernel⟩

/-- A port of the E lane that carries a frieze, with panel 5 in place, its row 3 in use, and its map of rows 3 and 60. -/
def benchPort : Port :=
  ⟨0, .e, 7, 2, 0, [], 5 * 2 ^ 32, 5 * 2 ^ 32, 0, 0, [(3, 5, 9), (60, 5, 10)], [(3, 5, 9), (60, 5, 10)],
    (Vector.replicate 64 FzRow.zero).set 3 ⟨1, 5, 9, 0, 0⟩, 0, 0, false, [], 0, 0, [], none, none⟩

/-- The free task's core beside that port, the first words of its scratchpad given. -/
def benchLane (x y z : Word) (ws : List (BitVec 32)) : State :=
  { benchRegs x y z with
    ports := [benchPort]
    mem := Mem.write [] (padBase ⟨0, 0⟩) (ws.flatMap fun w => leBytes w.toNat 4) }

/-- PDISP on a lane without a frieze, beyond its count, on an empty entry and on one of line 1, parcel 2; PROW; PDONE of row 3. -/
theorem test_witness_FriezeInstructionsIssue :
    (let s := benchRegs 0 0 0
     SourcesC2 s (.s 1) (.s 2) 0 0 s.me ∧ tagKind (s.fzCur s.cur .e).toNat ≠ 0) ∧
    (∀ w ∈ [(0 : BitVec 32), 34], let s := benchLane 0 0x10005 0 [w]
     let tag := s.fzCur s.cur .e
     SourcesC2 s (.s 1) (.s 2) 0 0x10005 s.me ∧ tagKind tag.toNat = 0 ∧ (tagIndex tag.toNat + 65536 - bits 0x10005 15 0) % 65536 = 0 ∧
     0 < bits (0x10005 : Word) 31 16 ∧ bits (0x5 : Word) 31 16 ≤ 0 ∧ s.poisoned (pasFrom (padBase s.cur) 4) = false ∧
     leNat (s.readAs s.cur (pasFrom (padBase s.cur) 4)) = w.toNat ∧ (s.me.useLane .e).inJoined = false) ∧
    (let s := benchLane 3 9 0x10000 []
     SourcesC3 s (.s 1) (.s 2) (.s 4) 3 9 0x10000 s.me ∧ SourcesC2 s (.s 1) (.s 2) 3 9 s.me ∧ SourcesC1 s (.s 1) 3 s.me ∧
     s.laneView s.cur .e = some benchPort ∧ s.holds = [] ∧ benchPort.carries = true ∧ s.me.inHandler = false ∧ (0x10000 : Word).toNat % 64 = 0 ∧
     canonical (0x10000 : Word).toNat = true) := by
  refine ⟨⟨sourcesC2_of _ _ _ _ _ (by decide +kernel), by decide +kernel⟩, fun w h => ?_,
    sourcesC3_of _ _ _ _ _ _ _ (by decide +kernel), sourcesC2_of _ _ _ _ _ (by decide +kernel), sourcesC1_of _ _ _ (by decide +kernel),
    by decide +kernel⟩
  simp only [List.mem_cons, List.not_mem_nil, or_false] at h
  rcases h with rfl | rfl <;> exact ⟨sourcesC2_of _ _ _ _ _ (by decide +kernel), by decide +kernel⟩

/-! X -/

/-- A task whose predicate p1 makes 8 lanes active, and whose vectors v1, v2 and v3 are given. -/
def benchVecs (x y z : Vec) : State :=
  benchWith fun k => { k with x := { k.x with v := ((k.x.v.set 1 x).set 2 y).set 3 z, p := k.x.p.set 1 0xFF } }

/-- The core with a place taken in a channel. -/
def benchPlaced (s : State) (ch : Fin 18) : Core :=
  s.me.setChan ch (s.me.ctx.chan[ch] ++ [⟨s.seq, false, Vec.zero, BitVec.allOnes 64, none⟩])

/-- Operands in v1, v2 and v3 under any predicate, for elements of any width: what the statements on X's results (floats, integers,
conversions, moves and reductions) ask for. -/
theorem test_witness_x_operands (x y z : Vec) (w : Nat) (p : Fin 8) :
    let s := benchVecs x y z
    let m := laneMask w (s.me.pred p)
    ReadyX1 s w (.v 4) p (.v 1) m x s.me ∧ ReadyX2 s w (.v 4) p (.v 1) (.v 2) m x y s.me ∧
      ReadyX3 s w (.v 4) p (.v 1) (.v 2) (.v 3) m x y z s.me :=
  have r : (benchVecs x y z).Roomy := (by decide : 0 < 64)
  ⟨⟨rfl, rfl, r, rfl, _, rfl, rfl⟩, ⟨rfl, rfl, rfl, r, rfl, _, _, rfl, rfl, rfl⟩, ⟨rfl, rfl, rfl, rfl, r, rfl, _, _, _, rfl, rfl, rfl, rfl⟩⟩

/-- A predicate that picks inputs, with and without a place on xq; the places of PCNT, PFIRST, DCOUNT and VLANE. -/
theorem test_witness_x_picks :
    let x : Vec := Vector.replicate 64 3
    let s := benchVecs x x x
    ReadyPick1 s 32 (.v 4) 1 false (.v 1) 0xFF x s.me ∧ ReadyPick1 s 32 (.v 4) 1 true (.v 1) 0xFF x (benchPlaced s chXq) ∧
    ReadyPick2 s 32 (.v 4) 1 (.v 1) (.v 2) 0xFF x x s.me ∧ ReadyXq s (benchPlaced s chXq) ∧
    s.poisoned (s.me.cbtabPas s.cur) = false := by
  refine ⟨⟨?_, ?_, ?_, ?_, ?_, _, _, rfl, rfl, rfl⟩, ⟨?_, ?_, ?_, ?_, ?_, _, _, rfl, rfl, rfl⟩, ⟨?_, ?_, ?_, ?_, ?_, _, _, rfl, rfl, rfl⟩,
    ⟨?_, ?_, ?_⟩, ?_⟩
  all_goals first | decide +kernel | (unfold State.Roomy; decide +kernel)

/-- A deferral with room and one without; a tile that is free and one that a command owns. -/
theorem test_witness_DeferralAndTilesIssue :
    (∀ n ∈ [0, 504, 505], let x : Vec := Vector.replicate 64 3
      let s := (fun s : State => s.setCore ⟨0, 0⟩ (s.me.modCtx fun k => { k with x := { k.x with defq := List.replicate n 1 } }))
        (benchVecs x x x)
      s.ifqCount s.cur < 64 ∧ readX 32 s.me (.v 1) = .ok (x, s.me) ∧ s.me.xdstOk (.v 4) = true ∧
      s.me.reserveX s.seq (.v 4) (BitVec.allOnes 64) = .ok s.me ∧
      (s.me.ctx.x.defq.length + (deferEntries (s.me.pred 1) x x).length ≤ 512 ↔ n ≠ 505) ∧ accFree s.me 0 = .ok ()) ∧
    (let o : Own := ⟨0, 4, 2, true, none⟩
     let s := benchWith fun k => { k with mat := { k.mat with owns := [o] } }
     s.me.ctx.mat.owns = [o] ∧ o.tile = (2 : Fin 4).val ∧ o.at s.me.ctx.tau = true) := by decide +kernel

/-- Transfers of X, L and S apart and in a joined group. -/
theorem test_witness_ApartTransfersIssue :
    (∀ s ∈ [benchRegs 0 0 0, benchJoined], s.ifqCount s.cur < 64) ∧ (benchRegs 0 0 0).me.inJoined = false ∧
      benchJoined.me.inJoined = true := by decide +kernel

/-! L and S -/

theorem ok_exists {ε α : Type} {x : Except ε (α × Core)} (h : x.isOk = true) : ∃ a c, x = .ok (a, c) := by
  match x, h with
  | .ok (a, c), _ => exact ⟨a, c, rfl⟩

/-- Loads of whole, broadcast, strided and generated elements from the vault and an LDQK; the misaligned ones; an address generator
without and with an indirect dimension. -/
theorem test_witness_LoadsToQueuesIssue :
    let s := benchRegs 0x10000 0 0
    let c := benchPlaced s (chOq 0)
    s.ifqCount s.cur < 64 ∧ s.me.chanPresent (chOq 0) = true ∧ s.me.reserve (chOq 0) s.seq (BitVec.allOnes 64) = .ok c ∧
    (∃ els c1, checkPlaces s s.cur .d .r (contiguous 0x10000 4 256) c = .ok (els, c1)) ∧
    (∃ els c1, checkPlaces s s.cur .d .r [⟨0x10000, 2, 2, 0⟩] c = .ok (els, c1)) ∧
    ((0x10000 : Word) + (1 : BitVec 18).signExtend 64).toNat % 4 ≠ 0 ∧
    (∃ els c1, checkPlaces s s.cur .d .r ((List.range 64).map fun (e : Nat) =>
      (⟨addrSum 0x10000 ((e : Int) * (8 : BitVec 18).toInt), 4, 4, e * 4 / 4⟩ : Place)) c = .ok (els, c1)) ∧
    (∀ ind ∈ [(0 : BitVec 3), 1], ∃ els c1, genSegs s s.cur .d 0 4 128 2 0
      { s.me.ctx.l.ag[(0 : Fin 4)] with base := 0x10000, stride := Vector.replicate 4 256, count := Vector.replicate 4 2, ind := ind } c
        = .ok (els, c1)) ∧
    (∃ pa c1, checkElem s s.cur c .d .r 0x10000 16 16 0 false = .ok (pa, c1)) ∧
    c.ctx.sys.ropetab.toNat % 2 ^ 20 + 1024 ≤ 2 ^ 20 ∧ (0x10001 : Word).toNat % 16 ≠ 0 := by
  refine ⟨by decide +kernel, by decide +kernel, rfl, ok_exists (by decide +kernel), ok_exists (by decide +kernel), by decide +kernel,
    ok_exists (by decide +kernel), fun ind h => ?_, ok_exists (by decide +kernel), by decide +kernel, by decide +kernel⟩
  simp only [List.mem_cons, List.not_mem_nil, or_false] at h
  rcases h with rfl | rfl <;> exact ok_exists (by decide +kernel)

/-- Two dimensions of 3 and 2, at the first and the last element. -/
theorem test_witness_GeneratorsStepAndAddress :
    ∀ idx ∈ [(#v[0, 0, 0, 0] : Vector Nat 4), #v[2, 1, 0, 0]],
      let g : AddrGen := ⟨0x10000, #v[4, 64, 0, 0], #v[3, 2, 1, 1], idx, 0, 0, 0⟩
      (∀ d : Fin 4, g.idx[d] < g.n d) ∧ g.ind = 0 := by decide +kernel

/-- A pass that a trap ends. -/
def endsInTrap (p : Pass) : Bool :=
  match p.fail with | some (_, .trap c _) => c != .operandEmpty | _ => false

/-- A gather of four lanes that passes, one whose first lane fails and one whose second does; likewise of scatters. -/
theorem test_witness_GathersAndScattersIssue :
    (∀ p ∈ [(0x10000, 4, true, 4), (0x10001, 4, false, 0), (0x10000, 1, false, 1)],
      let g : AddrGen := ⟨BitVec.ofNat 64 p.1, #v[BitVec.ofNat 32 p.2.1, 0, 0, 0], #v[64, 1, 1, 1], Vector.replicate 4 0, 0, 0, 0⟩
      let s := benchWith fun k => { k with l := { k.l with ag := k.l.ag.set 0 g, cb := k.l.cb.set 0 (BitVec.allOnes 64 - 15) } }
      s.ifqCount s.cur < 64 ∧ s.me.chanPresent (chOq 0) = true ∧ s.me.occ (chOq 0) < 8 ∧
      (let r := gatherLanes s s.cur .d 0 s.me.ctx.l.cb[(0 : Fin 4)] 64 0 s.me.ctx.l.ag[(0 : Fin 4)] s.me false
       r.fail.isNone = p.2.2.1 ∧ endsInTrap r = !p.2.2.1 ∧ r.els.length = p.2.2.2)) ∧
    (∀ p ∈ [(0x10000, 4, true, 2), (0x10001, 4, false, 0), (0x10000, 1, false, 1)],
      let ie : ChanEntry := ⟨1, true, vecOfLanes [0, BitVec.ofNat 32 p.2.1], BitVec.allOnes 64, none⟩
      let de : ChanEntry := ⟨2, true, vecOfLanes [7, 8], 3, none⟩
      let s := benchWith fun k => { k with chan := k.chan.set 8 [ie, de], st := { k.st with b := k.st.b.set 1 (BitVec.ofNat 64 p.1) } }
      s.ifqCount s.cur < 64 ∧ s.me.chanPresent (chSq 0) = true ∧ s.me.ctx.chan[chSq 0] = ie :: de :: [] ∧
      (let r := scatterLanes s s.cur .d s.me.ctx.st.b[(1 : Fin 16)] (0 : BitVec 25).toInt ie.v de.mask 64 0 s.me false
       r.els.length = p.2.2.2 ∧ r.fail.isNone = p.2.2.1 ∧ endsInTrap r = !p.2.2.1)) := by decide +kernel

/-- A landed channel entry of a word, all lanes active. -/
def benchEntry (w : Word) : ChanEntry := ⟨1, true, vecOfWord w, BitVec.allOnes 64, none⟩

/-- The free task's core with the entries given on a channel, and with b1 given. -/
def benchChan (ch : Fin 18) (es : List ChanEntry) (b : Word) : State :=
  benchWith fun k => { k with chan := k.chan.set ch es, st := { k.st with b := k.st.b.set 1 b } }

/-- A word on cl and on cs for the address registers and generators, among them one that AGSET's indirect form takes; an entry on lq. -/
theorem test_witness_AddressRegistersLand :
    (let s := benchChan chCl [benchEntry 0x10000000001] 0
     s.ifqCount s.cur < 64 ∧ s.me.chanPresent chCl = true ∧ s.me.pop chCl = .ok (benchEntry 0x10000000001, s.me.setChan chCl []) ∧
     (wordOfVec (benchEntry 0x10000000001).v).toNat % 8 ≤ 4 ∧ (wordOfVec (benchEntry 0x10000000001).v).toNat / 2 ^ 32 % 4 = 0 ∧
     s.me.chanPresent chLq = true ∧ s.me.reserve chLq s.seq (BitVec.allOnes 64) = .ok (benchPlaced s chLq)) ∧
    (let s := benchChan chCs [benchEntry 5] 0
     s.ifqCount s.cur < 64 ∧ s.me.chanPresent chCs = true ∧ s.me.pop chCs = .ok (benchEntry 5, s.me.setChan chCs [])) := by
  refine ⟨⟨?_, ?_, rfl, ?_, ?_, ?_, rfl⟩, ?_, ?_, rfl⟩ <;> decide +kernel

/-- A store of a whole vector, of none of its lanes, and an AHIST of two lanes, aligned and not. -/
theorem test_witness_QueueStoresIssue :
    (∀ m ∈ [BitVec.allOnes 64, (0 : Word)],
      let e : ChanEntry := ⟨1, true, Vec.zero, m, none⟩
      let s := benchChan 8 [e] 0x10000
      s.ifqCount s.cur < 64 ∧ s.me.popSq 0 = .ok (e, s.me.setChan (chSq 0) []) ∧
      ∃ els c1, checkPlaces s s.cur .d .w ((segPlaces e 0x10000 4 0 256).map (·.1)) (s.me.setChan (chSq 0) []) = .ok (els, c1)) ∧
    (let e : ChanEntry := ⟨1, true, Vec.zero, 6, none⟩
     let s := benchChan 8 [e] 0x10000
     s.ifqCount s.cur < 64 ∧ s.me.popSq 0 = .ok (e, s.me.setChan (chSq 0) []) ∧ activeLanes (e.mask &&& 0xFFFF) = [1, 2] ∧
     (0x10000 : Word).toNat < windowBase ∧ ((0x10000 : Word) + (4 : BitVec 27).signExtend 64).toNat % 64 ≠ 0 ∧
     ∃ els c1, checkPlaces s s.cur .d .w ([1, 2].map fun (i : Nat) => ⟨(0x10000 : Int) + (4 * i : Nat), 4, 4, i⟩)
       (s.me.setChan (chSq 0) []) = .ok (els, c1)) := by
  refine ⟨fun m h => ?_, ⟨by decide +kernel, rfl, by decide +kernel, by decide +kernel, by decide +kernel, ok_exists (by decide +kernel)⟩⟩
  simp only [List.mem_cons, List.not_mem_nil, or_false] at h
  rcases h with rfl | rfl <;> exact ⟨by decide +kernel, rfl, ok_exists (by decide +kernel)⟩

/-- An atomic on a word of the vault, with and without a return, and a compare and swap; one that is misaligned. -/
theorem test_witness_AtomicsIssue :
    let e := benchEntry 5
    let s := benchChan 14 [e, e] 0x10008
    let c0 := s.me.setChan chCs [e]
    let c2 := c0.setChan chCs []
    let on := fun c : Core => c.setChan chSr [⟨s.seq, false, Vec.zero, BitVec.allOnes 64, none⟩]
    s.ifqCount s.cur < 64 ∧ s.me.chanPresent chCs = true ∧ s.me.chanPresent chSr = true ∧ s.me.pop chCs = .ok (e, c0) ∧
    c0.pop chCs = .ok (e, c2) ∧ c0.reserve chSr s.seq (BitVec.allOnes 64) = .ok (on c0) ∧
    c2.reserve chSr s.seq (BitVec.allOnes 64) = .ok (on c2) ∧
    (∃ pa c1, checkElem s s.cur c0 .d .rw 0x10008 8 8 0 false = .ok (pa, c1)) ∧
    (∃ pa c1, checkElem s s.cur (on c0) .d .rw 0x10008 8 8 0 false = .ok (pa, c1)) ∧
    (∃ pa c1, checkElem s s.cur (on c2) .d .rw 0x10008 8 8 0 false = .ok (pa, c1)) ∧
    ((0x10008 : Word) + (2 : BitVec 24).signExtend 64).toNat % 4 ≠ 0 :=
  ⟨by decide +kernel, by decide +kernel, by decide +kernel, rfl, rfl, rfl, rfl, ok_exists (by decide +kernel),
    ok_exists (by decide +kernel), ok_exists (by decide +kernel), by decide +kernel⟩

/-- A sync object at the start of the vault; one that is misaligned. -/
theorem test_witness_SyncInstructionsIssue :
    (let e := benchEntry 5
     let s := benchChan 14 [e, e] 0x10000
     let c0 := s.me.setChan chCs [e]
     let c2 := c0.setChan chCs []
     let on := fun c : Core => c.setChan chSr [⟨s.seq, false, Vec.zero, BitVec.allOnes 64, none⟩]
     s.ifqCount s.cur < 64 ∧ s.me.chanPresent chCs = true ∧ s.me.chanPresent chSr = true ∧ s.me.pop chCs = .ok (e, c0) ∧
     c0.pop chCs = .ok (e, c2) ∧ s.me.reserve chSr s.seq (BitVec.allOnes 64) = .ok (on s.me) ∧
     c0.reserve chSr s.seq (BitVec.allOnes 64) = .ok (on c0) ∧
     (∀ c ∈ [s.me, on s.me, c0, on c0, c2], c.ctx.st.b[(1 : Fin 16)] = 0x10000) ∧
     (∀ c ∈ [s.me, on s.me, c0, on c0, c2], (checkBytes s s.cur c .d .rw 0x10000 64 0 false).map (·.1) = .ok 0) ∧
     (0x10000 : Word).toNat % 64 = 0 ∧ paSpace 0 = 0 ∧ canonical (wordOfVec e.v).toNat = true ∧ (wordOfVec e.v).toNat ≤ 2 ^ 47) ∧
    ((0x10000 : Word) + (8 : BitVec 24).signExtend 64).toNat % 64 ≠ 0 :=
  ⟨⟨by decide +kernel, by decide +kernel, by decide +kernel, rfl, rfl, rfl, rfl, by decide +kernel, by decide +kernel, by decide +kernel⟩,
    by decide +kernel⟩

/-! The coming events -/

/-- The free task's core to which something comes, with the vault's first bytes given. -/
def benchEvent (a : Arg) (bs : List Byte) : State := { benchRegs 0 0 0 with arg := a, mem := Mem.write [] 0 bs }

def benchPos : Pos := ⟨.c, 0, 2⟩

/-- Any landing, on one core and from one channel; a handler that does not run. -/
theorem test_witness_LandingsTakeEffect (l : Landing) (ch : Fin 18) (id : Nat) (v : Vec) :
    (benchEvent (.landing l) []).arg = .landing l ∧ (benchEvent (.chan ch.val id v) []).arg = .chan ch.val id v ∧
    (benchEvent .none []).me.inHandler = false := ⟨rfl, rfl, by decide +kernel⟩

/-- Stores of a word and of a nibble; a load of eight bytes, of good and of poisoned ones; a load that has been read already. -/
theorem test_witness_AccessesPerform :
    (∀ k ∈ [AccKind.st [1, 2], .stn [(true, 5)], .ldC (some 3) none true, .ldQ 0 4], ∀ d ∈ [none, some [7]],
      let a : Access := ⟨k, [⟨0x10000, 2, 0, 0⟩], benchPos, d⟩
      let s := benchEvent (.access a) [9, 9]
      (s.mem.wf && s.domain.hostMem.wf && s.staging.wf) = true ∧ s.arg = .access a ∧ a.kind = k ∧ a.data = d ∧ s.away = none ∧ s.ledger = [] ∧
      s.poisoned a.pas = false ∧ (∀ pa ∈ a.pas, s.inMotion pa = false) ∧ (a.pas.map s.mem.get).length ∈ [1, 2, 4, 8]) ∧
    (let e : El := ⟨0x10000, 8, 0, 0⟩
     let a : Access := ⟨.ldC none none false, [e], benchPos, none⟩
     let s := { benchEvent (.access a) [] with poison := [0] }
     s.arg = .access a ∧ a.els.find? (fun e => s.poisoned e.pas) = some e) := by decide +kernel

/-- Every atomic on a word and on a doubleword; a histogram of two lanes. -/
theorem test_witness_AtomicsPerform :
    (∀ op ∈ [AtomOp.add, .max, .min, .and, .or, .xor, .xchg, .cas, .fadd], ∀ z ∈ [4, 8],
      let r : AtomReq := ⟨op, true, z, 0, 0x10000, 5, 6, some 4, benchPos⟩
      let s := benchEvent (.atom r) [5]
      (s.mem.wf && s.domain.hostMem.wf && s.staging.wf) = true ∧ s.arg = .atom r ∧ (r.size = 4 ∨ r.size = 8) ∧ s.poisoned (pasFrom r.pa r.size) = false ∧
      s.ledger = [] ∧ (∀ pa ∈ pasFrom r.pa r.size, s.inMotion pa = false) ∧ s.away = none) ∧
    (let s := benchEvent (.hist 0 0x10000 (Vector.replicate 64 1) 6 benchPos) [5]
     (s.mem.wf && s.domain.hostMem.wf && s.staging.wf) = true ∧ s.poisoned (pasFrom 0 256) = false ∧ s.ledger = [] ∧
     ∀ k, k < 256 → s.inMotion (0 + k) = false) := by decide +kernel

/-- A mutex that is free, one that this core holds and one that another holds; a barrier of two on its last arrival; an event that has
come and one that has not. -/
theorem test_witness_SyncObjectsPerform :
    (∀ p ∈ [([], none, SoKind.mutex, some true), ([3, 0, 0, 0, 1], none, .mutex, some false), ([3, 0, 0, 0, 9], none, .mutex, some false),
        ([3, 0, 0, 0, 1, 0, 0, 0, 1, 0, 0, 0, 2], some 3, .barrier, some true), ([3, 0, 0, 0, 0, 0, 0, 0, 2], some 4, .event, some false)],
      let bs : List Byte := p.1
      let r : AcqReq := ⟨0, 0x10000, p.2.1, some 4, benchPos⟩
      let s := benchEvent (.acq r) bs
      (s.mem.wf && s.domain.hostMem.wf && s.staging.wf) = true ∧ s.arg = .acq r ∧ s.poisoned (pasFrom r.pa 64) = false ∧
      s.away = none ∧ s.me.isLocked = false ∧ (s.syncObj r.pa).map (fun o => (o.kind, o.test r.gen)) = some (p.2.2.1, p.2.2.2)) ∧
    (∀ h ∈ [1, 9], let s := benchEvent (.rel ⟨0, 0x10000, benchPos⟩) [3, 0, 0, 0, h]
      (s.syncObj 0).map (fun o => (o.kind, decide (o.h = holderOf s.cur))) = some (.mutex, decide (h = 1))) ∧
    ((benchLocked id).me.isLocked = true) ∧
    (let r : AcqReq := ⟨0, 0x10000, none, none, benchPos⟩
     let s := { benchWith (fun k => { k with pause := some (.acquire r 3 4) }) with clock := 9 }
     s.me.ctx.pause = some (.acquire r 3 4) ∧ 3 < s.clock ∧ s.me.stopped = false ∧
     (s.syncObj r.pa).map (fun o => o.test r.gen) = some (some true)) ∧
    (let r : BindReq := ⟨0, 0x10000, 3, 0x10000, 256, benchPos⟩
     let s := benchEvent (.bind r) []
     s.arg = .bind r ∧ s.poisoned (pasFrom r.pa 64) = false ∧ (s.syncObj r.pa).isSome = true) := by decide +kernel

/-- Each wait over, and CSTAT's with a status that raises and one that does not; a fence; a mould copy's first entry; a format word; the
oldest marker with nothing in front of it. -/
theorem test_witness_WaitsEndAndQueuesAdvance :
    (∀ w ∈ [Wait.sleepu 0, .waitf 0, .rdvw 0 1, .cwait 0, .cstat], ∀ st ∈ [0, 0x22],
      let q : CastEnt := ⟨3, 0, some st⟩
      let s := benchWith fun k => { k with streams := k.streams.set 0 ⟨.wait w, 0, 6, false, 0, none, none⟩, castq := [q], report := some 3 }
      (s.me.stream .c).mode = .wait w ∧ s.me.stopped = false ∧ s.me.tauStands = false ∧ 0 ≤ s.framecnt s.cur ∧
      s.me.ctx.rdvFails 0 1 = 0 ∧ s.batches s.cur ≤ 0 ∧ s.me.ctx.castq = q :: [] ∧ s.me.ctx.report = some q.id ∧ q.done = some st ∧
      ((castCause st).isNone = true ↔ st = 0)) ∧
    (∀ sc, (benchEvent (.scope sc) []).arg = .scope sc) ∧
    (let j : MloadJob := ⟨7, 32, 1023, 2, 0⟩
     let s := { benchWith (fun k => { k with mloads := [j] }) with arg := .ids j.id j.done }
     s.me.ctx.mloads = j :: [] ∧ s.arg = .ids j.id j.done ∧ s.ledger = [] ∧
     ∀ i, i < 16 → s.inMotion (padBase s.cur + (j.src + 16 * j.done) + i) = false) ∧
    (let m : Marker := ⟨5, [], 0⟩
     let s := { benchWith (fun k => { k with markers := k.markers.set 2 [m] }) with arg := .ids 2 0 }
     s.arg = .ids 2 0 ∧ s.me.tauStands = false ∧ s.me.ctx.markers[2]! = m :: [] ∧ m.earliest ≤ s.me.ctx.tau ∧
     ((s.busyIds s.cur).all fun b => !m.behind.contains b.1) = true) :=
  ⟨by decide +kernel, fun _ => rfl, by decide +kernel, by decide +kernel⟩

/-- A task with a handler at line 1, parcel 2, and one without; a USER, a SUPERVISOR and the FATAL cause. -/
theorem test_witness_TakingAnException :
    (let c := (benchWith fun k => { k with sys := { k.sys with tvec := 34 } }).me
     Cause.bound.cls = .user ∧ Cause.align.cls = .supervisor ∧ Cause.eccUncorrectable.cls = .fatal ∧ c.inHandler = false ∧
     c.ctx.sys.tvec ≠ 0 ∧ c.ctx.sys.handlerOk = true) ∧
    ¬ (benchRegs 0 0 0).me.ctx.sys.tvec ≠ 0 ∧ ((benchRegs 0 0 0).core ⟨0, 0⟩).isFree = true ∧
    ((benchLocked id).core ⟨0, 0⟩).isLocked = true := by decide +kernel

/-- A handler that has asked to resume, and to end; a budget used up by τ and by a wait; a supervisor with each cause. -/
theorem test_witness_HandlersAndSupervisorsDispose :
    (∀ a ∈ [1, 2], let h : Handler := ⟨Vector.replicate 16 0, Vector.replicate 4 0, 0, ⟨.run, 0, 2, false, 0, none, none⟩, some a, 0, 0⟩
      let s := benchWith fun k => { k with trapped := some (.handler h) }
      s.me.ctx.trapped = some (.handler h) ∧ h.action = some a ∧ s.me.ctx.sys.trapline = h.trapline ∧ s.me.isFree = true) ∧
    (let s := benchWith fun k => { k with tau := 1000000 }
     s.me.task = some (benchTask false) ∧ s.me.tauStands = false ∧ (benchTask false).budget ≤ s.me.ctx.tau) ∧
    (let r : AcqReq := ⟨0, 0x10000, none, none, benchPos⟩
     let s := { benchWith (fun k => { k with pause := some (.acquire r 3 4) }) with clock := 1000003 }
     s.me.ctx.pause = some (.acquire r 3 4) ∧ s.me.stopped = false ∧ 3 + (benchTask false).budget ≤ s.clock) ∧
    (∀ code ∈ [0x38, 0x39, 0x28, 0x10], let s := benchWith fun k => { k with trapped := some .supervisor
                                                                             sys := { k.sys with tcause := BitVec.ofNat 64 code } }
      s.me.ctx.trapped = some .supervisor ∧ s.me.ctx.sys.tcause.toNat % 256 = code ∧ s.me.ctx.sys.tcause.getLsbD 11 = false ∧
      s.me.isFree = true) := by decide +kernel

/-- A hold of one member, and the event that brings it; no task; a vault that a store waits for. -/
theorem test_witness_HoldWavesSpread :
    (let h : Hold := ⟨7, 1, none, ⟨0, 0⟩, 0, none, [(⟨0, 0⟩, 3)]⟩
     let s := { benchEvent (.ids 7 0) [] with holds := [h] }
     s.arg = .ids h.id 0 ∧ s.hold? h.id = some h ∧ s.me.task = some (benchTask false) ∧ h.kill = none ∧
     h.release = none ∧ memberLane s.cur = none ∧ { s with cores := [] }.me.task = none) ∧
    (let a : Access := ⟨.st [1], [⟨0x10000, 1, 0, 0⟩], benchPos, none⟩
     let s := { benchEvent (.ids 5 0) [] with agenda := [⟨.tau ⟨0, 0⟩, 0, ⟨0, 0⟩, 0, true, .accessPerform, .access a⟩] }
     s.arg = .ids 5 0 ∧ s.wholeGroups (s.usersOf s.cur) ≠ []) := by decide +kernel

/-- A walk that reads a table entry, a page's entry and one that is not valid. -/
theorem test_witness_WalksReadTheTables :
    ∀ p ∈ [(1, 1 + 8192 * 4), (4, 1 + 2 + 4 + 65536), (4, 0)],
      let w : Walk := ⟨0x20000, p.1, 0, 0, false, benchPos⟩
      let s := { benchWith (fun k => { k with pause := some (.walk w) }) with
                 mem := Mem.write [] w.entryPa (leBytes p.2 8) }
      s.me.ctx.pause = some (.walk w) ∧ s.poisoned (pasFrom w.entryPa 8) = false ∧ s.me.inHandler = false ∧
      s.mem.num w.entryPa 8 = p.2 := by decide +kernel

/-- A launch upon a core without a task. -/
theorem test_witness_LaunchedTasksStart :
    let d : Desc := ⟨0x10000, 4, 0, 0, 0, 0, 15, 0x20000, 16, 0x400, 1000, true, 3, 0⟩
    let r : LaunchReq := ⟨⟨0, 0x40000, 1⟩, 2, 0x50000, d, 9, 5, 6, 0, 0, 0⟩
    let s := { bench Core.reset with arg := .launch r }
    s.arg = .launch r ∧ s.me.task = none := by decide +kernel

/-- The scratchpad's lines 0 and 4 to 7 with the links given for them, and four streams that have ended their lines of group 0. -/
def benchGroups (first : Nat) (links : List Nat) (jump : Option (Nat × Nat × Nat)) : State :=
  { benchWith (fun k => { k with
      streams := Vector.ofFn fun i => ⟨.lineDone none, i.val, 31, false, 0, none, none⟩
      joined := some ⟨0, Vector.replicate 4 1, jump⟩, tau := 5 }) with
    mem := ([0, 4, 5, 6, 7].zip (first :: links)).foldl (fun m e => Mem.write m (padBase ⟨0, 0⟩ + 64 * e.1) (leBytes e.2 2)) [] }

/-- A task that has ended; a joined group whose last line has ended, with halt and with a next group that may start, or whose L line has
no J; a frame boundary with a free task on a reserved core. -/
theorem test_witness_TasksEndAndFramesBegin :
    (let s := benchWith fun k => { k with streams := Vector.replicate 4 ⟨.ended, 0, 2, false, 0, none, none⟩ }
     s.taskDone s.cur = true ∧ s.me.task = some (benchTask false) ∧ s.running? (benchTask false).run = none) ∧
    (let r : Running := ⟨⟨0, 0x40000, 1⟩, 1, 0, [⟨0, 0⟩, ⟨1, 0⟩], [⟨0, 0⟩, ⟨1, 0⟩], 7, none, 0, 0, []⟩
     let s := { benchWith (fun k => { k with streams := Vector.replicate 4 ⟨.ended, 0, 2, false, 0, none, none⟩ }) with
       sched := { Sched.zero with running := [r] } }
     s.taskDone s.cur = true ∧ s.running? (benchTask false).run = some r ∧ r.left.filter (· != s.cur) ≠ []) ∧
    (let s := benchGroups 0x3000 [] none
     s.groupNext s.cur = some .ends) ∧
    (let s := benchGroups 0x2000 [0x3000, 0x7000, 0xB000, 0xF000] (some (4, 2, 0))
     s.groupNext s.cur = some (.start 1 2) ∧ s.groupFault s.cur s.me 1 = none) ∧
    (let s := benchGroups 0x2000 [0x3000, 0x5000, 0xB000, 0xF000] (some (4, 2, 0))
     s.groupNext s.cur = some (.start 1 2) ∧ s.groupFault s.cur s.me 1 = some (.joinForm, 1, 1)) ∧
    (let s := { benchRegs 0 0 0 with
        clock := 32768, sched := { Sched.zero with ready := [⟨⟨0, 0x40000, 1⟩, 0, 2, [⟨0, 0⟩], 0, 1, 0, 63, true, 0, true, none⟩] } }
     s.sched.frame < s.clock / 32768 ∧ (∀ e ∈ s.sched.ready, e.kind ≠ 1) ∧ s.me.isFree = true ∧ s.me.ctx.drain = none ∧
     s.reservedBy s.cur = true) := by decide +kernel

/-- A CRESIZE that starts and one that completes in this cycle; a scrub step that is due. -/
theorem test_witness_VaultsResizeAndScrub :
    (∀ r ∈ [(⟨4, 0, 90, 0, true⟩ : Cresize), ⟨4, 0, 0, 0, true⟩, ⟨4, 0, 0, 0, false⟩], let s := bench { benchCore false with cresizes := [r] }
      (s.mem.wf && s.domain.hostMem.wf && s.staging.wf) = true ∧ s.me.cresizes = r :: [] ∧ r.start = s.timeline s.cur ∧
      (r.done = 0 → r.done = s.timeline s.cur)) ∧
    (let s := { benchRegs 0 0 0 with clock := 64, soft := [0] }
     64 * (s.scrubs + 1) ≤ s.clock ∧ paSpace (8 * 0) = 0 ∧ paOff (8 * 0) / 64 = s.scrubs % 131072) := by decide +kernel

/-- A copy of 256 bytes whose beat 1 is to be read, and has been read. -/
theorem test_witness_CopiesPerform :
    let k : CopyJob := ⟨0, 0, [⟨0, 256, 0⟩], [⟨0, 256, 0x8000⟩], 0x10000, 0x18000, 256, 40, 40, 90, 1, 90, true, 5, [1, 2, 3, 4],
      [(1, List.replicate 128 7)], benchPos⟩
    let job : Job := ⟨3, ⟨0, 0⟩, true, .copy k⟩
    let s := { benchEvent (.beat 3 1 true) [] with jobs := [job] }
    (s.mem.wf && s.domain.hostMem.wf && s.staging.wf) = true ∧ s.arg = .beat 3 1 true ∧ s.copyJob 3 = some (job, k) ∧
    s.poisoned (segPas k.src 128 128) = false ∧ s.ledger = [] ∧ (∀ pa ∈ segPas k.src 128 128, s.inMotion pa = false) ∧
    listGet? k.buf 1 = some (List.replicate 128 7) ∧ (segPas k.dst 128 128).Nodup ∧
    (∀ pa ∈ segPas k.dst 128 128, s.inMotion pa = false) := by decide +kernel

/-- A walk table with row strides of 64 and counts of 1. -/
def benchTab : WalkTab := Vector.replicate 10 ⟨64, 64, 1⟩

/-- A command of one sum block, BF16 by BF16, under number 9. -/
def benchCmd (ops : List BlockOps) (data : List BlockData) : MCmd :=
  ⟨9, 3, 0, true, 0, 0x200000011, Vector.replicate 4 (BitVec.ofNat 64 windowBase), benchTab, 4, ops, data⟩

/-- The matrix unit at a command's start, without a format, with one and with its tile in use; at a block's reads, at their perform,
its addition and its score step; MSIDE and MRSC before and behind their reads. -/
theorem test_witness_MatrixStepsPerform :
    (∀ p ∈ [([], []), ([((0x200000011 : Word), 1)], []), ([(0x200000011, 2)], [(⟨0, 4, 0, true, some 900⟩ : Own)])],
      let wk : MWalk := ⟨3, benchTab, 0⟩
      let s := benchWith fun k => { k with mat := { k.mat with walks := [wk], fq := p.1, owns := p.2, phase := .start 0 } }
      s.me.tauStands = false ∧ s.me.ctx.mat.startDue s.me.ctx.tau = true ∧ s.me.ctx.mat.nextWalk = some wk ∧ s.me.ctx.mat.fq = p.1 ∧
      (let f := formOf 0x200000011
       let cur : Vector Word 4 := Vector.ofFn fun o => walkAddr wk.tab o.val wk.next
       let at_ := s.me.ctx.mat.startAt f (s.matrixLat s.cur cur wk.tab f) s.me.ctx.tau
       at_ ≤ s.me.ctx.tau ↔ p.2 = [])) ∧
    (let s := { benchWith (fun k => { k with mat := { k.mat with cmds := [benchCmd [] []], phase := .block 9 0 0 } }) with arg := .beat 9 0 true }
     s.me.ctx.mat.cmd 9 = some (benchCmd [] []) ∧ s.me.tauStands = false ∧ s.me.ctx.mat.blockDue s.me.ctx.tau = true ∧
     (checkPieces s s.cur benchTab (0 != 0) (blockPieces (benchCmd [] []).cur benchTab (formOf 0x200000011) 0) s.me).isOk = true) ∧
    (let k := benchCmd [⟨0, [[⟨0, 256, padBase ⟨0, 0⟩⟩]]⟩] [⟨0, [], []⟩]
     let s := { benchWith (fun x => { x with mat := { x.mat with cmds := [k] } }) with arg := .beat 9 0 false }
     s.me.ctx.mat.cmd 9 = some k ∧ (k.ops.find? fun o => o.j == 0) = some ⟨0, [[⟨0, 256, padBase ⟨0, 0⟩⟩]]⟩ ∧
     s.poisoned (segsPas [⟨0, 256, padBase ⟨0, 0⟩⟩]) = false ∧ (k.data.find? fun o => o.j == 0) = some ⟨0, [], []⟩) ∧
    (∀ kind ∈ [0, 1, 2], ∀ d ∈ [[], [(1 : Byte)]], let r : SideReq := ⟨5, kind, 1, [⟨0x10000, 256, 0, 0⟩], d, benchPos⟩
      let s := benchEvent (.side r) []
      s.arg = .side r ∧ (∀ e ∈ r.els, s.poisoned e.pas = false) ∧ s.ledger = [] ∧ ∀ e ∈ r.els, ∀ pa ∈ e.pas, s.inMotion pa = false) := by
  decide +kernel

/-- A page at offset 0x10000 of the vault: an entry of it that names no anchor. -/
def benchKv (valid anchor : Bool) (tag refs : Nat) : KvEntry := ⟨valid, anchor, false, 0, 0, 0x10000, 9, 100, tag, refs⟩

/-- LDQK at a valid entry, whose page is reached by one class and not by another, at one that is not valid, and at its row. -/
theorem test_witness_PageStepsPerform_ldqk :
    (∀ v ∈ [false, true], let r : LdqkReq := ⟨0, 0x10000, .d, .bf16, 3, 0, 0, 4, 0, none, benchPos⟩
      let s := benchEvent (.ldqk r) (benchKv v false 0 0).bytes
      s.arg = .ldqk r ∧ s.ledger = [] ∧ s.poisoned (pasFrom r.pa 16) = false ∧ (∀ pa ∈ pasFrom r.pa 16, s.inMotion pa = false) ∧
      (let e := kvOf ((pasFrom r.pa 16).map s.mem.get)
       e.valid = v ∧ e.tag = s.me.domtag ∧ (s.reach s.cur r.cl e.page (e.image + 16)).isOk = true)) ∧
    (let r : LdqkReq := ⟨0, 0x10000, .d, .bf16, 3, 0, 0, 4, 0, none, benchPos⟩
     let s := benchEvent (.ldqk r) { benchKv true false 0 0 with page := vaultBase ⟨1, 0⟩ }.bytes
     let e := kvOf ((pasFrom r.pa 16).map s.mem.get)
     e.valid = true ∧ e.tag = s.me.domtag ∧ (s.reach s.cur r.cl e.page (e.image + 16)).isOk = false) ∧
    (let r : LdqkReq := ⟨0, 0x10000, .d, .bf16, 3, 0, 0, 4, 0, some ⟨0x10000, 0, some 5, none⟩, benchPos⟩
     let s := benchEvent (.ldqk r) []
     s.poisoned (pasFrom 0x10000 128 ++ ldqkOmega s.cur r) = false ∧ (∀ pa ∈ pasFrom 0x10000 128 ++ ldqkOmega s.cur r, s.inMotion pa = false) ∧
     s.away = none ∧ r.row.map (·.bytes) = some none) := by decide +kernel

/-- An entry of each page instruction on a page with an anchor, and of KMAP on one that has none. -/
theorem test_witness_PageStepsPerform :
    (∀ p ∈ [(PageOp.set, true), (.fork, true), (.drop, true), (.map false, false)], ∀ v ∈ [true, false],
      let e := benchKv v false 7 1
      let k : PageJob := ⟨p.1, 0x10000, 0x10100, [⟨0, 16, 0⟩], [⟨0, 16, 0x100⟩], 1, 5, 40, 7, 0, 0, [(0, e.bytes, 0)], none, benchPos⟩
      let job : Job := ⟨3, ⟨0, 0⟩, true, .page k⟩
      let s := { benchEvent (.beat 3 0 true) [] with
        jobs := [job], mem := (Mem.write [] 0 e.bytes).write e.anchorPa (benchKv p.2 true 7 1).bytes }
      let an := kvOf ((pasFrom e.anchorPa 16).map s.mem.get)
      (s.mem.wf && s.domain.hostMem.wf && s.staging.wf) = true ∧ s.arg = .beat 3 0 true ∧ s.pageJob 3 = some (job, k) ∧ s.ledger = [] ∧
      s.poisoned (segPas k.a 0 16) = false ∧ (∀ pa ∈ segPas k.a 0 16, s.inMotion pa = false) ∧
      listGet? k.ents 0 = some (e.bytes, 0) ∧ e.bytes.length = 16 ∧ kvOf e.bytes = e ∧ e.tag = k.tag ∧ s.pageHome job.owner e = true ∧
      (∀ pa ∈ pasFrom e.anchorPa 16, s.inMotion pa = false) ∧ an.valid = p.2 ∧ an.format = e.format ∧ an.dcode = e.dcode ∧
      an.refs < 4095 ∧ an.refs ≠ 0 ∧ e.anchor = false ∧ (∀ pa ∈ segPas k.b 0 16, pa ∉ pasFrom e.anchorPa 16)) := by decide +kernel

/-- A CFIND that has started. -/
def benchCast : CastJob :=
  ⟨.find true, 0, 0x10000, 0, [⟨0, 64, 0⟩], true, false, [], none, [], ⟨0, 0, 0, 0, 0, 0, 0, 0, 0⟩, false, 0, 0, 0, 0, [], 0, 0, (0, 0),
    0, 0, none, 0, [], 0, 0, false, false, [], [], [], [], benchPos⟩

/-- An attention and a cast request at a step. -/
theorem test_witness_RequestsWriteAtTheirEnd :
    (let k : AttnJob := ⟨0, .d, 0, 0x10000, [⟨0, 128, 0⟩], 1, 1, 0, false, 160, 700, 1, true, false, 0, [], [], [], [], [], [], [], [], [], [], benchPos⟩
     let job : Job := ⟨3, ⟨0, 0⟩, true, .attn k⟩
     let s := { benchEvent (.beat 3 0 true) [] with jobs := [job] }
     (s.mem.wf && s.domain.hostMem.wf && s.staging.wf) = true ∧ s.attnArg = some (job, k, 0) ∧ (segPas k.blk 0x7C 4).Nodup ∧
     (∀ pa ∈ segPas k.blk 0x7C 4, s.inMotion pa = false) ∧ k.status = 0) ∧
    (let job : Job := ⟨3, ⟨0, 0⟩, true, .cast benchCast⟩
     let s := { benchEvent (.beat 3 0 true) [] with jobs := [job] }
     s.castArg = some (job, benchCast) ∧ job.live = true) := by decide +kernel

/-! The scheduler, pre-emption and the domain -/

/-- A graph at 0x1_0000 with node 0 of a kind, whose word or descriptor lies at 0x1_0100, and what stands there. -/
def benchGraph (kind : Nat) (at_ : List Byte) : Mem :=
  ((Mem.write [] 0 (leBytes 0x10080 8 ++ leBytes 1 2)).write 0x80 (leBytes kind 8 ++ leBytes 0x10100 8)).write 0x100 at_

/-- The descriptor of a locked task, or of a free one, with code of one line at 0x1_0200. -/
def benchDesc (locked : Bool) : List Byte :=
  leBytes 0x10200 8 ++ leBytes 1 2 ++ leBytes 0 2 ++ leBytes 0 12 ++ leBytes 1 8 ++ leBytes 0 12 ++ leBytes 100 4 ++
    leBytes (if locked then 1 else 0) 4 ++ leBytes (if locked then 0 else 8) 4

def benchNode : NodeRef := ⟨0, 0x10000, 0⟩

/-- A ready placement on the cores given. -/
def benchReady (set : List CoreId) (claim : Option Nat) : ReadyNode := ⟨benchNode, 0, 1, set, 0x10080, 0, 0, 0, true, 0, false, claim⟩

def benchSched (a : Arg) (m : Mem) (f : Sched → Sched) : State := { benchRegs 0 0 0 with arg := a, mem := m, sched := f Sched.zero }

/-- A fault to record and a core to serve; a gate, a loop and a choice before and behind their word's read; a placement over two dies to
claim, its reply, and its go with and without a vote against it; an error token; TSPAWN at no graph and with a full queue. -/
theorem test_witness_SchedulingStepsPerform_graphs :
    (let s := { benchRegs 0 0 0 with faultq := [⟨⟨0, 0⟩, 0x30, 0⟩] }
     s.dispatch s.cur.die = some (.fault ⟨⟨0, 0⟩, 0x30, 0⟩)) ∧
    (let r : Running := ⟨benchNode, 2, 4, [⟨0, 0⟩], [⟨0, 0⟩], 0, none, 0, 0, [⟨0, 0⟩]⟩
     let s := benchSched .none [] fun k => { k with running := [r] }
     s.dispatch s.cur.die = some (.ask 4 ⟨0, 0⟩) ∧ (s.sched.running.find? fun r => r.id == 4) = some r ∧ r.remaining = 0) ∧
    (∀ kind ∈ [3, 4, 5], ∀ w ∈ [0, 3], let s := benchSched (.node benchNode none) (benchGraph kind (leBytes w 8)) id
      (s.mem.wf && s.domain.hostMem.wf && s.staging.wf) = true ∧ (s.nodeRec benchNode).map (fun p => (p.2.kind, p.2.a)) = some (kind, 0x10100) ∧
      s.schedRead 0 0x10100 8 = .ok (leBytes w 8) ∧ s.schedPa 0 (kind == 4) 0x10100 = .ok 0x100) ∧
    (let s := benchSched .none [] fun k => { k with ready := [benchReady [⟨0, 0⟩, ⟨1, 0⟩] none] }
     s.claimDue s.cur.die = some (benchReady [⟨0, 0⟩, ⟨1, 0⟩] none)) ∧
    (∀ v ∈ [true, false], let k : Claim := ⟨7, benchNode, some 0, [], [(1, v)]⟩
      let s := benchSched (.ids 7 1) (benchGraph 1 (benchDesc true)) fun q =>
        { q with ready := [benchReady [⟨0, 0⟩, ⟨1, 0⟩] (some 7)], claims := [k] }
      s.arg = .ids 7 1 ∧ (s.sched.claims.find? fun k => k.id == 7) = some k ∧
      (s.sched.ready.find? fun e => e.ref == k.ref) = some (benchReady [⟨0, 0⟩, ⟨1, 0⟩] (some 7)) ∧
      (∀ d ∈ diesOf [⟨0, 0⟩, ⟨1, 0⟩], d = 1 / 2 ∨ ∃ w ∈ k.votes, w.1 = d) ∧ k.votes.all (·.2) = v ∧ s.frozen benchNode = false ∧
      (s.nodeRec benchNode).isSome = true ∧
      (match s.descAt 0 0x10100 true with
        | .ok d => ((s.modSched fun q => { q with claims := [] }).loadImages 0 d [⟨0, 0⟩, ⟨1, 0⟩]).isOk
        | .error _ => false) = true) ∧
    (let k : ErrToken := ⟨0, 0x10000, []⟩
     let s := benchSched (.node benchNode none) [] fun q => { q with tokens := [k] }
     s.arg = .node benchNode none ∧ (s.sched.tokens.find? fun t => t.die == benchNode.die && t.graph == benchNode.graph) = some k) ∧
    (let s := benchSched (.spawn true 0x10000 0 0 0) [] id
     s.header s.cur.die 0x10000 = none) ∧
    (let s := benchSched (.spawn false 0x10000 0 0 0) (benchGraph 1 []) fun q =>
       { q with ready := List.replicate 1024 (benchReady [⟨0, 0⟩] none) }
     (s.header s.cur.die 0x10000).map (·.count) = some 1 ∧ 1024 ≤ s.queueLen s.cur.die) := by decide +kernel

/-- A task that drains, with and without budget left, and with a channel entry; the save of its first and of its last beat, beyond
SAVELEN and into no page; what then ends; a suspended task with and without a valid save area. -/
theorem test_witness_SchedulingStepsPerform_preemption :
    (let s := benchWith fun k => { k with drain := some ⟨[3], false, 0, 0⟩ }
     s.me.ctx.drain = some ⟨[3], false, 0, 0⟩ ∧ s.me.tauStands = false ∧ s.drainOver s.cur = true ∧ s.arg = .none) ∧
    (∀ tau ∈ [0, 1000000], let s := { benchWith (fun k => { k with drain := some ⟨[3], true, 0, 0⟩, tau := tau }) with arg := .ids 1 0 }
      s.me.ctx.drain = some ⟨[3], true, 0, 0⟩ ∧ s.me.tauStands = false ∧ s.me.overBudget = decide (tau = 1000000)) ∧
    (∀ p ∈ [((0 : Word), 0x20000, false), (0x10001, 0, false), (0x10001, 0x20000, true), (0x900001, 0x20000, false)],
      let s := { benchLocked (fun k => { k with
          drain := some ⟨[3], true, 0, 0⟩, trapped := some (.saving 0 200)
          sys := { k.sys with savebase := p.1, savelen := BitVec.ofNat 64 p.2.1 } }) with arg := .beat 0 1 true }
      s.me.ctx.trapped = some (.saving 0 200) ∧ s.arg = .beat 0 1 true ∧
      (s.me.ctx.sys.savelen.toNat ≤ 128 * 1 ↔ p.2.1 = 0) ∧ ((s.beatSegs s.cur 1 (min 128 (200 - 128 * 1))).isSome = true ↔ p.1 = 0x10001) ∧
      ((s.beatSegs s.cur 0 4).isSome = true ↔ p.1 = 0x10001) ∧ s.me.task = some (benchTask true)) ∧
    (let e : Suspended := ⟨⟨0, 0⟩, { benchTask false with desc := 0x10100, ref := benchNode }, 0x10401, 64, CopyState.zero, Vector.replicate 4 Stream.absent, none, 0⟩
     ∀ v ∈ [0, 1], let s := { benchSched .none ((benchGraph 1 (benchDesc false)).write 0x400 [v]) (fun q => { q with suspended := [e] }) with
                 cores := [(⟨0, 0⟩, { (benchCore false) with task := none })] }
      s.restorable s.cur = some e ∧
      (match s.descAt 0 0x10100 false with | .ok d => ((s.clearPad s.cur).loadImages 0 d [s.cur]).isOk | _ => false) = true ∧
      (s.sched.suspended.find? fun e => e.core == s.cur) = some e ∧ (s.descAt 0 0x10100 false).isOk = true ∧
      ([] : List Byte).length < e.size ∧ e.size ≤ (List.replicate 64 (0 : Byte)).length ∧
      (match s.areaPas e 0 with | .ok pas => !s.poisoned pas && decide (numAt (pas.map s.byteAt) 0 4 % 2 = v.toNat) | _ => false) = true) := by
  decide +kernel

/-- The ring of that port, of two dies, with a beat on its way to rank 0. -/
def benchRing (t : Nat) : Ring := ⟨7, .e, 0, [0, 1], 2, 0, [], 0, [], none, [], [(0, t, List.replicate 3072 5)]⟩

/-- The ring at a cycle of it, at a die. -/
def benchRingAt (t die : Nat) : State :=
  { benchRegs 0 0 0 with ports := [benchPort], rings := [benchRing t], cur := portId die, arg := .lane .e 7 t }

/-- The port with row 3 in a state, and a PDONE of that row. -/
def benchRow (st : Nat) : Port := { benchPort with rows := benchPort.rows.set 3 ⟨st, 5, 9, 0, 0⟩ }
def benchPdone (op : PdoneOp) (lane : FzLane) (formed : Nat) : PdoneReq := ⟨op, lane, 3, 9, 0x10000, formed, benchPos, false⟩

/-- A ring's slot boundary, publication and beats, at a die of the ring and at another. -/
theorem test_witness_FriezeStepsPerform_ring :
    (∀ t ∈ [2048, 2049], (∀ die ∈ [0, 5], (benchRingAt t die).laneArg = some (benchRing t, t)) ∧
      (benchRingAt t 5).actingPort (benchRing t) = none ∧ (benchRingAt t 0).actingPort (benchRing t) = some benchPort ∧
      (benchRing t).nextFrom benchPort.rank = some (1, 0) ∧
      ((benchRing t).beats.find? fun b => b.1 == benchPort.rank && b.2.1 == t) = some (0, t, List.replicate 3072 5)) ∧
    (let s := benchRingAt 2048 0
     (s.mem.wf && s.domain.hostMem.wf && s.staging.wf) = true ∧ benchPort.accs = [] ∧ benchPort.state ≤ 2 ∧ (benchRing 0).holes = [] ∧
     s.ports.filter (fun q => q.die == benchPort.die && q.lane == benchPort.lane) = [benchPort] ∧ s.soft = [] ∧ benchPort.carries = true ∧
     s.inMotion (s.placePa 0 .e ((benchRing 0).placeOf 2) 95 0) = false ∧ s.poisoned (pasFrom (s.placePa 0 .e 0 95 0) 32) = false) ∧
    (List.replicate 3072 (5 : Byte)).length = 3072 := by decide +kernel

/-- PDONE at a lane without a port, at one formed anew, and of each row state; the loss of a die, and its bypass. -/
theorem test_witness_FriezeStepsPerform :
    (∀ st ∈ [0, 1, 2], let s := { benchRegs 0 0 0 with ports := [benchRow st], arg := .pdone (benchPdone .adv .e 7) }
      s.arg = .pdone (benchPdone .adv .e 7) ∧ (benchPdone .adv .e 7).told = false ∧ (benchPdone .adv .e 7).row < 64 ∧ s.holds = [] ∧
      s.port? s.cur.die .e = some (benchRow st) ∧ s.pdoneView s.cur .e = some (benchRow st) ∧
      s.port? s.cur.die .w = none ∧ (benchRow st).carries = true ∧ (benchRow st).ring = 7 ∧ (benchRow st).ring ≠ 8 ∧
      ((benchRow st).rows.toArray.getD 3 FzRow.zero).state = st) ∧
    (benchEvent (.ids 0 0) []).cur.die ∉ (benchEvent (.ids 0 0) []).domain.off ∧
    (let s := { benchRingAt 2048 0 with arg := .ids 8 4 }
     s.arg = .ids 8 4 ∧ ((s.ringsOf s.cur.die).find? fun e => e.1.id == 8 - 1) = some (benchRing 2048, benchPort) ∧
     s.ring? (benchRing 2048).id = some (benchRing 2048) ∧ (benchRing 2048).nextFrom benchPort.rank = some (1, 0) ∧
     (∀ i ∈ (benchRing 2048).lost, (benchRing 2048).dieOf i / 8 ≠ benchPort.die / 8)) ∧
    (let g := { benchRing 2048 with dies := [0, 1, 8], lost := [1] }
     let s := { benchRingAt 2048 0 with rings := [g], arg := .ids 8 4 }
     ((s.ringsOf s.cur.die).find? fun e => e.1.id == 8 - 1) = some (g, benchPort) ∧ g.nextFrom benchPort.rank = some (2, 1) ∧
     s.ring? g.id = some g ∧ ∃ i ∈ g.lost, g.dieOf i / 8 = benchPort.die / 8) := by decide +kernel

/-- Flits of a port that is retried and of one that is not; drift within 8 cycles and beyond; the alignment barrier at stage 4; a
collective of two all-reduced words at each of its steps; its chunks; a TCINC behind a write and behind none. -/
theorem test_witness_FabricAndCollectivesPerform :
    (∀ good ∈ [true, false], ∀ h ∈ [none, some 6], let f : Flit := ⟨0, 3, 9, 100, good, [⟨0, 0⟩], none⟩
      let s := benchEvent (.flit f) []
      let u := { s with domain := { s.domain with retries := [{ f with hold := h }] } }
      s.arg = .flit f ∧ s.retrying f = none ∧ u.retrying f = some { f with hold := h } ∧
      (u.domain.retries.filter fun f => f.package == 0 && f.port == 3)[0]? = some { f with hold := h }) ∧
    (let s := { benchEvent (.ids 0 0) [] with domain := { Domain.zero with stage := 4 } }
     s.domain.stage = 4) ∧
    (let k : CollJob := ⟨0, 0x10000, [⟨0, 128, 0⟩], leBytes (2 ^ 32 * 2) 8 ++ leBytes 1 4 ++ List.replicate 116 0, true, 0, [0, 1], some 0,
        [⟨0, 4, 0x100⟩], [⟨0, 256, 0x200⟩], 0, none, [3], some 0, 0, [], [], none, false, benchPos⟩
     let job : Job := ⟨3, ⟨0, 0⟩, true, .coll k⟩
     let s := { benchEvent (.beat 3 0 true) [] with jobs := [job] }
     (s.mem.wf && s.domain.hostMem.wf && s.staging.wf) = true ∧ s.collArg = some (job, k, 0) ∧ k.node = none ∧ k.start = none ∧ k.info.timed = false ∧
     k.info.chunked = false ∧
     (let pas := segPas k.src 0 (min 256 (k.info.srcLen 0 - 0))
      s.poisoned pas = false ∧ s.ledger = [] ∧ ∀ pa ∈ pas, s.inMotion pa = false) ∧
     (segPas k.dst (256 * 0) 256).Nodup ∧ (∀ pa ∈ segPas k.dst (256 * 0) 256, s.inMotion pa = false) ∧
     (segPas k.blk 0x7C 4).Nodup ∧ (∀ pa ∈ segPas k.blk 0x7C 4, s.inMotion pa = false) ∧ job.live = true ∧ k.status = some 0 ∧
     0 < (collResult k.info 0 ((k.group.filterMap s.coll?).map s.collSource)).length) ∧
    (let k : CollJob := ⟨0, 0x10000, [⟨0, 128, 0⟩], (List.replicate 3 0 ++ [2]) ++ leBytes 2 4 ++ leBytes 1 4 ++ List.replicate 54 0 ++
          leBytes 1 2 ++ leBytes 2 4 ++ List.replicate 56 0, true, 0, [0, 1], some 0,
        [⟨0, 4, 0x100⟩], [⟨0, 256, 0x200⟩], 0, none, [3], some 0, 0, [], [], none, false, benchPos⟩
     let job : Job := ⟨3, ⟨0, 0⟩, true, .coll k⟩
     let s := { benchWith (fun x => { x with tau := 64 }) with jobs := [job], clock := 64, chunks := [(0, 0, 5)] }
     s.chunkReady s.cur.die = some (job, k, 0)) ∧
    (let s := benchEvent (.ids 3 4) []
     s.arg = .ids 3 4 ∧ s.writesPending s.cur s.ord = false) ∧
    (let a : Access := ⟨.st [1], [⟨0x10000, 1, 0, 0⟩], benchPos, none⟩
     let s := { benchEvent (.ids 3 4) [] with ord := 5, agenda := [⟨.tau ⟨0, 0⟩, 1, ⟨0, 0⟩, 0, true, .accessPerform, .access a⟩] }
     s.writesPending s.cur s.ord = true) := by decide +kernel

/-- The PF's queue, of 16 entries at host address 0, with one entry written and the function's features and events given. -/
def benchCmd0 (stage : Nat) (features : Option Nat) (events : List Word) (e : List Byte) : State :=
  { benchRegs 0 0 0 with
    domain := { Domain.zero with
      stage := stage
      fns := Domain.zero.fns.set 0 { HostFn.zero with enable := true, logn := 4, cqtail := 1, features := features, events := events }
      hostMem := Mem.write [] 0 e } }

/-- An entry's bytes from place n to the end of its parameters are 0. -/
def blankFrom (e : List Byte) (n : Nat) : Bool := ((e.drop (8 + n)).take (48 - n)).all (· == 0)

/-- The PF with a command's entry at the head of its queue. -/
def benchEntryOf (stage code : Nat) (pars : List Byte) : State :=
  benchCmd0 stage (if code = 2 then none else some 63) [9] (leBytes code 8 ++ pars)

/-- Doorbells, events and BAR2 accesses of the PF. -/
theorem test_witness_HostCommandsComplete_registers :
    (let s := { benchCmd0 6 (some 1) [] [] with arg := .words 0 20 }
     s.arg = .words 0 20 ∧ (0 : Word).toNat < 16 ∧ (s.fnOf 0).count ≤ (20 : Word).toNat % 4096 ∧ (s.fnOf 0).parked.all (·.halt) = true ∧
     (s.fnOf 0).events.length < 256) ∧
    (let s := { benchCmd0 6 (some 1) [] [] with arg := .bytes 0 0x100 [1, 2, 3, 4] }
     (s.mem.wf && s.domain.hostMem.wf && s.staging.wf) = true ∧ s.barBytes 0 true 0x100 4 = some (pasFrom 0x100 4) ∧
     s.barBytes 0 true (2 ^ 44) 4 = none ∧ 0x100 % 8 = 0 ∧ paSpace 0x100 ≤ 1) := by decide +kernel

/-- A reserved command before alignment, after it and in stage 7, and each command that the statement gives an effect of, at the head of
the PF's queue. -/
theorem test_witness_HostCommandsComplete :
    (∀ stage ∈ [4, 6, 7], let s := benchEntryOf stage 0 []
      (s.mem.wf && s.domain.hostMem.wf && s.staging.wf) = true ∧ s.fetchNext = some (0, 0) ∧ s.resetOver = none ∧
      commandOf (s.entryBytes 0 0) = .reservedCommand) ∧
    (let s := benchEntryOf 5 2 (leBytes 0x1000 8)
     let e := s.entryBytes 0 0
     s.fetchNext = some (0, 0) ∧ s.resetOver = none ∧ commandOf e = .negotiate ∧ par e 8 8 % 8 = 0 ∧ (s.fnOf 0).features = none ∧
     blankFrom e 8 = true) ∧
    (∀ c ∈ [(4, Instr.writeCmd), (5, .readCmd)], let s := benchEntryOf 6 c.1 (leBytes 0x100 8 ++ leBytes 0x1000 8 ++ leBytes 8 4)
      let e := s.entryBytes 0 0
      s.fetchNext = some (0, 0) ∧ commandOf e = c.2 ∧ (s.fnOf 0).features.isSome = true ∧ copyPar e = (0x100, 0x1000, 8) ∧
      copyOk 0x1000 8 = true ∧ s.fnBytes 0 true 0x100 8 = some (pasFrom 0x100 8) ∧ s.fnBytes 0 false 0x100 8 = some (pasFrom 0x100 8) ∧ blankFrom e 20 = true) ∧
    (let s := benchEntryOf 6 7 (leBytes 0x10000 8)
     let e := s.entryBytes 0 0
     s.fetchNext = some (0, 0) ∧ commandOf e = .launchGraph ∧ par e 8 8 % 64 = 0 ∧ s.ownDie 0 (par e 0x10 2) = true ∧
     s.aligned (par e 0x10 2) = true ∧ s.header (par e 0x10 2) (par e 8 8) = none ∧ blankFrom e 10 = true) ∧
    (let s := benchEntryOf 6 0x14 []
     s.fetchNext = some (0, 0) ∧ commandOf (s.entryBytes 0 0) = .eventCmd ∧ (s.fnOf 0).events = [9] ∧ (s.fnOf 0).has 4 = true ∧
     blankFrom (s.entryBytes 0 0) 0 = true) := by decide +kernel

/-- MAP on two cores, RESET of a die and of the domain. -/
theorem test_witness_HostCommandsComplete_map_reset :
    (let s := benchEntryOf 6 6 (leBytes 0 2 ++ leBytes 3 12 ++ leBytes 0x20000 8 ++ leBytes 15 8)
     let e := s.entryBytes 0 0
     s.fetchNext = some (0, 0) ∧ commandOf e = .mapCmd ∧ mapDenied 0 e s = false ∧ (mapPar e).entry.isSome = true ∧
     (mapPar e).cores = [⟨0, 0⟩, ⟨0, 1⟩] ∧ s.aligned (mapPar e).die = true ∧ (∀ c ∈ (mapPar e).cores, (s.core c).tlb.length < 192) ∧
     blankFrom e 31 = true) ∧
    (∀ c ∈ [(1, Instr.resetDie), (2, .resetDomain)], let s := benchEntryOf 6 3 (leBytes c.1 1)
      let e := s.entryBytes 0 0
      s.fetchNext = some (0, 0) ∧ commandOf e = c.2 ∧ s.aligned (par e 9 2) = true ∧ blankFrom e 3 = true) := by decide +kernel

/-- Each stage of bring-up with its event; a hot die at 1.4 GHz, and at 0.7; a spare that is due. -/
theorem test_witness_BringUpAndThermalSteps :
    (State.reset.domain.stage = 0 ∧ State.reset.modules = 0 ∧ State.reset.arg = .none) ∧
    (∀ p ∈ [(1, Arg.ids 7 0), (1, .none), (2, .none), (3, .ids 1 0)],
      let s := { State.reset with arg := p.2, domain := { Domain.zero with stage := p.1 } }
      s.domain.stage = p.1 ∧ s.arg = p.2) ∧
    (∀ n ∈ [0, 1, 2], (benchEvent (.ids n 0) []).arg = .ids n 0) ∧ 700 < (benchEvent .none []).domain.mhz ∧
    (let s := { benchEvent .none [] with domain := { Domain.zero with mhz := 700, hot := [0] } }
     s.domain.mhz ≤ 700 ∧ s.cur.die ∈ s.domain.hot ∧ s.cur.die ∉ s.domain.off) ∧
    (let s := bench { Core.reset with spare := (true, true) }
     s.remapDue s.cur = true) := by decide +kernel

/-- A well-formed instruction of each cluster, with its timing, that the encoder turns into a word; an IDLE; a short parcel. -/
theorem test_witness_DecodeInvertsEncode :
    (∀ p ∈ [(Cluster.c, LongWord.mk .task 9 (.addi (.s 31) (.s 4) 0xFFFFFF)), (.x, ⟨.idle, 0, .vfma (.v 2) 1 .f32 .rne (.oq 0) (.v 1) (.h 0)⟩),
        (.l, ⟨.idle, 32767, .ldq 7 15 .f .cf32 2 .post 0x3FFFF⟩), (.s, ⟨.frame, 1, .acq 2 .d true 0⟩)],
      p.2.instr.wf = true ∧ p.2.instr.cluster = some p.1 ∧ decodeWord p.1 (encode p.2) = .ok p.2) ∧
    (Instr.idle 30).wf = true ∧ (Instr.shortParcel 1022 31 .s).wf = true := by decide +kernel

/-- A core whose C cluster alone is at a line of NOPs. -/
def benchNops : State :=
  bench ((benchCore false).modCtx fun k => { k with
    sys := { k.sys with imagelen := 1, clusters := 1 }
    streams := #v[⟨.run, 0, 2, false, 0, none, none⟩, Stream.absent, Stream.absent, Stream.absent] })

/-- A step that runs an item; one that runs a due landing; one that begins bring-up. -/
theorem test_witness_StepRunsTheItem :
    (let s := benchNops
     s.requeue = s ∧ s.inputDue = none ∧ s.agendaDue = none ∧ s.retested.stateEvent = none ∧ s.issuer = some ⟨0, 0⟩ ∧
     (s.core ⟨0, 0⟩).active .c = true ∧ (∀ k ∈ [Cluster.l, .x, .s], (s.core ⟨0, 0⟩).active k = false) ∧
     ((s.core ⟨0, 0⟩).stream .c).check = none ∧ s.rendezvousFails ⟨0, 0⟩ = none ∧ (s.core ⟨0, 0⟩).issues = true ∧
     ((s.core ⟨0, 0⟩).stream .c).entering = false ∧ ((s.core ⟨0, 0⟩).stream .c).latched = none ∧
     ((s.core ⟨0, 0⟩).stream .c).reach ≤ s.itemCycle ⟨0, 0⟩ ∧ decodeItem 2 (s.parcelsFrom ⟨0, 0⟩ 0 2) = .ok (.long 0) ∧
     decodeWord .c 0 = .ok ⟨.idle, 0, .nop⟩ ∧ s.timing ⟨0, 0⟩ .c 0 = .ok 0) ∧
    (let p : Pending := ⟨.tau ⟨0, 0⟩, 0, ⟨0, 0⟩, 3, true, .resultLanding, .landing (.cval 5 none)⟩
     let s := { benchNops with agenda := [p] }
     s.requeue = s ∧ s.inputDue = none ∧ s.agendaDue = some (p, 0) ∧ s.beforeFence p = none ∧ s.awayNow p = false) ∧
    (let s := bench { (benchCore false) with ctx := { (benchCore false).ctx with tau := 1000000 } }
     s.requeue = s ∧ s.inputDue = none ∧ s.agendaDue = none ∧ s.retested.stateEvent = some (⟨0, 0⟩, .deadline, .none)) := by decide +kernel

/-- The invariant of step holds at reset and at a core at work, and each takes a step. -/
theorem test_witness_StepKeepsMemOk :
    (State.reset.mem.wf && State.reset.domain.hostMem.wf && State.reset.staging.wf) = true ∧
    (benchNops.mem.wf && benchNops.domain.hostMem.wf && benchNops.staging.wf) = true ∧
    (match step State.reset with | .next t => t.domain.stage == 0 | _ => false) = true ∧
    (match step benchNops with | .next t => (t.core ⟨0, 0⟩).ctx.tau == 0 | _ => false) = true := by decide +kernel

/-- Issues with an effect of their own, and one that stops, give a next state. -/
theorem test_witness_IssueChangesNoRegister :
    ∀ i ∈ [Instr.add (.s 3) (.s 1) (.s 2), .add (.s 3) .lq (.s 2), .vadd (.v 1) 0 .f32 .rne (.v 2) (.v 3), .lnop, .snop],
      i.cluster.isSome = true ∧ (match exec i (benchRegs 1 2 3) with | .next _ => true | _ => false) = true := by decide +kernel

/-! ### One step, and one issue -/

/-- The value that an item's landing at a cycle brings, and where. -/
def landsIn (o : Host.Outcome State Fault Refusal) (due : Nat) : List (Word × Option (Fin 32)) :=
  match o with
  | .next t => t.agenda.filterMap fun p => match p.arg with | .landing (.cval v d) => if p.due = due then some (v, d) else none | _ => none
  | _ => []

/-- R90, R91: a wrapping sum into s3, −2^63 / −1, a division by 0, a signed comparison. -/
theorem test_c_results :
    landsIn (exec (.add (.s 3) (.s 1) (.s 2)) (benchRegs (BitVec.allOnes 64) 2 0)) 1 = [(1, some 3)] ∧
    landsIn (exec (.div (.s 3) false (.s 1) (.s 2)) (benchRegs 0x8000000000000000 (BitVec.allOnes 64) 0)) 12 = [(0x8000000000000000, some 3)] ∧
    landsIn (exec (.div .none true (.s 1) (.s 2)) (benchRegs 7 0 0)) 12 = [(BitVec.allOnes 64, none)] ∧
    landsIn (exec (.cmp (.s 3) false .lt (.s 1) (.s 2)) (benchRegs (BitVec.allOnes 64) 0 0)) 1 = [(1, some 3)] := by decide +kernel

/-- R68, R97: 1.0 + 2^-24 rounds to even; 0 / 0 is the canonical NaN. -/
theorem test_float_results :
    landsIn (exec (.fadd (.s 3) .rne (.s 1) (.s 2)) (benchRegs 0x3F800000 0x33800000 0)) 4 = [(0x3F800000, some 3)] ∧
    landsIn (exec (.fadd (.s 3) .rup (.s 1) (.s 2)) (benchRegs 0x3F800000 0x33800000 0)) 4 = [(0x3F800001, some 3)] ∧
    landsIn (exec (.fdiv (.s 3) .rne (.s 1) (.s 2)) (benchRegs 0 0 0)) 14 = [(0x7FC00000, some 3)] := by decide +kernel

/-- R114: an ADD of LQ with no entry there stops with OPERAND_EMPTY, channel 16 and occupancy 0, and lands nothing. -/
theorem test_operand_empty :
    landsIn (exec (.add (.s 3) .lq (.s 2)) (benchRegs 0 0 0)) 1 = [] ∧
    (match exec (.add (.s 3) .lq (.s 2)) (benchRegs 0 0 0) with
      | .next t => t.raised.map (fun r => (r.1, r.2.1)) == some (Cause.operandEmpty, 16)
      | _ => false) = true := by decide +kernel

/-- The word of ADD s3, s2, h0 (R22, R33), placed where step fetches: the decoder reads it, and the next step issues it. -/
theorem test_fetch_word :
    decodeTableWord 64 (0xC086 * 2 ^ 16 + 0x1400 * 2 ^ 32) = some (.add (.s 3) (.s 2) (.h 0)) ∧
    landsIn (step (State.reset.withFetchWord 64 (0xC086 * 2 ^ 16 + 0x1400 * 2 ^ 32))) (fetchDelay (0xC086 * 2 ^ 16) + 1) = [(0, some 3)] := by
  decide +kernel

/-! The clauses on results, stops and steps that stand beside those -/

/-- SLEEPU with a target that is past; a copy's ranges as CPY checks them; ACC_BUSY of each form on a tile whose first owner is another's;
LDQK's order; the lanes and elements of the characterisations. -/
theorem test_witness_clauses_at_issue :
    (let s := benchLocked fun k => { k with c := { k.c with s := k.c.s.set 1 0 } }
     s.me.inHandler = false ∧ (0 : Word).toNat % 2 ^ 63 ≤ s.framecnt s.cur) ∧
    (let s := benchRegs 0x10000 0x18000 256
     (256 : Word).toNat / 65536 + 2 = 2 ∧ checkCopy s s.cur .d .r 0x10000 2 0 256 s.me = .ok ([⟨0, 256, 0⟩], s.me) ∧
     checkCopy s s.cur .d .w 0x18000 2 0 256 s.me = .ok ([⟨0, 256, 0x8000⟩], s.me) ∧
     checkCopy s s.cur .d .r 0x10000 2 0 0 s.me = .ok ([], s.me)) ∧
    (let o : Own := ⟨0, 4, 2, true, none⟩
     let s := benchWith fun k => { k with mat := { k.mat with owns := [{ o with tile := 1 }, o] } }
     s.me.ctx.mat.owns = [{ o with tile := 1 }] ++ o :: [] ∧ o.tile = (2 : Fin 4).val ∧ o.at s.me.ctx.tau = true ∧
     (∀ b ∈ [{ o with tile := 1 }], b.tile ≠ (2 : Fin 4).val ∨ b.at s.me.ctx.tau = false) ∧ s.me.xdstOk (.v 4) = true ∧
     s.me.reserveX s.seq (.v 4) (s.me.pred 1) = .ok s.me) ∧
    (let s := benchRegs 0x10000 0 0
     checkElem s s.cur s.me .d .r 0x10000 16 16 0 false = .ok (0, s.me) ∧ s.me.ctx.sys.ropetab.toNat % 2 ^ 20 + 1024 ≤ 2 ^ 20) ∧
    (Fmt.f32 ≠ .cf32 ∧ 0 < Fmt.f32.count ∧ 8 * 0 + 8 ≤ Fmt.f32.count ∧ (0 : Nat) < 8) ∧
    ((1 : Word).getLsbD (0 * Fmt.i32.width / 32) = true ∧ Fmt.i32.isFp = false ∧ (0 : Word).getLsbD 0 = false) := by
  decide +kernel

/-- An ECC error in a free and in a locked task and in handler mode; a port as a member of a hold; an arrival at a stopped core. -/
theorem test_witness_clauses_of_traps :
    (∀ l ∈ [false, true], let s := bench (benchCore l)
      (s.core ⟨0, 0⟩).task = some (benchTask l) ∧ (s.core ⟨0, 0⟩).inHandler = false ∧ (benchTask l).locked = l) ∧
    (let h : Handler := ⟨Vector.replicate 16 0, Vector.replicate 4 0, 0, ⟨.run, 0, 2, false, 0, none, none⟩, none, 0, 0⟩
     let s := benchWith fun k => { k with trapped := some (.handler h) }
     (s.core ⟨0, 0⟩).inHandler = true) ∧
    (let h : Hold := ⟨7, 1, none, ⟨0, 0⟩, 0, none, [(portMember 0 .e, 3)]⟩
     let s := { benchEvent (.ids 7 0) [] with holds := [h], ports := [benchPort], cur := portMember 0 .e }
     s.arg = .ids h.id 0 ∧ s.hold? h.id = some h ∧ memberLane s.cur = some .e ∧ benchPort.die = s.cur.die ∧ benchPort.lane = .e) ∧
    (let s := { bench { benchCore true with heldBy := [7] } with arg := .arrival ⟨0, 0⟩ ⟨4, 9, 0x10000, 8⟩ }
     s.arg = .arrival ⟨0, 0⟩ ⟨4, 9, 0x10000, 8⟩ ∧ (s.core ⟨0, 0⟩).stopped = true ∧ s.timeline ⟨0, 0⟩ ≤ 9 ∧
     ⟨4, 9, 0x10000, 8⟩ ∉ (s.core ⟨0, 0⟩).landing) ∧
    (let p : Pending := ⟨.tl ⟨0, 0⟩, 0, ⟨0, 0⟩, 3, true, .resultLanding, .landing (.cval 5 none)⟩
     ∀ o, p.clk = .tl o → o = p.owner) := by
  refine ⟨?_, ?_, ?_, ?_, fun o h => (Clk.tl.inj h).symm⟩ <;> decide +kernel

/-- The block formats whose tile values are stated, and a score step on two tiles. -/
theorem test_witness_clauses_of_matrix :
    ((formOf 0x200000011).fa ≠ .cf32 ∧ (formOf 0x2000000EE).fa = .cf32 ∧ (formOf 0x200000011).sp = false) ∧
    ((formOf (0x200000011 + 2 ^ 10)).t ≠ (formOf (0x200000011 + 2 ^ 10)).u ∨ (formOf 0x200000111).t ≠ (formOf 0x200000111).u) ∧
    (let k := benchCmd [] [⟨0, [], []⟩]
     let s := { benchWith (fun x => { x with mat := { x.mat with cmds := [k] } }) with arg := .beat 9 0 false }
     s.me.ctx.mat.cmd 9 = some k ∧ (k.data.find? fun o => o.j == 0) = some ⟨0, [], []⟩) := by decide +kernel

/-- With no word poisoned and no way moving, every byte reads as memory holds it. -/
theorem clean_of (s : State) (pas : List Nat) (hp : s.poison = []) (hs : s.soon = [])
    (hc : ∀ e ∈ s.cores, e.2.cresizes = [] ∧ e.2.resized = none) : s.Clean pas := by
  have core : ∀ c, (s.core c).cresizes = [] ∧ (s.core c).resized = none := fun c => by
    unfold State.core
    split
    · exact hc _ (List.mem_of_find?_eq_some ‹_›)
    · exact ⟨rfl, rfl⟩
  constructor
  · simp [State.poisoned, hp]
  · intro pa _
    simp [State.inMotion, State.movers, hs, core]

/-- It is so in the small states of these tests. -/
theorem benchEvent_clean (a : Arg) (bs : List Byte) (pas : List Nat) : (benchEvent a bs).Clean pas :=
  clean_of _ _ rfl rfl (by intro e h; cases h with | head => exact ⟨rfl, rfl⟩ | tail _ h => cases h)

/-- An attention block with mask bits, one entry and one row per head, with its ranges in the vault. -/
def benchAttnBlock (mask : Nat) : List Byte :=
  [0x11000, 0x11400, 0x12000, 0x12800, 0x13000, 0x13400, 0x14000].flatMap (leBytes · 8) ++ leBytes 100 4 ++ leBytes 0 4 ++ leBytes 1 2 ++
    leBytes 1 1 ++ leBytes mask 1 ++ List.replicate 60 0

def benchAttn (mask : Nat) : AttnJob :=
  ⟨0, .d, 7, 0x10000, [⟨0, 128, 0⟩], 1, 1, 0, false, 160, 700, 1, true, false, 0, benchAttnBlock mask, [], [], [],
    [(benchKv true false 7 0).bytes], [], [], [⟨fNegInf, 0, List.replicate 64 0⟩], [⟨0, 256, 0x2000⟩], [⟨0, 8, 0x2800⟩], benchPos⟩

def benchAttnJob (mask : Nat) : Job := ⟨3, ⟨0, 0⟩, true, .attn (benchAttn mask)⟩

/-- The free task's core with a step of that request due, and an entry where the table says. -/
def benchAttnAt (mask : Nat) (e : List Byte) : State :=
  { benchEvent (.beat 3 0 true) [] with jobs := [benchAttnJob mask], mem := Mem.write [] 0x1400 e }

/-- The ranges that an attention request reads and writes, without and with triples, bitmap and selection; its entries that fit, that
name another task, that lie elsewhere and that have another format; a page sealed and not, and the results' places. -/
theorem test_witness_RequestsWriteAtTheirEnd_attention :
    (∀ mask ∈ [0, 4 + 8 + 16 + 32], let s := benchAttnAt mask []
      let job := benchAttnJob mask
      let k := benchAttn mask
      let b := attnBlockOf k.block
      let ok := fun (p : Perm) (va : Word) (n : Nat) => (s.attnRange job k p va n).isOk
      s.attnArg = some (job, k, 0) ∧ s.ledger = [] ∧ k.status = 0 ∧ b.g = 1 ∧ b.dcode = 0 ∧
      b.select = (mask != 0) ∧ b.bitmapOn = (mask != 0) ∧ b.tripleIn = (mask != 0) ∧ b.tripleOut = (mask != 0) ∧
      (ok .r b.query 128 && ok .r b.omega 256 && ok .r b.proj 16384 && ok .r b.triple 8 && ok .rw b.output 256 && ok .w b.output 256 &&
        ok .w b.triple 8 && ok .r b.table 16 && ok .r b.bitmap 13) = true) ∧
    (∀ e ∈ [(benchKv true false 7 0, true), (benchKv true false 9 0, true), ({ benchKv true false 7 0 with page := vaultBase ⟨1, 0⟩ }, false),
        ({ benchKv true false 7 0 with dcode := 1 }, true)],
      let s := benchAttnAt 0 e.1.bytes
      (kvOf (s.held [⟨0, 16, 0x1400⟩]) = e.1) ∧ s.pageHome ⟨0, 0⟩ e.1 = e.2) ∧
    (let s := benchAttnAt 16 []
     let k := benchAttn 16
     let b := attnBlockOf k.block
     (k.ent 0).format = b.format ∧ (k.ent 0).dcode = b.dcode ∧ b.ne ≠ 0 ∧ (∀ row ∈ k.rows, row.o.length = 64) ∧
     (segsPas k.out).length = 4 * 64 * k.rows.length ∧ (segsPas k.triple).length = 8 * k.rows.length ∧ (segsPas k.out).Nodup ∧
     (segsPas k.triple).Nodup ∧ (∀ pa ∈ segsPas k.out, pa ∉ segsPas k.triple ++ segPas k.blk 0x7C 4 ∧ s.inMotion pa = false) ∧
     (∀ pa ∈ segsPas k.triple, pa ∉ segPas k.blk 0x7C 4)) := by decide +kernel

/-- A tree of 8 nodes, 4 buckets, chunks of 16 tokens and slots of 512 bytes in the vault. -/
def benchTree : List Byte :=
  [0x11000, 0x12000, 0x13000, 0x14000, 0x15000].flatMap (leBytes · 8) ++ leBytes 8 4 ++ leBytes 4 4 ++ leBytes 512 4 ++ leBytes 4 2 ++
    leBytes 0 1 ++ leBytes 2 1 ++ leBytes 0 72

/-- A request at a step on that tree: bucket 1, candidate 1, and so much of the pool in use. -/
def benchCasting (op : CastOp) (n : Nat) (eng : TreeEng) : CastJob :=
  { benchCast with op := op, hdr := some 0x16000, head := benchTree, eng := eng, good := true, toks := 0x17000, img := 0x18000, n := n,
                   chunk := List.replicate 64 0, bucket := 1, cand := 1, victim := 1 }

def benchCastAt (k : CastJob) (m : Mem) : State :=
  { benchEvent (.beat 3 0 true) [] with jobs := [⟨3, ⟨0, 0⟩, true, .cast k⟩], mem := m }

/-- A node of that tree as its record. -/
def benchNodeRec (key refs : Nat) (cast : Bool) : List Byte := (CNode.mk 0 1 key refs 0 0 5 true cast 0).bytes

/-- A find and a put over one chunk and two at the chunk, at a bucket that is empty, freed and taken by a node that is the chunk's and by
another; tokens that are the chunk's and not; nodes from the free list, from the pool, evicted and none; an image that fits. -/
theorem test_witness_RequestsWriteAtTheirEnd_cast :
    (∀ op ∈ [CastOp.find false, .put true], ∀ w ∈ [0, 1, 0xFFFFFFFF], ∀ key ∈ [0, 9],
      let k := benchCasting op 32 ⟨0, 1, 1, 0, 0, 0, 0, 0, 0⟩
      let s := benchCastAt k ((Mem.write [] 0x3004 (leBytes w 4)).write 0x1000 (benchNodeRec key 0 true))
      let job : Job := ⟨3, ⟨0, 0⟩, true, .cast k⟩
      let tr := k.tree
      let at_ := fun (va : Word) (n pa : Nat) => s.castRange job.owner k .r va n = .ok [⟨0, n, pa⟩]
      s.castArg = some (job, k) ∧ s.ledger = [] ∧ at_ (k.toks + BitVec.ofNat 64 (4 * tr.g * k.k)) (4 * tr.g) 0x7000 ∧
      at_ (tr.bucketVa k.bucket) 4 0x3004 ∧ leNat (s.held [⟨0, 4, 0x3004⟩]) = w ∧ at_ (tr.nodeVa 1) 64 0x1000 ∧
      (let nd := nodeOf (s.held [⟨0, 64, 0x1000⟩])
       nd.valid = true ∧ nd.tag = tr.tag ∧ (nd.key = k.h ↔ key = 0) ∧ nd.parent = k.parent) ∧
      at_ (tr.chunkVa k.cand) (4 * tr.g) 0x2000 ∧ s.held [⟨0, 64, 0x2000⟩] = k.chunk ∧ k.k + 1 < k.n / tr.g ∧
      (s.castRange job.owner k .r k.img 64 = .ok [⟨0, 64, 0x8000⟩])) ∧
    (∀ refs ∈ [0, 2], let k := benchCasting (.put false) 32 ⟨0, 1, 1, 0, 0, 0, 0, 0, 0⟩
      let s := benchCastAt k (Mem.write [] 0x1000 (benchNodeRec 9 refs false))
      let job : Job := ⟨3, ⟨0, 0⟩, true, .cast k⟩
      k.eng.free = 0 ∧ k.eng.high < k.tree.nn ∧ castVictim s job k = (if refs = 0 then some 1 else none)) ∧
    (let k := benchCasting (.put false) 32 ⟨0, 8, 8, 0, 0, 0, 0, 0, 0⟩
     let s := benchCastAt k (Mem.write [] 0x1000 ((List.range 8).flatMap fun _ => benchNodeRec 9 1 false))
     k.eng.free = 0 ∧ k.tree.nn ≤ k.eng.high ∧ castVictim s ⟨3, ⟨0, 0⟩, true, .cast k⟩ { k with reads := [] } = none) ∧
    ((benchCasting (.put false) 32 ⟨3, 1, 1, 0, 0, 0, 0, 0, 0⟩).eng.free ≠ 0) := by decide +kernel

/-- The last step of a cast: a find that holds a node, one that does not; a deposit of an image with one page; a page released. -/
theorem test_witness_RequestsWriteAtTheirEnd_finish :
    (∀ refs ∈ [0, 65535], ∀ hold ∈ [true, false],
      let k := { benchCasting (.find hold) 16 ⟨0, 1, 1, 0, 0, 0, 0, 0, 0⟩ with best := (16, 1), found := true }
      let s := benchCastAt k (Mem.write [] 0x1000 (benchNodeRec 9 refs true))
      let job : Job := ⟨3, ⟨0, 0⟩, true, .cast k⟩
      s.castArg = some (job, k) ∧ k.hdr = some 0x16000 ∧ s.castRange job.owner k .r (0x16000 + 64) 64 = .ok [⟨0, 64, 0x6040⟩] ∧
      k.dropped = [] ∧ k.deposit = false ∧ k.anchors = [] ∧ k.status = 0 ∧ k.best.2 ≠ 0 ∧
      s.castRange job.owner k .r (k.tree.nodeVa k.best.2) 64 = .ok [⟨0, 64, 0x1000⟩] ∧
      (nodeOf (s.held [⟨0, 64, 0x1000⟩])).refs = refs ∧
      (segsPas [⟨0, 64, 0x1000⟩]).Nodup ∧ ∀ pa ∈ segsPas [⟨0, 64, 0x1000⟩], pa ∉ pasFrom 0x6040 64 ++ segPas k.blk 0x30 12) ∧
    (let k := { benchCasting (.put false) 16 ⟨0, 1, 1, 0, 0, 0, 0, 0, 0⟩ with
                deposit := true, parent := 1, image := List.replicate 80 1, anchors := [0x9000] }
     let s := benchCastAt k []
     (s.castRange ⟨0, 0⟩ k .r (k.tree.slotVa k.parent) k.image.length).isOk = true ∧
     (s.castRange ⟨0, 0⟩ k .r (k.tree.nodeVa k.parent) 64).isOk = true ∧ k.dropped = [] ∧ k.status = 0 ∧
     (kvOf ((pasFrom 0x9000 16).map s.mem.get)).refs + k.anchors.count 0x9000 ≤ 4095) ∧
    (∀ refs ∈ [1, 2], let k := { benchCasting (.put false) 16 ⟨0, 1, 1, 0, 0, 0, 0, 0, 0⟩ with dropped := [(0x9000, 0x8000)] }
     let s := benchCastAt k (Mem.write [] 0x9000 (benchKv true true 7 refs).bytes)
     (s.castRange ⟨0, 0⟩ k .r (k.tree.ring + BitVec.ofNat 64 (8 * (k.eng.ring % k.tree.ringN))) 8).isOk = true ∧
     (kvOf ((pasFrom 0x9000 16).map s.mem.get)).refs = refs) := by decide +kernel

/-- A graph with one node of a kind over die 0, and its word or descriptor. -/
def benchGraph1 (kind : Nat) (at_ : List Byte) : Mem := (benchGraph kind at_).write (0x80 + 38) [1]

/-- A state without a task on core 0, whose page is writable or not. -/
def benchIdle (w : Bool) (m : Mem) (f : Sched → Sched) : State :=
  { benchSched .none m f with
    cores := [(⟨0, 0⟩, { benchCore false with task := none, tlb := [⟨0x10000, 0x10000, 0, true, w, false, true, 0⟩] })] }

/-- What a dispatch serves: a node's fault, a core of a job card that asks, new to the card and not, a collective and a job card; a
control node's word that is misaligned and one that may not be written; a placement whose slots are free; a token past a node and at one. -/
theorem test_witness_SchedulingStepsPerform_dispatch :
    (let f : NodeFault := ⟨⟨0, 0⟩, 0x30, 4⟩
     let r : Running := ⟨benchNode, 1, 4, [⟨0, 0⟩, ⟨1, 0⟩], [⟨0, 0⟩, ⟨1, 0⟩], 0, none, 0, 0, []⟩
     let s := { benchSched .none (benchGraph1 1 []) (fun q => { q with running := [r], graphs := [⟨0, 0x10000, 0, 0x30, false⟩] }) with
                faultq := [f] }
     s.dispatch s.cur.die = some (.fault f) ∧ s.running? f.run = some r ∧ r.fault = none ∧ (s.nodeRec r.ref).isSome = true) ∧
    (∀ cores ∈ [[], [⟨0, 0⟩]], let r : Running := ⟨benchNode, 2, 4, cores, [⟨0, 0⟩], 0, none, 0, 6, [⟨0, 0⟩]⟩
      let s := benchIdle true (benchGraph1 2 (benchDesc false)) fun q => { q with running := [r] }
      s.dispatch s.cur.die = some (.ask 4 ⟨0, 0⟩) ∧ s.running? 4 = some r ∧ s.frozen r.ref = false ∧
      (s.nodeRec r.ref).map (fun p => p.2.a) = some 0x10100 ∧
      (match s.descAt 0 0x10100 false with
        | .ok d => ((s.schedFix 0 0x10100 64).loadImages 0 d [⟨0, 0⟩]).isOk && (s.loadImages 0 d []).isOk
        | .error _ => false) = true) ∧
    (∀ kind ∈ [2, 7], let e := { benchReady [⟨0, 0⟩] none with kind := kind }
      let s := benchIdle true (benchGraph1 kind (benchDesc false)) fun q => { q with ready := [e] }
      s.dispatch s.cur.die = some (if kind = 7 then .coll e else .card e) ∧
      (s.nodeRec e.ref).map (fun p => (p.2.first, p.2.dies, p.2.a)) = some (0, 1, 0x10100) ∧ (s.nodeBlock 0 0x10100).isOk = true ∧
      ∀ x ∈ s.sched.ready, x.queued = true) ∧
    (let s := benchIdle false ((benchGraph 4 (leBytes 3 8)).write 0x88 (leBytes 0x10104 8)) id
     (s.nodeRec benchNode).map (fun p => (p.2.kind, p.2.a % 8)) = some (4, 4)) ∧
    (let s := benchIdle false (benchGraph 4 (leBytes 3 8)) id
     s.schedRead 0 0x10100 8 = .ok (leBytes 3 8) ∧ (s.schedPa 0 true 0x10100).isOk = false ∧ s.soft = []) ∧
    (let s := benchSched (.ids 7 1) (benchGraph 1 (benchDesc true)) fun q => { q with ready := [benchReady [⟨0, 0⟩] (some 7)] }
     s.slotsTaken benchNode = false ∧ ∀ x ∈ s.sched.ready, x.queued = true) ∧
    (let s := benchSched (.node benchNode none) (benchGraph 1 []) fun q => { q with tokens := [⟨0, 0x10000, [5, 0]⟩] }
     (s.nodeRec ⟨0, 0x10000, 5⟩).map (fun p => p.1.count) = some 1 ∧
     (s.nodeRec ⟨0, 0x10000, 0⟩).map (fun p => (p.1.count, p.2.state)) = some (1, 0)) := by decide +kernel

/-- The PF with a command's entry, memory and a graph of its own, known to the scheduler or not. -/
def benchHost (code : Nat) (pars : List Byte) (known : Bool) : State :=
  let g : GraphRec := ⟨0, 0x10000, 0, 0x30, false⟩
  { benchEntryOf 6 code pars with
    mem := benchGraph 1 (benchDesc false), sched := { Sched.zero with graphs := if known then [g] else [] } }

/-- The command at the head of that queue is an instruction, whose parameters use so many bytes. -/
def heads (code : Nat) (pars : List Byte) (i : Instr) (used : Nat) : Bool :=
  let s := benchHost code pars true
  decide (s.fetchNext = some (0, 0)) && s.resetOver.isNone && decide (commandOf (s.entryBytes 0 0) = i) && blankFrom (s.entryBytes 0 0) used

/-- Every command whose own effect is stated, at the head of the PF's queue with parameters that no check refuses. -/
theorem test_witness_HostCommandsComplete_effects :
    heads 1 (leBytes 0x2000 8) .identify 8 = true ∧ heads 3 [0] .resetFunction 3 = true ∧ heads 3 [5] .resetFunction 3 = true ∧
    (let ps := leBytes 0 2 ++ leBytes 3 12 ++ leBytes 0x20000 8 ++ leBytes 0 8 ++ leBytes 1 1
     heads 6 ps .unmapCmd 31 = true ∧ mapDenied 0 ((benchHost 6 ps true).entryBytes 0 0) (benchHost 6 ps true) = false ∧
     (mapPar ((benchHost 6 ps true).entryBytes 0 0)).cores = [⟨0, 0⟩, ⟨0, 1⟩]) ∧
    (let s := benchHost 7 (leBytes 0x10000 8 ++ leBytes 0 2) false
     heads 7 (leBytes 0x10000 8 ++ leBytes 0 2) .launchGraph 10 = true ∧
     (s.header 0 0x10000).map (fun h => (s.nodesWhere 0 0x10000 h fun n => n.state == 1 || n.state == 2)) = some [] ∧ s.queueLen 0 < 1024 ∧
     s.ownDie 0 0 = true ∧ s.aligned 0 = true) ∧
    (∀ x ∈ [(8, leBytes 0x10000 8 ++ [0], Instr.freezeGraph, 9), (8, leBytes 0x10000 8 ++ [1], .freeGraph, 9),
        (9, leBytes 0x10000 8 ++ leBytes 0 2, .query, 10), (0x10, leBytes 0x10000 8, .haltCommand, 8), (0x11, leBytes 0x10000 8, .resume, 8)],
      heads x.1 x.2.1 x.2.2.1 x.2.2.2 = true ∧ ((benchHost x.1 x.2.1 true).graphOf 0 0x10000).isSome = true ∧
      ((benchHost x.1 x.2.1 true).nodeRec ⟨0, 0x10000, 0⟩).isSome = true) ∧
    heads 0xA ([0] ++ leBytes 5 2 ++ [3] ++ leBytes 0x2000 8 ++ leBytes 0 8) .friezeForm 20 = true ∧
    heads 0xB (leBytes 5 2 ++ leBytes 1 2 ++ leBytes 0x2000 8) .friezeLoad 12 = true ∧ heads 0xC [] .alignCmd 0 = true ∧
    heads 0xD (leBytes 0 2 ++ leBytes 1 8) .remapSpares 10 = true ∧
    (∀ b ∈ [0, 1, 2, 3], heads 0xE (leBytes 0 2 ++ leBytes b 1 ++ leBytes 0x2000 8) .counters 11 = true) ∧
    (∀ x ∈ [(0x12, Instr.peek), (0x13, .poke)], ∀ a ∈ [0x100, 2 * 2 ^ 38 + 0x40000, 2 * 2 ^ 38 + 0x50000],
      let ps := leBytes a 8 ++ leBytes 0x2000 8 ++ leBytes 8 4
      let s := benchHost x.1 ps true
      heads x.1 ps x.2 20 = true ∧ peekDenied 0 (s.entryBytes 0 0) s = false) ∧
    debugBad ((benchHost 0x12 (leBytes 0x100 8 ++ leBytes 0x2000 8 ++ leBytes 8 4) true).entryBytes 0 0) (benchHost 0x12 [] true) = false ∧
    heads 0x14 [] .eventCmd 0 = true ∧ (∀ bit ∈ [0, 1, 3, 4, 5], ((benchHost 1 [] true).fnOf 0).has bit = true) := by decide +kernel

/-- A spare position with its candidate core; a die on which a frieze can be formed; a ring for which a panel can be loaded. -/
theorem test_witness_HostCommandsComplete_frieze :
    (let s := { benchRegs 0 0 0 with cores := [(⟨0, 3⟩, { Core.reset with spare := (true, false) })] }
     (s.core ⟨0, 3⟩).spare = (true, false) ∧ s.aligned 0 = true) ∧
    (let s := { benchRegs 0 0 0 with cores := (List.range 96).map fun i => (⟨1, i⟩, { Core.reset with ways := 8 }) }
     s.aligned 1 = true ∧ [1].eraseDups.length = [1].length ∧ s.rings = [] ∧ s.laneBehind .e [1] = [] ∧ s.formFails .e [1] 9 = false) ∧
    (let g : Ring := ⟨7, .e, 5, [0, 1], 3, 0, [], 0, [], none, [], []⟩
     let ps := [0, 1].map fun d => { benchPort with die := d, rank := d, state := 1 }
     let s := { benchRegs 0 0 0 with rings := [g], ports := ps }
     (s.rings.find? fun g => g.fid == 5) = some g ∧ 1 < g.np ∧ s.ringState g.id = 1 ∧ g.loaded.length < g.np ∧
     (g.slotFor 1).isSome = true ∧ tagKind (headTag (loadHeader g (List.replicate 256 0))) < 4) := by decide +kernel

/-- LDQK's page that the class reaches and one that it does not; an image of one page that a deposit takes, and its header too large. -/
theorem test_witness_clauses_of_pages :
    (let s := benchRegs 0 0 0
     (s.reach ⟨0, 0⟩ .d 0x10000 1).isOk = true ∧ (s.reach ⟨0, 0⟩ .d (vaultBase ⟨1, 0⟩) 1).isOk = false) ∧
    (∀ np ∈ [1, 9], let k := benchCasting (.put false) 16 ⟨0, 1, 1, 0, 0, 0, 0, 0, 0⟩
      let e := benchKv true false 0 0
      let image := leBytes 0 4 ++ leBytes np 4 ++ List.replicate 56 0 ++ e.bytes
      let s := benchCastAt k ((Mem.write [] 0x8000 image).write e.anchorPa (benchKv true true 0 1).bytes)
      let hb := s.held [⟨0, 64, 0x8000⟩]
      s.castRange ⟨0, 0⟩ k .r k.img 64 = .ok [⟨0, 64, 0x8000⟩] ∧ numAt hb 4 4 = np ∧ (numAt hb 4 4 ≤ k.tree.maxp ↔ np = 1) ∧
      64 + 16 + numAt hb 0x10 4 ≤ k.tree.cs ∧ (∀ b ∈ hb.drop 0x14, b = 0) ∧
      s.castRange ⟨0, 0⟩ k .r k.img 80 = .ok [⟨0, 80, 0x8000⟩] ∧ kvOf ((s.held [⟨0, 80, 0x8000⟩]).drop 64) = e ∧
      e.valid = true ∧ e.anchor = false ∧ e.refs = 0 ∧ e.tag = k.tag ∧ s.pageHome ⟨0, 0⟩ e = true ∧
      (let an := kvOf ((pasFrom e.anchorPa 16).map s.mem.get)
       an.valid = true ∧ an.format = e.format ∧ an.dcode = e.dcode)) := by decide +kernel

/-! Clauses of values, accesses and endings -/

/-- A number that is no NaN; a key's width; each floating-point format of the reductions, with an active element and with none, and with
a NaN among them. -/
theorem test_witness_clauses_of_values :
    FVal.fin false 1 0 ≠ .nan ∧ FVal.inf true ≠ .nan ∧ 0x8000 < 2 ^ 16 ∧
    (∀ f ∈ [Fmt.f32, .bf16, .f16], 0 < f.count ∧ (1 : Word).getLsbD (0 * f.width / 32) = true ∧
      (ffmt f).decode (elem f.width (Vector.replicate 64 0) 0) ≠ .nan ∧ (ffmt f).decode (elem f.width (Vector.replicate 64 0x7FC0FE01) 0) = .nan
        ∨ f = .bf16) ∧
    fBF16.decode (elem 16 (Vector.replicate 64 0x7FC0) 0) = .nan ∧ ∀ e, e < 64 → (0 : Word).getLsbD e = false := by decide +kernel

/-- A store of two elements that do not meet, and of two nibbles of one byte; a gather of two lanes, in the timeline of its core and in
another's, and its arrival. -/
theorem test_witness_clauses_of_accesses :
    (let a : Access := ⟨.st [1, 2, 3], [⟨0x10000, 2, 0, 0⟩, ⟨0x10002, 1, 1, 2⟩], benchPos, none⟩
     a.els.Pairwise (fun e f => e.pa + e.z ≤ f.pa ∨ f.pa + f.z ≤ e.pa)) ∧
    (let a : Access := ⟨.stn [(true, 5), (false, 6)], [⟨0x10000, 1, 0, 0⟩, ⟨0x10000, 1, 1, 0⟩], benchPos, none⟩
     ((a.els.zip [(true, (5 : BitVec 4)), (false, 6)]).map fun p => (p.1.pa, p.2.1)).Nodup) ∧
    (∀ d ∈ [none, some (List.replicate 8 (7 : Byte))],
      let a : Access := ⟨.ldG 4 9 [3, 60] 0, [⟨0x10000, 4, 3, 0⟩, ⟨0x10004, 4, 60, 4⟩], benchPos, d⟩
      let s := { benchEvent (.access a) [9, 9] with away := if d.isSome then none else some 5 }
      s.arg = .access a ∧ [3, 60].Nodup ∧ [3, 60].length = a.els.length ∧ (∀ e ∈ a.els, e.z = 4) ∧ s.poisoned a.pas = false ∧
      s.ledger = [] ∧ (∀ pa ∈ a.pas, s.inMotion pa = false) ∧ (List.replicate 8 (7 : Byte)).length = 4 * [3, 60].length) := by decide +kernel

/-- An acquire on a good word past its budget; a locked task whose handler has ended it, and whose supervisor ends it; a saturated count
with no request and with one; a cycle of a launch's copies with more to come. -/
theorem test_witness_clauses_of_endings :
    (let h : Handler := ⟨Vector.replicate 16 0, Vector.replicate 4 0, 0, ⟨.run, 0, 2, false, 0, none, none⟩, some 2, 0, 0⟩
     let s := benchLocked fun k => { k with trapped := some (.handler h) }
     s.me.ctx.trapped = some (.handler h) ∧ h.action = some 2 ∧ s.me.task = some (benchTask true) ∧ (benchTask true).locked = true) ∧
    (∀ l ∈ [false, true], ∀ code ∈ [0x10, 0x20],
      let s := bench ((benchCore l).modCtx fun k => { k with trapped := some .supervisor, sys := { k.sys with tcause := BitVec.ofNat 64 code } })
      s.me.ctx.trapped = some .supervisor ∧ s.me.ctx.sys.tcause.toNat % 256 = code ∧ s.me.ctx.sys.tcause.getLsbD 11 = false ∧
      s.satJob s.cur = none ∧ s.me.task = some (benchTask l)) ∧
    (let k : PageJob := ⟨.fork, 0x10000, 0x10100, [⟨0, 16, 0⟩], [⟨0, 16, 0x100⟩], 1, 5, 40, 7, 0, 0, [], some 0, benchPos⟩
     let job : Job := ⟨3, ⟨0, 0⟩, true, .page k⟩
     let s := { benchWith (fun x => { x with trapped := some .supervisor, sys := { x.sys with tcause := 0x20 } }) with jobs := [job] }
     s.satJob s.cur = some (job, k, 0)) ∧
    (let d : Desc := ⟨0x10000, 4, 0, 0, 0, 0, 15, 0x20000, 16, 0x400, 1000, true, 3, 0⟩
     let s := { bench Core.reset with arg := .load 0 d 0 }
     s.arg = .load 0 d 0 ∧ (s.mem.wf && s.domain.hostMem.wf && s.staging.wf) = true ∧ 64 * (0 + 1) < (d.parts.map fun p => p.2.2).sum) := by
  decide +kernel

/-- TSPAWN on a graph that is idle, on a node in it and on one beyond it, and on a graph with a node that is ready; a request that comes
first; a placement whose dies are of the domain, and one on a die that is not; a member's queue that is full. -/
theorem test_witness_clauses_of_scheduling :
    (∀ p ∈ [(true, 0, 0), (true, 1, 0), (false, 0, 0), (false, 0, 1)],
      let s := benchSched (.spawn p.1 0x10000 p.2.1 0 0) ((benchGraph 1 []).write 0xC0 [BitVec.ofNat 8 p.2.2]) id
      s.spawnsBefore 0 s.ord = [] ∧ (s.header 0 0x10000).map (·.count) = some 1 ∧ s.queueLen 0 < 1024 ∧
      (s.nodeRec ⟨0, 0x10000, 0⟩).map (fun x => (x.2.state, x.2.queue 0)) = some (p.2.2, 0) ∧
      s.queueFull 0 [⟨0, 0x10000, 0⟩] = false ∧
      (s.header 0 0x10000).map (fun h => (s.nodesWhere 0 0x10000 h fun n => n.npred == 0, s.nodesWhere 0 0x10000 h fun n => n.state == 1 || n.state == 2)) =
        some ([⟨0, 0x10000, 0⟩], if p.2.2 = 0 then [] else [⟨0, 0x10000, 0⟩])) ∧
    (let q : Pending := ⟨.tau ⟨0, 0⟩, 0, ⟨0, 0⟩, 3, true, .tspawnApply, .spawn false 0x10000 0 0 0⟩
     let s := { benchSched .none (benchGraph 1 []) id with agenda := [q] }
     s.spawnsBefore 0 4 = [q] ∧ q.arg = .spawn false 0x10000 0 0 0) ∧
    (let s := benchSched (.ids 7 1) (benchGraph 1 (benchDesc true)) id
     (diesOf [⟨0, 0⟩, ⟨1, 0⟩]).all s.aligned = true ∧ (diesOf [⟨0, 0⟩, ⟨8, 0⟩]).all s.aligned = false ∧ s.frozen benchNode = false) ∧
    (let s := benchSched .none ((benchGraph 1 []).write 0x8A [1]) fun q =>
       { q with ready := List.replicate 1024 { benchReady [⟨1, 0⟩] none with die := 1 } }
     s.queueLen 0 < 1024 ∧ s.queueFull 0 [⟨0, 0x10000, 0⟩] = (s.nodeRec ⟨0, 0x10000, 0⟩).any fun x => x.2.queue 0 == 1) := by decide +kernel

/-- A control space range of moulds and one that is not shown; a ring lane that is cut and one that is not; the power that fails; what
comes before a fence. -/
theorem test_witness_clauses_of_the_domain :
    (∀ x ∈ [(2 * 2 ^ 38 + 0x40000, true), (2 * 2 ^ 38 + 0x50000, false)], let s := benchHost 0x12 [] true
      paSpace x.1 = 2 ∧ x.1 / 2 ^ 38 = (x.1 + 8 - 1) / 2 ^ 38 ∧ (s.core (paCore x.1)).held = false ∧
      ∀ i < 8, decide (0x40000 ≤ paOff (x.1 + i) ∧ paOff (x.1 + i) < 0x44200) = x.2) ∧
    (∀ x ∈ [([], false), ([5], true)], let s := { benchRegs 0 0 0 with domain := { Domain.zero with stage := 6, deadLinks := x.1 } }
      s.cutLane .e [1] = x.2) ∧
    (let s := { State.reset with arg := .ids 7 0 }
     s.arg = .ids 7 0 ∧ s.domain.stage = 0) ∧
    (let p : Pending := ⟨.tau ⟨0, 1⟩, 0, ⟨0, 1⟩, 3, true, .fenceComplete, .none⟩
     let c := { benchCore false with ctx := { (benchCore false).ctx with streams := Vector.replicate 4 Stream.absent } }
     let s := { bench c with cores := [(⟨0, 0⟩, c), (⟨0, 1⟩, benchCore false)], agenda := [p] }
     s.requeue = s ∧ s.inputDue = none ∧ s.agendaDue = some (p, 0) ∧ s.beforeFence p = some (⟨0, 0⟩, .taskEnd, .none)) := by decide +kernel

end
end

section
/-! PROOFS. The landings (R16, R85, R114, R117, R141, R150, R254): what each queue, vector, tile and channel operation that a landing
uses reads back, and the statement that a landing changes what its kind names and nothing else. -/

namespace Sys2Proof.Machine

open Sys2Proof

/-! ### Result queues and masked vectors (R17, R118) -/

@[simp] theorem pushQ_zero {α : Type} (q : Vector α 16) (v : α) : (pushQ q v)[0] = v := by
  simp [pushQ]

@[simp] theorem pushQ_succ {α : Type} (q : Vector α 16) (v : α) (i : Nat) (h : i + 1 < 16) : (pushQ q v)[i + 1] = q[i] := by
  simp [pushQ]

theorem maskVec_getElem (m : Word) (v : Vec) (i : Fin 64) : (maskVec m v)[i] = if m.getLsbD i.val then v[i] else 0 := by
  rw [maskVec, Fin.getElem_fin, Vector.getElem_ofFn]

theorem mixVec_getElem (m : Word) (new old : Vec) (i : Fin 64) :
    (mixVec m new old)[i] = if m.getLsbD i.val then new[i] else old[i] := by
  rw [mixVec, Fin.getElem_fin, Vector.getElem_ofFn]

theorem getElem_set_fin {α : Type} {n : Nat} (q : Vector α n) (i r : Fin n) (v : α) :
    (q.set i v)[r] = if i = r then v else q[r] := by
  simp [Vector.getElem_set, Fin.ext_iff]

theorem CRegs.s_land (r : CRegs) (v : Word) (d : Option (Fin 32)) (i : Fin 32) :
    (r.land v d).s[i] = if d = some i then v else r.s[i] := by
  cases d with
  | none => rfl
  | some j => simp only [CRegs.land, getElem_set_fin, Option.some.injEq]

theorem XRegs.v_land (r : XRegs) (v : Vec) (d : Option (Fin 16)) (m : Word) (i : Fin 16) :
    (r.land v d m).v[i] = if d = some i then mixVec m v r.v[i] else r.v[i] := by
  cases d with
  | none => rfl
  | some j =>
    simp only [XRegs.land, getElem_set_fin, Option.some.injEq]
    split
    · next h => rw [h]
    · rfl

theorem XRegs.lane_v_land (r : XRegs) (v : Vec) (d : Option (Fin 16)) (m : Word) (i : Fin 16) (l : Fin 64) :
    ((r.land v d m).v[i])[l] = if d = some i ∧ m.getLsbD l.val = true then v[l] else (r.v[i])[l] := by
  rw [XRegs.v_land]
  by_cases h : d = some i
  · simp only [h, if_true, true_and, mixVec_getElem]
  · simp only [h, if_false, false_and]

theorem XRegs.lane_h_land_zero (r : XRegs) (v : Vec) (d : Option (Fin 16)) (m : Word) (l : Fin 64) :
    ((r.land v d m).h[0])[l] = if m.getLsbD l.val then v[l] else 0 := by
  simp only [XRegs.land, pushQ_zero, maskVec_getElem]

/-! ### Writes of an array's places one after the other -/

theorem size_foldl_set! {α β : Type} (k : β → Nat) (f : β → α) (l : List β) (a : Array α) :
    (l.foldl (fun a e => a.set! (k e) (f e)) a).size = a.size :=
  foldl_keeps Array.size _ (by simp) l a

theorem getElem?_foldl_set!_other {α β : Type} {k : β → Nat} {f : β → α} {l : List β} {a : Array α} {j : Nat}
    (h : ∀ e ∈ l, k e ≠ j) : (l.foldl (fun a e => a.set! (k e) (f e)) a)[j]? = a[j]? := by
  induction l generalizing a with
  | nil => rfl
  | cons e l ih =>
    have he : k e ≠ j := h e (by simp)
    rw [List.foldl_cons, ih fun e' he' => h e' (by simp [he'])]
    simp [he]

/-- A place that some write names, all of whose writes agree, holds what they write. -/
theorem getElem?_foldl_set!_written {α β : Type} {k : β → Nat} {f : β → α} {l : List β} {a : Array α} {j : Nat} {v : α}
    (hj : j < a.size) (hw : ∃ e ∈ l, k e = j) (hv : ∀ e ∈ l, k e = j → f e = v) :
    (l.foldl (fun a e => a.set! (k e) (f e)) a)[j]? = some v := by
  induction l generalizing a with
  | nil => simp at hw
  | cons e l ih =>
    rw [List.foldl_cons]
    by_cases hl : ∃ e' ∈ l, k e' = j
    · exact ih (by simpa using hj) hl fun e' he' => hv e' (by simp [he'])
    · have hlast : k e = j := by
        obtain ⟨e', he', hk⟩ := hw
        rcases List.mem_cons.mp he' with rfl | he'
        · exact hk
        · exact absurd ⟨e', he', hk⟩ hl
      rw [getElem?_foldl_set!_other fun e' he' hk => hl ⟨e', he', hk⟩]
      simp [hlast, hj, hv e (by simp) hlast]

/-! ### Accumulator tiles (R149, R150) -/

theorem Tile.size_array (t : Tile) : t.array.size = 4096 := by
  simp only [Tile.array, size_foldl_set!, Array.size_replicate]

theorem Tile.mem_words_put {t : Tile} {a : Array F32} {e : Nat × F32} :
    e ∈ (t.put a).words ↔ a[e.1]? = some e.2 ∧ e.2 ≠ 0 := by
  obtain ⟨j, x⟩ := e
  simp [Tile.put, List.mem_zipIdx_iff_getElem?]

/-- A tile's words that are not 0 determine its 4,096 words. -/
theorem Tile.array_put (t : Tile) {a : Array F32} (ha : a.size = 4096) : (t.put a).array = a := by
  refine Array.ext_getElem? fun j => ?_
  by_cases hj : j < 4096
  · have hget : a[j]? = some a[j] := by simp [ha, hj]
    rw [Tile.array]
    by_cases h0 : a[j] = 0
    · rw [getElem?_foldl_set!_other]
      · simp [hget, h0, hj]
      · rintro ⟨k, x⟩ he rfl
        obtain ⟨hx, hx0⟩ := Tile.mem_words_put.mp he
        rw [hget, h0] at hx
        exact hx0 (Option.some.inj hx).symm
    · rw [hget]
      refine getElem?_foldl_set!_written (by simpa using hj) ⟨(j, a[j]), Tile.mem_words_put.mpr ⟨hget, h0⟩, rfl⟩ ?_
      rintro ⟨k, x⟩ he rfl
      obtain ⟨hx, -⟩ := Tile.mem_words_put.mp he
      rw [hget] at hx
      exact (Option.some.inj hx).symm
  · rw [Array.getElem?_eq_none (by rw [Tile.size_array]; omega), Array.getElem?_eq_none (by omega)]

/-- The number of R149 that a lane of a row names, in the words of the statement on landings. -/
theorem accWord_eq (fmt : Fmt) (row lane : Nat) :
    accWord fmt row lane = if fmt = .cf32 then 1024 * (row / 64 % 2 + 2 * (lane % 2)) + 32 * (row % 32) + lane / 2
      else 64 * (row % 64) + lane := by
  unfold accWord
  split
  · split <;> omega
  · rfl

theorem accWord_lt (fmt : Fmt) (row : Nat) {lane : Nat} (h : lane < 64) : accWord fmt row lane < 4096 := by
  rw [accWord_eq]
  split <;> omega

theorem accWord_injOn (fmt : Fmt) (row : Nat) {i j : Nat} (hi : i < 64) (hj : j < 64)
    (h : accWord fmt row i = accWord fmt row j) : i = j := by
  simp only [accWord_eq] at h
  split at h <;> omega

theorem mem_activeLanes {m : Word} {i : Nat} : i ∈ activeLanes m ↔ i < 64 ∧ m.getLsbD i = true := by
  simp [activeLanes]

theorem ofNat_laneNat (v : Vec) (i : Fin 64) : BitVec.ofNat 32 (laneNat v i) = v[i] := by
  simp [laneNat]

theorem Tile.array_putRow (t : Tile) (fmt : Fmt) (row : Nat) (v : Vec) (m : Word) :
    (t.putRow fmt row v m).array =
      (activeLanes m).foldl (fun a i => a.set! (accWord fmt row i) (BitVec.ofNat 32 (laneNat v i))) t.array :=
  Tile.array_put t (by rw [size_foldl_set!, Tile.size_array])

theorem Tile.array_putRow_active (t : Tile) (fmt : Fmt) (row : Nat) (v : Vec) {m : Word} {i : Fin 64} (hi : m.getLsbD i.val = true) :
    (t.putRow fmt row v m).array[accWord fmt row i.val]? = some v[i] := by
  rw [Tile.array_putRow]
  refine getElem?_foldl_set!_written ?_ ⟨i.val, mem_activeLanes.mpr ⟨i.isLt, hi⟩, rfl⟩ fun j hj hk => ?_
  · rw [Tile.size_array]
    exact accWord_lt fmt row i.isLt
  · obtain rfl := accWord_injOn fmt row (mem_activeLanes.mp hj).1 i.isLt hk
    exact ofNat_laneNat v i

theorem Tile.array_putRow_other (t : Tile) (fmt : Fmt) (row : Nat) (v : Vec) {m : Word} {w : Nat}
    (hw : ∀ i : Fin 64, m.getLsbD i.val = true → accWord fmt row i.val ≠ w) :
    (t.putRow fmt row v m).array[w]? = t.array[w]? := by
  rw [Tile.array_putRow]
  refine getElem?_foldl_set!_other fun i hi => ?_
  obtain ⟨hlt, hm⟩ := mem_activeLanes.mp hi
  exact hw ⟨i, hlt⟩ hm

theorem Tile.row_cleared (fmt : Fmt) (row : Nat) : Tile.cleared.row fmt row = Vec.zero := by
  ext i hi
  simp [Tile.row, Tile.cleared, Tile.array, Vec.zero, accWord_lt fmt row hi]

/-! ### Registers that PUTC writes (R107) -/

theorem setWidth_ushiftRight_eq_extractLsb' (v : Word) (n k : Nat) : (v >>> n).setWidth k = v.extractLsb' n k := by
  ext i hi
  simp

theorem setWidth_eq_extractLsb'_zero (v : Word) (k : Nat) : v.setWidth k = v.extractLsb' 0 k :=
  setWidth_ushiftRight_eq_extractLsb' v 0 k

theorem Core.writeSys_pfcnt0 (c : Core) (v : Word) : c.writeSys .pfcnt0 v =
    c.modCopy fun k => { k with issued := v.extractLsb' 0 32, inTime := v.extractLsb' 32 32 } := by
  simp only [Core.writeSys, setWidth_eq_extractLsb'_zero v, setWidth_ushiftRight_eq_extractLsb']

theorem Core.writeSys_pfcnt1 (c : Core) (v : Word) : c.writeSys .pfcnt1 v =
    c.modCopy fun k => { k with late := v.extractLsb' 0 32, evicted := v.extractLsb' 32 32 } := by
  simp only [Core.writeSys, setWidth_eq_extractLsb'_zero v, setWidth_ushiftRight_eq_extractLsb']

theorem Core.bins_writeSys_pfhist0 (c : Core) (v : Word) (i : Fin 8) :
    (c.writeSys .pfhist0 v).ctx.copy.bins[i] = if i.val < 4 then v.extractLsb' (16 * i.val) 16 else c.ctx.copy.bins[i] := by
  simp [Core.writeSys, Core.modCopy, setWidth_ushiftRight_eq_extractLsb']

theorem Core.bins_writeSys_pfhist1 (c : Core) (v : Word) (i : Fin 8) :
    (c.writeSys .pfhist1 v).ctx.copy.bins[i] =
      if 4 ≤ i.val then v.extractLsb' (16 * (i.val - 4)) 16 else c.ctx.copy.bins[i] := by
  simp [Core.writeSys, Core.modCopy, setWidth_ushiftRight_eq_extractLsb']

/-- TRAPLINE is written in handler mode only, and its cluster field, bits 21 and 20, is read-only (R307). -/
theorem Core.writeSys_trapline (c : Core) (v : Word) : c.writeSys .trapline v =
    if c.inHandler = true then
      c.modCtx fun x => { x with sys := { x.sys with trapline := (x.sys.trapline &&& 0x300000) ||| (v &&& 0x7FFFF) } }
    else c := rfl

/-- The registers that PUTC can write (R107). -/
def putcWritable : List SysReg :=
  [.tbase, .cbtab, .ropetab, .tvec, .savebase, .savelen, .trapline, .pfcnt0, .pfcnt1, .pfhist0, .pfhist1]

theorem Core.writeSys_of_not_writable (c : Core) {r : SysReg} (v : Word) (h : r ∉ putcWritable) : c.writeSys r v = c := by
  cases r <;> simp [putcWritable] at h <;> rfl

theorem Core.writeSys_eq_ctx (c : Core) (r : SysReg) (v : Word) : c.writeSys r v = { c with ctx := (c.writeSys r v).ctx } := by
  cases r
  case trapline => rw [Core.writeSys_trapline]; split <;> rfl
  all_goals rfl

/-! ### The landings themselves -/

theorem exec_resultLanding_eq (s : State) : exec .resultLanding s = execResultLanding s := rfl

theorem exec_channelEntryLanding_eq (s : State) : exec .channelEntryLanding s = execChannelEntryLanding s := rfl

/-- A predicate lands, p0 being discarded (R141). -/
theorem Core.applyLanding_pred (c : Core) (pd : Fin 8) (v : Word) : c.applyLanding (.pred pd v) =
    if pd.val = 0 then c else c.modCtx fun x => { x with x := { x.x with p := x.x.p.set pd v } } := rfl

/-- A landing changes nothing of a core outside its context. -/
theorem Core.applyLanding_eq_ctx (c : Core) (l : Landing) : c.applyLanding l = { c with ctx := (c.applyLanding l).ctx } := by
  cases l
  case pred pd v => rw [Core.applyLanding_pred]; split <;> rfl
  case sysreg r v => exact c.writeSys_eq_ctx r v
  all_goals rfl

/-- The landing l of the core whose event comes about leaves a state that differs in that core's context only, which meets P. -/
def State.Lands (s : State) (l : Landing) (P : Ctx → Prop) : Prop :=
  s.arg = .landing l → ∃ y, exec .resultLanding s = .next (s.setCore s.cur { s.me with ctx := y }) ∧ P y

theorem State.lands_of_ctx {s : State} {l : Landing} {P : Ctx → Prop} (hP : P (s.me.applyLanding l).ctx) : s.Lands l P := by
  intro h
  refine ⟨_, ?_, hP⟩
  rw [exec_resultLanding_eq, execResultLanding, h, ← Core.applyLanding_eq_ctx]
  rfl

theorem Core.p_applyLanding_pred (c : Core) (pd : Fin 8) (v : Word) (p : Fin 8) :
    (c.applyLanding (.pred pd v)).ctx.x.p[p] = if p = pd ∧ p.val ≠ 0 then v else c.ctx.x.p[p] := by
  rw [Core.applyLanding_pred]
  by_cases h0 : pd.val = 0
  · have hp : ¬ (p = pd ∧ p.val ≠ 0) := by rintro ⟨rfl, h⟩; exact h h0
    rw [if_pos h0, if_neg hp]
  · have hp : (p = pd ∧ p.val ≠ 0) ↔ pd = p := ⟨fun h => h.1.symm, by rintro rfl; exact ⟨rfl, h0⟩⟩
    rw [if_neg h0, Core.ctx_modCtx, getElem_set_fin]
    simp only [hp]

theorem Core.ctx_applyLanding_pred (c : Core) (pd : Fin 8) (v : Word) :
    (c.applyLanding (.pred pd v)).ctx = { c.ctx with x := { c.ctx.x with p := (c.applyLanding (.pred pd v)).ctx.x.p } } := by
  rw [Core.applyLanding_pred]
  split <;> rfl

theorem Ctx.chan_clearCb (x : Ctx) (i : Fin 4) (ch : Fin 18) :
    (x.clearCb i).chan[ch] = (x.chan[ch]).filter fun e => decide (e.cb ≠ some i) := by
  simp only [Ctx.clearCb, Fin.getElem_fin, Vector.getElem_map]
  refine List.filter_congr fun e _ => ?_
  simp [bne, Bool.beq_eq_decide_eq]

theorem Core.acc_applyLanding_accZero (c : Core) (t u : Fin 4) :
    (c.applyLanding (.accZero t)).ctx.acc[u] = if t = u then Tile.cleared else c.ctx.acc[u] :=
  getElem_set_fin _ _ _ _

theorem Core.acc_applyLanding_accRow (c : Core) (t u : Fin 4) (fmt : Fmt) (row : BitVec 16) (v : Vec) (m : Word) :
    (c.applyLanding (.accRow t fmt row v m)).ctx.acc[u] =
      if t = u then (c.ctx.acc[t]).putRow fmt row.toNat v m else c.ctx.acc[u] :=
  getElem_set_fin _ _ _ _

/-- A channel of the machine changed, in the core's context (R112). -/
theorem Core.modChan_fin (c : Core) (ch : Fin 18) (f : List ChanEntry → List ChanEntry) :
    c.modChan ch.val f = c.setChan ch (f c.ctx.chan[ch]) := by
  rw [Core.modChan, dif_pos ch.isLt]
  rfl

theorem Core.chan_setChan (c : Core) (ch k : Fin 18) (es : List ChanEntry) :
    (c.setChan ch es).ctx.chan[k] = if ch = k then es else c.ctx.chan[k] :=
  getElem_set_fin _ _ _ _

/-- A channel place that is filled (R114). -/
theorem channelEntryLanding_fills {s : State} {ch : Fin 18} {id : Nat} {v : Vec} (h : s.arg = .chan ch.val id v) :
    exec .channelEntryLanding s = .next (s.setCore s.cur (s.me.setChan ch
      ((s.me.ctx.chan[ch]).map fun e => if e.id = id then { e with v := v, landed := true } else e))) := by
  rw [exec_channelEntryLanding_eq, execChannelEntryLanding, h]
  simp only [State.modCore, Core.fill, Core.modChan_fin]
  rfl

/-! ### The statement -/

/-- Settles O34: the landing's own update of the context is each clause's witness, and the lemmas above read it back. -/
theorem landingsTakeEffect : Obligations.LandingsTakeEffect := by
  unfold Obligations.LandingsTakeEffect
  intro s lands x
  refine ⟨fun v d => s.lands_of_ctx ⟨pushQ_zero _ _, fun i => pushQ_succ _ _ _ _, x.c.s_land v d, rfl⟩,
    fun v d m => s.lands_of_ctx ⟨x.x.lane_h_land_zero v d m, fun i => pushQ_succ _ _ _ _, x.x.lane_v_land v d m, rfl⟩,
    fun pd v => s.lands_of_ctx ⟨s.me.p_applyLanding_pred pd v, s.me.ctx_applyLanding_pred pd v⟩,
    fun cl k v => s.lands_of_ctx ?loop,
    -- areg, breg, ag, cb: one register is set
    fun i v => s.lands_of_ctx rfl, fun i v => s.lands_of_ctx rfl, fun i g => s.lands_of_ctx rfl, fun i v => s.lands_of_ctx rfl,
    fun i => s.lands_of_ctx ⟨x.chan_clearCb i, rfl⟩,
    fun t => s.lands_of_ctx ?accZero,
    fun t fmt row v m => s.lands_of_ctx ?accRow,
    -- nest and marker
    fun e a b n => s.lands_of_ctx rfl, s.lands_of_ctx rfl,
    -- TBASE, CBTAB, ROPETAB, TVEC, SAVEBASE, SAVELEN: their masks are those of `keepBits`
    fun v => s.lands_of_ctx rfl, fun v => s.lands_of_ctx rfl, fun v => s.lands_of_ctx rfl, fun v => s.lands_of_ctx rfl,
    fun v => s.lands_of_ctx rfl, fun v => s.lands_of_ctx rfl,
    fun v => s.lands_of_ctx ?trapline,
    fun v => s.lands_of_ctx (congrArg Core.ctx (s.me.writeSys_pfcnt0 v)),
    fun v => s.lands_of_ctx (congrArg Core.ctx (s.me.writeSys_pfcnt1 v)),
    fun v => s.lands_of_ctx ⟨s.me.bins_writeSys_pfhist0 v, rfl⟩,
    fun v => s.lands_of_ctx ⟨s.me.bins_writeSys_pfhist1 v, rfl⟩,
    fun r v h => s.lands_of_ctx (congrArg Core.ctx (s.me.writeSys_of_not_writable v h)),
    ?chan⟩
  case loop => cases cl <;> rfl
  case trapline =>
    rw [Core.applyLanding, Core.writeSys_trapline]
    split <;> rfl
  case chan =>
    intro ch id v h
    exact ⟨_, channelEntryLanding_fills h, (s.me.chan_setChan _ _ _).trans (if_pos rfl),
      fun k hk => (s.me.chan_setChan _ _ _).trans (if_neg hk.symm), rfl, rfl, rfl, rfl⟩
  case accZero =>
    have ht := (s.me.acc_applyLanding_accZero t t).trans (if_pos rfl)
    refine ⟨fun u hu => (s.me.acc_applyLanding_accZero t u).trans (if_neg hu.symm), fun fmt row => ?_, ?_, ?_, rfl⟩
    · rw [ht, Tile.row_cleared]
    · rw [ht]; rfl
    · rw [ht]; rfl
  case accRow =>
    intro r num
    have hnum : num = accWord fmt r := funext fun i => (accWord_eq fmt r i).symm
    have ht := (s.me.acc_applyLanding_accRow t t fmt row v m).trans (if_pos rfl)
    rw [hnum, ht]
    exact ⟨fun i hi => Tile.array_putRow_active _ fmt r v hi, fun w _ hw => Tile.array_putRow_other _ fmt r v hw, rfl, rfl,
      fun u hu => (s.me.acc_applyLanding_accRow t u fmt row v m).trans (if_neg hu.symm), rfl⟩

end Sys2Proof.Machine
end

section
/-! PROOFS. Bring-up, thermal steps, spares and the undefined opcode (R50, R390, R392, R393): what beginning a stage schedules, which
state each of these events ends in, and the statement on them. -/

namespace Sys2Proof.Machine

open Sys2Proof

/-! ### What is scheduled, and what is dropped -/

@[simp] theorem State.agenda_scheduleDom (s : State) (o : CoreId) (d : Nat) (ev : Instr) (arg : Arg) :
    (s.scheduleDom o d ev arg).agenda = s.agenda ++ [⟨.dom, s.clock + d, o, s.seq, false, ev, arg⟩] := rfl

theorem State.mem_agenda_scheduleDom (s : State) (o : CoreId) (d : Nat) (ev : Instr) (arg : Arg) :
    ⟨.dom, s.clock + d, o, s.seq, false, ev, arg⟩ ∈ (s.scheduleDom o d ev arg).agenda := by simp

/-- No event of that row of the table comes any more. -/
def State.dropEvents (s : State) (ev : Instr) : State := { s with agenda := s.agenda.filter fun p => p.ev != ev }

theorem State.ev_ne_of_mem_agenda_dropEvents {s : State} {ev : Instr} {p : Pending} (h : p ∈ (s.dropEvents ev).agenda) :
    p.ev ≠ ev := by
  simpa using (List.mem_filter.mp h).2

theorem mem_setInsert_self (l : List Nat) (k : Nat) : k ∈ setInsert l k := by
  induction l with
  | nil => simp [setInsert]
  | cons a l ih =>
    simp only [setInsert]
    split
    · simp
    · split
      · next h => simp [h]
      · simp [ih]

@[simp] theorem State.clock_modDomain (s : State) (f : Domain → Domain) : (s.modDomain f).clock = s.clock := rfl
@[simp] theorem State.domain_modDomain (s : State) (f : Domain → Domain) : (s.modDomain f).domain = f s.domain := rfl

/-! ### Stages of bring-up (R390) -/

/-- The next stage's event comes after at least one cycle (log entry 12). -/
theorem State.exists_mem_agenda_bringUp (s : State) (stage : Nat) (ev : Instr) (arg : Arg) :
    ∃ p ∈ (s.bringUp stage ev arg).agenda, p.ev = ev ∧ s.clock < p.due :=
  ⟨_, State.mem_agenda_scheduleDom (s.modDomain fun d => { d with stage := stage }) _ _ ev arg, rfl,
    by simp only [State.clock_modDomain]; omega⟩

/-- The event i leaves bring-up at a stage, with the next stage's event to come later, and the cores and the clock as they are. -/
def State.StageFollows (s : State) (i : Instr) (stage : Nat) (ev : Instr) : Prop :=
  ∃ t, exec i s = .next t ∧ t.cores = s.cores ∧ t.clock = s.clock ∧ t.domain.stage = stage ∧
    ∃ p ∈ t.agenda, p.ev = ev ∧ s.clock < p.due

theorem State.stageFollows_of_bringUp {s u : State} {i ev : Instr} {stage : Nat} {arg : Arg}
    (h : exec i s = .next (u.bringUp stage ev arg)) (hcores : u.cores = s.cores) (hclock : u.clock = s.clock) :
    s.StageFollows i stage ev :=
  ⟨_, h, hcores, hclock, rfl, hclock ▸ u.exists_mem_agenda_bringUp stage ev arg⟩

theorem exec_powerOn_eq (s : State) : exec .powerOn s = execPowerOn s := rfl
theorem exec_romBoot_eq (s : State) : exec .romBoot s = execRomBoot s := rfl
theorem exec_fuseRemap_eq (s : State) : exec .fuseRemap s = execFuseRemap s := rfl
theorem exec_linkTraining_eq (s : State) : exec .linkTraining s = execLinkTraining s := rfl

theorem exec_powerOn {s : State} (harg : s.arg ≠ .ids 7 0) (hstage : s.domain.stage = 0) (hmodules : s.modules = 0) :
    exec .powerOn s = .next (s.bringUp 0 .romBoot .none) := by
  rw [exec_powerOn_eq, execPowerOn, if_neg harg, if_pos ⟨hstage, hmodules⟩]

theorem exec_powerOn_failed {s : State} (harg : s.arg = .ids 7 0) (hstage : s.domain.stage = 0) :
    exec .powerOn s = .next (s.dropEvents .romBoot) := by
  rw [exec_powerOn_eq, execPowerOn, if_pos harg, if_pos hstage, State.dropEvents]

theorem exec_romBoot {s : State} (harg : ∀ x, s.arg ≠ .ids 7 x) (hstage : s.domain.stage = 0) :
    exec .romBoot s = .next (s.bringUp 1 .fuseRemap .none) := by
  rw [exec_romBoot_eq, execRomBoot]
  split
  · next h => exact absurd h (harg _)
  · rw [if_pos hstage]

theorem exec_romBoot_failed {s : State} {x : Nat} (harg : s.arg = .ids 7 x) (hstage : s.domain.stage = 1) :
    exec .romBoot s = .next ((s.dropEvents .fuseRemap).modDomain fun d => { d with stage := 7 }) := by
  simp only [exec_romBoot_eq, execRomBoot, harg, if_pos hstage, State.dropEvents]

theorem exec_fuseRemap {s : State} (hstage : s.domain.stage = 1) :
    exec .fuseRemap s =
      .next ({ s with mem := [], ledger := [], poison := [], soft := [] }.bringUp 2 .linkTraining (.ids 0 0)) := by
  rw [exec_fuseRemap_eq, execFuseRemap, if_pos hstage]

theorem exec_linkTraining {s : State} (harg : ∀ x, s.arg ≠ .ids 1 x) (hstage : s.domain.stage = 2) :
    exec .linkTraining s = .next (s.bringUp 3 .linkTraining (.ids 1 0)) := by
  rw [exec_linkTraining_eq, execLinkTraining]
  split
  · next h => exact absurd h (harg _)
  · rw [if_pos hstage]

theorem exec_linkTraining_ends {s : State} {x : Nat} (harg : s.arg = .ids 1 x) (hstage : s.domain.stage = 3) :
    exec .linkTraining s = .next (s.bringUp 4 .alignmentBarrier (.ids 0 0)) := by
  simp only [exec_linkTraining_eq, execLinkTraining, harg, if_pos hstage]

/-! ### Thermal steps (R393) -/

/-- The first frame boundary after a cycle (R18). -/
theorem frame_boundary_after (c : Nat) : (c + (32768 - c % 32768)) % 32768 = 0 ∧ c < c + (32768 - c % 32768) ∧
    c + (32768 - c % 32768) ≤ c + 32768 := by omega

/-- A die is marked as near its limit. -/
def State.markHot (s : State) : State := s.modDomain fun d => { d with hot := setInsert d.hot s.cur.die }

theorem exec_thermalStep_eq (s : State) : exec .thermalStep s = execThermalStep s := rfl
theorem exec_thermalShutdown_eq (s : State) : exec .thermalShutdown s = execThermalShutdown s := rfl

theorem exec_thermalStep_near_limit {s : State} {x : Nat} (harg : s.arg = .ids 0 x) :
    exec .thermalStep s = .next (if 700 < s.domain.mhz
      then s.markHot.scheduleDom s.cur (32768 - s.clock % 32768) .thermalStep (.ids 1 0) else s.markHot) := by
  simp only [exec_thermalStep_eq, execThermalStep, harg, State.markHot]

theorem exec_thermalStep_at_boundary {s : State} {x : Nat} (harg : s.arg = .ids 1 x) :
    exec .thermalStep s = .next (if 700 < s.domain.mhz
      then (s.modDomain fun d => { d with mhz := d.mhz - 100 }).post 0 7 ⟨s.cur.die, 0⟩ (Config.freeNat s.ctr 393) else s) := by
  simp only [exec_thermalStep_eq, execThermalStep, harg]
  split <;> rfl

theorem exec_thermalStep_cooled {s : State} {n x : Nat} (harg : s.arg = .ids (n + 2) x) :
    exec .thermalStep s = .next (s.modDomain fun d => { d with hot := d.hot.filter (· != s.cur.die) }) := by
  simp only [exec_thermalStep_eq, execThermalStep, harg]

theorem exec_thermalShutdown {s : State} (hmhz : s.domain.mhz ≤ 700) (hhot : s.cur.die ∈ s.domain.hot)
    (hoff : s.cur.die ∉ s.domain.off) :
    exec .thermalShutdown s =
      .next ((s.post 0 7 ⟨s.cur.die, 0⟩ (Config.freeNat s.ctr 394)).scheduleDom s.cur 0 .dieLoss (.ids 0 0)) := by
  rw [exec_thermalShutdown_eq, execThermalShutdown]
  exact if_pos ⟨hmhz, by simpa using hhot, by simpa using hoff⟩

/-- A die nears its limit: it is marked, and above 0.7 GHz a step comes at the next frame boundary. -/
theorem thermalStep_near_limit {s : State} {x : Nat} (harg : s.arg = .ids 0 x) :
    ∃ t, exec .thermalStep s = .next t ∧ t.mem = s.mem ∧ t.cores = s.cores ∧ s.cur.die ∈ t.domain.hot ∧
      t.domain.mhz = s.domain.mhz ∧ (700 < s.domain.mhz →
        ∃ p ∈ t.agenda, p.clk = .dom ∧ p.due % 32768 = 0 ∧ s.clock < p.due ∧ p.due ≤ s.clock + 32768 ∧ p.ev = .thermalStep ∧
          p.arg = .ids 1 0) := by
  have hhot : s.cur.die ∈ s.markHot.domain.hot := mem_setInsert_self _ _
  refine ⟨_, exec_thermalStep_near_limit harg, ?_⟩
  by_cases h : 700 < s.domain.mhz
  · obtain ⟨hmod, hlt, hle⟩ := frame_boundary_after s.clock
    rw [if_pos h]
    exact ⟨rfl, rfl, hhot, rfl, fun _ => ⟨_, s.markHot.mem_agenda_scheduleDom _ _ _ _, rfl, hmod, hlt, hle, rfl, rfl⟩⟩
  · rw [if_neg h]
    exact ⟨rfl, rfl, hhot, rfl, fun h' => absurd h' h⟩

/-- A step that has come lowers the clock by 100 MHz, down to 0.7 GHz. -/
theorem thermalStep_at_boundary {s : State} {x : Nat} (harg : s.arg = .ids 1 x) :
    ∃ t, exec .thermalStep s = .next t ∧ t.mem = s.mem ∧ t.cores = s.cores ∧
      t.domain.mhz = if 700 < s.domain.mhz then s.domain.mhz - 100 else s.domain.mhz := by
  refine ⟨_, exec_thermalStep_at_boundary harg, ?_⟩
  split <;> exact ⟨rfl, rfl, rfl⟩

/-- A die has cooled down: it is no longer marked, and the clock stays. -/
theorem thermalStep_cooled {s : State} {n x : Nat} (harg : s.arg = .ids (n + 2) x) :
    ∃ t, exec .thermalStep s = .next t ∧ t.mem = s.mem ∧ t.cores = s.cores ∧ s.cur.die ∉ t.domain.hot ∧
      t.domain.mhz = s.domain.mhz :=
  ⟨_, exec_thermalStep_cooled harg, rfl, rfl, by simp, rfl⟩

/-! ### Spares and the undefined opcode (R50, R392) -/

theorem exec_spareRemapApply_eq (s : State) : exec .spareRemapApply s = execSpareRemapApply s := rfl
theorem exec_reservedOpcode_eq (s : State) : exec .reservedOpcode s = issue s.curCl (fun _ _ => .error .illegal) s := rfl

theorem exec_spareRemapApply {s : State} (h : s.remapDue s.cur = true) :
    exec .spareRemapApply s = .next (s.modCore s.cur fun k => { k with
      spare := (false, false), spares := (k.spares.1 + 1, k.wear.1, false), copyUntil := s.clock + 65536 }) := by
  rw [exec_spareRemapApply_eq, execSpareRemapApply, if_pos h]

/-- An issue that meets a pattern that is no instruction is ILLEGAL at its item, with a free TINFO (log entry 10). -/
theorem issue_illegal {cl : Cluster} {f : State → Core → Except Stop IssueOut} {s : State} (h : f s s.me = .error .illegal) :
    issue cl f s = .next (s.tick.raise s.cur .illegal s.freeTinfo (s.me.posOf cl)) :=
  issue_error h

/-! ### The statement -/

/-- Settles O54: each event's outcome is the one that its lemma above gives, a thermal step's by the number that tells what it is. -/
theorem bringUpAndThermalSteps : Obligations.BringUpAndThermalSteps := by
  unfold Obligations.BringUpAndThermalSteps
  refine ⟨fun s i => ?stages, fun s n x harg => ?thermal, fun s hmhz hhot hoff => ?shutdown, fun s hdue => ?spare,
    fun s => (exec_reservedOpcode_eq s).trans (issue_illegal rfl)⟩
  case stages =>
    refine ⟨?powerOn, ?powerFails, ?romBoot, ?romFails, ?fuseRemap, ?linkTraining, ?linksTrained⟩
    case powerOn =>
      rintro rfl harg hstage hmodules
      exact State.stageFollows_of_bringUp (exec_powerOn harg hstage hmodules) rfl rfl
    case powerFails =>
      rintro rfl harg hstage
      exact ⟨_, exec_powerOn_failed harg hstage, hstage, rfl, fun _ => State.ev_ne_of_mem_agenda_dropEvents⟩
    case romBoot =>
      rintro rfl harg hstage
      exact State.stageFollows_of_bringUp (exec_romBoot harg hstage) rfl rfl
    case romFails =>
      rintro rfl ⟨x, harg⟩ hstage
      exact ⟨_, exec_romBoot_failed harg hstage, rfl, fun _ => State.ev_ne_of_mem_agenda_dropEvents⟩
    case fuseRemap =>
      rintro rfl hstage
      exact ⟨State.stageFollows_of_bringUp (exec_fuseRemap hstage) rfl rfl, _, exec_fuseRemap hstage, rfl, rfl⟩
    case linkTraining =>
      rintro rfl harg hstage
      exact State.stageFollows_of_bringUp (exec_linkTraining harg hstage) rfl rfl
    case linksTrained =>
      rintro rfl ⟨x, harg⟩ hstage
      exact State.stageFollows_of_bringUp (exec_linkTraining_ends harg hstage) rfl rfl
  case thermal =>
    match n, harg with
    | 0, harg =>
      obtain ⟨t, ht, hmem, hcores, hhot⟩ := thermalStep_near_limit harg
      exact ⟨t, ht, hmem, hcores, fun _ => hhot, by simp, by simp⟩
    | 1, harg =>
      obtain ⟨t, ht, hmem, hcores, hmhz⟩ := thermalStep_at_boundary harg
      exact ⟨t, ht, hmem, hcores, by simp, fun _ => hmhz, by simp⟩
    | n + 2, harg =>
      obtain ⟨t, ht, hmem, hcores, hcool⟩ := thermalStep_cooled harg
      exact ⟨t, ht, hmem, hcores, by simp, by simp, fun _ => hcool⟩
  case shutdown =>
    exact ⟨_, exec_thermalShutdown hmhz hhot hoff, rfl, rfl, _, State.mem_agenda_scheduleDom _ _ _ _ _, rfl, rfl, rfl, rfl, rfl⟩
  case spare =>
    refine ⟨_, exec_spareRemapApply hdue, rfl, ?_⟩
    rw [State.core_modCore_self]
    exact ⟨rfl, rfl, rfl, rfl⟩

end Sys2Proof.Machine
end

section
/-! PROOFS. Moulds (R57, R59, R61): what an MLOAD and a mould fence leave of the core, which long word a short parcel becomes, and
the statement on them. -/

namespace Sys2Proof.Machine

open Sys2Proof

theorem exec_mload_eq (a b : CSrc) (n : BitVec 11) (s : State) : exec (.mload a b n) s = execMload a b n s := rfl
theorem exec_shortParcel_eq (m : BitVec 10) (v : BitVec 5) (cl : Cluster) (s : State) :
    exec (.shortParcel m v cl) s = execShortParcel m v cl s := rfl

/-! ### MLOAD (R59) -/

/-- A core with one more MLOAD pending, whose entries are stale for every cluster. -/
def Core.queueMload (c : Core) (j : MloadJob) : Core := c.modCtx fun x => { x with
  mloads := x.mloads ++ [j], stale := x.stale.map fun st => j.left.foldl setInsert st }

@[simp] theorem Core.mloads_queueMload (c : Core) (j : MloadJob) : (c.queueMload j).ctx.mloads = c.ctx.mloads ++ [j] := rfl
@[simp] theorem Core.moulds_queueMload (c : Core) (j : MloadJob) : (c.queueMload j).ctx.moulds = c.ctx.moulds := rfl

@[simp] theorem Core.stale_queueMload (c : Core) (j : MloadJob) (k : Fin 4) :
    (c.queueMload j).ctx.stale[k] = j.left.foldl setInsert c.ctx.stale[k] := by
  simp [Core.queueMload]

/-- An MLOAD of an aligned source within the scratchpad is queued where a place is left. -/
theorem mload_issues {s : State} {a b : CSrc} {n : BitVec 11} {x y : Word} {c : Core} (h : SourcesC2 s a b x y c)
    (halign : x.toNat % 16 = 0) (hlen : x.toNat + 16 * n.toNat ≤ 2 ^ 20) (hplace : c.ctx.mloads.length < 4) :
    Issues .c (.mload a b n) s (c.queueMload ⟨s.seq, x.toNat, y.toNat % 1024, n.toNat, 0⟩)
      (if c.ctx.mloads.isEmpty then [⟨4, none, false, .mouldEntryWrite, .ids s.seq 0⟩] else []) := by
  have hread := readC2_ok h
  obtain ⟨-, -, hroomy, -⟩ := h
  refine (exec_mload_eq a b n s).trans (issue_ok ?_ (hroomy.not_overfull _))
  simp only [hread, bind, Except.bind, pure, Except.pure, halign, ne_eq, not_true_eq_false, if_false, Nat.not_lt.mpr hlen,
    Nat.not_le.mpr hplace]
  rfl

/-! ### The fences (R61) -/

/-- The core after a mould fence of a cluster. -/
def Core.fenceMoulds (c : Core) (cl : Cluster) : Core := c.modCtx fun x => { x with
  stale := x.stale.set! cl.idx (x.stale[cl.idx]!.filter fun m => (c.ctx.mloads.flatMap MloadJob.left).contains m) }

theorem Core.stale_fenceMoulds (c : Core) (cl : Cluster) (k : Fin 4) : (c.fenceMoulds cl).ctx.stale[k] =
    if k.val = cl.idx then c.ctx.stale[k].filter fun m => (c.ctx.mloads.flatMap MloadJob.left).contains m
    else c.ctx.stale[k] := by
  simp only [Core.fenceMoulds, Core.ctx_modCtx, Fin.getElem_fin, Vector.getElem_set!, eq_comm (a := cl.idx)]
  split
  · next h => simp only [← h, getElem!_pos c.ctx.stale k.val k.isLt]
  · rfl

/-- A mould fence has an effect on its core alone, in each of the four clusters. -/
theorem mouldFence_issues {s : State} (hroomy : s.Roomy) {cl : Cluster} {i : Instr}
    (hi : (cl, i) ∈ [(Cluster.c, Instr.mouldf), (.x, .xmouldf), (.l, .lmouldf), (.s, .smouldf)]) :
    Issues cl i s (s.me.fenceMoulds cl) [] := by
  have hissue : issue cl (mouldFence cl) s = .next (s.commit cl (.plain (s.me.fenceMoulds cl) [])) :=
    issue_ok rfl (hroomy.not_overfull _)
  simp only [List.mem_cons, Prod.mk.injEq, List.not_mem_nil, or_false] at hi
  obtain ⟨rfl, rfl⟩ | ⟨rfl, rfl⟩ | ⟨rfl, rfl⟩ | ⟨rfl, rfl⟩ := hi <;> exact hissue

/-! ### Expansion (R57) -/

@[simp] theorem Core.stream_setStream_self (c : Core) (cl : Cluster) (st : Stream) : (c.setStream cl st).stream cl = st := by
  cases cl <;> simp [Core.stream, Core.setStream, encCluster]

/-- A short parcel whose entry is valid and current, and whose filled word may stand where it does, is latched as that word. -/
theorem shortParcel_latches {s : State} {m : BitVec 10} {v : BitVec 5} {cl : Cluster} {w : Nat}
    (hvalid : s.me.ctx.mould m.toNat / 2 ^ 80 % 2 = 1) (hstale : (s.me.ctx.stale[cl.idx]!).contains m.toNat = false)
    (hfill : fillMould cl (s.me.ctx.mould m.toNat) v.toNat = .ok w)
    (hbranch : s.me.inJoined = false ∨ s.me.inHandler = true ∨ branchOpcode cl (w / 2 ^ 39 % 128) = false) :
    exec (.shortParcel m v cl) s = .next (s.setCore s.cur (s.me.setStream cl { s.me.stream cl with
      latched := some (s.itemCycle s.cur + w / 2 ^ 46 % 2 ^ 15, .word w) })) := by
  have hbit : ¬ (fld (s.me.ctx.mould m.toNat) 80 1 = 0) := by
    rw [fld, pow_one, hvalid]
    exact one_ne_zero
  have hok : (s.me.inJoined && !s.me.inHandler && branchOpcode cl (fld w 39 7)) = false := by
    obtain h | h | h := hbranch
    · rw [h]; rfl
    · rw [h]; simp
    · rw [fld, show 2 ^ 7 = 128 from rfl, h, Bool.and_false]
  simp only [State.me] at hbit hstale hfill hok
  simp only [exec_shortParcel_eq, execShortParcel, hbit, hstale, hfill, hok, false_or, Bool.false_eq_true, if_false]
  rfl

/-! ### The statement -/

/-- Settles O12: the queued MLOAD, the fenced stale map and the latched word are what the lemmas above give. -/
theorem mouldsLoadFenceExpand : Obligations.MouldsLoadFenceExpand := by
  unfold Obligations.MouldsLoadFenceExpand
  refine ⟨fun s a b n x y c h halign hlen hplace => ?load, fun s hroomy => ?fence,
    fun s m v cl w => ?expand⟩
  case load =>
    exact ⟨_, mload_issues h halign hlen hplace, c.mloads_queueMload _, fun k => c.stale_queueMload _ k, c.moulds_queueMload _⟩
  case fence =>
    intro fenced cl i hi
    exact ⟨_, mouldFence_issues hroomy hi, fun k => s.me.stale_fenceMoulds cl k⟩
  case expand =>
    intro e hvalid hstale hfill hbranch
    refine ⟨_, shortParcel_latches hvalid hstale hfill hbranch, rfl, rfl, ?_⟩
    rw [State.core_setCore_self, Core.c_setStream, Core.stream_setStream_self]
    exact ⟨rfl, rfl⟩

end Sys2Proof.Machine
end

section
/-! PROOFS. The waits of C end, and fences, mould copies, format words and markers take effect (R57, R59, R109, R228, R231, R232,
R240, R250, R295): the core that each leaves, what a read finds where no write is on record, and the statement on them. -/

namespace Sys2Proof.Machine

open Sys2Proof

theorem exec_sleepuWake_eq (s : State) : exec .sleepuWake s = execSleepuWake s := rfl
theorem exec_waitfWake_eq (s : State) : exec .waitfWake s = execWaitfWake s := rfl
theorem exec_rdvwWake_eq (s : State) : exec .rdvwWake s = execRdvwWake s := rfl
theorem exec_cwaitWake_eq (s : State) : exec .cwaitWake s = execCwaitWake s := rfl
theorem exec_cstatWake_eq (s : State) : exec .cstatWake s = execCstatWake s := rfl
theorem exec_fenceComplete_eq (s : State) : exec .fenceComplete s = execFenceComplete s := rfl
theorem exec_mouldEntryWrite_eq (s : State) : exec .mouldEntryWrite s = execMouldEntryWrite s := rfl
theorem exec_formatQueueEntry_eq (s : State) : exec .formatQueueEntry s = execFormatQueueEntry s := rfl
theorem exec_markerRetire_eq (s : State) : exec .markerRetire s = execMarkerRetire s := rfl

/-! ### Waits (R109, R232, R240) -/

/-- A core whose C stream goes on in this cycle, with a check before its next item. -/
def Core.woken (c : Core) (check : Option (Nat × Nat)) : Core :=
  c.setStream .c { c.stream .c with mode := .run, reach := c.ctx.tau, check := check }

theorem State.wake_eq_setCore (s : State) (check : Option (Nat × Nat)) : s.wake check = s.setCore s.cur (s.me.woken check) := rfl

@[simp] theorem Core.stream_woken (c : Core) (check : Option (Nat × Nat)) :
    (c.woken check).stream .c = { c.stream .c with mode := .run, reach := c.ctx.tau, check := check } :=
  c.stream_setStream_self _ _

/-- The event i wakes the C stream with a check before its next item; the
registers of C and X, the system registers and the task stay. -/
def State.Wakes (s : State) (i : Instr) (check : Option (Nat × Nat)) : Prop :=
  ∃ c, exec i s = .next (s.setCore s.cur c) ∧
    c.stream .c = { s.me.stream .c with mode := .run, reach := s.me.ctx.tau, check := check } ∧
    c.ctx.c = s.me.ctx.c ∧ c.ctx.x = s.me.ctx.x ∧ c.ctx.sys = s.me.ctx.sys ∧ c.task = s.me.task

theorem State.wakes_of_exec {s : State} {i : Instr} {check : Option (Nat × Nat)} (h : exec i s = .next (s.wake check)) :
    s.Wakes i check :=
  ⟨s.me.woken check, h.trans (congrArg _ (s.wake_eq_setCore check)), s.me.stream_woken check, rfl, rfl, rfl, rfl⟩

theorem State.cWait_eq_some {s : State} {w : Wait} (hmode : (s.me.stream .c).mode = .wait w) (hgoes : s.me.stopped = false) :
    s.cWait s.cur = some w := by
  rw [State.me] at hmode hgoes
  simp only [State.cWait, hmode, hgoes, Bool.false_eq_true, if_false]

theorem sleepuWake_wakes {s : State} {v : Nat} (hwait : s.cWait s.cur = some (.sleepu v)) (hv : v ≤ s.framecnt s.cur) :
    s.Wakes .sleepuWake (some (1, v)) :=
  State.wakes_of_exec (by simp only [exec_sleepuWake_eq, execSleepuWake, hwait, if_pos hv])

theorem waitfWake_wakes {s : State} {v : Nat} (hwait : s.cWait s.cur = some (.waitf v)) (hv : v ≤ s.framecnt s.cur) :
    s.Wakes .waitfWake none :=
  State.wakes_of_exec (by simp only [exec_waitfWake_eq, execWaitfWake, hwait, if_pos hv])

theorem rdvwWake_wakes {s : State} {m mask : Nat} (hwait : s.cWait s.cur = some (.rdvw m mask))
    (hruns : s.me.tauStands = false) (hmet : s.me.ctx.rdvFails m mask = 0) : s.Wakes .rdvwWake none := by
  have hdue : (!s.me.tauStands && decide (s.me.ctx.rdvFails m mask = 0)) = true := by simp [hruns, hmet]
  rw [State.me] at hdue
  exact State.wakes_of_exec (by simp only [exec_rdvwWake_eq, execRdvwWake, hwait, hdue, if_true])

theorem cwaitWake_wakes {s : State} {n : Nat} (hwait : s.cWait s.cur = some (.cwait n)) (hruns : s.me.tauStands = false)
    (hmet : s.batches s.cur ≤ n) : s.Wakes .cwaitWake (some (2, 0)) := by
  have hdue : (!s.me.tauStands && decide (s.batches s.cur ≤ n)) = true := by simp [hruns, hmet]
  rw [State.me] at hdue
  exact State.wakes_of_exec (by simp only [exec_cwaitWake_eq, execCwaitWake, hwait, hdue, if_true])

/-! ### CSTAT's wait (R295) -/

/-- A core that has been told its oldest cast request, which is dropped, and whose C stream goes on. -/
def Core.castReported (c : Core) : Core :=
  (c.modCtx fun x => { x with report := none, castq := x.castq.drop 1 }).woken (c.stream .c).check

@[simp] theorem Core.castq_castReported (c : Core) : c.castReported.ctx.castq = c.ctx.castq.drop 1 := rfl

@[simp] theorem Core.mode_castReported (c : Core) : (c.castReported.stream .c).mode = .run := by
  rw [Core.castReported, Core.stream_woken]

theorem State.castAnswer_eq_some {s : State} {q : CastEnt} {rest : List CastEnt} {st : Nat} (hruns : s.me.tauStands = false)
    (hq : s.me.ctx.castq = q :: rest) (hreport : s.me.ctx.report = some q.id) (hdone : q.done = some st) :
    s.castAnswer s.cur = some (q, st) := by
  rw [State.me] at hruns hq hreport
  simp [State.castAnswer, hruns, hq, hreport, hdone]

/-- CSTAT_WAKE, by whether the status is one that CSTAT raises. -/
theorem exec_cstatWake {s : State} {q : CastEnt} {st : Nat} (hmode : (s.me.stream .c).mode = .wait .cstat)
    (hanswer : s.castAnswer s.cur = some (q, st)) :
    let u := s.modCore s.cur Core.castReported
    exec .cstatWake s = match castCause st with
      | some cause => .next (u.tick.tick.takeTrap s.cur cause (castInfo q st) (u.afterItem s.cur (u.core s.cur)))
      | none => .next (u.bump.schedule ⟨.tau s.cur, s.me.ctx.tau + 1, s.cur, s.seq, true, .resultLanding,
          .landing (.cval (BitVec.ofNat 64 st) none)⟩) := by
  rw [State.me] at hmode
  simp only [exec_cstatWake_eq, execCstatWake, hanswer, State.modCore, hmode]
  rfl

/-- The item that comes next is known, and no free value stands for it, while the C stream runs (log entry 81). -/
theorem State.afterItem_tick_of_run (s : State) (id : CoreId) {c : Core} (hmode : (c.stream .c).mode = .run) :
    s.tick.afterItem id c = s.afterItem id c := by
  simp only [State.afterItem, hmode]
  rfl

theorem cstatWake_lands {s : State} {q : CastEnt} {rest : List CastEnt} {st : Nat}
    (hmode : (s.me.stream .c).mode = .wait .cstat) (hq : s.me.ctx.castq = q :: rest)
    (hanswer : s.castAnswer s.cur = some (q, st)) (hcause : castCause st = none) :
    ∃ t, exec .cstatWake s = .next t ∧ (t.core s.cur).ctx.castq = rest ∧ ((t.core s.cur).stream .c).mode = .run ∧
      ∃ p ∈ t.agenda, p.owner = s.cur ∧ p.due = s.me.ctx.tau + 1 ∧ p.ev = .resultLanding ∧
        p.arg = .landing (.cval (BitVec.ofNat 64 st) none) := by
  have hexec := exec_cstatWake hmode hanswer
  rw [hcause] at hexec
  refine ⟨_, hexec, ?_, ?_, _, List.mem_append_right _ (List.mem_singleton_self _), rfl, rfl, rfl, rfl⟩
  · rw [State.me] at hq
    simp [hq]
  · simp

theorem cstatWake_raises {s : State} {q : CastEnt} {rest : List CastEnt} {st : Nat} {cause : Cause}
    (hmode : (s.me.stream .c).mode = .wait .cstat) (hq : s.me.ctx.castq = q :: rest)
    (hanswer : s.castAnswer s.cur = some (q, st)) (hcause : castCause st = some cause) :
    ∃ u : State, (u.core s.cur).ctx.castq = rest ∧ u.mem = s.mem ∧
      exec .cstatWake s = .next (u.takeTrap s.cur cause (castInfo q st) (u.afterItem s.cur (u.core s.cur))) := by
  have hexec := exec_cstatWake hmode hanswer
  rw [hcause] at hexec
  refine ⟨(s.modCore s.cur Core.castReported).tick.tick, ?_, rfl, ?_⟩
  · rw [State.me] at hq
    simp [hq]
  · have hrun : (((s.modCore s.cur Core.castReported).core s.cur).stream .c).mode = .run := by simp
    rw [State.core_tick, State.core_tick, State.afterItem_tick_of_run _ _ hrun, State.afterItem_tick_of_run _ _ hrun]
    exact hexec

/-! ### Fences (R228) -/

/-- A fence changes of a write on record only whom it is visible to and what covers it. -/
theorem State.ledger_fence_writes (s : State) (c : CoreId) (sc : Scope) :
    (s.fence c sc).ledger.map (fun r => (r.pa, r.val, r.by_)) = s.ledger.map fun r => (r.pa, r.val, r.by_) := by
  simp only [State.fence, State.reveal, List.map_map]
  refine List.map_congr_left fun r _ => ?_
  simp only [Function.comp_apply]
  split <;> split <;> rfl

theorem State.fence_covers_visible {s : State} {c : CoreId} {sc : Scope} {r : WriteRec} (hr : r ∈ (s.fence c sc).ledger)
    (hvis : r.visible c = true) : (c, sc) ∈ r.fences := by
  simp only [State.fence, List.mem_map] at hr
  obtain ⟨w, -, rfl⟩ := hr
  split
  · exact List.mem_cons_self
  · next h =>
    rw [if_neg h] at hvis
    simpa [hvis] using h

theorem exec_fenceComplete {s : State} {sc : Scope} (harg : s.arg = .scope sc) :
    exec .fenceComplete s = .next (s.fence s.cur sc) := by
  simp only [exec_fenceComplete_eq, execFenceComplete, harg]

/-! ### Bytes as memory holds them (R7, R200, R212) -/

theorem pasFrom_succ (pa n : Nat) : pasFrom pa (n + 1) = pa :: pasFrom (pa + 1) n := by
  simp only [pasFrom, List.range_succ_eq_map, List.map_cons, List.map_map, Nat.add_zero, List.cons.injEq, true_and]
  exact List.map_congr_left fun i _ => by simp only [Function.comp_apply]; omega

theorem Mem.read_eq_map (m : Mem) (pa n : Nat) : m.read pa n = (pasFrom pa n).map m.get := by
  induction n generalizing pa with
  | zero => rfl
  | succ n ih => rw [Mem.read, ih, pasFrom_succ, List.map_cons]

theorem Mem.length_read (m : Mem) (pa n : Nat) : (m.read pa n).length = n := by
  simp [Mem.read_eq_map, pasFrom]

theorem leNat_lt (bs : List Byte) : leNat bs < 256 ^ bs.length := by
  induction bs with
  | nil => exact Nat.one_pos
  | cons b bs ih =>
    rw [leNat, List.length_cons, Nat.pow_succ]
    have := b.isLt
    omega

theorem Mem.num_lt (m : Mem) (pa n : Nat) : m.num pa n < 256 ^ n := by
  simpa only [Mem.num, Mem.length_read] using leNat_lt (m.read pa n)

/-- Where no write is on record and no way moves, a core reads what memory holds. -/
theorem State.readAs_eq_read {s : State} (c : CoreId) {pa n : Nat} (hledger : s.ledger = [])
    (hmotion : ∀ i, i < n → s.inMotion (pa + i) = false) : s.readAs c (pasFrom pa n) = s.mem.read pa n := by
  rw [Mem.read_eq_map, State.readAs]
  refine List.map_congr_left fun a ha => ?_
  obtain ⟨i, hi, rfl⟩ := List.mem_map.mp ha
  simp [hmotion i (List.mem_range.mp hi), State.readByteAs, hledger]

/-! ### Mould copies (R59) -/

theorem listGet?_listSet_self {β : Type} (l : List (Nat × β)) (k : Nat) (v : β) : listGet? (listSet l k v) k = some v := by
  induction l with
  | nil => simp [listSet, listGet?]
  | cons e l ih =>
    obtain ⟨a, b⟩ := e
    simp only [listSet]
    split
    · simp [listGet?]
    · split
      · simp [listGet?]
      · next hne =>
        have hak : (a == k) = false := by simpa using fun h : a = k => hne h.symm
        simpa only [listGet?, List.find?_cons, hak] using ih

@[simp] theorem Core.moulds_noteLast (c : Core) (t : Nat) : (c.noteLast t).ctx.moulds = c.ctx.moulds := by
  rw [Core.noteLast]
  split <;> rfl

@[simp] theorem Core.mloads_noteLast (c : Core) (t : Nat) : (c.noteLast t).ctx.mloads = c.ctx.mloads := by
  rw [Core.noteLast]
  split <;> rfl

/-- Correcting single-bit errors changes no core's context (R210). -/
@[simp] theorem State.ctx_correct (s : State) (pas : List Nat) (id : CoreId) : ((s.correct pas).core id).ctx = (s.core id).ctx := by
  refine foldl_keeps (fun t : State => (t.core id).ctx) _ (fun t w => ?_) _ s
  change ((t.modCore (paCore (8 * w)) fun c => c.countFix (paSpace (8 * w) == 0) (wordRow w)).core id).ctx = (t.core id).ctx
  by_cases h : id = paCore (8 * w)
  · subst h
    rw [State.core_modCore_self]
    rfl
  · rw [State.core_modCore_other _ _ _ _ h]

/-- A read leaves its core's context as it is, but for the prefetch accounting (R243). -/
theorem State.ctx_noteRead (s : State) (id : CoreId) (pas : List Nat) :
    ∃ k, ((s.noteRead id pas).core id).ctx = { (s.core id).ctx with copy := k } := by
  simp only [State.noteRead]
  split
  · exact ⟨_, State.ctx_correct s pas id⟩
  · rw [State.core_modCore_self, Core.ctx_modCtx, State.ctx_correct]
    exact ⟨_, rfl⟩

/-- The MLOADs that are pending once the oldest of them has written its next entry. -/
def MloadJob.advance (j : MloadJob) (rest : List MloadJob) : List MloadJob :=
  if j.done + 1 = j.n then rest else { j with done := j.done + 1 } :: rest

/-- A core whose oldest MLOAD has written bytes into its next entry in a cycle. -/
def Core.writeMould (c : Core) (j : MloadJob) (rest : List MloadJob) (bs : List Byte) (t : Nat) : Core :=
  (c.modCtx fun x => { x with
    moulds := listSet x.moulds ((j.first + j.done) % 1024) (BitVec.ofNat 128 (leNat bs)), mloads := j.advance rest }).noteLast t

/-- The bytes of the scratchpad that the next entry of an MLOAD is copied from. -/
def State.mouldPas (s : State) (j : MloadJob) : List Nat := pasFrom (padBase s.cur + (j.src + 16 * j.done)) 16

/-- The state in which the oldest MLOAD of the core has written its next entry. -/
def State.mouldWritten (s : State) (j : MloadJob) (rest : List MloadJob) : State :=
  (s.setCore s.cur (s.me.writeMould j rest (s.readAs s.cur (s.mouldPas j)) s.clock)).noteRead s.cur (s.mouldPas j)

/-- MOULD_ENTRY_WRITE: where an entry is left to write, its own event follows a cycle later. -/
theorem exec_mouldEntryWrite {s : State} {j : MloadJob} {rest : List MloadJob} (hj : s.me.ctx.mloads = j :: rest)
    (harg : s.arg = .ids j.id j.done) :
    exec .mouldEntryWrite s = match j.advance rest with
      | [] => .next (s.mouldWritten j rest)
      | n :: _ => .next ((s.mouldWritten j rest).schedule
          ⟨s.me.ownClk s.cur, s.nowOf (s.me.ownClk s.cur) + 1, s.cur, n.id, false, .mouldEntryWrite, .ids n.id n.done⟩) := by
  rw [State.me] at hj
  simp only [exec_mouldEntryWrite_eq, execMouldEntryWrite, harg, hj, ne_eq, not_true_eq_false, or_self, if_false]
  rfl

@[simp] theorem State.mem_mouldWritten (s : State) (j : MloadJob) (rest : List MloadJob) : (s.mouldWritten j rest).mem = s.mem := by
  simp [State.mouldWritten]

@[simp] theorem State.mloads_mouldWritten (s : State) (j : MloadJob) (rest : List MloadJob) :
    ((s.mouldWritten j rest).core s.cur).ctx.mloads = j.advance rest := by
  obtain ⟨k, hctx⟩ := State.ctx_noteRead
    (s.setCore s.cur (s.me.writeMould j rest (s.readAs s.cur (s.mouldPas j)) s.clock)) s.cur (s.mouldPas j)
  rw [State.mouldWritten, hctx, State.core_setCore_self, Core.writeMould]
  exact Core.mloads_noteLast _ _

@[simp] theorem State.moulds_mouldWritten (s : State) (j : MloadJob) (rest : List MloadJob) :
    ((s.mouldWritten j rest).core s.cur).ctx.moulds =
      listSet s.me.ctx.moulds ((j.first + j.done) % 1024) (BitVec.ofNat 128 (leNat (s.readAs s.cur (s.mouldPas j)))) := by
  obtain ⟨k, hctx⟩ := State.ctx_noteRead
    (s.setCore s.cur (s.me.writeMould j rest (s.readAs s.cur (s.mouldPas j)) s.clock)) s.cur (s.mouldPas j)
  rw [State.mouldWritten, hctx, State.core_setCore_self, Core.writeMould]
  exact Core.moulds_noteLast _ _

/-- The entry that a mould copy has written holds the 16 bytes of its source, where the core reads memory as it stands. -/
theorem State.mould_mouldWritten {s : State} {j : MloadJob} (rest : List MloadJob) (hledger : s.ledger = [])
    (hmotion : ∀ i, i < 16 → s.inMotion (padBase s.cur + (j.src + 16 * j.done) + i) = false) :
    ((s.mouldWritten j rest).core s.cur).ctx.mould ((j.first + j.done) % 1024) =
      s.mem.num (padBase s.cur + (j.src + 16 * j.done)) 16 := by
  rw [Ctx.mould, State.moulds_mouldWritten, listGet?_listSet_self, State.mouldPas, State.readAs_eq_read _ hledger hmotion]
  exact BitVec.toNat_ofNat .. |>.trans (Nat.mod_eq_of_lt (s.mem.num_lt _ 16))

/-- A mould copy ends in the state with its entry written, but for the event that its core schedules. -/
theorem mouldEntryWrite_writes {s : State} {j : MloadJob} {rest : List MloadJob} (hj : s.me.ctx.mloads = j :: rest)
    (harg : s.arg = .ids j.id j.done) :
    ∃ t, exec .mouldEntryWrite s = .next t ∧ t.mem = s.mem ∧ t.core s.cur = (s.mouldWritten j rest).core s.cur := by
  rw [exec_mouldEntryWrite hj harg]
  cases j.advance rest with
  | nil => exact ⟨_, rfl, s.mem_mouldWritten j rest, rfl⟩
  | cons n _ => exact ⟨_, rfl, s.mem_mouldWritten j rest, rfl⟩

/-! ### Format words and markers (R231, R250, R255) -/

theorem exec_formatQueueEntry {s : State} {w r : Word} (harg : s.arg = .words w r) : exec .formatQueueEntry s =
    .next (s.setCore s.cur (s.me.modMat fun m => { m with fq := m.fq ++ [(w, r.toNat)] })) := by
  simp only [exec_formatQueueEntry_eq, execFormatQueueEntry, harg]
  rfl

/-- A core whose oldest marker of engine e, m, has retired. -/
def Core.retireMarker (c : Core) (e : Nat) (m : Marker) (rest : List Marker) : Core := c.modCtx fun x => { x with
  markers := x.markers.set! e rest, sys := { x.sys with rdv := x.sys.rdv.set! e m.m } }

theorem exec_markerRetire {s : State} {e n : Nat} {m : Marker} {rest : List Marker} (harg : s.arg = .ids e n)
    (hm : s.me.ctx.markers[e]! = m :: rest) (hready : s.markerReady s.cur e = true) :
    exec .markerRetire s = .next (s.setCore s.cur (s.me.retireMarker e m rest)) := by
  rw [State.me] at hm
  simp only [exec_markerRetire_eq, execMarkerRetire, harg, if_pos hready, State.modCore, Core.modCtx, hm]
  rfl

theorem State.markerReady_of_oldest {s : State} {e : Nat} {m : Marker} {rest : List Marker} (hruns : s.me.tauStands = false)
    (hm : s.me.ctx.markers[e]! = m :: rest) (hearliest : m.earliest ≤ s.me.ctx.tau)
    (hdone : ((s.busyIds s.cur).all fun b => !m.behind.contains b.1) = true) : s.markerReady s.cur e = true := by
  rw [State.me] at hruns hm hearliest
  simp only [State.markerReady, hruns, hm, hearliest, decide_true, Bool.not_false, Bool.true_and, List.not_any_eq_all_not, hdone]

theorem getElem!_set! {α : Type} [Inhabited α] {n : Nat} (v : Vector α n) {e k : Nat} (hk : k < n) (x : α) :
    (v.set! e x)[k]! = if e = k then x else v[k]! := by
  rw [getElem!_pos _ k hk, getElem!_pos _ k hk, Vector.getElem_set!]

theorem Core.markers_retireMarker (c : Core) {e k : Nat} (hk : k < 5) (m : Marker) (rest : List Marker) :
    (c.retireMarker e m rest).ctx.markers[k]! = if e = k then rest else c.ctx.markers[k]! :=
  getElem!_set! _ hk _

theorem Core.rdv_retireMarker (c : Core) {e k : Nat} (hk : k < 5) (m : Marker) (rest : List Marker) :
    (c.retireMarker e m rest).ctx.sys.rdv[k]! = if e = k then m.m else c.ctx.sys.rdv[k]! :=
  getElem!_set! _ hk _

/-! ### The statement -/

/-- Settles O38: each wait's wake, and each queue's step, is what its lemma above gives. -/
theorem waitsEndAndQueuesAdvance : Obligations.WaitsEndAndQueuesAdvance := by
  unfold Obligations.WaitsEndAndQueuesAdvance
  refine ⟨fun s w hmode hgoes => ?waits, fun s sc harg => ?fence, fun s j rest hj harg hledger hmotion => ?mould,
    fun s w r harg => ?format, fun s e n m rest he harg hruns hm hearliest hdone => ?marker⟩
  case waits =>
    have hwait := State.cWait_eq_some hmode hgoes
    refine ⟨?sleepu, ?waitf, ?rdvw, ?cwait, ?cstat⟩
    case sleepu =>
      rintro v rfl hv
      exact sleepuWake_wakes hwait hv
    case waitf =>
      rintro v rfl hv
      exact waitfWake_wakes hwait hv
    case rdvw =>
      rintro m mask rfl hruns hmet
      exact rdvwWake_wakes hwait hruns hmet
    case cwait =>
      rintro n rfl hruns hmet
      exact cwaitWake_wakes hwait hruns hmet
    case cstat =>
      rintro q rest st rfl hruns hq hreport hdone
      have hanswer := State.castAnswer_eq_some hruns hq hreport hdone
      exact ⟨cstatWake_lands hmode hq hanswer, fun cause => cstatWake_raises hmode hq hanswer⟩
  case fence =>
    exact ⟨_, exec_fenceComplete harg, rfl, rfl, rfl, s.ledger_fence_writes _ _, fun r => State.fence_covers_visible⟩
  case mould =>
    obtain ⟨t, hexec, hmem, hcore⟩ := mouldEntryWrite_writes hj harg
    rw [← State.mould_mouldWritten rest hledger hmotion]
    exact ⟨t, hexec, hmem, by rw [hcore], by rw [hcore, State.mloads_mouldWritten, MloadJob.advance]⟩
  case format =>
    exact ⟨_, exec_formatQueueEntry harg, rfl, rfl, rfl⟩
  case marker =>
    have hready := State.markerReady_of_oldest hruns hm hearliest hdone
    refine ⟨_, exec_markerRetire harg hm hready, ?_, ?_, fun k hk hne => ⟨?_, ?_⟩⟩
    · rw [Core.markers_retireMarker _ he, if_pos rfl]
    · rw [Core.rdv_retireMarker _ he, if_pos rfl]
    · rw [Core.markers_retireMarker _ hk, if_neg hne.symm]
    · rw [Core.rdv_retireMarker _ hk, if_neg hne.symm]

end Sys2Proof.Machine
end

section
/-! PROOFS. Number formats and vector elements (R66 to R70): the bits that encode gives back after decode, the element that a vector made
of elements has, and the statement on them. -/

namespace Sys2Proof.Machine

open Sys2Proof

/-! ### Formats: encode after decode (R66, R70) -/

/-- The sign bit and the magnitude field make up the bits. -/
theorem FFmt.signed_split {f : FFmt} (hw : 0 < f.w) {b : Nat} (hb : b < 2 ^ f.w) :
    f.signed (b / 2 ^ (f.w - 1) % 2 == 1) (b % 2 ^ (f.w - 1)) = b := by
  obtain ⟨k, hk⟩ : ∃ k, f.w = k + 1 := ⟨f.w - 1, by omega⟩
  rw [hk, pow_succ] at hb
  have hsplit := Nat.div_add_mod b (2 ^ k)
  have hlt : b / 2 ^ k < 2 := Nat.div_lt_of_lt_mul hb
  simp only [FFmt.signed, hk, Nat.add_sub_cancel, Nat.mod_eq_of_lt hlt, beq_iff_eq]
  split
  · next h => simpa [h] using hsplit
  · next h => simpa [Nat.lt_one_iff.mp (lt_of_le_of_ne (Nat.lt_succ_iff.mp hlt) h)] using hsplit

/-- A finite value whose exponent is n above the format's least, subnormal for n = 0, is encoded exactly. -/
theorem FFmt.encode_fin_exact {f : FFmt} {m n : Nat} (rm : Rm) (neg : Bool) (hm : m < 2 ^ (f.mb + 1))
    (hn : 0 < n → 2 ^ f.mb ≤ m) (hfit : n * 2 ^ f.mb + m ≤ f.maxf) :
    f.encode rm (.fin neg m (1 - f.bias - f.mb + n)) = f.signed neg (n * 2 ^ f.mb + m) := by
  by_cases h0 : m = 0
  · have : n = 0 := by
      by_contra h
      exact absurd (hn (by omega)) (by simp [h0])
    simp [FFmt.encode, h0, this]
  have hle : Nat.log2 m ≤ f.mb := by
    have := (Nat.log2_lt h0).mpr hm
    omega
  have htop : 0 < n → Nat.log2 m = f.mb := fun h => le_antisymm hle ((Nat.le_log2 h0).mpr (hn h))
  have hex : (if (Nat.log2 m : Int) + (1 - f.bias - f.mb + n) < 1 - f.bias then 1 - f.bias
      else (Nat.log2 m : Int) + (1 - f.bias - f.mb + n)) = 1 - f.bias + n := by
    split <;> omega
  have hq : 1 - f.bias + (n : Int) - f.mb = 1 - f.bias - f.mb + n := by omega
  simp only [FFmt.encode, h0, if_false, hex, hq, le_refl, if_true, sub_self, Int.toNat_zero, pow_zero, mul_one,
    show 1 - f.bias + (n : Int) - (1 - f.bias) = n by omega, Int.toNat_natCast, Nat.not_lt.mpr hfit]

/-- The value of a sign and a magnitude field (R66). -/
def FFmt.magVal (f : FFmt) (neg : Bool) (mag : Nat) : FVal :=
  if f.maxf < mag then (if f.hasInf && mag == f.maxf + 1 then .inf neg else .nan)
  else if mag / 2 ^ f.mb = 0 then .fin neg (mag % 2 ^ f.mb) (1 - f.bias - f.mb)
  else .fin neg (2 ^ f.mb + mag % 2 ^ f.mb) (((mag / 2 ^ f.mb : Nat) : Int) - f.bias - f.mb)

theorem FFmt.decode_eq_magVal (f : FFmt) (b : Nat) :
    f.decode b = f.magVal (b / 2 ^ (f.w - 1) % 2 == 1) (b % 2 ^ (f.w - 1)) := rfl

theorem FFmt.encode_magVal (f : FFmt) (rm : Rm) (neg : Bool) (mag : Nat) :
    f.encode rm (f.magVal neg mag) = if (f.magVal neg mag).isNan then f.nan else f.signed neg mag := by
  unfold FFmt.magVal
  have hmag := Nat.div_add_mod' mag (2 ^ f.mb)
  have hfr : mag % 2 ^ f.mb < 2 ^ f.mb := Nat.mod_lt _ (by positivity)
  by_cases hmax : f.maxf < mag
  · by_cases hinf : (f.hasInf && mag == f.maxf + 1) = true
    · obtain ⟨hhas, heq⟩ := by simpa using hinf
      simp [hhas, heq, FFmt.encode, FVal.isNan]
    · simp [hmax, hinf, FFmt.encode, FVal.isNan]
  by_cases hsub : mag / 2 ^ f.mb = 0
  · rw [hsub, zero_mul, zero_add] at hmag
    rw [hmag] at hfr
    have hfin := FFmt.encode_fin_exact (f := f) (m := mag) (n := 0) rm neg (hfr.trans (Nat.pow_lt_pow_succ one_lt_two))
      (by simp) (by omega)
    simpa [hmax, hsub, hmag, FVal.isNan] using hfin
  · obtain ⟨n, hn⟩ : ∃ n, mag / 2 ^ f.mb = n + 1 := Nat.exists_eq_add_one_of_ne_zero hsub
    rw [hn, Nat.add_one_mul] at hmag
    have hfin := FFmt.encode_fin_exact (f := f) (m := 2 ^ f.mb + mag % 2 ^ f.mb) (n := n) rm neg (by rw [pow_succ]; omega)
      (fun _ => Nat.le_add_right _ _) (by omega)
    simp only [hmax, hn, if_false, FVal.isNan, Bool.false_eq_true, Nat.add_one_ne_zero]
    rw [show (((n + 1 : Nat) : Int) - f.bias - f.mb) = 1 - f.bias - f.mb + n by omega, hfin]
    congr 1
    omega

/-- Encoding gives back the bits that were decoded, a NaN's being the canonical ones. -/
theorem FFmt.encode_decode {f : FFmt} (hw : 0 < f.w) (rm : Rm) {b : Nat} (hb : b < 2 ^ f.w) :
    f.encode rm (f.decode b) = if (f.decode b).isNan then f.nan else b := by
  rw [FFmt.decode_eq_magVal, FFmt.encode_magVal, FFmt.signed_split hw hb]


/-! ### Elements of a vector (R67) -/

/-- The elements of a lane, least significant first, as the digits of one number. -/
def joinDigits (w : Nat) (g : Nat → Nat) (n : Nat) : Nat :=
  (List.range n).foldl (fun acc j => acc + g j % 2 ^ w * 2 ^ (w * j)) 0

theorem joinDigits_succ (w : Nat) (g : Nat → Nat) (n : Nat) :
    joinDigits w g (n + 1) = joinDigits w g n + g n % 2 ^ w * 2 ^ (w * n) := by
  simp [joinDigits, List.range_succ]

theorem joinDigits_lt (w : Nat) (g : Nat → Nat) (n : Nat) : joinDigits w g n < 2 ^ (w * n) := by
  induction n with
  | zero => simp [joinDigits]
  | succ n ih =>
    have hd : g n % 2 ^ w + 1 ≤ 2 ^ w := Nat.mod_lt _ (by positivity)
    calc joinDigits w g (n + 1) = joinDigits w g n + g n % 2 ^ w * 2 ^ (w * n) := joinDigits_succ w g n
      _ < (g n % 2 ^ w + 1) * 2 ^ (w * n) := by rw [Nat.add_one_mul]; omega
      _ ≤ 2 ^ w * 2 ^ (w * n) := Nat.mul_le_mul_right _ hd
      _ = 2 ^ (w * (n + 1)) := by rw [← pow_add]; congr 1; ring

theorem joinDigits_digit (w : Nat) (g : Nat → Nat) {n j : Nat} (hj : j < n) :
    joinDigits w g n / 2 ^ (w * j) % 2 ^ w = g j % 2 ^ w := by
  induction n with
  | zero => omega
  | succ n ih =>
    rw [joinDigits_succ]
    by_cases h : j = n
    · subst h
      rw [Nat.add_mul_div_right _ _ (by positivity), Nat.div_eq_of_lt (joinDigits_lt w g j), zero_add, Nat.mod_mod]
    · obtain ⟨k, rfl⟩ : ∃ k, n = j + 1 + k := ⟨n - (j + 1), by omega⟩
      have hpow : g (j + 1 + k) % 2 ^ w * 2 ^ (w * (j + 1 + k)) =
          (g (j + 1 + k) % 2 ^ w * 2 ^ (w * k)) * 2 ^ w * 2 ^ (w * j) := by
        rw [mul_assoc, mul_assoc, ← pow_add, ← pow_add]
        congr 2
        ring
      rw [hpow, Nat.add_mul_div_right _ _ (by positivity), Nat.add_mul_mod_self_right, ih (by omega)]

theorem packLane_eq_joinDigits (w : Nat) (g : Nat → Nat) (i : Nat) :
    packLane w g i = joinDigits w (fun j => g (i * (32 / w) + j)) (32 / w) := rfl

theorem laneNat_vecOfElems (w : Nat) (hw : w ≠ 64) (g : Nat → Nat) {i : Nat} (hi : i < 64) :
    laneNat (vecOfElems w g) i = packLane w g i % 2 ^ 32 := by
  simp [laneNat, vecOfElems, hw, hi]

theorem laneNat_vecOfElems_64 (g : Nat → Nat) {i : Nat} (hi : i < 64) :
    laneNat (vecOfElems 64 g) i = (if i % 2 = 0 then g (i / 2) else g (i / 2) / 2 ^ 32) % 2 ^ 32 := by
  simp [laneNat, vecOfElems, hi]

/-- The widths of the formats: of a lane, n elements, or of two. -/
theorem Fmt.width_cases (f : Fmt) : f.width = 64 ∨ ∃ n, 0 < n ∧ 0 < f.width ∧ f.width * n = 32 := by
  cases f
  case cf32 => exact .inl rfl
  case bf16 | f16 | i16 | u16 => exact .inr ⟨2, by decide⟩
  case e4m3 | e5m2 | i8 | u8 => exact .inr ⟨4, by decide⟩
  case e2m1 | i4 => exact .inr ⟨8, by decide⟩
  all_goals exact .inr ⟨1, by decide⟩

theorem Fmt.width_pos (f : Fmt) : 0 < f.width := by cases f <;> decide

/-- Element e of a vector made of given elements is the low bits of the given one. -/
theorem elem_vecOfElems (f : Fmt) (g : Nat → Nat) {e : Nat} (he : e < f.count) :
    elem f.width (vecOfElems f.width g) e = g e % 2 ^ f.width := by
  rw [Fmt.count] at he
  obtain hw | ⟨n, hn, hpos, hmul⟩ := Fmt.width_cases f
  · rw [hw] at he ⊢
    have hodd : (2 * e + 1) / 2 = e := by omega
    rw [elem, if_pos rfl, laneNat_vecOfElems_64 g (by omega), laneNat_vecOfElems_64 g (by omega)]
    simp only [Nat.mul_mod_right, Nat.mul_add_mod_self_left, hodd, if_true, Nat.mul_div_cancel_left e two_pos, Nat.one_mod,
      one_ne_zero, if_false]
    omega
  · generalize f.width = w at *
    have hw : w ≠ 64 := by rintro rfl; omega
    have hlane : e * w / 32 = e / n := by rw [← hmul, mul_comm w, Nat.mul_div_mul_right _ _ hpos]
    have hbit : e * w % 32 = w * (e % n) := by rw [← hmul, mul_comm w, Nat.mul_mod_mul_right, mul_comm]
    have hcount : 2048 / w = n * 64 := Nat.div_eq_of_eq_mul_right hpos (by linarith)
    have hper : 32 / w = n := Nat.div_eq_of_eq_mul_right hpos hmul.symm
    have hlt : e / n < 64 := Nat.div_lt_of_lt_mul (hcount ▸ he)
    have hfits := joinDigits_lt w (fun j => g (e / n * n + j)) n
    rw [hmul] at hfits
    rw [elem, if_neg hw, hlane, hbit, laneNat_vecOfElems w hw g hlt, packLane_eq_joinDigits, hper, Nat.mod_eq_of_lt hfits,
      joinDigits_digit _ _ (Nat.mod_lt _ hn), Nat.div_add_mod']

/-! ### The statement on formats -/

/-- Settles O6: encode after decode, and the elements of a vector by their lanes. -/
theorem numberFormatsRoundTrip : Obligations.NumberFormatsRoundTrip := by
  unfold Obligations.NumberFormatsRoundTrip
  refine ⟨fun f rm b hf hb => FFmt.encode_decode ?_ rm hb, fun f g e he => elem_vecOfElems f g he⟩
  have hw : ∀ f ∈ [fF32, fBF16, fF16, fE4M3, fE5M2, fE2M1], 0 < f.w := by decide
  exact hw f hf

end Sys2Proof.Machine
end

section
/-! PROOFS. The order of exact values (R75, R98): each of the model's comparisons as the order of extended reals. -/

namespace Sys2Proof.Machine

open Sys2Proof

/-- The real number that a finite value is. -/
noncomputable def realOf (neg : Bool) (m : Nat) (e : Int) : ℝ := (if neg then -1 else 1) * (m * (2 : ℝ) ^ e)

/-- The extended real that a value is; a NaN, which is none, stands at the bottom. -/
noncomputable def FVal.toEReal : FVal → EReal
  | .nan => ⊥
  | .inf neg => if neg then ⊥ else ⊤
  | .fin neg m e => (realOf neg m e : ℝ)

theorem scaled_eq (neg : Bool) (m : Nat) (e u : Int) :
    scaled neg m e u = (if neg then -1 else 1) * ((m : Int) * 2 ^ (e - u).toNat) := by
  cases neg <;> simp [scaled]

theorem scaled_mul_two_zpow (neg : Bool) (m : Nat) {e u : Int} (hu : u ≤ e) :
    (scaled neg m e u : ℝ) * 2 ^ u = realOf neg m e := by
  have hpow : (2 : ℝ) ^ (e - u).toNat * 2 ^ u = 2 ^ e := by
    rw [← zpow_natCast, ← zpow_add₀ two_ne_zero]
    congr 1
    omega
  rw [scaled_eq, realOf, ← hpow]
  cases neg <;> push_cast <;> ring

/-- The extended real of an integer in units of 2^u. -/
noncomputable def unitsOf (u k : Int) : EReal := ((k * 2 ^ u : ℝ) : EReal)

theorem unitsOf_strictMono (u : Int) : StrictMono (unitsOf u) := fun j k h => by
  rw [unitsOf, unitsOf, EReal.coe_lt_coe_iff, mul_lt_mul_iff_left₀ (zpow_pos two_pos u), Int.cast_lt]
  exact h

theorem FVal.toEReal_fin (neg : Bool) (m : Nat) {e u : Int} (hu : u ≤ e) :
    (FVal.fin neg m e).toEReal = unitsOf u (scaled neg m e u) := by
  rw [unitsOf, scaled_mul_two_zpow neg m hu, FVal.toEReal]

/-- The least of two exponents is at most each. -/
theorem lesser_le (e g : Int) : (if e < g then e else g) ≤ e ∧ (if e < g then e else g) ≤ g := by
  split <;> omega

theorem FVal.under_iff {x y : FVal} (hx : x ≠ .nan) (hy : y ≠ .nan) : x.Under y ↔ x.toEReal < y.toEReal := by
  match x, y with
  | .inf a, .inf b => cases a <;> cases b <;> simp [FVal.Under, FVal.toEReal]
  | .inf a, .fin .. => cases a <;> simp [FVal.Under, FVal.toEReal]
  | .fin .., .inf b => cases b <;> simp [FVal.Under, FVal.toEReal]
  | .fin a m e, .fin b n g =>
    obtain ⟨he, hg⟩ := lesser_le e g
    rw [FVal.Under, ← scaled_eq, ← scaled_eq, FVal.toEReal_fin a m he, FVal.toEReal_fin b n hg, (unitsOf_strictMono _).lt_iff_lt]

/-- The comparison of two numbers is that of their extended reals. -/
theorem FVal.compares_cmp {x y : FVal} (hx : x ≠ .nan) (hy : y ≠ .nan) : (x.cmp y).Compares x.toEReal y.toEReal := by
  match x, y with
  | .inf a, .inf b => cases a <;> cases b <;> simp [FVal.cmp, FVal.toEReal]
  | .inf a, .fin .. => cases a <;> simp [FVal.cmp, FVal.toEReal]
  | .fin .., .inf b => cases b <;> simp [FVal.cmp, FVal.toEReal]
  | .fin a m e, .fin b n g =>
    obtain ⟨he, hg⟩ := lesser_le e g
    rw [FVal.cmp, FVal.toEReal_fin a m he, FVal.toEReal_fin b n hg, (unitsOf_strictMono _).compares]
    exact cmp_eq_compare (scaled a m e _) (scaled b n g _) ▸ cmp_compares _ _

theorem FVal.cmp_eq_lt_iff {x y : FVal} (hx : x ≠ .nan) (hy : y ≠ .nan) : x.cmp y = .lt ↔ x.Under y :=
  (FVal.compares_cmp hx hy).eq_lt.trans (FVal.under_iff hx hy).symm

theorem FVal.cmp_eq_gt_iff {x y : FVal} (hx : x ≠ .nan) (hy : y ≠ .nan) : x.cmp y = .gt ↔ y.Under x :=
  (FVal.compares_cmp hx hy).eq_gt.trans (FVal.under_iff hy hx).symm

theorem FVal.cmp_eq_eq_iff {x y : FVal} (hx : x ≠ .nan) (hy : y ≠ .nan) : x.cmp y = .eq ↔ ¬ x.Under y ∧ ¬ y.Under x := by
  rw [(FVal.compares_cmp hx hy).eq_eq, FVal.under_iff hx hy, FVal.under_iff hy hx, not_lt, not_lt, and_comm, le_antisymm_iff]

end Sys2Proof.Machine
end

section
/-! PROOFS. The scalar FP32 instructions (R68, R97 to R99): their results on a NaN, the order that FCMP tests, and the statement on
them. -/

namespace Sys2Proof.Machine

open Sys2Proof

/-! ### A NaN operand (R68) -/

theorem FVal.isNan_iff {x : FVal} : x.isNan = true ↔ x = .nan := by cases x <;> simp [FVal.isNan]

@[simp] theorem FVal.isNan_neg (x : FVal) : x.neg.isNan = x.isNan := by cases x <;> rfl

theorem FVal.add_of_nan (rm : Rm) {x y : FVal} (h : x.isNan = true ∨ y.isNan = true) : x.add rm y = .nan := by
  rcases h with h | h <;> rw [FVal.isNan_iff.mp h]
  · rfl
  · cases x <;> rfl

theorem FVal.sub_of_nan (rm : Rm) {x y : FVal} (h : x.isNan = true ∨ y.isNan = true) : x.add rm y.neg = .nan :=
  FVal.add_of_nan rm (y.isNan_neg ▸ h)

theorem FVal.mul_of_nan {x y : FVal} (h : x.isNan = true ∨ y.isNan = true) : x.mul y = .nan := by
  rcases h with h | h <;> rw [FVal.isNan_iff.mp h]
  · rfl
  · cases x <;> rfl

theorem FVal.div_of_nan {x y : FVal} (h : x.isNan = true ∨ y.isNan = true) : x.div y = .nan := by
  rcases h with h | h <;> rw [FVal.isNan_iff.mp h]
  · rfl
  · cases x <;> rfl

theorem FVal.min_of_nan {x y : FVal} (h : x.isNan = true ∨ y.isNan = true) : x.min y = .nan := by
  rw [FVal.min, if_pos (Bool.or_eq_true _ _ ▸ h)]

theorem FVal.max_of_nan {x y : FVal} (h : x.isNan = true ∨ y.isNan = true) : x.max y = .nan := by
  rw [FVal.max, if_pos (Bool.or_eq_true _ _ ▸ h)]

/-- An instruction's NaN is the canonical one. -/
theorem fpResult_nan (rm : Rm) : fpResult rm .nan = 0x7FC00000 := rfl

/-- Of the conditions of FCMP a NaN meets un and ne (R98). -/
theorem fcmpTest_of_nan (fc : FcmpCond) {x y : FVal} (h : x.isNan = true ∨ y.isNan = true) :
    fcmpTest fc x y = decide (fc = .un ∨ fc = .ne) := by
  have hun : (x.isNan || y.isNan) = true := Bool.or_eq_true _ _ ▸ h
  cases fc <;> simp [fcmpTest, hun]

/-! ### The order of numbers (R98) -/

theorem FVal.isNan_eq_false {x : FVal} (h : x ≠ .nan) : x.isNan = false := Bool.eq_false_iff.mpr (mt FVal.isNan_iff.mp h)

/-- On numbers FCMP tests their order. -/
theorem fcmpTest_of_numbers {x y : FVal} (hx : x ≠ .nan) (hy : y ≠ .nan) :
    (fcmpTest .eq x y = true ↔ ¬ x.Under y ∧ ¬ y.Under x) ∧ (fcmpTest .lt x y = true ↔ x.Under y) ∧
    (fcmpTest .le x y = true ↔ ¬ y.Under x) ∧ (fcmpTest .ne x y = true ↔ x.Under y ∨ y.Under x) ∧ fcmpTest .un x y = false := by
  have heq := FVal.cmp_eq_eq_iff hx hy
  simp only [fcmpTest, FVal.isNan_eq_false hx, FVal.isNan_eq_false hy, Bool.or_self, Bool.not_false, Bool.true_and, Bool.false_or,
    beq_iff_eq, bne_iff_ne, ne_eq, FVal.cmp_eq_lt_iff hx hy, FVal.cmp_eq_gt_iff hx hy, heq, true_and, and_true]
  tauto

/-! ### The instructions of two operands -/

section
variable {s : State} {d : CDst} {a b : CSrc} {x y : Word} {c : Core} (h : ReadyC2 s d a b x y c)
include h

/-- A once-rounded result that is a NaN lands as the canonical NaN. -/
theorem ReadyC2.lands_nan {i : Instr} {n : Nat} {rm : Rm} {f : FVal → FVal → FVal}
    (hexec : exec i s = aluC2 d a b n (fun x y => fpResult rm (f (fpOf x) (fpOf y))) s) (hnan : f (fpOf x) (fpOf y) = .nan) :
    ResultC i s c d n 0x7FC00000 := by
  have hlands := hexec.trans (aluC2_lands h)
  rwa [hnan, fpResult_nan] at hlands

theorem ReadyC2.lands_fcmp (fc : FcmpCond) : ResultC (.fcmp d fc a b) s c d 2 (boolWord (fcmpTest fc (fpOf x) (fpOf y))) :=
  aluC2_lands h

theorem ReadyC2.lands_fcmp_of_nan (hnan : (fpOf x).isNan = true ∨ (fpOf y).isNan = true) (fc : FcmpCond) :
    ResultC (.fcmp d fc a b) s c d 2 (boolWord (decide (fc = .un ∨ fc = .ne))) :=
  fcmpTest_of_nan fc hnan ▸ h.lands_fcmp fc

end

/-! ### Conversions of integers (R99) -/

theorem toSigned_32_toNat (x : Word) : toSigned 32 x.toNat = (x.setWidth 32).toInt := by
  rw [toSigned, BitVec.toInt, BitVec.toNat_setWidth]
  split <;> split <;> omega

theorem fcvtWord_f32i32 (rm : Rm) (x : Word) :
    fcvtWord .f32i32 rm x = (f32of rm (FVal.ofInt (x.setWidth 32).toInt)).setWidth 64 := by
  rw [fcvtWord, toSigned_32_toNat, fpResult]

theorem fcvtWord_f32u32 (rm : Rm) (x : Word) :
    fcvtWord .f32u32 rm x = (f32of rm (FVal.ofInt (x.setWidth 32).toNat)).setWidth 64 := by
  rw [fcvtWord, BitVec.toNat_setWidth, fpResult]

theorem ReadyC1.lands_fcvt {s : State} {d : CDst} {a : CSrc} {x : Word} {c : Core} (h : ReadyC1 s d a x c) {k : FcvtKind} {rm : Rm}
    {v : Word} (hv : fcvtWord k rm x = v) : ResultC (.fcvt d k rm a) s c d 3 v :=
  hv ▸ aluC1_lands h

/-! ### The statement -/

/-- Settles O5: each result is the one of its instruction's function, an operand that is a NaN makes that a NaN, and FCMP's tests
of numbers are those of their order. -/
theorem scalarFloatsLand : Obligations.ScalarFloatsLand := by
  unfold Obligations.ScalarFloatsLand
  refine ⟨fun s d a b x y c rm h => ?two, fun s d a b e x y z c rm h => aluC3_lands h, fun s d a x c rm h => ?one,
    fun x y hx hy => fcmpTest_of_numbers hx hy⟩
  case two =>
    refine ⟨aluC2_lands h, aluC2_lands h, aluC2_lands h, aluC2_lands h, aluC2_lands h, aluC2_lands h, h.lands_fcmp,
      fun hnan => ?nan⟩
    -- each function of an operand that is a NaN is a NaN
    exact ⟨h.lands_nan (f := FVal.add rm) rfl (FVal.add_of_nan rm hnan),
      h.lands_nan (f := fun u v => u.add rm v.neg) rfl (FVal.sub_of_nan rm hnan),
      h.lands_nan (f := FVal.mul) rfl (FVal.mul_of_nan hnan), h.lands_nan (f := FVal.div) rfl (FVal.div_of_nan hnan),
      h.lands_nan (f := FVal.min) rfl (FVal.min_of_nan hnan), h.lands_nan (f := FVal.max) rfl (FVal.max_of_nan hnan),
      h.lands_fcmp_of_nan hnan .eq, h.lands_fcmp_of_nan hnan .lt, h.lands_fcmp_of_nan hnan .le, h.lands_fcmp_of_nan hnan .un,
      h.lands_fcmp_of_nan hnan .ne⟩
  case one =>
    exact ⟨aluC1_lands h, aluC1_lands h, aluC1_lands h, h.lands_fcvt rfl, h.lands_fcvt (fcvtWord_f32i32 rm x),
      h.lands_fcvt (fcvtWord_f32u32 rm x), h.lands_fcvt rfl, h.lands_fcvt rfl, h.lands_fcvt rfl, h.lands_fcvt rfl, h.lands_fcvt rfl⟩

end Sys2Proof.Machine
end

section
/-! PROOFS. The conversions of X (R71, R136 to R138): the elements of a packed and of a decoded vector, what a conversion and a
rounding to an integer give, the patterns of VKEYX, and the statement on them. -/

namespace Sys2Proof.Machine

open Sys2Proof

/-! ### What an X operation comes to before its issue commits -/

theorem opX1_ok {s : State} {w d p a m x c n f} (h : ReadyX1 s w d p a m x c) :
    opX1 w d p a n f s s.me = .ok (.plain c (landX s.seq d n m (f m x))) := by
  obtain ⟨hdst, hsrc, -, rfl, c1, hread, hplace⟩ := h
  simp [opX1, legal, hdst, hsrc, hread, hplace, bind, Except.bind, pure, Except.pure]

theorem ReadyX1.roomy {s : State} {w d p a m x c} (h : ReadyX1 s w d p a m x c) : s.Roomy := by
  obtain ⟨-, -, hroomy, -⟩ := h
  exact hroomy

theorem exec_vcbdec_eq (vd : XDst) (p : Fin 8) (fmt : Fmt) (g : Fin 16) (a : XSrc) (s : State) :
    exec (.vcbdec vd p fmt g a) s = execVcbdec vd p fmt g a s := rfl

theorem exec_vpack_eq (vd : XDst) (p : Fin 8) (fmt : Fmt) (rm : Rm) (dst : Fmt) (q : Fin 4) (a b e : XSrc) (s : State) :
    exec (.vpack vd p fmt rm dst q a b e) s = execVpack vd p fmt rm dst q a b e s := rfl

/-- VCBDEC with a base table that ECC can read decodes by it, and has read it. -/
theorem vcbdec_issues {s : State} {vd : XDst} {p : Fin 8} {fmt : Fmt} {a : XSrc} {m : Word} {x : Vec} {c : Core} (g : Fin 16)
    (h : ReadyX1 s fmt.width vd p a m x c) (hclean : s.poisoned (s.me.cbtabPas s.cur) = false) :
    IssuesAs .x (.vcbdec vd p fmt g a) s
      { IssueOut.plain c (landX s.seq vd 3 m (cbdecVec fmt g.val x fun k =>
          leNat (((s.readAs s.cur (s.me.cbtabPas s.cur)).drop (4 * k)).take 4))) with reads := s.me.cbtabPas s.cur } := by
  rw [IssuesAs, exec_vcbdec_eq, execVcbdec]
  refine issue_ok ?_ (h.roomy.not_overfull _)
  simp only [opX1_ok h, hclean, bind, Except.bind, Bool.false_eq_true, if_false]

/-- VPACK with ws = 2 × wd, and otherwise (R136). -/
theorem vpack_two_lands {s : State} {vd : XDst} {p : Fin 8} {fmt dst : Fmt} {rm : Rm} {q : Fin 4} {a b e : XSrc} {m : Word} {x y : Vec}
    {c : Core} (h : ReadyX2 s fmt.width vd p a b m x y c) (hwidth : fmt.width = 2 * dst.width) :
    ResultX (.vpack vd p fmt rm dst q a b e) s c vd 2 m (packVec fmt dst rm q.val x y Vec.zero) := by
  rw [ResultX, Issues, exec_vpack_eq, execVpack, if_pos hwidth]
  exact opX2_lands h

theorem vpack_three_lands {s : State} {vd : XDst} {p : Fin 8} {fmt dst : Fmt} {rm : Rm} {q : Fin 4} {a b e : XSrc} {m : Word}
    {x y z : Vec} {c : Core} (h : ReadyX3 s fmt.width vd p a b e m x y z c) (hwidth : fmt.width ≠ 2 * dst.width) :
    ResultX (.vpack vd p fmt rm dst q a b e) s c vd 2 m (packVec fmt dst rm q.val x y z) := by
  rw [ResultX, Issues, exec_vpack_eq, execVpack, if_neg hwidth]
  exact opX3_lands h

/-! ### Elements and lanes are bounded by their widths (R67) -/

theorem laneNat_lt (v : Vec) (i : Nat) : laneNat v i < 2 ^ 32 := BitVec.isLt _

theorem elem_lt (f : Fmt) (v : Vec) (e : Nat) : elem f.width v e < 2 ^ f.width := by
  have hlo := laneNat_lt v (2 * e)
  have hhi := laneNat_lt v (2 * e + 1)
  unfold elem
  split
  · next h => rw [h]; omega
  · exact Nat.mod_lt _ (by positivity)

/-! ### VPACK and VCBDEC, element by element (R74, R136, R137) -/

theorem elem_packVec_outside {fmt dst : Fmt} (rm : Rm) {q : Nat} (x y z : Vec) {k : Nat} (hk : k < dst.count)
    (h : k < 2 * q * fmt.count ∨ 2 * q * fmt.count + 2 * fmt.count ≤ k) :
    elem dst.width (packVec fmt dst rm q x y z) k = elem dst.width z k := by
  rw [packVec, elem_vecOfElems dst _ hk, if_neg (by omega), if_neg (by omega), Nat.mod_eq_of_lt (elem_lt dst z k)]

theorem elem_packVec_first {fmt dst : Fmt} (rm : Rm) {q : Nat} (x y z : Vec) {k : Nat} (hk : k < dst.count)
    (hlo : 2 * q * fmt.count ≤ k) (hhi : k < 2 * q * fmt.count + fmt.count) :
    elem dst.width (packVec fmt dst rm q x y z) k =
      convert fmt dst rm (elem fmt.width x (k - 2 * q * fmt.count)) % 2 ^ dst.width := by
  rw [packVec, elem_vecOfElems dst _ hk, if_pos ⟨hlo, hhi⟩]

theorem elem_packVec_second {fmt dst : Fmt} (rm : Rm) {q : Nat} (x y z : Vec) {k : Nat} (hk : k < dst.count)
    (hlo : 2 * q * fmt.count + fmt.count ≤ k) (hhi : k < 2 * q * fmt.count + 2 * fmt.count) :
    elem dst.width (packVec fmt dst rm q x y z) k =
      convert fmt dst rm (elem fmt.width y (k - 2 * q * fmt.count - fmt.count)) % 2 ^ dst.width := by
  rw [packVec, elem_vecOfElems dst _ hk, if_neg (by omega), if_pos ⟨hlo, hhi⟩]

/-- A sum's parity is that of the number of its odd terms. -/
theorem foldl_add_mod_two (f : Nat → Nat) (l : List Nat) (acc : Nat) :
    l.foldl (fun a k => a + f k) acc % 2 = (acc + l.countP fun k => decide (f k % 2 = 1)) % 2 := by
  induction l generalizing acc with
  | nil => rfl
  | cons k l ih =>
    rw [List.foldl_cons, ih, List.countP_cons]
    split
    · next h => rw [decide_eq_true_iff] at h; omega
    · next h => rw [decide_eq_true_iff] at h; omega

/-- The sign bit of weight i: a bit of the word, or for the last weight their parity. -/
def cbMinus (word i : Nat) : Bool :=
  if i = 7 then ((List.range 7).countP fun k => word.testBit (k + 1)) % 2 == 1 else word.testBit (1 + i)

theorem cbWeight_eq (word entry i : Nat) :
    cbWeight word entry i =
      .fin (2 * (entry / 16 ^ i % 16) + word % 2 != 0 && cbMinus word i) (2 * (entry / 16 ^ i % 16) + word % 2) (-2) := by
  have hpow : 2 ^ (4 * i) = 16 ^ i := pow_mul 2 4 i
  have hsign : ((if i = 7 then (List.range 7).foldl (fun a k => a + word / 2 ^ (k + 1)) 0 % 2 else word / 2 ^ (1 + i) % 2) == 1) =
      cbMinus word i := by
    unfold cbMinus
    split
    · rw [foldl_add_mod_two]
      simp [Nat.testBit_eq_decide_div_mod_eq]
    · rw [Nat.testBit_eq_decide_div_mod_eq, Bool.beq_eq_decide_eq]
  rw [cbWeight, hpow, hsign]

theorem elem_cbdecVec {fmt : Fmt} (g : Nat) (x : Vec) (table : Nat → Nat) {t i : Nat} (ht : 8 * t + 8 ≤ fmt.count) (hi : i < 8) :
    elem fmt.width (cbdecVec fmt g x table) (8 * t + i) =
      (ffmt fmt).encode .rne (cbWeight (elem 16 x (g * (if fmt = .f32 then 8 else 16) + t))
        (table (elem 16 x (g * (if fmt = .f32 then 8 else 16) + t) / 256)) i) % 2 ^ fmt.width := by
  rw [cbdecVec, elem_vecOfElems fmt _ (by omega), show (8 * t + i) / 8 = t by omega, show (8 * t + i) % 8 = i by omega]

/-! ### Conversions (R71) -/

theorem Fmt.isSigned_iff (f : Fmt) : Fmt.isSigned f = true ↔ f ∈ [Fmt.i32, .i16, .i8, .i4] := by cases f <;> decide

theorem Fmt.lo_eq (f : Fmt) : Fmt.lo f = if f ∈ [Fmt.i32, .i16, .i8, .i4] then -2 ^ (f.width - 1) else 0 := by
  simp only [Fmt.lo, Fmt.isSigned_iff]
  push_cast
  rfl

theorem Fmt.hi_eq (f : Fmt) :
    Fmt.hi f = if f ∈ [Fmt.i32, .i16, .i8, .i4] then 2 ^ (f.width - 1) - 1 else 2 ^ f.width - 1 := by
  simp only [Fmt.hi, Fmt.isSigned_iff]
  push_cast
  rfl

theorem Fmt.lo_le_hi (f : Fmt) : Fmt.lo f ≤ Fmt.hi f := by cases f <;> decide

theorem intVal_eq (f : Fmt) (v : Nat) :
    intVal f v = if f ∈ [Fmt.i32, .i16, .i8, .i4] ∧ 2 ^ (f.width - 1) ≤ v % 2 ^ f.width
      then ((v % 2 ^ f.width : Nat) : Int) - 2 ^ f.width else (v % 2 ^ f.width : Nat) := by
  simp only [intVal, Fmt.isSigned_iff]
  by_cases hs : f ∈ [Fmt.i32, .i16, .i8, .i4]
  · by_cases hl : 2 ^ (f.width - 1) ≤ v % 2 ^ f.width
    · simp only [hs, hl, if_true, true_and, toSigned, Nat.not_lt.mpr hl, if_false]
      push_cast
      rfl
    · simp only [hs, hl, if_true, and_false, if_false, toSigned, Nat.lt_of_not_le hl]
  · simp only [hs, if_false, false_and]

theorem clampInt_eq_max_min {lo hi : Int} (h : lo ≤ hi) (x : Int) : clampInt lo hi x = max lo (min hi x) := by
  unfold clampInt
  split <;> [skip; split] <;> omega

theorem wrapBits_eq (w : Nat) (x : Int) : wrapBits w x = (x % 2 ^ w).toNat := by
  rw [wrapBits]
  push_cast
  rfl

theorem clampBits_eq (f : Fmt) (x : Int) : clampBits f x = (max (Fmt.lo f) (min (Fmt.hi f) x) % 2 ^ f.width).toNat := by
  rw [clampBits, wrapBits_eq, clampInt_eq_max_min (Fmt.lo_le_hi f)]

theorem convert_fp_fp {a b : Fmt} (ha : a.isFp = true) (hb : b.isFp = true) (rm : Rm) (v : Nat) :
    convert a b rm v = (ffmt b).encode rm ((ffmt a).decode v) := by simp only [convert, ha, hb, if_true]

theorem convert_fp_int {a b : Fmt} (ha : a.isFp = true) (hb : b.isFp = false) (rm : Rm) (v : Nat) :
    convert a b rm v = wrapBits b.width (((ffmt a).decode v).toRange rm (Fmt.lo b) (Fmt.hi b)) := by
  simp only [convert, ha, hb, if_true, Bool.false_eq_true, if_false]

theorem convert_int_fp {a b : Fmt} (ha : a.isFp = false) (hb : b.isFp = true) (rm : Rm) (v : Nat) :
    convert a b rm v = (ffmt b).encode rm (.fin (decide (intVal a v < 0)) (intVal a v).natAbs 0) := by
  simp only [convert, ha, hb, if_true, Bool.false_eq_true, if_false, FVal.ofInt]

theorem convert_int_int {a b : Fmt} (ha : a.isFp = false) (hb : b.isFp = false) (rm : Rm) (v : Nat) :
    convert a b rm v = clampBits b (intVal a v) := by
  simp only [convert, ha, hb, Bool.false_eq_true, if_false]

/-! ### Rounding to an integer (R69, R71) -/

/-- A magnitude rounded to a whole number by the digits below the point. -/
def roundMag (rm : Rm) (neg : Bool) (m : Nat) (e : Int) : Nat :=
  if 0 ≤ e then m * 2 ^ e.toNat
  else m / 2 ^ (-e).toNat + if roundsUp rm neg (m / 2 ^ (-e).toNat) (m % 2 ^ (-e).toNat) (-e).toNat then 1 else 0

theorem roundInt_eq (rm : Rm) (neg : Bool) (m : Nat) (e : Int) :
    roundInt rm neg m e = if neg then -(roundMag rm neg m e : Int) else roundMag rm neg m e := by
  have hmag : roundMag rm neg m e = if 0 ≤ e then m * 2 ^ e.toNat else
      if roundsUp rm neg (m / 2 ^ (-e).toNat) (m % 2 ^ (-e).toNat) (-e).toNat then m / 2 ^ (-e).toNat + 1 else m / 2 ^ (-e).toNat := by
    unfold roundMag
    split
    · rfl
    · split <;> rfl
  rw [hmag, roundInt]

theorem natAbs_roundInt (rm : Rm) (neg : Bool) (m : Nat) (e : Int) : (roundInt rm neg m e).natAbs = roundMag rm neg m e := by
  rw [roundInt_eq]
  split <;> simp

theorem roundMag_of_nonneg (rm : Rm) (neg : Bool) (m : Nat) {e : Int} (he : 0 ≤ e) : roundMag rm neg m e = m * 2 ^ e.toNat :=
  if_pos he

theorem roundMag_of_neg (rm : Rm) (neg : Bool) (m : Nat) {e : Int} (he : e < 0) :
    roundMag rm neg m e = m / 2 ^ (-e).toNat +
      if roundsUp rm neg (m / 2 ^ (-e).toNat) (m % 2 ^ (-e).toNat) (-e).toNat then 1 else 0 :=
  if_neg (Int.not_le.mpr he)

section
variable (neg : Bool) {m : Nat} {e : Int} (he : e < 0)
include he

theorem roundMag_of_exact (rm : Rm) (hrest : m % 2 ^ (-e).toNat = 0) : roundMag rm neg m e = m / 2 ^ (-e).toNat := by
  simp [roundMag_of_neg rm neg m he, roundsUp, hrest]

theorem roundMag_rtz : roundMag .rtz neg m e = m / 2 ^ (-e).toNat := by
  simp [roundMag_of_neg .rtz neg m he, roundsUp]

variable (hrest : m % 2 ^ (-e).toNat ≠ 0)
include hrest

theorem roundMag_rdn : roundMag .rdn neg m e = if neg then m / 2 ^ (-e).toNat + 1 else m / 2 ^ (-e).toNat := by
  cases neg <;> simp [roundMag_of_neg .rdn _ m he, roundsUp, hrest]

theorem roundMag_rup : roundMag .rup neg m e = if neg then m / 2 ^ (-e).toNat else m / 2 ^ (-e).toNat + 1 := by
  cases neg <;> simp [roundMag_of_neg .rup _ m he, roundsUp, hrest]

theorem roundMag_rna : roundMag .rna neg m e =
    if 2 ^ (-e).toNat ≤ 2 * (m % 2 ^ (-e).toNat) then m / 2 ^ (-e).toNat + 1 else m / 2 ^ (-e).toNat := by
  simp only [roundMag_of_neg .rna neg m he, roundsUp, hrest, if_false, decide_eq_true_eq]
  split <;> rfl

theorem roundMag_rne : roundMag .rne neg m e =
    if 2 * (m % 2 ^ (-e).toNat) < 2 ^ (-e).toNat ∨ (2 * (m % 2 ^ (-e).toNat) = 2 ^ (-e).toNat ∧ m / 2 ^ (-e).toNat % 2 = 0)
    then m / 2 ^ (-e).toNat else m / 2 ^ (-e).toNat + 1 := by
  simp only [roundMag_of_neg .rne neg m he, roundsUp, hrest, if_false, Bool.or_eq_true, Bool.and_eq_true, decide_eq_true_eq,
    beq_iff_eq]
  generalize m / 2 ^ (-e).toNat = whole
  generalize m % 2 ^ (-e).toNat = rest
  generalize 2 ^ (-e).toNat = unit
  split <;> split <;> omega

end

/-! ### VKEYX (R138) -/

theorem xor_two_pow (v k : Nat) : v ^^^ 2 ^ k = 2 ^ k * (v / 2 ^ k ^^^ 1) + v % 2 ^ k := by
  have hpos : 0 < 2 ^ k := by positivity
  rw [← Nat.div_add_mod (v ^^^ 2 ^ k) (2 ^ k), Nat.xor_div_two_pow, Nat.xor_mod_two_pow, Nat.div_self hpos, Nat.mod_self, Nat.xor_zero]

/-- VKEYX complements the pattern when its top bit is not inv, and else turns that bit. -/
theorem keyElem_eq {w v : Nat} (inv : Bool) (hw : 0 < w) (hv : v < 2 ^ w) :
    keyElem w inv v = if decide (2 ^ (w - 1) ≤ v) != inv then 2 ^ w - 1 - v
      else if 2 ^ (w - 1) ≤ v then v - 2 ^ (w - 1) else v + 2 ^ (w - 1) := by
  obtain ⟨k, rfl⟩ : ∃ k, w = k + 1 := ⟨w - 1, by omega⟩
  rw [Nat.add_sub_cancel, keyElem, Nat.add_sub_cancel, xor_two_pow]
  have hsplit := Nat.div_add_mod v (2 ^ k)
  by_cases htop : 2 ^ k ≤ v
  · have hdiv : v / 2 ^ k = 1 := Nat.div_eq_of_lt_le (by omega) (by rw [pow_succ] at hv; omega)
    rw [hdiv, mul_one] at hsplit
    have hmod : v % 2 ^ k = v - 2 ^ k := by omega
    simp [hdiv, hmod, htop]
  · have hlt : v < 2 ^ k := Nat.lt_of_not_le htop
    simp [Nat.div_eq_of_lt hlt, Nat.mod_eq_of_lt hlt, htop, add_comm]

/-! ### The statement -/

/-- Settles O22: each vector is the one of its instruction's function, and the lemmas above read its elements. -/
theorem vectorConversionsLand : Obligations.VectorConversionsLand := by
  unfold Obligations.VectorConversionsLand
  refine ⟨fun s vd p fmt dst rm q g inv a m x c h => ?one, fun s vd p fmt dst rm q d8 a b e m x y c h => ?two,
    fun s vd p fmt dst rm q a b e m x y z c h hne => ?three, fun fmt dst rm q x y z k hk => ?packed,
    fun fmt g x table t i _ ht hi => ?decoded, fun a b rm v => ?converted, fun rm neg m e => ?rounded,
    fun w v hw hv => ?keys⟩
  case one =>
    exact ⟨opX1_lands h, opX1_lands h, opX1_lands h, vcbdec_issues g h⟩
  case two =>
    refine ⟨opX2_lands h, fun hwidth => ?_⟩
    exact vpack_two_lands h hwidth
  case three =>
    exact vpack_three_lands h hne
  case packed =>
    exact ⟨elem_packVec_outside rm x y z hk, elem_packVec_first rm x y z hk, elem_packVec_second rm x y z hk⟩
  case decoded =>
    intro word size minus
    rw [elem_cbdecVec g x table ht hi, cbWeight_eq]
    rfl
  case converted =>
    intro signed lo hi bits low n
    refine ⟨fun ha hb => convert_fp_fp ha hb rm v, fun ha hb => ?toInt, fun ha hb => ?_, fun ha hb => ?_⟩
    case toInt =>
      rw [convert_fp_int ha hb, wrapBits_eq]
      cases (ffmt a).decode v with
      | nan => rfl
      | inf neg => simp only [FVal.toRange, Fmt.lo_eq, Fmt.hi_eq]; rfl
      | fin neg k e => rw [FVal.toRange, clampInt_eq_max_min (Fmt.lo_le_hi b), Fmt.lo_eq, Fmt.hi_eq]
    · rw [convert_int_fp ha hb, intVal_eq]
    · rw [convert_int_int ha hb, clampBits_eq, intVal_eq, Fmt.lo_eq, Fmt.hi_eq]
  case rounded =>
    intro r d whole rest
    have hr : r = roundMag rm neg m e := natAbs_roundInt rm neg m e
    rw [hr]
    refine ⟨roundInt_eq rm neg m e, roundMag_of_nonneg rm neg m, fun he => ⟨fun hrest => ?exact, fun hrest => ?inexact⟩⟩
    case exact =>
      exact roundMag_of_exact neg he rm hrest
    case inexact =>
      cases rm with
      | rtz => exact roundMag_rtz neg he
      | rdn => exact roundMag_rdn neg he hrest
      | rup => exact roundMag_rup neg he hrest
      | rna => exact roundMag_rna neg he hrest
      | rne => exact roundMag_rne neg he hrest
  case keys =>
    rw [keyElem_eq false hw hv, keyElem_eq true hw hv]
    by_cases h : 2 ^ (w - 1) ≤ v <;> simp [h]

end Sys2Proof.Machine
end

section
/-! PROOFS. The rank of exact values (R75, R144), and the first of the highest in a list. -/

namespace Sys2Proof.Machine

open Sys2Proof

/-! ### Ranks -/

/-- The zero that ranks below the other. -/
def FVal.minusZero (x : FVal) : Bool := x.isZero && x.negative

/-- The place of a value in the order of R144: a NaN above all, and of the zeros −0 below +0. -/
noncomputable def FVal.rank (x : FVal) : Bool ×ₗ EReal ×ₗ Bool := toLex (x.isNan, toLex (x.toEReal, !x.minusZero))

/-- x ranks above y (R144). -/
def FVal.above (x y : FVal) : Bool := if x.isNan then !y.isNan else !y.isNan && y.below x

theorem FVal.isZero_iff {x : FVal} (hx : x ≠ .nan) : x.isZero = true ↔ x.toEReal = 0 := by
  cases x with
  | nan => exact absurd rfl hx
  | inf neg => cases neg <;> simp [FVal.isZero, FVal.toEReal]
  | fin neg m e => cases neg <;> simp [FVal.isZero, FVal.toEReal, realOf, zpow_ne_zero]

theorem FVal.isZero_fin_iff {x : FVal} : x.isZero = true ↔ ∃ neg e, x = .fin neg 0 e := by cases x <;> simp [FVal.isZero]

theorem FVal.minusZero_iff {x : FVal} : x.minusZero = true ↔ ∃ e, x = .fin true 0 e := by
  cases x <;> simp [FVal.minusZero, FVal.isZero, FVal.negative, and_comm]

/-- One value is below another: by their numbers, or as −0 is below +0. -/
theorem FVal.below_iff {x y : FVal} (hx : x ≠ .nan) (hy : y ≠ .nan) : x.below y = true ↔
    x.toEReal < y.toEReal ∨ x.toEReal = y.toEReal ∧ x.minusZero = true ∧ y.minusZero = false := by
  have hcmp := FVal.compares_cmp hx hy
  unfold FVal.below
  cases h : x.cmp y <;> rw [h] at hcmp
  case lt =>
    have hlt : x.toEReal < y.toEReal := hcmp
    simp [hlt]
  case gt =>
    have hgt : y.toEReal < x.toEReal := hcmp
    simp [not_lt_of_gt hgt, ne_of_gt hgt]
  case eq =>
    have heq : x.toEReal = y.toEReal := hcmp
    have hzero : x.isZero = y.isZero := by rw [Bool.eq_iff_iff, FVal.isZero_iff hx, FVal.isZero_iff hy, heq]
    simp only [heq, lt_self_iff_false, true_and, false_or, FVal.minusZero, hzero]
    cases y.isZero <;> cases x.negative <;> cases y.negative <;> decide

theorem FVal.rank_lt_rank {x y : FVal} (hx : x ≠ .nan) (hy : y ≠ .nan) : x.rank < y.rank ↔ x.below y = true := by
  rw [FVal.below_iff hx hy, FVal.rank, FVal.rank, Prod.Lex.toLex_lt_toLex, FVal.isNan_eq_false hx, FVal.isNan_eq_false hy,
    Prod.Lex.toLex_lt_toLex]
  simp [Bool.lt_iff]

theorem FVal.above_iff (x y : FVal) : x.above y = true ↔ y.rank < x.rank := by
  by_cases hy : y = .nan
  · subst hy
    cases x <;> simp [FVal.above, FVal.rank, FVal.isNan, Prod.Lex.toLex_lt_toLex, Bool.lt_iff]
  · by_cases hx : x = .nan
    · subst hx
      simp [FVal.above, FVal.rank, FVal.isNan, Prod.Lex.toLex_lt_toLex]
    · rw [FVal.rank_lt_rank hy hx, FVal.above, FVal.isNan_eq_false hx, FVal.isNan_eq_false hy]
      simp

theorem FVal.ranksUnder_iff {x y : FVal} (hx : x ≠ .nan) (hy : y ≠ .nan) : x.RanksUnder y ↔ x.below y = true := by
  rw [FVal.below_iff hx hy, FVal.RanksUnder, FVal.under_iff hx hy]
  refine or_congr_right ⟨?_, ?_⟩
  · rintro ⟨e, g, rfl, rfl⟩
    simp [FVal.toEReal, realOf, FVal.minusZero, FVal.isZero, FVal.negative]
  · rintro ⟨heq, hminus, hplus⟩
    obtain ⟨e, rfl⟩ := FVal.minusZero_iff.mp hminus
    have hzero : y.isZero = true := by rw [FVal.isZero_iff hy, ← heq, ← FVal.isZero_iff hx]; rfl
    obtain ⟨neg, g, rfl⟩ := FVal.isZero_fin_iff.mp hzero
    cases neg with
    | false => exact ⟨e, g, rfl, rfl⟩
    | true => simp [FVal.minusZero, FVal.isZero, FVal.negative] at hplus

/-- The rank of elements, as the statement on reductions says it. -/
theorem ranksAbove_iff (fmt : Fmt) (a b : Nat) : ranksAbove fmt a b = true ↔
    if fmt.isFp then (ffmt fmt).decode b ≠ .nan ∧
      ((ffmt fmt).decode a = .nan ∨ ((ffmt fmt).decode b).RanksUnder ((ffmt fmt).decode a))
    else intVal fmt b < intVal fmt a := by
  unfold ranksAbove
  split
  · generalize (ffmt fmt).decode a = x
    generalize (ffmt fmt).decode b = y
    by_cases hy : y = .nan
    · cases x <;> simp [hy, FVal.isNan]
    by_cases hx : x = .nan
    · simp [hx, hy, FVal.isNan]
    · simp [hx, hy, FVal.isNan_eq_false hx, FVal.isNan_eq_false hy, FVal.ranksUnder_iff hy hx]
  · simp

/-! ### Rankings and the first of the highest -/

/-- r is the strict part of a ranking: not both ways, and what is above a third is above any second or has it above the third. -/
structure Ranking {α : Type} (r : α → α → Bool) : Prop where
  asymm : ∀ {a b}, r a b = true → r b a = false
  split : ∀ {a c}, r a c = true → ∀ b, r a b = true ∨ r b c = true

theorem Ranking.of_key {α β : Type} [LinearOrder β] {r : α → α → Bool} (key : α → β)
    (h : ∀ a b, r a b = true ↔ key b < key a) : Ranking r where
  asymm {a b} hab := Bool.eq_false_iff.mpr fun hba => lt_asymm ((h a b).mp hab) ((h b a).mp hba)
  split {a c} hac b := by
    rw [h] at hac
    rw [h, h]
    exact (lt_or_ge (key b) (key a)).imp_right hac.trans_le

theorem Ranking.irrefl {α : Type} {r : α → α → Bool} (hr : Ranking r) (a : α) : r a a = false := by
  by_contra h
  exact h (hr.asymm (Bool.eq_true_of_not_eq_false h))

/-- The ranking itself, or the opposite one. -/
def oriented {α : Type} (mx : Bool) (r : α → α → Bool) (a b : α) : Bool := if mx then r a b else r b a

theorem Ranking.oriented {α : Type} {r : α → α → Bool} (hr : Ranking r) (mx : Bool) : Ranking (oriented mx r) := by
  cases mx with
  | true => exact hr
  | false => exact ⟨fun h => hr.asymm h, fun h b => (hr.split h b).symm⟩

/-- The ranking of the values of a function. -/
theorem Ranking.comp {α β : Type} {r : β → β → Bool} (hr : Ranking r) (f : α → β) : Ranking fun a b => r (f a) (f b) :=
  ⟨fun h => hr.asymm h, fun h b => hr.split h (f b)⟩

/-- The first of the highest of b and then a list. -/
def pick {α : Type} (r : α → α → Bool) (b : α) (l : List α) : α := l.foldl (fun b x => if r x b then x else b) b

/-- The pick is above all that stand before it, and nothing is above it. -/
theorem pick_first_highest {α : Type} {r : α → α → Bool} (hr : Ranking r) (b : α) (l : List α) :
    ∃ before after, b :: l = before ++ pick r b l :: after ∧ (∀ x ∈ before, r (pick r b l) x = true) ∧
      ∀ x ∈ b :: l, r x (pick r b l) = false := by
  induction l generalizing b with
  | nil => exact ⟨[], [], rfl, by simp, by simpa [pick] using hr.irrefl b⟩
  | cons y l ih =>
    by_cases hy : r y b = true
    · have hpick : pick r b (y :: l) = pick r y l := by simp [pick, hy]
      obtain ⟨before, after, hl, hbefore, hnone⟩ := ih y
      have hb : r (pick r y l) b = true := (hr.split hy (pick r y l)).resolve_left (by simp [hnone y])
      rw [hpick]
      refine ⟨b :: before, after, by rw [hl, List.cons_append], ?_, ?_⟩
      · simpa [hb] using hbefore
      · simpa [hr.asymm hb] using hnone
    · have hpick : pick r b (y :: l) = pick r b l := by simp [pick, hy]
      obtain ⟨before, after, hl, hbefore, hnone⟩ := ih b
      rw [hpick]
      cases before with
      | nil =>
        obtain ⟨hb, -⟩ := List.cons.inj hl
        refine ⟨[], y :: l, by rw [← hb]; rfl, by simp, ?_⟩
        rw [← hb] at hnone ⊢
        simpa [hy] using hnone
      | cons b' before =>
        obtain ⟨rfl, htail⟩ := List.cons.inj hl
        have hb : r (pick r b l) b = true := hbefore b (by simp)
        have hpy : r (pick r b l) y = true := (hr.split hb y).resolve_right hy
        refine ⟨b :: y :: before, after, congrArg (b :: y :: ·) htail, ?_, ?_⟩
        · simpa [hpy, or_imp, forall_and] using hbefore
        · simpa [hr.asymm hpy, or_imp, forall_and] using hnone

theorem pick_highest {α : Type} {r : α → α → Bool} (hr : Ranking r) {b x : α} {l : List α} (hx : x ∈ b :: l) :
    r x (pick r b l) = false := by
  obtain ⟨-, -, -, -, hnone⟩ := pick_first_highest hr b l
  exact hnone x hx

theorem pick_mem_cons {α : Type} {r : α → α → Bool} (hr : Ranking r) (b : α) (l : List α) : pick r b l ∈ b :: l := by
  obtain ⟨before, after, hl, -⟩ := pick_first_highest hr b l
  rw [hl]
  simp

/-- Picking from a value that nothing else is as low as gives a place of the list. -/
theorem pick_mem {α : Type} {r : α → α → Bool} (hr : Ranking r) {b : α} {l : List α} (hl : l ≠ [])
    (hb : ∀ x ∈ l, r x b = false → x = b) : pick r b l ∈ l := by
  obtain hp | hp := List.mem_cons.mp (pick_mem_cons hr b l)
  · obtain ⟨x, hx⟩ := List.exists_mem_of_ne_nil l hl
    have heq : x = b := hb x hx (hp ▸ pick_highest hr (List.mem_cons_of_mem b hx))
    rw [hp, ← heq]
    exact hx
  · exact hp

/-- The same for the values of a function on a list: the pick is the value of a place that no other's is above. -/
theorem exists_pick_map {α β : Type} {r : β → β → Bool} (hr : Ranking r) (f : α → β) {b : β} {l : List α} (hl : l ≠ [])
    (hb : ∀ x ∈ l, r (f x) b = false → f x = b) :
    ∃ x ∈ l, pick r b (l.map f) = f x ∧ ∀ y ∈ l, r (f y) (f x) = false := by
  have hmem : pick r b (l.map f) ∈ l.map f := pick_mem hr (by simpa using hl) (by simpa using hb)
  obtain ⟨x, hx, hpick⟩ := List.mem_map.mp hmem
  refine ⟨x, hx, hpick.symm, fun y hy => ?_⟩
  rw [hpick]
  exact pick_highest hr (List.mem_cons_of_mem b (List.mem_map_of_mem hy))

end Sys2Proof.Machine
end

section
/-! PROOFS. Reductions (R83, R142 to R144): the forms whose predicate picks inputs, the tree of a sum, and the extremes and chosen
elements as picks by a ranking. -/

namespace Sys2Proof.Machine

open Sys2Proof

/-! ### Lanes by number -/

theorem vec_getElem!_eq_laneNat (v : Vec) {i : Nat} (hi : i < 64) : BitVec.ofNat 32 (laneNat v i) = v[i]! := by
  rw [getElem!_pos v i hi]
  exact ofNat_laneNat v ⟨i, hi⟩

theorem vecOfLanes_getElem! (ls : List Lane) {i : Nat} (hi : i < 64) : (vecOfLanes ls)[i]! = ls.getD i 0 := by
  rw [getElem!_pos _ i hi, vecOfLanes, Vector.getElem_ofFn]

theorem popCount_eq_countP (n v : Nat) : popCount n v = (List.range n).countP fun i => v.testBit i := by
  induction n generalizing v with
  | zero => rfl
  | succ n ih =>
    have htail : ((fun i => v.testBit i) ∘ Nat.succ) = fun i => (v / 2).testBit i := by
      funext i
      exact Nat.testBit_succ v i
    rw [popCount, ih, List.range_succ_eq_map, List.countP_cons, List.countP_map, htail, Nat.testBit_zero, add_comm]
    congr 1
    rcases Nat.mod_two_eq_zero_or_one v with h | h <;> rw [h] <;> rfl

theorem popCount_toNat (n : Nat) (m : Word) : popCount n m.toNat = (List.range n).countP fun i => m.getLsbD i :=
  popCount_eq_countP n m.toNat

/-! ### The forms of R142 and R147 -/

theorem pick1_lands {s : State} {fmt : Fmt} {n : Nat} {f : Word → Vec → Vec × Word} {d : XDst} {p : Fin 8} {x : Bool} {a : XSrc}
    {m : Word} {v : Vec} {c : Core} (h : ReadyPick1 s fmt.width d p x a m v c) :
    issue .x (pick1 fmt n f d p x a) s = .next (s.commit .x (.plain c
      (landX s.seq d n (BitVec.allOnes 64) (f m v).1 ++ if x then [landScalar chXq s.seq n (f m v).2] else []))) := by
  obtain ⟨hdst, hsrc, hxq, hroomy, rfl, c1, c2, hread, hplace, hplaceXq⟩ := h
  refine issue_ok ?_ (hroomy.not_overfull _)
  have hpresent : (!x || s.me.chanPresent chXq) = true := by cases x <;> simp [hxq]
  simp only [pick1, legal, hdst, hsrc, hpresent, Bool.and_self, if_true, hread, hplace, bind, Except.bind, pure, Except.pure]
  cases x with
  | true =>
    rw [if_pos rfl] at hplaceXq
    simp only [hplaceXq, if_true]
  | false =>
    obtain rfl := Except.ok.inj hplaceXq
    rfl

theorem pick2_lands {s : State} {fmt : Fmt} {n : Nat} {f : Word → Vec → Vec → Vec} {d : XDst} {p : Fin 8} {a b : XSrc} {m : Word}
    {x y : Vec} {c : Core} (h : ReadyPick2 s fmt.width d p a b m x y c) :
    issue .x (pick2 fmt n f d p a b) s = .next (s.commit .x (.plain c (landX s.seq d n (BitVec.allOnes 64) (f m x y)))) := by
  obtain ⟨hdst, ha, hb, hroomy, rfl, c1, c2, hreada, hreadb, hplace⟩ := h
  refine issue_ok ?_ (hroomy.not_overfull _)
  simp only [pick2, legal, hdst, ha, hb, Bool.and_self, if_true, hreada, hreadb, hplace, bind, Except.bind, pure, Except.pure]

/-- A vector made of elements lands as those elements. -/
theorem ResultX.elems {i : Instr} {s : State} {c : Core} {d : XDst} {n : Nat} {m : Word} {fmt : Fmt} {f : Nat → Nat}
    (h : ResultX i s c d n m (vecOfElems fmt.width f)) : ResultElems i s c d n m fmt.width f :=
  ⟨_, h, fun _ he => elem_vecOfElems fmt f he⟩

theorem exec_vlane_eq (fmt : Fmt) (a : XSrc) (k : BitVec 9) (s : State) : exec (.vlane fmt a k) s = execVlane fmt a k s := rfl

theorem vlane_lands {s : State} {fmt : Fmt} {a : XSrc} (k : BitVec 9) {x : Vec} {c1 c2 : Core} (hroomy : s.Roomy)
    (hsrc : s.me.xsrcOk a = true) (hxq : s.me.chanPresent chXq = true) (hread : readX fmt.width s.me a = .ok (x, c1))
    (hxq1 : c1.chanPresent chXq = true) (hplace : c1.reserveXq s.seq = .ok c2) :
    Issues .x (.vlane fmt a k) s c2 [landScalar chXq s.seq 2 (BitVec.ofNat 64 (elem fmt.width x k.toNat))] := by
  rw [Issues, exec_vlane_eq, execVlane]
  refine issue_ok ?_ (hroomy.not_overfull _)
  simp only [pushXq, legal, hsrc, hxq, hxq1, Bool.and_self, if_true, hread, hplace, bind, Except.bind, pure, Except.pure,
    List.nil_append]

/-- VCOMPRESS pushes the number of active lanes. -/
theorem vcompress_lands {s : State} {fmt : Fmt} {d : XDst} {p : Fin 8} {x : Bool} {a : XSrc} {m : Word} {v : Vec} {c : Core}
    (h : ReadyPick1 s fmt.width d p x a m v c) :
    ResultPick (.vcompress d p fmt x a) s c d 3 x (compressVec m v)
      (BitVec.ofNat 64 ((List.range 64).countP fun i => m.getLsbD i)) := by
  have hcount : ∀ w : Word, popCount 64 w.toNat = (List.range 64).countP fun i => w.getLsbD i := popCount_toNat 64
  rw [← hcount]
  exact pick1_lands h

/-! ### Active elements (R118, R142) -/

/-- The indices of the elements in active lanes, ascending. -/
def activeIdx (w : Nat) (m : Word) : List Nat := (List.range (2048 / w)).filter fun e => m.getLsbD (laneOf w e)

theorem activeElems_eq_map (w : Nat) (m : Word) (v : Vec) : activeElems w m v = (activeIdx w m).map fun e => (e, elem w v e) := rfl

theorem map_snd_activeElems (w : Nat) (m : Word) (v : Vec) : (activeElems w m v).map (·.2) = (activeIdx w m).map (elem w v) := by
  rw [activeElems_eq_map, List.map_map]
  rfl

theorem mem_activeIdx {w : Nat} {m : Word} {e : Nat} : e ∈ activeIdx w m ↔ e < 2048 / w ∧ m.getLsbD (e * w / 32) = true := by
  simp [activeIdx, laneOf]

theorem activeIdx_pairwise_lt (w : Nat) (m : Word) : (activeIdx w m).Pairwise (· < ·) :=
  List.pairwise_lt_range.filter _

theorem activeIdx_eq_nil {w : Nat} {m : Word} (h : ∀ e, e < 2048 / w → m.getLsbD (e * w / 32) = false) : activeIdx w m = [] :=
  List.eq_nil_iff_forall_not_mem.mpr fun e he => by
    obtain ⟨hlt, hon⟩ := mem_activeIdx.mp he
    rw [h e hlt] at hon
    exact Bool.false_ne_true hon

/-! ### Sums (R83, R143) -/

theorem foldl_add_filter (p : Nat → Bool) (f : Nat → Int) (l : List Nat) (acc : Int) :
    (l.filter p).foldl (fun acc e => acc + f e) acc = acc + (l.map fun e => if p e then f e else 0).sum := by
  induction l generalizing acc with
  | nil => simp
  | cons e l ih =>
    rw [List.filter_cons, List.map_cons, List.sum_cons]
    split
    · rw [List.foldl_cons, ih]
      ring
    · rw [ih]
      ring

theorem rsum_int {fmt : Fmt} (hfp : fmt.isFp = false) (m : Word) (v : Vec) : rsum fmt m v = wrapBits 32
    (((List.range fmt.count).map fun e => if m.getLsbD (e * fmt.width / 32) then intVal fmt (elem fmt.width v e) else 0).sum) := by
  rw [rsum, if_neg (by simp [hfp]), activeElems_eq_map, List.foldl_map, activeIdx, foldl_add_filter, zero_add]
  rfl

theorem reduceLevel_range {α : Type} (op : α → α → α) (n : Nat) (x : Nat → α) :
    reduceLevel op n ((List.range (n + n)).map x) = (List.range n).map fun i => op (x i) (x (i + n)) := by
  refine List.ext_getElem (by simp [reduceLevel]) fun i _ _ => ?_
  simp [reduceLevel, add_comm]

/-- The tree of R83 on the values of a function: at each level the first half takes in the second. -/
def laneTree {α : Type} (op : α → α → α) (x : Nat → α) : Nat → α :=
  [32, 16, 8, 4, 2, 1].foldl (fun x n i => op (x i) (x (i + n))) x

theorem reduce64_range {α : Type} (op : α → α → α) (d : α) (x : Nat → α) :
    reduce64 op d ((List.range 64).map x) = laneTree op x 0 := by
  have level := reduceLevel_range op
  simp only [reduce64, level 32, level 16, level 8, level 4, level 2, level 1]
  rfl

/-- The sum of an active lane's elements, in order, and of an inactive one the identity (R143). -/
def laneSum (fmt : Fmt) (m : Word) (v : Vec) (i : Nat) : F32 :=
  if m.getLsbD i then (List.range (32 / fmt.width)).foldl (fun acc j =>
    fadd acc (f32of .rne ((ffmt fmt).decode (elem fmt.width v (32 / fmt.width * i + j))))) fNegZero else fNegZero

theorem rsum_fp {fmt : Fmt} (hfp : fmt.isFp = true) (m : Word) (v : Vec) :
    rsum fmt m v = (laneTree fadd (laneSum fmt m v) 0).toNat := by
  rw [rsum, if_pos hfp, ← reduce64_range fadd fNegZero]
  rfl

/-! ### The extremes of values (R75, R143) -/

/-- Max or Min (R75). -/
def FVal.extreme (mx : Bool) (acc x : FVal) : FVal := if mx then acc.max x else acc.min x

theorem FVal.extreme_of_nan (mx : Bool) {acc x : FVal} (h : acc.isNan = true ∨ x.isNan = true) : FVal.extreme mx acc x = .nan := by
  unfold FVal.extreme
  split
  · exact FVal.max_of_nan h
  · exact FVal.min_of_nan h

/-- Of two numbers the extreme is the one that ranks further out. -/
theorem FVal.extreme_of_numbers (mx : Bool) {acc x : FVal} (hacc : acc ≠ .nan) (hx : x ≠ .nan) :
    FVal.extreme mx acc x = if oriented mx FVal.above x acc then x else acc := by
  have hacc' := FVal.isNan_eq_false hacc
  have hx' := FVal.isNan_eq_false hx
  cases mx with
  | true => simp [FVal.extreme, FVal.max, oriented, FVal.above, hacc', hx']
  | false => simp [FVal.extreme, FVal.min, oriented, FVal.above, hacc', hx']

theorem foldl_extreme_nan (mx : Bool) (l : List FVal) : l.foldl (FVal.extreme mx) .nan = .nan := by
  induction l with
  | nil => rfl
  | cons x l ih => rw [List.foldl_cons, FVal.extreme_of_nan mx (.inl rfl), ih]

theorem foldl_extreme_of_mem_nan (mx : Bool) {l : List FVal} (h : FVal.nan ∈ l) (acc : FVal) :
    l.foldl (FVal.extreme mx) acc = .nan := by
  induction l generalizing acc with
  | nil => simp at h
  | cons x l ih =>
    rw [List.foldl_cons]
    obtain rfl | h := List.mem_cons.mp h
    · rw [FVal.extreme_of_nan mx (.inr rfl), foldl_extreme_nan]
    · exact ih h _

theorem foldl_extreme_of_numbers (mx : Bool) {l : List FVal} {acc : FVal} (hacc : acc ≠ .nan) (hl : ∀ x ∈ l, x ≠ .nan) :
    l.foldl (FVal.extreme mx) acc = pick (oriented mx FVal.above) acc l := by
  induction l generalizing acc with
  | nil => rfl
  | cons x l ih =>
    have hx : x ≠ .nan := hl x (by simp)
    rw [List.foldl_cons, FVal.extreme_of_numbers mx hacc hx, ih (by split <;> assumption) fun y hy => hl y (by simp [hy])]
    rfl

theorem FVal.ranking_above (mx : Bool) : Ranking (oriented mx FVal.above) := (Ranking.of_key FVal.rank FVal.above_iff).oriented mx

/-- Only the identity itself does not rank further in than it. -/
theorem FVal.eq_inf_of_not_above (mx : Bool) {x : FVal} (hx : x ≠ .nan) (h : oriented mx FVal.above x (.inf mx) = false) :
    x = .inf mx := by
  cases x with
  | nan => exact absurd rfl hx
  | inf neg =>
    revert h
    cases mx <;> cases neg <;> decide
  | fin neg k e => cases mx <;> cases h

theorem FVal.above_of_numbers {x y : FVal} (hx : x ≠ .nan) (hy : y ≠ .nan) : x.above y = true ↔ y.RanksUnder x := by
  rw [FVal.ranksUnder_iff hy hx, FVal.above_iff, FVal.rank_lt_rank hy hx]

/-! ### VRMAX and VRMIN (R143) -/

theorem ffmt_w_of_isFp {fmt : Fmt} (hfp : fmt.isFp = true) : (ffmt fmt).w = fmt.width := by
  revert hfp
  cases fmt <;> decide

/-- The bits of an element that is a number, from its value. -/
theorem encode_decode_elem {fmt : Fmt} (hfp : fmt.isFp = true) (v : Vec) {e : Nat}
    (hnum : (ffmt fmt).decode (elem fmt.width v e) ≠ .nan) :
    (ffmt fmt).encode .rne ((ffmt fmt).decode (elem fmt.width v e)) = elem fmt.width v e := by
  have hw := ffmt_w_of_isFp hfp
  rw [FFmt.encode_decode (hw ▸ Fmt.width_pos fmt) .rne (hw ▸ elem_lt fmt v e), FVal.isNan_eq_false hnum]
  rfl

theorem rext_fp {fmt : Fmt} (hfp : fmt.isFp = true) (mx : Bool) (m : Word) (v : Vec) :
    rext fmt mx m v = (ffmt fmt).encode .rne
      (((activeIdx fmt.width m).map fun e => (ffmt fmt).decode (elem fmt.width v e)).foldl (FVal.extreme mx) (.inf mx)) := by
  rw [rext, if_pos hfp, map_snd_activeElems, List.foldl_map, List.foldl_map]
  rfl

theorem rext_fp_of_nan {fmt : Fmt} (hfp : fmt.isFp = true) (mx : Bool) {m : Word} {v : Vec}
    (h : ∃ e, e < fmt.count ∧ m.getLsbD (e * fmt.width / 32) = true ∧ (ffmt fmt).decode (elem fmt.width v e) = .nan) :
    rext fmt mx m v = (ffmt fmt).nan := by
  obtain ⟨e, he, hon, hnan⟩ := h
  rw [rext_fp hfp, foldl_extreme_of_mem_nan mx (List.mem_map.mpr ⟨e, mem_activeIdx.mpr ⟨he, hon⟩, hnan⟩)]
  rfl

theorem rext_fp_of_none {fmt : Fmt} (hfp : fmt.isFp = true) (mx : Bool) {m : Word} (v : Vec)
    (h : ∀ e, e < fmt.count → m.getLsbD (e * fmt.width / 32) = false) : rext fmt mx m v = (ffmt fmt).encode .rne (.inf mx) := by
  rw [rext_fp hfp, activeIdx_eq_nil h]
  rfl

/-- Among numbers the result is an active element, and none ranks further out. -/
theorem rext_fp_of_numbers {fmt : Fmt} (hfp : fmt.isFp = true) (mx : Bool) {m : Word} {v : Vec}
    (hsome : ∃ e, e < fmt.count ∧ m.getLsbD (e * fmt.width / 32) = true)
    (hnum : ∀ e, e < fmt.count → m.getLsbD (e * fmt.width / 32) = true → (ffmt fmt).decode (elem fmt.width v e) ≠ .nan) :
    ∃ e, e < fmt.count ∧ m.getLsbD (e * fmt.width / 32) = true ∧ rext fmt mx m v = elem fmt.width v e ∧
      ∀ k, k < fmt.count → m.getLsbD (k * fmt.width / 32) = true →
        oriented mx FVal.above ((ffmt fmt).decode (elem fmt.width v k)) ((ffmt fmt).decode (elem fmt.width v e)) = false := by
  obtain ⟨e0, he0, hon0⟩ := hsome
  have hvals : ∀ e ∈ activeIdx fmt.width m, (ffmt fmt).decode (elem fmt.width v e) ≠ .nan := fun e he => by
    obtain ⟨hlt, hon⟩ := mem_activeIdx.mp he
    exact hnum e hlt hon
  obtain ⟨e, he, hpick, hout⟩ := exists_pick_map (FVal.ranking_above mx) (fun e => (ffmt fmt).decode (elem fmt.width v e))
    (List.ne_nil_of_mem (mem_activeIdx.mpr ⟨he0, hon0⟩)) fun e he => FVal.eq_inf_of_not_above mx (hvals e he)
  obtain ⟨hlt, hon⟩ := mem_activeIdx.mp he
  refine ⟨e, hlt, hon, ?_, fun k hk honk => hout k (mem_activeIdx.mpr ⟨hk, honk⟩)⟩
  rw [rext_fp hfp, foldl_extreme_of_numbers mx (by simp) (by simpa using hvals), hpick, encode_decode_elem hfp v (hvals e he)]

/-- One integer is above another. -/
def intAbove (a b : Int) : Bool := decide (b < a)

theorem ranking_intAbove (mx : Bool) : Ranking (oriented mx intAbove) :=
  (Ranking.of_key id fun a b => by simp [intAbove]).oriented mx

theorem rext_int {fmt : Fmt} (hfp : fmt.isFp = false) (mx : Bool) (m : Word) (v : Vec) :
    rext fmt mx m v = wrapBits fmt.width (pick (oriented mx intAbove) (if mx then Fmt.lo fmt else Fmt.hi fmt)
      ((activeIdx fmt.width m).map fun e => intVal fmt (elem fmt.width v e))) := by
  have hstep : ∀ acc x : Int, (if mx then (if acc < x then x else acc) else (if x < acc then x else acc)) =
      if oriented mx intAbove x acc then x else acc := by
    intro acc x
    cases mx <;> simp [oriented, intAbove]
  rw [rext, if_neg (by simp [hfp]), map_snd_activeElems, pick, List.foldl_map, List.foldl_map]
  simp only [hstep]

theorem rext_int_of_none {fmt : Fmt} (hfp : fmt.isFp = false) (mx : Bool) {m : Word} (v : Vec)
    (h : ∀ e, e < fmt.count → m.getLsbD (e * fmt.width / 32) = false) :
    rext fmt mx m v = wrapBits fmt.width (if mx then Fmt.lo fmt else Fmt.hi fmt) := by
  rw [rext_int hfp, activeIdx_eq_nil h]
  rfl

/-- An element's bits are those of its integer. -/
theorem wrapBits_intVal (fmt : Fmt) {u : Nat} (hu : u < 2 ^ fmt.width) : wrapBits fmt.width (intVal fmt u) = u := by
  have hmod : ((u : Int) % (2 ^ fmt.width : Nat)) = u := Int.emod_eq_of_lt (by omega) (by omega)
  have hcast : (2 ^ fmt.width : Int) = (2 ^ fmt.width : Nat) := by push_cast; rfl
  rw [wrapBits, intVal_eq, Nat.mod_eq_of_lt hu, hcast]
  split
  · rw [Int.sub_emod_right, hmod, Int.toNat_natCast]
  · rw [hmod, Int.toNat_natCast]

/-- An element's integer lies in its format's range. -/
theorem lo_le_intVal_le_hi (fmt : Fmt) {u : Nat} (hu : u < 2 ^ fmt.width) :
    Fmt.lo fmt ≤ intVal fmt u ∧ intVal fmt u ≤ Fmt.hi fmt := by
  obtain ⟨k, hk⟩ : ∃ k, fmt.width = k + 1 := Nat.exists_eq_add_one_of_ne_zero (Fmt.width_pos fmt).ne'
  have hcast : (2 ^ k : Int) = (2 ^ k : Nat) := by push_cast; rfl
  rw [intVal_eq, Fmt.lo_eq, Fmt.hi_eq, Nat.mod_eq_of_lt hu, hk, Nat.add_sub_cancel, pow_succ, hcast]
  rw [hk, pow_succ] at hu
  generalize 2 ^ k = half at *
  by_cases hs : fmt ∈ [Fmt.i32, .i16, .i8, .i4]
  · simp only [hs, if_true, true_and]
    split <;> omega
  · simp only [hs, if_false, false_and]
    omega

theorem eq_of_not_intAbove (mx : Bool) {fmt : Fmt} {u : Nat} (hu : u < 2 ^ fmt.width)
    (h : oriented mx intAbove (intVal fmt u) (if mx then Fmt.lo fmt else Fmt.hi fmt) = false) :
    intVal fmt u = if mx then Fmt.lo fmt else Fmt.hi fmt := by
  obtain ⟨hlo, hhi⟩ := lo_le_intVal_le_hi fmt hu
  cases mx with
  | true => exact le_antisymm (by simpa [oriented, intAbove] using h) hlo
  | false => exact le_antisymm hhi (by simpa [oriented, intAbove] using h)

/-- The result is an active element, and none lies further out. -/
theorem rext_int_of_some {fmt : Fmt} (hfp : fmt.isFp = false) (mx : Bool) {m : Word} (v : Vec) {e0 : Nat} (he0 : e0 < fmt.count)
    (hon0 : m.getLsbD (e0 * fmt.width / 32) = true) :
    ∃ e, e < fmt.count ∧ m.getLsbD (e * fmt.width / 32) = true ∧ rext fmt mx m v = elem fmt.width v e ∧
      ∀ k, k < fmt.count → m.getLsbD (k * fmt.width / 32) = true →
        oriented mx intAbove (intVal fmt (elem fmt.width v k)) (intVal fmt (elem fmt.width v e)) = false := by
  obtain ⟨e, he, hpick, hout⟩ := exists_pick_map (ranking_intAbove mx) (fun e => intVal fmt (elem fmt.width v e))
    (List.ne_nil_of_mem (mem_activeIdx.mpr ⟨he0, hon0⟩)) fun e _ => eq_of_not_intAbove mx (elem_lt fmt v e)
  obtain ⟨hlt, hon⟩ := mem_activeIdx.mp he
  refine ⟨e, hlt, hon, ?_, fun k hk honk => hout k (mem_activeIdx.mpr ⟨hk, honk⟩)⟩
  rw [rext_int hfp, hpick, wrapBits_intVal fmt (elem_lt fmt v e)]

/-! ### VARGMAX and VARGMIN (R144) -/

theorem ranking_ranksAbove (fmt : Fmt) : Ranking (ranksAbove fmt) := by
  cases hfp : fmt.isFp with
  | true =>
    have habove : ranksAbove fmt = fun a b => ((ffmt fmt).decode a).above ((ffmt fmt).decode b) := by
      funext a b
      rw [ranksAbove, if_pos hfp, FVal.above]
    exact habove ▸ (Ranking.of_key FVal.rank FVal.above_iff).comp (ffmt fmt).decode
  | false => exact Ranking.of_key (intVal fmt) fun a b => by simp [ranksAbove, hfp]

theorem rarg_of_none (fmt : Fmt) (mx : Bool) {m : Word} (v : Vec)
    (h : ∀ e, e < fmt.count → m.getLsbD (e * fmt.width / 32) = false) : rarg fmt mx m v = (0, 2 ^ 32 - 1) := by
  rw [rarg, activeElems_eq_map, activeIdx_eq_nil h]
  rfl

/-- The indices before one in an ascending list are those that are less. -/
theorem mem_before_of_lt {before after : List Nat} {e k : Nat} (hsorted : (before ++ e :: after).Pairwise (· < ·))
    (hk : k ∈ before ++ e :: after) (hlt : k < e) : k ∈ before := by
  obtain ⟨-, hafter, -⟩ := List.pairwise_append.mp hsorted
  obtain ⟨hafter, -⟩ := List.pairwise_cons.mp hafter
  rcases List.mem_append.mp hk with h | h
  · exact h
  · rcases List.mem_cons.mp h with rfl | h
    · exact absurd hlt (lt_irrefl k)
    · exact absurd (hafter k h) (lt_asymm hlt)

/-- An element is further out than another, both by their indices. -/
def elemAbove (fmt : Fmt) (mx : Bool) (v : Vec) (i j : Nat) : Bool :=
  oriented mx (ranksAbove fmt) (elem fmt.width v i) (elem fmt.width v j)

theorem ranking_elemAbove (fmt : Fmt) (mx : Bool) (v : Vec) : Ranking (elemAbove fmt mx v) :=
  ((ranking_ranksAbove fmt).oriented mx).comp (elem fmt.width v)

theorem pick_map {α β : Type} (r : β → β → Bool) (f : α → β) (b : α) (l : List α) :
    pick r (f b) (l.map f) = f (pick (fun x y => r (f x) (f y)) b l) := by
  induction l generalizing b with
  | nil => rfl
  | cons x l ih =>
    simp only [pick, List.map_cons, List.foldl_cons] at ih ⊢
    rw [← ih]
    split <;> rfl

theorem rarg_eq_pick {fmt : Fmt} (mx : Bool) {m : Word} (v : Vec) {i : Nat} {is : List Nat} (h : activeIdx fmt.width m = i :: is) :
    rarg fmt mx m v = (elem fmt.width v (pick (elemAbove fmt mx v) i is), pick (elemAbove fmt mx v) i is) := by
  have hpick := pick_map (fun p q : Nat × Nat => oriented mx (ranksAbove fmt) p.2 q.2) (fun e => (e, elem fmt.width v e)) i is
  rw [rarg, activeElems_eq_map, h, List.map_cons]
  exact congrArg (fun p : Nat × Nat => (p.2, p.1)) hpick

/-- The result is the first of the active elements that no other is further out than. -/
theorem rarg_of_some (fmt : Fmt) (mx : Bool) {m : Word} (v : Vec) {e0 : Nat} (he0 : e0 < fmt.count)
    (hon0 : m.getLsbD (e0 * fmt.width / 32) = true) :
    ∃ e, e < fmt.count ∧ m.getLsbD (e * fmt.width / 32) = true ∧ rarg fmt mx m v = (elem fmt.width v e, e) ∧
      ∀ k, k < fmt.count → m.getLsbD (k * fmt.width / 32) = true →
        elemAbove fmt mx v k e = false ∧ (k < e → elemAbove fmt mx v e k = true) := by
  have hmem0 := mem_activeIdx.mpr ⟨he0, hon0⟩
  cases hidx : activeIdx fmt.width m with
  | nil => simp [hidx] at hmem0
  | cons i is =>
    obtain ⟨before, after, hsplit, hbefore, hnone⟩ := pick_first_highest (ranking_elemAbove fmt mx v) i is
    have heq := rarg_eq_pick mx v hidx
    generalize pick (elemAbove fmt mx v) i is = e at *
    have hmem : ∀ k, k < fmt.count → m.getLsbD (k * fmt.width / 32) = true → k ∈ i :: is := fun k hk honk =>
      hidx ▸ mem_activeIdx.mpr ⟨hk, honk⟩
    obtain ⟨hlt, hon⟩ := mem_activeIdx.mp (show e ∈ activeIdx fmt.width m by rw [hidx, hsplit]; simp)
    have hsorted := activeIdx_pairwise_lt fmt.width m
    rw [hidx, hsplit] at hsorted
    exact ⟨e, hlt, hon, heq, fun k hk honk => ⟨hnone k (hmem k hk honk), fun hke =>
      hbefore k (mem_before_of_lt hsorted (hsplit ▸ hmem k hk honk) hke)⟩⟩

end Sys2Proof.Machine
end

section
/-! PROOFS. Histograms, scans and moves of elements (R145 to R147), lane by lane, and the statement on reductions and moves. -/

namespace Sys2Proof.Machine

open Sys2Proof

/-! ### Histograms, scans and moves (R145 to R147) -/

theorem histVec_getElem! (w : Nat) (m : Word) (x y : Vec) {i : Nat} (hi : i < 64) :
    (histVec w m x y)[i]! = y[i]! + BitVec.ofNat 32 ((List.range (2048 / w)).countP fun e =>
      m.getLsbD (e * w / 32) && min (elem w x e) 16 == i) := by
  have hcount : ((activeElems w m x).map fun e => min e.2 16).count i =
      (List.range (2048 / w)).countP fun e => m.getLsbD (e * w / 32) && min (elem w x e) 16 == i := by
    rw [activeElems_eq_map, List.map_map, List.count_eq_countP, List.countP_map, activeIdx, List.countP_filter]
    exact List.countP_congr fun e _ => by simp [laneOf, and_comm]
  rw [getElem!_pos _ i hi, getElem!_pos y i hi, histVec, Vector.getElem_ofFn, ← hcount]
  rfl

/-- One step of VSCAN: lane i is added when it is active. -/
def scanStep (fp : Bool) (m : Word) (v : Vec) (acc : Lane) (i : Nat) : Lane :=
  if m.getLsbD i then (if fp then fadd acc (BitVec.ofNat 32 (laneNat v i)) else acc + BitVec.ofNat 32 (laneNat v i)) else acc

theorem scanGo_getElem? (fp : Bool) (m : Word) (v : Vec) (acc : Lane) (l : List Nat) {k : Nat} (hk : k < l.length) :
    (scanGo fp m v acc l)[k]? = some ((l.take (k + 1)).foldl (scanStep fp m v) acc) := by
  induction l generalizing acc k with
  | nil => simp at hk
  | cons i l ih =>
    cases k with
    | zero => simp [scanGo, scanStep]
    | succ k =>
      rw [scanGo, List.getElem?_cons_succ, ih _ (by simpa using hk)]
      rfl

/-- A lane of the scan is the sum of the active lanes up to it. -/
theorem scanVec_getElem! (fmt : Fmt) (m : Word) (v : Vec) {i : Nat} (hi : i < 64) : (scanVec fmt m v)[i]! =
    (List.range (i + 1)).foldl (scanStep fmt.isFp m v) (if fmt.isFp then fNegZero else 0) := by
  rw [scanVec, vecOfLanes_getElem! _ hi, List.getD_eq_getElem?_getD, scanGo_getElem? _ _ _ _ _ (by simpa using hi),
    Option.getD_some, List.take_range, Nat.min_eq_left (by omega)]

theorem scanVec_step (fmt : Fmt) (m : Word) (v : Vec) {i : Nat} (hi : i < 64) : (scanVec fmt m v)[i]! =
    scanStep fmt.isFp m v (if i = 0 then (if fmt.isFp then fNegZero else 0) else (scanVec fmt m v)[i - 1]!) i := by
  rw [scanVec_getElem! fmt m v hi, List.range_succ, List.foldl_append, List.foldl_cons, List.foldl_nil]
  cases i with
  | zero => rfl
  | succ i => rw [if_neg (Nat.succ_ne_zero i), Nat.add_sub_cancel, scanVec_getElem! fmt m v (by omega)]

/-- The number that meets p and has so many before it that do. -/
theorem getElem?_filter_range {p : Nat → Bool} {n i : Nat} (hi : i < n) (hp : p i = true) :
    ((List.range n).filter p)[(List.range i).countP p]? = some i := by
  obtain ⟨k, rfl⟩ : ∃ k, n = i + 1 + k := ⟨n - (i + 1), by omega⟩
  rw [List.range_add, List.range_succ, List.filter_append, List.filter_append, List.countP_eq_length_filter]
  simp [hp]

theorem activeLanes_getElem? {m : Word} {i : Nat} (hi : i < 64) (hon : m.getLsbD i = true) :
    (activeLanes m)[(List.range i).countP fun k => m.getLsbD k]? = some i :=
  getElem?_filter_range hi hon

theorem length_activeLanes (m : Word) : (activeLanes m).length = (List.range 64).countP fun k => m.getLsbD k := by
  rw [activeLanes, List.countP_eq_length_filter]

theorem countP_range_le (p : Nat → Bool) (i : Nat) : (List.range i).countP p ≤ i := by
  simpa using List.countP_le_length (p := p) (l := List.range i)

theorem compressVec_getElem! {m : Word} (x : Vec) {i : Nat} (hi : i < 64) (hon : m.getLsbD i = true) :
    (compressVec m x)[(List.range i).countP fun k => m.getLsbD k]! = x[i]! := by
  have hrank := countP_range_le (fun k => m.getLsbD k) i
  rw [compressVec, vecOfLanes_getElem! _ (by omega), List.getD_eq_getElem?_getD, List.getElem?_map, activeLanes_getElem? hi hon,
    Option.map_some, Option.getD_some, vec_getElem!_eq_laneNat x hi]

theorem compressVec_getElem!_rest {m : Word} (x : Vec) {i : Nat} (hi : i < 64)
    (h : ((List.range 64).countP fun k => m.getLsbD k) ≤ i) : (compressVec m x)[i]! = 0 := by
  rw [compressVec, vecOfLanes_getElem! _ hi, List.getD_eq_getElem?_getD,
    List.getElem?_eq_none (by rwa [List.length_map, length_activeLanes]), Option.getD_none]

theorem expandVec_getElem! (m : Word) (x y : Vec) {i : Nat} (hi : i < 64) : (expandVec m x y)[i]! =
    if m.getLsbD i then x[(List.range i).countP fun k => m.getLsbD k]! else y[i]! := by
  have hrank := countP_range_le (fun k => m.getLsbD k) i
  rw [getElem!_pos _ i hi, expandVec, Vector.getElem_ofFn, popCount_toNat, vec_getElem!_eq_laneNat x (hrank.trans_lt hi),
    getElem!_pos y i hi]
  rfl

/-! ### The statement -/

/-- Settles O24: each instruction lands its function's value, and the lemmas above say what the values of those functions are; that of an
extreme or of a chosen element is a pick by its ranking. -/
theorem reductionsAndMovesLand : Obligations.ReductionsAndMovesLand := by
  unfold Obligations.ReductionsAndMovesLand
  refine ⟨fun s vd p fmt x a m v c h => ?pick1, fun s vd p fmt a b m x y c h => ⟨pick2_lands h, pick2_lands h⟩,
    fun s vd p fmt a m x c h => ⟨opX1_lands h, opX1_lands h⟩, fun s vd p fmt a b k m x y c h => ?moves,
    fun s vd p fmt a b e m x y z c h => ResultX.elems (opX3_lands h),
    fun s fmt a k x c1 c2 hroomy hsrc hxq hread hxq1 hplace => vlane_lands k hroomy hsrc hxq hread hxq1 hplace,
    ⟨fun fmt m v => ?reductions, fun w m x y i hi => histVec_getElem! w m x y hi, fun fmt m x y i hi => ?lanes⟩⟩
  case pick1 =>
    exact ⟨pick1_lands h, pick1_lands h, pick1_lands h, pick1_lands h, pick1_lands h, vcompress_lands h⟩
  case moves =>
    exact ⟨ResultX.elems (opX2_lands h), ResultX.elems (opX2_lands h), ResultX.elems (opX2_lands h), ResultX.elems (opX2_lands h)⟩
  case reductions =>
    intro on val
    refine ⟨fun hfp => rsum_int hfp m v, fun hfmt => ?floats, fun a b => ranksAbove_iff fmt a b,
      fun hfp mx hnone => rext_int_of_none hfp mx v hnone, fun hfp e0 he0 hon0 mx => ?integers,
      fun hnone mx => rarg_of_none fmt mx v hnone, fun e0 he0 hon0 mx => ?chosen⟩
    case floats =>
      have hfp : fmt.isFp = true := by rcases hfmt with rfl | rfl | rfl <;> rfl
      refine ⟨rsum_fp hfp m v, fun mx => ⟨rext_fp_of_nan hfp mx, rext_fp_of_none hfp mx v, fun hsome hnum => ?_⟩⟩
      obtain ⟨e, he, hon, hval, hout⟩ := rext_fp_of_numbers hfp mx hsome hnum
      refine ⟨e, he, hon, hval, fun k hk honk => ?_⟩
      have hek := FVal.above_of_numbers (hnum k hk honk) (hnum e he hon)
      have hke := FVal.above_of_numbers (hnum e he hon) (hnum k hk honk)
      have hnot := hout k hk honk
      cases mx with
      | true => exact fun h => Bool.eq_false_iff.mp hnot (hek.mpr h)
      | false => exact fun h => Bool.eq_false_iff.mp hnot (hke.mpr h)
    case integers =>
      obtain ⟨e, he, hon, hval, hout⟩ := rext_int_of_some hfp mx v he0 hon0
      refine ⟨e, he, hon, hval, fun k hk honk => ?_⟩
      have hnot := hout k hk honk
      cases mx with
      | true => simpa [oriented, intAbove] using hnot
      | false => simpa [oriented, intAbove] using hnot
    case chosen =>
      exact rarg_of_some fmt mx v he0 hon0
  case lanes =>
    intro rank plus before
    refine ⟨?scan, fun hon => ⟨compressVec_getElem! x hi hon, ?_⟩, fun hoff => ?_, compressVec_getElem!_rest x hi⟩
    case scan =>
      rw [scanVec_step fmt m x hi, scanStep, vec_getElem!_eq_laneNat x hi]
    · rw [expandVec_getElem! m x y hi, if_pos hon]
    · rw [expandVec_getElem! m x y hi, if_neg (by simp [hoff])]

end Sys2Proof.Machine
end

section
/-! PROOFS. The integer functions of C (R90 to R96), bit by bit, and the statements on its integer instructions. -/

namespace Sys2Proof.Machine

open Sys2Proof

/-! ### Division (R91) -/

theorem remWord_signed_eq_srem {x y : Word} (hy : y ≠ 0) : remWord false x y = x.srem y := by
  rw [remWord, if_neg hy, if_neg Bool.false_ne_true, ← BitVec.toInt_srem, BitVec.ofInt_toInt]

theorem remWord_signed_eq_sub {x y : Word} (hy : y ≠ 0) :
    remWord false x y = x - y * BitVec.ofInt 64 (x.toInt.tdiv y.toInt) := by
  rw [remWord, if_neg hy, if_neg Bool.false_ne_true]
  refine eq_sub_of_add_eq ?_
  calc BitVec.ofInt 64 (x.toInt.tmod y.toInt) + y * BitVec.ofInt 64 (x.toInt.tdiv y.toInt)
      = BitVec.ofInt 64 (x.toInt.tmod y.toInt + y.toInt * x.toInt.tdiv y.toInt) := by
        rw [BitVec.ofInt_add, BitVec.ofInt_mul, BitVec.ofInt_toInt]
    _ = x := by rw [Int.tmod_add_mul_tdiv, BitVec.ofInt_toInt]

/-- The signed remainder is 0 or has the sign of the dividend. -/
theorem msb_remWord_signed (x y : Word) : remWord false x y = 0 ∨ (remWord false x y).msb = x.msb := by
  by_cases hy : y = 0
  · right
    rw [remWord, if_pos hy]
  · rw [remWord_signed_eq_srem hy]
    by_cases h : x.srem y = 0
    · exact .inl h
    · right
      rw [BitVec.msb_srem, decide_eq_true h, Bool.and_true]

theorem toNat_divWord_unsigned {x y : Word} (hy : y ≠ 0) : (divWord true x y).toNat = x.toNat / y.toNat := by
  rw [divWord, if_neg hy, if_pos rfl, BitVec.toNat_ofNat]
  exact Nat.mod_eq_of_lt ((Nat.div_le_self _ _).trans_lt x.isLt)

theorem toNat_remWord_unsigned {x y : Word} (hy : y ≠ 0) : (remWord true x y).toNat = x.toNat % y.toNat := by
  rw [remWord, if_neg hy, if_pos rfl, BitVec.toNat_ofNat]
  exact Nat.mod_eq_of_lt ((Nat.mod_le _ _).trans_lt x.isLt)

/-! ### Counts and orders of bits (R90) -/

theorem leadingZeros_le (n v : Nat) : leadingZeros n v ≤ n := by
  induction n with
  | zero => exact le_rfl
  | succ n ih =>
    rw [leadingZeros]
    split <;> omega

theorem testBit_eq_false_of_lt_leadingZeros {n v i : Nat} (h : i < leadingZeros n v) : v.testBit (n - 1 - i) = false := by
  induction n generalizing i with
  | zero => exact absurd h (Nat.not_lt_zero i)
  | succ n ih =>
    rw [leadingZeros] at h
    split at h
    · exact absurd h (Nat.not_lt_zero i)
    · next hbit =>
      cases i with
      | zero => simpa [Nat.testBit_eq_decide_div_mod_eq] using hbit
      | succ i => simpa [Nat.sub_sub, Nat.add_comm] using ih (i := i) (by omega)

theorem testBit_leadingZeros {n v : Nat} (h : leadingZeros n v < n) : v.testBit (n - 1 - leadingZeros n v) = true := by
  induction n with
  | zero => exact absurd h (Nat.not_lt_zero _)
  | succ n ih =>
    rw [leadingZeros] at h ⊢
    split
    · next hbit => simpa [Nat.testBit_eq_decide_div_mod_eq] using hbit
    · next hbit =>
      rw [if_neg hbit] at h
      have := ih (by omega)
      rwa [show n + 1 - 1 - (1 + leadingZeros n v) = n - 1 - leadingZeros n v by omega]

theorem trailingZeros_le (n v : Nat) : trailingZeros n v ≤ n := by
  induction n generalizing v with
  | zero => exact le_rfl
  | succ n ih =>
    rw [trailingZeros]
    have := ih (v / 2)
    split <;> omega

theorem testBit_eq_false_of_lt_trailingZeros {n v i : Nat} (h : i < trailingZeros n v) : v.testBit i = false := by
  induction n generalizing v i with
  | zero => exact absurd h (Nat.not_lt_zero i)
  | succ n ih =>
    rw [trailingZeros] at h
    split at h
    · exact absurd h (Nat.not_lt_zero i)
    · next hbit =>
      cases i with
      | zero => simpa [Nat.testBit_zero] using hbit
      | succ i => exact Nat.testBit_succ v i ▸ ih (by omega)

theorem testBit_trailingZeros {n v : Nat} (h : trailingZeros n v < n) : v.testBit (trailingZeros n v) = true := by
  induction n generalizing v with
  | zero => exact absurd h (Nat.not_lt_zero _)
  | succ n ih =>
    rw [trailingZeros] at h ⊢
    split
    · next hbit => simpa [Nat.testBit_zero] using hbit
    · next hbit =>
      rw [if_neg hbit] at h
      rw [Nat.add_comm, Nat.testBit_succ]
      exact ih (by omega)

theorem bitReverse_lt (n v : Nat) : bitReverse n v < 2 ^ n := by
  induction n generalizing v with
  | zero => exact Nat.one_pos
  | succ n ih =>
    have htop : v % 2 * 2 ^ n ≤ 1 * 2 ^ n := Nat.mul_le_mul_right _ (by omega)
    have := ih (v / 2)
    rw [bitReverse, pow_succ]
    omega

theorem testBit_bitReverse {n i : Nat} (v : Nat) (hi : i < n) : (bitReverse n v).testBit i = v.testBit (n - 1 - i) := by
  induction n generalizing v i with
  | zero => exact absurd hi (Nat.not_lt_zero i)
  | succ n ih =>
    rw [bitReverse, Nat.mul_comm, Nat.testBit_two_pow_mul_add _ (bitReverse_lt n _)]
    split
    · next h => rw [ih _ h, ← Nat.testBit_succ, show (n - 1 - i).succ = n + 1 - 1 - i by omega]
    · next h =>
      obtain rfl : i = n := by omega
      simp [Nat.testBit_zero]

/-! ### Fields (R90, R92, R94) -/

theorem ofNat_mod_two_pow (w v : Nat) : BitVec.ofNat w (v % 2 ^ w) = BitVec.ofNat w v :=
  BitVec.eq_of_toNat_eq (by rw [BitVec.toNat_ofNat, BitVec.toNat_ofNat, Nat.mod_mod])

theorem signExt_eq_signExtend (w v : Nat) : signExt w v = (BitVec.ofNat w v).signExtend 64 := by
  rw [BitVec.signExtend, BitVec.toInt_eq_toNat_cond, BitVec.toNat_ofNat, signExt]
  cases w with
  | zero => rw [if_pos rfl, pow_zero, Nat.mod_one]; rfl
  | succ w =>
    rw [if_neg (Nat.succ_ne_zero w), Nat.add_sub_cancel, Nat.pow_succ', apply_ite (BitVec.ofInt 64)]
    exact if_congr (Nat.mul_lt_mul_left two_pos).symm (BitVec.ofInt_natCast _ _).symm rfl

/-- The mask of w bits from bit pos. -/
theorem getLsbD_fieldMask {w pos i : Nat} (hi : i < 64) :
    (BitVec.ofNat 64 ((2 ^ w - 1) * 2 ^ pos)).getLsbD i = decide (pos ≤ i ∧ i < pos + w) := by
  rw [BitVec.getLsbD_ofNat, decide_eq_true hi, Bool.true_and, Nat.testBit_mul_two_pow, Nat.testBit_two_pow_sub_one,
    ← Bool.decide_and]
  exact decide_eq_decide.mpr (by omega)

/-- A word with a field of it replaced by the same bits of another. -/
theorem getLsbD_insertField {w pos i : Nat} (old new : Word) (hi : i < 64) :
    let mask : Word := BitVec.ofNat 64 ((2 ^ w - 1) * 2 ^ pos)
    ((old &&& ~~~mask) ||| (new &&& mask)).getLsbD i = if pos ≤ i ∧ i < pos + w then new.getLsbD i else old.getLsbD i := by
  simp only [BitVec.getLsbD_or, BitVec.getLsbD_and, BitVec.getLsbD_not, getLsbD_fieldMask hi, decide_eq_true hi, Bool.true_and]
  by_cases hin : pos ≤ i ∧ i < pos + w
  · simp only [hin, decide_true, Bool.not_true, Bool.and_false, Bool.false_or, Bool.and_true, and_self, if_true]
  · simp only [hin, decide_false, Bool.not_false, Bool.and_true, Bool.and_false, Bool.or_false, if_false]

theorem getLsbD_lihWord (hi : Bool) (imm : BitVec 24) (x : Word) {i : Nat} (h : i < 64) :
    let s := if hi then 40 else 32
    (lihWord hi imm x).getLsbD i = if s ≤ i ∧ i < s + 24 then imm.getLsbD (i - s) else x.getLsbD i := by
  intro s
  have hnew : imm.setWidth 64 <<< s = (imm.setWidth 64 <<< s) &&& BitVec.ofNat 64 ((2 ^ 24 - 1) * 2 ^ s) := by
    refine BitVec.eq_of_getLsbD_eq fun k hk => ?_
    rw [BitVec.getLsbD_and, getLsbD_fieldMask hk, BitVec.getLsbD_shiftLeft, BitVec.getLsbD_setWidth]
    by_cases hin : s ≤ k ∧ k < s + 24
    · rw [decide_eq_true hin, Bool.and_true]
    · rw [decide_eq_false hin, Bool.and_false]
      by_cases hs : k < s
      · simp [hs]
      · rw [imm.getLsbD_of_ge _ (by omega)]
        simp
  change ((x &&& ~~~BitVec.ofNat 64 ((2 ^ 24 - 1) * 2 ^ s)) ||| (imm.setWidth 64 <<< s)).getLsbD i = _
  rw [hnew, getLsbD_insertField _ _ h]
  refine ite_congr rfl (fun hin => ?_) fun _ => rfl
  rw [BitVec.getLsbD_shiftLeft, BitVec.getLsbD_setWidth, decide_eq_true h, decide_eq_false (by omega), decide_eq_true (by omega)]
  rfl

theorem fieldOf_eq (y : Word) : fieldOf y = (y.toNat % 64, min (y.toNat / 256 % 128) (64 - y.toNat % 64)) := by
  simp [fieldOf, bits, fld]

/-- Bits of a word from bit pos, as a number of w bits. -/
theorem getLsbD_ofNat_field (x : Word) (pos : Nat) {w i : Nat} :
    (BitVec.ofNat w (x.toNat / 2 ^ pos)).getLsbD i = (decide (i < w) && x.getLsbD (pos + i)) := by
  rw [BitVec.getLsbD_ofNat, Nat.testBit_div_two_pow, Nat.add_comm, BitVec.testBit_toNat]

theorem getLsbD_bfxWord_unsigned (x y : Word) {i : Nat} (hi : i < 64) :
    (bfxWord true x y).getLsbD i =
      (decide (i < min (y.toNat / 256 % 128) (64 - y.toNat % 64)) && x.getLsbD (y.toNat % 64 + i)) := by
  simp only [bfxWord, fieldOf_eq]
  generalize min (y.toNat / 256 % 128) (64 - y.toNat % 64) = w
  by_cases hw : w = 0
  · simp [hw]
  · rw [if_neg hw, if_pos trivial, BitVec.getLsbD_ofNat, decide_eq_true hi, Bool.true_and, Nat.testBit_mod_two_pow,
      Nat.testBit_div_two_pow, Nat.add_comm, BitVec.testBit_toNat]

theorem getLsbD_bfxWord_signed (x y : Word) {i : Nat} (hi : i < 64) :
    let w := min (y.toNat / 256 % 128) (64 - y.toNat % 64)
    (bfxWord false x y).getLsbD i = (decide (0 < w) && x.getLsbD (y.toNat % 64 + min i (w - 1))) := by
  simp only [bfxWord, fieldOf_eq]
  generalize min (y.toNat / 256 % 128) (64 - y.toNat % 64) = w
  by_cases hw : w = 0
  · simp [hw]
  · rw [if_neg hw, if_neg Bool.false_ne_true, signExt_eq_signExtend, ofNat_mod_two_pow, BitVec.getLsbD_signExtend,
      decide_eq_true hi, decide_eq_true (Nat.pos_of_ne_zero hw), BitVec.msb_eq_getLsbD_last, getLsbD_ofNat_field,
      getLsbD_ofNat_field]
    split
    · next h => rw [min_eq_left (by omega), decide_eq_true h, Bool.true_and]
    · next h => rw [min_eq_right (by omega), decide_eq_true (by omega), Bool.true_and]

theorem getLsbD_bfiWord (x y z : Word) {i : Nat} (hi : i < 64) :
    let pos := y.toNat % 64
    let w := min (y.toNat / 256 % 128) (64 - pos)
    (bfiWord x y z).getLsbD i = if pos ≤ i ∧ i < pos + w then x.getLsbD (i - pos) else z.getLsbD i := by
  simp only [bfiWord, fieldOf_eq]
  rw [getLsbD_insertField _ _ hi]
  refine ite_congr rfl (fun hin => ?_) fun _ => rfl
  rw [BitVec.getLsbD_shiftLeft, decide_eq_true hi, decide_eq_false (Nat.not_lt.mpr hin.1)]
  rfl

/-- EXT as the extension of the low bits. -/
theorem extWord_unsigned (w : ExtW) (x : Word) : extWord true w x = (x.setWidth (extWidth w)).setWidth 64 := by
  cases w <;> simp [extWord, extWidth, BitVec.toNat_eq]

theorem extWord_signed (w : ExtW) (x : Word) : extWord false w x = (x.setWidth (extWidth w)).signExtend 64 := by
  rw [extWord, if_neg Bool.false_ne_true, signExt_eq_signExtend, BitVec.ofNat_toNat]

/-! ### Bound forms (R93, R95) -/

/-- A plain test gives its outcome as a word. -/
theorem compare_plain (cc : Cond) (x y : Word) : compare_ false cc x y = .ok (if condTest cc x y then 1 else 0) := rfl

theorem compare_bound_of_met {cc : Cond} {x y : Word} (h : condTest cc x y = true) : compare_ true cc x y = .ok x := by
  rw [compare_, h]
  rfl

theorem compare_bound_of_not_met {cc : Cond} {x y : Word} (h : condTest cc x y = false) :
    compare_ true cc x y = .error (.trap .bound x) := by
  rw [compare_, h]
  rfl

/-- An instruction of two operands whose function does not stop lands its value; where it stops with BOUND, nothing is popped. -/
theorem opC2_lands {s : State} {d : CDst} {a b : CSrc} {x y v : Word} {c : Core} {n : Nat} {f : Word → Word → Except Stop Word}
    (h : ReadyC2 s d a b x y c) (hf : f x y = .ok v) :
    issue .c (opC2 d a b n f) s = .next (s.commit .c (.plain c (landC s.seq d n v))) := by
  obtain ⟨hd, ha, hb, hroomy, c1, c2, hx, hy, hc⟩ := h
  refine issue_ok ?_ (hroomy.not_overfull _)
  simp [opC2, legal, hd, ha, hb, hx, hy, hc, hf, bind, Except.bind, pure, Except.pure]

theorem opC2_raises_bound {s : State} {d : CDst} {a b : CSrc} {x y v : Word} {c : Core} {n : Nat}
    {f : Word → Word → Except Stop Word} (h : ReadyC2 s d a b x y c) (hf : f x y = .error (.trap .bound v)) :
    issue .c (opC2 d a b n f) s = .next (s.raise s.cur .bound v (s.me.posOf .c)) := by
  obtain ⟨hd, ha, hb, -, c1, c2, hx, hy, hc⟩ := h
  refine issue_error (e := .trap .bound v) ?_
  simp [opC2, legal, hd, ha, hb, hx, hy, hc, hf, bind, Except.bind]

theorem opC1_lands {s : State} {d : CDst} {a : CSrc} {x v : Word} {c : Core} {n : Nat} {f : Word → Except Stop Word}
    (h : ReadyC1 s d a x c) (hf : f x = .ok v) :
    issue .c (opC1 d a n f) s = .next (s.commit .c (.plain c (landC s.seq d n v))) := by
  obtain ⟨hd, ha, hroomy, c1, hx, hc⟩ := h
  refine issue_ok ?_ (hroomy.not_overfull _)
  simp [opC1, legal, hd, ha, hx, hc, hf, bind, Except.bind, pure, Except.pure]

theorem opC1_raises_bound {s : State} {d : CDst} {a : CSrc} {x v : Word} {c : Core} {n : Nat} {f : Word → Except Stop Word}
    (h : ReadyC1 s d a x c) (hf : f x = .error (.trap .bound v)) :
    issue .c (opC1 d a n f) s = .next (s.raise s.cur .bound v (s.me.posOf .c)) := by
  obtain ⟨hd, ha, -, c1, hx, hc⟩ := h
  refine issue_error (e := .trap .bound v) ?_
  simp [opC1, legal, hd, ha, hx, hc, hf, bind, Except.bind]

/-- A function of the one operand lands its value. -/
theorem ReadyC1.lands {s : State} {d : CDst} {a : CSrc} {x v : Word} {c : Core} {i : Instr} {n : Nat} {f : Word → Word}
    (h : ReadyC1 s d a x c) (hexec : exec i s = aluC1 d a n f s) (hf : f x = v) : ResultC i s c d n v :=
  hf ▸ hexec.trans (aluC1_lands h)

/-- LI reads no operand (R96). -/
theorem li_lands {s : State} {d : CDst} {c : Core} (imm : BitVec 33) (h : ReadyC0 s d c) :
    ResultC (.li d imm) s c d 1 (imm.signExtend 64) := by
  obtain ⟨hd, hroomy, hc⟩ := h
  refine issue_ok (f := fun s c => do legal (c.dstOk d); resultC s c d 1 (imm.signExtend 64)) ?_ (hroomy.not_overfull _)
  simp [resultC, legal, hd, hc, bind, Except.bind, pure, Except.pure]

/-! ### The statements -/

/-- Settles O1: each instruction's result is its function of the two operands. -/
theorem integerPairsLand : Obligations.IntegerPairsLand := by
  unfold Obligations.IntegerPairsLand
  intro s d a b x y c h
  refine ⟨aluC2_lands h, aluC2_lands h, aluC2_lands h, aluC2_lands h, aluC2_lands h, aluC2_lands h, aluC2_lands h, aluC2_lands h,
    aluC2_lands h, aluC2_lands h, aluC2_lands h, aluC2_lands h, aluC2_lands h, aluC2_lands h, aluC2_lands h, aluC2_lands h,
    aluC2_lands h, fun cc => opC2_lands h (compare_plain cc x y)⟩

/-- Settles O2: the quotient and the remainder are those of the model's functions, which take R91's cases apart. -/
theorem divisionNeverTraps : Obligations.DivisionNeverTraps := by
  unfold Obligations.DivisionNeverTraps
  intro s d a b x y c h
  refine ⟨⟨_, aluC2_lands h, fun hy => if_pos hy, ?overflow, fun hy => if_neg hy⟩,
    ⟨_, aluC2_lands h, fun hy => if_pos hy, toNat_divWord_unsigned⟩,
    ⟨_, aluC2_lands h, fun hy => if_pos hy, ?rest, remWord_signed_eq_sub, msb_remWord_signed x y⟩,
    ⟨_, aluC2_lands h, fun hy => if_pos hy, toNat_remWord_unsigned⟩⟩
  case overflow =>
    rintro ⟨rfl, rfl⟩
    decide
  case rest =>
    rintro ⟨rfl, rfl⟩
    decide

/-- Settles O3: each instruction's result is its function of the operand, and the lemmas above say what its bits are. -/
theorem integerUnaryLand : Obligations.IntegerUnaryLand := by
  unfold Obligations.IntegerUnaryLand
  intro s d a x c imm h
  refine ⟨⟨_, aluC1_lands h, leadingZeros_le 64 _, fun i hi => ?above, fun hn => ?first⟩,
    ⟨_, aluC1_lands h, trailingZeros_le 64 _, fun i hi => testBit_eq_false_of_lt_trailingZeros hi, testBit_trailingZeros⟩,
    h.lands rfl (congrArg _ (popCount_toNat 64 x)), ⟨_, aluC1_lands h, fun i hi => ?reversed⟩,
    h.lands rfl (extWord_signed .w8 x), h.lands rfl (extWord_signed .w16 x), h.lands rfl (extWord_signed .w32 x),
    h.lands rfl (extWord_unsigned .w8 x), h.lands rfl (extWord_unsigned .w16 x), h.lands rfl (extWord_unsigned .w32 x),
    aluC1_lands h, aluC1_lands h, aluC1_lands h, aluC1_lands h, aluC1_lands h, fun _ => aluC1_lands h, fun _ => aluC1_lands h,
    fun _ => aluC1_lands h, fun hbig => ?wf, aluC1_lands h, ⟨_, aluC1_lands h, fun i hi => ?middle⟩,
    ⟨_, aluC1_lands h, fun i hi => ?upper⟩, fun cc hcc => ?cmpi⟩
  case above =>
    rw [BitVec.getMsbD_eq_getLsbD, ← BitVec.testBit_toNat, testBit_eq_false_of_lt_leadingZeros hi, Bool.and_false]
  case first =>
    rw [BitVec.getMsbD_eq_getLsbD, ← BitVec.testBit_toNat, testBit_leadingZeros hn, decide_eq_true hn, Bool.and_true]
  case reversed =>
    rw [BitVec.getLsbD_ofNat, decide_eq_true hi, Bool.true_and, testBit_bitReverse _ hi, BitVec.testBit_toNat]
  case wf =>
    have hnot : decide (imm.toNat < 64) = false := decide_eq_false (Nat.not_lt.mpr hbig)
    exact ⟨hnot, hnot, hnot⟩
  case middle =>
    exact getLsbD_lihWord false imm x hi
  case upper =>
    rw [getLsbD_lihWord true imm x hi]
    exact if_congr (and_iff_left_of_imp fun _ => hi) rfl rfl
  case cmpi =>
    have hplain : (cc == .bound) = false := by simpa using hcc
    exact opC1_lands h (hplain ▸ compare_plain (cmpiCond cc) x (imm.signExtend 64))

/-- Settles O4: the fields by the bits of the control word; the bound forms by whether the test is met. -/
theorem fieldsSelectsAndBounds : Obligations.FieldsSelectsAndBounds := by
  unfold Obligations.FieldsSelectsAndBounds
  refine ⟨⟨fun s d a b x y c h => ?bfx, fun s d a b e x y z c h => ?three, fun s d c imm h => li_lands imm h⟩,
    fun s d a b x y c cc h => ?cmp, fun s d a x c imm h => ?cmpi⟩
  case bfx =>
    exact ⟨⟨_, aluC2_lands h, fun i => getLsbD_bfxWord_unsigned x y⟩, ⟨_, aluC2_lands h, fun i => getLsbD_bfxWord_signed x y⟩⟩
  case three =>
    exact ⟨⟨_, aluC3_lands h, fun i => getLsbD_bfiWord x y z⟩, aluC3_lands h, aluC3_lands h⟩
  case cmp =>
    exact ⟨fun hmet => opC2_lands h (compare_bound_of_met hmet), fun hnot => opC2_raises_bound h (compare_bound_of_not_met hnot)⟩
  case cmpi =>
    exact ⟨fun hmet => opC1_lands h (compare_bound_of_met hmet), fun hnot => opC1_raises_bound h (compare_bound_of_not_met hnot)⟩

end Sys2Proof.Machine
end

section
/-! PROOFS. The transfers and loops of C (R100 to R103), its loads and stores at their issue (R104, R154), and TRAP and BREAK with the
stop behind them (R108). -/

namespace Sys2Proof.Machine

open Sys2Proof

theorem exec_br_eq (cc : Cond) (a b : CSrc) (t : Target) (s : State) : exec (.br cc a b t) s = execBr cc a b t s := rfl
theorem exec_bri_eq (cc : Cond) (a : CSrc) (imm : BitVec 6) (t : Target) (s : State) :
    exec (.bri cc a imm t) s = execBri cc a imm t s := rfl
theorem exec_call_eq (t : Target) (s : State) : exec (.call t) s = execCall t s := rfl
theorem exec_ret_eq (a : CSrc) (s : State) : exec (.ret a) s = execRet a s := rfl
theorem exec_jmpi_eq (a : CSrc) (p : BitVec 5) (s : State) : exec (.jmpi a p) s = execJmpi a p s := rfl
theorem exec_jtab_eq (a b : CSrc) (t : Target) (s : State) : exec (.jtab a b t) s = execJtab a b t s := rfl
theorem exec_bdec_eq (k : Fin 4) (t : Target) (s : State) : exec (.bdec k t) s = execBdec k t s := rfl
theorem exec_loopset_eq (k : Fin 4) (b : CSrc) (t : Target) (s : State) : exec (.loopset k b t) s = execLoopset k b t s := rfl
theorem exec_ld_eq (d : CDst) (sz : Size) (cl : Cls) (off : BitVec 17) (base : CSrc) (s : State) :
    exec (.ld d sz cl off base) s = execLd d sz cl off base s := rfl
theorem exec_lds_eq (d : CDst) (sz : Size) (cl : Cls) (off : BitVec 17) (base : CSrc) (s : State) :
    exec (.lds d sz cl off base) s = execLds d sz cl off base s := rfl
theorem exec_st_eq (sz : Size) (cl : Cls) (data : CSrc) (off : BitVec 17) (base : CSrc) (s : State) :
    exec (.st sz cl data off base) s = execSt sz cl data off base s := rfl
theorem exec_trap_eq (a : CSrc) (code : BitVec 15) (s : State) : exec (.trap a code) s = execTrap a code s := rfl
theorem exec_brk_eq (code : BitVec 15) (s : State) : exec (.brk code) s = execBrk code s := rfl

/-! ### Readable sources -/

theorem SourcesC1.roomy {s : State} {a : CSrc} {x : Word} {c : Core} (h : SourcesC1 s a x c) : s.Roomy := by
  obtain ⟨-, hroomy, -⟩ := h
  exact hroomy

theorem SourcesC2.roomy {s : State} {a b : CSrc} {x y : Word} {c : Core} (h : SourcesC2 s a b x y c) : s.Roomy := by
  obtain ⟨-, -, hroomy, -⟩ := h
  exact hroomy

/-! ### Transfers (R100 to R103, R125) -/

/-- A transfer to a line that it may go to is no fault. -/
theorem jumpC_ok {s : State} {c : Core} {line : Nat} (parcel : Nat) (h : TargetOk s c line) :
    jumpC s c line parcel = .ok (.jump line parcel) := by
  rw [jumpC]
  split
  · next hjoined =>
    obtain ⟨hin, hhandler⟩ := by simpa using hjoined
    obtain ⟨hfirst, hlen, hlink⟩ := h hin hhandler
    rw [if_pos (by simp [State.groupLine, hfirst, hlen, hlink])]
  · rfl

theorem branchC_ok {s : State} {c : Core} {line : Nat} (taken : Bool) (parcel : Nat) (reqs : List Req) (h : TargetOk s c line) :
    branchC s c taken line parcel reqs = .ok (transfer c taken line parcel reqs) := by
  cases taken with
  | true => simp [branchC, jumpC_ok parcel h, transfer, bind, Except.bind, pure, Except.pure]
  | false => rfl

/-- An instruction whose checks come to a transfer issues as that transfer. -/
theorem branch_issues {s : State} {i : Instr} {f : State → Core → Except Stop IssueOut} {c : Core} {taken : Bool} {line parcel : Nat}
    {reqs : List Req} (hroomy : s.Roomy) (hexec : exec i s = issue .c f s)
    (hf : f s s.me = branchC s c taken line parcel reqs) (ht : TargetOk s c line) :
    IssuesAs .c i s (transfer c taken line parcel reqs) :=
  hexec.trans (issue_ok (hf.trans (branchC_ok taken parcel reqs ht)) (hroomy.not_overfull _))

theorem br_issues {s : State} {cc : Cond} {a b : CSrc} {t : Target} {x y : Word} {c : Core} (h : SourcesC2 s a b x y c)
    (ht : TargetOk s c (targetLine (c.lineOf .c) t)) :
    IssuesAs .c (.br cc a b t) s (transfer c (condTest cc x y) (targetLine (c.lineOf .c) t) t.parcel.toNat []) :=
  branch_issues h.roomy (exec_br_eq _ _ _ _ _) (by simp only [readC2_ok h, bind, Except.bind]) ht

/-- JTAB's line, where it is none below 0, is the exact sum. -/
theorem jtab_issues {s : State} {a b : CSrc} {t : Target} {x y : Word} {c : Core} {n : Nat} (h : SourcesC2 s a b x y c)
    (hn : (n : Int) = (c.lineOf .c : Int) + t.line.toInt + x.toNat) (ht : TargetOk s c n) :
    IssuesAs .c (.jtab a b t) s (transfer c (x.ult y) n t.parcel.toNat []) := by
  refine branch_issues h.roomy (exec_jtab_eq _ _ _ _) ?_ ht
  simp only [readC2_ok h, bind, Except.bind, ← hn, Int.toNat_natCast, if_neg (Int.natCast_nonneg n).not_gt]

section
variable {s : State} {a : CSrc} {t : Target} {x : Word} {c : Core} (h : SourcesC1 s a x c)
include h

theorem bri_issues {cc : Cond} {imm : BitVec 6} (ht : TargetOk s c (targetLine (c.lineOf .c) t)) :
    IssuesAs .c (.bri cc a imm t) s
      (transfer c (condTest cc x (imm.signExtend 64)) (targetLine (c.lineOf .c) t) t.parcel.toNat []) :=
  branch_issues h.roomy (exec_bri_eq _ _ _ _ _) (by simp only [readC1_ok h, bind, Except.bind]) ht

theorem loopset_issues {k : Fin 4} (ht : TargetOk s c (targetLine (c.lineOf .c) t)) :
    IssuesAs .c (.loopset k a t) s (transfer c (x.setWidth 32 == (0 : BitVec 32)) (targetLine (c.lineOf .c) t) t.parcel.toNat
      [loopReq .c k (x.setWidth 32)]) :=
  branch_issues h.roomy (exec_loopset_eq _ _ _ _) (by simp only [readC1_ok h, bind, Except.bind]) ht

theorem ret_issues (hparcel : 2 ≤ x.toNat % 32) (ht : TargetOk s c (x.toNat / 32)) :
    IssuesAs .c (.ret a) s (transfer c true (x.toNat / 32) (x.toNat % 32) []) :=
  branch_issues h.roomy (exec_ret_eq _ _) (by simp only [readC1_ok h, bind, Except.bind, legal, decide_eq_true hparcel, if_true]) ht

theorem jmpi_issues {p : BitVec 5} (ht : TargetOk s c x.toNat) :
    IssuesAs .c (.jmpi a p) s (transfer c true x.toNat p.toNat []) :=
  branch_issues h.roomy (exec_jmpi_eq _ _ _) (by simp only [readC1_ok h, bind, Except.bind]) ht

end

/-- CALL pushes the position of the item after it (R102). -/
theorem call_issues {s : State} {t : Target} {l p : Nat} (hroomy : s.Roomy) (ht : TargetOk s s.me (targetLine (s.me.lineOf .c) t))
    (hafter : s.after s.cur (s.me.stream .c).line (s.me.stream .c).parcel = some (l, p)) :
    IssuesAs .c (.call t) s (transfer s.me true (targetLine (s.me.lineOf .c) t) t.parcel.toNat
      [pushH0 1 (BitVec.ofNat 64 (32 * l + p))]) :=
  branch_issues hroomy (exec_call_eq _ _) (by simp only [hafter, Core.lineOf]) ht

/-! ### Loads and stores (R104, R154) -/

/-- An access of one element at an address that is no multiple of its size fails its first check. -/
theorem checkElem_align {s : State} {id : CoreId} {c : Core} {cl : Cls} {perm : Perm} {va : Word} {z lane : Nat} {progress : Bool}
    (h : va.toNat % z ≠ 0) :
    checkElem s id c cl perm va z z lane progress = .error (.trap .align (accessInfo va lane progress)) :=
  if_pos h

/-- The bytes of an access of one element. -/
theorem Access.pas_one (kind : AccKind) (e : El) (pos : Pos) (data : Option (List Byte)) :
    Access.pas ⟨kind, [e], pos, data⟩ = e.pas := by
  simp [Access.pas]

/-- The access of a scalar load: its value goes to a register, and to the place on a channel that the load has taken. -/
def loadAccess (s : State) (d : CDst) (signed : Bool) (e : El) (pos : Pos) : Access :=
  ⟨.ldC (match d with | .s r => some r | _ => none) ((dstChan d).map fun ch => (ch.val, s.seq)) signed, [e], pos, none⟩

section
variable {s : State} {d : CDst} {base : CSrc} {b : Word} {c c1 : Core} {pa : Nat} (h : ReadyC1 s d base b c)
include h

theorem loadC_issues {i : Instr} {sz : Size} {cl : Cls} {off : BitVec 17} {signed : Bool}
    (hexec : exec i s = issue .c (loadC d sz cl off base signed) s)
    (hcheck : checkElem s s.cur c cl .r (b + off.signExtend 64) (sizeBytes sz) (sizeBytes sz) 0 false = .ok (pa, c1)) :
    Issues .c i s c1 (s.accessReqs s.cur c1
      (loadAccess s d signed ⟨b + off.signExtend 64, sizeBytes sz, 0, pa⟩ (c1.posOf .c)) (s.latency s.cur cl (pasFrom pa (sizeBytes sz)))) := by
  obtain ⟨hd, hbase, hroomy, c0, hread, hplace⟩ := h
  refine hexec.trans (issue_ok ?_ (hroomy.not_overfull _))
  simp only [loadC, legal, hd, hbase, hread, hplace, hcheck, Bool.and_self, if_true, bind, Except.bind, pure, Except.pure,
    Access.pas_one]
  rfl

theorem loadC_align {i : Instr} {sz : Size} {cl : Cls} {off : BitVec 17} {signed : Bool}
    (hexec : exec i s = issue .c (loadC d sz cl off base signed) s)
    (halign : (b + off.signExtend 64).toNat % sizeBytes sz ≠ 0) :
    TrapsAt .c i s .align (accessInfo (b + off.signExtend 64) 0 false) := by
  obtain ⟨hd, hbase, -, c0, hread, hplace⟩ := h
  refine hexec.trans (issue_error (e := .trap .align _) ?_)
  simp only [loadC, legal, hd, hbase, hread, hplace, checkElem_align halign, Bool.and_self, if_true, bind, Except.bind]

end

section
variable {s : State} {sz : Size} {cl : Cls} {off : BitVec 17} {base data : CSrc} {b x : Word} {c c1 : Core} {pa : Nat}
  (h : SourcesC2 s base data b x c)
include h

theorem st_issues
    (hcheck : checkElem s s.cur c cl .w (b + off.signExtend 64) (sizeBytes sz) (sizeBytes sz) 0 false = .ok (pa, c1)) :
    Issues .c (.st sz cl data off base) s c1 (s.accessReqs s.cur c1
      ⟨.st (leBytes x.toNat (sizeBytes sz)), [⟨b + off.signExtend 64, sizeBytes sz, 0, pa⟩], c1.posOf .c, none⟩
      (s.latency s.cur cl (pasFrom pa (sizeBytes sz)))) := by
  refine (exec_st_eq _ _ _ _ _ _).trans (issue_ok ?_ (h.roomy.not_overfull _))
  simp only [readC2_ok h, hcheck, bind, Except.bind, pure, Except.pure, Access.pas_one, El.pas]

theorem st_align (halign : (b + off.signExtend 64).toNat % sizeBytes sz ≠ 0) :
    TrapsAt .c (.st sz cl data off base) s .align (accessInfo (b + off.signExtend 64) 0 false) := by
  refine (exec_st_eq _ _ _ _ _ _).trans (issue_error (e := .trap .align _) ?_)
  simp only [readC2_ok h, checkElem_align halign, bind, Except.bind]

end

/-! ### TRAP and BREAK (R108) -/

/-- The item after one that issues is due a cycle later, where the stream is not ended (R25, R28). -/
theorem State.reach_advance (s : State) (id : CoreId) (c : Core) (cl : Cluster) (cyc : Nat) :
    ((s.advance id c cl cyc (cyc + 1)).stream cl).reach = cyc + 1 := by
  simp only [State.advance]
  split
  · rw [Core.stream_setStream_self]
  · split
    · rw [Core.stream_setStream_self]
    · split <;> rw [Core.stream_setStream_self]

/-- A stop that was asked for is due once the item behind is. -/
theorem State.stopDue_of_check {s : State} {id : CoreId} {kind v : Nat} (hcheck : ((s.core id).stream .c).check = some (kind, v))
    (hkind : 3 ≤ kind) (hreach : ((s.core id).stream .c).reach ≤ s.itemCycle id) : s.stopDue id = true := by
  simp only [State.stopDue, Core.stopComes, hcheck, decide_eq_true hkind, decide_eq_true hreach, Bool.and_self]

theorem State.issueDue_of_stopDue {s : State} {id : CoreId} (hissues : (s.core id).issues = true) (hdue : s.stopDue id = true) :
    s.issueDue id = true := by
  simp only [State.issueDue, hissues, hdue, Bool.true_or, Bool.true_and]

/-- The state in which the core's stop is taken: no check is left. -/
def State.unchecked (s : State) (id : CoreId) : State := (s.acting id .c).modStream id .c fun st => { st with check := none }

/-- A stop that is due is all that the cycle holds. -/
theorem State.issueCycle_of_stopDue {s : State} {id : CoreId} {kind v : Nat} (hcheck : ((s.core id).stream .c).check = some (kind, v))
    (hdue : s.stopDue id = true) : s.issueCycle id = .next ((s.unchecked id).askedStop id kind v) := by
  have hstop : (s.acting id .c).checkCopies id = (s.unchecked id).askedStop id kind v := by
    have hcheck' : (((s.acting id .c).core id).stream .c).check = some (kind, v) := hcheck
    have hdue' : (s.acting id .c).stopDue id = true := hdue
    simp only [State.checkCopies, hcheck', hdue', if_true]
    rfl
  rw [State.issueCycle, hstop]
  rfl

theorem State.afterItem_of_run {s : State} {id : CoreId} {c : Core} (hmode : (c.stream .c).mode = .run)
    (hentered : (c.stream .c).entering = false) : s.afterItem id c = c.posOf .c := by
  simp only [State.afterItem, hmode, hentered]
  rfl

theorem trap_issues {s : State} {a : CSrc} {x : Word} {c : Core} (code : BitVec 15) (h : SourcesC1 s a x c) :
    IssuesAs .c (.trap a code) s ⟨c, [], .checked 3 (code.toNat + x.toNat % 2 ^ 32 * 2 ^ 32), none, [], []⟩ :=
  (exec_trap_eq _ _ _).trans
    (issue_ok (by simp only [readC1_ok h, bind, Except.bind, pure, Except.pure]) (h.roomy.not_overfull _))

/-! ### The statements -/

/-- Settles O7: each transfer's line and condition are those of the lemmas above. -/
theorem transfersGoToTheirTargets : Obligations.TransfersGoToTheirTargets := by
  unfold Obligations.TransfersGoToTheirTargets
  refine ⟨fun s cc a b t x y c h => ⟨br_issues h, fun n => jtab_issues h⟩,
    fun s cc a imm t p k x c h => ⟨fun ht => ⟨bri_issues h ht, loopset_issues h ht⟩, fun ht hp => ret_issues h hp ht, jmpi_issues h⟩,
    fun s k t hroomy ht => ⟨branch_issues hroomy (exec_bdec_eq _ _ _) rfl ht, fun l p => call_issues hroomy ht⟩⟩

/-- Settles O9: LD and LDS differ in the sign alone. -/
theorem scalarAccessesIssue : Obligations.ScalarAccessesIssue := by
  unfold Obligations.ScalarAccessesIssue
  refine ⟨fun s d sz cl off base b c c1 pa h => ⟨fun hcheck signed => ?load,
      fun halign => ⟨loadC_align h (exec_ld_eq _ _ _ _ _ _) halign, loadC_align h (exec_lds_eq _ _ _ _ _ _) halign⟩⟩,
    fun s sz cl off base data b x c c1 pa h => ⟨st_issues h, st_align h⟩⟩
  case load =>
    cases signed with
    | true => exact loadC_issues h (exec_lds_eq _ _ _ _ _ _) hcheck
    | false => exact loadC_issues h (exec_ld_eq _ _ _ _ _ _) hcheck

/-- Settles O11: the item behind a TRAP or BREAK carries the stop, which is due with it. -/
theorem trapAndBreakStopBehind : Obligations.TrapAndBreakStopBehind := by
  unfold Obligations.TrapAndBreakStopBehind
  refine ⟨fun s a code x c h => trap_issues code h, fun s code hroomy => (exec_brk_eq _ _).trans (issue_ok rfl (hroomy.not_overfull _)),
    fun s id c cyc kind v => ?behind, fun s id kind v hcheck hissues hreach => ?stops, fun s id => State.afterItem_of_run⟩
  case behind =>
    rw [State.flow, Core.stream_setStream_self]
    exact ⟨rfl, s.reach_advance id c .c cyc⟩
  case stops =>
    refine ⟨?_, ?_⟩ <;> rintro rfl <;> have hdue := State.stopDue_of_check hcheck (by decide) hreach
    · exact ⟨State.issueDue_of_stopDue hissues hdue, State.issueCycle_of_stopDue hcheck hdue⟩
    · exact ⟨State.issueDue_of_stopDue hissues hdue, State.issueCycle_of_stopDue hcheck hdue⟩

end Sys2Proof.Machine
end

section
/-! PROOFS. Writes to memory and what is beside them (R105, R170 to R172, R200, R210, R314): a sequence of writes as a fold over the cells
it writes, and what corrections of single-bit errors and the landing buffer leave alone. -/

namespace Sys2Proof.Machine

open Sys2Proof

/-! ### Folds of writes to cells -/

section
variable {σ β κ ν : Type} {step : σ → β → σ} {read : σ → κ → ν} {key : β → κ} {ok : σ → Prop}
  (hok : ∀ s b, ok s → ok (step s b)) (hother : ∀ s b k, ok s → key b ≠ k → read (step s b) k = read s k)
include hok hother

/-- A cell that no step is about keeps its value. -/
theorem foldl_writes_other {l : List β} {s : σ} {k : κ} (hs : ok s) (hk : ∀ b ∈ l, key b ≠ k) :
    read (l.foldl step s) k = read s k := by
  induction l generalizing s with
  | nil => rfl
  | cons b l ih =>
    rw [List.foldl_cons, ih (hok s b hs) fun a ha => hk a (List.mem_cons_of_mem b ha), hother s b k hs (hk b List.mem_cons_self)]

/-- Where no two steps are about one cell, a step's value stays. -/
theorem foldl_writes_written {l : List β} {s : σ} {b : β} {v : ν} (hs : ok s) (hnodup : (l.map key).Nodup) (hb : b ∈ l)
    (hwrites : ∀ s, ok s → read (step s b) (key b) = v) : read (l.foldl step s) (key b) = v := by
  induction l generalizing s with
  | nil => exact absurd hb List.not_mem_nil
  | cons a l ih =>
    obtain ⟨hnot, hrest⟩ := List.nodup_cons.mp hnodup
    rw [List.foldl_cons]
    obtain rfl | hb := List.mem_cons.mp hb
    · rw [foldl_writes_other hok hother (hok s b hs) fun c hc heq => hnot (List.mem_map.mpr ⟨c, hc, heq⟩)]
      exact hwrites s hs
    · exact ih (hok s a hs) hrest hb

end

/-! ### The ways that move (R200) -/

/-- What a core has of the movement of its ways. -/
def Core.motion (c : Core) : List Cresize × Option Cresize × Nat := (c.cresizes, c.resized, c.ctx.lag)

theorem State.inMotion_congr {s t : State} (hclock : t.clock = s.clock) (hsoon : t.soon = s.soon)
    (hcores : ∀ id, (t.core id).motion = (s.core id).motion) (pa : Nat) : t.inMotion pa = s.inMotion pa := by
  obtain ⟨hcresizes, hresized, hlag⟩ : (t.core (paCore pa)).cresizes = (s.core (paCore pa)).cresizes ∧
      (t.core (paCore pa)).resized = (s.core (paCore pa)).resized ∧ (t.core (paCore pa)).ctx.lag = (s.core (paCore pa)).ctx.lag := by
    simpa [Core.motion] using hcores (paCore pa)
  have hnow : t.cresizeNow (paCore pa) = s.cresizeNow (paCore pa) := by
    funext r
    simp only [State.cresizeNow, State.timeline, hclock, hlag]
  simp only [State.inMotion, State.movers, hcresizes, hresized, hnow, hsoon]

/-- Correcting single-bit errors keeps of a core all that their count does not change (R210). -/
theorem State.core_correct_keeps {γ : Type} (g : Core → γ) (hg : ∀ c vault row, g (Core.countFix c vault row) = g c) (s : State)
    (pas : List Nat) (id : CoreId) : g ((s.correct pas).core id) = g (s.core id) := by
  refine foldl_keeps (fun t : State => g (t.core id)) _ (fun t w => ?_) _ s
  change g ((t.modCore (paCore (8 * w)) fun c => c.countFix (paSpace (8 * w) == 0) (wordRow w)).core id) = g (t.core id)
  by_cases h : id = paCore (8 * w)
  · subst h
    rw [State.core_modCore_self, hg]
  · rw [State.core_modCore_other _ _ _ _ h]

/-- Beside the cores and the single-bit errors, a correction changes nothing (R210). -/
theorem State.correct_eq (s : State) (pas : List Nat) : ∃ cs sf, s.correct pas = { s with cores := cs, soft := sf } := by
  rw [State.correct]
  generalize s.soft.filter _ = l
  induction l generalizing s with
  | nil => exact ⟨_, _, rfl⟩
  | cons w l ih =>
    obtain ⟨cs, sf, h⟩ := ih { s.modCore (paCore (8 * w)) (fun c => c.countFix (paSpace (8 * w) == 0) (wordRow w)) with
      soft := s.soft.filter (· != w) }
    exact ⟨cs, sf, h⟩

theorem State.inMotion_correct (s : State) (pas : List Nat) (pa : Nat) : (s.correct pas).inMotion pa = s.inMotion pa := by
  obtain ⟨cs, sf, h⟩ := s.correct_eq pas
  exact State.inMotion_congr (by rw [h]) (by rw [h]) (State.core_correct_keeps Core.motion (fun _ _ _ => rfl) s pas) pa

theorem State.inMotion_writeByteAs (s : State) (c : CoreId) (atom : Bool) (w : ByteWrite) (pa : Nat) :
    (s.writeByteAs c atom w).inMotion pa = s.inMotion pa := by
  rw [State.writeByteAs]
  split <;> rfl

/-! ### Bytes written (R105, R170, R200) -/

/-- A state with canonical memory in which the ways move that move in s. -/
def State.Writable (s t : State) : Prop := t.mem.wf = true ∧ ∀ pa, t.inMotion pa = s.inMotion pa

theorem State.get_writeByteAs {s : State} (c : CoreId) (atom : Bool) (w : ByteWrite) (pa : Nat) (hwf : s.mem.wf = true) :
    (s.writeByteAs c atom w).mem.get pa = if w.pa = pa ∧ s.inMotion pa = false then w.val else s.mem.get pa := by
  rw [State.writeByteAs]
  split
  · next hm =>
    rw [if_neg]
    rintro ⟨rfl, hstill⟩
    exact Bool.false_ne_true (hstill.symm.trans hm)
  · next hm =>
    have hwrite := Mem.get_set w.pa pa w.val hwf
    by_cases hpa : w.pa = pa
    · subst hpa
      rw [if_pos ⟨rfl, Bool.eq_false_iff.mpr hm⟩]
      exact hwrite.trans (if_pos rfl)
    · rw [if_neg fun h => hpa h.1]
      exact hwrite.trans (if_neg (Ne.symm hpa))

theorem State.get_writeByteAs_other {s : State} {c : CoreId} {atom : Bool} {w : ByteWrite} {pa : Nat} (hwf : s.mem.wf = true)
    (h : w.pa ≠ pa) : (s.writeByteAs c atom w).mem.get pa = s.mem.get pa :=
  (State.get_writeByteAs c atom w pa hwf).trans (if_neg fun hw => h hw.1)

theorem State.Writable.writeByteAs {s t : State} (h : s.Writable t) (c : CoreId) (atom : Bool) (w : ByteWrite) :
    s.Writable (t.writeByteAs c atom w) := by
  obtain ⟨hwf, hmotion⟩ := h
  exact ⟨State.writeByteAs_wf t c atom w hwf, fun pa => (t.inMotion_writeByteAs c atom w pa).trans (hmotion pa)⟩

theorem State.get_writeAs_other {s : State} {c : CoreId} {ws : List ByteWrite} {pa : Nat} (hwf : s.mem.wf = true)
    (h : ∀ w ∈ ws, w.pa ≠ pa) : (s.writeAs c ws).mem.get pa = s.mem.get pa :=
  foldl_writes_other (read := fun t => t.mem.get) (ok := s.Writable) (fun _ w ht => ht.writeByteAs c false w)
    (fun _ _ _ ht => State.get_writeByteAs_other ht.1) ⟨hwf, fun _ => rfl⟩ h

theorem State.get_writeAs_written {s : State} {c : CoreId} {ws : List ByteWrite} {w : ByteWrite} (hwf : s.mem.wf = true)
    (hnodup : (ws.map ByteWrite.pa).Nodup) (hw : w ∈ ws) (hmotion : s.inMotion w.pa = false) :
    (s.writeAs c ws).mem.get w.pa = w.val :=
  foldl_writes_written (read := fun t => t.mem.get) (ok := s.Writable) (fun _ w ht => ht.writeByteAs c false w)
    (fun _ _ _ ht => State.get_writeByteAs_other ht.1) ⟨hwf, fun _ => rfl⟩ hnodup hw
    fun _ ht => (State.get_writeByteAs c false w w.pa ht.1).trans (if_pos ⟨rfl, (ht.2 w.pa).trans hmotion⟩)

theorem State.core_writeAs (s : State) (c : CoreId) (ws : List ByteWrite) (id : CoreId) : (s.writeAs c ws).core id = s.core id := by
  refine State.core_congr (foldl_keeps State.cores (fun (t : State) w => t.writeByteAs c false w) (fun t w => ?_) ws s) id
  simp only [State.writeByteAs]
  split <;> rfl

/-! ### The bytes of a store's elements (R105, R170) -/

theorem mem_pasFrom {a pa n : Nat} : a ∈ pasFrom pa n ↔ pa ≤ a ∧ a < pa + n := by
  simp only [pasFrom, List.mem_map, List.mem_range]
  exact ⟨by rintro ⟨i, hi, rfl⟩; omega, fun h => ⟨a - pa, by omega⟩⟩

theorem nodup_pasFrom (pa n : Nat) : (pasFrom pa n).Nodup := List.nodup_range.map fun _ _ h => Nat.add_left_cancel h

theorem map_pa_bytesAt (pa va : Nat) (bs : List Byte) : (bytesAt pa va bs).map ByteWrite.pa = pasFrom pa bs.length := by
  induction bs generalizing pa va with
  | nil => rfl
  | cons b bs ih => rw [bytesAt, List.map_cons, ih, List.length_cons, pasFrom_succ]

theorem mem_bytesAt {pa va k : Nat} {bs : List Byte} {b : Byte} (h : bs[k]? = some b) : ⟨pa + k, va + k, b⟩ ∈ bytesAt pa va bs := by
  induction bs generalizing pa va k with
  | nil => simp at h
  | cons c bs ih =>
    rw [bytesAt]
    cases k with
    | zero => simp_all
    | succ k =>
      have := ih (pa := pa + 1) (va := va + 1) (k := k) (by simpa using h)
      rw [show pa + (k + 1) = pa + 1 + k by omega, show va + (k + 1) = va + 1 + k by omega]
      exact List.mem_cons_of_mem _ this

theorem exists_el_of_mem_elBytesAt {els : List El} {bs : List Byte} {a : Nat} (h : a ∈ (elBytesAt els bs).map ByteWrite.pa) :
    ∃ e ∈ els, e.pa ≤ a ∧ a < e.pa + e.z := by
  induction els generalizing bs with
  | nil => exact absurd h List.not_mem_nil
  | cons e els ih =>
    rw [elBytesAt, List.map_append, map_pa_bytesAt, List.mem_append, mem_pasFrom, List.length_take] at h
    obtain h | h := h
    · exact ⟨e, List.mem_cons_self, by omega⟩
    · obtain ⟨f, hf, hrange⟩ := ih h
      exact ⟨f, List.mem_cons_of_mem e hf, hrange⟩

theorem nodup_pas_elBytesAt {els : List El} (h : els.Pairwise fun e f => e.pa + e.z ≤ f.pa ∨ f.pa + f.z ≤ e.pa) (bs : List Byte) :
    ((elBytesAt els bs).map ByteWrite.pa).Nodup := by
  induction els generalizing bs with
  | nil => exact List.nodup_nil
  | cons e els ih =>
    obtain ⟨hhead, htail⟩ := List.pairwise_cons.mp h
    rw [elBytesAt, List.map_append, map_pa_bytesAt, List.nodup_append']
    refine ⟨nodup_pasFrom _ _, ih htail _, fun a ha hmem => ?_⟩
    obtain ⟨f, hf, hrange⟩ := exists_el_of_mem_elBytesAt hmem
    have hapart := hhead f hf
    rw [mem_pasFrom, List.length_take] at ha
    omega

/-- Byte k of an element is the one behind those of the elements before it. -/
theorem mem_elBytesAt {before after : List El} {e : El} {bs : List Byte} {k : Nat} {b : Byte} (hk : k < e.z)
    (hb : bs[(before.map El.z).sum + k]? = some b) : ∃ va, ⟨e.pa + k, va, b⟩ ∈ elBytesAt (before ++ e :: after) bs := by
  induction before generalizing bs with
  | nil =>
    refine ⟨_, List.mem_append_left _ (mem_bytesAt ?_)⟩
    rw [List.getElem?_take_of_lt hk]
    simpa using hb
  | cons f before ih =>
    obtain ⟨va, hmem⟩ := ih (bs := bs.drop f.z) (by rw [List.getElem?_drop, ← Nat.add_assoc]; simpa using hb)
    exact ⟨va, List.mem_append_right _ hmem⟩

section
variable {s : State} {c : CoreId} {bs : List Byte} (hwf : s.mem.wf = true)
include hwf

/-- A store leaves the bytes outside its elements alone. -/
theorem State.get_writeAs_outside {els : List El} {pa : Nat} (hout : ∀ e ∈ els, pa < e.pa ∨ e.pa + e.z ≤ pa) :
    (s.writeAs c (elBytesAt els bs)).mem.get pa = s.mem.get pa := by
  refine State.get_writeAs_other hwf ?_
  rintro w hw rfl
  obtain ⟨e, he, hrange⟩ := exists_el_of_mem_elBytesAt (List.mem_map_of_mem hw)
  have := hout e he
  omega

/-- A store whose elements do not meet writes each of their bytes, unless its way moves. -/
theorem State.get_writeAs_element {before after : List El} {e : El} {k : Nat}
    (hapart : (before ++ e :: after).Pairwise fun e f => e.pa + e.z ≤ f.pa ∨ f.pa + f.z ≤ e.pa) (hk : k < e.z)
    (hi : (before.map El.z).sum + k < bs.length) (hstill : s.inMotion (e.pa + k) = false) :
    (s.writeAs c (elBytesAt (before ++ e :: after) bs)).mem.get (e.pa + k) = bs[(before.map El.z).sum + k]! := by
  have hbyte : bs[(before.map El.z).sum + k]? = some bs[(before.map El.z).sum + k]! := by
    rw [getElem!_pos bs _ hi, List.getElem?_eq_getElem hi]
  obtain ⟨va, hmem⟩ := mem_elBytesAt (after := after) hk hbyte
  exact State.get_writeAs_written hwf (nodup_pas_elBytesAt hapart bs) hmem hstill

end

/-! ### Nibbles (R172) -/

/-- The upper nibble of a byte, or the lower. -/
def Byte.half (b : Byte) (hi : Bool) : Nat := if hi then b.toNat / 16 else b.toNat % 16

/-- The address and half of a byte that a nibble of STN goes to. -/
def nibbleKey (p : El × Bool × BitVec 4) : Nat × Bool := (p.1.pa, p.2.1)

/-- One nibble of STN in its turn. -/
def State.mergeAt (s : State) (p : El × Bool × BitVec 4) : State := s.mergeNibble p.1 p.2.1 p.2.2

/-- A byte with one nibble replaced. -/
def mergedByte (old : Byte) (hi : Bool) (v : BitVec 4) : Byte :=
  BitVec.ofNat 8 (if hi then old.toNat % 16 + v.toNat * 16 else old.toNat / 16 * 16 + v.toNat)

theorem half_mergedByte (old : Byte) (hi q : Bool) (v : BitVec 4) :
    Byte.half (mergedByte old hi v) q = if hi = q then v.toNat else Byte.half old q := by
  have hold := old.isLt
  have hv := v.isLt
  cases hi <;> cases q <;>
    simp only [Byte.half, mergedByte, BitVec.toNat_ofNat, if_true, Bool.false_eq_true, Bool.true_eq_false, if_false] <;> omega

theorem State.mergeAt_eq (s : State) (p : El × Bool × BitVec 4) : s.mergeAt p =
    ((s.correct [p.1.pa]).writeByteAs (s.correct [p.1.pa]).cur true
      ⟨p.1.pa, p.1.va.toNat, mergedByte ((s.correct [p.1.pa]).byteAt p.1.pa) p.2.1 p.2.2⟩).freshen
        [⟨p.1.pa, p.1.va.toNat, mergedByte ((s.correct [p.1.pa]).byteAt p.1.pa) p.2.1 p.2.2⟩] := rfl

theorem State.Writable.mergeAt {s t : State} (h : s.Writable t) (p : El × Bool × BitVec 4) : s.Writable (t.mergeAt p) := by
  obtain ⟨hwf, hmotion⟩ := h
  have hcorrect : s.Writable (t.correct [p.1.pa]) :=
    ⟨by rwa [State.mem_correct], fun pa => (t.inMotion_correct _ pa).trans (hmotion pa)⟩
  rw [State.mergeAt_eq]
  exact hcorrect.writeByteAs _ _ _

/-- The byte that a nibble goes to is merged, unless its way moves. -/
theorem State.get_mergeAt {s : State} (hwf : s.mem.wf = true) (p : El × Bool × BitVec 4) (pa : Nat) :
    (s.mergeAt p).mem.get pa =
      if p.1.pa = pa ∧ s.inMotion pa = false then mergedByte (s.mem.get pa) p.2.1 p.2.2 else s.mem.get pa := by
  rw [State.mergeAt_eq, State.mem_freshen, State.get_writeByteAs _ _ _ _ (by rwa [State.mem_correct]), State.inMotion_correct,
    State.mem_correct]
  refine ite_congr rfl ?_ fun _ => rfl
  rintro ⟨rfl, hstill⟩
  rw [State.byteAt, State.inMotion_correct, hstill, State.mem_correct]
  rfl

theorem State.half_mergeAt_other {s : State} (hwf : s.mem.wf = true) {p : El × Bool × BitVec 4} {q : Nat × Bool}
    (hq : nibbleKey p ≠ q) : Byte.half ((s.mergeAt p).mem.get q.1) q.2 = Byte.half (s.mem.get q.1) q.2 := by
  rw [State.get_mergeAt hwf]
  split
  · next h => rw [half_mergedByte, if_neg fun hhalf : p.2.1 = q.2 => hq (Prod.ext h.1 hhalf)]
  · rfl

theorem State.half_mergeAt_self {s : State} (hwf : s.mem.wf = true) {p : El × Bool × BitVec 4} (hstill : s.inMotion p.1.pa = false) :
    Byte.half ((s.mergeAt p).mem.get p.1.pa) p.2.1 = p.2.2.toNat := by
  rw [State.get_mergeAt hwf, if_pos ⟨rfl, hstill⟩, half_mergedByte, if_pos rfl]

/-- A nibble that STN does not name keeps its value. -/
theorem State.half_foldl_mergeAt_other {s : State} (hwf : s.mem.wf = true) {l : List (El × Bool × BitVec 4)} {pa : Nat} {hi : Bool}
    (h : ∀ p ∈ l, ¬ (p.1.pa = pa ∧ p.2.1 = hi)) :
    Byte.half ((l.foldl State.mergeAt s).mem.get pa) hi = Byte.half (s.mem.get pa) hi :=
  foldl_writes_other (read := fun t q => Byte.half (t.mem.get q.1) q.2) (ok := s.Writable) (k := (pa, hi))
    (fun _ p ht => ht.mergeAt p) (fun _ _ _ ht hq => State.half_mergeAt_other ht.1 hq) ⟨hwf, fun _ => rfl⟩
    fun p hp heq => h p hp (Prod.mk.inj heq)

/-- Where no nibble is named twice, each takes its value, unless its way moves. -/
theorem State.half_foldl_mergeAt_written {s : State} (hwf : s.mem.wf = true) {l : List (El × Bool × BitVec 4)}
    (hnodup : (l.map nibbleKey).Nodup) {p : El × Bool × BitVec 4} (hp : p ∈ l) (hstill : s.inMotion p.1.pa = false) :
    Byte.half ((l.foldl State.mergeAt s).mem.get p.1.pa) p.2.1 = p.2.2.toNat :=
  foldl_writes_written (read := fun t q => Byte.half (t.mem.get q.1) q.2) (ok := s.Writable)
    (fun _ p ht => ht.mergeAt p) (fun _ _ _ ht hq => State.half_mergeAt_other ht.1 hq) ⟨hwf, fun _ => rfl⟩ hnodup hp
    fun _ ht => State.half_mergeAt_self ht.1 ((ht.2 p.1.pa).trans hstill)

/-! ### The landing buffer (R314) -/

/-- Leaving the landing buffer changes no more than a core. -/
theorem State.unbuffer_eq (s : State) (pas : List Nat) : ∃ cs, s.unbuffer pas = { s with cores := cs } := by
  cases pas with
  | nil => exact ⟨_, rfl⟩
  | cons pa _ =>
    simp only [State.unbuffer, State.leaveBuffer]
    split
    · exact ⟨_, rfl⟩
    · exact ⟨_, rfl⟩

theorem State.core_unbuffer (s : State) (pas : List Nat) (id : CoreId) :
    ∃ l, (s.unbuffer pas).core id = { s.core id with landing := l } := by
  cases pas with
  | nil => exact ⟨_, rfl⟩
  | cons pa _ =>
    simp only [State.unbuffer, State.leaveBuffer]
    split
    · by_cases h : id = paCore pa
      · subst h
        exact ⟨_, State.core_modCore_self _ _ _⟩
      · exact ⟨_, State.core_modCore_other _ _ _ _ h⟩
    · exact ⟨_, rfl⟩

section
variable (s : State) (pas : List Nat)

@[simp] theorem State.cur_unbuffer : (s.unbuffer pas).cur = s.cur := by
  obtain ⟨cs, hu⟩ := s.unbuffer_eq pas
  rw [hu]

@[simp] theorem State.ord_unbuffer : (s.unbuffer pas).ord = s.ord := by
  obtain ⟨cs, hu⟩ := s.unbuffer_eq pas
  rw [hu]

@[simp] theorem State.mem_unbuffer : (s.unbuffer pas).mem = s.mem := by
  obtain ⟨cs, hu⟩ := s.unbuffer_eq pas
  rw [hu]

@[simp] theorem State.ledger_unbuffer : (s.unbuffer pas).ledger = s.ledger := by
  obtain ⟨cs, hu⟩ := s.unbuffer_eq pas
  rw [hu]

@[simp] theorem State.agenda_unbuffer : (s.unbuffer pas).agenda = s.agenda := by
  obtain ⟨cs, hu⟩ := s.unbuffer_eq pas
  rw [hu]

@[simp] theorem State.away_unbuffer : (s.unbuffer pas).away = s.away := by
  obtain ⟨cs, hu⟩ := s.unbuffer_eq pas
  rw [hu]

@[simp] theorem State.ctx_unbuffer (id : CoreId) : ((s.unbuffer pas).core id).ctx = (s.core id).ctx := by
  obtain ⟨l, hl⟩ := s.core_unbuffer pas id
  rw [hl]

@[simp] theorem State.badEl_unbuffer (els : List El) : (s.unbuffer pas).badEl els = s.badEl els := by
  obtain ⟨cs, hu⟩ := s.unbuffer_eq pas
  rw [hu]
  rfl

@[simp] theorem State.inMotion_unbuffer (pa : Nat) : (s.unbuffer pas).inMotion pa = s.inMotion pa := by
  obtain ⟨cs, hu⟩ := s.unbuffer_eq pas
  refine State.inMotion_congr (by rw [hu]) (by rw [hu]) (fun id => ?_) pa
  obtain ⟨l, hl⟩ := s.core_unbuffer pas id
  rw [hl]
  rfl

end

end Sys2Proof.Machine
end

section
/-! PROOFS. Accesses perform (R104, R105, R154, R156, R158, R165, R313): what a load reads, what of it arrives at a core, and the statement
on accesses. -/

namespace Sys2Proof.Machine

open Sys2Proof

theorem exec_accessPerform_eq (s : State) : exec .accessPerform s = execAccessPerform s := rfl

/-! ### What a load reads (R105, R154, R210) -/

/-- No element of an access whose bytes are good is bad. -/
theorem State.badEl_eq_none {s : State} {a : Access} (h : s.poisoned a.pas = false) : s.badEl a.els = none := by
  refine List.find?_eq_none.mpr fun e he hbad => ?_
  obtain ⟨pa, hpa, hpoison⟩ := List.any_eq_true.mp hbad
  exact Bool.false_ne_true (h.symm.trans (List.any_eq_true.mpr ⟨pa, List.mem_flatMap.mpr ⟨e, he, hpa⟩, hpoison⟩))

/-- Where no write is on record and no way moves, a core reads what memory holds. -/
theorem State.readAs_eq_map {s : State} (c : CoreId) {pas : List Nat} (hledger : s.ledger = [])
    (hmotion : ∀ pa ∈ pas, s.inMotion pa = false) : s.readAs c pas = pas.map s.mem.get :=
  List.map_congr_left fun pa hpa => by simp [hmotion pa hpa, State.readByteAs, hledger]

/-- Beside the cores and the single-bit errors, a read changes nothing (R210, R243). -/
theorem State.noteRead_eq (s : State) (id : CoreId) (pas : List Nat) :
    ∃ cs sf, s.noteRead id pas = { s with cores := cs, soft := sf } := by
  obtain ⟨cs, sf, h⟩ := s.correct_eq pas
  simp only [State.noteRead, h]
  split
  · exact ⟨_, _, rfl⟩
  · exact ⟨_, _, rfl⟩

/-- The state in which a load's bytes have been read. -/
def State.afterRead (s : State) (a : Access) : State := (s.unbuffer a.pas).noteRead s.cur a.pas

section
variable (s : State) (a : Access)

@[simp] theorem State.mem_afterRead : (s.afterRead a).mem = s.mem := by
  rw [State.afterRead, State.mem_noteRead, State.mem_unbuffer]

@[simp] theorem State.cur_afterRead : (s.afterRead a).cur = s.cur := by
  obtain ⟨cs, sf, h⟩ := (s.unbuffer a.pas).noteRead_eq s.cur a.pas
  rw [State.afterRead, h]
  exact s.cur_unbuffer _

@[simp] theorem State.ord_afterRead : (s.afterRead a).ord = s.ord := by
  obtain ⟨cs, sf, h⟩ := (s.unbuffer a.pas).noteRead_eq s.cur a.pas
  rw [State.afterRead, h]
  exact s.ord_unbuffer _

@[simp] theorem State.agenda_afterRead : (s.afterRead a).agenda = s.agenda := by
  obtain ⟨cs, sf, h⟩ := (s.unbuffer a.pas).noteRead_eq s.cur a.pas
  rw [State.afterRead, h]
  exact s.agenda_unbuffer _

@[simp] theorem State.away_afterRead : (s.afterRead a).away = s.away := by
  obtain ⟨cs, sf, h⟩ := (s.unbuffer a.pas).noteRead_eq s.cur a.pas
  rw [State.afterRead, h]
  exact s.away_unbuffer _

theorem State.ctx_afterRead : ∃ k, ((s.afterRead a).core s.cur).ctx = { s.me.ctx with copy := k } := by
  obtain ⟨k, h⟩ := State.ctx_noteRead (s.unbuffer a.pas) s.cur a.pas
  exact ⟨k, h.trans (by rw [State.ctx_unbuffer]; rfl)⟩

@[simp] theorem State.c_afterRead : ((s.afterRead a).core s.cur).ctx.c = s.me.ctx.c := by
  obtain ⟨k, h⟩ := s.ctx_afterRead a
  rw [h]

@[simp] theorem State.chan_afterRead : ((s.afterRead a).core s.cur).ctx.chan = s.me.ctx.chan := by
  obtain ⟨k, h⟩ := s.ctx_afterRead a
  rw [h]

end

/-! ### The event by its access (R104, R154, R156, R313) -/

/-- The kinds of access that read. -/
def AccKind.Loads (k : AccKind) : Prop := (∀ x, k ≠ .st x) ∧ ∀ x, k ≠ .stn x

section
variable {s : State} {a : Access} (harg : s.arg = .access a)
include harg

theorem exec_accessPerform_data {bs : List Byte} (hdata : a.data = some bs) :
    exec .accessPerform s = .next ((s.unbuffer a.pas).loadArrives a bs) := by
  simp only [exec_accessPerform_eq, execAccessPerform, harg, hdata]

section
variable (hdata : a.data = none)
include hdata

theorem exec_accessPerform_st {bs : List Byte} (hkind : a.kind = .st bs) :
    exec .accessPerform s = .next ((s.unbuffer a.pas).writeAs s.cur (elBytesAt a.els bs)) := by
  simp only [exec_accessPerform_eq, execAccessPerform, harg, hdata, hkind, State.cur_unbuffer]

theorem exec_accessPerform_stn {nibs : List (Bool × BitVec 4)} (hkind : a.kind = .stn nibs) :
    exec .accessPerform s = .next ((a.els.zip nibs).foldl State.mergeAt (s.unbuffer a.pas)) := by
  simp only [exec_accessPerform_eq, execAccessPerform, harg, hdata, hkind]
  rfl

theorem exec_accessPerform_bad {e : El} (hloads : a.kind.Loads) (hbad : s.badEl a.els = some e) :
    exec .accessPerform s = .next ((s.unbuffer a.pas).eccStop e a.pos) := by
  obtain ⟨hst, hstn⟩ := hloads
  cases hkind : a.kind with
  | st x => exact absurd hkind (hst x)
  | stn x => exact absurd hkind (hstn x)
  | _ => simp only [exec_accessPerform_eq, execAccessPerform, harg, hdata, hkind, State.badEl_unbuffer, hbad]

variable (hpoison : s.poisoned a.pas = false) (hledger : s.ledger = []) (hmotion : ∀ pa ∈ a.pas, s.inMotion pa = false)
include hpoison hledger hmotion

theorem exec_accessPerform_load (hloads : a.kind.Loads) :
    exec .accessPerform s = .next ((s.afterRead a).arrives .accessPerform (.access { a with data := some (a.pas.map s.mem.get) })
      fun t => t.loadArrives a (a.pas.map s.mem.get)).tick := by
  have hbytes : (s.unbuffer a.pas).readAs s.cur a.pas = a.pas.map s.mem.get := by
    rw [State.readAs_eq_map s.cur (by rwa [State.ledger_unbuffer]) (by simpa using hmotion), State.mem_unbuffer]
  obtain ⟨hst, hstn⟩ := hloads
  cases hkind : a.kind with
  | st x => exact absurd hkind (hst x)
  | stn x => exact absurd hkind (hstn x)
  | _ =>
    simp only [exec_accessPerform_eq, execAccessPerform, harg, hdata, hkind, State.badEl_unbuffer, State.badEl_eq_none hpoison,
      State.cur_unbuffer, hbytes]
    rfl

/-- At a core that is not stopped the data arrives at once. -/
theorem exec_accessPerform_load_home (hloads : a.kind.Loads) (haway : s.away = none) :
    exec .accessPerform s = .next ((s.afterRead a).loadArrives a (a.pas.map s.mem.get)).tick := by
  rw [exec_accessPerform_load harg hdata hpoison hledger hmotion hloads, State.arrives, State.away_afterRead, haway]

end

end

/-! ### Values of bytes (R67, R104, R158) -/

theorem length_lanesOfBytes (bs : List Byte) : (lanesOfBytes bs).length = bs.length / 4 := by
  induction bs using lanesOfBytes.induct with
  | case1 b0 b1 b2 b3 rest ih =>
    rw [lanesOfBytes, List.length_cons, ih]
    simp only [List.length_cons]
    omega
  | case2 bs hshort =>
    have hlt : bs.length < 4 := by
      match bs with
      | [] | [_] | [_, _] | [_, _, _] => simp
      | b0 :: b1 :: b2 :: b3 :: rest => exact absurd rfl (hshort b0 b1 b2 b3 rest)
    rw [lanesOfBytes.eq_2 bs hshort, Nat.div_eq_of_lt hlt]
    rfl

theorem lanesOfBytes_getElem? {bs : List Byte} {k : Nat} (h : 4 * k + 4 ≤ bs.length) :
    (lanesOfBytes bs)[k]? = some (BitVec.ofNat 32 (leNat ((bs.drop (4 * k)).take 4))) := by
  induction k generalizing bs with
  | zero =>
    match bs, h with
    | b0 :: b1 :: b2 :: b3 :: rest, _ => rfl
  | succ k ih =>
    match bs, h with
    | b0 :: b1 :: b2 :: b3 :: rest, h =>
      have hrest := ih (bs := rest) (by simp only [List.length_cons] at h; omega)
      simpa [lanesOfBytes, Nat.mul_add] using hrest

theorem leNat_append_zeros (bs : List Byte) (n : Nat) : leNat (bs ++ List.replicate n 0) = leNat bs := by
  induction bs with
  | nil =>
    induction n with
    | zero => rfl
    | succ n ih =>
      rw [List.nil_append, leNat] at ih
      rw [List.nil_append, List.replicate_succ, leNat, leNat, ih]
      rfl
  | cons b bs ih => rw [List.cons_append, leNat, leNat, ih]

/-- Zeros behind some bytes change no lane that is read from them. -/
theorem leNat_lane_append_zeros (bs : List Byte) (n k : Nat) :
    leNat (((bs ++ List.replicate n 0).drop k).take 4) = leNat ((bs.drop k).take 4) := by
  rw [List.drop_append, List.drop_replicate, List.take_append, List.take_replicate, leNat_append_zeros]

/-- Lane i of a vector with the given bytes, 0 where there are none. -/
theorem vecOfBytes_getElem (bs : List Byte) (i : Fin 64) :
    (vecOfBytes bs)[i] = BitVec.ofNat 32 (leNat ((bs.drop (4 * i.val)).take 4)) := by
  rw [vecOfBytes, vecOfLanes, Fin.getElem_fin, Vector.getElem_ofFn, List.getD_eq_getElem?_getD,
    ← leNat_lane_append_zeros bs ((4 - bs.length % 4) % 4)]
  generalize hpadded : bs ++ List.replicate ((4 - bs.length % 4) % 4) 0 = padded
  have hlen : padded.length % 4 = 0 := by
    rw [← hpadded, List.length_append, List.length_replicate]
    omega
  by_cases h : 4 * i.val + 4 ≤ padded.length
  · rw [lanesOfBytes_getElem? h, Option.getD_some]
  · rw [List.getElem?_eq_none (by rw [length_lanesOfBytes]; dsimp only; omega), List.drop_eq_nil_of_le (by omega)]
    rfl

/-- The value of a scalar load, sign-extended by shifts. -/
theorem loadValue_eq {bs : List Byte} (hlen : bs.length ∈ [1, 2, 4, 8]) (signed : Bool) : loadValue bs signed =
    if signed then (BitVec.ofNat 64 (leNat bs) <<< (64 - 8 * bs.length)).sshiftRight (64 - 8 * bs.length)
    else BitVec.ofNat 64 (leNat bs) := by
  have hw : 0 < 8 * bs.length ∧ 8 * bs.length ≤ 64 := by
    simp only [List.mem_cons, List.not_mem_nil, or_false] at hlen
    omega
  rw [loadValue]
  refine ite_congr rfl (fun _ => ?_) fun _ => rfl
  generalize 8 * bs.length = w at hw
  refine BitVec.eq_of_getLsbD_eq fun i hi => ?_
  rw [signExt_eq_signExtend, BitVec.getLsbD_signExtend, BitVec.getLsbD_sshiftRight, BitVec.msb_eq_getLsbD_last,
    BitVec.msb_eq_getLsbD_last]
  simp only [BitVec.getLsbD_shiftLeft, BitVec.getLsbD_ofNat]
  by_cases hin : i < w
  · simp [hin, hi, show 64 - w + i < 64 by omega]
  · simp [hin, hi, hw.1, show ¬ 64 - w + i < 64 by omega, show ¬ 63 < 64 - w by omega, show ¬ 64 ≤ i by omega,
      show w - 1 < 64 by omega, show 63 - (64 - w) = w - 1 by omega]

/-! ### Lanes of a gather (R165) -/

/-- A vector with lanes taken in turn from bytes. -/
def fillVec (lanes : List Nat) (bs : List Byte) (v : Vec) : Vec :=
  (lanes.zip (lanesOfBytes bs)).foldl (fun (v : Vec) p => v.set! p.1 p.2) v

theorem getElem?_set!_other {v : Vec} {k j : Nat} {x : Lane} (h : k ≠ j) : (v.set! k x)[j]? = v[j]? := by
  simp [Vector.set!_eq_setIfInBounds, h]

theorem fillVec_other (lanes : List Nat) (bs : List Byte) (v : Vec) {i : Fin 64} (h : i.val ∉ lanes) :
    (fillVec lanes bs v)[i] = v[i] := by
  have hcell : (fillVec lanes bs v)[i.val]? = v[i.val]? :=
    foldl_writes_other (read := fun (v : Vec) (k : Nat) => v[k]?) (key := Prod.fst) (ok := fun _ => True) (fun _ _ _ => trivial)
      (fun _ _ _ _ hne => getElem?_set!_other hne) trivial fun p hp heq => h (heq ▸ (List.of_mem_zip hp).1)
  simpa using hcell

theorem fillVec_lane {lanes : List Nat} {bs : List Byte} (v : Vec) {i : Fin 64} {k : Nat} (hnodup : lanes.Nodup)
    (hlen : bs.length = 4 * lanes.length) (hk : lanes[k]? = some i.val) :
    (fillVec lanes bs v)[i] = BitVec.ofNat 32 (leNat ((bs.drop (4 * k)).take 4)) := by
  have hlt : k < lanes.length := (List.getElem?_eq_some_iff.mp hk).1
  have hlane := lanesOfBytes_getElem? (bs := bs) (k := k) (by omega)
  have hmem : (i.val, BitVec.ofNat 32 (leNat ((bs.drop (4 * k)).take 4))) ∈ lanes.zip (lanesOfBytes bs) := by
    refine List.mem_of_getElem? (i := k) ?_
    rw [List.getElem?_zip_eq_some]
    exact ⟨hk, hlane⟩
  have hkeys : ((lanes.zip (lanesOfBytes bs)).map Prod.fst).Nodup := by
    rwa [List.map_fst_zip (by rw [length_lanesOfBytes]; omega)]
  have hcell : (fillVec lanes bs v)[i.val]? = some (BitVec.ofNat 32 (leNat ((bs.drop (4 * k)).take 4))) :=
    foldl_writes_written (read := fun (v : Vec) (k : Nat) => v[k]?) (key := Prod.fst) (ok := fun _ => True) (fun _ _ _ => trivial)
      (fun _ _ _ _ hne => getElem?_set!_other hne) trivial hkeys hmem fun u _ => by
        simp [Vector.set!_eq_setIfInBounds]
  simpa using hcell

/-- Where every element of an access has four bytes, those of one of them come in its turn. -/
theorem lane_bytes_of_els {els : List El} (hz : ∀ e ∈ els, e.z = 4) {k : Nat} {e : El} (hk : els[k]? = some e) :
    ((els.flatMap El.pas).drop (4 * k)).take 4 = e.pas := by
  induction els generalizing k with
  | nil => simp at hk
  | cons f els ih =>
    have hf : f.pas.length = 4 := by
      rw [El.pas, pasFrom, List.length_map, List.length_range, hz f List.mem_cons_self]
    rw [List.flatMap_cons]
    cases k with
    | zero =>
      obtain rfl : f = e := by simpa using hk
      rw [Nat.mul_zero, List.drop_zero, List.take_left' hf]
    | succ k =>
      rw [Nat.mul_add, Nat.add_comm, ← List.drop_drop, mul_one, List.drop_left' hf]
      exact ih (fun e he => hz e (List.mem_cons_of_mem f he)) (by simpa using hk)

/-! ### What arrives at a core (R16, R114, R158, R165) -/

theorem Core.c_modChan (c : Core) (ch : Nat) (f : List ChanEntry → List ChanEntry) : (c.modChan ch f).ctx.c = c.ctx.c := by
  rw [Core.modChan]
  split <;> rfl

theorem Core.chan_modChan (c : Core) (ch k : Fin 18) (f : List ChanEntry → List ChanEntry) :
    (c.modChan ch.val f).ctx.chan[k] = if ch = k then f c.ctx.chan[ch] else c.ctx.chan[k] := by
  rw [Core.modChan_fin, Core.chan_setChan]

section
variable (s : State) {a : Access} (bs : List Byte)

theorem State.mem_loadArrives (a : Access) : (s.loadArrives a bs).mem = s.mem := by
  rw [State.loadArrives]
  split <;> rfl

theorem State.c_loadArrives {d : Option (Fin 32)} {chan : Option (Nat × Nat)} {signed : Bool} (hkind : a.kind = .ldC d chan signed) :
    ((s.loadArrives a bs).core s.cur).ctx.c = (s.core s.cur).ctx.c.land (loadValue bs signed) d := by
  simp only [State.loadArrives, hkind, State.core_modCore_self]
  cases chan with
  | none => rfl
  | some p => exact Core.c_modChan _ _ _

theorem State.chan_loadArrives_ldQ {ch : Fin 18} {id : Nat} (hkind : a.kind = .ldQ ch.val id) (k : Fin 18) :
    ((s.loadArrives a bs).core s.cur).ctx.chan[k] = if ch = k
      then (s.core s.cur).ctx.chan[ch].map fun e => if e.id = id then { e with v := vecOfBytes bs, landed := true } else e
      else (s.core s.cur).ctx.chan[k] := by
  simp only [State.loadArrives, hkind, State.core_modCore_self]
  exact Core.chan_modChan _ _ _ _

theorem State.chan_loadArrives_ldG {ch : Fin 18} {id : Nat} {lanes : List Nat} {whole : Bool}
    (hkind : a.kind = .ldG ch.val id lanes whole) (k : Fin 18) :
    ((s.loadArrives a bs).core s.cur).ctx.chan[k] = if ch = k
      then (s.core s.cur).ctx.chan[ch].map fun e =>
        if e.id = id then { e with v := fillVec lanes bs e.v, landed := e.cb.isNone && !s.lanesPending ch.val id } else e
      else (s.core s.cur).ctx.chan[k] := by
  simp only [State.loadArrives, hkind, State.core_modCore_self]
  exact Core.chan_modChan _ _ _ _

end

theorem State.lanesPending_congr {s t : State} (hagenda : t.agenda = s.agenda) (hcur : t.cur = s.cur) (ch id : Nat) :
    t.lanesPending ch id = s.lanesPending ch id := by
  rw [State.lanesPending, State.lanesPending, hagenda, hcur]

theorem CRegs.h_land_zero (r : CRegs) (v : Word) (d : Option (Fin 32)) : (r.land v d).h[0] = v := pushQ_zero r.h v

/-- Each lane of a gather of whole words takes the word of its element. -/
theorem fillVec_word {m : Mem} {lanes : List Nat} {els : List El} (v : Vec) {i : Fin 64} (hnodup : lanes.Nodup)
    (hlen : lanes.length = els.length) (hz : ∀ e ∈ els, e.z = 4) {p : Nat × El} (hp : p ∈ lanes.zip els) (hi : p.1 = i.val) :
    (fillVec lanes ((els.flatMap El.pas).map m.get) v)[i] = BitVec.ofNat 32 (m.num p.2.pa 4) := by
  obtain ⟨k, hk⟩ := List.mem_iff_getElem?.mp hp
  obtain ⟨hlane, hel⟩ := List.getElem?_zip_eq_some.mp hk
  have hbytes : ((els.flatMap El.pas).map m.get).length = 4 * lanes.length := by
    rw [List.length_map, List.length_flatMap, hlen, List.map_congr_left (g := fun _ => 4)]
    · simp [Nat.mul_comm]
    · intro e he
      rw [El.pas, pasFrom, List.length_map, List.length_range, hz e he]
  rw [fillVec_lane v hnodup hbytes (hi ▸ hlane), ← List.map_drop, ← List.map_take, lane_bytes_of_els hz hel, El.pas,
    hz p.2 (List.mem_of_getElem? hel), ← Mem.read_eq_map, Mem.num]

/-! ### The statement -/

/-- Settles O35: a store is a fold of writes to its cells, a load's bytes are what memory holds, and the lemmas above say what arrives. -/
theorem accessesPerform : Obligations.AccessesPerform := by
  unfold Obligations.AccessesPerform
  refine ⟨fun s a bs hok harg hkind hdata => ?store, fun s a nibs hok harg hkind hdata => ?nibbles,
    fun s a harg hdata hpoison hledger hmotion => ?load, fun s a e harg hdata hst hstn hbad => ?bad,
    fun s a bs ch id harg hdata => ⟨fun hkind => ?queueAfter, fun lanes whole hkind hnodup hlen => ?gatherAfter⟩⟩
  case store =>
    obtain ⟨hwf, -, -⟩ := hok
    rw [← s.mem_unbuffer a.pas] at hwf
    refine ⟨_, exec_accessPerform_st harg hdata hkind, fun pa hout => ?_, fun hapart before e after hels k hk => ?_, ?_⟩
    · rw [State.get_writeAs_outside hwf hout, State.mem_unbuffer]
    · rw [hels] at hapart ⊢
      intro i hi hstill
      exact State.get_writeAs_element hwf hapart hk hi (by rwa [State.inMotion_unbuffer])
    · rw [State.core_writeAs, State.ctx_unbuffer]
      rfl
  case nibbles =>
    obtain ⟨hwf, -, -⟩ := hok
    rw [← s.mem_unbuffer a.pas] at hwf
    refine ⟨_, exec_accessPerform_stn harg hdata hkind, fun pa hi hout => ?_, fun hnodup p hp hstill => ?_⟩
    · exact (State.half_foldl_mergeAt_other hwf hout).trans (by rw [State.mem_unbuffer]; rfl)
    · exact State.half_foldl_mergeAt_written hwf hnodup hp (by rwa [State.inMotion_unbuffer])
  case load =>
    intro bs
    refine ⟨fun haway => ⟨fun d chan signed hkind hlen => ?scalar, fun ch id hkind => ?queue,
      fun ch id lanes whole hkind hnodup hlen hz => ?gather⟩, fun due haway hst hstn => ?away⟩
    case scalar =>
      have hexec := exec_accessPerform_load_home harg hdata hpoison hledger hmotion (hkind ▸ ⟨nofun, nofun⟩) haway
      have hc := (s.afterRead a).c_loadArrives bs hkind
      rw [State.cur_afterRead, State.c_afterRead, loadValue_eq hlen] at hc
      refine ⟨_, hexec, (State.mem_loadArrives _ _ a).trans (s.mem_afterRead a), ?_, fun r => ?_⟩
      · rw [State.core_tick, hc, CRegs.h_land_zero]
      · rw [State.core_tick, hc, CRegs.s_land]
    case queue =>
      have hexec := exec_accessPerform_load_home harg hdata hpoison hledger hmotion (hkind ▸ ⟨nofun, nofun⟩) haway
      have hchan := (s.afterRead a).chan_loadArrives_ldQ bs hkind
      rw [State.cur_afterRead, State.chan_afterRead] at hchan
      refine ⟨_, vecOfBytes bs, hexec, (State.mem_loadArrives _ _ a).trans (s.mem_afterRead a), ?_, fun k hk => ?_,
        vecOfBytes_getElem bs⟩
      · exact (hchan ch).trans (if_pos rfl)
      · exact (hchan k).trans (if_neg hk.symm)
    case gather =>
      have hexec := exec_accessPerform_load_home harg hdata hpoison hledger hmotion (hkind ▸ ⟨nofun, nofun⟩) haway
      have hchan := (s.afterRead a).chan_loadArrives_ldG bs hkind
      rw [State.cur_afterRead, State.chan_afterRead,
        State.lanesPending_congr (s.agenda_afterRead a) (s.cur_afterRead a)] at hchan
      refine ⟨_, fillVec lanes bs, hexec, (State.mem_loadArrives _ _ a).trans (s.mem_afterRead a), ?_, fun k hk => ?_,
        fun v i => ⟨fillVec_other lanes bs v, fun p hp hi => fillVec_word v hnodup hlen hz hp hi⟩⟩
      · exact (hchan ch).trans (if_pos rfl)
      · exact (hchan k).trans (if_neg hk.symm)
    case away =>
      have hexec := exec_accessPerform_load harg hdata hpoison hledger hmotion ⟨hst, hstn⟩
      rw [State.arrives, State.away_afterRead, haway] at hexec
      refine ⟨_, hexec, s.mem_afterRead a, s.chan_afterRead a, s.c_afterRead a, ?_⟩
      simp [bs]
  case bad =>
    refine ⟨s.unbuffer a.pas, s.mem_unbuffer _, s.cur_unbuffer _, State.ctx_unbuffer s _ _, ?_⟩
    rw [exec_accessPerform_bad harg hdata ⟨hst, hstn⟩ hbad, State.eccStop, State.cur_unbuffer]
  case queueAfter =>
    have hchan := (s.unbuffer a.pas).chan_loadArrives_ldQ bs hkind ch
    rw [State.cur_unbuffer, State.ctx_unbuffer, if_pos rfl] at hchan
    exact ⟨_, vecOfBytes bs, exec_accessPerform_data harg hdata, (State.mem_loadArrives _ _ a).trans (s.mem_unbuffer _), hchan,
      vecOfBytes_getElem bs⟩
  case gatherAfter =>
    have hchan := (s.unbuffer a.pas).chan_loadArrives_ldG bs hkind ch
    rw [State.cur_unbuffer, State.ctx_unbuffer, if_pos rfl] at hchan
    exact ⟨_, fillVec lanes bs, exec_accessPerform_data harg hdata, (State.mem_loadArrives _ _ a).trans (s.mem_unbuffer _),
      ⟨_, hchan⟩, fun v i => ⟨fillVec_other lanes bs v, fun k => fillVec_lane v hnodup hlen⟩⟩

end Sys2Proof.Machine
end

section
/-! PROOFS. The control instructions of X, L and S (R123, R152, R169): where a transfer goes outside joined lines, the stop within, and
the statement on them. -/

namespace Sys2Proof.Machine

open Sys2Proof

/-! ### An issue from what its checks come to -/

/-- A stop's TINFO is told as it is, but for OPERAND_EMPTY (R114). -/
theorem Core.report_trap {cause : Cause} (c : Core) (tinfo : Word) (h : cause ≠ .operandEmpty) :
    c.report (.trap cause tinfo) = .trap cause tinfo := by
  rw [Core.report]
  rintro _ ⟨⟩
  exact h rfl

section
variable {s : State} {cl : Cluster} {i : Instr} {f : State → Core → Except Stop IssueOut} (hexec : exec i s = issue cl f s)
include hexec

theorem issuesAs_of_ok {o : IssueOut} (hroomy : s.Roomy) (hf : f s s.me = .ok o) : IssuesAs cl i s o :=
  hexec.trans (issue_ok hf (hroomy.not_overfull o))

theorem issues_of_ok {c : Core} {reqs : List Req} (hroomy : s.Roomy) (hf : f s s.me = .ok (.plain c reqs)) : Issues cl i s c reqs :=
  issuesAs_of_ok hexec hroomy hf

theorem trapsAt_of_error {cause : Cause} {tinfo : Word} (hf : f s s.me = .error (.trap cause tinfo)) (h : cause ≠ .operandEmpty) :
    TrapsAt cl i s cause tinfo := by
  rw [TrapsAt, hexec, issue_error hf, Core.report_trap _ _ h]
  rfl

end

/-! ### Transfers of X, L and S -/

/-- Outside joined lines a transfer of any cluster is one to its label. -/
theorem branchApart_ok {c : Core} (cl : Cluster) (s : State) (taken : Bool) (t : Target) (reqs : List Req) (h : c.inJoined = false) :
    branchApart cl s c taken t reqs = .ok (transfer c taken (targetLine (c.lineOf cl) t) t.parcel.toNat reqs) := by
  simp only [branchApart, h, Bool.false_eq_true, if_false]
  cases taken <;> rfl

/-- In a joined line it is JOIN_FORM with reason 5 and the line's place in the group (R123). -/
theorem branchApart_joined {c : Core} {cl : Cluster} {k : Nat} (s : State) (taken : Bool) (t : Target) (reqs : List Req)
    (hk : (cl, k) ∈ lineClusters) (h : c.inJoined = true) :
    branchApart cl s c taken t reqs = .error (.trap .joinForm (joinInfo 5 k (c.lineOf cl / 4))) := by
  simp only [lineClusters, List.mem_cons, Prod.mk.injEq, List.not_mem_nil, or_false] at hk
  simp only [branchApart, h, if_true]
  obtain ⟨rfl, rfl⟩ | ⟨rfl, rfl⟩ | ⟨rfl, rfl⟩ | ⟨rfl, rfl⟩ := hk <;> rfl

section
variable {s : State} {cl : Cluster} {i : Instr} {f : State → Core → Except Stop IssueOut} {taken : Bool} {t : Target} {reqs : List Req}
  (hexec : exec i s = issue cl f s) (hf : f s s.me = branchApart cl s s.me taken t reqs)
include hexec hf

theorem apart_issues (hroomy : s.Roomy) (hapart : s.me.inJoined = false) :
    IssuesAs cl i s (transfer s.me taken (targetLine (s.me.lineOf cl) t) t.parcel.toNat reqs) :=
  issuesAs_of_ok hexec hroomy (hf.trans (branchApart_ok cl s taken t reqs hapart))

theorem apart_traps {k : Nat} (hk : (cl, k) ∈ lineClusters) (hjoined : s.me.inJoined = true) :
    TrapsAt cl i s .joinForm (joinInfo 5 k (s.me.lineOf cl / 4)) :=
  trapsAt_of_error hexec (hf.trans (branchApart_joined s taken t reqs hk hjoined)) (by decide)

end

/-! ### The statement -/

/-- Settles O26: each instruction is a transfer of its cluster under its own condition. -/
theorem apartTransfersIssue : Obligations.ApartTransfersIssue := by
  unfold Obligations.ApartTransfersIssue
  intro s t k n p hroomy
  have nop {cl i} (hexec : exec i s = issue cl (fun _ c => .ok (.plain c [])) s) : Issues cl i s s.me [] :=
    issues_of_ok hexec hroomy rfl
  refine ⟨nop rfl, nop rfl, nop rfl, fun hapart => ?apart, fun hjoined => ?joined⟩
  case apart =>
    have go {cl i f taken reqs} (hexec : exec i s = issue cl f s) (hf : f s s.me = branchApart cl s s.me taken t reqs) :=
      apart_issues hexec hf hroomy hapart
    exact ⟨go (rfl : _ = execXjmp t s) rfl, go (rfl : _ = execLjmp t s) rfl, go (rfl : _ = execSjmp t s) rfl,
      go (rfl : _ = execXbdec k t s) rfl, go (rfl : _ = execLbdec k t s) rfl, go (rfl : _ = execSbdec k t s) rfl,
      go (rfl : _ = execXloopset k n t s) rfl, go (rfl : _ = execLloopset k n t s) rfl,
      go (rfl : _ = execSloopset k n t s) rfl, go (rfl : _ = execXbany p t s) rfl, go (rfl : _ = execXbnone p t s) rfl⟩
  case joined =>
    have stop {cl i f taken reqs j} (hexec : exec i s = issue cl f s) (hf : f s s.me = branchApart cl s s.me taken t reqs)
        (hj : (cl, j) ∈ lineClusters) := apart_traps hexec hf hj hjoined
    exact ⟨stop (rfl : _ = execXjmp t s) rfl (by decide), stop (rfl : _ = execLjmp t s) rfl (by decide),
      stop (rfl : _ = execSjmp t s) rfl (by decide)⟩

end Sys2Proof.Machine
end

section
/-! PROOFS. The deferral queue and the accumulator tiles (R120, R148, R150, R151): what reads and reservations leave of a core, what each
instruction issues, the stop for an owned tile, and the statement on them. -/

namespace Sys2Proof.Machine

open Sys2Proof

theorem exec_defer_eq (a b : XSrc) (p : Fin 8) (s : State) : exec (.defer a b p) s = execDefer a b p s := rfl
theorem exec_drain_eq (vd : XDst) (sel : DrainSel) (s : State) : exec (.drain vd sel) s = execDrain vd sel s := rfl
theorem exec_dcount_eq (s : State) : exec .dcount s = execDcount s := rfl
theorem exec_dclear_eq (s : State) : exec .dclear s = execDclear s := rfl
theorem exec_accrd_eq (vd : XDst) (t : Fin 4) (row : BitVec 16) (p : Fin 8) (fmt : Fmt) (s : State) :
    exec (.accrd vd t row p fmt) s = execAccrd vd t row p fmt s := rfl
theorem exec_siderd_eq (vd : XDst) (t : Fin 4) (p : Fin 8) (sum : Bool) (s : State) :
    exec (.siderd vd t p sum) s = execSiderd vd t p sum s := rfl
theorem exec_accwr_eq (v : Fin 16) (t : Fin 4) (row : BitVec 16) (p : Fin 8) (fmt : Fmt) (s : State) :
    exec (.accwr v t row p fmt) s = execAccwr v t row p fmt s := rfl
theorem exec_accz_eq (t : Fin 4) (s : State) : exec (.accz t) s = execAccz t s := rfl

/-! ### Reads and reservations change a core's channels alone (R114, R116) -/

theorem pop_ok {c c1 : Core} {ch : Fin 18} {e : ChanEntry} (h : c.pop ch = .ok (e, c1)) : ∃ es, c1 = c.setChan ch es := by
  rw [Core.pop] at h
  split at h
  · split at h
    · obtain ⟨-, rfl⟩ := Prod.mk.inj (Except.ok.inj h)
      exact ⟨_, rfl⟩
    · cases h
  · cases h

theorem reserve_ok {c c1 : Core} {ch : Fin 18} {id : Nat} {m : Word} (h : c.reserve ch id m = .ok c1) :
    ∃ es, c1 = c.setChan ch es := by
  rw [Core.reserve] at h
  split at h
  · cases h
  · exact ⟨_, (Except.ok.inj h).symm⟩

/-- A core that differs from another in its channels alone. -/
def Core.ChansOf (c1 c : Core) : Prop := ∃ q, c1 = c.modCtx fun x => { x with chan := q }

theorem Core.chansOf_refl (c : Core) : c.ChansOf c := ⟨c.ctx.chan, rfl⟩

theorem Core.chansOf_setChan (c : Core) (ch : Fin 18) (es : List ChanEntry) : (c.setChan ch es).ChansOf c := ⟨_, rfl⟩

theorem readX_chansOf {w : Nat} {c c1 : Core} {a : XSrc} {x : Vec} (h : readX w c a = .ok (x, c1)) : c1.ChansOf c := by
  have popped {ch : Fin 18} {f : ChanEntry → Vec} (h : (do let (e, c1) ← c.pop ch; return (f e, c1)) = Except.ok (x, c1)) :
      c1.ChansOf c := by
    cases hpop : c.pop ch with
    | error e => rw [hpop] at h; cases h
    | ok r =>
      rw [hpop] at h
      obtain ⟨-, rfl⟩ := Prod.mk.inj (Except.ok.inj h)
      obtain ⟨es, hes⟩ := pop_ok hpop
      exact hes ▸ c.chansOf_setChan ch es
  cases a with
  | oq q => exact popped h
  | cq => exact popped (f := fun e => broadcast w (wordOfVec e.v)) h
  | v r | h k | zero | lane =>
    obtain ⟨-, rfl⟩ := Prod.mk.inj (Except.ok.inj h)
    exact c.chansOf_refl

theorem reserveX_chansOf {c c1 : Core} {seq : Nat} {d : XDst} {m : Word} (h : c.reserveX seq d m = .ok c1) : c1.ChansOf c := by
  rw [Core.reserveX] at h
  split at h
  · exact Except.ok.inj h ▸ c.chansOf_refl
  · obtain ⟨es, rfl⟩ := reserve_ok h
    exact c.chansOf_setChan _ es

section
variable {c c1 : Core} (h : c1.ChansOf c)
include h

theorem Core.ChansOf.x_eq : c1.ctx.x = c.ctx.x := by
  obtain ⟨q, rfl⟩ := h
  rfl

theorem Core.ChansOf.acc_eq : c1.ctx.acc = c.ctx.acc := by
  obtain ⟨q, rfl⟩ := h
  rfl

theorem Core.ChansOf.accFree_eq (t : Fin 4) : accFree c1 t = accFree c t := by
  obtain ⟨q, rfl⟩ := h
  rfl

end

/-! ### The deferral queue (R120, R148) -/

section
variable {s : State} {a b : XSrc} {x y : Vec} {c1 c2 : Core} (p : Fin 8) (ha : s.me.xsrcOk a = true) (hb : s.me.xsrcOk b = true)
  (hx : readX 32 s.me a = .ok (x, c1)) (hy : readX 32 c1 b = .ok (y, c2))
include ha hb hx hy

/-- DEFER appends the pairs of the active lanes where they find room. -/
theorem defer_issues (hroomy : s.Roomy) (hroom : c2.ctx.x.defq.length + (deferEntries (s.me.pred p) x y).length ≤ 512) :
    Issues .x (.defer a b p) s (c2.setDefq (c2.ctx.x.defq ++ deferEntries (s.me.pred p) x y)) [] := by
  refine issues_of_ok (exec_defer_eq _ _ _ _) hroomy ?_
  simp only [legal, ha, hb, hx, hy, Bool.and_self, if_true, bind, Except.bind, Nat.not_lt.mpr hroom, if_false]

theorem defer_traps (hfull : 512 < c2.ctx.x.defq.length + (deferEntries (s.me.pred p) x y).length) :
    TrapsAt .x (.defer a b p) s .deferFull
      (BitVec.ofNat 64 (c2.ctx.x.defq.length + (deferEntries (s.me.pred p) x y).length * 1024)) := by
  refine trapsAt_of_error (exec_defer_eq _ _ _ _) ?_ (by decide)
  simp only [legal, ha, hb, hx, hy, Bool.and_self, if_true, bind, Except.bind, hfull]

end

/-- A core from whose deferral queue a DRAIN has taken entries, or has read them alone (R148). -/
def Core.drained (c : Core) (sel : DrainSel) : Core := if sel = .take then c.setDefq (c.ctx.x.defq.drop 64) else c

theorem Core.defq_drained (c : Core) (sel : DrainSel) :
    (c.drained sel).ctx.x.defq = if sel = .take then c.ctx.x.defq.drop 64 else c.ctx.x.defq := by
  rw [Core.drained]
  split <;> rfl

theorem drain_issues {s : State} {vd : XDst} {c : Core} (sel : DrainSel) (hroomy : s.Roomy) (hvd : s.me.xdstOk vd = true)
    (hplace : s.me.reserveX s.seq vd (BitVec.allOnes 64) = .ok c) :
    Issues .x (.drain vd sel) s (c.drained sel) (landX s.seq vd 4 (BitVec.allOnes 64)
      (vecOfLanes ((s.me.ctx.x.defq.take 64).map fun (e : Word) =>
        if sel = .key then (e >>> 32).setWidth 32 else e.setWidth 32))) := by
  refine issues_of_ok (exec_drain_eq _ _ _) hroomy ?_
  simp only [legal, hvd, hplace, if_true, bind, Except.bind, pure, Except.pure, Core.drained, (reserveX_chansOf hplace).x_eq]

theorem dcount_issues {s : State} {c : Core} (h : ReadyXq s c) :
    Issues .x .dcount s c [landScalar chXq s.seq 1 (BitVec.ofNat 64 s.me.ctx.x.defq.length)] := by
  obtain ⟨hpresent, hroomy, hplace⟩ := h
  refine issues_of_ok (exec_dcount_eq _) hroomy ?_
  simp only [pushXq, legal, hpresent, hplace, if_true, bind, Except.bind, pure, Except.pure, List.nil_append]

/-! ### Accumulator tiles (R150, R151) -/

section
variable {s : State} {i : Instr} {vd : XDst} {t : Fin 4} {p : Fin 8} {width : Nat} {f : Tile → Vec} {c : Core}
  (hexec : exec i s = issue .x (tileRead vd t p width f) s) (hvd : s.me.xdstOk vd = true)
  (hplace : s.me.reserveX s.seq vd (s.me.pred p) = .ok c)
include hexec hvd hplace

/-- What a read of a tile that no matrix operation owns lands. -/
theorem tileRead_lands (hroomy : s.Roomy) (hfree : accFree s.me t = .ok ()) :
    ResultX i s c vd 8 (laneMask width (s.me.pred p)) (f s.me.ctx.acc[t]) := by
  have hkept := reserveX_chansOf hplace
  refine issues_of_ok hexec hroomy ?_
  simp only [tileRead, legal, hvd, hplace, hkept.accFree_eq, hkept.acc_eq, hfree, if_true, bind, Except.bind, pure, Except.pure]

theorem tileRead_traps {info : Word} (hbusy : accFree s.me t = .error (.trap .accBusy info)) : TrapsAt .x i s .accBusy info := by
  refine trapsAt_of_error hexec ?_ (by decide)
  simp only [tileRead, legal, hvd, hplace, (reserveX_chansOf hplace).accFree_eq, hbusy, if_true, bind, Except.bind]

end

/-- The lanes of single words are active as the predicate says (R118). -/
theorem laneMask_32 (m : Word) : laneMask 32 m = m := if_neg (by decide)

theorem siderd_lands {s : State} {vd : XDst} {t : Fin 4} {p : Fin 8} {c : Core} (sum : Bool) (hvd : s.me.xdstOk vd = true)
    (hplace : s.me.reserveX s.seq vd (s.me.pred p) = .ok c) (hroomy : s.Roomy) (hfree : accFree s.me t = .ok ()) :
    ResultX (.siderd vd t p sum) s c vd 8 (s.me.pred p) (if sum then s.me.ctx.acc[t].s else s.me.ctx.acc[t].m) := by
  have hlands := tileRead_lands (exec_siderd_eq vd t p sum s) hvd hplace hroomy hfree
  rwa [laneMask_32] at hlands

section
variable {s : State} {i : Instr} {t : Fin 4} {l : Core → Landing} (hexec : exec i s = issue .x (fun _ c => do
    accFree c t
    return .plain c [⟨2, none, true, .resultLanding, .landing (l c)⟩]) s)
include hexec

/-- A write of a tile that no matrix operation owns. -/
theorem tileWrite_issues (hroomy : s.Roomy) (hfree : accFree s.me t = .ok ()) :
    Issues .x i s s.me [⟨2, none, true, .resultLanding, .landing (l s.me)⟩] :=
  issues_of_ok hexec hroomy (by simp only [hfree, bind, Except.bind, pure, Except.pure])

theorem tileWrite_traps {info : Word} (hbusy : accFree s.me t = .error (.trap .accBusy info)) : TrapsAt .x i s .accBusy info :=
  trapsAt_of_error hexec (by simp only [hbusy, bind, Except.bind]) (by decide)

end

/-- The oldest matrix operation that owns a tile is the one that ACC_BUSY names (R151, R258). -/
theorem accFree_owned {c : Core} {t : Fin 4} {o : Own} {before after : List Own} (howns : c.ctx.mat.owns = before ++ o :: after)
    (htile : o.tile = t.val) (hat : o.at c.ctx.tau = true) (hbefore : ∀ b ∈ before, b.tile ≠ t.val ∨ b.at c.ctx.tau = false) :
    accFree c t = .error (.trap .accBusy (BitVec.ofNat 64 (t.val + o.seq.toNat * 2 ^ 32))) := by
  have hnone : (before.find? fun o => o.tile == t.val && o.at c.ctx.tau) = none := by
    rw [List.find?_eq_none]
    intro b hb hown
    obtain ⟨htile, hat⟩ := by simpa using hown
    obtain h | h := hbefore b hb
    · exact h htile
    · exact Bool.false_ne_true (h.symm.trans hat)
  simp only [accFree, howns, List.find?_append, hnone, List.find?_cons, htile, hat, beq_self_eq_true, Bool.and_self, Option.none_or]

/-! ### The statement -/

/-- Settles O25: DEFER, DRAIN and the tile accesses issue as the lemmas above say, or stop. -/
theorem deferralAndTilesIssue : Obligations.DeferralAndTilesIssue := by
  unfold Obligations.DeferralAndTilesIssue
  refine ⟨fun s a b p x y c1 c2 hroomy ha hb hx hy => ⟨fun hroom => ?defer, defer_traps p ha hb hx hy⟩,
    fun s vd c hroomy hvd hplace sel => ?drain, fun s c h => dcount_issues h,
    fun s hroomy => ⟨s.me.setDefq [], rfl, rfl, issues_of_ok (exec_dclear_eq s) hroomy rfl⟩,
    fun s vd t row p fmt sum c hroomy hfree => ?free,
    fun s t o before after vd row p fmt sum v c howns htile hat hbefore => ?owned⟩
  case defer =>
    have hregs : c2.ctx.x = s.me.ctx.x := (readX_chansOf hy).x_eq.trans (readX_chansOf hx).x_eq
    have hv : c2.ctx.x.v = s.me.ctx.x.v := congrArg XRegs.v hregs
    exact ⟨c2.setDefq (c2.ctx.x.defq ++ deferEntries (s.me.pred p) x y), rfl, hv, defer_issues p ha hb hx hy hroomy hroom⟩
  case drain =>
    refine ⟨_, ?_, drain_issues sel hroomy hvd hplace⟩
    rw [Core.defq_drained, (reserveX_chansOf hplace).x_eq]
  case free =>
    have hrow (hvd) (hplace : s.me.reserveX s.seq vd (s.me.pred p) = .ok c) :=
      tileRead_lands (exec_accrd_eq vd t row p fmt s) hvd hplace hroomy hfree
    have hwrite (v : Fin 16) := tileWrite_issues (exec_accwr_eq v t row p fmt s) hroomy hfree
    have hclear := tileWrite_issues (exec_accz_eq t s) hroomy hfree
    exact ⟨hrow, fun hvd hplace => siderd_lands sum hvd hplace hroomy hfree, hwrite, hclear⟩
  case owned =>
    have hbusy := accFree_owned howns htile hat hbefore
    exact ⟨tileWrite_traps (exec_accz_eq ..) hbusy, tileWrite_traps (exec_accwr_eq ..) hbusy,
      fun hvd hplace => ⟨tileRead_traps (exec_accrd_eq ..) hvd hplace hbusy, tileRead_traps (exec_siderd_eq ..) hvd hplace hbusy⟩⟩

end Sys2Proof.Machine
end

section
/-! PROOFS. The queue stores (R119, R157, R170, R172, R173): the addresses and updates of their forms, the accesses of the active
elements, the lowest active lane of an AHIST, and the statement on them. -/

namespace Sys2Proof.Machine

open Sys2Proof

theorem exec_stq_eq (sq : Fin 4) (b : Fin 16) (cl : Cls) (fmt : Fmt) (inc : Inc) (imm : BitVec 25) (s : State) :
    exec (.stq sq b cl fmt inc imm) s = execStq sq b cl fmt inc imm s := rfl
theorem exec_stqs_eq (sq : Fin 4) (b : Fin 16) (cl : Cls) (fmt : Fmt) (inc : SInc) (imm : BitVec 25) (s : State) :
    exec (.stqs sq b cl fmt inc imm) s = execStqs sq b cl fmt inc imm s := rfl
theorem exec_sgen_eq (sq : Fin 4) (b : Fin 16) (cl : Cls) (fmt : Fmt) (sp : Bool) (sg : Fin 7) (stride : BitVec 22) (s : State) :
    exec (.sgen sq b cl fmt sp sg stride) s = execSgen sq b cl fmt sp sg stride s := rfl
theorem exec_stn_eq (sq : Fin 4) (b : Fin 16) (cl : Cls) (fmt : Fmt) (step : Bool) (off : BitVec 21) (h : Fin 9) (s : State) :
    exec (.stn sq b cl fmt step off h) s = execStn sq b cl fmt step off h s := rfl
theorem exec_ahist_eq (sq : Fin 4) (b : Fin 16) (cl : Cls) (fmt : Fmt) (off : BitVec 27) (s : State) :
    exec (.ahist sq b cl fmt off) s = execAhist sq b cl fmt off s := rfl

/-! ### Addresses and their updates (R157, R170) -/

theorem incAddr_eq (inc : Inc) (x imm : Word) (span : Nat) : incAddr inc x imm span =
    (if inc = .post then x else x + imm,
      if inc = .keep then none else some (if inc = .step then x + BitVec.ofNat 64 span else x + imm)) := by
  cases inc <;> rfl

theorem incAddr_step (step : Bool) (x imm : Word) (span : Nat) : incAddr (if step then .step else .keep) x imm span =
    (x + imm, if step then some (x + BitVec.ofNat 64 span) else none) := by
  cases step <;> rfl

theorem bregReq_ite (b : Fin 16) (p : Prop) [Decidable p] (v : Word) :
    bregReq b (if p then some v else none) = if p then bregReq b (some v) else [] := by
  split <;> rfl

theorem bregReq_ite_not (b : Fin 16) (p : Prop) [Decidable p] (v : Word) :
    bregReq b (if p then none else some v) = if p then [] else bregReq b (some v) := by
  split <;> rfl

/-! ### Stores of active elements (R119, R170, R172) -/

/-- The access of a store of elements with their bytes. -/
def storeAccess (c : Core) (ps : List (Place × List Byte)) (els : List El) : Access :=
  ⟨.st (ps.flatMap (·.2)), els, c.posOf .s, none⟩

/-- An instruction whose checks come to a store of elements, where these pass theirs. -/
theorem store_issues {s : State} {i : Instr} {f : State → Core → Except Stop IssueOut} {cl : Cls} {ps : List (Place × List Byte)}
    {upd : List Req} {c c1 : Core} {els : List El} (hexec : exec i s = issue .s f s) (hroomy : s.Roomy)
    (hf : f s s.me = storeEls cl ps upd s c) (hcheck : checkPlaces s s.cur cl .w (ps.map (·.1)) c = .ok (els, c1)) :
    Issues .s i s c1 ((if ps = [] then [] else s.accessReqs s.cur c1 (storeAccess c1 ps els)
      (s.latency s.cur cl (storeAccess c1 ps els).pas)) ++ upd) := by
  refine issues_of_ok hexec hroomy (hf.trans ?_)
  simp only [storeEls, hcheck, bind, Except.bind, pure, Except.pure, List.isEmpty_iff, storeAccess]

/-! ### AHIST (R173) -/

theorem activeLanes_eq_nil {m : Word} (h : activeLanes m = []) : m = 0 := by
  refine BitVec.eq_of_getLsbD_eq fun i hi => ?_
  have hoff : i ∉ activeLanes m := h ▸ List.not_mem_nil
  rw [mem_activeLanes, not_and, Bool.not_eq_true] at hoff
  rw [hoff hi]
  exact BitVec.getLsbD_zero.symm

/-- The first of the active lanes is the lowest. -/
theorem activeLanes_head {m : Word} {l : Nat} {ls : List Nat} (h : activeLanes m = l :: ls) :
    l < 64 ∧ m.getLsbD l = true ∧ ∀ i, i < l → m.getLsbD i = false := by
  obtain ⟨hl, hon⟩ := mem_activeLanes.mp (h ▸ List.mem_cons_self : l ∈ activeLanes m)
  refine ⟨hl, hon, fun i hi => ?_⟩
  have hsorted : (l :: ls).Pairwise (· < ·) := h ▸ List.pairwise_lt_range.filter _
  have hi' : i ∉ activeLanes m := by
    rw [h, List.mem_cons, not_or]
    exact ⟨hi.ne, fun hmem => hi.not_gt (List.rel_of_pairwise_cons hsorted hmem)⟩
  simpa [mem_activeLanes, hi.trans hl] using hi'

/-- The lanes that AHIST counts. -/
theorem getLsbD_and_low (m : Word) (i : Nat) : (m &&& 0xFFFF).getLsbD i = (m.getLsbD i && decide (i < 16)) := by
  have hlow : (0xFFFF : Word).getLsbD i = decide (i < 16) := by
    rw [show (0xFFFF : Word) = BitVec.ofNat 64 (2 ^ 16 - 1) from rfl, BitVec.getLsbD_ofNat, Nat.testBit_two_pow_sub_one,
      ← Bool.decide_and]
    exact decide_eq_decide.mpr (by omega)
  rw [BitVec.getLsbD_and, hlow]

theorem lowLanes_head {m : Word} {l : Nat} {ls : List Nat} (h : activeLanes (m &&& 0xFFFF) = l :: ls) :
    m.getLsbD l = true ∧ l < 16 ∧ ∀ i, i < l → m.getLsbD i = false := by
  obtain ⟨-, hon, hbelow⟩ := activeLanes_head h
  rw [getLsbD_and_low, Bool.and_eq_true, decide_eq_true_eq] at hon
  obtain ⟨hon, hlow⟩ := hon
  refine ⟨hon, hlow, fun i hi => ?_⟩
  rw [← hbelow i hi, getLsbD_and_low, decide_eq_true (hi.trans hlow), Bool.and_true]


section
variable {s : State} {sq : Fin 4} {b : Fin 16} {cl : Cls} {fmt : Fmt} {off : BitVec 27} {e : ChanEntry} {c : Core} {l : Nat} {ls : List Nat}
  (hpop : s.me.popSq sq = .ok (e, c))
include hpop

theorem ahist_idle (hroomy : s.Roomy) (hidle : e.mask &&& 0xFFFF = 0) : Issues .s (.ahist sq b cl fmt off) s c [] := by
  refine issues_of_ok (exec_ahist_eq ..) hroomy ?_
  have hlanes : activeLanes 0 = [] := by decide
  simp only [hpop, hidle, hlanes, bind, Except.bind, pure, Except.pure]

theorem ahist_align (hlanes : activeLanes (e.mask &&& 0xFFFF) = l :: ls) (halign : (c.ctx.st.b[b] + off.signExtend 64).toNat % 64 ≠ 0) :
    TrapsAt .s (.ahist sq b cl fmt off) s .align
      (accessInfo (c.ctx.st.b[b] + off.signExtend 64 + BitVec.ofNat 64 (4 * l)) l false) := by
  refine trapsAt_of_error (exec_ahist_eq ..) ?_ (by decide)
  simp only [hpop, hlanes, halign, bind, Except.bind, ne_eq, not_false_eq_true, if_true]

/-- An AHIST on a vault's 64 bytes below the window counts there. -/
theorem ahist_issues {c1 : Core} {els : List El} (hroomy : s.Roomy) (hlanes : activeLanes (e.mask &&& 0xFFFF) = l :: ls)
    (halign : (c.ctx.st.b[b] + off.signExtend 64).toNat % 64 = 0) (hbelow : (c.ctx.st.b[b] + off.signExtend 64).toNat < windowBase)
    (hcheck : checkPlaces s s.cur cl .w ((l :: ls).map fun (i : Nat) =>
      ⟨((c.ctx.st.b[b] + off.signExtend 64).toNat : Int) + (4 * i : Nat), 4, 4, i⟩) c = .ok (els, c1))
    (hvault : paSpace ((els.headD ⟨0, 0, 0, 0⟩).pa - 4 * l) = 0) :
    Issues .s (.ahist sq b cl fmt off) s c1 (s.memReqs s.cur c1 (pasFrom ((els.headD ⟨0, 0, 0, 0⟩).pa - 4 * l) 64) .ahistPerform
      (.hist ((els.headD ⟨0, 0, 0, 0⟩).pa - 4 * l) (c.ctx.st.b[b] + off.signExtend 64) e.v (e.mask &&& 0xFFFF) (c1.posOf .s))
      (s.classLat cl)) := by
  refine issues_of_ok (exec_ahist_eq ..) hroomy ?_
  have hzero : paSpace 0 = 0 := by decide
  simp only [hpop, hlanes, halign, hcheck, vaultOnly, hvault, hzero, Nat.not_le.mpr hbelow, bind, Except.bind, pure, Except.pure,
    ne_eq, not_true_eq_false, if_true, if_false]

end

/-! ### The statement -/

/-- Settles O31: the forms differ in the elements that they name and in their update; AHIST stops at its lowest active lane. -/
theorem queueStoresIssue : Obligations.QueueStoresIssue := by
  unfold Obligations.QueueStoresIssue
  intro s sq b cl fmt e c hroomy hpop
  refine ⟨fun inc imm els c1 hcheck => ?stq, fun inc imm els c1 hcheck => ?stqs, fun sp sg stride els c1 hcheck => ?sgen,
    fun step off h els c1 hcheck => ?stn,
    fun off => ⟨ahist_idle hpop hroomy, fun hm halign => ?align, fun l ls els c1 hlanes halign hbelow hcheck hvault => ?ahist⟩⟩
  case stq =>
    refine store_issues (exec_stq_eq ..) hroomy ?_ hcheck
    simp only [hpop, incAddr_eq, bregReq_ite_not, bind, Except.bind]
    rfl
  case stqs =>
    refine store_issues (exec_stqs_eq ..) hroomy ?_ hcheck
    simp only [hpop, bind, Except.bind]
    cases inc <;> rfl
  case sgen =>
    refine store_issues (exec_sgen_eq ..) hroomy ?_ hcheck
    simp only [hpop, bregReq_ite, bind, Except.bind]
    rfl
  case stn =>
    refine issues_of_ok (exec_stn_eq ..) hroomy ?_
    rw [← bregReq_ite]
    simp only [hpop, incAddr_step, stnElems, hcheck, List.isEmpty_iff, bind, Except.bind, pure, Except.pure]
    rfl
  case align =>
    obtain ⟨l, ls, hlanes⟩ := List.exists_cons_of_ne_nil (mt activeLanes_eq_nil hm)
    obtain ⟨hon, hlow, hbelow⟩ := lowLanes_head hlanes
    exact ⟨l, ahist_align hpop hlanes halign, hon, hlow, hbelow⟩
  case ahist => exact ahist_issues hpop hroomy hlanes halign hbelow hcheck hvault

end Sys2Proof.Machine
end

section
/-! PROOFS. Joined groups start and end (R123, R124, R126): what the checks of a group read, the streams of a group that starts and of
one that ends, and what the event comes to. -/

namespace Sys2Proof.Machine

open Sys2Proof

theorem exec_joinedGroupStart_eq (s : State) : exec .joinedGroupStart s = execJoinedGroupStart s := rfl

/-! ### Corrected single-bit errors change no line of the image (R123, R210) -/

section
variable (s : State) (pas : List Nat) (id : CoreId)

@[simp] theorem State.parcel_correct : (s.correct pas).parcel id = s.parcel id := by
  funext line k
  rw [State.parcel, State.parcel, State.mem_correct, State.ctx_correct]

@[simp] theorem State.link_correct : (s.correct pas).link id = s.link id := by
  funext line
  rw [State.link, State.link, State.parcel_correct]

@[simp] theorem State.nextItem_correct : (s.correct pas).nextItem id = s.nextItem id := by
  funext line k
  rw [State.nextItem, State.nextItem, State.parcel_correct]

@[simp] theorem State.holdsBranch_correct (cl : Cluster) (line fuel : Nat) :
    (s.correct pas).holdsBranch id cl line fuel = s.holdsBranch id cl line fuel := by
  induction fuel with
  | zero => rfl
  | succ fuel ih =>
    funext k
    simp only [State.holdsBranch, State.nextItem_correct, State.parcel_correct, ih]

@[simp] theorem Core.imagelen_correct : ((s.correct pas).core id).imagelen = (s.core id).imagelen := by
  rw [Core.imagelen, Core.imagelen, State.ctx_correct]

@[simp] theorem Core.present_correct (cl : Cluster) : ((s.correct pas).core id).present cl = (s.core id).present cl := by
  simp only [Core.present, State.ctx_correct]

/-- The checks of a group find what they found before the correction. -/
theorem State.groupFault_correct (g : Nat) :
    (s.correct pas).groupFault id ((s.correct pas).core id) g = s.groupFault id (s.core id) g := by
  simp only [State.groupFault, State.groupLine, Core.imagelen_correct, Core.present_correct, State.link_correct,
    State.holdsBranch_correct, State.nextItem_correct]

end

/-! ### The streams of a group (R124, R125) -/

theorem clusterIdx_lt (cl : Cluster) : cl.idx < 4 := by
  cases cl <;> decide

theorem decCluster_idx (cl : Cluster) : decCluster cl.idx = some cl := by
  cases cl <;> rfl

theorem clusterIdx_inj {cl k : Cluster} (h : cl.idx = k.idx) : cl = k :=
  Option.some.inj (by rw [← decCluster_idx cl, h, decCluster_idx])

theorem Core.stream_eq (c : Core) (cl : Cluster) : c.stream cl = c.ctx.streams[cl.idx]'(clusterIdx_lt cl) := by
  cases cl <;> rfl

theorem Core.stream_setStream_other {c : Core} {cl k : Cluster} (st : Stream) (h : k ≠ cl) :
    (c.setStream cl st).stream k = c.stream k := by
  simp only [Core.stream_eq, Core.setStream, Core.ctx_modCtx, Vector.getElem_set!, if_neg fun e => h (clusterIdx_inj e).symm]

theorem Core.joined_startLine (s : State) (id : CoreId) (c : Core) (cl : Cluster) (line k cyc : Nat) :
    (s.startLine id c cl line k cyc).ctx.joined = c.ctx.joined := by
  simp only [State.startLine]
  split <;> rfl

theorem Core.c_startLine (s : State) (id : CoreId) (c : Core) (cl : Cluster) (line k cyc : Nat) :
    (s.startLine id c cl line k cyc).ctx.c = c.ctx.c := by
  simp only [State.startLine]
  split <;> rfl

/-- A group that starts runs as the joined group of its core, whose registers it leaves. -/
theorem State.startGroup_starts (s : State) (id : CoreId) (c : Core) (g k cyc : Nat) :
    (s.startGroup id c g k cyc).ctx.joined.map (·.g) = some g ∧ (s.startGroup id c g k cyc).ctx.c = c.ctx.c := by
  simp only [State.startGroup, Core.joined_startLine, Core.c_startLine]
  exact ⟨rfl, rfl⟩

theorem Core.inJoined_endJoined (c : Core) (cyc : Nat) : (c.endJoined cyc).inJoined = false := rfl

/-- The four streams end together. -/
theorem Core.stream_endJoined (c : Core) (cyc : Nat) (cl : Cluster) :
    (c.endJoined cyc).stream cl = { c.stream cl with mode := .ended, reach := cyc, latched := none } := by
  have hleft (k : Cluster) : (c.modCtx fun x => { x with joined := none }).stream k = c.stream k := by cases k <;> rfl
  cases cl <;> simp [Core.endJoined, Core.stream_setStream_other, hleft]

/-! ### The event -/

theorem joinedGroupStart_ends {s : State} (h : s.groupNext s.cur = some .ends) :
    exec .joinedGroupStart s = .next (s.setCore s.cur (s.me.endJoined s.me.ctx.tau)) := by
  simp only [exec_joinedGroupStart_eq, execJoinedGroupStart, h]
  rfl

/-- The state with the single-bit errors in the link words of a group's lines corrected. -/
def State.fixLinks (s : State) (g : Nat) : State := s.correct ((List.range 4).flatMap fun k => s.linkPas s.cur (4 * g + k))

@[simp] theorem State.ctx_fixLinks (s : State) (g : Nat) (id : CoreId) : ((s.fixLinks g).core id).ctx = (s.core id).ctx :=
  State.ctx_correct _ _ _

theorem joinedGroupStart_starts {s : State} {g p : Nat} (h : s.groupNext s.cur = some (.start g p))
    (hok : s.groupFault s.cur s.me g = none) :
    exec .joinedGroupStart s = .next ((s.fixLinks g).setCore s.cur
      ((s.fixLinks g).startGroup s.cur ((s.fixLinks g).core s.cur) g p ((s.fixLinks g).core s.cur).ctx.tau)) := by
  have hfault := (s.groupFault_correct ((List.range 4).flatMap fun k => s.linkPas s.cur (4 * g + k)) s.cur g).trans hok
  simp only [exec_joinedGroupStart_eq, execJoinedGroupStart, h, hfault]
  rfl

/-- A group of another form is JOIN_FORM at the offending line, told as entered at its first parcel (R123; DESIGN CHOICE, log entry
105). -/
theorem joinedGroupStart_raises {s : State} {g p reason k : Nat} (h : s.groupNext s.cur = some (.start g p))
    (hform : s.groupFault s.cur s.me g = some (.joinForm, reason, k)) :
    exec .joinedGroupStart s = .next ((s.fixLinks g).raise s.cur .joinForm (joinInfo reason k g)
      ⟨(lineClusters.getD k (.c, 0)).1, 4 * g + k, 2⟩) := by
  have hfault := (s.groupFault_correct ((List.range 4).flatMap fun k => s.linkPas s.cur (4 * g + k)) s.cur g).trans hform
  simp only [exec_joinedGroupStart_eq, execJoinedGroupStart, h, hfault, if_true]
  rfl

end Sys2Proof.Machine
end

section
/-! PROOFS. Tasks end (R179) and frames begin (R189, R191, R333), and the statement on these and on joined groups. -/

namespace Sys2Proof.Machine

open Sys2Proof

theorem exec_taskEnd_eq (s : State) : exec .taskEnd s = execTaskEnd s := rfl
theorem exec_frameBoundary_eq (s : State) : exec .frameBoundary s = execFrameBoundary s := rfl

/-! ### A task ends (R179, R185) -/

theorem State.taskDone_task {s : State} {id : CoreId} (h : s.taskDone id = true) : ∃ k, (s.core id).task = some k := by
  simp only [State.taskDone, Bool.and_eq_true] at h
  obtain ⟨⟨⟨⟨htask, -⟩, -⟩, -⟩, -⟩ := h
  exact Option.isSome_iff_exists.mp htask

theorem taskEnd_ends {s : State} {k : Task} (hdone : s.taskDone s.cur = true) (htask : s.me.task = some k) :
    exec .taskEnd s = .next ((s.freeCore s.cur).taskOver s.cur k.run (k.exit.getD 0).toNat) := by
  rw [State.me] at htask
  simp only [exec_taskEnd_eq, execTaskEnd, hdone, htask, if_true]

@[simp] theorem State.running?_freeCore (s : State) (id : CoreId) (run : Nat) : (s.freeCore id).running? run = s.running? run := rfl

theorem State.task_freeCore (s : State) (id : CoreId) : ((s.freeCore id).core id).task = none := by
  rw [State.freeCore, State.core_modCore_self]

theorem State.ctx_freeCore (s : State) (id : CoreId) : ((s.freeCore id).core id).ctx = Ctx.zero := by
  rw [State.freeCore, State.core_modCore_self]

theorem State.taskOver_alone {s : State} {run : Nat} (id : CoreId) (exit : Nat) (h : s.running? run = none) :
    s.taskOver id run exit = s := by
  simp only [State.taskOver, h]

/-- A running node that a core's task has left. -/
def Running.leave (r : Running) (id : CoreId) (exit : Nat) : Running :=
  { r with left := r.left.filter (· != id), sum := (r.sum + exit) % 2 ^ 64 }

theorem State.running?_modRunning {s : State} {run : Nat} {r : Running} {f : Running → Running} (hf : ∀ q, (f q).id = q.id)
    (h : s.running? run = some r) : (s.modRunning r.id f).running? run = some (f r) := by
  have hid : r.id = run := by simpa using List.find?_some h
  have hpred : ((fun q : Running => q.id == run) ∘ fun q => if q.id = r.id then f q else q) = fun q => q.id == run := by
    funext q
    simp only [Function.comp]
    split <;> simp [hf]
  rw [State.running?] at h ⊢
  simp only [State.modRunning, State.modSched, List.find?_map, hpred, h, Option.map_some, if_true]

/-- A placement with cores left takes the exit value into its sum and runs on. -/
theorem State.taskOver_placement {s : State} {id : CoreId} {run : Nat} {r : Running} (exit : Nat) (h : s.running? run = some r)
    (hkind : r.kind = 1) (hleft : r.left.filter (· != id) ≠ []) :
    s.taskOver id run exit = s.modRunning r.id fun q => q.leave id exit := by
  have hid : r.id = run := by simpa using List.find?_some h
  have hrun := s.running?_modRunning (f := fun q => q.leave id exit) (fun _ => rfl) h
  have hsome : (r.leave id exit).left.isEmpty = false := by simpa [Running.leave] using hleft
  have hopen : (s.modRunning r.id fun q => q.leave id exit).closeRunning r.id = s.modRunning r.id fun q => q.leave id exit := by
    rw [← hid] at hrun
    simp only [State.closeRunning, hrun, hsome, Bool.false_eq_true, if_false]
  simp only [State.taskOver, h, hkind, OfNat.one_ne_ofNat, false_and, if_false]
  exact hopen

/-! ### A frame begins (R189, R191, R333) -/

theorem ReadyNode.age_eq (e : ReadyNode) : e.age = if e.queued = true ∧ (e.kind = 2 ∨ e.kind = 7) then
    (if 63 ≤ e.aged then { e with aged := 0, prio := min 3 (e.prio + 1) } else { e with aged := e.aged + 1 }) else e := by
  simp only [ReadyNode.age, Bool.and_eq_true, Bool.or_eq_true, beq_iff_eq, Nat.reduceLeDiff]

/-- Aging keeps of a ready node all but its age and its priority. -/
theorem ReadyNode.age_keeps {γ : Type} (g : ReadyNode → γ) (hg : ∀ e a p, g { e with aged := a, prio := p } = g e) (e : ReadyNode) :
    g e.age = g e := by
  rw [ReadyNode.age_eq]
  split
  · split
    · exact hg e _ _
    · exact hg e _ e.prio
  · rfl

@[simp] theorem ReadyNode.kind_age (e : ReadyNode) : e.age.kind = e.kind := ReadyNode.age_keeps _ (fun _ _ _ => rfl) e
@[simp] theorem ReadyNode.reserved_age (e : ReadyNode) : e.age.reserved = e.reserved := ReadyNode.age_keeps _ (fun _ _ _ => rfl) e
@[simp] theorem ReadyNode.set_age (e : ReadyNode) : e.age.set = e.set := ReadyNode.age_keeps _ (fun _ _ _ => rfl) e

/-- The scheduler at a frame boundary, its ready nodes aged. -/
def State.aged (s : State) : State :=
  s.modSched fun k => { k with frame := s.clock / 32768, ready := k.ready.map ReadyNode.age }

theorem State.kind_aged {s : State} (h : ∀ e ∈ s.sched.ready, e.kind ≠ 1) : ∀ e ∈ s.aged.sched.ready, e.kind ≠ 1 := by
  intro e he
  obtain ⟨d, hd, rfl⟩ := List.mem_map.mp he
  rw [ReadyNode.kind_age]
  exact h d hd

/-- Aging leaves every reservation as it is. -/
theorem State.reservedBy_aged (s : State) (c : CoreId) : s.aged.reservedBy c = s.reservedBy c := by
  simp only [State.reservedBy, State.aged, State.modSched, List.any_map, Function.comp_def, ReadyNode.reserved_age, ReadyNode.set_age]

theorem State.admitAll_of_no_placement {s : State} (h : ∀ e ∈ s.sched.ready, e.kind ≠ 1) : s.admitAll = s := by
  have hnone : (s.sched.ready.filter fun e => e.kind == 1 && e.queued && !s.frozen e.ref) = [] := by
    rw [List.filter_eq_nil_iff]
    intro e he
    simp [h e he]
  rw [State.admitAll, hnone]
  rfl

/-- The ready placements that have lost a die fault (R194). -/
def State.dropLost (s : State) : State :=
  (s.sched.ready.filter fun e => e.kind == 1 && !(diesOf e.set).all s.aligned).foldl (fun (t : State) e =>
    (t.modSched fun k => { k with claims := k.claims.filter fun c => c.ref != e.ref }).doWork [.faulted e.ref ⟨0, none, 4⟩]) s

theorem State.dropLost_of_no_placement {s : State} (h : ∀ e ∈ s.sched.ready, e.kind ≠ 1) : s.dropLost = s := by
  have hnone : (s.sched.ready.filter fun e => e.kind == 1 && !(diesOf e.set).all s.aligned) = [] := by
    rw [List.filter_eq_nil_iff]
    intro e he
    simp [h e he]
  rw [State.dropLost, hnone]
  rfl

theorem exec_frameBoundary {s : State} (hdue : s.sched.frame < s.clock / 32768) :
    exec .frameBoundary s = .next s.aged.dropLost.admitAll.askPreempt :=
  (exec_frameBoundary_eq s).trans (if_pos (decide_eq_true hdue))

/-- The free task of a reserved core is asked to yield. -/
theorem State.askPreempt_asks {s : State} {e : CoreId × Core} (he : e ∈ s.cores) (hfree : e.2.isFree = true)
    (hdrain : e.2.ctx.drain = none) (hreserved : s.reservedBy e.1 = true) :
    ∃ e' ∈ s.askPreempt.cores, e'.1 = e.1 ∧ e'.2.ctx.sys.preempting = true := by
  have hasked : (e.2.isFree && e.2.ctx.drain.isNone && s.reservedBy e.1) = true := by
    rw [hfree, hdrain, hreserved]
    rfl
  refine ⟨_, List.mem_map_of_mem he, ?_⟩
  rw [if_pos hasked]
  exact ⟨rfl, rfl⟩

/-! ### The statement -/

/-- Settles O44: the end of a task, the start and the end of a joined group and the boundary of a frame are those of the lemmas above.
TRAPLINE of a JOIN_FORM is the model's choice (DESIGN CHOICE, log entries 85, 90 and 105); R123 gives its TINFO alone. -/
theorem tasksEndAndFramesBegin : Obligations.TasksEndAndFramesBegin := by
  unfold Obligations.TasksEndAndFramesBegin
  refine ⟨fun s hdone => ?task,
    fun s => ⟨fun hends => ?ends, fun g p hstart hok => ?starts, fun g p reason k hstart hform hk => ?raises⟩,
    fun s hdue => ?frame⟩
  case task =>
    obtain ⟨k, htask⟩ := State.taskDone_task hdone
    refine ⟨_, taskEnd_ends hdone htask, fun k' htask' => ?_⟩
    obtain rfl : k = k' := Option.some.inj (htask.symm.trans htask')
    refine ⟨fun hrun => ?_, fun r hrun hkind hleft => ?_⟩
    · rw [State.taskOver_alone s.cur _ ((s.running?_freeCore s.cur _).trans hrun)]
      exact ⟨s.task_freeCore s.cur, s.ctx_freeCore s.cur, s.mem_freeCore s.cur⟩
    · rw [State.taskOver_placement _ ((s.running?_freeCore s.cur _).trans hrun) hkind hleft]
      exact ⟨s.task_freeCore s.cur, s.ctx_freeCore s.cur, s.mem_freeCore s.cur, _,
        (s.freeCore s.cur).running?_modRunning (fun _ => rfl) hrun, rfl, rfl, rfl⟩
  case ends =>
    refine ⟨_, joinedGroupStart_ends hends, Core.inJoined_endJoined _ _, fun cl => ?_⟩
    rw [Core.stream_endJoined]
    exact ⟨rfl, rfl⟩
  case starts =>
    have hctx := s.ctx_fixLinks g s.cur
    obtain ⟨hg, hc⟩ := (s.fixLinks g).startGroup_starts s.cur ((s.fixLinks g).core s.cur) g p ((s.fixLinks g).core s.cur).ctx.tau
    exact ⟨_, joinedGroupStart_starts hstart hok, hg, hc.trans (congrArg Ctx.c hctx)⟩
  case raises =>
    refine (joinedGroupStart_raises hstart hform).trans ?_
    interval_cases k <;> rfl
  case frame =>
    refine ⟨_, exec_frameBoundary hdue, fun hnone => ?_⟩
    rw [State.dropLost_of_no_placement (State.kind_aged hnone), State.admitAll_of_no_placement (State.kind_aged hnone)]
    refine ⟨rfl, rfl, List.map_congr_left fun e _ => e.age_eq, fun e he hfree hdrain hreserved => ?_⟩
    exact State.askPreempt_asks (s := s.aged) he hfree hdrain ((s.reservedBy_aged e.1).trans hreserved)

end Sys2Proof.Machine
end

section
/-! PROOFS. The floating-point instructions of X (R131 to R133, R135, R138): what VADD, VMUL and the fused forms come to on an element
of a format of one part and on a CF32 element, the lanes of a rotated vector, and the statement on them. -/

namespace Sys2Proof.Machine

open Sys2Proof

/-! ### Sums and products of an element (R131) -/

section
variable {fmt : Fmt} (hone : fmt ≠ .cf32) (rm : Rm) (a b c : Nat)
include hone

theorem addElem_of_ne_cf32 (sub : Bool) : addElem fmt rm sub a b = (ffmt fmt).encode rm
    (((ffmt fmt).decode a).add rm (if sub then ((ffmt fmt).decode b).neg else (ffmt fmt).decode b)) := by
  rw [addElem, if_neg hone]
  rfl

theorem mulElem_of_ne_cf32 : mulElem fmt rm a b = (ffmt fmt).encode rm (((ffmt fmt).decode a).mul ((ffmt fmt).decode b)) := by
  rw [mulElem, if_neg hone]
  rfl

/-- The product, negated or not, takes in the addend, negated or not, before the one rounding. -/
theorem fmaElem_of_ne_cf32 (negp negc : Bool) : fmaElem fmt rm negp negc a b c =
    let prod := ((ffmt fmt).decode a).mul ((ffmt fmt).decode b)
    let addend := (ffmt fmt).decode c
    (ffmt fmt).encode rm ((if negp then prod.neg else prod).add rm (if negc then addend.neg else addend)) := by
  rw [fmaElem, if_neg hone]
  rfl

end

/-! ### CF32 elements, part by part (R132) -/

section
variable (rm : Rm) (a b c : Nat)

theorem addElem_cf32 (sub : Bool) : addElem .cf32 rm sub a b =
    cfOf rm ((cfRe a).add rm (if sub then (cfRe b).neg else cfRe b)) ((cfIm a).add rm (if sub then (cfIm b).neg else cfIm b)) := by
  rw [addElem, if_pos rfl]

theorem mulElem_cf32 : mulElem .cf32 rm a b = cfOf rm (cfMul rm a b).1 (cfMul rm a b).2 := by
  rw [mulElem, if_pos rfl]

theorem fmaElem_cf32 (negp negc : Bool) : fmaElem .cf32 rm negp negc a b c =
    let prod := cfMul rm a b
    cfOf rm ((if negp then prod.1.neg else prod.1).add rm (if negc then (cfRe c).neg else cfRe c))
      ((if negp then prod.2.neg else prod.2).add rm (if negc then (cfIm c).neg else cfIm c)) := by
  rw [fmaElem, if_pos rfl]

end

/-! ### The lanes of VROPE (R133) -/

theorem laneNat_eq_toNat (v : Vec) {i : Nat} (hi : i < 64) : laneNat v i = v[i]!.toNat := by
  rw [← vec_getElem!_eq_laneNat v hi, BitVec.toNat_ofNat, Nat.mod_eq_of_lt (laneNat_lt v i)]

/-- The pair j of a vector rotated by its position and frequency. -/
def ropePair (x y z : Vec) (j : Nat) : F32 × F32 :=
  rotPair x[2 * j]! x[2 * j + 1]! y[2 * j]!.toNat (z[2 * j]!.toNat + 2 ^ 32 * z[2 * j + 1]!.toNat)

/-- A lane of VROPE's result is the part of its pair that its parity names. -/
theorem ropeVec_getElem! (x y z : Vec) {i : Nat} (hi : i < 64) :
    (ropeVec x y z)[i]! = if i % 2 = 0 then (ropePair x y z (i / 2)).1 else (ropePair x y z (i / 2)).2 := by
  have heven : 2 * (i / 2) < 64 := by omega
  have hodd : 2 * (i / 2) + 1 < 64 := by omega
  rw [ropePair, getElem!_pos (ropeVec x y z) i hi, ← vec_getElem!_eq_laneNat x heven, ← vec_getElem!_eq_laneNat x hodd,
    ← laneNat_eq_toNat y heven, ← laneNat_eq_toNat z heven, ← laneNat_eq_toNat z hodd, mul_comm 2 (i / 2), ropeVec,
    Vector.getElem_ofFn]

theorem ropeVec_even (x y z : Vec) {j : Nat} (hj : j < 32) : (ropeVec x y z)[2 * j]! = (ropePair x y z j).1 := by
  rw [ropeVec_getElem! x y z (by omega), if_pos (by omega), Nat.mul_div_cancel_left j two_pos]

theorem ropeVec_odd (x y z : Vec) {j : Nat} (hj : j < 32) : (ropeVec x y z)[2 * j + 1]! = (ropePair x y z j).2 := by
  rw [ropeVec_getElem! x y z (by omega), if_neg (by omega), show (2 * j + 1) / 2 = j by omega]

/-! ### The statement -/

/-- Settles O20: each instruction lands its function's value, and the lemmas above say what the functions of sums, of products and of
rotations come to. -/
theorem vectorFloatsLand : Obligations.VectorFloatsLand := by
  unfold Obligations.VectorFloatsLand
  refine ⟨fun s vd p fmt rm a imm m x c h => ?one, fun s vd p fmt rm a b m x y c h => ?two,
    fun s vd p fmt rm a b e m x y z c h => ?three, fun fmt rm a b c hone => ?single, fun rm a b c => ?complex,
    fun x y z i hi => ⟨ropeVec_even x y z hi, ropeVec_odd x y z hi⟩⟩
  case one =>
    exact ⟨opX1_lands h, opX1_lands h, opX1_lands h, opX1_lands h, opX1_lands h, opX1_lands h, opX1_lands h, opX1_lands h,
      opX1_lands h⟩
  case two =>
    exact ⟨opX2_lands h, opX2_lands h, opX2_lands h, opX2_lands h, opX2_lands h, opX2_lands h, opX2_lands h⟩
  case three =>
    exact ⟨opX3_lands h, opX3_lands h, opX3_lands h, opX3_lands h, opX3_lands h⟩
  case single =>
    exact ⟨addElem_of_ne_cf32 hone rm a b false, addElem_of_ne_cf32 hone rm a b true, mulElem_of_ne_cf32 hone rm a b,
      fmaElem_of_ne_cf32 hone rm a b c false false, fmaElem_of_ne_cf32 hone rm a b c false true,
      fmaElem_of_ne_cf32 hone rm a b c true false⟩
  case complex =>
    exact ⟨addElem_cf32 rm a b false, addElem_cf32 rm a b true, mulElem_cf32 rm a b, fmaElem_cf32 rm a b c false false,
      fmaElem_cf32 rm a b c false true, fmaElem_cf32 rm a b c true false⟩

end Sys2Proof.Machine
end

section
/-! PROOFS. The integer instructions of X (R134, R135): the elements that element-wise functions land, the functions as the statement
says them, and the statement. -/

namespace Sys2Proof.Machine

open Sys2Proof

/-! ### The functions of an element (R134) -/

/-- `Nat.mod_mul_right_div_self` on the integers. -/
theorem emod_mul_ediv (x : Int) {k : Int} (n : Int) (hk : 0 < k) : x % (k * n) / k = x / k % n := by
  rw [Int.emod_def, Int.emod_def, mul_assoc, Int.sub_mul_ediv_left _ _ hk.ne', Int.ediv_ediv_of_nonneg hk.le]

/-- The upper w of v + w bits are the quotient by 2^v in w bits. -/
theorem wrapBits_add_div (v w : Nat) (x : Int) : wrapBits (v + w) x / 2 ^ v = wrapBits w (x / (2 ^ v : Nat)) := by
  have hpos : (0 : Int) < (2 ^ v : Nat) := by positivity
  have hnonneg : ∀ (y : Int) (n : Nat), 0 ≤ y % (2 ^ n : Nat) := fun y n => Int.emod_nonneg y (by positivity)
  rw [wrapBits, wrapBits, ← Int.natCast_inj, Int.toNat_of_nonneg (hnonneg _ w), ← emod_mul_ediv x _ hpos, Int.natCast_ediv,
    Int.toNat_of_nonneg (hnonneg x _), pow_add, Nat.cast_mul]

theorem mulhElem_eq (fmt : Fmt) (u v : Nat) :
    mulhElem fmt u v = wrapBits fmt.width (intVal fmt u * intVal fmt v / (2 ^ fmt.width : Nat)) := by
  rw [mulhElem, two_mul, wrapBits_add_div]

theorem minElem_eq (fmt : Fmt) (u v : Nat) : minElem fmt u v = if intVal fmt u ≤ intVal fmt v then u else v := by
  rw [minElem, ← ite_not]
  simp only [not_lt]

/-! ### Landings by element -/

section
variable {s : State} {fmt : Fmt} {d : XDst} {p : Fin 8} {a b : XSrc} {m : Word} {x y : Vec} {c : Core} {i : Instr} {n : Nat}

theorem ReadyX1.lands_elems {f g : Nat → Nat} (h : ReadyX1 s fmt.width d p a m x c) (hexec : exec i s = vec1 fmt n f d p a s)
    (hfun : ∀ u, f u = g u) : ResultElems i s c d n m fmt.width fun e => g (elem fmt.width x e) := by
  obtain rfl : f = g := funext hfun
  exact ResultX.elems (hexec.trans (opX1_lands h))

theorem ReadyX2.lands_elems {f g : Nat → Nat → Nat} (h : ReadyX2 s fmt.width d p a b m x y c)
    (hexec : exec i s = vec2 fmt n f d p a b s) (hfun : ∀ u v, f u v = g u v) :
    ResultElems i s c d n m fmt.width fun e => g (elem fmt.width x e) (elem fmt.width y e) := by
  obtain rfl : f = g := funext₂ hfun
  exact ResultX.elems (hexec.trans (opX2_lands h))

end

/-! ### The statement -/

/-- Settles O21: each instruction lands its function of each element, and VIMULH's, VIMIN's and VPOPC's are those of the lemmas above. -/
theorem vectorIntegersLand : Obligations.VectorIntegersLand := by
  unfold Obligations.VectorIntegersLand
  refine ⟨fun s vd p fmt sat a b m x y c h => ?two, fun s vd p fmt tgt sat a imm m x c h => ?one⟩
  case two =>
    exact ⟨ResultX.elems (opX2_lands h), ResultX.elems (opX2_lands h), ResultX.elems (opX2_lands h),
      h.lands_elems rfl (mulhElem_eq fmt), h.lands_elems rfl (minElem_eq fmt), ResultX.elems (opX2_lands h),
      ResultX.elems (opX2_lands h), ResultX.elems (opX2_lands h), ResultX.elems (opX2_lands h), ResultX.elems (opX2_lands h),
      ResultX.elems (opX2_lands h), ResultX.elems (opX2_lands h), ResultX.elems (opX2_lands h)⟩
  case one =>
    exact ⟨h.lands_elems rfl (popCount_eq_countP fmt.width), ResultX.elems (opX1_lands h), ResultX.elems (opX1_lands h),
      ResultX.elems (opX1_lands h), ResultX.elems (opX1_lands h), ResultX.elems (opX1_lands h),
      fun _ => ⟨ResultX.elems (opX1_lands h), ResultX.elems (opX1_lands h)⟩⟩

end Sys2Proof.Machine
end

section
/-! PROOFS. Compares and predicate instructions (R139 to R141): the bits of the words that they make, the conditions as the statement
says them, what an issue comes to, and the statement. -/

namespace Sys2Proof.Machine

open Sys2Proof

/-! ### Words bit by bit -/

/-- A word made of tests is the number whose binary digits they are. -/
theorem wordOfTest_eq_joinDigits (f : Nat → Bool) : wordOfTest f = BitVec.ofNat 64 (joinDigits 1 (fun i => (f i).toNat) 64) := by
  have hterm : ∀ acc i, (if f i then acc + 2 ^ i else acc) = acc + (f i).toNat % 2 ^ 1 * 2 ^ (1 * i) := fun acc i => by
    cases f i <;> simp
  simp only [wordOfTest, joinDigits, hterm]

theorem getLsbD_wordOfTest (f : Nat → Bool) {i : Nat} (hi : i < 64) : (wordOfTest f).getLsbD i = f i := by
  have hdigit := joinDigits_digit 1 (fun j => (f j).toNat) hi
  rw [one_mul, pow_one] at hdigit
  rw [wordOfTest_eq_joinDigits, BitVec.getLsbD_ofNat, decide_eq_true hi, Bool.true_and, Nat.testBit_eq_decide_div_mod_eq, hdigit]
  cases f i <;> rfl

/-- A word and its negative have in common the lowest 1 bit. -/
theorem getLsbD_and_neg (w : Word) {i : Nat} (hi : i < 64) :
    (w &&& -w).getLsbD i = (w.getLsbD i && !((List.range i).any fun j => w.getLsbD j)) := by
  have hbelow : decide (∃ j < i, w.getLsbD j = true) = (List.range i).any fun j => w.getLsbD j := by
    rw [Bool.eq_iff_iff]
    simp
  rw [BitVec.getLsbD_and, BitVec.getLsbD_neg, decide_eq_true hi, Bool.true_and, hbelow]
  cases w.getLsbD i with
  | true => rw [Bool.true_and, Bool.true_and, Bool.true_xor]
  | false => rfl

/-! ### The conditions of VCMP and VCMPI (R139) -/

/-- Two values meet a condition: a NaN meets ne and un alone, and numbers go by their order. -/
def ValuesMeet (op : VCmp) (p q : FVal) : Prop :=
  let numbers := p ≠ .nan ∧ q ≠ .nan
  match op with
  | .eq => numbers ∧ ¬ p.Under q ∧ ¬ q.Under p
  | .ne => ¬ numbers ∨ p.Under q ∨ q.Under p
  | .lt => numbers ∧ p.Under q
  | .le => numbers ∧ ¬ q.Under p
  | .gt => numbers ∧ q.Under p
  | .ge => numbers ∧ ¬ p.Under q
  | .un => ¬ numbers

/-- Two integers meet a condition. -/
def IntsMeet (op : VCmp) (m n : Int) : Prop :=
  match op with
  | .eq => m = n
  | .ne => m ≠ n
  | .lt => m < n
  | .le => m ≤ n
  | .gt => n < m
  | .ge => n ≤ m
  | .un => False

theorem fpTest_of_nan (op : VCmp) {p q : FVal} (h : ¬ (p ≠ .nan ∧ q ≠ .nan)) :
    fpTest op p q = decide (op = .ne ∨ op = .un) := by
  have hun : (p.isNan || q.isNan) = true := by
    rw [Bool.or_eq_true, FVal.isNan_iff, FVal.isNan_iff]
    tauto
  cases op <;> simp [fpTest, hun]

theorem fpTest_of_numbers (op : VCmp) {p q : FVal} (hp : p ≠ .nan) (hq : q ≠ .nan) :
    fpTest op p q = true ↔ ValuesMeet op p q := by
  have hun : (p.isNan || q.isNan) = false := by rw [FVal.isNan_eq_false hp, FVal.isNan_eq_false hq, Bool.or_false]
  have heq := FVal.cmp_eq_eq_iff hp hq
  have hlt := FVal.cmp_eq_lt_iff hp hq
  have hgt := FVal.cmp_eq_gt_iff hp hq
  cases op with
  | eq => simp [fpTest, ValuesMeet, hun, hp, hq, heq]
  | ne => simp [fpTest, ValuesMeet, hun, hp, hq, heq, or_iff_not_imp_left]
  | lt => simp [fpTest, ValuesMeet, hun, hp, hq, hlt]
  | le => simp [fpTest, ValuesMeet, hun, hp, hq, hgt]
  | gt => simp [fpTest, ValuesMeet, hun, hp, hq, hgt]
  | ge => simp [fpTest, ValuesMeet, hun, hp, hq, hlt]
  | un => simp [fpTest, ValuesMeet, hun, hp, hq]

theorem fpTest_iff (op : VCmp) (p q : FVal) : fpTest op p q = true ↔ ValuesMeet op p q := by
  by_cases hnum : p ≠ .nan ∧ q ≠ .nan
  · obtain ⟨hp, hq⟩ := hnum
    exact fpTest_of_numbers op hp hq
  · rw [fpTest_of_nan op hnum]
    cases op <;> simp [ValuesMeet, hnum]

theorem intTest_iff (op : VCmp) (m n : Int) : intTest op m n = true ↔ IntsMeet op m n := by
  cases op <;> simp [intTest, IntsMeet]

theorem elemTest_iff (op : VCmp) (fmt : Fmt) (a b : Nat) : elemTest op fmt a b = true ↔
    if fmt.isFp then ValuesMeet op ((ffmt fmt).decode a) ((ffmt fmt).decode b) else IntsMeet op (intVal fmt a) (intVal fmt b) := by
  rw [elemTest]
  split
  · exact fpTest_iff op _ _
  · exact intTest_iff op _ _

/-- A bit of a compare's predicate: the governing predicate's, and the condition on the element of that lane that h names. -/
theorem getLsbD_cmpPred (op : VCmp) (fmt : Fmt) (h : Nat) (pa : Word) (x : Vec) (b : Nat → Nat) {i : Nat} (hi : i < 64) :
    (cmpPred op fmt h pa x b).getLsbD i =
      (pa.getLsbD i && elemTest op fmt (elem fmt.width x (32 / fmt.width * i + h)) (b (32 / fmt.width * i + h))) := by
  rw [cmpPred, getLsbD_wordOfTest _ hi]

/-! ### Issues (R139, R140) -/

theorem exec_vcmp_eq (pd pa : Fin 8) (cop : VCmp) (fmt : Fmt) (h : Fin 8) (a b : XSrc) (s : State) :
    exec (.vcmp pd pa cop fmt h a b) s = execVcmp pd pa cop fmt h a b s := rfl
theorem exec_vcmpi_eq (pd pa : Fin 8) (cop : VCmp) (fmt : Fmt) (a : XSrc) (imm : BitVec 16) (s : State) :
    exec (.vcmpi pd pa cop fmt a imm) s = execVcmpi pd pa cop fmt a imm s := rfl
theorem exec_pand_eq (pd pa pb : Fin 8) (s : State) : exec (.pand pd pa pb) s = predOp pd (fun c => c.pred pa &&& c.pred pb) s := rfl
theorem exec_por_eq (pd pa pb : Fin 8) (s : State) : exec (.por pd pa pb) s = predOp pd (fun c => c.pred pa ||| c.pred pb) s := rfl
theorem exec_pxor_eq (pd pa pb : Fin 8) (s : State) : exec (.pxor pd pa pb) s = predOp pd (fun c => c.pred pa ^^^ c.pred pb) s := rfl
theorem exec_pnot_eq (pd pa : Fin 8) (s : State) : exec (.pnot pd pa) s = predOp pd (fun c => ~~~c.pred pa) s := rfl
theorem exec_pcnt_eq (pa : Fin 8) (s : State) : exec (.pcnt pa) s = execPcnt pa s := rfl
theorem exec_pfirst_eq (pd pa : Fin 8) (s : State) : exec (.pfirst pd pa) s = execPfirst pd pa s := rfl

section
variable {s : State} {a b : XSrc} {fmt : Fmt} {x y : Vec} {c1 c2 : Core} (pd pa : Fin 8) (cop : VCmp)
  (hroomy : s.Roomy) (ha : s.me.xsrcOk a = true) (hreada : readX fmt.width s.me a = .ok (x, c1))
include hroomy ha hreada

theorem vcmpi_issues (imm : BitVec 16) : Issues .x (.vcmpi pd pa cop fmt a imm) s c1
    [predReq 2 pd (cmpPred cop fmt 0 (s.me.pred pa) x fun _ => immBits fmt imm)] := by
  refine issues_of_ok (exec_vcmpi_eq ..) hroomy ?_
  simp only [legal, ha, hreada, if_true, bind, Except.bind, pure, Except.pure]

theorem vcmp_issues (h : Fin 8) (hb : s.me.xsrcOk b = true) (hreadb : readX fmt.width c1 b = .ok (y, c2)) :
    Issues .x (.vcmp pd pa cop fmt h a b) s c2
      [predReq 2 pd (cmpPred cop fmt h.val (s.me.pred pa) x fun e => elem fmt.width y e)] := by
  refine issues_of_ok (exec_vcmp_eq ..) hroomy ?_
  simp only [legal, ha, hb, Bool.and_self, hreada, hreadb, if_true, bind, Except.bind, pure, Except.pure]

end

theorem predOp_issues {s : State} {i : Instr} {pd : Fin 8} {f : Core → Word} {v : Word} (hexec : exec i s = predOp pd f s)
    (hroomy : s.Roomy) (hv : f s.me = v) : Issues .x i s s.me [predReq 1 pd v] := by
  subst hv
  exact issues_of_ok hexec hroomy rfl

theorem pushXq_ok {s : State} {c : Core} (h : ReadyXq s c) (n : Nat) (v : Word) (reqs : List Req) :
    pushXq n v reqs s s.me = .ok (.plain c (reqs ++ [landScalar chXq s.seq n v])) := by
  obtain ⟨hpresent, -, hplace⟩ := h
  simp only [pushXq, legal, hpresent, hplace, if_true, bind, Except.bind, pure, Except.pure]

theorem ReadyXq.roomy {s : State} {c : Core} (h : ReadyXq s c) : s.Roomy := by
  obtain ⟨-, hroomy, -⟩ := h
  exact hroomy

theorem pcnt_issues {s : State} {c : Core} (h : ReadyXq s c) (pa : Fin 8) : Issues .x (.pcnt pa) s c
    [landScalar chXq s.seq 1 (BitVec.ofNat 64 ((List.range 64).countP fun i => (s.me.pred pa).getLsbD i))] := by
  rw [← popCount_toNat]
  exact issues_of_ok (exec_pcnt_eq ..) h.roomy (pushXq_ok h _ _ _)

theorem pfirst_issues {s : State} {c : Core} (h : ReadyXq s c) (pd pa : Fin 8) : Issues .x (.pfirst pd pa) s c
    [predReq 1 pd (s.me.pred pa &&& -s.me.pred pa),
      landScalar chXq s.seq 1 (BitVec.ofNat 64 (trailingZeros 64 (s.me.pred pa).toNat))] :=
  issues_of_ok (exec_pfirst_eq ..) h.roomy (pushXq_ok h _ _ _)

/-! ### The statement -/

/-- Settles O23: the instructions issue as the lemmas above say, and a bit of a compare's predicate is its element's test. -/
theorem predicatesLand : Obligations.PredicatesLand := by
  unfold Obligations.PredicatesLand
  refine ⟨fun s pd pa cop fmt h a b imm x y c1 c2 hroomy ha hreada => ?compares, fun s pd pa pb hroomy => ?logic,
    fun s pd pa c h => ?counts, fun cop fmt h i pa x b hi => ?bit⟩
  case compares =>
    exact ⟨vcmpi_issues pd pa cop hroomy ha hreada imm, vcmp_issues pd pa cop hroomy ha hreada h⟩
  case logic =>
    exact ⟨predOp_issues (exec_pand_eq ..) hroomy rfl, predOp_issues (exec_por_eq ..) hroomy rfl,
      predOp_issues (exec_pxor_eq ..) hroomy rfl, predOp_issues (exec_pnot_eq ..) hroomy rfl⟩
  case counts =>
    exact ⟨pcnt_issues h pa, _, pfirst_issues h pd pa, fun i hi => getLsbD_and_neg _ hi⟩
  case bit =>
    intro e p q m n numbers floats integers
    have hfloats : ValuesMeet cop p q = floats := by cases cop <;> rfl
    have hintegers : IntsMeet cop m n = integers := by cases cop <;> rfl
    rw [getLsbD_cmpPred cop fmt h pa x b hi, Bool.and_eq_true, elemTest_iff, hfloats, hintegers]

end Sys2Proof.Machine
end

section
/-! PROOFS. The loads of L (R155 to R160, R164): a queue load from the checks of its elements, its stop at an address that is not aligned, LGEN and
LDQK, and the statement on the loads. -/

namespace Sys2Proof.Machine

open Sys2Proof

theorem exec_ldqs_eq (oq : Fin 8) (a : Fin 16) (cl : Cls) (fmt : Fmt) (cnt : BitVec 6) (inc : SInc) (imm : BitVec 18) (s : State) :
    exec (.ldqs oq a cl fmt cnt inc imm) s = execLdqs oq a cl fmt cnt inc imm s := rfl
theorem exec_lpf_eq (a : Fin 16) (cl : Cls) (cnt : BitVec 6) (inc : Inc) (imm : BitVec 18) (s : State) :
    exec (.lpf a cl cnt inc imm) s = execLpf a cl cnt inc imm s := rfl
theorem exec_lgen_eq (oq : Fin 8) (ag : Fin 4) (cl : Cls) (fmt : Fmt) (sg : Fin 7) (s : State) :
    exec (.lgen oq ag cl fmt sg) s = execLgen oq ag cl fmt sg s := rfl
theorem exec_ldqk_eq (oq : Fin 8) (a : Fin 16) (cl : Cls) (fmt : Fmt) (t : BitVec 6) (g : BitVec 2) (s : State) :
    exec (.ldqk oq a cl fmt t g) s = execLdqk oq a cl fmt t g s := rfl

/-! ### Addresses and their updates (R157) -/

/-- The write of an address register that an increment asks for. -/
def incReq (a : Fin 16) (inc : Inc) (x imm : Word) (span : Nat) : List Req :=
  if inc = .keep then [] else aregReq a (some (if inc = .step then x + BitVec.ofNat 64 span else x + imm))

theorem aregReq_incAddr (a : Fin 16) (inc : Inc) (x imm : Word) (span : Nat) :
    aregReq a (incAddr inc x imm span).2 = incReq a inc x imm span := by
  cases inc <;> rfl

theorem exec_ldq_eq (oq : Fin 8) (a : Fin 16) (cl : Cls) (fmt : Fmt) (cnt : BitVec 6) (inc : Inc) (imm : BitVec 18) (s : State) :
    exec (.ldq oq a cl fmt cnt inc imm) s = issue .l (fun s c => loadQueue oq cl
      (contiguous (if inc = .post then c.ctx.l.a[a] else c.ctx.l.a[a] + imm.signExtend 64).toNat (elBytes fmt) (cntBytes cnt)) 1 0
      (incReq a inc c.ctx.l.a[a] (imm.signExtend 64) (cntBytes cnt)) s c) s := by
  cases inc <;> rfl

theorem exec_ldqb_eq (oq : Fin 8) (a : Fin 16) (cl : Cls) (fmt : Fmt) (inc : Inc) (imm : BitVec 18) (s : State) :
    exec (.ldqb oq a cl fmt inc imm) s = issue .l (fun s c => loadQueue oq cl
      [⟨(if inc = .post then c.ctx.l.a[a] else c.ctx.l.a[a] + imm.signExtend 64).toNat, elBytes fmt, elBytes fmt, 0⟩] fmt.count 0
      (incReq a inc c.ctx.l.a[a] (imm.signExtend 64) (elBytes fmt)) s c) s := by
  cases inc <;> rfl

/-! ### The checks of a queue load's elements (R154, R158) -/

/-- The first check on an element at an address of 64 bits is on its alignment. -/
theorem checkPlaces_align {s : State} {id : CoreId} {cl : Cls} {perm : Perm} {va : Word} {z n lane : Nat} {ps : List Place} {c : Core}
    (h : va.toNat % n ≠ 0) :
    checkPlaces s id cl perm (⟨va.toNat, z, n, lane⟩ :: ps) c = .error (.trap .align (accessInfo va lane false)) := by
  have hmod : (va.toNat : Int) % (n : Int) ≠ 0 := by exact_mod_cast h
  simp only [checkPlaces, checkPlace, if_pos hmod, bind, Except.bind, BitVec.ofInt_natCast, BitVec.ofNat_toNat, BitVec.setWidth_eq]

/-- Where the bytes hold an element, the first begins at their address. -/
theorem contiguous_eq_cons (va : Int) {z m : Nat} (hz : 0 < z) (hm : z ≤ m) :
    ∃ ps, contiguous va z m = ⟨va, z, z, 0⟩ :: ps := by
  obtain ⟨n, hn⟩ := Nat.exists_eq_add_one_of_ne_zero (Nat.div_pos hm hz).ne'
  rw [contiguous, hn, List.range_succ_eq_map, List.map_cons, Nat.zero_mul, Nat.zero_div, Int.natCast_zero, Int.add_zero]
  exact ⟨_, rfl⟩

section
variable {s : State} {i : Instr} {f : State → Core → Except Stop IssueOut} {oq : Fin 8} {cl : Cls} {ps : List Place} {rep extra : Nat}
  {upd : List Req} {c : Core} (hexec : exec i s = issue .l f s) (hf : f s s.me = loadQueue oq cl ps rep extra upd s s.me)
  (hpresent : s.me.chanPresent (chOq oq) = true) (hplace : s.me.reserve (chOq oq) s.seq (BitVec.allOnes 64) = .ok c)
include hexec hf hpresent hplace

/-- A queue load whose elements pass their checks. -/
theorem loadQueue_issues {els : List El} {c1 : Core} (hroomy : s.Roomy) (hcheck : checkPlaces s s.cur cl .r ps c = .ok (els, c1)) :
    Issues .l i s c1 (s.accessReqs s.cur c1 ⟨.ldQ (chOq oq).val s.seq, (List.replicate rep els).flatten, c1.posOf .l, none⟩
      (s.latency s.cur cl ((List.replicate rep els).flatten.flatMap El.pas) + extra) ++ upd) := by
  refine issues_of_ok hexec hroomy (hf.trans ?_)
  simp only [loadQueue, legal, hpresent, hplace, hcheck, if_true, bind, Except.bind, pure, Except.pure, Access.pas]

theorem loadQueue_align {va : Word} {z : Nat} {rest : List Place} (hps : ps = ⟨va.toNat, z, z, 0⟩ :: rest)
    (halign : va.toNat % z ≠ 0) :
    TrapsAt .l i s .align (accessInfo va 0 false) := by
  refine trapsAt_of_error hexec (hf.trans ?_) (by decide)
  simp only [loadQueue, legal, hpresent, hplace, hps, checkPlaces_align halign, if_true, bind, Except.bind]

end

theorem flatten_replicate_one {α : Type} (l : List α) : (List.replicate 1 l).flatten = l := by
  rw [List.replicate_one, List.flatten_singleton]

/-- LGEN's accesses come four cycles later where an indirect dimension reads its table (R162, R164). -/
theorem lgen_issues {s : State} {oq : Fin 8} {ag : Fin 4} {cl : Cls} {fmt : Fmt} {sg : Fin 7} {c c1 : Core} {els : List El}
    (hroomy : s.Roomy) (hpresent : s.me.chanPresent (chOq oq) = true)
    (hplace : s.me.reserve (chOq oq) s.seq (BitVec.allOnes 64) = .ok c)
    (hsegs : genSegs s s.cur cl ag (elBytes fmt) (256 / 2 ^ sg.val) (2 ^ sg.val) 0 s.me.ctx.l.ag[ag] c = .ok (els, c1)) :
    IssuesAs .l (.lgen oq ag cl fmt sg) s { IssueOut.plain c1
        (s.accessReqs s.cur c1 ⟨.ldQ (chOq oq).val s.seq, els, c1.posOf .l, none⟩
          (s.latency s.cur cl (els.flatMap El.pas) + s.me.ctx.l.ag[ag].extra) ++ [agReq ag (s.me.ctx.l.ag[ag].steps (2 ^ sg.val))])
      with reads := s.me.ctx.l.ag[ag].reads s.cur (2 ^ sg.val) } := by
  refine issuesAs_of_ok (exec_lgen_eq ..) hroomy ?_
  simp only [legal, hpresent, hplace, hsegs, if_true, bind, Except.bind, pure, Except.pure, Access.pas]

/-! ### LDQK (R159, R160) -/

section
variable {s : State} {oq : Fin 8} {a : Fin 16} {cl : Cls} {fmt : Fmt} {t : BitVec 6} {g : BitVec 2}
  (hpresent : s.me.chanPresent (chOq oq) = true)
include hpresent

theorem ldqk_issues {c c1 : Core} {pa : Nat} (hroomy : s.Roomy)
    (hcheck : checkElem s s.cur s.me cl .r s.me.ctx.l.a[a] 16 16 0 false = .ok (pa, c))
    (hplace : c.reserve (chOq oq) s.seq (BitVec.allOnes 64) = .ok c1) (hrope : c1.ctx.sys.ropetab.toNat % 2 ^ 20 + 1024 ≤ 2 ^ 20) :
    Issues .l (.ldqk oq a cl fmt t g) s c1 (s.memReqs s.cur c1 (pasFrom pa 16) .ldqkEntryRead
      (.ldqk ⟨pa, s.me.ctx.l.a[a], cl, fmt, t.toNat, g.toNat, (chOq oq).val, s.seq,
        c1.ctx.sys.ropetab.toNat % 2 ^ 20, none, c1.posOf .l⟩)
      (s.latency s.cur cl (pasFrom pa 16))) := by
  refine issues_of_ok (exec_ldqk_eq ..) hroomy ?_
  simp only [legal, hpresent, hcheck, hplace, if_neg hrope.not_gt, if_true, bind, Except.bind, pure, Except.pure]

theorem ldqk_align (halign : s.me.ctx.l.a[a].toNat % 16 ≠ 0) :
    TrapsAt .l (.ldqk oq a cl fmt t g) s .align (accessInfo s.me.ctx.l.a[a] 0 false) := by
  refine trapsAt_of_error (exec_ldqk_eq ..) ?_ (by decide)
  simp only [legal, hpresent, checkElem_align halign, if_true, bind, Except.bind]

end

/-! ### The statement -/

/-- Settles O27: the queue loads differ in the elements that they name and in their update, and LDQK's read is the one above. -/
theorem loadsToQueuesIssue : Obligations.LoadsToQueuesIssue := by
  unfold Obligations.LoadsToQueuesIssue
  refine ⟨⟨fun s oq a cl fmt cnt inc imm c hroomy hpresent hplace => ⟨?lpf, fun els c1 hcheck => ?ldq, fun els c1 hcheck => ?ldqb,
      fun halign => ⟨?ldqbAlign, fun hm => ?ldqAlign⟩⟩,
    fun s oq a cl fmt cnt inc imm c c1 els hroomy hpresent hplace => ?ldqs,
    fun s oq ag cl fmt sg c c1 els hroomy hpresent hplace => ?lgen⟩,
    fun s oq a cl fmt t g c c1 pa hroomy hpresent => ⟨ldqk_issues hpresent hroomy, ldqk_align hpresent⟩⟩
  case lpf => exact issues_of_ok (exec_lpf_eq ..) hroomy (by rw [aregReq_incAddr]; rfl)
  case ldq =>
    have hissues := loadQueue_issues (exec_ldq_eq oq a cl fmt cnt inc imm s) rfl hpresent hplace hroomy hcheck
    rwa [flatten_replicate_one] at hissues
  case ldqb => exact loadQueue_issues (exec_ldqb_eq ..) rfl hpresent hplace hroomy hcheck
  case ldqbAlign => exact loadQueue_align (exec_ldqb_eq ..) rfl hpresent hplace rfl halign
  case ldqAlign =>
    obtain ⟨ps, hps⟩ := contiguous_eq_cons _ (Nat.lt_of_lt_of_le Nat.one_pos (le_max_left 1 (fmt.width / 8))) hm
    exact loadQueue_align (exec_ldq_eq ..) rfl hpresent hplace hps halign
  case ldqs =>
    intro x z k places hcheck
    have hissues := loadQueue_issues (exec_ldqs_eq oq a cl fmt cnt inc imm s) rfl hpresent hplace hroomy hcheck
    rw [flatten_replicate_one] at hissues
    cases inc <;> exact hissues
  case lgen => exact lgen_issues hroomy hpresent hplace

end Sys2Proof.Machine
end

section
/-! PROOFS. Address generators (R161, R162): the step of one dimension and its carry, the number of all dimensions' indices, the address
without an indirect dimension, and the statement on them. -/

namespace Sys2Proof.Machine

open Sys2Proof

/-! ### A step in mixed radix (R162) -/

/-- A dimension's next index, c more than the last, and its carry. -/
def digitStep (n i c : Nat) : Nat × Nat := if i + c = n then (0, 1) else (i + c, 0)

theorem digitStep_spec {n i c : Nat} (hi : i < n) (hc : c ≤ 1) :
    (digitStep n i c).1 < n ∧ (digitStep n i c).2 ≤ 1 ∧ (digitStep n i c).1 + n * (digitStep n i c).2 = i + c := by
  rw [digitStep]
  split
  · next h => exact ⟨by dsimp only; omega, le_rfl, by simp [h]⟩
  · next h => exact ⟨by dsimp only; omega, Nat.zero_le 1, by simp⟩

/-- A lower digit below its count keeps a number below that of all digits. -/
theorem digit_add_lt {n i m y : Nat} (hi : i < n) (hy : y < m) : i + n * y < n * m :=
  calc i + n * y < n + n * y := Nat.add_lt_add_right hi _
    _ = n * (y + 1) := by rw [Nat.mul_add, Nat.mul_one, Nat.add_comm]
    _ ≤ n * m := Nat.mul_le_mul_left n hy

theorem number_lt {n0 n1 n2 n3 i0 i1 i2 i3 : Nat} (h0 : i0 < n0) (h1 : i1 < n1) (h2 : i2 < n2) (h3 : i3 < n3) :
    i0 + n0 * (i1 + n1 * (i2 + n2 * i3)) < n0 * n1 * n2 * n3 := by
  rw [Nat.mul_assoc, Nat.mul_assoc]
  exact digit_add_lt h0 (digit_add_lt h1 (digit_add_lt h2 h3))

/-- Where each digit takes the carry of the one below it, the number grows by 1, but for the last carry. -/
theorem carried_number {n0 n1 n2 n3 i0 i1 i2 i3 a0 a1 a2 a3 c0 c1 c2 c3 : Nat} (h0 : a0 + n0 * c0 = i0 + 1) (h1 : a1 + n1 * c1 = i1 + c0)
    (h2 : a2 + n2 * c2 = i2 + c1) (h3 : a3 + n3 * c3 = i3 + c2) :
    a0 + n0 * (a1 + n1 * (a2 + n2 * a3)) + n0 * n1 * n2 * n3 * c3 = i0 + n0 * (i1 + n1 * (i2 + n2 * i3)) + 1 := by
  zify at *
  linear_combination h0 + n0 * h1 + n0 * n1 * h2 + n0 * n1 * n2 * h3

/-- The number of a generator's indices by the counts of another, dimension 0 lowest. -/
def AddrGen.number (h g : AddrGen) : Nat := h.idx[0] + g.n 0 * (h.idx[1] + g.n 1 * (h.idx[2] + g.n 2 * h.idx[3]))

/-- The carries of a step's lower three dimensions. -/
def AddrGen.carry0 (g : AddrGen) : Nat := (digitStep (g.n 0) g.idx[0] 1).2
def AddrGen.carry1 (g : AddrGen) : Nat := (digitStep (g.n 1) g.idx[1] g.carry0).2
def AddrGen.carry2 (g : AddrGen) : Nat := (digitStep (g.n 2) g.idx[2] g.carry1).2

theorem fst_digitStep (n i c : Nat) : (digitStep n i c).1 = if i + c = n then 0 else i + c := by
  rw [digitStep, apply_ite Prod.fst]

theorem getElem_of_four {α : Type} (a b c d : α) : #v[a, b, c, d][0] = a ∧ #v[a, b, c, d][1] = b ∧ #v[a, b, c, d][2] = c ∧
    #v[a, b, c, d][3] = d := ⟨rfl, rfl, rfl, rfl⟩

/-- A step passes each dimension's carry to the next; that of the last is dropped. -/
theorem AddrGen.step_eq (g : AddrGen) : g.step = { g with idx := #v[(digitStep (g.n 0) g.idx[0] 1).1,
    (digitStep (g.n 1) g.idx[1] g.carry0).1, (digitStep (g.n 2) g.idx[2] g.carry1).1, (digitStep (g.n 3) g.idx[3] g.carry2).1] } := by
  rw [fst_digitStep (g.n 3)]
  rfl

theorem AddrGen.idx_step (g : AddrGen) : g.step.idx[0] = (digitStep (g.n 0) g.idx[0] 1).1 ∧
    g.step.idx[1] = (digitStep (g.n 1) g.idx[1] g.carry0).1 ∧ g.step.idx[2] = (digitStep (g.n 2) g.idx[2] g.carry1).1 ∧
    g.step.idx[3] = (digitStep (g.n 3) g.idx[3] g.carry2).1 := by
  rw [g.step_eq]
  exact getElem_of_four ..

theorem AddrGen.step_spec {g : AddrGen} (h : ∀ d : Fin 4, g.idx[d] < g.n d) : (∀ d : Fin 4, g.step.idx[d] < g.n d) ∧
    g.step.number g = (g.number g + 1) % (g.n 0 * g.n 1 * g.n 2 * g.n 3) := by
  obtain ⟨hlt0, hc0, hsum0⟩ := digitStep_spec (i := g.idx[0]) (h 0) le_rfl
  obtain ⟨hlt1, hc1, hsum1⟩ := digitStep_spec (i := g.idx[1]) (c := g.carry0) (h 1) hc0
  obtain ⟨hlt2, hc2, hsum2⟩ := digitStep_spec (i := g.idx[2]) (c := g.carry1) (h 2) hc1
  obtain ⟨hlt3, hc3, hsum3⟩ := digitStep_spec (i := g.idx[3]) (c := g.carry2) (h 3) hc2
  obtain ⟨hidx0, hidx1, hidx2, hidx3⟩ := g.idx_step
  have hnumber := carried_number hsum0 hsum1 hsum2 hsum3
  refine ⟨fun d => ?below, ?number⟩
  case below =>
    rw [Fin.getElem_fin]
    match d with
    | 0 => exact hidx0.trans_lt hlt0
    | 1 => exact hidx1.trans_lt hlt1
    | 2 => exact hidx2.trans_lt hlt2
    | 3 => exact hidx3.trans_lt hlt3
  case number =>
    rw [AddrGen.number, AddrGen.number, hidx0, hidx1, hidx2, hidx3, ← hnumber, Nat.add_mul_mod_self_left,
      Nat.mod_eq_of_lt (number_lt hlt0 hlt1 hlt2 hlt3)]

/-! ### Addresses (R162) -/

theorem genAddr_direct {g : AddrGen} (hind : g.ind = 0) (s : State) (id : CoreId) (k : Fin 4) (lane : Nat) (prog : Bool) :
    genAddr s id k g lane prog = .ok (g.base + BitVec.ofNat 64 g.idx[0] * (g.stride[0]).signExtend 64 +
      BitVec.ofNat 64 g.idx[1] * (g.stride[1]).signExtend 64 + BitVec.ofNat 64 g.idx[2] * (g.stride[2]).signExtend 64 +
      BitVec.ofNat 64 g.idx[3] * (g.stride[3]).signExtend 64) := by
  have hfactor (d : Fin 4) : genFactor s id k g lane prog d = .ok (g.idx[d] : Int) :=
    if_neg (by rw [hind]; exact (Nat.succ_ne_zero d.val).symm)
  simp only [genAddr, hfactor, bind, Except.bind, pure, Except.pure, BitVec.ofInt_add, BitVec.ofInt_mul, BitVec.ofInt_natCast,
    BitVec.ofNat_toNat, BitVec.setWidth_eq]
  rfl

/-! ### The statement -/

/-- Settles O28: the carries of a step make it the next number, and a table's value is in no factor of a direct generator's address. -/
theorem generatorsStepAndAddress : Obligations.GeneratorsStepAndAddress := by
  unfold Obligations.GeneratorsStepAndAddress
  refine ⟨fun g h => ?_, fun s id k g lane prog hind => ⟨_, genAddr_direct hind s id k lane prog, rfl⟩⟩
  obtain ⟨hbelow, hnumber⟩ := AddrGen.step_spec h
  exact ⟨hbelow, hnumber, rfl, rfl, rfl⟩

end Sys2Proof.Machine
end

section
/-! PROOFS. The address registers of L and S, the address generators and the completion bitmaps (R155, R161, R163, R167, R168): what each
instruction's popped operand asks for, and the statement on them. -/

namespace Sys2Proof.Machine

open Sys2Proof

theorem exec_laddi_eq (d a : Fin 16) (imm : BitVec 31) (s : State) : exec (.laddi d a imm) s = execLaddi d a imm s := rfl
theorem exec_lmovi_eq (d : Fin 16) (imm : BitVec 31) (s : State) : exec (.lmovi d imm) s = execLmovi d imm s := rfl
theorem exec_saddi_eq (d a : Fin 16) (imm : BitVec 31) (s : State) : exec (.saddi d a imm) s = execSaddi d a imm s := rfl
theorem exec_smovi_eq (d : Fin 16) (imm : BitVec 31) (s : State) : exec (.smovi d imm) s = execSmovi d imm s := rfl
theorem exec_agrst_eq (k : Fin 4) (s : State) : exec (.agrst k) s = execAgrst k s := rfl
theorem exec_cbclr_eq (k : Fin 4) (s : State) : exec (.cbclr k) s = execCbclr k s := rfl
theorem exec_agset_eq (k : Fin 4) (grp : AgGroup) (s : State) : exec (.agset k grp) s = execAgset k grp s := rfl
theorem exec_cbget_eq (k : Fin 4) (s : State) : exec (.cbget k) s = execCbget k s := rfl

/-- The issue of an instruction that pops one operand and asks for what it says. -/
def popIssue (ch : Fin 18) (f : Word → Core → List Req) (_ : State) (c : Core) : Except Stop IssueOut := do
  legal (c.chanPresent ch)
  let (e, c) ← c.pop ch
  return .plain c (f (wordOfVec e.v) c)

/-- AGIDX's indices: 16 bits of its operand each, modulo the dimension's count (R163). -/
def AddrGen.indexed (g : AddrGen) (v : Word) : AddrGen :=
  { g with idx := Vector.ofFn fun d => bits v (16 * d.val + 15) (16 * d.val) % g.n d }

theorem exec_ladd_eq (d a : Fin 16) (s : State) :
    exec (.ladd d a) s = issue .l (popIssue chCl fun v c => aregReq d (some (c.ctx.l.a[a] + v))) s := rfl
theorem exec_lpopc_eq (d : Fin 16) (s : State) : exec (.lpopc d) s = issue .l (popIssue chCl fun v _ => aregReq d (some v)) s := rfl
theorem exec_lgcb_eq (k : Fin 4) (s : State) : exec (.lgcb k) s = issue .l (popIssue chCl fun v _ => [cbReq k v]) s := rfl
theorem exec_agidx_eq (k : Fin 4) (s : State) :
    exec (.agidx k) s = issue .l (popIssue chCl fun v c => [agReq k (c.ctx.l.ag[k].indexed v)]) s := rfl
theorem exec_sadd_eq (d a : Fin 16) (s : State) :
    exec (.sadd d a) s = issue .s (popIssue chCs fun v c => bregReq d (some (c.ctx.st.b[a] + v))) s := rfl
theorem exec_spopc_eq (d : Fin 16) (s : State) : exec (.spopc d) s = issue .s (popIssue chCs fun v _ => bregReq d (some v)) s := rfl

theorem pop_issues {s : State} {cl : Cluster} {i : Instr} {ch : Fin 18} {f : Word → Core → List Req} {e : ChanEntry} {c : Core}
    {reqs : List Req} (hexec : exec i s = issue cl (popIssue ch f) s) (hroomy : s.Roomy) (hpresent : s.me.chanPresent ch = true)
    (hpop : s.me.pop ch = .ok (e, c)) (hreqs : f (wordOfVec e.v) c = reqs) : Issues cl i s c reqs := by
  subst hreqs
  refine issues_of_ok hexec hroomy ?_
  simp only [popIssue, legal, hpresent, hpop, if_true, bind, Except.bind, pure, Except.pure]

theorem AddrGen.idx_indexed (g : AddrGen) (v : Word) (i : Fin 4) :
    (g.indexed v).idx[i] = v.toNat / 2 ^ (16 * i.val) % 65536 % g.n i := by
  have hwidth : 16 * i.val + 15 + 1 - 16 * i.val = 16 := by omega
  rw [AddrGen.indexed, Fin.getElem_fin, Vector.getElem_ofFn, bits, fld, hwidth]
  rfl

section
variable {s : State} {k : Fin 4} {e : ChanEntry} {c : Core} (hroomy : s.Roomy) (hpresent : s.me.chanPresent chCl = true)
  (hpop : s.me.pop chCl = .ok (e, c))
include hroomy hpresent hpop

/-- AGSET writes a group of the generator; that of the indirect dimension must be well formed (R161, R163). -/
theorem agset_issues {grp : AgGroup}
    (hind : grp = .ind → (wordOfVec e.v).toNat % 8 ≤ 4 ∧ (wordOfVec e.v).toNat / 2 ^ 32 % 4 = 0) :
    Issues .l (.agset k grp) s c [agReq k (agWrite c.ctx.l.ag[k] grp (wordOfVec e.v))] := by
  refine issues_of_ok (exec_agset_eq ..) hroomy ?_
  have hdim : ¬ (grp = .ind ∧ 4 < (wordOfVec e.v).toNat % 8) := fun h => (hind h.1).1.not_gt h.2
  have hbits : ¬ (grp = .ind ∧ bits (wordOfVec e.v) 33 32 ≠ 0) := fun h => h.2 (hind h.1).2
  simp only [legal, hpresent, hpop, if_true, bind, Except.bind, pure, Except.pure, if_neg hdim, if_neg hbits]

end

theorem cbget_issues {s : State} {k : Fin 4} {c : Core} (hroomy : s.Roomy) (hpresent : s.me.chanPresent chLq = true)
    (hplace : s.me.reserve chLq s.seq (BitVec.allOnes 64) = .ok c) :
    Issues .l (.cbget k) s c [landScalar chLq s.seq 1 c.ctx.l.cb[k]] := by
  refine issues_of_ok (exec_cbget_eq ..) hroomy ?_
  simp only [legal, hpresent, hplace, if_true, bind, Except.bind, pure, Except.pure]

/-! ### The statement -/

/-- Settles O30: the instructions without an operand issue at once, the others with the operand that they pop. -/
theorem addressRegistersLand : Obligations.AddressRegistersLand := by
  unfold Obligations.AddressRegistersLand
  refine ⟨fun s d a imm k hroomy => ?immediate, fun s d a k e c hroomy hpresent hpop => ?cl,
    fun s d a e c hroomy hpresent hpop => ?cs, fun s k c => cbget_issues⟩
  case immediate =>
    exact ⟨issues_of_ok (exec_laddi_eq ..) hroomy rfl, issues_of_ok (exec_lmovi_eq ..) hroomy rfl,
      issues_of_ok (exec_saddi_eq ..) hroomy rfl, issues_of_ok (exec_smovi_eq ..) hroomy rfl,
      issues_of_ok (exec_agrst_eq ..) hroomy rfl, issues_of_ok (exec_cbclr_eq ..) hroomy rfl⟩
  case cl =>
    intro v g sets
    refine ⟨?ladd, ?lpopc, ?lgcb, ?agidx, ?base, ?dim, ?bound, ?ind⟩
    case ladd => exact pop_issues (exec_ladd_eq ..) hroomy hpresent hpop rfl
    case lpopc => exact pop_issues (exec_lpopc_eq ..) hroomy hpresent hpop rfl
    case lgcb => exact pop_issues (exec_lgcb_eq ..) hroomy hpresent hpop rfl
    case agidx =>
      refine ⟨(g.indexed v).idx, ?_, ?_⟩
      · exact pop_issues (exec_agidx_eq ..) hroomy hpresent hpop rfl
      · exact g.idx_indexed v
    case base => exact agset_issues (grp := .base) hroomy hpresent hpop nofun
    case dim => exact fun i => agset_issues (grp := .dim i) hroomy hpresent hpop nofun
    case bound => exact agset_issues (grp := .bound) hroomy hpresent hpop nofun
    case ind => exact fun hdim hbits => agset_issues (grp := .ind) hroomy hpresent hpop fun _ => ⟨hdim, hbits⟩
  case cs => exact ⟨pop_issues (exec_sadd_eq ..) hroomy hpresent hpop rfl, pop_issues (exec_spopc_eq ..) hroomy hpresent hpop rfl⟩

end Sys2Proof.Machine
end

section
/-! PROOFS. Atomic operations on memory (R7, R227): bytes and the numbers that they stand for, the writes of an atomic operation, and one
operation that reads a word and writes its new value. -/

namespace Sys2Proof.Machine

open Sys2Proof

/-! ### Bytes and numbers (R7) -/

@[simp] theorem length_leBytes (v n : Nat) : (leBytes v n).length = n := by
  induction n generalizing v with
  | zero => rfl
  | succ n ih => rw [leBytes, List.length_cons, ih]

@[simp] theorem length_pasFrom (pa n : Nat) : (pasFrom pa n).length = n := by rw [pasFrom, List.length_map, List.length_range]

theorem leNat_leBytes (v n : Nat) : leNat (leBytes v n) = v % 256 ^ n := by
  induction n generalizing v with
  | zero => rw [Nat.pow_zero, Nat.mod_one]; rfl
  | succ n ih =>
    rw [leBytes, leNat, ih, BitVec.toNat_ofNat, pow_succ' 256, Nat.mod_mul]

theorem Mem.num_eq (m : Mem) (pa n : Nat) : m.num pa n = leNat ((pasFrom pa n).map m.get) := by rw [Mem.num, Mem.read_eq_map]

theorem Mem.num_congr {m m' : Mem} {pa n : Nat} (h : ∀ q ∈ pasFrom pa n, m'.get q = m.get q) : m'.num pa n = m.num pa n := by
  rw [Mem.num_eq, Mem.num_eq, List.map_congr_left h]

/-! ### Writes of an atomic operation (R227) -/

/-- A write changes memory and the ledger alone. -/
theorem State.foldl_writeByteAs_eq (s : State) (c : CoreId) (atom : Bool) (ws : List ByteWrite) :
    ∃ m l, ws.foldl (fun t w => t.writeByteAs c atom w) s = { s with mem := m, ledger := l } := by
  induction ws generalizing s with
  | nil => exact ⟨_, _, rfl⟩
  | cons w ws ih =>
    obtain ⟨m, l, h⟩ := ih (s.writeByteAs c atom w)
    rw [List.foldl_cons, h, State.writeByteAs]
    split <;> exact ⟨_, _, rfl⟩

/-- What a write puts on record is about its own bytes. -/
theorem State.mem_ledger_foldl_writeByteAs {s : State} {c : CoreId} {atom : Bool} {ws : List ByteWrite} {r : WriteRec}
    (h : r ∈ (ws.foldl (fun t w => t.writeByteAs c atom w) s).ledger) : r ∈ s.ledger ∨ r.pa ∈ ws.map ByteWrite.pa := by
  induction ws generalizing s with
  | nil => exact .inl h
  | cons w ws ih =>
    rw [List.map_cons, List.mem_cons]
    obtain h | h := ih h
    · simp only [State.writeByteAs] at h
      split at h
      · exact .inl h
      · obtain rfl | h := List.mem_cons.mp h
        · exact .inr (.inl rfl)
        · exact .inl h
    · exact .inr (.inr h)

theorem State.writeAtomAs_eq (s : State) (c : CoreId) (ws : List ByteWrite) : ∃ m l p f, s.writeAtomAs c ws =
    { s with mem := m, ledger := l, poison := p, soft := f } := by
  obtain ⟨m, l, h⟩ := s.foldl_writeByteAs_eq c true ws
  rw [State.writeAtomAs, h]
  exact ⟨_, _, _, _, rfl⟩

section
variable (s : State) (c : CoreId) (ws : List ByteWrite)

@[simp] theorem State.cur_writeAtomAs : (s.writeAtomAs c ws).cur = s.cur := by
  obtain ⟨m, l, p, f, h⟩ := s.writeAtomAs_eq c ws
  rw [h]

@[simp] theorem State.away_writeAtomAs : (s.writeAtomAs c ws).away = s.away := by
  obtain ⟨m, l, p, f, h⟩ := s.writeAtomAs_eq c ws
  rw [h]

@[simp] theorem State.core_writeAtomAs (id : CoreId) : (s.writeAtomAs c ws).core id = s.core id := by
  obtain ⟨m, l, p, f, h⟩ := s.writeAtomAs_eq c ws
  rw [h]
  rfl

@[simp] theorem State.inMotion_writeAtomAs (pa : Nat) : (s.writeAtomAs c ws).inMotion pa = s.inMotion pa := by
  obtain ⟨m, l, p, f, h⟩ := s.writeAtomAs_eq c ws
  rw [h]
  rfl

end

section
variable {s : State} {c : CoreId} {ws : List ByteWrite} (hwf : s.mem.wf = true)
include hwf

theorem State.get_writeAtomAs_other {pa : Nat} (h : pa ∉ ws.map ByteWrite.pa) : (s.writeAtomAs c ws).mem.get pa = s.mem.get pa :=
  foldl_writes_other (read := fun t => t.mem.get) (ok := s.Writable) (fun _ w ht => ht.writeByteAs c true w)
    (fun _ _ _ ht => State.get_writeByteAs_other ht.1) ⟨hwf, fun _ => rfl⟩ fun _ hw heq => h (List.mem_map.mpr ⟨_, hw, heq⟩)

/-- The bytes of a write are the ones that memory holds then. -/
theorem State.map_get_writeAtomAs (hnodup : (ws.map ByteWrite.pa).Nodup) (hstill : ∀ pa ∈ ws.map ByteWrite.pa, s.inMotion pa = false) :
    (ws.map ByteWrite.pa).map (s.writeAtomAs c ws).mem.get = ws.map ByteWrite.val := by
  rw [List.map_map]
  refine List.map_congr_left fun w hw => ?_
  exact foldl_writes_written (read := fun t => t.mem.get) (ok := s.Writable) (fun _ w ht => ht.writeByteAs c true w)
    (fun _ _ _ ht => State.get_writeByteAs_other ht.1) ⟨hwf, fun _ => rfl⟩ hnodup hw
    fun _ ht => (State.get_writeByteAs c true w w.pa ht.1).trans (if_pos ⟨rfl, (ht.2 w.pa).trans (hstill _ (List.mem_map_of_mem hw))⟩)

end

theorem map_val_bytesAt (pa va : Nat) (bs : List Byte) : (bytesAt pa va bs).map ByteWrite.val = bs := by
  induction bs generalizing pa va with
  | nil => rfl
  | cons b bs ih => rw [bytesAt, List.map_cons, ih]

/-! ### One operation at one word (R226, R227) -/

/-- An atomic operation reads what memory holds, where no write to its bytes is on record and no way moves. -/
theorem State.readAtomAs_eq_map {s : State} (c : CoreId) {pas : List Nat} (hledger : ∀ r ∈ s.ledger, r.pa ∉ pas)
    (hstill : ∀ pa ∈ pas, s.inMotion pa = false) : s.readAtomAs c pas = pas.map s.mem.get := by
  refine List.map_congr_left fun pa hpa => ?_
  have hnone : s.ledger.find? (fun r => r.pa == pa) = none :=
    List.find?_eq_none.mpr fun r hr heq => hledger r hr (beq_iff_eq.mp heq ▸ hpa)
  simp only [hstill pa hpa, hnone, Bool.false_eq_true, if_false]

/-- An atomic operation of size bytes at pa: what it reads, and the new number that it writes. -/
def State.atomicAt (s : State) (pa va size : Nat) (new : Nat → Nat) : State :=
  (s.noteRead s.cur (pasFrom pa size)).writeAtomAs s.cur
    (bytesAt pa va (leBytes (new (leNat (s.readAtomAs s.cur (pasFrom pa size)))) size))

/-- A read keeps of a core all but the count of corrected errors and the prefetch accounting (R210, R243). -/
theorem State.core_noteRead_keeps {γ : Type} (g : Core → γ) (hfix : ∀ c vault row, g (Core.countFix c vault row) = g c)
    (hcopy : ∀ (c : Core) k, g (c.modCtx fun x => { x with copy := k }) = g c) (s : State) (id : CoreId) (pas : List Nat) (d : CoreId) :
    g ((s.noteRead id pas).core d) = g (s.core d) := by
  rw [← s.core_correct_keeps g hfix pas d, State.noteRead]
  split
  · rfl
  · by_cases h : d = id
    · subst h
      rw [State.core_modCore_self]
      exact hcopy _ _
    · rw [State.core_modCore_other _ _ _ _ h]

theorem State.inMotion_noteRead (s : State) (id : CoreId) (pas : List Nat) (pa : Nat) :
    (s.noteRead id pas).inMotion pa = s.inMotion pa := by
  obtain ⟨cs, sf, h⟩ := s.noteRead_eq id pas
  exact State.inMotion_congr (by rw [h]) (by rw [h])
    (State.core_noteRead_keeps Core.motion (fun _ _ _ => rfl) (fun _ _ => rfl) s id pas) pa

section
variable (s : State) (pa va size : Nat) (new : Nat → Nat)

@[simp] theorem State.cur_atomicAt : (s.atomicAt pa va size new).cur = s.cur := by
  obtain ⟨cs, sf, h⟩ := s.noteRead_eq s.cur (pasFrom pa size)
  rw [State.atomicAt, State.cur_writeAtomAs, h]

@[simp] theorem State.away_atomicAt : (s.atomicAt pa va size new).away = s.away := by
  obtain ⟨cs, sf, h⟩ := s.noteRead_eq s.cur (pasFrom pa size)
  rw [State.atomicAt, State.away_writeAtomAs, h]

@[simp] theorem State.inMotion_atomicAt (q : Nat) : (s.atomicAt pa va size new).inMotion q = s.inMotion q := by
  rw [State.atomicAt, State.inMotion_writeAtomAs, State.inMotion_noteRead]

@[simp] theorem State.chan_atomicAt (id : CoreId) : ((s.atomicAt pa va size new).core id).ctx.chan = (s.core id).ctx.chan := by
  rw [State.atomicAt, State.core_writeAtomAs]
  exact State.core_noteRead_keeps (fun c => c.ctx.chan) (fun _ _ _ => rfl) (fun _ _ => rfl) s _ _ id

theorem State.mem_ledger_atomicAt {r : WriteRec} (h : r ∈ (s.atomicAt pa va size new).ledger) :
    r ∈ s.ledger ∨ r.pa ∈ pasFrom pa size := by
  obtain ⟨cs, sf, hread⟩ := s.noteRead_eq s.cur (pasFrom pa size)
  have hcases := State.mem_ledger_foldl_writeByteAs h
  rwa [map_pa_bytesAt, length_leBytes, hread] at hcases

end

section
variable {s : State} {pa va size : Nat} {new : Nat → Nat} (hwf : s.mem.wf = true)
include hwf

theorem State.wf_atomicAt : (s.atomicAt pa va size new).mem.wf = true :=
  State.writeAtomAs_wf _ _ _ (by rwa [State.mem_noteRead])

theorem State.get_atomicAt_other {q : Nat} (h : q ∉ pasFrom pa size) : (s.atomicAt pa va size new).mem.get q = s.mem.get q := by
  rw [State.atomicAt, State.get_writeAtomAs_other (by rwa [State.mem_noteRead]), State.mem_noteRead]
  rwa [map_pa_bytesAt, length_leBytes]

/-- The word takes the new value of the number that it held. -/
theorem State.num_atomicAt (hledger : ∀ r ∈ s.ledger, r.pa ∉ pasFrom pa size)
    (hstill : ∀ q ∈ pasFrom pa size, s.inMotion q = false) :
    (s.atomicAt pa va size new).mem.num pa size = new (s.mem.num pa size) % 256 ^ size := by
  have hold : leNat (s.readAtomAs s.cur (pasFrom pa size)) = s.mem.num pa size := by
    rw [State.readAtomAs_eq_map s.cur hledger hstill, Mem.num_eq]
  have hpas (v : Nat) : (bytesAt pa va (leBytes v size)).map ByteWrite.pa = pasFrom pa size := by rw [map_pa_bytesAt, length_leBytes]
  have hbytes := State.map_get_writeAtomAs (s := s.noteRead s.cur (pasFrom pa size)) (c := s.cur)
    (ws := bytesAt pa va (leBytes (new (s.mem.num pa size)) size)) (by rwa [State.mem_noteRead]) (by rw [hpas]; exact nodup_pasFrom _ _)
    (by rw [hpas]; exact fun q hq => (s.inMotion_noteRead _ _ q).trans (hstill q hq))
  rw [hpas, map_val_bytesAt] at hbytes
  rw [State.atomicAt, hold, Mem.num_eq, hbytes, leNat_leBytes]

end

end Sys2Proof.Machine
end

section
/-! PROOFS. Atomics (R173, R226): the new value of each operation, the event of an atomic, the lanes of an AHIST one after the other, and
the statement on them. -/

namespace Sys2Proof.Machine

open Sys2Proof

theorem exec_atomicPerform_eq (s : State) : exec .atomicPerform s = execAtomicPerform s := rfl
theorem exec_ahistPerform_eq (s : State) : exec .ahistPerform s = execAhistPerform s := rfl

/-! ### The operations (R226) -/

theorem toSigned_eq_toInt {w : Nat} (hw : 0 < w) (v : Nat) : toSigned w v = (BitVec.ofNat w v).toInt := by
  obtain ⟨k, rfl⟩ := Nat.exists_eq_succ_of_ne_zero hw.ne'
  rw [toSigned, BitVec.toInt, BitVec.toNat_ofNat, Nat.succ_sub_one, Nat.pow_succ]
  split <;> split <;> omega

/-- The operand of an atomic, of its size. -/
def AtomReq.operand (r : AtomReq) : Nat := r.v.toNat % 2 ^ (8 * r.size)

/-- The comparison of AMAX and AMIN: that of words, signed or not. -/
def AtomReq.less (r : AtomReq) (a b : Nat) : Bool :=
  if r.signed then (BitVec.ofNat (8 * r.size) a).slt (BitVec.ofNat (8 * r.size) b)
  else (BitVec.ofNat (8 * r.size) a).ult (BitVec.ofNat (8 * r.size) b)

theorem AtomReq.less_eq {r : AtomReq} {a b : Nat} (hsize : 0 < r.size) (ha : a < 2 ^ (8 * r.size)) (hb : b < 2 ^ (8 * r.size)) :
    (if r.signed then decide (toSigned (8 * r.size) a < toSigned (8 * r.size) b) else decide (a < b)) = r.less a b := by
  rw [AtomReq.less]
  split
  · simp only [BitVec.slt, toSigned_eq_toInt (Nat.mul_pos (by decide : 0 < 8) hsize)]
  · simp only [BitVec.ult, BitVec.toNat_ofNat, Nat.mod_eq_of_lt ha, Nat.mod_eq_of_lt hb]

section
variable {r : AtomReq} {old : Nat}

theorem AtomReq.operand_lt : r.operand < 2 ^ (8 * r.size) := Nat.mod_lt _ (Nat.two_pow_pos _)

theorem atomNew_add (h : r.op = .add) : atomNew r old = (old + r.operand) % 2 ^ (8 * r.size) := by rw [atomNew, h]; rfl
theorem atomNew_and (h : r.op = .and) : atomNew r old = old &&& r.operand := by rw [atomNew, h]; rfl
theorem atomNew_or (h : r.op = .or) : atomNew r old = old ||| r.operand := by rw [atomNew, h]; rfl
theorem atomNew_xor (h : r.op = .xor) : atomNew r old = old ^^^ r.operand := by rw [atomNew, h]; rfl
theorem atomNew_xchg (h : r.op = .xchg) : atomNew r old = r.operand := by rw [atomNew, h]; rfl
theorem atomNew_cas (h : r.op = .cas) : atomNew r old = if old = r.operand then r.n.toNat % 2 ^ (8 * r.size) else old := by
  rw [atomNew, h]
  rfl

/-- AFADD adds the word and its operand as binary32 (R226). -/
theorem atomNew_fadd (h : r.op = .fadd) (hsize : r.size = 4) (hold : old < 2 ^ 32) :
    atomNew r old = (f32of .rne ((fF32.decode old).add .rne (fF32.decode r.operand))).toNat := by
  have hv : r.operand < 2 ^ 32 := by simpa only [hsize] using r.operand_lt
  simp only [AtomReq.operand, hsize] at hv
  simp only [atomNew, h, AtomReq.operand, hsize, fadd, f32ne, f32val, BitVec.toNat_ofNat, Nat.mod_eq_of_lt hold, Nat.mod_eq_of_lt hv]

variable (hold : old < 2 ^ (8 * r.size))
include hold

theorem atomNew_max (h : r.op = .max) (hsize : 0 < r.size) : atomNew r old = if r.less old r.operand then r.operand else old := by
  rw [atomNew, h, ← AtomReq.less_eq hsize hold r.operand_lt]
  rfl

theorem atomNew_min (h : r.op = .min) (hsize : 0 < r.size) : atomNew r old = if r.less r.operand old then r.operand else old := by
  rw [atomNew, h, ← AtomReq.less_eq hsize r.operand_lt hold]
  rfl

/-- The new value of every operation fits its word; AFADD is one of 32 bits. -/
theorem atomNew_lt (hfadd : r.op = .fadd → r.size = 4) : atomNew r old < 2 ^ (8 * r.size) := by
  have hv : r.v.toNat % 2 ^ (8 * r.size) < 2 ^ (8 * r.size) := Nat.mod_lt _ (Nat.two_pow_pos _)
  have hn : r.n.toNat % 2 ^ (8 * r.size) < 2 ^ (8 * r.size) := Nat.mod_lt _ (Nat.two_pow_pos _)
  rw [atomNew]
  cases hop : r.op with
  | add => exact Nat.mod_lt _ (Nat.two_pow_pos _)
  | fadd =>
    rw [hfadd hop]
    exact BitVec.isLt _
  | max | min | cas =>
    dsimp only
    split_ifs <;> assumption
  | and => exact Nat.and_lt_two_pow _ hv
  | or => exact Nat.or_lt_two_pow hold hv
  | xor => exact Nat.xor_lt_two_pow hold hv
  | xchg => exact hv

end

/-! ### The event of an atomic (R226) -/

/-- The state in which an atomic has read and written its word. -/
def State.atomicDone (s : State) (r : AtomReq) : State :=
  (s.unbuffer (pasFrom r.pa r.size)).atomicAt r.pa r.va.toNat r.size (atomNew r)

section
variable (s : State) (r : AtomReq)

@[simp] theorem State.cur_atomicDone : (s.atomicDone r).cur = s.cur := by rw [State.atomicDone, State.cur_atomicAt, State.cur_unbuffer]

@[simp] theorem State.away_atomicDone : (s.atomicDone r).away = s.away := by
  rw [State.atomicDone, State.away_atomicAt, State.away_unbuffer]

@[simp] theorem State.chan_atomicDone (id : CoreId) : ((s.atomicDone r).core id).ctx.chan = (s.core id).ctx.chan := by
  rw [State.atomicDone, State.chan_atomicAt, State.ctx_unbuffer]

end

/-- The old value goes to sr, when it is wanted. -/
def State.returnOld (s : State) (ret : Option Nat) (v : Vec) : State :=
  match ret with
  | some id => s.arrives .channelEntryLanding (.chan chSr.val id v) fun t => t.modCore t.cur fun c => c.fill chSr.val id v
  | none => s

theorem State.mem_returnOld (s : State) (ret : Option Nat) (v : Vec) : (s.returnOld ret v).mem = s.mem := by
  cases ret with
  | none => rfl
  | some id =>
    rw [State.returnOld, State.arrives]
    split <;> rfl

theorem State.chan_returnOld {s : State} (id : Nat) (v : Vec) (haway : s.away = none) :
    ((s.returnOld (some id) v).core s.cur).ctx.chan[chSr] =
      ((s.core s.cur).ctx.chan[chSr]).map fun e => if e.id = id then { e with v := v, landed := true } else e := by
  simp only [State.returnOld, State.arrives, haway, State.core_modCore_self, Core.fill, Core.chan_modChan, if_true]

section
variable {s : State} {r : AtomReq} (harg : s.arg = .atom r) (hpoison : s.poisoned (pasFrom r.pa r.size) = false)
  (hledger : s.ledger = []) (hstill : ∀ pa ∈ pasFrom r.pa r.size, s.inMotion pa = false)
include harg hpoison hledger hstill

theorem exec_atomicPerform : exec .atomicPerform s =
    .next ((s.atomicDone r).returnOld r.ret (vecOfWord (BitVec.ofNat 64 (s.mem.num r.pa r.size)))).tick := by
  have hgood : (s.unbuffer (pasFrom r.pa r.size)).poisoned (pasFrom r.pa r.size) = false := by
    obtain ⟨cs, h⟩ := s.unbuffer_eq (pasFrom r.pa r.size)
    rwa [h]
  have hold : leNat ((s.unbuffer (pasFrom r.pa r.size)).readAtomAs s.cur (pasFrom r.pa r.size)) = s.mem.num r.pa r.size := by
    rw [State.readAtomAs_eq_map, State.mem_unbuffer, Mem.num_eq]
    · simp [hledger]
    · simpa using hstill
  simp only [exec_atomicPerform_eq, execAtomicPerform, harg, hgood, Bool.false_eq_true, if_false, State.cur_unbuffer, hold]
  rw [State.atomicDone, State.atomicAt, State.cur_unbuffer, hold]
  cases r.ret <;> rfl

end

section
variable {s : State} {r : AtomReq} (hwf : s.mem.wf = true)
include hwf

theorem State.get_atomicDone {pa : Nat} (h : pa ∉ pasFrom r.pa r.size) : (s.atomicDone r).mem.get pa = s.mem.get pa := by
  rw [State.atomicDone, State.get_atomicAt_other (by rwa [State.mem_unbuffer]) h, State.mem_unbuffer]

theorem State.num_atomicDone (hledger : s.ledger = []) (hstill : ∀ pa ∈ pasFrom r.pa r.size, s.inMotion pa = false)
    (hfadd : r.op = .fadd → r.size = 4) : (s.atomicDone r).mem.num r.pa r.size = atomNew r (s.mem.num r.pa r.size) := by
  have hpow : 256 ^ r.size = 2 ^ (8 * r.size) := (pow_mul 2 8 r.size).symm
  have hold := hpow ▸ s.mem.num_lt r.pa r.size
  rw [State.atomicDone, State.num_atomicAt (by rwa [State.mem_unbuffer]) (by simp [hledger]) (by simpa using hstill), State.mem_unbuffer,
    hpow, Nat.mod_eq_of_lt (atomNew_lt hold hfadd)]

end

/-! ### AHIST lane by lane (R173) -/

/-- One lane of AHIST in its turn. -/
def State.histLane (pa va : Nat) (v : Vec) (s : State) (j : Nat) : State :=
  s.atomicAt (pa + 4 * j) (va + 4 * j) 4 fun old => (old + laneNat v j) % 2 ^ 32

/-- The lanes of a list are yet to be counted: no write to them is on record, and no way there moves. -/
def State.HistReady (s : State) (pa : Nat) (js : List Nat) : Prop := s.mem.wf = true ∧
  ∀ j ∈ js, (∀ r ∈ s.ledger, r.pa ∉ pasFrom (pa + 4 * j) 4) ∧ ∀ q ∈ pasFrom (pa + 4 * j) 4, s.inMotion q = false

theorem not_mem_other_lane {pa j k q : Nat} (h : j ≠ k) (hq : q ∈ pasFrom (pa + 4 * j) 4) : q ∉ pasFrom (pa + 4 * k) 4 := by
  rw [mem_pasFrom] at *
  omega

section
variable {pa va : Nat} {v : Vec}

theorem State.HistReady.histLane {s : State} {j : Nat} {js : List Nat} (h : s.HistReady pa (j :: js)) (hj : j ∉ js) :
    (s.histLane pa va v j).HistReady pa js := by
  obtain ⟨hwf, hlanes⟩ := h
  refine ⟨State.wf_atomicAt hwf, fun k hk => ?_⟩
  obtain ⟨hledger, hstill⟩ := hlanes k (List.mem_cons_of_mem j hk)
  refine ⟨fun r hr hmem => ?_, fun q hq => (s.inMotion_atomicAt _ _ _ _ q).trans (hstill q hq)⟩
  obtain hr | hr := s.mem_ledger_atomicAt _ _ _ _ hr
  · exact hledger r hr hmem
  · exact not_mem_other_lane (ne_of_mem_of_not_mem hk hj).symm hr hmem

/-- A byte of no lane that AHIST counts keeps its value. -/
theorem State.get_foldl_histLane_other {js : List Nat} {s : State} {q : Nat} (hwf : s.mem.wf = true)
    (h : ∀ j ∈ js, q ∉ pasFrom (pa + 4 * j) 4) : (js.foldl (State.histLane pa va v) s).mem.get q = s.mem.get q := by
  induction js generalizing s with
  | nil => rfl
  | cons j js ih =>
    refine (ih (State.wf_atomicAt hwf) fun k hk => h k (List.mem_cons_of_mem j hk)).trans ?_
    exact State.get_atomicAt_other hwf (h j List.mem_cons_self)

theorem State.num_foldl_histLane_other {js : List Nat} {s : State} {i : Nat} (hwf : s.mem.wf = true) (hi : i ∉ js) :
    (js.foldl (State.histLane pa va v) s).mem.num (pa + 4 * i) 4 = s.mem.num (pa + 4 * i) 4 :=
  Mem.num_congr fun _ hq => State.get_foldl_histLane_other hwf fun _ hj => not_mem_other_lane (ne_of_mem_of_not_mem hj hi).symm hq

/-- Each lane that AHIST counts is added to its word once. -/
theorem State.num_foldl_histLane {js : List Nat} {s : State} {i : Nat} (hready : s.HistReady pa js) (hnodup : js.Nodup) (hi : i ∈ js) :
    (js.foldl (State.histLane pa va v) s).mem.num (pa + 4 * i) 4 = (s.mem.num (pa + 4 * i) 4 + laneNat v i) % 2 ^ 32 := by
  induction js generalizing s with
  | nil => exact absurd hi List.not_mem_nil
  | cons j js ih =>
    obtain ⟨hj, hnodup⟩ := List.nodup_cons.mp hnodup
    have hrest := hready.histLane (va := va) (v := v) hj
    obtain ⟨hwf, hlanes⟩ := hready
    rw [List.foldl_cons]
    obtain rfl | hi := List.mem_cons.mp hi
    · obtain ⟨hledger, hstill⟩ := hlanes i List.mem_cons_self
      rw [State.num_foldl_histLane_other hrest.1 hj, State.histLane, State.num_atomicAt hwf hledger hstill]
      exact Nat.mod_mod _ _
    · rw [ih hrest hnodup hi, State.histLane, Mem.num_congr fun q hq =>
        State.get_atomicAt_other hwf (not_mem_other_lane (ne_of_mem_of_not_mem hi hj) hq)]

end

theorem State.poisoned_of_subset {s : State} {pas pas' : List Nat} (hsub : ∀ q ∈ pas, q ∈ pas') (h : s.poisoned pas' = false) :
    s.poisoned pas = false := by
  rw [State.poisoned, List.any_eq_false] at *
  exact fun q hq => h q (hsub q hq)

/-- The words of an AHIST's lanes lie in the 256 bytes at its address. -/
theorem mem_pasFrom_of_lane {pa j q : Nat} (hj : j < 64) (hq : q ∈ pasFrom (pa + 4 * j) 4) : q ∈ pasFrom pa 256 := by
  rw [mem_pasFrom] at *
  omega

theorem exec_ahistPerform {s : State} {pa : Nat} {va : Word} {v : Vec} {mask : Word} {pos : Pos} (harg : s.arg = .hist pa va v mask pos)
    (hpoison : s.poisoned (pasFrom pa 256) = false) : exec .ahistPerform s =
      .next ((activeLanes mask).foldl (State.histLane pa va.toNat v) (s.unbuffer [pa])).tick := by
  have hgood : s.badEl ((activeLanes mask).map fun j => ⟨va + BitVec.ofNat 64 (4 * j), 4, j, pa + 4 * j⟩) = none := by
    refine List.find?_eq_none.mpr fun e he => Bool.eq_false_iff.mp ?_
    obtain ⟨j, hj, rfl⟩ := List.mem_map.mp he
    exact State.poisoned_of_subset (fun q hq => mem_pasFrom_of_lane (mem_activeLanes.mp hj).1 hq) hpoison
  simp only [exec_ahistPerform_eq, execAhistPerform, harg, State.badEl_unbuffer, hgood]
  rfl

theorem State.histReady_unbuffer {s : State} (pa : Nat) (mask : Word) (hwf : s.mem.wf = true) (hledger : s.ledger = [])
    (hstill : ∀ k, k < 256 → s.inMotion (pa + k) = false) : (s.unbuffer [pa]).HistReady pa (activeLanes mask) := by
  refine ⟨by rwa [State.mem_unbuffer], fun j hj => ⟨by simp [hledger], fun q hq => ?_⟩⟩
  obtain ⟨hpa, hlt⟩ := mem_pasFrom.mp (mem_pasFrom_of_lane (mem_activeLanes.mp hj).1 hq)
  rw [State.inMotion_unbuffer, ← Nat.add_sub_of_le hpa]
  exact hstill _ (by omega)

/-! ### The statement -/

/-- Settles O36: an atomic is one operation at its word, and an AHIST one at the word of each active lane. -/
theorem atomicsPerform : Obligations.AtomicsPerform := by
  unfold Obligations.AtomicsPerform
  refine ⟨fun s r hok harg hsize => ?atomic, fun s pa va v mask pos hok harg hpoison hledger hstill => ?hist⟩
  case atomic =>
    obtain ⟨hwf, -, -⟩ := hok
    intro pas hpoison hledger hstill w old v less
    have hpos : 0 < r.size := by omega
    have hold : old < 2 ^ w := (s.mem.num_lt r.pa r.size).trans_eq (pow_mul 2 8 r.size).symm
    have hmem : ((s.atomicDone r).returnOld r.ret (vecOfWord (BitVec.ofNat 64 old))).tick.mem = (s.atomicDone r).mem :=
      State.mem_returnOld _ _ _
    have hnum (hfadd : r.op = .fadd → r.size = 4) := State.num_atomicDone hwf hledger hstill hfadd
    have hnew {x : Nat} (hop : r.op ≠ .fadd) (hx : atomNew r old = x) := (hnum fun h => absurd h hop).trans hx
    refine ⟨_, exec_atomicPerform harg hpoison hledger hstill, ?_⟩
    rw [hmem]
    refine ⟨fun pa hpa => State.get_atomicDone hwf hpa, fun hop => hnew ?_ (atomNew_add hop),
      fun hop => hnew ?_ (atomNew_max hold hop hpos),
      fun hop => hnew ?_ (atomNew_min hold hop hpos), fun hop => hnew ?_ (atomNew_and hop), fun hop => hnew ?_ (atomNew_or hop),
      fun hop => hnew ?_ (atomNew_xor hop), fun hop => hnew ?_ (atomNew_xchg hop), fun hop => hnew ?_ (atomNew_cas hop),
      fun hop hfour => ?fadd, fun id hret haway => ?ret⟩
    case fadd =>
      simp only [w, hfour] at hold
      have hsum := (hnum fun _ => hfour).trans (atomNew_fadd hop hfour hold)
      rw [hfour] at hsum
      simpa only [old, v, w, hfour, AtomReq.operand] using hsum
    case ret =>
      rw [hret]
      have hchan := State.chan_returnOld id (vecOfWord (BitVec.ofNat 64 old)) ((s.away_atomicDone r).trans haway)
      rwa [State.cur_atomicDone, State.chan_atomicDone] at hchan
    all_goals simp [hop]
  case hist =>
    obtain ⟨hwf, -, -⟩ := hok
    have hready := State.histReady_unbuffer pa mask hwf hledger hstill
    refine ⟨_, exec_ahistPerform harg hpoison, fun i hi => ?_, fun q hq => ?_⟩
    · by_cases hon : mask.getLsbD i = true
      · rw [if_pos hon, ← s.mem_unbuffer [pa]]
        exact State.num_foldl_histLane hready (List.nodup_range.filter _) (mem_activeLanes.mpr ⟨hi, hon⟩)
      · rw [if_neg hon, ← s.mem_unbuffer [pa]]
        exact State.num_foldl_histLane_other hready.1 fun h => hon (mem_activeLanes.mp h).2
    · rw [← s.mem_unbuffer [pa]]
      refine State.get_foldl_histLane_other hready.1 fun j hj hmem => ?_
      obtain ⟨hpa, hlt⟩ := mem_pasFrom.mp (mem_pasFrom_of_lane (mem_activeLanes.mp hj).1 hmem)
      omega

end Sys2Proof.Machine
end

section
/-! PROOFS. Gathers and scatters (R156, R165, R171): the entry that a gather fills, the outcome of a pass with no lane failing, with its
first pending lane failing and with a later one failing, the bits of a completion bitmap, and the statement on them. A gather with no lane
pending lands its entry behind the same latency (log entry 110). -/

namespace Sys2Proof.Machine

open Sys2Proof

theorem exec_ldqg_eq (oq : Fin 8) (ag : Fin 4) (cl : Cls) (fmt : Fmt) (cb : Fin 4) (s : State) :
    exec (.ldqg oq ag cl fmt cb) s = execLdqg oq ag cl fmt cb s := rfl
theorem exec_stqg_eq (sq : Fin 4) (b : Fin 16) (cl : Cls) (fmt : Fmt) (imm : BitVec 25) (s : State) :
    exec (.stqg sq b cl fmt imm) s = execStqg sq b cl fmt imm s := rfl

/-! ### Gathers (R156, R165) -/

/-- The number of the entry that a gather goes on filling: the youngest, where it is open under the same bitmap. -/
def Core.reuses (c : Core) (ch : Fin 18) (cb : Fin 4) : Option Nat :=
  match c.youngest ch with
  | some e => if e.cb = some cb then some e.id else none
  | none => none

theorem Core.fst_gatherEntry (c : Core) (ch : Fin 18) (reuse : Option Nat) (seq : Nat) (cb : Fin 4) :
    (c.gatherEntry ch reuse seq cb).1 = reuse.getD seq := by
  cases reuse <;> rfl

theorem gather_not_full {reuse : Option Nat} {n : Nat} (hroom : reuse = none → n < 8) : ¬ (reuse.isNone = true ∧ 8 ≤ n) :=
  fun h => (hroom (Option.isNone_iff_eq_none.mp h.1)).not_ge h.2

/-- The access of a gather's pass, and the table words that it reads. -/
def gatherAccess (c : Core) (ch : Fin 18) (id : Nat) (p : Pass) : Access :=
  ⟨.ldG ch.val id (p.els.map (·.1)) p.fail.isNone, p.els.map (·.2), c.posOf .l, none⟩
def gatherReads (id : CoreId) (g : AddrGen) (p : Pass) : List Nat :=
  (p.els.map (·.2)).flatMap fun l => (g.steps l.lane).reads id 1

section
variable {s : State} {oq : Fin 8} {ag : Fin 4} {cl : Cls} {cb : Fin 4} {core : Core} {reuse : Option Nat} (fmt : Fmt)
  (hpresent : s.me.chanPresent (chOq oq) = true) (hreuse : s.me.reuses (chOq oq) cb = reuse)
  (hroom : reuse = none → s.me.occ (chOq oq) < 8)
include hpresent hreuse hroom

/-- A pass with no lane failing: its lanes perform, the bitmap clears and the generator goes 64 steps on. -/
theorem ldqg_whole {els : List (Nat × El)} {a : Access} (ha : a = gatherAccess s.me (chOq oq) (reuse.getD s.seq) ⟨els, core, none⟩)
    (hroomy : s.Roomy)
    (hp : gatherLanes s s.cur cl ag (s.bitmap s.cur cb s.me.ctx.l.cb[cb]) 64 0 s.me.ctx.l.ag[ag] s.me false = ⟨els, core, none⟩) :
    IssuesAs .l (.ldqg oq ag cl fmt cb) s
      { IssueOut.plain ((core.gatherEntry (chOq oq) reuse s.seq cb).2.closeEntry (chOq oq) (reuse.getD s.seq))
        (s.accessReqs s.cur (core.gatherEntry (chOq oq) reuse s.seq cb).2 a (s.latency s.cur cl a.pas + s.me.ctx.l.ag[ag].extra) ++
          [cbReq cb 0, agReq ag (s.me.ctx.l.ag[ag].steps 64)])
        with reads := gatherReads s.cur s.me.ctx.l.ag[ag] ⟨els, core, none⟩ } := by
  subst hreuse ha
  refine issuesAs_of_ok (exec_ldqg_eq ..) hroomy ?_
  simp only [legal, hpresent, hp, if_true, bind, Except.bind, pure, Except.pure]
  refine (if_neg (gather_not_full hroom)).trans ?_
  rw [← Core.fst_gatherEntry core]
  rfl

variable {lane : Nat} {cause : Cause} {tinfo : Word}

/-- Where the first pending lane fails, nothing performs. -/
theorem ldqg_stops (hcause : cause ≠ .operandEmpty)
    (hp : gatherLanes s s.cur cl ag (s.bitmap s.cur cb s.me.ctx.l.cb[cb]) 64 0 s.me.ctx.l.ag[ag] s.me false =
      ⟨[], core, some (lane, .trap cause tinfo)⟩) : TrapsAt .l (.ldqg oq ag cl fmt cb) s cause tinfo := by
  subst hreuse
  refine trapsAt_of_error (exec_ldqg_eq ..) ?_ hcause
  simp only [legal, hpresent, hp, if_true, bind, Except.bind]
  exact if_neg (gather_not_full hroom)

/-- Where a later one fails, the lanes before it perform, and go on record. -/
theorem ldqg_part {els : List (Nat × El)} {a : Access} (hels : els ≠ [])
    (ha : a = gatherAccess s.me (chOq oq) (reuse.getD s.seq) ⟨els, core, some (lane, .trap cause tinfo)⟩) (hroomy : s.Roomy)
    (hp : gatherLanes s s.cur cl ag (s.bitmap s.cur cb s.me.ctx.l.cb[cb]) 64 0 s.me.ctx.l.ag[ag] s.me false =
      ⟨els, core, some (lane, .trap cause tinfo)⟩) : IssuesAs .l (.ldqg oq ag cl fmt cb) s
        ⟨(core.gatherEntry (chOq oq) reuse s.seq cb).2,
          s.accessReqs s.cur (core.gatherEntry (chOq oq) reuse s.seq cb).2 a (s.latency s.cur cl a.pas + s.me.ctx.l.ag[ag].extra) ++
            [cbReq cb (s.bitmap s.cur cb s.me.ctx.l.cb[cb] ||| wordOfTest fun i => (els.map (·.1)).contains i)],
          .next 1, some ⟨true, cause, tinfo⟩, [],
            gatherReads s.cur s.me.ctx.l.ag[ag] ⟨els, core, some (lane, .trap cause tinfo)⟩⟩ := by
  subst hreuse ha
  obtain ⟨e, els, rfl⟩ := List.exists_cons_of_ne_nil hels
  refine issuesAs_of_ok (exec_ldqg_eq ..) hroomy ?_
  simp only [legal, hpresent, hp, if_true, bind, Except.bind, pure, Except.pure]
  refine (if_neg (gather_not_full hroom)).trans ?_
  rw [← Core.fst_gatherEntry core]
  rfl

end

/-! ### Scatters (R156, R171) -/

/-- The access of a scatter's pass: the data entry's lanes at their elements. -/
def scatterAccess (c : Core) (v : Vec) (p : Pass) : Access :=
  ⟨.st ((p.els.map (·.1)).flatMap fun i => leBytes (laneNat v i) 4), p.els.map (·.2), c.posOf .s, none⟩

section
variable {s : State} {sq : Fin 4} {b : Fin 16} {cl : Cls} {imm : BitVec 25} {ie de : ChanEntry} {rest : List ChanEntry} {core : Core}
  (fmt : Fmt) (hpresent : s.me.chanPresent (chSq sq) = true) (hchan : s.me.ctx.chan[chSq sq] = ie :: de :: rest)
  (hie : ie.landed = true) (hde : de.landed = true)
include hpresent hchan hie hde

theorem stqg_whole {els : List (Nat × El)} {a : Access} (ha : a = scatterAccess s.me de.v ⟨els, core, none⟩) (hroomy : s.Roomy)
    (hp : scatterLanes s s.cur cl s.me.ctx.st.b[b] imm.toInt ie.v de.mask 64 0 s.me false = ⟨els, core, none⟩) :
    Issues .s (.stqg sq b cl fmt imm) s (core.setChan (chSq sq) rest)
      (if els.isEmpty then [] else s.accessReqs s.cur core a (s.latency s.cur cl a.pas)) := by
  subst ha
  refine issues_of_ok (exec_stqg_eq ..) hroomy ?_
  simp only [legal, hpresent, hchan, hie, hde, hp, if_true, bind, Except.bind, pure, Except.pure]
  rfl

variable {lane : Nat} {cause : Cause} {tinfo : Word}

theorem stqg_stops (hcause : cause ≠ .operandEmpty)
    (hp : scatterLanes s s.cur cl s.me.ctx.st.b[b] imm.toInt ie.v de.mask 64 0 s.me false =
      ⟨[], core, some (lane, .trap cause tinfo)⟩) : TrapsAt .s (.stqg sq b cl fmt imm) s cause tinfo := by
  refine trapsAt_of_error (exec_stqg_eq ..) ?_ hcause
  simp only [legal, hpresent, hchan, hie, hde, hp, if_true, bind, Except.bind]
  rfl

/-- The lanes that a scatter has stored before the one that fails leave the data entry's mask. -/
theorem stqg_part {els : List (Nat × El)} {a : Access} (hels : els ≠ [])
    (ha : a = scatterAccess s.me de.v ⟨els, core, some (lane, .trap cause tinfo)⟩) (hroomy : s.Roomy)
    (hp : scatterLanes s s.cur cl s.me.ctx.st.b[b] imm.toInt ie.v de.mask 64 0 s.me false =
      ⟨els, core, some (lane, .trap cause tinfo)⟩) : IssuesAs .s (.stqg sq b cl fmt imm) s
        ⟨core.setChan (chSq sq) (ie :: { de with mask := de.mask &&& ~~~wordOfTest fun i => (els.map (·.1)).contains i } :: rest),
          s.accessReqs s.cur core a (s.latency s.cur cl a.pas), .next 1, some ⟨true, cause, tinfo⟩, [], []⟩ := by
  subst ha
  obtain ⟨e, els, rfl⟩ := List.exists_cons_of_ne_nil hels
  refine issuesAs_of_ok (exec_stqg_eq ..) hroomy ?_
  simp only [legal, hpresent, hchan, hie, hde, hp, if_true, bind, Except.bind, pure, Except.pure]
  rfl

end

/-! ### Completion bitmaps (R165) -/

/-- The bits of a core's completion bitmap that an entry of the agenda is to record. -/
def Pending.recorded (p : Pending) (id : CoreId) (j : Fin 4) : Word :=
  match p.arg with
  | .landing (.cb k w) => if p.owner = id ∧ k = j then w else 0
  | _ => 0

theorem State.bitmap_eq (s : State) (id : CoreId) (j : Fin 4) (v : Word) :
    s.bitmap id j v = s.agenda.foldl (fun m p => m ||| p.recorded id j) v := by
  refine congrArg (fun f => s.agenda.foldl f v) (funext₂ fun m p => ?_)
  rw [Pending.recorded]
  cases p.arg with
  | landing l =>
    cases l with
    | cb k w =>
      dsimp only
      split
      · rfl
      · exact BitVec.or_zero.symm
    | _ => exact BitVec.or_zero.symm
  | _ => exact BitVec.or_zero.symm

theorem getLsbD_ite_zero (p : Prop) [Decidable p] (w : Word) (i : Nat) :
    (if p then w else 0).getLsbD i = (decide p && w.getLsbD i) := by
  split
  · next h => rw [decide_eq_true h, Bool.true_and]
  · next h => rw [decide_eq_false h, Bool.false_and]; exact BitVec.getLsbD_zero

theorem getLsbD_foldl_or {α : Type} (f : α → Word) (l : List α) (v : Word) (i : Nat) :
    (l.foldl (fun m a => m ||| f a) v).getLsbD i = (v.getLsbD i || l.any fun a => (f a).getLsbD i) := by
  induction l generalizing v with
  | nil => rw [List.foldl_nil, List.any_nil, Bool.or_false]
  | cons a l ih => rw [List.foldl_cons, ih, BitVec.getLsbD_or, List.any_cons, Bool.or_assoc]

/-! ### The statement -/

/-- Settles O29: a pass ends with no lane failing, with its first failing, or with a later one (an LDQG with no lane pending lands its entry
at the latency of its class all the same, log entry 110). -/
theorem gathersAndScattersIssue : Obligations.GathersAndScattersIssue := by
  unfold Obligations.GathersAndScattersIssue
  refine ⟨fun s oq ag cl fmt cb p hroomy hpresent => ?gather,
    fun s sq b cl fmt imm ie de rest p hroomy hpresent hchan hie hde hp => ?scatter,
    fun s id j v i => ?bitmap⟩
  case gather =>
    intro g mask reused hroom hp
    obtain ⟨els, core, fail⟩ := p
    refine ⟨fun hfail => ?whole, fun lane cause tinfo hfail hcause => ?partly⟩
    case whole =>
      obtain rfl : fail = none := hfail
      exact ⟨_, _, _, _, rfl, rfl, ldqg_whole fmt hpresent rfl hroom rfl hroomy hp⟩
    case partly =>
      obtain rfl : fail = some (lane, .trap cause tinfo) := hfail
      refine ⟨fun hels => ?stops, fun hels => ⟨_, _, _, _, rfl, rfl, fun i hi => ?_,
          ldqg_part fmt hpresent rfl hroom hels rfl hroomy hp⟩⟩
      case stops =>
        obtain rfl : els = [] := hels
        exact ldqg_stops fmt hpresent rfl hroom hcause hp
      rw [BitVec.getLsbD_or, getLsbD_wordOfTest _ hi]
  case scatter =>
    intro a
    obtain ⟨els, core, fail⟩ := p
    refine ⟨fun hfail => ?whole, fun lane cause tinfo hfail hcause => ?partly⟩
    case whole =>
      obtain rfl : fail = none := hfail
      refine ⟨_, _, stqg_whole fmt hpresent hchan hie hde rfl hroomy hp, ?_, fun hels => ?_, fun hels => ?_⟩
      · rw [Core.chan_setChan, if_pos rfl]
      · obtain rfl : els = [] := hels
        rfl
      · exact if_neg (mt List.isEmpty_iff.mp hels)
    case partly =>
      obtain rfl : fail = some (lane, .trap cause tinfo) := hfail
      refine ⟨fun hels => ?stops, fun hels => ⟨_, de.mask &&& ~~~wordOfTest fun i => (els.map (·.1)).contains i,
        stqg_part fmt hpresent hchan hie hde hels rfl hroomy hp, ?_, fun i hi => ?_⟩⟩
      case stops =>
        obtain rfl : els = [] := hels
        exact stqg_stops fmt hpresent hchan hie hde hcause hp
      · rw [Core.chan_setChan, if_pos rfl]
      · rw [BitVec.getLsbD_and, BitVec.getLsbD_not, getLsbD_wordOfTest _ hi, decide_eq_true hi, Bool.true_and]
  case bitmap =>
    rw [State.bitmap_eq, getLsbD_foldl_or]
    refine congrArg (fun f => v.getLsbD i || s.agenda.any f) (funext fun p => ?_)
    rw [Pending.recorded]
    cases p.arg with
    | landing l =>
      cases l with
      | cb k w => exact (getLsbD_ite_zero _ w i).trans (by rw [Bool.decide_and]; rfl)
      | _ => exact BitVec.getLsbD_zero
    | _ => exact BitVec.getLsbD_zero

end Sys2Proof.Machine
end

section
/-! PROOFS. LDQK's reads (R159, R160, R271, R314): a later step of an operation, what a read leaves of the checks on a range, the events of
an LDQK, and the pairs of its turned row. -/

namespace Sys2Proof.Machine

open Sys2Proof

theorem exec_ldqkEntryRead_eq (s : State) : exec .ldqkEntryRead s = execLdqkEntryRead s := rfl

/-! ### Later steps of an operation (R314, R315) -/

@[simp] theorem State.mem_stepLater (s : State) (ifq : Bool) (ord d : Nat) (pas : List Nat) (ev : Instr) (arg : Arg) :
    (s.stepLater ifq ord d pas ev arg).mem = s.mem := by
  rw [State.stepLater]
  split <;> rfl

/-- A later step is on the agenda, in its core's own time or in a member's. -/
theorem State.comesIn_stepLater (s : State) (ifq : Bool) (ord d : Nat) (pas : List Nat) (ev : Instr) (arg : Arg) :
    ∃ p ∈ (s.stepLater ifq ord d pas ev arg).agenda, s.ComesIn p d ∧ p.ev = ev ∧ p.arg = arg := by
  rw [State.stepLater]
  split
  · next t _ =>
    refine ⟨⟨.tl t, s.ownNow s.cur + d, s.cur, ord, ifq, ev, arg⟩, ?_, ⟨rfl, .inr ⟨t, rfl, rfl⟩⟩, rfl, rfl⟩
    exact List.mem_append_left _ (List.mem_append_right _ List.mem_cons_self)
  · exact ⟨_, List.mem_append_right _ List.mem_cons_self, ⟨rfl, .inl ⟨rfl, rfl⟩⟩, rfl, rfl⟩

/-! ### What a read leaves (R210, R243) -/

/-- The state in which a core has read bytes, with the free-value counter advanced. -/
def State.readOver (s : State) (id : CoreId) (pas : List Nat) : State := (s.noteRead id pas).tick

section
variable (s : State) (id : CoreId) (pas : List Nat)

/-- Beside the cores, the single-bit errors and the free-value counter, a read changes nothing. -/
theorem State.readOver_eq : ∃ cs sf n, s.readOver id pas = { s with cores := cs, soft := sf, ctr := n } := by
  obtain ⟨cs, sf, h⟩ := s.noteRead_eq id pas
  rw [State.readOver, h]
  exact ⟨_, _, _, rfl⟩

theorem State.core_readOver_keeps {γ : Type} (g : Core → γ) (hfix : ∀ c vault row, g (Core.countFix c vault row) = g c)
    (hcopy : ∀ (c : Core) k, g (c.modCtx fun x => { x with copy := k }) = g c) (d : CoreId) :
    g ((s.readOver id pas).core d) = g (s.core d) :=
  State.core_noteRead_keeps g hfix hcopy s id pas d

@[simp] theorem State.mem_readOver : (s.readOver id pas).mem = s.mem := s.mem_noteRead id pas

@[simp] theorem State.cur_readOver : (s.readOver id pas).cur = s.cur := by
  obtain ⟨cs, sf, n, h⟩ := s.readOver_eq id pas
  rw [h]

@[simp] theorem State.ord_readOver : (s.readOver id pas).ord = s.ord := by
  obtain ⟨cs, sf, n, h⟩ := s.readOver_eq id pas
  rw [h]

theorem State.timeline_readOver (d : CoreId) : (s.readOver id pas).timeline d = s.timeline d := by
  have hlag := s.core_readOver_keeps id pas (fun c => c.ctx.lag) (fun _ _ _ => rfl) (fun _ _ => rfl) d
  obtain ⟨cs, sf, n, h⟩ := s.readOver_eq id pas
  rw [State.timeline, State.timeline, hlag, h]

theorem State.comesIn_readOver (p : Pending) (d : Nat) : (s.readOver id pas).ComesIn p d ↔ s.ComesIn p d := by
  have htau := s.core_readOver_keeps id pas (fun c => c.ctx.tau) (fun _ _ _ => rfl) (fun _ _ => rfl)
  have htimeline := s.timeline_readOver id pas
  have hnow : (s.readOver id pas).ownNow s.cur = s.ownNow s.cur := by
    obtain ⟨cs, sf, n, h⟩ := s.readOver_eq id pas
    rw [State.ownNow, State.ownNow, htimeline, h]
  rw [State.ComesIn, State.ComesIn, State.cur_readOver, State.ownTau, State.ownTau, hnow, htau, htimeline]

theorem State.moving_readOver (d : CoreId) (off : Nat) :
    (s.readOver id pas).moving d ((s.readOver id pas).core d) off = s.moving d (s.core d) off := by
  have hcresizes := s.core_readOver_keeps id pas (fun c => c.cresizes) (fun _ _ _ => rfl) (fun _ _ => rfl) d
  have hresized := s.core_readOver_keeps id pas (fun c => c.resized) (fun _ _ _ => rfl) (fun _ _ => rfl) d
  have hnow : (s.readOver id pas).cresizeNow d = s.cresizeNow d := by
    have htimeline := s.timeline_readOver id pas d
    obtain ⟨cs, sf, n, h⟩ := s.readOver_eq id pas
    funext r
    rw [State.cresizeNow, State.cresizeNow, htimeline, h]
  rw [State.moving, State.moving, State.movers, State.movers, hcresizes, hresized, hnow]

/-- Where a byte may be reached is not for a read to change (R154). -/
theorem State.paOk_readOver (d : CoreId) (pa : Nat) :
    (s.readOver id pas).paOk d ((s.readOver id pas).core d) pa = s.paOk d (s.core d) pa := by
  have hdirect := s.core_readOver_keeps id pas (fun c => c.direct (paOff pa)) (fun _ _ _ => rfl) (fun _ _ => rfl)
  have haligned : (s.readOver id pas).aligned = s.aligned := by
    obtain ⟨cs, sf, n, h⟩ := s.readOver_eq id pas
    rw [h]
    rfl
  simp only [State.paOk, haligned, State.moving_readOver, apply_ite (fun c : Core => c.direct (paOff pa)), hdirect]

theorem State.reach_readOver (d : CoreId) (cl : Cls) (pa n : Nat) : (s.readOver id pas).reach d cl pa n = s.reach d cl pa n := by
  have hlatency : (s.readOver id pas).latency = s.latency := by
    obtain ⟨cs, sf, n, h⟩ := s.readOver_eq id pas
    rw [h]
    rfl
  simp only [State.reach, State.paOk_readOver, hlatency]

end

/-! ### The two reads (R159) -/

/-- What an LDQK goes on with once it has read its entry. -/
def LdqkReq.withRow (r : LdqkReq) (e : KvEntry) : LdqkReq :=
  { r with row := some ⟨e.page + r.t * (headDim e.dcode * elemSize (fmtBit r.fmt)), e.dcode,
    if r.t < e.count then some ((e.base + r.t) % 2 ^ 32) else none, none⟩ }

/-- The bytes of the key row that an LDQK has still to read. -/
def LdqkRow.rowPas (k : LdqkRow) (fmt : Fmt) : List Nat :=
  if k.bytes.isSome then [] else pasFrom k.pa (headDim k.dcode * elemSize (fmtBit fmt))

/-- The vector that an LDQK delivers: the row's bytes turned to the token's position, 0 beyond the valid tokens. -/
def LdqkRow.turned (k : LdqkRow) (r : LdqkReq) (row om : List Byte) : Vec :=
  match k.pos with
  | some p => ldqkRow (fmtBit r.fmt) r.g k.dcode p row om
  | none => Vec.zero

/-- What an LDQK comes to in the state behind its entry's read: a stop, or its row's read to come. -/
def LdqkReq.afterEntry (r : LdqkReq) (e : KvEntry) (ord : Nat) (s : State) : Except Cause Nat → State
  | .error cause => s.ldqkStop r cause
  | .ok lat => s.stepLater true ord lat
      (pasFrom (e.page + r.t * (headDim e.dcode * elemSize (fmtBit r.fmt))) (headDim e.dcode * elemSize (fmtBit r.fmt)))
      .ldqkEntryRead (.ldqk (r.withRow e))

section
variable {s : State} {r : LdqkReq} (harg : s.arg = .ldqk r) (hledger : s.ledger = [])
include harg hledger

section
variable {e : KvEntry} (hrow : r.row = none) (hpoison : s.poisoned (pasFrom r.pa 16) = false)
  (hstill : ∀ pa ∈ pasFrom r.pa 16, s.inMotion pa = false) (he : kvOf ((pasFrom r.pa 16).map s.mem.get) = e)
include hrow hpoison hstill he

/-- The entry is read, and the whole page's checks say how the LDQK goes on. -/
theorem exec_ldqkEntryRead_entry : exec .ldqkEntryRead s = .next (r.afterEntry e s.ord (s.readOver s.cur (pasFrom r.pa 16))
    (if e.valid = true ∧ e.tag = s.me.domtag then s.reach s.cur r.cl e.page (e.image + 16) else .error .protection)) := by
  subst he
  have hread := State.readAs_eq_map s.cur hledger hstill
  simp only [exec_ldqkEntryRead_eq, execLdqkEntryRead, harg, hrow, hpoison, hread, Bool.false_eq_true, if_false]
  generalize kvOf ((pasFrom r.pa 16).map s.mem.get) = e
  rw [← s.reach_readOver s.cur (pasFrom r.pa 16)]
  by_cases hgood : e.valid = true ∧ e.tag = s.me.domtag
  · rw [if_pos hgood, if_neg (by simpa [State.me] using hgood)]
    rw [State.readOver]
    cases (s.noteRead s.cur (pasFrom r.pa 16)).tick.reach s.cur r.cl e.page (e.image + 16) <;> rfl
  · rw [if_neg hgood, if_pos (by simpa [State.me, or_iff_not_imp_left] using hgood)]
    rfl

end

section
variable {k : LdqkRow} (hrow : r.row = some k)
include hrow

/-- The row and the ω values are read, and the turned row lands eight cycles later. -/
theorem exec_ldqkEntryRead_row (haway : s.away = none) (hpoison : s.poisoned (k.rowPas r.fmt ++ ldqkOmega s.cur r) = false)
    (hstill : ∀ pa ∈ k.rowPas r.fmt ++ ldqkOmega s.cur r, s.inMotion pa = false) : exec .ldqkEntryRead s =
      .next ((s.readOver s.cur (k.rowPas r.fmt ++ ldqkOmega s.cur r)).stepLater true s.ord 8 [] .channelEntryLanding
        (.chan r.chan r.id (k.turned r (k.bytes.getD ((k.rowPas r.fmt).map s.mem.get)) ((ldqkOmega s.cur r).map s.mem.get)))) := by
  have hbytes := State.readAs_eq_map s.cur hledger fun pa hpa => hstill pa (List.mem_append_left _ hpa)
  have homega := State.readAs_eq_map s.cur hledger fun pa hpa => hstill pa (List.mem_append_right _ hpa)
  rw [LdqkRow.rowPas] at *
  simp only [exec_ldqkEntryRead_eq, execLdqkEntryRead, harg, hrow, haway, hpoison, hbytes, homega, Option.isSome_none, Bool.false_eq_true,
    if_false]
  rfl

/-- Where the row's turn comes in a member's timeline, its bytes are kept for the core's own. -/
theorem exec_ldqkEntryRead_row_away (haway : s.away ≠ none) (hkept : k.bytes = none) (hpoison : s.poisoned (k.rowPas r.fmt) = false)
    (hstill : ∀ pa ∈ k.rowPas r.fmt, s.inMotion pa = false) : exec .ldqkEntryRead s =
      .next ((s.readOver s.cur (k.rowPas r.fmt)).stepLater true s.ord 0 [] .ldqkEntryRead
        (.ldqk { r with row := some { k with bytes := some ((k.rowPas r.fmt).map s.mem.get) } })) := by
  have hbytes := State.readAs_eq_map s.cur hledger hstill
  have hsome : s.away.isSome = true := Option.isSome_iff_ne_none.mpr haway
  have hpas : k.rowPas r.fmt = pasFrom k.pa (headDim k.dcode * elemSize (fmtBit r.fmt)) := by
    rw [LdqkRow.rowPas, hkept]
    rfl
  rw [hpas] at hpoison hbytes ⊢
  simp only [exec_ldqkEntryRead_eq, execLdqkEntryRead, harg, hrow, hsome, hkept, hpoison, hbytes, Option.isSome_none, Bool.false_eq_true,
    if_false, if_true, List.append_nil, Option.getD_none]
  rfl

end

end

/-- What comes later behind a read that changed no byte. -/
theorem State.readOver_stepLater (s : State) (pas pas' : List Nat) (ifq : Bool) (ord d : Nat) (ev : Instr) (arg : Arg) :
    ∃ t, Host.Outcome.next ((s.readOver s.cur pas).stepLater ifq ord d pas' ev arg) = (.next t : Out) ∧ t.mem = s.mem ∧
      ∃ p ∈ t.agenda, s.ComesIn p d ∧ p.ev = ev ∧ p.arg = arg := by
  obtain ⟨p, hp, hcomes, hev, harg⟩ := (s.readOver s.cur pas).comesIn_stepLater ifq ord d pas' ev arg
  refine ⟨_, rfl, ?_, p, hp, ?_, hev, harg⟩
  · rw [State.mem_stepLater, State.mem_readOver]
  · exact (s.comesIn_readOver s.cur pas p d).mp hcomes

section
variable {s : State} {r : LdqkReq} (harg : s.arg = .ldqk r) (hledger : s.ledger = [])
include harg hledger

/-- An entry that the checks refuse stops the LDQK. -/
theorem exec_ldqkEntryRead_stops {e : KvEntry} {cause : Cause} (hrow : r.row = none) (hpoison : s.poisoned (pasFrom r.pa 16) = false)
    (hstill : ∀ pa ∈ pasFrom r.pa 16, s.inMotion pa = false) (he : kvOf ((pasFrom r.pa 16).map s.mem.get) = e)
    (hcheck : (if e.valid = true ∧ e.tag = s.me.domtag then s.reach s.cur r.cl e.page (e.image + 16) else .error .protection) =
      .error cause) :
    ∃ u : State, u.mem = s.mem ∧ exec .ldqkEntryRead s = .next (u.takeTrap s.cur cause (accessInfo r.va 0 false) r.pos) := by
  rw [exec_ldqkEntryRead_entry harg hledger hrow hpoison hstill he, hcheck]
  rw [LdqkReq.afterEntry, State.ldqkStop, State.cur_readOver]
  exact ⟨(s.readOver s.cur (pasFrom r.pa 16)).modCore s.cur fun c => c.unreserve r.chan r.id, s.mem_readOver ..,
    rfl⟩

/-- An entry that the checks let through has its row read at the page's latency. -/
theorem exec_ldqkEntryRead_goes {e : KvEntry} {lat : Nat} (hrow : r.row = none) (hpoison : s.poisoned (pasFrom r.pa 16) = false)
    (hstill : ∀ pa ∈ pasFrom r.pa 16, s.inMotion pa = false) (he : kvOf ((pasFrom r.pa 16).map s.mem.get) = e)
    (hcheck : (if e.valid = true ∧ e.tag = s.me.domtag then s.reach s.cur r.cl e.page (e.image + 16) else .error .protection) =
      .ok lat) :
    ∃ t, exec .ldqkEntryRead s = .next t ∧ t.mem = s.mem ∧
      ∃ p ∈ t.agenda, s.ComesIn p lat ∧ p.ev = .ldqkEntryRead ∧ p.arg = .ldqk (r.withRow e) := by
  rw [exec_ldqkEntryRead_entry harg hledger hrow hpoison hstill he, hcheck]
  exact State.readOver_stepLater ..

end

/-! ### The turned row (R159, R271) -/

/-- A list made of pairs holds pair j at twice j. -/
theorem getElem?_flatMap_pair {α : Type} (f : Nat → α × α) {n j : Nat} (hj : j < n) :
    ((List.range n).flatMap fun i => [(f i).1, (f i).2])[2 * j]? = some (f j).1 ∧
      ((List.range n).flatMap fun i => [(f i).1, (f i).2])[2 * j + 1]? = some (f j).2 := by
  induction n with
  | zero => exact absurd hj (Nat.not_lt_zero j)
  | succ n ih =>
    have hlen : ((List.range n).flatMap fun i => [(f i).1, (f i).2]).length = 2 * n := by
      simp [List.length_flatMap, Nat.mul_comm]
    rw [List.range_succ, List.flatMap_append]
    obtain hlt | rfl := Nat.lt_succ_iff_lt_or_eq.mp hj
    · rw [List.getElem?_append_left (by omega), List.getElem?_append_left (by omega)]
      exact ih hlt
    · rw [List.getElem?_append_right (by omega), List.getElem?_append_right (by omega), hlen, Nat.sub_self, Nat.add_sub_cancel_left]
      exact ⟨rfl, rfl⟩

/-- Pair j of group g of a key row, turned to its position by its ω value. -/
def turnedPair (format g dcode pos : Nat) (row om : List Byte) (j : Nat) : F32 × F32 :=
  let elem := fun (n : Nat) =>
    if headDim dcode ≤ n then (0 : F32) else pageElem format (leNat ((row.drop (n * elemSize format)).take (elemSize format)))
  rotPair (elem (2 * (32 * g + j))) (elem (2 * (32 * g + j) + 1)) pos (leNat ((om.drop (8 * j)).take 8))

theorem ldqkRow_pair (format g dcode pos : Nat) (row om : List Byte) {j : Nat} (hj : j < 32) :
    (ldqkRow format g dcode pos row om)[2 * j]! = (turnedPair format g dcode pos row om j).1 ∧
      (ldqkRow format g dcode pos row om)[2 * j + 1]! = (turnedPair format g dcode pos row om j).2 := by
  obtain ⟨heven, hodd⟩ := getElem?_flatMap_pair (turnedPair format g dcode pos row om) hj
  have hrow : ldqkRow format g dcode pos row om = vecOfLanes ((List.range 32).flatMap fun i =>
      [(turnedPair format g dcode pos row om i).1, (turnedPair format g dcode pos row om i).2]) := rfl
  rw [hrow, vecOfLanes_getElem! _ (by omega), vecOfLanes_getElem! _ (by omega), List.getD_eq_getElem?_getD, List.getD_eq_getElem?_getD,
    heven, hodd]
  exact ⟨rfl, rfl⟩

end Sys2Proof.Machine
end

section
/-! PROOFS. Block-table entries and anchors (R268, R269), and what requests of engines read and write (R174, R227, R237): an entry's fields
after each of its updates, the bytes that a request reads, and those that a write in pieces leaves. -/

namespace Sys2Proof.Machine

open Sys2Proof

/-! ### Entries (R268, R269) -/

/-- The fields of an entry fit their places. -/
def KvEntry.Fits (e : KvEntry) : Prop := e.format < 2 ∧ e.dcode < 4 ∧ e.page % 1024 = 0 ∧ e.page < 2 ^ 52 ∧ e.tokens < 2 ^ 7 ∧
  e.base < 2 ^ 32 ∧ e.tag < 2 ^ 16 ∧ e.refs < 2 ^ 12

theorem kvOf_fits (bs : List Byte) : (kvOf bs).Fits := by
  have hfld (lo n : Nat) : fld (leNat bs) lo n < 2 ^ n := Nat.mod_lt _ (Nat.two_pow_pos n)
  refine ⟨hfld 3 1, hfld 4 2, Nat.mul_mod_left _ _, ?_, hfld 52 7, hfld 64 32, hfld 96 16, hfld 112 12⟩
  have hpage := hfld 10 42
  simp only [kvOf]
  omega

theorem boolNat_lt (b : Bool) : boolNat b < 2 := by cases b <;> decide

theorem boolNat_beq_one (b : Bool) : (boolNat b == 1) = b := by cases b <;> rfl

/-- An entry's bytes give it back. -/
theorem kvOf_bytes {e : KvEntry} (h : e.Fits) : kvOf e.bytes = e := by
  obtain ⟨valid, anchor, sealed_, format, dcode, page, tokens, base, tag, refs⟩ := e
  obtain ⟨hformat, hdcode, halign, hpage, htokens, hbase, htag, hrefs⟩ := h
  have hvalid := boolNat_lt valid
  have hanchor := boolNat_lt anchor
  have hsealed := boolNat_lt sealed_
  dsimp only at hformat hdcode halign hpage htokens hbase htag hrefs
  simp only [kvOf, KvEntry.bytes, leNat_leBytes, fld, KvEntry.mk.injEq]
  refine ⟨(congrArg (· == 1) ?_).trans (boolNat_beq_one valid), (congrArg (· == 1) ?_).trans (boolNat_beq_one anchor),
    (congrArg (· == 1) ?_).trans (boolNat_beq_one sealed_), ?_, ?_, ?_, ?_, ?_, ?_, ?_⟩
  all_goals omega

theorem leNat_lt_of_entry {bs : List Byte} (h : bs.length = 16) : leNat bs < 2 ^ 128 := by
  have := leNat_lt bs
  rw [h] at this
  exact this

/-- An update of the refcount is of that alone. -/
theorem kvOf_withRefs {bs : List Byte} (h : bs.length = 16) (refs : Nat) :
    kvOf (withRefs bs refs) = { kvOf bs with refs := refs % 4096 } := by
  have hlt := leNat_lt_of_entry h
  simp only [kvOf, withRefs, leNat_leBytes, fld, KvEntry.mk.injEq]
  refine ⟨congrArg (· == 1) ?_, congrArg (· == 1) ?_, congrArg (· == 1) ?_, ?_, ?_, ?_, ?_, ?_, ?_, ?_⟩
  all_goals omega

theorem kvOf_clearValid {bs : List Byte} (h : bs.length = 16) : kvOf (clearValid bs) = { kvOf bs with valid := false } := by
  have hlt := leNat_lt_of_entry h
  simp only [kvOf, clearValid, leNat_leBytes, fld, KvEntry.mk.injEq, beq_eq_false_iff_ne]
  refine ⟨?_, congrArg (· == 1) ?_, congrArg (· == 1) ?_, ?_, ?_, ?_, ?_, ?_, ?_, ?_⟩
  all_goals omega

@[simp] theorem length_withRefs (bs : List Byte) (refs : Nat) : (withRefs bs refs).length = 16 := length_leBytes _ _
@[simp] theorem length_clearValid (bs : List Byte) : (clearValid bs).length = 16 := length_leBytes _ _
@[simp] theorem length_entryBytes (e : KvEntry) : e.bytes.length = 16 := length_leBytes _ _

/-! ### Reads of a request (R227, R237) -/

/-- The state in which a request has read bytes. -/
def State.readFor (s : State) (job : Job) (pas : List Nat) : State :=
  if job.live then (s.noteRead job.owner pas).tick else (s.correct pas).tick

theorem State.readFor_eq (s : State) (job : Job) (pas : List Nat) :
    ∃ cs sf n, s.readFor job pas = { s with cores := cs, soft := sf, ctr := n } := by
  rw [State.readFor]
  split
  · obtain ⟨cs, sf, h⟩ := s.noteRead_eq job.owner pas
    rw [h]
    exact ⟨_, _, _, rfl⟩
  · obtain ⟨cs, sf, h⟩ := s.correct_eq pas
    rw [h]
    exact ⟨_, _, _, rfl⟩

section
variable (s : State) (job : Job) (pas : List Nat)

@[simp] theorem State.mem_readFor : (s.readFor job pas).mem = s.mem := by
  obtain ⟨cs, sf, n, h⟩ := s.readFor_eq job pas
  rw [h]

@[simp] theorem State.jobs_readFor : (s.readFor job pas).jobs = s.jobs := by
  obtain ⟨cs, sf, n, h⟩ := s.readFor_eq job pas
  rw [h]

@[simp] theorem State.inMotion_readFor (pa : Nat) : (s.readFor job pas).inMotion pa = s.inMotion pa := by
  rw [State.readFor]
  split
  · exact s.inMotion_noteRead job.owner pas pa
  · exact s.inMotion_correct pas pa

end

section
variable {s : State} {pas : List Nat} (job : Job) (pos : Pos) (hpoison : s.poisoned pas = false) (hledger : s.ledger = [])
  (hstill : ∀ pa ∈ pas, s.inMotion pa = false)
include hpoison

theorem State.poison_eq_false {pa : Nat} (h : pa ∈ pas) : s.poison.contains (eccWord pa) = false :=
  Bool.eq_false_iff.mpr (List.any_eq_false.mp hpoison pa h)

theorem State.firstBad_eq_none : s.firstBad pas = none := by
  rw [State.firstBad, List.findIdx?_eq_none_iff]
  exact fun pa hpa => State.poison_eq_false hpoison hpa

include hledger hstill

/-- Good bytes come to a request as memory holds them. -/
theorem State.engineBytes_eq (owner : CoreId) : s.engineBytes owner pas = pas.map s.mem.get := by
  refine List.map_congr_left fun pa hpa => ?_
  rw [State.poison_eq_false hpoison hpa, State.readAs_eq_map owner hledger (by simpa using hstill pa hpa)]
  rfl

theorem State.anchorBytes_eq (owner : CoreId) : s.anchorBytes owner pas = pas.map s.mem.get := by
  refine List.map_congr_left fun pa hpa => ?_
  rw [State.poison_eq_false hpoison hpa, State.readAtomAs_eq_map owner (by simp [hledger]) (by simpa using hstill pa hpa)]
  rfl

theorem State.engineRead_eq (va : Nat → Nat) : s.engineRead job va pas pos = (pas.map s.mem.get, s.readFor job pas) := by
  rw [State.engineRead, State.engineBytes_eq hpoison hledger hstill, State.firstBad_eq_none hpoison]
  rfl

/-- An anchor is read as an atomic reads it. -/
theorem State.engineReadPa_eq : s.engineReadPa job true pas pos = (pas.map s.mem.get, s.readFor job pas) := by
  rw [State.engineReadPa, State.anchorBytes_eq hpoison hledger hstill, State.firstBad_eq_none hpoison]
  rfl

end

/-! ### Writes in pieces (R174) -/

@[simp] theorem length_segPas (segs : List Seg) (i n : Nat) : (segPas segs i n).length = n := by
  rw [segPas, List.length_map, List.length_range]

section
variable {pas : List Nat} {bs : List Byte} (h : pas.length = bs.length) (va : Nat)
include h

theorem map_pa_writesAt : (writesAt pas va bs).map ByteWrite.pa = pas :=
  calc (writesAt pas va bs).map ByteWrite.pa = ((pas.zip bs).zipIdx.map Prod.fst).map Prod.fst := by
        rw [writesAt, List.map_map, List.map_map]; rfl
    _ = pas := by rw [List.zipIdx_map_fst, List.map_fst_zip h.le]

theorem map_val_writesAt : (writesAt pas va bs).map ByteWrite.val = bs :=
  calc (writesAt pas va bs).map ByteWrite.val = ((pas.zip bs).zipIdx.map Prod.fst).map Prod.snd := by
        rw [writesAt, List.map_map, List.map_map]; rfl
    _ = bs := by rw [List.zipIdx_map_fst, List.map_snd_zip h.ge]

end

theorem State.inMotion_writeAs (s : State) (c : CoreId) (ws : List ByteWrite) (pa : Nat) :
    (s.writeAs c ws).inMotion pa = s.inMotion pa := by
  obtain ⟨m, l, h⟩ := s.foldl_writeByteAs_eq c false ws
  rw [State.writeAs, h]
  rfl

/-- The bytes of a write are the ones that memory holds then. -/
theorem State.map_get_writeAs {s : State} {c : CoreId} {ws : List ByteWrite} (hwf : s.mem.wf = true)
    (hnodup : (ws.map ByteWrite.pa).Nodup) (hstill : ∀ pa ∈ ws.map ByteWrite.pa, s.inMotion pa = false) :
    (ws.map ByteWrite.pa).map (s.writeAs c ws).mem.get = ws.map ByteWrite.val := by
  rw [List.map_map]
  exact List.map_congr_left fun w hw => State.get_writeAs_written hwf hnodup hw (hstill _ (List.mem_map_of_mem hw))

/-- Bytes written to a range in pieces, from an offset on. -/
def State.putSegs (s : State) (o : CoreId) (segs : List Seg) (va off : Nat) (bs : List Byte) : State :=
  s.writeAs o (writesAt (segPas segs off bs.length) (va + off) bs)

section
variable {s : State} {o : CoreId} {segs : List Seg} {va off : Nat} {bs : List Byte} (hwf : s.mem.wf = true)
include hwf

theorem State.wf_putSegs : (s.putSegs o segs va off bs).mem.wf = true := State.writeAs_wf _ _ _ hwf

theorem State.get_putSegs_other {pa : Nat} (h : pa ∉ segPas segs off bs.length) :
    (s.putSegs o segs va off bs).mem.get pa = s.mem.get pa :=
  State.get_writeAs_other hwf fun w hw heq => h (by
    rw [← map_pa_writesAt (pas := segPas segs off bs.length) (length_segPas ..) (va + off), ← heq]
    exact List.mem_map_of_mem hw)

theorem State.map_get_putSegs (hnodup : (segPas segs off bs.length).Nodup)
    (hstill : ∀ pa ∈ segPas segs off bs.length, s.inMotion pa = false) :
    (segPas segs off bs.length).map (s.putSegs o segs va off bs).mem.get = bs := by
  have hpas := map_pa_writesAt (pas := segPas segs off bs.length) (bs := bs) (length_segPas ..) (va + off)
  have hbytes := State.map_get_writeAs (c := o) (ws := writesAt (segPas segs off bs.length) (va + off) bs) hwf (by rwa [hpas])
    (by rwa [hpas])
  rwa [hpas, map_val_writesAt (length_segPas ..)] at hbytes

end

end Sys2Proof.Machine
end

section
/-! PROOFS. The page instructions' steps (R272 to R276): their requests, what each step makes of the state, and the entries and anchors in
memory behind it. -/

namespace Sys2Proof.Machine

open Sys2Proof

theorem exec_pageEntryRead_eq (s : State) : exec .pageEntryRead s = execPageEntryRead s := rfl
theorem exec_pageEntryApply_eq (s : State) : exec .pageEntryApply s = execPageEntryApply s := rfl
theorem exec_kmapWrite_eq (s : State) : exec .kmapWrite s = execKmapWrite s := rfl

/-! ### Requests of the engines (R230, R314) -/

theorem State.id_of_job? {s : State} {id : Nat} {job : Job} (h : s.job? id = some job) : job.id = id :=
  beq_iff_eq.mp (List.find?_some (p := fun j : Job => j.id == id) h)

theorem State.again_eq {s : State} {job : Job} (h : s.job? job.id = some job) : s.again job = job := by
  rw [State.again, h]
  rfl

theorem State.job?_setJob {s : State} {old job : Job} (h : s.job? job.id = some old) : (s.setJob job).job? job.id = some job := by
  have hid := State.id_of_job? h
  have hsame : ((fun l : Job => l.id == job.id) ∘ fun l : Job => if l.id = job.id then job else l) = fun l : Job => l.id == job.id := by
    funext l
    by_cases hl : l.id = job.id <;> simp [hl]
  rw [State.job?] at h
  simp only [State.setJob, State.job?, List.find?_map, hsame, h, Option.map_some, hid, if_true]

theorem State.job?_dropJob (s : State) (id : Nat) : (s.dropJob id).job? id = none := by
  refine List.find?_eq_none.mpr fun l hl heq => ?_
  obtain ⟨-, hne⟩ := List.mem_filter.mp hl
  exact bne_iff_ne.mp hne (beq_iff_eq.mp heq)

theorem State.pageJob_dropJob (s : State) (id : Nat) : (s.dropJob id).pageJob id = none := by
  rw [State.pageJob, State.job?_dropJob]
  rfl

theorem State.pageJob_eq_some {s : State} {id : Nat} {job : Job} {k : PageJob} :
    s.pageJob id = some (job, k) ↔ s.job? id = some job ∧ job.body = .page k := by
  rw [State.pageJob, Option.bind_eq_some_iff]
  constructor
  · rintro ⟨l, hl, hbody⟩
    split at hbody
    · next k' hk =>
      obtain ⟨rfl, rfl⟩ := Prod.mk.inj (Option.some.inj hbody)
      exact ⟨hl, hk⟩
    · exact absurd hbody nofun
  · rintro ⟨hl, hk⟩
    exact ⟨job, hl, by rw [hk]⟩

/-- A request's next step is on the agenda, and nothing else changes. -/
theorem State.chainIn_eq (s : State) (job : Job) (d : Nat) (pas : List Nat) (ev : Instr) (arg : Arg) :
    ∃ l, s.chainIn job d pas ev arg = { s with agenda := l } := by
  simp only [State.chainIn, State.chain]
  split
  · exact ⟨_, rfl⟩
  · split <;> exact ⟨_, rfl⟩

@[simp] theorem State.mem_chainIn (s : State) (job : Job) (d : Nat) (pas : List Nat) (ev : Instr) (arg : Arg) :
    (s.chainIn job d pas ev arg).mem = s.mem := by
  obtain ⟨l, h⟩ := s.chainIn_eq job d pas ev arg
  rw [h]

@[simp] theorem State.pageJob_chainIn (s : State) (job : Job) (d : Nat) (pas : List Nat) (ev : Instr) (arg : Arg) (id : Nat) :
    (s.chainIn job d pas ev arg).pageJob id = s.pageJob id := by
  obtain ⟨l, h⟩ := s.chainIn_eq job d pas ev arg
  rw [h]
  rfl

@[simp] theorem State.job?_readFor (s : State) (job : Job) (pas : List Nat) (id : Nat) : (s.readFor job pas).job? id = s.job? id := by
  rw [State.job?, State.jobs_readFor, State.job?]

@[simp] theorem State.mem_pageEnd (s : State) (job : Job) (k : PageJob) (j : Nat) : (s.pageEnd job k j).mem = s.mem := by
  rw [State.pageEnd]
  split
  · rfl
  · split
    · split
      · exact s.mem_chainIn ..
      · rfl
    · rfl

@[simp] theorem State.mem_dropJob (s : State) (id : Nat) : (s.dropJob id).mem = s.mem := rfl
@[simp] theorem State.mem_setJob (s : State) (job : Job) : (s.setJob job).mem = s.mem := rfl

/-- A read leaves the request as it stands. -/
theorem State.again_readFor {s : State} {id : Nat} {job : Job} {k : PageJob} (h : s.pageJob id = some (job, k)) (pas : List Nat) :
    (s.readFor job pas).again job = job := by
  obtain ⟨hjob, -⟩ := State.pageJob_eq_some.mp h
  obtain rfl := State.id_of_job? hjob
  exact State.again_eq ((s.job?_readFor job pas job.id).trans hjob)

/-- A failure other than a saturated count ends the request, and a live one's task takes the trap (R272). -/
theorem State.pageStop_live {s : State} {job : Job} {k : PageJob} {cause : Cause} {j anchor : Nat} (hcause : cause ≠ .refcountSat)
    (hlive : job.live = true) : ∃ u : State, u.mem = s.mem ∧
      s.pageStop job k cause j anchor = u.takeTrap job.owner cause (pageInfo j anchor) k.pos := by
  rw [State.pageStop, if_neg hcause, if_pos hlive]
  exact ⟨State.dropJob { s with agenda := s.agenda.filter fun p => !(p.owner == job.owner && p.ord == job.id) } job.id, rfl, rfl⟩

/-! ### Anchors in memory (R227, R269) -/

@[simp] theorem State.inMotion_writeAnchor (s : State) (o : CoreId) (pa : Nat) (bs : List Byte) (q : Nat) :
    (s.writeAnchor o pa bs).inMotion q = s.inMotion q := s.inMotion_writeAtomAs o _ q

section
variable {s : State} {o : CoreId} {pa : Nat} {bs : List Byte} (hwf : s.mem.wf = true)
include hwf

theorem State.wf_writeAnchor : (s.writeAnchor o pa bs).mem.wf = true := State.writeAtomAs_wf _ _ _ hwf

variable (hlen : bs.length = 16)
include hlen

theorem State.get_writeAnchor_other {q : Nat} (h : q ∉ pasFrom pa 16) : (s.writeAnchor o pa bs).mem.get q = s.mem.get q :=
  State.get_writeAtomAs_other hwf (by rwa [map_pa_bytesAt, hlen])

theorem State.map_get_writeAnchor (hstill : ∀ q ∈ pasFrom pa 16, s.inMotion q = false) :
    (pasFrom pa 16).map (s.writeAnchor o pa bs).mem.get = bs := by
  have hpas := map_pa_bytesAt pa 0 bs
  rw [hlen] at hpas
  have hbytes := State.map_get_writeAtomAs (c := o) (ws := bytesAt pa 0 bs) hwf (by rw [hpas]; exact nodup_pasFrom pa 16)
    (by rwa [hpas])
  rwa [hpas, map_val_bytesAt] at hbytes

end

/-- An anchor is what was written there, where nothing was written over it. -/
theorem State.anchor_of_written {s t : State} {o : CoreId} {pa : Nat} {bs : List Byte} (hwf : s.mem.wf = true) (hlen : bs.length = 16)
    (hstill : ∀ q ∈ pasFrom pa 16, s.inMotion q = false)
    (hkeep : ∀ q ∈ pasFrom pa 16, t.mem.get q = (s.writeAnchor o pa bs).mem.get q) :
    kvOf ((pasFrom pa 16).map t.mem.get) = kvOf bs := by
  rw [List.map_congr_left hkeep, State.map_get_writeAnchor hwf hlen hstill]

/-! ### An entry is read (R272) -/

/-- A page instruction with one entry more, and its valid tokens in the sum. -/
def PageJob.withEntry (k : PageJob) (j : Nat) (bs : List Byte) : PageJob :=
  { k with ents := k.ents ++ [(j, bs, k.sum)], sum := k.sum + (kvOf bs).count }

/-- A request with the page instruction's new state. -/
def Job.withPage (job : Job) (k : PageJob) : Job := { job with body := .page k }

/-- The entry goes into the request. -/
theorem exec_pageEntryRead {s : State} {id j : Nat} {b : Bool} {job : Job} {k : PageJob} (harg : s.arg = .beat id j b)
    (hjob : s.pageJob id = some (job, k)) (hledger : s.ledger = []) (hpoison : s.poisoned (segPas k.a (16 * j) 16) = false)
    (hstill : ∀ pa ∈ segPas k.a (16 * j) 16, s.inMotion pa = false) : ∃ t job', exec .pageEntryRead s = .next t ∧ t.mem = s.mem ∧
      t.pageJob id = some (job', k.withEntry j ((segPas k.a (16 * j) 16).map s.mem.get)) := by
  obtain ⟨hjob?, -⟩ := State.pageJob_eq_some.mp hjob
  obtain rfl := State.id_of_job? hjob?
  have hread := (s.job?_readFor job (segPas k.a (16 * j) 16) job.id).trans hjob?
  have hagain := State.again_readFor hjob (segPas k.a (16 * j) 16)
  have hset := State.pageJob_eq_some.mpr
    ⟨State.job?_setJob (job := job.withPage (k.withEntry j ((segPas k.a (16 * j) 16).map s.mem.get))) hread, rfl⟩
  simp only [exec_pageEntryRead_eq, execPageEntryRead, harg, hjob, State.engineRead_eq job k.pos hpoison hledger hstill, hagain]
  refine ⟨_, job.withPage (k.withEntry j ((segPas k.a (16 * j) 16).map s.mem.get)), rfl, ?_, ?_⟩
  · split <;> simp [State.setJob]
  · rw [apply_ite (fun t : State => t.pageJob job.id), State.pageJob_chainIn, State.pageJob_chainIn, ite_self]
    exact hset

/-! ### An entry takes its effect (R272 to R276) -/

/-- KFORK's writes: one reference more at the anchor, and the copy, no anchor, at the destination (R274). -/
def State.forkEntry (s : State) (o : CoreId) (k : PageJob) (j : Nat) (bs ab : List Byte) : State :=
  (s.writeAnchor o (kvOf bs).anchorPa (withRefs ab ((kvOf ab).refs + 1))).putSegs o k.b k.vb.toNat (16 * j) (withRefs (clearAnchor bs) 0)

/-- An anchor's bytes with one reference less; the last one makes it invalid (R275). -/
def droppedAnchor (ab : List Byte) : List Byte :=
  if (kvOf ab).refs == 1 then clearValid (withRefs ab ((kvOf ab).refs - 1)) else withRefs ab ((kvOf ab).refs - 1)

/-- KDROP's writes: the anchor, the entry's valid bit, and with the last reference the page in the list of those freed (R275). -/
def State.dropEntry (s : State) (o : CoreId) (k : PageJob) (j : Nat) (bs ab : List Byte) : State :=
  let s1 := s.writeAnchor o (kvOf bs).anchorPa (droppedAnchor ab)
  let s2 := s1.putSegs o k.a k.va.toNat (16 * j) [s1.byteAt (segPa k.a (16 * j)) &&& 0xFE]
  if (kvOf ab).refs == 1 then s2.putSegs o k.b k.vb.toNat (8 * k.freed) (leBytes (kvOf bs).page 8) else s2

section
variable {s : State} {id j : Nat} {b : Bool} {job : Job} {k : PageJob} {bs : List Byte} {sum : Nat} (harg : s.arg = .beat id j b)
  (hjob : s.pageJob id = some (job, k)) (hent : listGet? k.ents j = some (bs, sum))
include harg hjob hent

/-- An entry that is not the domain's is refused before anything is read (R272). -/
theorem exec_pageEntryApply_refused (hbad : (kvOf bs).valid = false ∨ (kvOf bs).tag ≠ k.tag)
    (hop : k.op ∈ [PageOp.set, .add, .fork, .drop]) :
    exec .pageEntryApply s = .next (s.pageStop job k .protection j 0) := by
  have hrefused : (!(kvOf bs).valid || (kvOf bs).tag != k.tag) = true := by simpa using hbad
  simp only [List.mem_cons, List.not_mem_nil, or_false] at hop
  obtain hop | hop | hop | hop := hop
  all_goals
    simp only [exec_pageEntryApply_eq, execPageEntryApply, harg, hjob, hent, hop, hrefused, Option.bind_some, Option.map_some,
      Bool.not_false, Bool.true_and, Bool.true_or, if_true]

variable (hhome : s.pageHome job.owner (kvOf bs) = true) (hledger : s.ledger = [])
include hhome hledger

section
variable (hvalid : (kvOf bs).valid = true) (htag : (kvOf bs).tag = k.tag)
include hvalid htag

/-- KPOS writes the entry's base: the token count before it, or its old base plus the operand (R273). -/
theorem exec_pageEntryApply_pos (hop : k.op = .set ∨ k.op = .add) : exec .pageEntryApply s =
    .next (((s.readFor job []).putSegs job.owner k.a k.va.toNat (16 * j + 8)
      (leBytes (if k.op = .set then k.arg.toNat + sum else (kvOf bs).base + k.arg.toNat) 4)).pageEnd job k j) := by
  have hread := State.engineReadPa_eq (s := s) (pas := []) job k.pos rfl hledger nofun
  have hagain := State.again_readFor hjob []
  obtain hop | hop := hop
  all_goals
    simp only [exec_pageEntryApply_eq, execPageEntryApply, harg, hjob, hent, hop, Option.bind_some, Option.map_some, PageJob.anchored,
      hvalid, htag, hhome, hread, hagain, Bool.not_false, Bool.not_true, bne_self_eq_false, Bool.or_self, Bool.and_false,
      Bool.false_eq_true, if_false, if_true, reduceCtorEq]
    rfl

section
variable {ab : List Byte} (hpoison : s.poisoned (pasFrom (kvOf bs).anchorPa 16) = false)
  (hstill : ∀ pa ∈ pasFrom (kvOf bs).anchorPa 16, s.inMotion pa = false) (hanchor : (pasFrom (kvOf bs).anchorPa 16).map s.mem.get = ab)
include hpoison hstill hanchor

section
variable (han : (kvOf ab).valid = true) (hformat : (kvOf ab).format = (kvOf bs).format) (hdcode : (kvOf ab).dcode = (kvOf bs).dcode)
include han hformat hdcode

theorem exec_pageEntryApply_fork (hop : k.op = .fork) (hrefs : (kvOf ab).refs < 4095) : exec .pageEntryApply s =
    .next (((s.readFor job (pasFrom (kvOf bs).anchorPa 16)).forkEntry job.owner k j bs ab).pageEnd job k j) := by
  have hread := State.engineReadPa_eq job k.pos hpoison hledger hstill
  have hagain := State.again_readFor hjob (pasFrom (kvOf bs).anchorPa 16)
  rw [hanchor] at hread
  simp only [exec_pageEntryApply_eq, execPageEntryApply, harg, hjob, hent, hop, Option.bind_some, Option.map_some, PageJob.anchored,
    hvalid, htag, hhome, hread, hagain, han, hformat, hdcode, hrefs.ne, Bool.not_false, Bool.not_true, bne_self_eq_false, Bool.or_self,
    Bool.and_false, Bool.false_eq_true, if_false, if_true]
  rfl

theorem exec_pageEntryApply_drop (hop : k.op = .drop) (hplain : (kvOf bs).anchor = false) (hrefs : (kvOf ab).refs ≠ 0) :
    ∃ job' k', exec .pageEntryApply s =
      .next ((((s.readFor job (pasFrom (kvOf bs).anchorPa 16)).dropEntry job.owner k j bs ab).setJob job').pageEnd job k' j) := by
  have hread := State.engineReadPa_eq job k.pos hpoison hledger hstill
  have hagain := State.again_readFor hjob (pasFrom (kvOf bs).anchorPa 16)
  rw [hanchor] at hread
  simp only [exec_pageEntryApply_eq, execPageEntryApply, harg, hjob, hent, hop, Option.bind_some, Option.map_some, PageJob.anchored,
    hvalid, htag, hhome, hread, hagain, han, hformat, hdcode, hplain, beq_eq_false_iff_ne.mpr hrefs, Bool.not_false, Bool.not_true,
    bne_self_eq_false, Bool.or_self, Bool.and_false, Bool.false_eq_true, if_false, if_true]
  exact ⟨_, _, rfl⟩

end

end

end

/-- KMAP without a seal goes on to its writes at once (R276). -/
theorem exec_pageEntryApply_map (hpoison : s.poisoned (pasFrom (kvOf bs).anchorPa 16) = false)
    (hstill : ∀ pa ∈ pasFrom (kvOf bs).anchorPa 16, s.inMotion pa = false)
    (hfree : (kvOf ((pasFrom (kvOf bs).anchorPa 16).map s.mem.get)).valid = false) (hop : k.op = .map false) :
    exec .pageEntryApply s = .next ((s.readFor job (pasFrom (kvOf bs).anchorPa 16)).chainIn job 0 (k.mapPas (kvOf bs) false) .kmapWrite
      (.beat id j true)) := by
  have hread := State.engineReadPa_eq job k.pos hpoison hledger hstill
  have hagain := State.again_readFor hjob (pasFrom (kvOf bs).anchorPa 16)
  simp only [exec_pageEntryApply_eq, execPageEntryApply, harg, hjob, hent, hop, Option.bind_some, Option.map_some, PageJob.anchored,
    hhome, hread, hagain, hfree, Bool.not_true, Bool.or_self, Bool.false_and, Bool.false_eq_true, if_false, if_true]

end

/-! ### Memory behind an entry's effect (R273 to R275) -/

theorem length_droppedAnchor (ab : List Byte) : (droppedAnchor ab).length = 16 := by
  rw [droppedAnchor]
  split
  · exact length_clearValid _
  · exact length_withRefs _ _

theorem kvOf_droppedAnchor {ab : List Byte} (hlen : ab.length = 16) : kvOf (droppedAnchor ab) =
    { kvOf ab with valid := (kvOf ab).valid && (kvOf ab).refs != 1, refs := (kvOf ab).refs - 1 } := by
  obtain ⟨-, -, -, -, -, -, -, hlt⟩ := kvOf_fits ab
  have hmod : ((kvOf ab).refs - 1) % 4096 = (kvOf ab).refs - 1 := Nat.mod_eq_of_lt (by omega)
  rw [droppedAnchor]
  by_cases hlast : (kvOf ab).refs = 1
  · simp [hlast, kvOf_clearValid, kvOf_withRefs hlen]
  · simp [hlast, kvOf_withRefs hlen, hmod]

section
variable {s : State} {o : CoreId} {k : PageJob} {j : Nat} {bs ab : List Byte} (hwf : s.mem.wf = true)
include hwf

theorem State.get_forkEntry_other {pa : Nat} (h : pa ∉ pasFrom (kvOf bs).anchorPa 16 ++ segPas k.b (16 * j) 16) :
    (s.forkEntry o k j bs ab).mem.get pa = s.mem.get pa := by
  obtain ⟨hanchor, hcopy⟩ := not_or.mp (mt List.mem_append.mpr h)
  rw [State.forkEntry, State.get_putSegs_other (State.wf_writeAnchor hwf) (by rwa [length_withRefs]),
    State.get_writeAnchor_other hwf (length_withRefs ..) hanchor]

/-- The anchor counts the copy. -/
theorem State.anchor_forkEntry (hlen : ab.length = 16) (hrefs : (kvOf ab).refs < 4095)
    (hstill : ∀ pa ∈ pasFrom (kvOf bs).anchorPa 16, s.inMotion pa = false)
    (hapart : ∀ pa ∈ segPas k.b (16 * j) 16, pa ∉ pasFrom (kvOf bs).anchorPa 16) :
    kvOf ((pasFrom (kvOf bs).anchorPa 16).map (s.forkEntry o k j bs ab).mem.get) = { kvOf ab with refs := (kvOf ab).refs + 1 } := by
  have hanchor : kvOf ((pasFrom (kvOf bs).anchorPa 16).map (s.forkEntry o k j bs ab).mem.get) =
      kvOf (withRefs ab ((kvOf ab).refs + 1)) :=
    State.anchor_of_written (o := o) hwf (length_withRefs ..) hstill fun pa hpa => by
      rw [State.forkEntry, State.get_putSegs_other (State.wf_writeAnchor hwf)]
      rw [length_withRefs]
      exact fun hcopy => hapart pa hcopy hpa
  rw [hanchor, kvOf_withRefs hlen, Nat.mod_eq_of_lt (Nat.succ_lt_succ hrefs)]

/-- Behind its anchor's write a KDROP writes its entry's first byte and its place in the list. -/
theorem State.get_dropEntry_other {pa : Nat} (h : pa ∉ segPas k.a (16 * j) 1 ++ segPas k.b (8 * k.freed) 8) :
    (s.dropEntry o k j bs ab).mem.get pa = (s.writeAnchor o (kvOf bs).anchorPa (droppedAnchor ab)).mem.get pa := by
  obtain ⟨hentry, hlist⟩ := not_or.mp (mt List.mem_append.mpr h)
  have hwf1 := State.wf_writeAnchor (o := o) (pa := (kvOf bs).anchorPa) (bs := droppedAnchor ab) hwf
  have hput (byte : Byte) := State.get_putSegs_other (o := o) (va := k.va.toNat) (bs := [byte]) hwf1 hentry
  rw [State.dropEntry]
  split
  · rw [State.get_putSegs_other (State.wf_putSegs hwf1) (by rwa [length_leBytes]), hput]
  · exact hput _

/-- The anchor has one reference less. -/
theorem State.anchor_dropEntry (hlen : ab.length = 16)
    (hstill : ∀ pa ∈ pasFrom (kvOf bs).anchorPa 16, s.inMotion pa = false)
    (hapart : ∀ pa ∈ segPas k.a (16 * j) 1 ++ segPas k.b (8 * k.freed) 8, pa ∉ pasFrom (kvOf bs).anchorPa 16) :
    kvOf ((pasFrom (kvOf bs).anchorPa 16).map (s.dropEntry o k j bs ab).mem.get) =
      { kvOf ab with valid := (kvOf ab).valid && (kvOf ab).refs != 1, refs := (kvOf ab).refs - 1 } := by
  rw [← kvOf_droppedAnchor hlen]
  exact State.anchor_of_written hwf (length_droppedAnchor ab) hstill fun pa hpa =>
    State.get_dropEntry_other hwf fun hwritten => hapart pa hwritten hpa

end

/-! ### KMAP's writes (R276) -/

/-- KMAP seals the page. -/
def PageJob.seals (k : PageJob) : Bool := match k.op with | .map sl => sl | _ => false

/-- The anchor of a page that KMAP maps. -/
def KvEntry.mapped (e : KvEntry) (k : PageJob) : KvEntry :=
  { e with valid := true, anchor := true, sealed_ := k.seals, tag := k.tag, refs := 1 }

/-- The page's trailer, when KMAP seals it. -/
def State.sealPage (s : State) (o : CoreId) (k : PageJob) (e : KvEntry) : State :=
  if k.seals then s.writeAs o (bytesAt (e.page + e.image - 4) 0 (leBytes k.sum 4)) else s

/-- KMAP's writes: trailer, anchor and destination. -/
def State.mapEntry (s : State) (o : CoreId) (k : PageJob) (bs : List Byte) : State :=
  ((s.sealPage o k (kvOf bs)).writeAnchor o (kvOf bs).anchorPa ((kvOf bs).mapped k).bytes).putSegs o k.b k.vb.toNat 0
    ({ (kvOf bs).mapped k with anchor := false, refs := 0 } : KvEntry).bytes

theorem exec_kmapWrite {s : State} {id j : Nat} {b : Bool} {job : Job} {k : PageJob} {bs : List Byte} {sum : Nat}
    (harg : s.arg = .beat id j b) (hjob : s.pageJob id = some (job, k)) (hent : listGet? k.ents j = some (bs, sum)) :
    exec .kmapWrite s = .next ((s.mapEntry job.owner k bs).dropJob id) := by
  simp only [exec_kmapWrite_eq, execKmapWrite, harg, hjob, hent, Option.bind_some, Option.map_some]
  rw [State.mapEntry, State.putSegs, length_entryBytes]
  rfl

@[simp] theorem State.inMotion_sealPage (s : State) (o : CoreId) (k : PageJob) (e : KvEntry) (pa : Nat) :
    (s.sealPage o k e).inMotion pa = s.inMotion pa := by
  rw [State.sealPage]
  split
  · exact s.inMotion_writeAs ..
  · rfl

theorem KvEntry.fits_mapped (bs : List Byte) {k : PageJob} (htag : k.tag < 65536) : ((kvOf bs).mapped k).Fits := by
  obtain ⟨hformat, hdcode, halign, hpage, htokens, hbase, -, -⟩ := kvOf_fits bs
  exact ⟨hformat, hdcode, halign, hpage, htokens, hbase, htag, (by decide : 1 < 2 ^ 12)⟩

section
variable {s : State} {o : CoreId} {k : PageJob} {bs : List Byte} (hwf : s.mem.wf = true)
include hwf

theorem State.wf_sealPage (e : KvEntry) : (s.sealPage o k e).mem.wf = true := by
  rw [State.sealPage]
  split
  · exact State.writeAs_wf _ _ _ hwf
  · exact hwf

theorem State.get_sealPage_other {e : KvEntry} {pa : Nat} (h : pa ∉ pasFrom (e.page + e.image - 4) 4) :
    (s.sealPage o k e).mem.get pa = s.mem.get pa := by
  rw [State.sealPage]
  split
  · refine State.get_writeAs_other hwf fun w hw heq => h ?_
    rw [← length_leBytes k.sum 4, ← map_pa_bytesAt _ 0, ← heq]
    exact List.mem_map_of_mem hw
  · rfl

theorem State.get_mapEntry_other {pa : Nat}
    (h : pa ∉ pasFrom ((kvOf bs).page + (kvOf bs).image - 4) 4 ++ pasFrom (kvOf bs).anchorPa 16 ++ segPas k.b 0 16) :
    (s.mapEntry o k bs).mem.get pa = s.mem.get pa := by
  simp only [List.mem_append, not_or] at h
  obtain ⟨⟨htrailer, hanchor⟩, hdst⟩ := h
  have hwf1 := State.wf_sealPage (o := o) (k := k) hwf (kvOf bs)
  rw [State.mapEntry, State.get_putSegs_other (State.wf_writeAnchor hwf1) (by rwa [length_entryBytes]),
    State.get_writeAnchor_other hwf1 (length_entryBytes _) hanchor, State.get_sealPage_other hwf htrailer]

theorem State.anchor_mapEntry (hstill : ∀ pa ∈ pasFrom (kvOf bs).anchorPa 16, s.inMotion pa = false ∧ pa ∉ segPas k.b 0 16)
    (htag : k.tag < 65536) : kvOf ((pasFrom (kvOf bs).anchorPa 16).map (s.mapEntry o k bs).mem.get) = (kvOf bs).mapped k := by
  have hwf1 := State.wf_sealPage (o := o) (k := k) hwf (kvOf bs)
  refine (State.anchor_of_written (o := o) hwf1 (length_entryBytes _) (fun pa hpa => ?_) fun pa hpa => ?_).trans
    (kvOf_bytes (KvEntry.fits_mapped bs htag))
  · rw [State.inMotion_sealPage]
    exact (hstill pa hpa).1
  · rw [State.mapEntry, State.get_putSegs_other (State.wf_writeAnchor hwf1)]
    rw [length_entryBytes]
    exact (hstill pa hpa).2

end

/-! ### The steps and memory (R273 to R276) -/

/-- A number of four bytes written is the number read back. -/
theorem State.num_putSegs {s : State} {o : CoreId} {segs : List Seg} {va off n : Nat} (hwf : s.mem.wf = true)
    (hnodup : (segPas segs off 4).Nodup) (hstill : ∀ pa ∈ segPas segs off 4, s.inMotion pa = false) :
    leNat ((segPas segs off 4).map (s.putSegs o segs va off (leBytes n 4)).mem.get) = n % 2 ^ 32 := by
  have hbytes := State.map_get_putSegs (o := o) (va := va) (off := off) (segs := segs) (bs := leBytes n 4) hwf
  rw [length_leBytes] at hbytes
  rw [hbytes hnodup hstill]
  exact leNat_leBytes n 4

section
variable {s : State} {id j : Nat} {b : Bool} {job : Job} {k : PageJob} {bs : List Byte} {sum : Nat} (hwf : s.mem.wf = true)
  (harg : s.arg = .beat id j b) (hjob : s.pageJob id = some (job, k)) (hent : listGet? k.ents j = some (bs, sum))
include hwf harg hjob hent

theorem kmapWrite_writes : ∃ t, exec .kmapWrite s = .next t ∧ t.pageJob id = none ∧
    (∀ pa, pa ∉ pasFrom ((kvOf bs).page + (kvOf bs).image - 4) 4 ++ pasFrom (kvOf bs).anchorPa 16 ++ segPas k.b 0 16 →
      t.mem.get pa = s.mem.get pa) ∧
    ((∀ pa ∈ pasFrom (kvOf bs).anchorPa 16, s.inMotion pa = false ∧ pa ∉ segPas k.b 0 16) → k.tag < 65536 →
      kvOf ((pasFrom (kvOf bs).anchorPa 16).map t.mem.get) = (kvOf bs).mapped k) := by
  refine ⟨_, exec_kmapWrite harg hjob hent, State.pageJob_dropJob _ id, fun pa hpa => ?_, fun hstill htag => ?_⟩
  · rw [State.mem_dropJob, State.get_mapEntry_other hwf hpa]
  · rw [State.mem_dropJob, State.anchor_mapEntry hwf hstill htag]

variable (hhome : s.pageHome job.owner (kvOf bs) = true) (hledger : s.ledger = []) (hvalid : (kvOf bs).valid = true)
  (htag : (kvOf bs).tag = k.tag)
include hhome hledger hvalid htag

theorem kpos_writes (hop : k.op = .set ∨ k.op = .add) : ∃ t, exec .pageEntryApply s = .next t ∧
    (∀ pa, pa ∉ segPas k.a (16 * j + 8) 4 → t.mem.get pa = s.mem.get pa) ∧
    ((segPas k.a (16 * j + 8) 4).Nodup → (∀ pa ∈ segPas k.a (16 * j + 8) 4, s.inMotion pa = false) →
      leNat ((segPas k.a (16 * j + 8) 4).map t.mem.get) =
        (if k.op = .set then k.arg.toNat + sum else (kvOf bs).base + k.arg.toNat) % 2 ^ 32) := by
  have hwf0 : (s.readFor job []).mem.wf = true := by rwa [State.mem_readFor]
  refine ⟨_, exec_pageEntryApply_pos harg hjob hent hhome hledger hvalid htag hop, fun pa hpa => ?_, fun hnodup hstill => ?_⟩
  · rw [State.mem_pageEnd, State.get_putSegs_other hwf0 (by rwa [length_leBytes]), State.mem_readFor]
  · rw [State.mem_pageEnd]
    exact State.num_putSegs hwf0 hnodup fun pa hpa => (s.inMotion_readFor job [] pa).trans (hstill pa hpa)

variable {ab : List Byte} (hpoison : s.poisoned (pasFrom (kvOf bs).anchorPa 16) = false)
  (hstill : ∀ pa ∈ pasFrom (kvOf bs).anchorPa 16, s.inMotion pa = false) (hanchor : (pasFrom (kvOf bs).anchorPa 16).map s.mem.get = ab)
  (han : (kvOf ab).valid = true) (hformat : (kvOf ab).format = (kvOf bs).format) (hdcode : (kvOf ab).dcode = (kvOf bs).dcode)
include hpoison hstill hanchor han hformat hdcode

theorem kfork_writes (hop : k.op = .fork) (hrefs : (kvOf ab).refs < 4095) : ∃ t, exec .pageEntryApply s = .next t ∧
    (∀ pa, pa ∉ pasFrom (kvOf bs).anchorPa 16 ++ segPas k.b (16 * j) 16 → t.mem.get pa = s.mem.get pa) ∧
    ((∀ pa ∈ segPas k.b (16 * j) 16, pa ∉ pasFrom (kvOf bs).anchorPa 16) →
      kvOf ((pasFrom (kvOf bs).anchorPa 16).map t.mem.get) = { kvOf ab with refs := (kvOf ab).refs + 1 }) := by
  have hlen : ab.length = 16 := by rw [← hanchor, List.length_map, length_pasFrom]
  have hwf0 : (s.readFor job (pasFrom (kvOf bs).anchorPa 16)).mem.wf = true := by rwa [State.mem_readFor]
  refine ⟨_, exec_pageEntryApply_fork harg hjob hent hhome hledger hvalid htag hpoison hstill hanchor han hformat hdcode hop hrefs,
    fun pa hpa => ?_, fun hapart => ?_⟩
  · rw [State.mem_pageEnd, State.get_forkEntry_other hwf0 hpa, State.mem_readFor]
  · rw [State.mem_pageEnd]
    exact State.anchor_forkEntry hwf0 hlen hrefs (fun pa hpa => (s.inMotion_readFor ..).trans (hstill pa hpa)) hapart

theorem kdrop_writes (hop : k.op = .drop) (hplain : (kvOf bs).anchor = false) (hrefs : (kvOf ab).refs ≠ 0) :
    ∃ t, exec .pageEntryApply s = .next t ∧
    (∀ pa, pa ∉ pasFrom (kvOf bs).anchorPa 16 ++ segPas k.a (16 * j) 1 ++ segPas k.b (8 * k.freed) 8 →
      t.mem.get pa = s.mem.get pa) ∧
    ((∀ pa ∈ segPas k.a (16 * j) 1 ++ segPas k.b (8 * k.freed) 8, pa ∉ pasFrom (kvOf bs).anchorPa 16) →
      kvOf ((pasFrom (kvOf bs).anchorPa 16).map t.mem.get) =
        { kvOf ab with valid := (kvOf ab).valid && (kvOf ab).refs != 1, refs := (kvOf ab).refs - 1 }) := by
  have hlen : ab.length = 16 := by rw [← hanchor, List.length_map, length_pasFrom]
  have hwf0 : (s.readFor job (pasFrom (kvOf bs).anchorPa 16)).mem.wf = true := by rwa [State.mem_readFor]
  obtain ⟨job', k', hexec⟩ :=
    exec_pageEntryApply_drop harg hjob hent hhome hledger hvalid htag hpoison hstill hanchor han hformat hdcode hop hplain hrefs
  refine ⟨_, hexec, fun pa hpa => ?_, fun hapart => ?_⟩
  · rw [List.append_assoc, List.mem_append, not_or] at hpa
    rw [State.mem_pageEnd, State.mem_setJob, State.get_dropEntry_other hwf0 hpa.2,
      State.get_writeAnchor_other hwf0 (length_droppedAnchor ab) hpa.1, State.mem_readFor]
  · rw [State.mem_pageEnd, State.mem_setJob]
    exact State.anchor_dropEntry hwf0 hlen (fun pa hpa => (s.inMotion_readFor ..).trans (hstill pa hpa)) hapart

end

/-! ### The obligation -/

/-- Settles O48: each step's equation says what is read and written, and the lemmas about writes in pieces and about the fields of
entries give memory behind it. -/
theorem pageStepsPerform : Obligations.PageStepsPerform := by
  refine ⟨fun s r harg hledger => ⟨fun hrow hpoison hstill => ⟨fun hbad => ?_, fun cause hvalid htag hreach => ?_,
    fun lat hvalid htag hreach => ?_⟩, fun k hrow => ⟨fun haway hpoison hstill => ?_, fun haway hkept hpoison hstill => ?_⟩⟩,
    fun format g dcode pos row om j hj => ldqkRow_pair format g dcode pos row om hj, fun s id j b job k hok harg hjob hledger => ?_⟩
  · exact exec_ldqkEntryRead_stops harg hledger hrow hpoison hstill rfl (if_neg fun hgood => hbad.elim (by simp [hgood.1]) (· hgood.2))
  · exact exec_ldqkEntryRead_stops harg hledger hrow hpoison hstill rfl ((if_pos ⟨hvalid, htag⟩).trans hreach)
  · exact exec_ldqkEntryRead_goes harg hledger hrow hpoison hstill rfl ((if_pos ⟨hvalid, htag⟩).trans hreach)
  · rw [exec_ldqkEntryRead_row harg hledger hrow haway hpoison hstill]
    exact State.readOver_stepLater ..
  · have hpas : k.rowPas r.fmt = pasFrom k.pa (headDim k.dcode * elemSize (fmtBit r.fmt)) := by
      rw [LdqkRow.rowPas, hkept]
      rfl
    rw [hkept, Option.isSome_none, if_neg Bool.false_ne_true, ← hpas] at hpoison hstill ⊢
    rw [exec_ldqkEntryRead_row_away harg hledger hrow haway hkept hpoison hstill]
    exact State.readOver_stepLater ..
  · obtain ⟨hwf, -, -⟩ := hok
    refine ⟨fun hpoison hstill => ?_, fun bs sum hent hlen => ?_⟩
    · obtain ⟨t, job', hexec, hmem, hjob'⟩ := exec_pageEntryRead harg hjob hledger hpoison hstill
      exact ⟨t, job', _, hexec, hmem, hjob', rfl⟩
    · dsimp only
      refine ⟨?_, ?_, ?_, ?_⟩
      · obtain ⟨t, hexec, hdone, hkeep, hmapped⟩ := kmapWrite_writes hwf harg hjob hent
        refine ⟨t, hexec, hdone, hkeep, fun hstill htag => ?_⟩
        rw [hmapped hstill htag]
        exact ⟨rfl, rfl, rfl, rfl, rfl⟩
      · intro hbad hop hlive
        rw [exec_pageEntryApply_refused harg hjob hent hbad hop]
        obtain ⟨u, hmem, hstop⟩ := State.pageStop_live (s := s) (k := k) (cause := .protection) (j := j) (anchor := 0) nofun hlive
        exact ⟨u, hmem, congrArg Host.Outcome.next hstop⟩
      · intro hvalid htag hhome
        refine ⟨kpos_writes hwf harg hjob hent hhome hledger hvalid htag, fun hstill hpoison => ⟨?_, ?_⟩⟩
        · intro hop han hformat hdcode hrefs
          obtain ⟨t, hexec, hkeep, hanchor⟩ := kfork_writes hwf harg hjob hent hhome hledger hvalid htag hpoison hstill rfl han hformat
            hdcode hop hrefs
          exact ⟨t, hexec, hkeep, fun hapart => by rw [hanchor hapart]⟩
        · intro hop han hformat hdcode hplain hrefs
          obtain ⟨t, hexec, hkeep, hanchor⟩ := kdrop_writes hwf harg hjob hent hhome hledger hvalid htag hpoison hstill rfl han hformat
            hdcode hop hplain hrefs
          refine ⟨t, hexec, hkeep, fun hapart => ?_⟩
          rw [hanchor hapart]
          exact ⟨rfl, by rw [han, Bool.true_and], rfl⟩
      · intro hop hhome hpoison hstill hfree
        exact ⟨_, exec_pageEntryApply_map harg hjob hent hhome hledger hpoison hstill hfree hop, by
          rw [State.mem_chainIn, State.mem_readFor]⟩

end Sys2Proof.Machine
end

section
/-! PROOFS. The requests that go to the scheduler, the vault and the chunk counters (R195, R200, R325, R378) at their issue. -/

namespace Sys2Proof.Machine

open Sys2Proof

theorem exec_tspawn_eq (node : Bool) (a b : CSrc) (s : State) : exec (.tspawn node a b) s = execTspawn node a b s := rfl
theorem exec_phint_eq (line : BitVec 14) (s : State) : exec (.phint line) s = execPhint line s := rfl
theorem exec_cresize_eq (n : BitVec 5) (s : State) : exec (.cresize n) s = execCresize n s := rfl
theorem exec_tcinc_eq (k n : BitVec 8) (s : State) : exec (.tcinc k n) s = execTcinc k n s := rfl

/-- Outside handler mode an engine takes requests (R309). -/
theorem engineOk_ok {c : Core} (h : c.inHandler = false) : engineOk c = .ok () := by
  rw [engineOk, h]
  rfl

/-! ### TSPAWN (R195) -/

/-- The domain tag and the function that a core's requests to the scheduler carry (R195). -/
def Core.spawner (c : Core) : Nat × Nat := match c.task with | some t => (t.domtag.toNat, t.fn) | none => (0, 0)

section
variable {s : State} {a b : CSrc} {x y : Word} {c : Core} (hhandler : s.me.inHandler = false) (halign : x.toNat % 64 = 0)
  (hcanonical : canonical x.toNat = true)
include hhandler halign hcanonical

theorem tspawn_graph_issues (h : SourcesC1 s a x c) : Issues .c (.tspawn false a b) s c
    [⟨160, none, true, .tspawnApply, .spawn false x.toNat 0 c.spawner.1 c.spawner.2⟩] := by
  obtain ⟨hok, hroomy, hread⟩ := h
  refine (exec_tspawn_eq false a b s).trans (issue_ok ?_ (hroomy.not_overfull _))
  simp only [engineOk_ok hhandler, legal, hok, hread, halign, hcanonical, bind, Except.bind, pure, Except.pure, Bool.not_false,
    Bool.true_or, Bool.and_self, Bool.false_eq_true, Bool.not_true, if_true, if_false, ne_eq, not_true_eq_false, Core.spawner]
  rfl

theorem tspawn_node_issues (h : SourcesC2 s a b x y c) : Issues .c (.tspawn true a b) s c
    [⟨160, none, true, .tspawnApply, .spawn true x.toNat y.toNat c.spawner.1 c.spawner.2⟩] := by
  obtain ⟨hoka, hokb, hroomy, c1, hreada, hreadb⟩ := h
  refine (exec_tspawn_eq true a b s).trans (issue_ok ?_ (hroomy.not_overfull _))
  simp only [engineOk_ok hhandler, legal, hoka, hokb, hreada, hreadb, halign, hcanonical, bind, Except.bind, pure, Except.pure,
    Bool.not_true, Bool.false_or, Bool.and_self, Bool.false_eq_true, if_true, if_false, ne_eq, not_true_eq_false, Core.spawner] <;> rfl

end

/-! ### PHINT (R325) -/

/-- The core after a PHINT that finds a good record: a free task with a request pending begins its drain. -/
def Core.hinted (c : Core) (record : List Byte) : Core :=
  if !c.isLocked && c.ctx.sys.preempting then c.modCtx fun x => { x with
    drain := some ⟨record, false, 0, 0⟩, sys := { x.sys with preempting := false } } else c

theorem phint_issues {s : State} {line : BitVec 14} (hroomy : s.Roomy) (hhandler : s.me.inHandler = false)
    (hline : line.toNat < s.me.imagelen) (hclean : s.poisoned (s.me.recordPas s.cur line.toNat) = false)
    (hrecord : liveBad (s.readAs s.cur (s.me.recordPas s.cur line.toNat)) = none) :
    IssuesAs .c (.phint line) s ⟨s.me.hinted (s.readAs s.cur (s.me.recordPas s.cur line.toNat)), [], .next 1, none, [],
      s.me.recordPas s.cur line.toNat⟩ := by
  refine (exec_phint_eq line s).trans (issue_ok ?_ (hroomy.not_overfull _))
  simp only [engineOk_ok hhandler, bind, Except.bind, pure, Except.pure, Nat.not_le.mpr hline, if_false, hclean, hrecord,
    Bool.false_eq_true]
  rfl

/-! ### CRESIZE (R200) -/

/-- The cycle in which a CRESIZE that issues now starts: the present one, or the one after the completion of the last. -/
def State.cresizeFrom (s : State) : Nat :=
  match s.me.cresizes.getLast? with | some r => r.done + 1 - (if r.own then 0 else s.me.ctx.lag) | none => s.timeline s.cur

/-- The ways that a CRESIZE which issues now finds. -/
def Core.waysThen (c : Core) : Nat := match c.cresizes.getLast? with | some r => r.n | none => c.ways

/-- The ways that move between two counts. -/
theorem ways_apart (n c0 : Nat) : (if c0 ≤ n then n - c0 else c0 - n) = max n c0 - min n c0 := by
  split <;> omega

theorem cresize_issues {s : State} {n : BitVec 5} (hroomy : s.Roomy) (hhandler : s.me.inHandler = false) (hn : n.toNat ≤ 16)
    (hplace : s.me.cresizes.length < 2) (hfrieze : s.friezeEnd s.cur.die ≤ (16 - n.toNat) * 524288) {fin : Nat}
    (hfin : fin = s.cresizeFrom + 64 + 4096 * (max n.toNat s.me.waysThen - min n.toNat s.me.waysThen)) :
    Issues .c (.cresize n) s
      { s.me with cresizes := s.me.cresizes ++ [⟨n.toNat, s.cresizeFrom, fin, s.me.waysThen, true⟩] }
      [pushH0 1 (BitVec.ofNat 64 (fin % 2 ^ 63)),
        ⟨s.cresizeFrom - s.timeline s.cur, some s.cur, false, .cresizeStart, .ids n.toNat s.me.waysThen⟩,
        ⟨fin - s.timeline s.cur, some s.cur, false, .cresizeComplete, .ids n.toNat s.me.waysThen⟩] := by
  refine (exec_cresize_eq n s).trans (issue_ok ?_ (hroomy.not_overfull _))
  rw [hfin, ← ways_apart]
  simp only [engineOk_ok hhandler, legal, decide_eq_true hn, bind, Except.bind, pure, Except.pure, if_true, Nat.not_le.mpr hplace,
    Nat.not_lt.mpr hfrieze, if_false]
  rfl

/-! ### The statement -/

/-- Settles O18: each request is that of its lemma above, PHINT's by whether the task takes the pre-emption. -/
theorem schedulerRequestsIssue : Obligations.SchedulerRequestsIssue := by
  unfold Obligations.SchedulerRequestsIssue
  refine ⟨fun s a b x y c hhandler halign hcanonical => ?spawn, fun s line hroomy hhandler hline => ?hint,
    fun s n hroomy hhandler hn hplace hfrieze => ?resize, fun s k n hroomy => ?count⟩
  case spawn =>
    have hgraph := tspawn_graph_issues (s := s) (a := a) (b := b) (c := c) hhandler halign hcanonical
    have hnode := tspawn_node_issues (s := s) (a := a) (b := b) (y := y) (c := c) hhandler halign hcanonical
    cases htask : c.task <;> simp only [Core.spawner, htask] at hgraph hnode <;> exact ⟨hgraph, hnode⟩
  case hint =>
    intro pas hclean hrecord
    refine ⟨_, phint_issues hroomy hhandler hline hclean hrecord, ?takes, ?stays⟩
    case takes =>
      rintro ⟨hfree, hasked⟩
      rw [Core.hinted, if_pos (by rw [hfree, hasked]; rfl)]
      exact ⟨rfl, rfl⟩
    case stays =>
      intro hnot
      refine if_neg fun htake => ?_
      obtain ⟨hfree, hasked⟩ := Bool.and_eq_true_iff.mp htake
      obtain h | h := hnot
      · rw [h] at hfree
        exact absurd hfree (by decide)
      · exact absurd (h.symm.trans hasked) (by decide)
  case resize =>
    refine ⟨_, ?_, ?_, cresize_issues hroomy hhandler hn hplace hfrieze rfl⟩
    · rfl
    · rfl
  case count =>
    exact (exec_tcinc_eq k n s).trans (issue_ok rfl (hroomy.not_overfull _))

end Sys2Proof.Machine
end

section
/-! PROOFS. Handlers and supervisors (R180, R274, R306, R310 to R312, R321): what a hold that begins leaves alone, a task's fatal end, the stop
at the item that is due, and the dispositions. -/

namespace Sys2Proof.Machine

open Sys2Proof

theorem exec_handlerModeEnd_eq (s : State) : exec .handlerModeEnd s = execHandlerModeEnd s := rfl
theorem exec_deadline_eq (s : State) : exec .deadline s = execDeadline s := rfl
theorem exec_supervisorDisposition_eq (s : State) : exec .supervisorDisposition s = execSupervisorDisposition s := rfl

/-! ### Holds begin and are released (R316, R317) -/

/-- The hold that startHold begins. -/
def State.newHold (s : State) (reason : Nat) (kill : Option (Nat × Nat)) (origin : CoreId) (members : List (CoreId × Nat)) : Hold :=
  ⟨s.seq, reason, kill, origin, s.clock, none, members⟩

/-- Beside the new hold, startHold schedules events and takes places of the order, no more. -/
theorem State.startHold_keeps {γ : Type} (g : State → γ) (hg : ∀ t o d ev arg, g (State.scheduleDom t o d ev arg) = g t) (s : State)
    (reason : Nat) (kill : Option (Nat × Nat)) (origin : CoreId) (cores : List CoreId) (rings : List Nat) :
    ∃ members, g (s.startHold reason kill origin cores rings) =
      g { s with seq := s.seq + 1, holds := s.holds ++ [s.newHold reason kill origin members] } := by
  have hwave := foldl_keeps g (fun (t : State) (m : CoreId × Nat) => t.scheduleDom m.1 m.2 .holdReachesMember (.ids s.seq 0))
    fun _ _ => hg ..
  simp only [State.startHold]
  split
  · exact ⟨_, (hg ..).trans (hwave ..)⟩
  · exact ⟨_, hwave ..⟩

section
variable (s : State) (reason : Nat) (kill : Option (Nat × Nat)) (origin : CoreId) (cores : List CoreId) (rings : List Nat)

@[simp] theorem State.faultq_startHold : (s.startHold reason kill origin cores rings).faultq = s.faultq :=
  (s.startHold_keeps State.faultq (fun _ _ _ _ _ => rfl) reason kill origin cores rings).choose_spec

@[simp] theorem State.core_startHold (id : CoreId) : (s.startHold reason kill origin cores rings).core id = s.core id :=
  (s.startHold_keeps (fun t => t.core id) (fun _ _ _ _ _ => rfl) reason kill origin cores rings).choose_spec

theorem State.newHold_mem_startHold : ∃ members, s.newHold reason kill origin members ∈ (s.startHold reason kill origin cores rings).holds := by
  obtain ⟨members, h⟩ := s.startHold_keeps State.holds (fun _ _ _ _ _ => rfl) reason kill origin cores rings
  refine ⟨members, ?_⟩
  rw [h]
  exact List.mem_append_right _ (List.mem_singleton_self _)

end

/-- A release that starts is an event to come, no more. -/
theorem State.release_keeps {γ : Type} (g : State → γ) (hg : ∀ t o d ev arg, g (State.scheduleDom t o d ev arg) = g t) (s : State)
    (origin : CoreId) (h : Option Nat) : g (s.release origin h) = g s := by
  cases h with
  | none => rfl
  | some h => exact hg ..

@[simp] theorem State.mem_release (s : State) (o : CoreId) (h : Option Nat) : (s.release o h).mem = s.mem :=
  s.release_keeps State.mem (fun _ _ _ _ _ => rfl) o h
@[simp] theorem State.faultq_release (s : State) (o : CoreId) (h : Option Nat) : (s.release o h).faultq = s.faultq :=
  s.release_keeps State.faultq (fun _ _ _ _ _ => rfl) o h
@[simp] theorem State.holds_release (s : State) (o : CoreId) (h : Option Nat) : (s.release o h).holds = s.holds :=
  s.release_keeps State.holds (fun _ _ _ _ _ => rfl) o h
@[simp] theorem State.clock_release (s : State) (o : CoreId) (h : Option Nat) : (s.release o h).clock = s.clock :=
  s.release_keeps State.clock (fun _ _ _ _ _ => rfl) o h
@[simp] theorem State.core_release (s : State) (o : CoreId) (h : Option Nat) (id : CoreId) : (s.release o h).core id = s.core id :=
  s.release_keeps (fun t => t.core id) (fun _ _ _ _ _ => rfl) o h

/-! ### Fatal ends (R321) -/

theorem State.task_fatalEnd {s : State} {id : CoreId} {k : Task} (cause : Nat) (htask : (s.core id).task = some k) :
    ((s.fatalEnd id cause).core id).task = none := by
  simp only [State.fatalEnd, htask]
  exact (s.discardInFlight id).task_freeCore id

theorem State.faultq_fatalEnd {s : State} {id : CoreId} {k : Task} (cause : Nat) (htask : (s.core id).task = some k) :
    (s.fatalEnd id cause).faultq = s.faultq ++ [⟨id, cause, k.run⟩] := by
  simp only [State.fatalEnd, htask]
  rfl

/-- A core's stopped task ends fatally: a free one at once, a locked one with its group, by a hold that has the next number of the
issue order (R321). -/
def State.EndsFatally (s t : State) (id : CoreId) (k : Task) (code : Nat) : Prop :=
  if k.locked then t.faultq = s.faultq ∧ (t.core id).task = some k ∧
    ∃ h ∈ t.holds, h.id = s.seq ∧ h.reason = 6 ∧ h.kill = some (k.group, code) ∧ h.origin = id
  else (t.core id).task = none ∧ t.faultq = s.faultq ++ [⟨id, code, k.run⟩]

theorem State.endTrapped_ends {s : State} {id : CoreId} {k : Task} (code : Nat) (htask : (s.core id).task = some k) :
    s.EndsFatally (s.endTrapped id code) id k code := by
  have hlocked : (s.core id).isLocked = k.locked := by simp only [Core.isLocked, htask]
  rw [State.EndsFatally, State.endTrapped]
  simp only [hlocked]
  split
  · simp only [htask, Option.map_some, Option.getD_some, State.faultq_release, State.faultq_startHold, State.faultq_modCore,
      State.core_release, State.core_startHold, State.core_modCore_self, Core.task_modCtx, State.holds_release, true_and]
    obtain ⟨members, hmem⟩ := State.newHold_mem_startHold (s.modCore id fun c => c.modCtx fun x => { x with trapped := some .supervisor })
      6 (some (k.group, code)) id (s.groupCores k.group) []
    exact ⟨_, hmem, rfl, rfl, rfl, rfl⟩
  · exact ⟨State.task_fatalEnd code htask, State.faultq_fatalEnd code htask⟩

/-! ### Handler mode ends (R310, R311) -/

section
variable {s : State} {h : Handler} {a : Nat} (htrapped : s.me.ctx.trapped = some (.handler h)) (haction : h.action = some a)
include htrapped haction

theorem Core.action_of_handler : (s.core s.cur).action = some (h, a) := by
  rw [State.me] at htrapped
  simp only [Core.action, htrapped, haction, Option.map_some]

/-- The action's write takes effect: the end of handler mode is to come. -/
theorem State.endHandlerAt_schedules (name : String) : ∃ t, s.endHandlerAt a name = .next t ∧ t.cores = s.cores ∧
    ∃ p ∈ t.agenda, p.owner = s.cur ∧ p.ev = .handlerModeEnd ∧ p.clk = .dom ∧ s.clock ≤ p.due := by
  refine ⟨s.scheduleDom s.cur (max s.clock (s.handlerLast s.cur) - s.clock) .handlerModeEnd .none, ?_, rfl, _,
    s.mem_agenda_scheduleDom _ _ _ _, rfl, rfl, rfl, Nat.le_add_right _ _⟩
  simp only [State.endHandlerAt, Core.action_of_handler htrapped haction, if_true]

theorem exec_handlerModeEnd_resumes (ha : a = 1) :
    exec .handlerModeEnd s = .next ((s.setCore s.cur (s.me.leaveHandler h)).goOn s.cur h.trapline) := by
  simp only [exec_handlerModeEnd_eq, execHandlerModeEnd, Core.action_of_handler htrapped haction, ha, if_true]
  rfl

theorem exec_handlerModeEnd_ends (ha : a = 2) : exec .handlerModeEnd s =
    .next ((s.setCore s.cur (s.me.leaveHandler h)).endTrapped s.cur (s.me.ctx.sys.tcause.toNat % 256)) := by
  simp only [exec_handlerModeEnd_eq, execHandlerModeEnd, Core.action_of_handler htrapped haction, ha, OfNat.ofNat_ne_one, if_false,
    bits, fld, pow_zero, Nat.div_one]
  rfl

end

/-- Going on at a position changes a core's streams alone. -/
theorem Core.continue_keeps {γ : Type} (g : Core → γ) (hg : ∀ c cl st, g (Core.setStream c cl st) = g c) (c : Core) (p : Pos) :
    g (c.continue_ p) = g c := by
  simp only [Core.continue_]
  split <;> split
  · exact hg ..
  · rfl
  · exact hg ..
  · rfl

/-- A core that goes on at an unchanged TRAPLINE. -/
def Core.goesOn (c : Core) : Core :=
  (c.modCtx fun x => { x with trapped := none }).continue_ (traplinePos c.ctx.sys.trapline)

theorem State.goOn_unchanged {s : State} {id : CoreId} {old : Word} (h : (s.core id).ctx.sys.trapline = old) :
    s.goOn id old = (s.setCore id (s.core id).goesOn).release id ((s.setCore id (s.core id).goesOn).ownHold id) := by
  have hresume : s.resumeTrap id old = s.setCore id (s.core id).goesOn := if_pos h
  rw [State.goOn, hresume]
  rfl

theorem clearHandlerBit_getLsbD (w : Word) : (clearHandlerBit w).getLsbD 10 = false := by
  simp [clearHandlerBit]

/-- RESUME gives the task back what the entry of handler mode saved (R310, R311). -/
theorem handlerModeEnd_resumes {s : State} {h : Handler} (htrapped : s.me.ctx.trapped = some (.handler h)) (haction : h.action = some 1)
    (hline : s.me.ctx.sys.trapline = h.trapline) : ∃ t, exec .handlerModeEnd s = .next t ∧
      (t.core s.cur).ctx.trapped = none ∧ (t.core s.cur).ctx.c.h = h.h ∧ (t.core s.cur).ctx.c.k = h.k ∧
      (t.core s.cur).ctx.c.s = s.me.ctx.c.s ∧ (t.core s.cur).ctx.sys.tbase = h.tbase ∧
      (t.core s.cur).ctx.sys.tcause.getLsbD 10 = false ∧ (t.core s.cur).ctx.sys.tinfo = s.me.ctx.sys.tinfo ∧ t.mem = s.mem := by
  refine ⟨_, exec_handlerModeEnd_resumes htrapped haction rfl, ?_⟩
  have hset : ((s.setCore s.cur (s.me.leaveHandler h)).core s.cur).ctx.sys.trapline = h.trapline := by
    rw [State.core_setCore_self]
    exact hline
  rw [State.goOn_unchanged hset]
  simp only [State.core_release, State.core_setCore_self, State.mem_release, State.mem_setCore]
  have hkeeps : ∀ {γ : Type} (g : Ctx → γ), (∀ (c : Core) cl st, g (c.setStream cl st).ctx = g c.ctx) → g (s.me.leaveHandler h).goesOn.ctx =
      g { (s.me.leaveHandler h).ctx with trapped := none } :=
    fun g hg => Core.continue_keeps (fun c => g c.ctx) hg _ _
  exact ⟨hkeeps Ctx.trapped fun _ _ _ => rfl, hkeeps (fun x => x.c.h) fun _ _ _ => rfl, hkeeps (fun x => x.c.k) fun _ _ _ => rfl,
    hkeeps (fun x => x.c.s) fun _ _ _ => rfl, hkeeps (fun x => x.sys.tbase) fun _ _ _ => rfl,
    (congrArg (BitVec.getLsbD · 10) (hkeeps (fun x => x.sys.tcause) fun _ _ _ => rfl)).trans (clearHandlerBit_getLsbD _),
    hkeeps (fun x => x.sys.tinfo) fun _ _ _ => rfl, trivial⟩

/-! ### Budgets (R180, R221) -/

/-- The state in which a stop at the C item that is due is taken: past padding before the item (R307). -/
def State.atDue (s : State) (id : CoreId) : State :=
  (s.modCore id fun c =>
    let st := c.stream .c
    if st.entering ∧ st.line = (s.afterItem id (s.core id)).line
    then c.setStream .c { st with parcel := (s.afterItem id (s.core id)).parcel } else c).tick.tick

theorem State.stopAtDue_eq (s : State) (id : CoreId) (cause : Cause) (info : Word) :
    s.stopAtDue id cause info = (s.atDue id).takeTrap id cause info (s.afterItem id (s.core id)) := rfl

/-- Going past padding changes the C stream alone. -/
theorem State.core_atDue_keeps {γ : Type} (g : Core → γ) (hg : ∀ c st, g (Core.setStream c .c st) = g c) (s : State) (id : CoreId) :
    g ((s.atDue id).core id) = g (s.core id) := by
  simp only [State.atDue, State.core_tick, State.core_modCore_self]
  split
  · exact hg ..
  · rfl

section
variable {s : State} {id : CoreId} {f : Ctx → Ctx} (hsys : ∀ x, (f x).sys = x.sys) (hstreams : ∀ x, (f x).streams = x.streams)
include hsys

theorem State.parcel_modCtx : (s.modCore id fun c => c.modCtx f).parcel id = s.parcel id := by
  funext line k
  simp only [State.parcel, State.core_modCore_self, Core.ctx_modCtx, hsys, State.mem_modCore]

include hstreams

/-- The item that is due depends on no more of a core's context than its streams and its system registers. -/
theorem State.afterItem_modCtx : (s.modCore id fun c => c.modCtx f).afterItem id ((s.modCore id fun c => c.modCtx f).core id) =
    s.afterItem id (s.core id) := by
  simp only [State.afterItem, State.link, State.nextItem, State.parcel_modCtx hsys, State.core_modCore_self, Core.stream,
    Core.ctx_modCtx, hstreams, Core.imagelen, hsys, State.ctr_modCore]
  rfl

end

theorem State.acqLate_of_running {s : State} {id : CoreId} (h : (s.core id).tauStands = false) : s.acqLate id = none := by
  simp only [Core.tauStands, Bool.or_eq_false_iff, Option.isSome_eq_false_iff, Option.isNone_iff_eq_none] at h
  simp only [State.acqLate, h.2]

theorem Core.overBudget_of_used {c : Core} {k : Task} (htask : c.task = some k) (hruns : c.tauStands = false) (hused : k.budget ≤ c.ctx.tau) :
    c.overBudget = true := by
  simp only [Core.overBudget, htask, hruns, decide_eq_true hused, Bool.not_false, Bool.and_self]

/-- The task without its drain. -/
def State.undrained (s : State) : State := s.modCore s.cur fun c => c.modCtx fun x => { x with drain := none }

theorem State.stopAtDue_undrained (s : State) (cause : Cause) (info : Word) : s.undrained.stopAtDue s.cur cause info =
    (s.undrained.atDue s.cur).takeTrap s.cur cause info (s.afterItem s.cur s.me) := by
  have hdue := State.afterItem_modCtx (s := s) (id := s.cur) (f := fun x => { x with drain := none }) (fun _ => rfl) fun _ => rfl
  exact (State.stopAtDue_eq ..).trans (congrArg (State.takeTrap _ _ _ _) hdue)

theorem exec_deadline_budget {s : State} {k : Task} (htask : s.me.task = some k) (hruns : s.me.tauStands = false)
    (hused : k.budget ≤ s.me.ctx.tau) : exec .deadline s = .next ((s.undrained.atDue s.cur).takeTrap s.cur .deadline
      (BitVec.ofNat 64 (k.budget % 2 ^ 32)) (s.afterItem s.cur s.me)) := by
  rw [← State.stopAtDue_undrained]
  simp only [exec_deadline_eq, execDeadline, State.acqLate_of_running (id := s.cur) hruns]
  have hover : (s.core s.cur).overBudget = true := Core.overBudget_of_used htask hruns hused
  rw [State.me] at htask
  simp only [hover, if_true, htask, Option.map_some, Option.getD_some]
  rfl

theorem exec_deadline_acquire {s : State} {k : Task} {r : AcqReq} {since ord : Nat} (htask : s.me.task = some k)
    (hpause : s.me.ctx.pause = some (.acquire r since ord)) (hruns : s.me.stopped = false) (hlate : since + k.budget ≤ s.clock) :
    exec .deadline s = .next ((s.modCore s.cur fun c => c.modCtx fun x => { x with pause := none }).takeTrap s.cur .deadline
      (BitVec.ofNat 64 (k.budget % 2 ^ 32)) r.pos) := by
  rw [State.me] at htask hpause hruns
  simp only [exec_deadline_eq, execDeadline, State.acqLate, htask, hpause, hruns, decide_eq_true hlate, Bool.not_false, Bool.and_self,
    if_true, Option.map_some, Option.getD_some]

/-! ### Reports (R312, R389) -/

/-- The firmware posts an event after at least a cycle (log entry 12). -/
theorem State.exists_mem_agenda_post (s : State) (fn code : Nat) (id : CoreId) (data : Nat) :
    ∃ p ∈ (s.post fn code id data).agenda, p.ev = .eventPost ∧ s.clock < p.due ∧
      p.arg = .words (BitVec.ofNat 64 fn) (eventWord code id data) :=
  ⟨_, s.mem_agenda_scheduleDom id _ .eventPost _, rfl, by dsimp only; omega, rfl⟩

@[simp] theorem State.core_post (s : State) (fn code : Nat) (c : CoreId) (data : Nat) (id : CoreId) :
    (s.post fn code c data).core id = s.core id := rfl
@[simp] theorem State.domain_post (s : State) (fn code : Nat) (c : CoreId) (data : Nat) : (s.post fn code c data).domain = s.domain := rfl
@[simp] theorem State.core_modFn (s : State) (f : Nat) (g : HostFn → HostFn) (id : CoreId) : (s.modFn f g).core id = s.core id := rfl
@[simp] theorem State.core_modDomain (s : State) (f : Domain → Domain) (id : CoreId) : (s.modDomain f).core id = s.core id := rfl

theorem State.fns_modFn (s : State) (fn : Fin 16) (g : HostFn → HostFn) : (s.modFn fn.val g).domain.fns[fn] = g s.domain.fns[fn] := by
  simp only [State.modFn, State.domain_modDomain, fn.isLt, dif_pos, Fin.getElem_fin, Vector.getElem_set_self]

/-! ### The supervisor's dispositions (R306, R312) -/

theorem bits_low (w : Word) (n : Nat) : bits w n 0 = w.toNat % 2 ^ (n + 1) := by
  rw [bits, fld, pow_zero, Nat.div_one, Nat.sub_zero]

/-- One bit of a word as a number. -/
theorem bits_one_eq (w : Word) (i : Nat) : (bits w i i == 1) = w.getLsbD i := by
  rw [bits, fld, Nat.add_sub_cancel_left, pow_one, BitVec.getLsbD, Nat.testBit_eq_decide_div_mod_eq]
  rfl

/-- The code of the cause that stopped a core. -/
def Core.stopCode (c : Core) : Nat := c.ctx.sys.tcause.toNat % 256

section
variable {s : State} (htrapped : s.me.ctx.trapped = some .supervisor)
include htrapped

/-- A stop that the supervisor has no other answer to: a nested one, or one of no cause that it resumes (R306). -/
theorem supervisorDisposition_ends (h : s.me.ctx.sys.tcause.getLsbD 11 = true ∨ s.me.stopCode ∉ [0x20, 0x28, 0x38, 0x39]) :
    exec .supervisorDisposition s = .next (s.endTrapped s.cur s.me.stopCode) := by
  rw [State.me] at htrapped h
  simp only [exec_supervisorDisposition_eq, execSupervisorDisposition, htrapped, bits_one_eq, bits_low, State.me, Nat.reduceAdd,
    Nat.reducePow]
  obtain h | h := h
  · rw [if_pos h]
    rfl
  · simp only [List.mem_cons, List.not_mem_nil, or_false, not_or, Core.stopCode] at h
    obtain ⟨h20, h28, h38, h39⟩ := h
    simp only [h20, h28, h38, h39, or_self, if_false, ite_self, Core.stopCode]

variable (hnested : s.me.ctx.sys.tcause.getLsbD 11 = false)
include hnested

/-- A BREAK or SYSCALL is reported, and its core waits for RESUME (R312). -/
theorem supervisorDisposition_reports (hcode : s.me.stopCode = 0x38 ∨ s.me.stopCode = 0x39) : exec .supervisorDisposition s = .next
    (((s.modCore s.cur fun c => c.modCtx fun x => { x with trapped := some (.untilResume s.me.ctx.sys.trapline) }).reportStop s.cur
      s.me.ctx.sys).post s.me.fn 2 s.cur (s.me.ctx.sys.tinfo.toNat % 2 ^ 32)) := by
  rw [State.me] at htrapped hnested hcode
  simp only [exec_supervisorDisposition_eq, execSupervisorDisposition, htrapped, bits_one_eq, bits_low, hnested, Bool.false_eq_true,
    if_false]
  exact if_pos hcode

/-- After a PANEL_MISS every cluster goes on at its due item (R350; log entry 31). -/
theorem supervisorDisposition_panelMiss (hcode : s.me.stopCode = 0x28) : exec .supervisorDisposition s = .next
    (((s.goOnDue s.cur).modDomain fun d => { d with panelMisses := d.panelMisses + 1 }).post s.me.fn 5 s.cur
      (s.me.ctx.sys.tinfo.toNat % 2 ^ 32)) := by
  rw [State.me] at htrapped hnested hcode
  rw [Core.stopCode] at hcode
  simp only [exec_supervisorDisposition_eq, execSupervisorDisposition, htrapped, bits_one_eq, bits_low, hnested, Bool.false_eq_true,
    if_false, hcode, Nat.reduceAdd, Nat.reducePow, Nat.reduceEqDiff, or_self, if_true]
  rfl

section
variable (hcode : s.me.stopCode = 0x20)
include hcode

/-- A REFCOUNT_SAT of no page instruction is a fatal end. -/
theorem supervisorDisposition_noFork (hjob : s.satJob s.cur = none) :
    exec .supervisorDisposition s = .next (s.endTrapped s.cur s.me.stopCode) := by
  rw [State.me] at htrapped hnested hcode
  rw [Core.stopCode] at hcode
  simp only [exec_supervisorDisposition_eq, execSupervisorDisposition, htrapped, bits_one_eq, bits_low, hnested, Bool.false_eq_true,
    if_false, hcode, Nat.reduceAdd, Nat.reducePow, Nat.reduceEqDiff, or_self, if_true, hjob, State.me, Core.stopCode]

/-- A fork whose pages are all copied goes on (R274). -/
theorem supervisorDisposition_forks {job : Job} {k : PageJob} {j : Nat} (hjob : s.satJob s.cur = some (job, k, j))
    (hfork : ((s.dropJob job.id).forkOn job k j ((List.range k.n).drop j)).2 = none) : exec .supervisorDisposition s =
      .next (((s.dropJob job.id).forkOn job k j ((List.range k.n).drop j)).1.goOnDue s.cur) := by
  rw [State.me] at htrapped hnested hcode
  rw [Core.stopCode] at hcode
  simp only [exec_supervisorDisposition_eq, execSupervisorDisposition, htrapped, bits_one_eq, bits_low, hnested, Bool.false_eq_true,
    if_false, hcode, Nat.reduceAdd, Nat.reducePow, Nat.reduceEqDiff, or_self, if_true, hjob, hfork]

end

end

/-- The saturated instruction is one of the core's page requests. -/
theorem State.satJob_eq_some {s : State} {id : CoreId} {job : Job} {k : PageJob} {j : Nat} (h : s.satJob id = some (job, k, j)) :
    job ∈ s.jobs ∧ job.owner = id ∧ job.body = .page k ∧ k.sat = some j := by
  obtain ⟨q, hq, hbody⟩ := List.exists_of_findSome?_eq_some h
  obtain ⟨hjobs, hown⟩ := List.mem_filter.mp hq
  simp only [Bool.and_eq_true, beq_iff_eq] at hown
  split at hbody
  · next k' hk' =>
    obtain ⟨j', hj', heq⟩ := Option.map_eq_some_iff.mp hbody
    obtain ⟨rfl, rfl, rfl⟩ := heq
    exact ⟨hjobs, hown.1, hk', hj'⟩
  · exact absurd hbody (by simp)

/-! ### The statement -/

/-- Settles O40: the lemmas above say what each event goes on to. -/
theorem handlersAndSupervisorsDispose : Obligations.HandlersAndSupervisorsDispose := by
  unfold Obligations.HandlersAndSupervisorsDispose
  intro groupEnds
  refine ⟨fun s h a htrapped haction => ⟨?acts, ?resumes, ?endsFree, ?endsLocked⟩, fun s k htask => ⟨fun hruns hused => ?budget,
    fun r since ord hpause hruns hlate => ?acquire⟩, fun s htrapped => ?supervisor⟩
  case acts =>
    rintro i (⟨rfl, rfl⟩ | ⟨rfl, rfl⟩)
    · exact State.endHandlerAt_schedules htrapped haction _
    · exact State.endHandlerAt_schedules htrapped haction _
  case resumes =>
    rintro rfl hline
    exact handlerModeEnd_resumes htrapped haction hline
  case endsFree =>
    intro k ha htask hfree
    subst ha
    have hends := State.endTrapped_ends (s := s.setCore s.cur (s.me.leaveHandler h)) (id := s.cur) (k := k) (s.me.ctx.sys.tcause.toNat % 256)
      (by rw [State.core_setCore_self]; exact htask)
    rw [State.EndsFatally, if_neg (by rw [hfree]; exact Bool.false_ne_true)] at hends
    exact ⟨_, exec_handlerModeEnd_ends htrapped haction rfl, hends⟩
  case endsLocked =>
    intro k ha htask hlocked
    subst ha
    have hends := State.endTrapped_ends (s := s.setCore s.cur (s.me.leaveHandler h)) (id := s.cur) (k := k) (s.me.ctx.sys.tcause.toNat % 256)
      (by rw [State.core_setCore_self]; exact htask)
    rw [State.EndsFatally, if_pos hlocked] at hends
    exact ⟨_, exec_handlerModeEnd_ends htrapped haction rfl, hends⟩
  case budget =>
    have hkeeps : ∀ {γ : Type} (g : Core → γ), (∀ c st, g (Core.setStream c .c st) = g c) →
        g ((s.undrained.atDue s.cur).core s.cur) = g (s.me.modCtx fun x => { x with drain := none }) := fun g hg => by
      rw [State.core_atDue_keeps g hg, State.undrained, State.core_modCore_self]
      rfl
    refine ⟨s.undrained.atDue s.cur, rfl, hkeeps (fun c => c.ctx.c) fun _ _ => rfl, hkeeps (fun c => c.ctx.sys) fun _ _ => rfl,
      hkeeps (fun c => c.ctx.drain) fun _ _ => rfl, fun cl hcl => ?_, exec_deadline_budget htask hruns hused⟩
    exact hkeeps (fun c => c.stream cl) fun _ _ => Core.stream_setStream_other _ hcl
  case acquire =>
    refine ⟨s.modCore s.cur fun c => c.modCtx fun x => { x with pause := none }, ?_, rfl, exec_deadline_acquire htask hpause hruns hlate⟩
    rw [State.core_modCore_self]
    rfl
  case supervisor =>
    intro code nested reports
    have hends := fun k (hk : s.me.task = some k) => State.endTrapped_ends (s := s) (id := s.cur) code hk
    refine ⟨fun hnested hcode => ?reported, fun hnested hcode => ?panel, fun k hnone htask hfree => ?free,
      fun k hnone htask hlocked => ?locked, fun hnested hcode => ⟨fun k hjob htask => ?noFork, fun job k j hjob => ?forks⟩⟩
    case reported =>
      refine ⟨_, supervisorDisposition_reports htrapped hnested hcode, ?_, State.exists_mem_agenda_post .., ?_⟩
      · rw [State.core_post, State.reportStop, State.core_modFn, State.core_modCore_self]
        rfl
      · intro fn hfn
        have hfn' : ((s.modCore s.cur fun c => c.modCtx fun x =>
            { x with trapped := some (.untilResume s.me.ctx.sys.trapline) }).core s.cur).fn = fn.val := by
          rw [State.core_modCore_self, hfn]
          rfl
        rw [State.domain_post, State.reportStop, hfn', State.fns_modFn]
        rfl
    case panel =>
      refine ⟨_, supervisorDisposition_panelMiss htrapped hnested hcode, ?_, ?_⟩
      · rw [State.core_post, State.core_modDomain, State.goOnDue, State.core_release, State.core_modCore_self]
        rfl
      · have hpost := State.exists_mem_agenda_post ((s.goOnDue s.cur).modDomain fun d => { d with panelMisses := d.panelMisses + 1 })
          s.me.fn 5 s.cur (s.me.ctx.sys.tinfo.toNat % 2 ^ 32)
        rwa [State.clock_modDomain, State.goOnDue, State.clock_release] at hpost
    case free =>
      specialize hends k htask
      rw [State.EndsFatally, if_neg (by rw [hfree]; exact Bool.false_ne_true)] at hends
      exact ⟨_, supervisorDisposition_ends htrapped hnone, hends⟩
    case locked =>
      specialize hends k htask
      rw [State.EndsFatally, if_pos hlocked] at hends
      exact ⟨_, supervisorDisposition_ends htrapped hnone, hends⟩
    case noFork =>
      exact ⟨_, supervisorDisposition_noFork htrapped hnested hcode hjob, hends k htask⟩
    case forks =>
      obtain ⟨hmem, howner, hbody, hsat⟩ := State.satJob_eq_some hjob
      exact ⟨hmem, howner, hbody, hsat, fun hfork => supervisorDisposition_forks htrapped hnested hcode hjob hfork⟩

end Sys2Proof.Machine
end

section
/-! PROOFS. What a scheduler reads and writes (R176, R181, R182, R210): corrections change nothing that it reads, the bytes that it writes are
read back, and a write leaves every other byte alone. -/

namespace Sys2Proof.Machine

open Sys2Proof

/-! ### Corrected single-bit errors change nothing that a scheduler reads (R210) -/

section
variable (s : State) (pas : List Nat)

@[simp] theorem State.clock_correct : (s.correct pas).clock = s.clock := by obtain ⟨cs, sf, h⟩ := s.correct_eq pas; rw [h]
@[simp] theorem State.poison_correct : (s.correct pas).poison = s.poison := by obtain ⟨cs, sf, h⟩ := s.correct_eq pas; rw [h]
@[simp] theorem State.agenda_correct : (s.correct pas).agenda = s.agenda := by obtain ⟨cs, sf, h⟩ := s.correct_eq pas; rw [h]
@[simp] theorem State.faultq_correct : (s.correct pas).faultq = s.faultq := by obtain ⟨cs, sf, h⟩ := s.correct_eq pas; rw [h]
@[simp] theorem State.sched_correct : (s.correct pas).sched = s.sched := by obtain ⟨cs, sf, h⟩ := s.correct_eq pas; rw [h]

theorem State.aligned_correct : (s.correct pas).aligned = s.aligned := by obtain ⟨cs, sf, h⟩ := s.correct_eq pas; rw [h]; rfl

/-- Without single-bit errors a correction changes nothing. -/
theorem State.correct_of_none (h : s.soft = []) : s.correct pas = s := by simp only [State.correct, h, List.filter_nil, List.foldl_nil]

theorem State.correct_nil : s.correct [] = s := by simp [State.correct]

@[simp] theorem State.byteAt_correct (pa : Nat) : (s.correct pas).byteAt pa = s.byteAt pa := by
  rw [State.byteAt, State.byteAt, State.inMotion_correct, State.mem_correct]

@[simp] theorem State.bytesFrom_correct (pa n : Nat) : (s.correct pas).bytesFrom pa n = s.bytesFrom pa n :=
  List.map_congr_left fun q _ => s.byteAt_correct pas q

@[simp] theorem State.numFrom_correct (pa n : Nat) : (s.correct pas).numFrom pa n = s.numFrom pa n := by
  rw [State.numFrom, State.numFrom, State.bytesFrom_correct]

@[simp] theorem State.poisoned_correct (qs : List Nat) : (s.correct pas).poisoned qs = s.poisoned qs := by
  rw [State.poisoned, State.poisoned, State.poison_correct]

theorem State.moving_correct (id : CoreId) (off : Nat) :
    (s.correct pas).moving id ((s.correct pas).core id) off = s.moving id (s.core id) off := by
  have hcresizes := State.core_correct_keeps (fun c => c.cresizes) (fun _ _ _ => rfl) s pas id
  have hresized := State.core_correct_keeps (fun c => c.resized) (fun _ _ _ => rfl) s pas id
  have hnow : (s.correct pas).cresizeNow id = s.cresizeNow id := by
    funext r
    simp only [State.cresizeNow, State.timeline, State.clock_correct, State.ctx_correct]
  simp only [State.moving, State.movers, hcresizes, hresized, hnow]

/-- Where a byte may be reached is not for a correction to change (R154). -/
theorem State.paOk_correct (id : CoreId) (pa : Nat) :
    (s.correct pas).paOk id ((s.correct pas).core id) pa = s.paOk id (s.core id) pa := by
  have hdirect := State.core_correct_keeps (fun c => c.direct (paOff pa)) (fun _ _ _ => rfl) s pas
  simp only [State.paOk, State.aligned_correct, State.moving_correct, apply_ite (fun c : Core => c.direct (paOff pa)), hdirect]

theorem walkTables_correct (va fuel level table : Nat) :
    walkTables (s.correct pas) va fuel level table = walkTables s va fuel level table := by
  induction fuel generalizing level table with
  | zero => rfl
  | succ fuel ih => simp only [walkTables, State.numFrom_correct, ih]

theorem State.agentPa_correct (id : CoreId) (write : Bool) (va : Nat) :
    (s.correct pas).agentPa id write va = s.agentPa id write va := by
  have htlb := State.core_correct_keeps (fun c => c.tlb) (fun _ _ _ => rfl) s pas id
  have hroot := State.core_correct_keeps (fun c => c.ptroot) (fun _ _ _ => rfl) s pas id
  simp only [State.agentPa, htlb, hroot, walkTables_correct, State.paOk_correct]

@[simp] theorem State.schedPa_correct (die : Nat) (write : Bool) (va : Nat) : (s.correct pas).schedPa die write va = s.schedPa die write va :=
  s.agentPa_correct pas ⟨die, 0⟩ write va

@[simp] theorem State.schedRead_correct (die va n : Nat) : (s.correct pas).schedRead die va n = s.schedRead die va n := by
  simp only [State.schedRead, State.schedPa_correct, State.poisoned_correct, State.bytesFrom_correct]

@[simp] theorem State.header_correct (die va : Nat) : (s.correct pas).header die va = s.header die va := by
  simp only [State.header, State.schedRead_correct]

@[simp] theorem State.nodeRec_correct (r : NodeRef) : (s.correct pas).nodeRec r = s.nodeRec r := by
  simp only [State.nodeRec, State.header_correct, State.schedPa_correct, State.bytesFrom_correct]

end

/-- What a scheduler has read is corrected. -/
theorem State.schedFix_eq (s : State) (die va n : Nat) : ∃ pas, s.schedFix die va n = s.correct pas := by
  rw [State.schedFix]
  split
  · exact ⟨_, rfl⟩
  · exact ⟨[], s.correct_nil.symm⟩

theorem State.fixNode_eq (s : State) (r : NodeRef) : ∃ pas qas, s.fixNode r = (s.correct pas).correct qas := by
  obtain ⟨pas, h⟩ := s.schedFix_eq r.die r.graph 64
  simp only [State.fixNode, h]
  split
  · obtain ⟨qas, hq⟩ := (s.correct pas).schedFix_eq r.die (_ + 128 * r.node) 128
    exact ⟨pas, qas, hq⟩
  · exact ⟨pas, [], (State.correct_nil _).symm⟩

@[simp] theorem State.nodeRec_fixNode (s : State) (r q : NodeRef) : (s.fixNode r).nodeRec q = s.nodeRec q := by
  obtain ⟨pas, qas, h⟩ := s.fixNode_eq r
  rw [h, State.nodeRec_correct, State.nodeRec_correct]

/-! ### Bytes that the scheduler writes (R182, R187, R200) -/

section
variable {s : State} {pa : Nat} {bs : List Byte} (hwf : s.mem.wf = true)
include hwf

theorem State.get_poke_other {q : Nat} (h : q ∉ pasFrom pa bs.length) : (s.poke pa bs).mem.get q = s.mem.get q := by
  refine foldl_writes_other (read := Mem.get) (key := Prod.fst) (ok := fun m => m.wf = true) (fun m e hm => ?_) (fun m e k hm hk => ?_) hwf
    fun e he heq => h (heq ▸ (List.of_mem_zip he).1)
  · split
    · exact hm
    · exact Mem.set_wf _ _ hm
  · split
    · rfl
    · exact (Mem.get_set _ _ _ hm).trans (if_neg (Ne.symm hk))

theorem State.map_get_poke (hstill : ∀ q ∈ pasFrom pa bs.length, s.inMotion q = false) :
    (pasFrom pa bs.length).map (s.poke pa bs).mem.get = bs := by
  have hlen := length_pasFrom pa bs.length
  have hfst : ((pasFrom pa bs.length).zip bs).map Prod.fst = pasFrom pa bs.length := List.map_fst_zip hlen.le
  have hread : ∀ e ∈ (pasFrom pa bs.length).zip bs, (s.poke pa bs).mem.get e.1 = e.2 := fun e he => by
    refine foldl_writes_written (read := Mem.get) (key := Prod.fst) (ok := fun m => m.wf = true) (fun m e hm => ?_) (fun m e k hm hk => ?_)
      hwf (by rw [hfst]; exact nodup_pasFrom _ _) he fun m hm => ?_
    · split
      · exact hm
      · exact Mem.set_wf _ _ hm
    · split
      · rfl
      · exact (Mem.get_set _ _ _ hm).trans (if_neg (Ne.symm hk))
    · rw [if_neg (by rw [hstill e.1 (List.of_mem_zip he).1]; exact Bool.false_ne_true)]
      exact (Mem.get_set _ _ _ hm).trans (if_pos rfl)
  calc (pasFrom pa bs.length).map (s.poke pa bs).mem.get
      = (((pasFrom pa bs.length).zip bs).map Prod.fst).map (s.poke pa bs).mem.get := by rw [hfst]
    _ = ((pasFrom pa bs.length).zip bs).map Prod.snd := by rw [List.map_map]; exact List.map_congr_left hread
    _ = bs := List.map_snd_zip hlen.ge

end

/-- The state word of a node as the scheduler writes it. -/
def NodeRec.stateWord (n : NodeRec) (state : Nat) : Nat := state + n.pending % 65536 * 65536

/-- The state word of a node in memory, where the ways that it lies in do not move (R182, R200). -/
theorem State.num_putNodeState {s : State} (n : NodeRec) {state : Nat} (hstate : state < 65536) (hwf : s.mem.wf = true)
    (hstill : ∀ q ∈ pasFrom (n.pa + 64) 8, s.inMotion q = false) :
    (s.putNodeState n state n.pending).mem.num (n.pa + 64) 8 = n.stateWord state := by
  have hget := State.map_get_poke (bs := leBytes (n.stateWord state) 8) hwf (pa := n.pa + 64) (by rwa [length_leBytes])
  rw [length_leBytes] at hget
  rw [Mem.num_eq, State.putNodeState]
  refine (congrArg leNat hget).trans ?_
  rw [leNat_leBytes, NodeRec.stateWord, Nat.mod_eq_of_lt]
  omega

end Sys2Proof.Machine
end

section
/-! PROOFS. The work that follows in a cycle (R183 to R190, R193, R194): what every piece of it keeps of the scheduler's state, and a pull with
no node to bring in. -/

namespace Sys2Proof.Machine

open Sys2Proof

/-! ### What work keeps -/

/-- Every record of a graph is frozen. -/
def State.AllFrozen (s : State) (die va : Nat) : Prop := ∀ g ∈ s.sched.graphs, g.die = die → g.va = va → g.frozen = true

/-- From s to t the running nodes and the faults stay, no event to come is dropped and no graph is thawed. -/
structure State.Worked (s t : State) : Prop where
  faultq : t.faultq = s.faultq
  running : t.sched.running = s.sched.running
  agenda : s.agenda ⊆ t.agenda
  frozen : ∀ die va, s.AllFrozen die va → t.AllFrozen die va

namespace State.Worked

theorem refl (s : State) : s.Worked s := ⟨rfl, rfl, List.Subset.refl _, fun _ _ h => h⟩

theorem trans {s t u : State} (h : s.Worked t) (k : t.Worked u) : s.Worked u :=
  ⟨k.faultq.trans h.faultq, k.running.trans h.running, List.Subset.trans h.agenda k.agenda,
    fun die va g => k.frozen die va (h.frozen die va g)⟩

theorem of_sched {s t : State} (hfault : t.faultq = s.faultq) (hagenda : t.agenda = s.agenda) (hsched : t.sched = s.sched) : s.Worked t :=
  ⟨hfault, by rw [hsched], by rw [hagenda]; exact List.Subset.refl _, by simp only [AllFrozen, hsched]; exact fun _ _ h => h⟩

theorem modSched (s : State) (f : Sched → Sched) (hrunning : (f s.sched).running = s.sched.running)
    (hgraphs : (f s.sched).graphs = s.sched.graphs) : s.Worked (s.modSched f) :=
  ⟨rfl, hrunning, List.Subset.refl _, fun _ _ h g hg => h g (hgraphs ▸ hg)⟩

theorem poke (s : State) (pa : Nat) (bs : List Byte) : s.Worked (s.poke pa bs) := of_sched rfl rfl rfl

theorem correct (s : State) (pas : List Nat) : s.Worked (s.correct pas) :=
  of_sched (s.faultq_correct pas) (s.agenda_correct pas) (s.sched_correct pas)

theorem scheduleDom (s : State) (o : CoreId) (d : Nat) (ev : Instr) (arg : Arg) : s.Worked (s.scheduleDom o d ev arg) :=
  ⟨rfl, rfl, List.subset_append_left _ _, fun _ _ h => h⟩

theorem post (s : State) (fn code : Nat) (c : CoreId) (data : Nat) : s.Worked (s.post fn code c data) :=
  ⟨rfl, rfl, List.subset_append_left _ _, fun _ _ h => h⟩

theorem fixNode (s : State) (r : NodeRef) : s.Worked (s.fixNode r) := by
  obtain ⟨pas, qas, h⟩ := s.fixNode_eq r
  rw [h]
  exact (correct s pas).trans (correct _ qas)

theorem foldl {α : Type} (f : State → α → State) (hf : ∀ t a, State.Worked t (f t a)) (l : List α) (s : State) :
    s.Worked (l.foldl f s) := by
  induction l generalizing s with
  | nil => exact refl s
  | cons a l ih => exact (hf s a).trans (ih (f s a))

theorem withdraw (s : State) (cores : List CoreId) : s.Worked (s.withdraw cores) :=
  foldl _ (fun t c => by split; exacts [of_sched rfl rfl rfl, refl t]) cores s

theorem unready (s : State) (r : NodeRef) : s.Worked (s.unready r) :=
  (modSched s _ rfl rfl).trans (withdraw _ _)

theorem putNodeState (s : State) (n : NodeRec) (state pending : Nat) : s.Worked (s.putNodeState n state pending) := poke ..

theorem setFrozen (s : State) (die va : Nat) : s.Worked (s.setFrozen die va true) := by
  have hmark : ∀ t : State, t.Worked (t.modSched fun k => { k with
      graphs := k.graphs.map fun g => if g.die = die ∧ g.va = va then { g with frozen := true } else g }) := fun t =>
    ⟨rfl, rfl, List.Subset.refl _, fun d v h g hg => by
      obtain ⟨q, hq, rfl⟩ := List.mem_map.mp hg
      split
      · exact fun _ _ => rfl
      · exact h q hq⟩
  rw [State.setFrozen]
  split
  · exact (poke ..).trans (hmark _)
  · exact hmark s

theorem evaluate (s : State) (r : NodeRef) (n : NodeRec) : s.Worked (s.evaluate r n) := (putNodeState ..).trans (scheduleDom ..)

theorem enterNode (s : State) (r : NodeRef) (n : NodeRec) : s.Worked (s.enterNode r n).1 := by
  rw [State.enterNode]
  split
  · exact refl s
  · split
    · exact unready s r
    · exact (unready s r).trans (evaluate ..)

theorem readyNode (s : State) (r : NodeRef) : s.Worked (s.readyNode r).1 := by
  rw [State.readyNode]
  split
  · exact refl s
  · have hready := fun n => (putNodeState s n 1 n.pending).trans ((poke _ (n.pa + 0x50) (leBytes (s.clock % 2 ^ 63) 8)).trans
      (modSched _ (fun k => { k with live := k.live.filter (· != r) }) rfl rfl))
    dsimp only
    split
    · exact hready _
    · split
      · exact hready _
      · exact (hready _).trans (modSched _ (fun k => { k with ready := k.ready ++ _ }) rfl rfl)

theorem skipNode (s : State) (r : NodeRef) : s.Worked (s.skipNode r).1 := by
  rw [State.skipNode]
  split
  · exact refl s
  · exact (putNodeState ..).trans (modSched _ (fun k => { k with live := k.live.filter (· != r) }) rfl rfl)

theorem doneNode (s : State) (r : NodeRef) (v : Nat) (sel : Option Nat) : s.Worked (s.doneNode r v sel).1 := by
  rw [State.doneNode]
  split
  · exact refl s
  · exact (putNodeState ..).trans (poke ..)

theorem releaseNode (s : State) (r : NodeRef) (i : Nat) (live : Bool) : s.Worked (s.releaseNode r i live).1 := by
  rw [State.releaseNode]
  split
  · exact refl s
  · split
    · split
      · exact refl s
      · exact readyNode s r
    · split
      · exact refl s
      · dsimp only
        split
        · split
          · exact (putNodeState ..).trans (readyNode ..)
          · exact (putNodeState ..).trans (skipNode ..)
        · split
          · exact (putNodeState ..).trans (modSched _ (fun k => { k with live := k.live ++ [r] }) rfl rfl)
          · exact putNodeState ..

theorem pullNode (s : State) (die : Nat) : s.Worked (s.pullNode die).1 := by
  rw [State.pullNode]
  split
  · exact refl s
  · dsimp only
    split
    · exact refl s
    · split <;> exact modSched s (fun k => { k with ready := k.ready.map _ }) rfl rfl

end State.Worked

/-- A faulted node's state and its fault written, its graph frozen and its entry in the queue removed. -/
def State.markFaulted (s : State) (r : NodeRef) (n : NodeRec) (f : FaultCode) : State :=
  (((s.putNodeState n 6 n.pending).poke (n.pa + 0x58) (leBytes f.word 8)).setFrozen r.die r.graph true).unready r

theorem State.worked_markFaulted (s : State) (r : NodeRef) (n : NodeRec) (f : FaultCode) : s.Worked (s.markFaulted r n f) :=
  (Worked.putNodeState ..).trans ((Worked.poke ..).trans ((Worked.setFrozen ..).trans (Worked.unready ..)))

/-- After the marks of its fault a node's graph sends the token and tells the host, no more. -/
theorem State.worked_faultNode_of_marked {s : State} {r : NodeRef} {h : Header} {n : NodeRec}
    (hrec : s.nodeRec r = some (h, n)) (f : FaultCode) : (s.markFaulted r n f).Worked (s.faultNode r f).1 := by
  have htoken : (s.markFaulted r n f).Worked (if n.succ.isEmpty then s.markFaulted r n f
      else ((s.markFaulted r n f).modSched fun k => { k with tokens := k.tokens ++ [⟨r.die, r.graph, n.succ⟩] }).scheduleDom ⟨r.die, 0⟩ 1
        .errorTokenStep (.node { r with node := 0 } none)) := by
    split
    · exact .refl _
    · exact (Worked.modSched _ _ rfl rfl).trans (Worked.scheduleDom ..)
  simp only [State.faultNode, hrec]
  split
  · exact htoken
  · exact htoken.trans (Worked.post ..)

theorem State.Worked.faultNode (s : State) (r : NodeRef) (f : FaultCode) : s.Worked (s.faultNode r f).1 := by
  cases hrec : s.nodeRec r with
  | none => simp only [State.faultNode, hrec]; exact Worked.unready s r
  | some p => exact (s.worked_markFaulted r p.2 f).trans (State.worked_faultNode_of_marked hrec f)

theorem State.Worked.workStep (s : State) (w : NodeWork) : s.Worked (s.workStep w).1 := by
  cases w with
  | ready r => exact (Worked.fixNode s r).trans (Worked.readyNode ..)
  | enter r =>
    simp only [State.workStep]
    split
    · exact Worked.enterNode ..
    · exact Worked.refl s
  | release r i live => exact (Worked.fixNode s r).trans (Worked.releaseNode ..)
  | done r v sel => exact (Worked.fixNode s r).trans (Worked.doneNode ..)
  | skipped r => exact (Worked.fixNode s r).trans (Worked.skipNode ..)
  | faulted r f => exact (Worked.fixNode s r).trans (Worked.faultNode ..)
  | pull die => exact Worked.pullNode s die

theorem State.Worked.work (s : State) (fuel : Nat) (ws : List NodeWork) : s.Worked (s.work fuel ws) := by
  induction fuel generalizing s ws with
  | zero => exact Worked.refl s
  | succ fuel ih =>
    cases ws with
    | nil => exact Worked.refl s
    | cons w ws => exact (Worked.workStep s w).trans (ih _ _)

theorem State.worked_doWork (s : State) (ws : List NodeWork) : s.Worked (s.doWork ws) := Worked.work s _ ws

/-! ### One piece of work after another -/

theorem State.work_nil (s : State) (fuel : Nat) : s.work fuel [] = s := by cases fuel <;> rfl

/-- The first piece of work is done, and what follows from it after the others. -/
theorem State.doWork_single (s : State) (w : NodeWork) : s.doWork [w] = (s.workStep w).1.work (2 ^ 22 - 1) (s.workStep w).2 := by
  rw [State.doWork, show 2 ^ 22 = 2 ^ 22 - 1 + 1 from rfl, State.work]
  rfl

/-- Without a waiting node a free place stays free (R190). -/
theorem State.doWork_pull {s : State} {die : Nat} (h : ∀ x ∈ s.sched.ready, x.die = die → x.queued = true) : s.doWork [.pull die] = s := by
  have hwaiting : (s.sched.ready.filter fun e => e.die == die && !e.queued) = [] := by
    simpa [List.filter_eq_nil_iff] using h
  have hpull : s.pullNode die = (s, []) := by
    rw [State.pullNode, hwaiting]
    split <;> rfl
  rw [State.doWork_single, State.workStep, hpull, State.work_nil]

/-! ### A node that faults (R193, R194) -/

@[simp] theorem State.sched_withdraw (s : State) (cores : List CoreId) : (s.withdraw cores).sched = s.sched :=
  foldl_keeps State.sched _ (fun t c => by split <;> rfl) cores s
@[simp] theorem State.mem_withdraw (s : State) (cores : List CoreId) : (s.withdraw cores).mem = s.mem :=
  foldl_keeps State.mem _ (fun t c => by split <;> rfl) cores s
@[simp] theorem State.clock_withdraw (s : State) (cores : List CoreId) : (s.withdraw cores).clock = s.clock :=
  foldl_keeps State.clock _ (fun t c => by split <;> rfl) cores s
@[simp] theorem State.flat_withdraw (s : State) (cores : List CoreId) : (s.withdraw cores).flat = s.flat :=
  foldl_keeps State.flat _ (fun t c => by split <;> rfl) cores s

theorem State.sched_unready (s : State) (r : NodeRef) :
    (s.unready r).sched = { s.sched with ready := s.sched.ready.filter fun e => e.ref != r } :=
  State.sched_withdraw ..
@[simp] theorem State.mem_unready (s : State) (r : NodeRef) : (s.unready r).mem = s.mem := State.mem_withdraw ..
@[simp] theorem State.clock_unready (s : State) (r : NodeRef) : (s.unready r).clock = s.clock := State.clock_withdraw ..
@[simp] theorem State.flat_unready (s : State) (r : NodeRef) : (s.unready r).flat = s.flat := State.flat_withdraw ..

theorem State.allFrozen_setFrozen (s : State) (die va : Nat) : (s.setFrozen die va true).AllFrozen die va := by
  intro g hg hdie hva
  obtain ⟨q, -, rfl⟩ := List.mem_map.mp hg
  split
  · rfl
  · next hne => simp only [if_neg hne] at hdie hva; exact absurd ⟨hdie, hva⟩ hne

/-- A node that faults freezes its graph (R194). -/
theorem State.allFrozen_doWork_faulted {s : State} {r : NodeRef} {p : Header × NodeRec} (hrec : s.nodeRec r = some p) (f : FaultCode) :
    (s.doWork [.faulted r f]).AllFrozen r.die r.graph := by
  have hmarked : ((s.fixNode r).markFaulted r p.2 f).AllFrozen r.die r.graph :=
    (Worked.unready ..).frozen _ _ (State.allFrozen_setFrozen _ _ _)
  have hfault := State.worked_faultNode_of_marked ((s.nodeRec_fixNode r r).trans hrec) f
  rw [State.doWork_single]
  exact (hfault.trans (Worked.work ..)).frozen _ _ hmarked

end Sys2Proof.Machine
end

section
/-! PROOFS. Dispatch (R185, R186, R188, R189, R193): what the first thing that a die's scheduler has to do comes to: a node's fault, a core of
a card that asks, a job card and a collective. -/

namespace Sys2Proof.Machine

open Sys2Proof

theorem exec_nodeDispatch_eq (s : State) : exec .nodeDispatch s = execNodeDispatch s := rfl

/-- What a scheduler does comes about. -/
def State.serve (s : State) : Dispatch → State
  | .fault f => s.nodeFault f
  | .ask id c => s.serveAsk id c
  | .coll e => s.startColl e
  | .card e => s.startCard e

theorem nodeDispatch_serves {s : State} {d : Dispatch} (h : s.dispatch s.cur.die = some d) : exec .nodeDispatch s = .next (s.serve d) := by
  rw [exec_nodeDispatch_eq, execNodeDispatch, h]
  cases d <;> rfl

/-! ### What the scheduler's own records do not change -/

@[simp] theorem State.core_modSched (s : State) (f : Sched → Sched) (id : CoreId) : (s.modSched f).core id = s.core id := rfl
@[simp] theorem State.sched_modSched (s : State) (f : Sched → Sched) : (s.modSched f).sched = f s.sched := rfl

/-! ### Fences of a node (R186, R229) -/

/-- Fences change the ledger alone. -/
theorem State.fenceNode_keeps {γ : Type} (g : State → γ) (hg : ∀ t c, g (State.fence t c .domain) = g t) (s : State) (cores : List CoreId) :
    g (s.fenceNode cores) = g s := foldl_keeps g _ hg cores s

/-! ### A running node closes (R185, R193) -/

/-- The running nodes without one, which has ended on all its cores. -/
def State.closed (s : State) (r : Running) (id : Nat) : State :=
  (s.modSched fun k => { k with
    running := k.running.filter fun e => e.id != id, slots := k.slots.filter fun g => g.1 != id }).fenceNode r.cores

section
variable {s : State} {id : Nat}

theorem State.closeRunning_open {r : Running} (h : s.running? id = some r) (hleft : r.left ≠ []) : s.closeRunning id = s := by
  have : r.left.isEmpty = false := by simpa using hleft
  simp only [State.closeRunning, h, this, Bool.false_eq_true, if_false]

/-- A node that closes is done, or its fault is known already. -/
theorem State.closeRunning_cases : s.closeRunning id = s ∨
    ∃ r, (s.closed r id).Worked (s.closeRunning id) := by
  cases h : s.running? id with
  | none => left; simp only [State.closeRunning, h]
  | some r =>
    by_cases hleft : r.left = []
    · right
      refine ⟨r, ?_⟩
      simp only [State.closeRunning, h, hleft, List.isEmpty_nil, if_true]
      split
      · exact .refl _
      · exact State.worked_doWork _ _
    · exact .inl (State.closeRunning_open h hleft)

theorem State.sched_closed (r : Running) : (s.closed r id).sched = { s.sched with
    running := s.sched.running.filter fun e => e.id != id, slots := s.sched.slots.filter fun g => g.1 != id } :=
  State.fenceNode_keeps State.sched (fun _ _ => rfl) _ _

theorem State.mem_running_of_closeRunning {q : Running} (hq : q ∈ (s.closeRunning id).sched.running) : q ∈ s.sched.running := by
  obtain h | ⟨r, h⟩ := s.closeRunning_cases (id := id)
  · rwa [h] at hq
  · rw [h.running, State.sched_closed] at hq
    exact (List.mem_filter.mp hq).1

@[simp] theorem State.faultq_closeRunning : (s.closeRunning id).faultq = s.faultq := by
  obtain h | ⟨r, h⟩ := s.closeRunning_cases (id := id)
  · rw [h]
  · exact h.faultq.trans (State.fenceNode_keeps State.faultq (fun _ _ => rfl) _ _)

theorem State.AllFrozen.closeRunning {die va : Nat} (hfrozen : s.AllFrozen die va) : (s.closeRunning id).AllFrozen die va := by
  obtain h | ⟨r, h⟩ := s.closeRunning_cases (id := id)
  · rwa [h]
  · refine h.frozen die va ?_
    rw [AllFrozen, State.sched_closed]
    exact hfrozen

end

theorem State.forall_mem_running_modRunning {s : State} {id : Nat} {f : Running → Running} {P : Running → Prop} (hf : ∀ q, P (f q)) :
    ∀ q ∈ (s.modRunning id f).sched.running, q.id = id → P q := by
  intro q hq heq
  obtain ⟨p, -, rfl⟩ := List.mem_map.mp hq
  by_cases hp : p.id = id
  · rw [if_pos hp]
    exact hf p
  · rw [if_neg hp] at heq
    exact absurd heq hp

/-! ### A task's fatal end faults its node (R193) -/

/-- A running node that a task has left with a fatal end. -/
def Running.faulted (r : Running) (f : NodeFault) : Running :=
  { r with left := r.left.filter (· != f.core), fault := r.fault <|> some (f.cause, f.core) }

/-- The fault is served. -/
def State.withoutFault (s : State) (f : NodeFault) : State := { s with faultq := s.faultq.filter (· != f) }

theorem State.nodeFault_of_running {s : State} {f : NodeFault} {r : Running} (h : s.running? f.run = some r) (hfault : r.fault = none) :
    s.nodeFault f = (((s.withoutFault f).modRunning r.id fun q => q.faulted f).doWork
      [.faulted r.ref ⟨f.cause, some f.core, 0⟩]).closeRunning r.id := by
  have hrun : (s.withoutFault f).running? f.run = some r := h
  rw [State.withoutFault] at hrun
  simp only [State.nodeFault, hrun, hfault, Option.isNone_none, if_true]
  rfl

theorem State.not_mem_faultq_nodeFault (s : State) (f : NodeFault) : f ∉ (s.nodeFault f).faultq := by
  have hserved : f ∉ (s.withoutFault f).faultq := by simp [State.withoutFault]
  have hq : (s.nodeFault f).faultq = (s.withoutFault f).faultq := by
    simp only [State.nodeFault]
    split
    · rfl
    · rw [State.faultq_closeRunning]
      split
      · exact (State.worked_doWork ..).faultq
      · rfl
  rwa [hq]

section
variable {s : State} {f : NodeFault} {r : Running} (hrun : s.running? f.run = some r) (hfault : r.fault = none)
include hrun hfault

/-- The node runs on with the others of its tasks, if it has any. -/
theorem State.nodeFault_running : (∀ x ∈ r.left, x = f.core) ∨
    ∃ q ∈ (s.nodeFault f).sched.running, q.id = f.run ∧ f.core ∉ q.left ∧ q.fault = some (f.cause, f.core) := by
  have hid : r.id = f.run := by simpa using List.find?_some hrun
  rw [or_iff_not_imp_left]
  intro hothers
  have hleft : (r.faulted f).left ≠ [] := by
    simpa [Running.faulted, List.filter_eq_nil_iff] using hothers
  have hmarked : ((s.withoutFault f).modRunning r.id fun q => q.faulted f).running? f.run = some (r.faulted f) :=
    State.running?_modRunning (s := s.withoutFault f) (fun _ => rfl) hrun
  have hworked := State.worked_doWork ((s.withoutFault f).modRunning r.id fun q => q.faulted f) [.faulted r.ref ⟨f.cause, some f.core, 0⟩]
  have hopen : (((s.withoutFault f).modRunning r.id fun q => q.faulted f).doWork
      [.faulted r.ref ⟨f.cause, some f.core, 0⟩]).running? r.id = some (r.faulted f) := by
    refine (congrArg (State.running? _) hid).trans ?_
    rw [State.running?, hworked.running]
    exact hmarked
  rw [State.nodeFault_of_running hrun hfault, State.closeRunning_open hopen hleft]
  exact ⟨r.faulted f, List.mem_of_find?_eq_some hopen, hid, by simp [Running.faulted], by simp [Running.faulted, hfault]⟩

theorem State.allFrozen_nodeFault {p : Header × NodeRec} (hrec : s.nodeRec r.ref = some p) :
    (s.nodeFault f).AllFrozen r.ref.die r.ref.graph := by
  rw [State.nodeFault_of_running hrun hfault]
  exact (State.allFrozen_doWork_faulted (s := (s.withoutFault f).modRunning r.id fun q => q.faulted f) hrec _).closeRunning

end

/-! ### A launch's copies begin (R176) -/

theorem State.loadImages_eq {s u : State} {die : Nat} {d : Desc} {cores : List CoreId} (h : s.loadImages die d cores = .ok u) :
    u = cores.foldl (fun (t : State) c => t.scheduleDom c 0 .taskLaunch (.load die d 0)) s := by
  simp only [State.loadImages, bind, Except.bind, pure, Except.pure] at h
  split at h
  · cases h
  · exact (Except.ok.inj h).symm

theorem State.foldl_schedule_keeps {α γ : Type} (g : State → γ) (hg : ∀ t o d ev arg, g (State.scheduleDom t o d ev arg) = g t)
    (o : α → CoreId) (d : State → α → Nat) (ev : Instr) (arg : α → Arg) (l : List α) (s : State) :
    g (l.foldl (fun (t : State) a => t.scheduleDom (o a) (d t a) ev (arg a)) s) = g s := foldl_keeps g _ (fun _ _ => hg ..) l s

theorem State.foldl_schedule_subset {α : Type} (o : α → CoreId) (d : State → α → Nat) (ev : Instr) (arg : α → Arg) (l : List α) (s : State) :
    s.agenda ⊆ (l.foldl (fun (t : State) a => t.scheduleDom (o a) (d t a) ev (arg a)) s).agenda :=
  (Worked.foldl _ (fun _ _ => Worked.scheduleDom ..) l s).agenda

/-- Every one of some events scheduled one after another is to come; d may read no more of the state than its clock. -/
theorem State.exists_mem_foldl_schedule {α : Type} {o : α → CoreId} {d : State → α → Nat}
    (hd : ∀ t u : State, ∀ a, t.clock = u.clock → d t a = d u a)
    (ev : Instr) (arg : α → Arg) {l : List α} (s : State) {a : α} (ha : a ∈ l) :
    ∃ p ∈ (l.foldl (fun (t : State) a => t.scheduleDom (o a) (d t a) ev (arg a)) s).agenda,
      p.clk = .dom ∧ p.due = s.clock + d s a ∧ p.owner = o a ∧ p.ev = ev ∧ p.arg = arg a := by
  induction l generalizing s with
  | nil => exact absurd ha List.not_mem_nil
  | cons b l ih =>
    obtain rfl | ha := List.mem_cons.mp ha
    · exact ⟨_, State.foldl_schedule_subset o d ev arg l _ (State.mem_agenda_scheduleDom ..), rfl, rfl, rfl, rfl, rfl⟩
    · obtain ⟨p, hp, hclk, hdue, hrest⟩ := ih (s.scheduleDom (o b) (d s b) ev (arg b)) ha
      exact ⟨p, hp, hclk, hdue.trans (congrArg (s.clock + ·) (hd _ s a rfl)), hrest⟩

section
variable {s u : State} {die : Nat} {d : Desc} {cores : List CoreId} (h : s.loadImages die d cores = .ok u)
include h

theorem State.loadImages_keeps {γ : Type} (g : State → γ) (hg : ∀ t o d ev arg, g (State.scheduleDom t o d ev arg) = g t) : g u = g s := by
  rw [State.loadImages_eq h]
  exact State.foldl_schedule_keeps g hg id (fun _ _ => 0) _ (fun _ => .load die d 0) cores s

theorem State.loadImages_loads {c : CoreId} (hc : c ∈ cores) :
    ∃ p ∈ u.agenda, p.clk = .dom ∧ p.due = s.clock ∧ p.owner = c ∧ p.ev = .taskLaunch ∧ p.arg = .load die d 0 := by
  rw [State.loadImages_eq h]
  exact State.exists_mem_foldl_schedule (o := id) (d := fun _ _ => 0) (fun _ _ _ _ => rfl) _ (fun _ => .load die d 0) s hc

end

/-! ### A core of a card that asks (R188) -/

/-- A descriptor that a job card names copies no arguments. -/
theorem State.descAt_locked {s : State} {die va : Nat} {locked : Bool} {d : Desc}
    (h : s.descAt die va locked = .ok d) : d.locked = locked := by
  simp only [State.descAt] at h
  split at h
  · cases h
  · split at h
    · cases h
    · split at h
      · next hd =>
        cases h
        rw [descOf] at hd
        obtain ⟨-, hd⟩ := Option.ite_none_right_eq_some.mp hd
        rw [← Option.some.inj hd]
      · cases h

theorem Desc.loadCycles_of_free {d : Desc} (h : d.locked = false) : d.loadCycles = (64 * d.imagelen + 16 * d.mouldlen + 63) / 64 := by
  simp [Desc.loadCycles, Desc.parts, h]

/-- A core of a card has been dealt a chunk of its records, whose task is to start at a cycle. -/
def State.Dealt (t : State) (r : Running) (c : CoreId) (k : Desc) (chunk due : Nat) : Prop :=
  (∃ q ∈ t.sched.running, q.id = r.id ∧ q.next = r.next + chunk ∧ q.remaining = r.remaining - chunk ∧ c ∈ q.cores ∧ c ∉ q.ask) ∧
  ∃ p ∈ t.agenda, p.clk = .dom ∧ p.due = due ∧ p.owner = c ∧ p.ev = .taskLaunch ∧
    ∃ q, p.arg = .launch q ∧ q.ref = r.ref ∧ q.desc = k ∧ q.run = r.id ∧ q.a = r.next ∧ q.b = chunk

theorem State.deal_deals {s : State} {r : Running} (c : CoreId) (n d : Nat) (h : Header) (rec_ : NodeRec) (k : Desc)
    (hrun : r ∈ s.sched.running) : (s.deal r c n d h rec_ k).Dealt r c k (chunkOf r.remaining n) (s.clock + d) := by
  refine ⟨⟨_, List.mem_map.mpr ⟨r, hrun, if_pos rfl⟩, rfl, rfl, rfl, ?_, by simp⟩,
    ⟨_, State.mem_agenda_scheduleDom .., rfl, rfl, rfl, rfl, _, rfl, rfl, rfl, rfl, rfl, rfl⟩⟩
  dsimp only
  split
  · next hc => exact List.contains_iff_mem.mp hc
  · simp

section
variable {s : State} {id : Nat} {r : Running} (c : CoreId) (hrun : s.running? id = some r)
include hrun

/-- A core that asks a card without records left leaves it. -/
theorem State.serveAsk_leaves (hnone : r.remaining = 0) : ∀ q ∈ (s.serveAsk id c).sched.running, q.id = id → c ∉ q.left := by
  have hleaves : s.serveAsk id c = s.leaveCard id c := by simp only [State.serveAsk, hrun, hnone, true_or, if_true]
  rw [hleaves, State.leaveCard]
  exact fun q hq => State.forall_mem_running_modRunning (P := fun q => c ∉ q.left)
    (f := fun q => { q with left := q.left.filter (· != c), ask := q.ask.filter (· != c) }) (by simp) q
    (State.mem_running_of_closeRunning hq)

variable {h : Header} {n : NodeRec} {k : Desc} (hsome : r.remaining ≠ 0) (hfrozen : s.frozen r.ref = false)
  (hrec : s.nodeRec r.ref = some (h, n)) (hdesc : s.descAt r.ref.die n.a false = .ok k)
include hsome hfrozen hrec hdesc

/-- A core that has run the card before is dealt its next chunk. -/
theorem State.serveAsk_again (hc : c ∈ r.cores) : (s.serveAsk id c).mem = s.mem ∧
    (s.serveAsk id c).Dealt r c k (chunkOf r.remaining (coreSet h n).length) (s.clock + 16) := by
  obtain ⟨pas, hfix⟩ := s.schedFix_eq r.ref.die n.a 64
  have hserved : s.serveAsk id c = (s.correct pas).deal r c (coreSet h n).length 16 h n k := by
    simp only [State.serveAsk, hrun, hsome, hfrozen, hrec, hdesc, hfix, List.contains_iff_mem, hc, Bool.false_eq_true, or_self, if_true,
      if_false]
  rw [hserved]
  refine ⟨s.mem_correct pas, ?_⟩
  rw [← s.clock_correct pas]
  exact State.deal_deals c _ 16 h n k (by rw [State.sched_correct]; exact List.mem_of_find?_eq_some hrun)

/-- A core that is new to the card is dealt a chunk after the launch copies, which begin. -/
theorem State.serveAsk_first (hc : c ∉ r.cores) {u : State} (hload : (s.schedFix r.ref.die n.a 64).loadImages r.ref.die k [c] = .ok u) :
    (s.serveAsk id c).mem = u.mem ∧
    (s.serveAsk id c).Dealt r c k (chunkOf r.remaining (coreSet h n).length) (s.clock + k.loadCycles) ∧
    ∃ p ∈ (s.serveAsk id c).agenda, p.clk = .dom ∧ p.due = s.clock ∧ p.owner = c ∧ p.ev = .taskLaunch ∧ p.arg = .load r.ref.die k 0 := by
  have hserved : s.serveAsk id c = u.deal r c (coreSet h n).length k.loadCycles h n k := by
    simp only [State.serveAsk, hrun, hsome, hfrozen, hrec, hdesc, List.contains_iff_mem, hc, hload, Bool.false_eq_true, or_self, if_false]
  obtain ⟨pas, hfix⟩ := s.schedFix_eq r.ref.die n.a 64
  rw [hfix] at hload
  have hclock : u.clock = s.clock := (State.loadImages_keeps hload State.clock fun _ _ _ _ _ => rfl).trans (s.clock_correct pas)
  have hsched : u.sched = s.sched := (State.loadImages_keeps hload State.sched fun _ _ _ _ _ => rfl).trans (s.sched_correct pas)
  obtain ⟨p, hp, hclk, hdue, hrest⟩ := State.loadImages_loads hload (List.mem_singleton_self c)
  rw [hserved]
  refine ⟨rfl, ?_, p, List.mem_append_left _ hp, hclk, hdue.trans (s.clock_correct pas), hrest⟩
  rw [← hclock]
  exact State.deal_deals c _ k.loadCycles h n k (by rw [hsched]; exact List.mem_of_find?_eq_some hrun)

end

end Sys2Proof.Machine
end

section
/-! PROOFS. Nodes that start (R186, R188, R189, R191, R229): job cards and collectives, and the dispatches of the statement. -/

namespace Sys2Proof.Machine

open Sys2Proof

/-- A node's state word as some memory holds it, where s could write it. -/
def State.Wrote (s t : State) (n : NodeRec) (state : Nat) : Prop :=
  s.mem.wf = true → (∀ q ∈ pasFrom (n.pa + 64) 8, s.inMotion q = false) → t.mem.num (n.pa + 64) 8 = state + n.pending % 65536 * 65536

theorem State.wrote_of_mem {s t : State} {n : NodeRec} {state : Nat} (hstate : state < 65536)
    (h : t.mem = (s.putNodeState n state n.pending).mem) : s.Wrote t n state :=
  fun hwf hstill => h ▸ State.num_putNodeState n hstate hwf hstill

/-! ### A job card starts (R188, R189) -/

theorem State.sched_beginCard (s : State) (e : ReadyNode) (n : NodeRec) : (s.beginCard e n).sched = { s.sched with
    ready := s.sched.ready.filter fun x => x.ref != e.ref
    running := s.sched.running ++ [⟨e.ref, 2, s.seq, [], e.set, 0, none, 0, n.b % 2 ^ 32, e.set⟩]
    carded := (s.sched.carded.filter fun p => p.2 == s.clock) ++ [(e.die, s.clock)] } := by
  rw [State.beginCard, State.sched_bump, State.sched_modSched, State.sched_unready]
  rfl

theorem State.mem_beginCard (s : State) (e : ReadyNode) (n : NodeRec) : (s.beginCard e n).mem = (s.putNodeState n 2 n.pending).mem :=
  State.mem_unready ..

theorem State.startCard_starts {s u : State} {e : ReadyNode} {h : Header} {n : NodeRec} {k : Desc} (hrec : s.nodeRec e.ref = some (h, n))
    (hdesc : s.descAt e.ref.die n.a false = .ok k) (hload : s.loadImages e.ref.die k [] = .ok u) :
    s.startCard e = ((e.set.filter s.openCore).foldl (fun (v : State) c => v.serveAsk u.seq c) (u.beginCard e n)).doWork [.pull e.die] := by
  simp only [State.startCard, hrec, hdesc, hload]

/-! ### A collective starts (R189, R229) -/

/-- A core's part in a node's collective. -/
def collNodeJob (e : ReadyNode) (n : NodeRec) (b : CoreId × List Seg) : CollJob :=
  ⟨b.1.die, BitVec.ofNat 64 n.a, b.2, [], false, 0, [], none, [], [], 0, none, [], none, 0, [], [], some e.ref, false, ⟨.c, 0, 0⟩⟩

/-- A core issues its block of a node's collective. -/
def State.issueCollNode (e : ReadyNode) (n : NodeRec) (s : State) (b : CoreId × List Seg) : State :=
  let t := s.startNode e.ref b.1
  { t with seq := t.seq + 1, jobs := t.jobs ++ [⟨t.seq, b.1, false, .coll (collNodeJob e n b)⟩]
           agenda := t.agenda ++ [⟨.dom, t.clock + t.flat, b.1, t.seq, false, .collBlockRead, .beat t.seq 0 true⟩] }

/-- A core's part in a node's collective is in progress, its block to be read at a cycle. -/
def State.CollIssued (s : State) (e : ReadyNode) (n : NodeRec) (due : Nat) (c : CoreId) : Prop :=
  ∃ j ∈ s.jobs, ∃ k, j.owner = c ∧ j.body = .coll k ∧ k.die = c.die ∧ k.va = BitVec.ofNat 64 n.a ∧ k.node = some e.ref ∧
    ∃ p ∈ s.agenda, p.clk = .dom ∧ p.due = due ∧ p.owner = c ∧ p.ev = .collBlockRead ∧ p.arg = .beat j.id 0 true

theorem State.CollIssued.mono {s t : State} {e : ReadyNode} {n : NodeRec} {due : Nat} {c : CoreId} (h : s.CollIssued e n due c)
    (hjobs : s.jobs ⊆ t.jobs) (hagenda : s.agenda ⊆ t.agenda) : t.CollIssued e n due c := by
  obtain ⟨j, hj, k, howner, hbody, hdie, hva, hnode, p, hp, hdue⟩ := h
  exact ⟨j, hjobs hj, k, howner, hbody, hdie, hva, hnode, p, hagenda hp, hdue⟩

section
variable (e : ReadyNode) (n : NodeRec)

theorem State.foldl_issueCollNode_keeps {γ : Type} (g : State → γ)
    (hg : ∀ t sq jobs agenda ledger, g { t with seq := sq, jobs := jobs, agenda := agenda, ledger := ledger } = g t)
    (l : List (CoreId × List Seg)) (s : State) : g (l.foldl (State.issueCollNode e n) s) = g s :=
  foldl_keeps g _ (fun t _ => hg t _ _ _ _) l s

theorem State.foldl_issueCollNode_subset (l : List (CoreId × List Seg)) (s : State) :
    s.jobs ⊆ (l.foldl (State.issueCollNode e n) s).jobs ∧ s.agenda ⊆ (l.foldl (State.issueCollNode e n) s).agenda := by
  induction l generalizing s with
  | nil => exact ⟨List.Subset.refl _, List.Subset.refl _⟩
  | cons b l ih =>
    obtain ⟨hjobs, hagenda⟩ := ih (s.issueCollNode e n b)
    exact ⟨List.Subset.trans (List.subset_append_left _ _) hjobs, List.Subset.trans (List.subset_append_left _ _) hagenda⟩

theorem State.collIssued_foldl {l : List (CoreId × List Seg)} {b : CoreId × List Seg} (hb : b ∈ l) (s : State) :
    (l.foldl (State.issueCollNode e n) s).CollIssued e n (s.clock + s.flat) b.1 := by
  induction l generalizing s with
  | nil => exact absurd hb List.not_mem_nil
  | cons a l ih =>
    obtain rfl | hb := List.mem_cons.mp hb
    · obtain ⟨hjobs, hagenda⟩ := State.foldl_issueCollNode_subset e n l (s.issueCollNode e n b)
      refine State.CollIssued.mono ?_ hjobs hagenda
      exact ⟨_, List.mem_append_right _ List.mem_cons_self, _, rfl, rfl, rfl, rfl, rfl,
        _, List.mem_append_right _ List.mem_cons_self, rfl, rfl, rfl, rfl, rfl⟩
    · exact ih hb (s.issueCollNode e n a)

end

/-- The cores that run a node's collective: core 0 of each die of its range. -/
def NodeRec.collCores (n : NodeRec) : List CoreId := (List.range n.dies).map fun i => ⟨n.first + i, 0⟩

/-- The state in which a node's collective has become a running node. -/
def State.beginColl (s : State) (e : ReadyNode) (n : NodeRec) : State :=
  (((s.putNodeState n 2 n.pending).unready e.ref).modSched fun k => { k with
    running := k.running ++ [⟨e.ref, 7, s.seq, n.collCores, n.collCores, 0, none, 0, 0, []⟩] }).bump

theorem State.sched_beginColl (s : State) (e : ReadyNode) (n : NodeRec) : (s.beginColl e n).sched = { s.sched with
    ready := s.sched.ready.filter fun x => x.ref != e.ref
    running := s.sched.running ++ [⟨e.ref, 7, s.seq, n.collCores, n.collCores, 0, none, 0, 0, []⟩] } := by
  rw [State.beginColl, State.sched_bump, State.sched_modSched, State.sched_unready]
  rfl

/-- A collective whose blocks can all be reached is issued by the cores of its range. -/
theorem State.startColl_issues {s : State} {e : ReadyNode} {h : Header} {n : NodeRec} (hrec : s.nodeRec e.ref = some (h, n))
    {segs : CoreId → List Seg} (hblock : ∀ c ∈ n.collCores, s.nodeBlock c.die n.a = .ok (segs c)) :
    s.startColl e = ((n.collCores.map fun c => (c, segs c)).foldl (State.issueCollNode e n) (s.beginColl e n)).doWork [.pull e.die] := by
  have hblocks : (n.collCores.map fun c => (c, s.nodeBlock c.die n.a)) = n.collCores.map fun c => (c, .ok (segs c)) :=
    List.map_congr_left fun c hc => by rw [hblock c hc]
  rw [NodeRec.collCores] at hblocks
  have hfailed : ∀ l : List Nat, l.findSome? (fun _ => (none : Option (Nat × CoreId))) = none := fun l => by simp
  simp only [State.startColl, hrec, hblocks, NodeRec.collCores, State.beginColl, List.filterMap_map, List.findSome?_map,
    Function.comp_def, List.filterMap_eq_map', List.map_map, hfailed]
  rfl

section
variable {s : State} {e : ReadyNode} {h : Header} {n : NodeRec} (hrec : s.nodeRec e.ref = some (h, n))
  (hblock : ∀ i < n.dies, ∃ g, s.nodeBlock (n.first + i) n.a = .ok g) (hqueued : ∀ x ∈ s.sched.ready, x.die = e.die → x.queued = true)
include hrec hblock hqueued

/-- Where no node waits for a place of the queue, all that follows is the issue of the blocks. -/
theorem State.startColl_eq : ∃ segs : CoreId → List Seg,
    s.startColl e = (n.collCores.map fun c => (c, segs c)).foldl (State.issueCollNode e n) (s.beginColl e n) := by
  have hall : ∀ c ∈ n.collCores, ∃ g, s.nodeBlock c.die n.a = .ok g := by
    intro c hc
    obtain ⟨i, hi, rfl⟩ := List.mem_map.mp hc
    exact hblock i (List.mem_range.mp hi)
  refine ⟨fun c => (s.nodeBlock c.die n.a).toOption.getD [], ?_⟩
  rw [State.startColl_issues hrec (segs := fun c => (s.nodeBlock c.die n.a).toOption.getD []) fun c hc => by
    obtain ⟨g, hg⟩ := hall c hc
    rw [hg]
    rfl]
  refine State.doWork_pull fun x hx => ?_
  rw [State.foldl_issueCollNode_keeps e n State.sched (fun _ _ _ _ _ => rfl), State.sched_beginColl] at hx
  exact hqueued x (List.mem_filter.mp hx).1

theorem State.startColl_starts : (s.startColl e).sched = (s.beginColl e n).sched ∧ s.Wrote (s.startColl e) n 2 ∧
    ∀ c ∈ n.collCores, (s.startColl e).CollIssued e n (s.clock + s.flat) c := by
  obtain ⟨segs, heq⟩ := State.startColl_eq hrec hblock hqueued
  rw [heq]
  refine ⟨State.foldl_issueCollNode_keeps e n State.sched (fun _ _ _ _ _ => rfl) .., State.wrote_of_mem (by omega) ?_, fun c hc => ?_⟩
  · exact (State.foldl_issueCollNode_keeps e n State.mem (fun _ _ _ _ _ => rfl) ..).trans (State.mem_unready ..)
  · have hflat : (s.beginColl e n).clock + (s.beginColl e n).flat = s.clock + s.flat :=
      congrArg₂ (· + ·) (State.clock_unready ..) (State.flat_unready ..)
    rw [← hflat]
    exact State.collIssued_foldl e n (List.mem_map_of_mem (f := fun c => (c, segs c)) hc) _

end

/-! ### What a dispatch comes to -/

theorem nodeDispatch_performs (s : State) (d : Dispatch) (hd : s.dispatch s.cur.die = some d) : ∃ t, exec .nodeDispatch s = .next t ∧
    (∀ f, d = .fault f → f ∉ t.faultq ∧
      ∀ r h n, s.running? f.run = some r → r.fault = none → s.nodeRec r.ref = some (h, n) →
        ((∀ x ∈ r.left, x = f.core) ∨ ∃ q ∈ t.sched.running, q.id = f.run ∧ f.core ∉ q.left ∧ q.fault = some (f.cause, f.core)) ∧
        t.AllFrozen r.ref.die r.ref.graph) ∧
    (∀ id c r, d = .ask id c → s.running? id = some r →
      (r.remaining = 0 → ∀ q ∈ t.sched.running, q.id = id → c ∉ q.left) ∧
      (∀ h n k, r.remaining ≠ 0 → s.frozen r.ref = false → s.nodeRec r.ref = some (h, n) → s.descAt r.ref.die n.a false = .ok k →
        (c ∈ r.cores → t.mem = s.mem ∧ t.Dealt r c k (chunkOf r.remaining (coreSet h n).length) (s.clock + 16)) ∧
        (∀ u, c ∉ r.cores → (s.schedFix r.ref.die n.a 64).loadImages r.ref.die k [c] = .ok u →
          t.mem = u.mem ∧ t.Dealt r c k (chunkOf r.remaining (coreSet h n).length) (s.clock + k.loadCycles) ∧
            ∃ p ∈ t.agenda, p.clk = .dom ∧ p.due = s.clock ∧ p.owner = c ∧ p.ev = .taskLaunch ∧ p.arg = .load r.ref.die k 0))) ∧
    (∀ e h n k u, d = .card e → s.nodeRec e.ref = some (h, n) → s.descAt e.ref.die n.a false = .ok k →
      s.loadImages e.ref.die k [] = .ok u →
      t = (((e.set.filter s.openCore).foldl (fun (v : State) c => v.serveAsk u.seq c) (u.beginCard e n)).doWork [.pull e.die])) ∧
    (∀ id c, d = .ask id c → t = s.serveAsk id c) ∧
    (∀ e h n, d = .coll e → s.nodeRec e.ref = some (h, n) → (∀ i < n.dies, ∃ g, s.nodeBlock (n.first + i) n.a = .ok g) →
      (∀ x ∈ s.sched.ready, x.die = e.die → x.queued = true) →
      t.sched = (s.beginColl e n).sched ∧ s.Wrote t n 2 ∧ ∀ c ∈ n.collCores, t.CollIssued e n (s.clock + s.flat) c) := by
  refine ⟨s.serve d, nodeDispatch_serves hd, ?_, ?_, ?_, ?_, ?_⟩
  · rintro f rfl
    exact ⟨s.not_mem_faultq_nodeFault f, fun r h n hrun hfault hrec =>
      ⟨State.nodeFault_running hrun hfault, State.allFrozen_nodeFault hrun hfault hrec⟩⟩
  · rintro id c r rfl hrun
    exact ⟨State.serveAsk_leaves c hrun, fun h n k hsome hfrozen hrec hdesc =>
      ⟨State.serveAsk_again c hrun hsome hfrozen hrec hdesc, fun u hc hload =>
        State.serveAsk_first c hrun hsome hfrozen hrec hdesc hc hload⟩⟩
  · rintro e h n k u rfl hrec hdesc hload
    exact State.startCard_starts hrec hdesc hload
  · rintro id c rfl
    rfl
  · rintro e h n rfl hrec hblock hqueued
    exact State.startColl_starts hrec hblock hqueued

end Sys2Proof.Machine
end

section
/-! PROOFS. Control nodes and placements (R187, R191, R192): a control node's word is read and selects a successor; claims, replies and the
go of a placement over several dies. -/

namespace Sys2Proof.Machine

open Sys2Proof

theorem exec_controlNodeEvaluate_eq (s : State) : exec .controlNodeEvaluate s = execControlNodeEvaluate s := rfl
theorem exec_placementClaim_eq (s : State) : exec .placementClaim s = execPlacementClaim s := rfl
theorem exec_placementReply_eq (s : State) : exec .placementReply s = execPlacementReply s := rfl
theorem exec_placementGo_eq (s : State) : exec .placementGo s = execPlacementGo s := rfl

/-! ### A control node's word is read (R187) -/

/-- A control node goes on in the cycle after the present one with what has been read. -/
def State.evaluateNext (s : State) (id : CoreId) (r : NodeRef) (v : Nat × Nat) : State :=
  s.scheduleDom id 1 .controlNodeEvaluate (.node r (some v))

/-- A control node is to go on at a cycle with what has been read. -/
def State.Evaluates (t : State) (due : Nat) (r : NodeRef) (v : Nat × Nat) : Prop :=
  ∃ p ∈ t.agenda, p.clk = .dom ∧ p.due = due ∧ p.ev = .controlNodeEvaluate ∧ p.arg = .node r (some v)

theorem State.evaluates_evaluateNext (s : State) (id : CoreId) (r : NodeRef) (v : Nat × Nat) :
    (s.evaluateNext id r v).Evaluates (s.clock + 1) r v := ⟨_, State.mem_agenda_scheduleDom .., rfl, rfl, rfl, rfl⟩

section
variable {s : State} {r : NodeRef} {h : Header} {n : NodeRec} (hrec : s.nodeRec r = some (h, n))
include hrec

section
variable (harg : s.arg = .node r none)
include harg

theorem controlNode_misaligned (halign : n.a % 8 ≠ 0) : exec .controlNodeEvaluate s = .next (s.evaluateNext s.cur r (0x13, 0)) := by
  simp only [exec_controlNodeEvaluate_eq, execControlNodeEvaluate, harg, hrec, halign, ne_eq, not_false_eq_true, if_true]
  rfl

variable (halign : n.a % 8 = 0) {bs : List Byte} (hread : s.schedRead r.die n.a 8 = .ok bs)
include halign hread

/-- A word that no loop counts down is only read. -/
theorem controlNode_read (hplain : n.kind ≠ 4 ∨ leNat bs = 0) :
    exec .controlNodeEvaluate s = .next ((s.schedFix r.die n.a 8).evaluateNext s.cur r (0, leNat bs)) := by
  have hcount : ¬ (n.kind = 4 ∧ leNat bs ≠ 0) := fun hloop => hplain.elim (absurd hloop.1) (absurd · hloop.2)
  simp only [exec_controlNodeEvaluate_eq, execControlNodeEvaluate, harg, hrec, halign, hread, hcount, ne_eq, not_true_eq_false, if_false]
  rfl

variable (hkind : n.kind = 4) (hword : leNat bs ≠ 0)
include hkind hword

/-- A loop's counter that may be written goes down by 1. -/
theorem controlNode_counts {pa : Nat} (hpa : s.schedPa r.die true n.a = .ok pa) : exec .controlNodeEvaluate s = .next
    (((s.schedFix r.die n.a 8).poke pa (leBytes (leNat bs - 1) 8)).evaluateNext s.cur r (0, leNat bs)) := by
  obtain ⟨pas, hfix⟩ := s.schedFix_eq r.die n.a 8
  simp only [exec_controlNodeEvaluate_eq, execControlNodeEvaluate, harg, hrec, halign, hread, hkind, hword, hfix, State.schedPa_correct, hpa,
    ne_eq, not_true_eq_false, not_false_eq_true, and_self, if_true, if_false]
  rfl

/-- A loop's counter that may not be written faults the node a cycle later. -/
theorem controlNode_readOnly {e : Nat} (hpa : s.schedPa r.die true n.a = .error e) : exec .controlNodeEvaluate s = .next
    ((s.schedFix r.die n.a 8).evaluateNext s.cur r (e, 0)) := by
  obtain ⟨pas, hfix⟩ := s.schedFix_eq r.die n.a 8
  simp only [exec_controlNodeEvaluate_eq, execControlNodeEvaluate, harg, hrec, halign, hread, hkind, hword, hfix, State.schedPa_correct, hpa,
    ne_eq, not_true_eq_false, not_false_eq_true, and_self, if_true, if_false]
  rfl

end

/-- What the read of a control node's word leaves behind. -/
theorem controlNode_reads (hok : s.MemOk) (bs : List Byte) (harg : s.arg = .node r none) (halign : n.a % 8 = 0)
    (hread : s.schedRead r.die n.a 8 = .ok bs) : ∃ t, exec .controlNodeEvaluate s = .next t ∧ (s.soft = [] → t.cores = s.cores) ∧
      (n.kind ≠ 4 ∨ leNat bs = 0 → t.mem = s.mem ∧ t.Evaluates (s.clock + 1) r (0, leNat bs)) ∧
      (∀ pa, n.kind = 4 → leNat bs ≠ 0 → s.schedPa r.die true n.a = .ok pa → (∀ q ∈ pasFrom pa 8, s.inMotion q = false) →
        leNat ((pasFrom pa 8).map t.mem.get) = (leNat bs - 1) % 2 ^ 64 ∧ (∀ q, q ∉ pasFrom pa 8 → t.mem.get q = s.mem.get q) ∧
        t.Evaluates (s.clock + 1) r (0, leNat bs)) ∧
      (∀ e, n.kind = 4 → leNat bs ≠ 0 → s.schedPa r.die true n.a = .error e → t.mem = s.mem ∧ t.Evaluates (s.clock + 1) r (e, 0)) := by
  obtain ⟨pas, hfix⟩ := s.schedFix_eq r.die n.a 8
  have hclean : s.soft = [] → (s.correct pas).cores = s.cores := fun hsoft => by rw [s.correct_of_none pas hsoft]
  have hevaluates : ∀ (t : State) v, t.clock = s.clock → (t.evaluateNext s.cur r v).Evaluates (s.clock + 1) r v := fun t v hclock =>
    hclock ▸ t.evaluates_evaluateNext s.cur r v
  by_cases hplain : n.kind ≠ 4 ∨ leNat bs = 0
  · refine ⟨_, controlNode_read hrec harg halign hread hplain, ?_⟩
    rw [hfix]
    refine ⟨hclean, fun _ => ⟨s.mem_correct pas, hevaluates _ _ (s.clock_correct pas)⟩, fun pa hkind hword => ?_, fun e hkind hword => ?_⟩
    · exact absurd hplain (not_or.mpr ⟨not_not.mpr hkind, hword⟩)
    · exact absurd hplain (not_or.mpr ⟨not_not.mpr hkind, hword⟩)
  · obtain ⟨hkind, hword⟩ := not_or.mp hplain
    rw [not_not] at hkind
    cases hpa : s.schedPa r.die true n.a with
    | error e =>
      refine ⟨_, controlNode_readOnly hrec harg halign hread hkind hword hpa, ?_⟩
      rw [hfix]
      refine ⟨hclean, fun h => absurd h hplain, fun _ _ _ h => (nomatch h), fun e' _ _ he => ?_⟩
      cases he
      exact ⟨s.mem_correct pas, hevaluates _ _ (s.clock_correct pas)⟩
    | ok pa =>
      refine ⟨_, controlNode_counts hrec harg halign hread hkind hword hpa, ?_⟩
      rw [hfix]
      refine ⟨hclean, fun h => absurd h hplain, fun pa' _ _ hpa' hstill => ?_, fun _ _ _ h => (nomatch h)⟩
      cases hpa'
      have hwf : (s.correct pas).mem.wf = true := by rw [State.mem_correct]; exact hok.1
      have hlen := length_leBytes (leNat bs - 1) 8
      have hget := State.map_get_poke (bs := leBytes (leNat bs - 1) 8) hwf (pa := pa)
        (by rw [hlen]; exact fun q hq => (s.inMotion_correct pas q).trans (hstill q hq))
      rw [hlen] at hget
      refine ⟨(congrArg leNat hget).trans (leNat_leBytes _ _), fun q hq => ?_, hevaluates _ _ (s.clock_correct pas)⟩
      rw [← s.mem_correct pas]
      exact State.get_poke_other hwf (by rwa [hlen])

/-! ### A control node selects a successor (R187) -/

variable {cause w : Nat} (harg : s.arg = .node r (some (cause, w)))
include harg

theorem controlNode_faults (hcause : cause ≠ 0) :
    exec .controlNodeEvaluate s = .next (s.doWork [.faulted r ⟨cause, none, 0⟩]) := by
  simp only [exec_controlNodeEvaluate_eq, execControlNodeEvaluate, harg, hrec, hcause, ne_eq, not_false_eq_true, if_true]

theorem controlNode_branches (hcause : cause = 0) (hkind : n.kind = 3 ∨ n.kind = 4 ∧ w = 0) :
    exec .controlNodeEvaluate s = .next (s.doWork [.done r w (some (if w ≠ 0 then 0 else 1))]) := by
  obtain hkind | ⟨hkind, rfl⟩ := hkind <;>
    simp [exec_controlNodeEvaluate_eq, execControlNodeEvaluate, harg, hrec, hcause, hkind]

theorem controlNode_switches (hcause : cause = 0) (hkind : n.kind = 5) :
    exec .controlNodeEvaluate s = .next (s.doWork [.done r w (some (min w (n.nsucc - 1)))]) := by
  have hsel : (if w < n.nsucc - 1 then w else n.nsucc - 1) = min w (n.nsucc - 1) := by split <;> omega
  simp [exec_controlNodeEvaluate_eq, execControlNodeEvaluate, harg, hrec, hcause, hkind, hsel]

theorem controlNode_loops (hcause : cause = 0) (hkind : n.kind = 4) (hw : w ≠ 0) : exec .controlNodeEvaluate s =
    let u := s.rearmBody r (n.b % 2 ^ 16) (n.b / 2 ^ 16 % 2 ^ 16)
    .next (if u.frozen r then u else u.doWork ((n.succ.take 1).map fun i => .release { r with node := i } r.node true)) := by
  simp only [exec_controlNodeEvaluate_eq, execControlNodeEvaluate, harg, hrec, hcause, hkind, hw, ne_eq, not_true_eq_false,
    not_false_eq_true, and_self, if_true, if_false, fld, pow_zero, Nat.div_one]

end

/-! ### Claims and replies (R192) -/

theorem State.mem_ready_modReady {s : State} {r : NodeRef} {f : ReadyNode → ReadyNode} {P : ReadyNode → Prop}
    (hf : ∀ x ∈ s.sched.ready, x.ref = r → P (f x)) : ∀ x ∈ (s.modReady r f).sched.ready, x.ref = r → P x := by
  intro x hx heq
  obtain ⟨y, hmem, rfl⟩ := List.mem_map.mp hx
  by_cases hy : y.ref = r
  · rw [if_pos hy]
    exact hf y hmem hy
  · rw [if_neg hy] at heq
    exact absurd heq hy

theorem placementClaim_sends {s : State} {e : ReadyNode} (h : s.claimDue s.cur.die = some e) :
    exec .placementClaim s = .next (((s.modReady e.ref fun x => { x with claim := some s.seq }).modSched fun k => { k with
      claims := k.claims ++ [⟨s.seq, e.ref, none, [], []⟩] }).bump) := by
  simp only [exec_placementClaim_eq, execPlacementClaim, h]

section
variable {s : State} {id v : Nat} {k : Claim} (harg : s.arg = .ids id v) (hclaim : s.sched.claims.find? (fun k => k.id == id) = some k)

/-- The claim with a member's reply. -/
def Claim.answered (k : Claim) (v : Nat) : Claim := { k with votes := k.votes ++ [(v / 2, v % 2 == 1)] }

/-- The lead has a member's reply. -/
def State.takeReply (s : State) (id v : Nat) (k : Claim) : State :=
  s.modSched fun q => { q with claims := q.claims.map fun x => if x.id = id then k.answered v else x }

include hclaim in
theorem State.answered_mem_takeReply : k.answered v ∈ (s.takeReply id v k).sched.claims :=
  List.mem_map.mpr ⟨k, List.mem_of_find?_eq_some hclaim, if_pos (by simpa using List.find?_some hclaim)⟩

include harg hclaim

theorem placementReply_takes : ∃ t, exec .placementReply s = .next t ∧ t.mem = s.mem ∧ t.cores = s.cores ∧
    t.sched = (s.takeReply id v k).sched ∧
    (∀ e, s.sched.ready.find? (fun e => e.ref == k.ref) = some e → (∀ d ∈ diesOf e.set, d = v / 2 ∨ ∃ w ∈ k.votes, w.1 = d) →
      ∃ p ∈ t.agenda, p.clk = .dom ∧ p.due = s.clock + 1 ∧ p.ev = .placementGo ∧ p.arg = .ids id 0) := by
  cases hready : s.sched.ready.find? (fun e => e.ref == k.ref) with
  | none =>
    refine ⟨s.takeReply id v k, ?_, rfl, rfl, rfl, fun _ he => (nomatch he)⟩
    simp only [exec_placementReply_eq, execPlacementReply, harg, hclaim, hready]
    rfl
  | some e =>
    by_cases hall : ((diesOf e.set).all fun d => (k.answered v).votes.any fun w => w.1 == d) = true
    · refine ⟨(s.takeReply id v k).scheduleDom ⟨e.die, 0⟩ 1 .placementGo (.ids id 0), ?_, rfl, rfl, rfl, fun e' he' _ =>
        ⟨_, State.mem_agenda_scheduleDom .., rfl, rfl, rfl, rfl⟩⟩
      rw [Claim.answered] at hall
      simp only [exec_placementReply_eq, execPlacementReply, harg, hclaim, hready, hall, if_true]
      rfl
    · refine ⟨s.takeReply id v k, ?_, rfl, rfl, rfl, fun e' he' hvotes => absurd ?_ hall⟩
      · rw [Claim.answered] at hall
        simp only [exec_placementReply_eq, execPlacementReply, harg, hclaim, hready, hall, if_false, Bool.false_eq_true]
        rfl
      · cases he'
        rw [List.all_eq_true]
        intro d hd
        obtain rfl | ⟨w, hw, rfl⟩ := hvotes d hd
        · simp [Claim.answered]
        · simp only [Claim.answered, List.any_append, Bool.or_eq_true, List.any_eq_true, beq_iff_eq]
          exact .inl ⟨w, hw, rfl⟩

end

/-! ### The go (R191, R192) -/

/-- A claim is over. -/
def State.dropClaim (s : State) (id : Nat) : State := s.modSched fun q => { q with claims := q.claims.filter fun x => x.id != id }

/-- A placement's claim is to be repeated. -/
def State.claimAgain (s : State) (r : NodeRef) : State := s.modReady r fun x => { x with claim := none }

theorem State.not_mem_claims_dropClaim (s : State) (id : Nat) : ∀ q ∈ (s.dropClaim id).sched.claims, q.id ≠ id := fun q hq => by
  simpa using (List.mem_filter.mp hq).2

theorem State.claim_claimAgain (s : State) (r : NodeRef) : ∀ x ∈ (s.claimAgain r).sched.ready, x.ref = r → x.claim = none :=
  State.mem_ready_modReady (f := fun x => { x with claim := none }) fun _ _ _ => rfl

theorem State.claim_reserve_claimAgain (s : State) (e : ReadyNode) :
    ∀ x ∈ ((s.claimAgain e.ref).reserve e).sched.ready, x.ref = e.ref → x.claim = none ∧ x.reserved = true :=
  State.mem_ready_modReady (f := fun x => { x with reserved := true }) fun x hx href => ⟨s.claim_claimAgain e.ref x hx href, rfl⟩

/-- The launch of a placement's task on the core at a place of its set. -/
def State.placedReq (s : State) (e : ReadyNode) (h : Header) (n : NodeRec) (d : Desc) (c : CoreId × Nat) : LaunchReq :=
  ⟨e.ref, h.id, n.a, d, s.seq + 1, c.2, e.set.length, ((s.graph? e.ref.die e.ref.graph).map (·.tag)).getD 0,
    ((s.graph? e.ref.die e.ref.graph).map (·.fn)).getD 0, s.seq + 1⟩

/-- The state in which a placement has become a running node. -/
def State.beginPlacement (s : State) (e : ReadyNode) (n : NodeRec) : State :=
  { ((s.putNodeState n 2 n.pending).unready e.ref).modSched fun k => { k with
      running := k.running ++ [⟨e.ref, 1, s.seq + 1, e.set, e.set, 0, none, 0, 0, []⟩]
      slots := k.slots ++ [(s.seq + 1, s.slotsFor e.ref)] } with
    seq := ((s.putNodeState n 2 n.pending).unready e.ref).seq + 2 }

/-- The tasks of a placement are to start together in its slot. -/
def State.startPlaced (s : State) (e : ReadyNode) (h : Header) (n : NodeRec) (d : Desc) : State :=
  e.set.zipIdx.foldl (fun (t : State) c => t.scheduleDom c.1 (startCycle t.clock d.slot - t.clock) .taskLaunch
    (.launch (s.placedReq e h n d c))) (s.beginPlacement e n)

theorem clock_lt_startCycle (clock slot : Nat) : clock < startCycle clock slot := by
  rw [startCycle]
  omega

section
variable {u : State} {e : ReadyNode} {h : Header} {n : NodeRec} {d : Desc}

theorem State.startPlaced_keeps {γ : Type} (g : State → γ) (hg : ∀ t o d ev arg, g (State.scheduleDom t o d ev arg) = g t) :
    g (u.startPlaced e h n d) = g (u.beginPlacement e n) :=
  State.foldl_schedule_keeps g hg Prod.fst (fun t _ => startCycle t.clock d.slot - t.clock) .taskLaunch
    (fun c => .launch (u.placedReq e h n d c)) e.set.zipIdx _

theorem State.sched_startPlaced : (u.startPlaced e h n d).sched = { u.sched with
    ready := u.sched.ready.filter fun x => x.ref != e.ref
    running := u.sched.running ++ [⟨e.ref, 1, u.seq + 1, e.set, e.set, 0, none, 0, 0, []⟩]
    slots := u.sched.slots ++ [(u.seq + 1, u.slotsFor e.ref)] } := by
  have hsched := State.sched_unready (u.putNodeState n 2 n.pending) e.ref
  rw [State.startPlaced_keeps State.sched fun _ _ _ _ _ => rfl, State.beginPlacement]
  simp only [State.sched_modSched, hsched]
  rfl

theorem State.mem_startPlaced : (u.startPlaced e h n d).mem = (u.putNodeState n 2 n.pending).mem :=
  (State.startPlaced_keeps State.mem fun _ _ _ _ _ => rfl).trans (State.mem_unready ..)

theorem State.agenda_subset_startPlaced : u.agenda ⊆ (u.startPlaced e h n d).agenda :=
  List.Subset.trans ((Worked.putNodeState u n 2 n.pending).trans (Worked.unready _ e.ref)).agenda
    (State.foldl_schedule_subset Prod.fst (fun t _ => startCycle t.clock d.slot - t.clock) .taskLaunch
      (fun c => .launch (u.placedReq e h n d c)) e.set.zipIdx (u.beginPlacement e n))

theorem State.startPlaced_starts {i : Nat} {c : CoreId} (hc : e.set[i]? = some c) : ∃ p ∈ (u.startPlaced e h n d).agenda,
    p.clk = .dom ∧ p.owner = c ∧ p.due = startCycle u.clock d.slot ∧ p.ev = .taskLaunch ∧ p.arg = .launch (u.placedReq e h n d (c, i)) := by
  have hclock : (u.beginPlacement e n).clock = u.clock := State.clock_unready ..
  obtain ⟨p, hp, hclk, hdue, howner, hev, harg⟩ := State.exists_mem_foldl_schedule (o := Prod.fst)
    (d := fun (t : State) (_ : CoreId × Nat) => startCycle t.clock d.slot - t.clock) (fun _ _ _ hclock => by rw [hclock]) .taskLaunch
    (fun c => .launch (u.placedReq e h n d c)) (u.beginPlacement e n) (List.mk_mem_zipIdx_iff_getElem?.mpr hc)
  refine ⟨p, hp, hclk, howner, ?_, hev, harg⟩
  have := clock_lt_startCycle u.clock d.slot
  rw [hdue, hclock]
  omega

end

theorem State.admitNode_admits {s u : State} {e : ReadyNode} {h : Header} {n : NodeRec} {d : Desc} (hrec : s.nodeRec e.ref = some (h, n))
    (hdesc : s.descAt e.ref.die n.a true = .ok d) (hload : s.loadImages e.ref.die d e.set = .ok u) :
    s.admitNode e = (u.startPlaced e h n d).doWork [.pull e.die] := by
  simp only [State.admitNode, hrec, hdesc, hload]
  rfl

/-- An admitted placement is loaded and starts in its slot of the next frame; where no node waits for its place of the queue, that is all. -/
theorem State.admitNode_starts {s u : State} {e : ReadyNode} {h : Header} {n : NodeRec} {d : Desc} (hrec : s.nodeRec e.ref = some (h, n))
    (hdesc : s.descAt e.ref.die n.a true = .ok d) (hload : s.loadImages e.ref.die d e.set = .ok u) :
    (∀ i c, e.set[i]? = some c → ∃ p ∈ (s.admitNode e).agenda, p.clk = .dom ∧ p.owner = c ∧ p.due = startCycle s.clock d.slot ∧
      p.ev = .taskLaunch ∧ ∃ q, p.arg = .launch q ∧ q.ref = e.ref ∧ q.desc = d ∧ q.a = i ∧ q.b = e.set.length ∧ q.group = q.run) ∧
    (∀ c ∈ e.set, ∃ p ∈ (s.admitNode e).agenda, p.clk = .dom ∧ p.owner = c ∧ p.due = s.clock ∧ p.ev = .taskLaunch ∧
      p.arg = .load e.ref.die d 0) ∧
    ((∀ x ∈ s.sched.ready, x.die = e.die → x.queued = true) →
      (∃ q ∈ (s.admitNode e).sched.running, q.ref = e.ref ∧ q.kind = 1 ∧ q.cores = e.set ∧ q.left = e.set ∧ q.fault = none ∧
        (q.id, s.slotsFor e.ref) ∈ (s.admitNode e).sched.slots) ∧
      (∀ x ∈ (s.admitNode e).sched.ready, x.ref ≠ e.ref) ∧ u.Wrote (s.admitNode e) n 2) := by
  have hclock : u.clock = s.clock := State.loadImages_keeps hload State.clock fun _ _ _ _ _ => rfl
  have hsched : u.sched = s.sched := State.loadImages_keeps hload State.sched fun _ _ _ _ _ => rfl
  have hadmit := State.admitNode_admits hrec hdesc hload
  have hagenda : (u.startPlaced e h n d).agenda ⊆ (s.admitNode e).agenda := by
    rw [hadmit]
    exact (State.worked_doWork ..).agenda
  refine ⟨fun i c hc => ?_, fun c hc => ?_, fun hqueued => ?_⟩
  · obtain ⟨p, hp, hclk, howner, hdue, hev, harg⟩ := u.startPlaced_starts (e := e) (h := h) (n := n) (d := d) hc
    exact ⟨p, hagenda hp, hclk, howner, hdue.trans (by rw [hclock]), hev, _, harg, rfl, rfl, rfl, rfl, rfl⟩
  · obtain ⟨p, hp, hclk, hdue, howner, hev, harg⟩ := State.loadImages_loads hload hc
    exact ⟨p, hagenda (State.agenda_subset_startPlaced hp), hclk, howner, hdue, hev, harg⟩
  · have hready : ∀ x ∈ (u.startPlaced e h n d).sched.ready, x ∈ s.sched.ready ∧ x.ref ≠ e.ref := fun x hx => by
      rw [State.sched_startPlaced, hsched] at hx
      simpa using List.mem_filter.mp hx
    rw [hadmit, State.doWork_pull fun x hx => hqueued x (hready x hx).1]
    refine ⟨?_, fun x hx => (hready x hx).2, State.wrote_of_mem (by omega) State.mem_startPlaced⟩
    have hslots : u.slotsFor e.ref = s.slotsFor e.ref := by rw [State.slotsFor, State.slotsFor, hsched]
    rw [State.sched_startPlaced, hslots]
    exact ⟨_, List.mem_append_right _ (List.mem_singleton_self _), rfl, rfl, rfl, rfl, rfl,
      List.mem_append_right _ (List.mem_singleton_self _)⟩

section
variable {s : State} {id v : Nat} {k : Claim} (harg : s.arg = .ids id v) (hclaim : s.sched.claims.find? (fun k => k.id == id) = some k)
include harg hclaim

/-- The go of a claim whose node is not ready any more. -/
theorem placementGo_alone (hready : s.sched.ready.find? (fun e => e.ref == k.ref) = none) :
    exec .placementGo s = .next (s.dropClaim id) := by
  simp only [exec_placementGo_eq, execPlacementGo, harg, hclaim, hready]
  rfl

variable {e : ReadyNode} (hready : s.sched.ready.find? (fun e => e.ref == k.ref) = some e)
include hready

theorem placementGo_frozen (hfrozen : s.frozen e.ref = true) : exec .placementGo s = .next ((s.dropClaim id).claimAgain e.ref) := by
  simp only [exec_placementGo_eq, execPlacementGo, harg, hclaim, hready, hfrozen, if_true]
  rfl

theorem placementGo_cancels (hfrozen : s.frozen e.ref = false)
    (hno : (k.votes.all (·.2) && (diesOf e.set).all s.aligned && !s.slotsTaken e.ref) = false) :
    exec .placementGo s = .next (((s.dropClaim id).claimAgain e.ref).reserve e) := by
  simp only [exec_placementGo_eq, execPlacementGo, harg, hclaim, hready, hfrozen, hno, Bool.false_eq_true, if_false]
  rfl

theorem placementGo_admits (hfrozen : s.frozen e.ref = false)
    (hyes : (k.votes.all (·.2) && (diesOf e.set).all s.aligned && !s.slotsTaken e.ref) = true) :
    exec .placementGo s = .next ((s.dropClaim id).admitNode e) := by
  simp only [exec_placementGo_eq, execPlacementGo, harg, hclaim, hready, hfrozen, hyes, Bool.false_eq_true, if_false, if_true]
  rfl

end

section
variable {s : State} {id v : Nat} {k : Claim} (harg : s.arg = .ids id v) (hclaim : s.sched.claims.find? (fun k => k.id == id) = some k)
include harg hclaim

/-- The go frees the claim; it is repeated unless the placement is admitted. -/
theorem placementGo_decides : ∃ t, exec .placementGo s = .next t ∧
    (∀ e, s.sched.ready.find? (fun e => e.ref == k.ref) = some e →
      (k.votes.all (·.2) = false → t.mem = s.mem ∧ t.cores = s.cores ∧ (∀ q ∈ t.sched.claims, q.id ≠ id) ∧
        ∀ x ∈ t.sched.ready, x.ref = e.ref → x.claim = none) ∧
      (s.frozen e.ref = false → (diesOf e.set).all s.aligned = false ∨ s.slotsTaken e.ref = true → t.mem = s.mem ∧ t.cores = s.cores ∧
        ∀ x ∈ t.sched.ready, x.ref = e.ref → x.claim = none ∧ x.reserved = true) ∧
      (∀ h n d u, k.votes.all (·.2) = true → s.frozen e.ref = false → (diesOf e.set).all s.aligned = true →
        s.slotsTaken e.ref = false → s.nodeRec e.ref = some (h, n) → s.descAt e.ref.die n.a true = .ok d →
        (s.dropClaim id).loadImages e.ref.die d e.set = .ok u →
        (∀ i c, e.set[i]? = some c → ∃ p ∈ t.agenda, p.clk = .dom ∧ p.owner = c ∧ p.due = startCycle s.clock d.slot ∧ p.ev = .taskLaunch ∧
          ∃ q, p.arg = .launch q ∧ q.ref = e.ref ∧ q.desc = d ∧ q.a = i ∧ q.b = e.set.length ∧ q.group = q.run) ∧
        (∀ c ∈ e.set, ∃ p ∈ t.agenda, p.clk = .dom ∧ p.owner = c ∧ p.due = s.clock ∧ p.ev = .taskLaunch ∧ p.arg = .load e.ref.die d 0) ∧
        ((∀ x ∈ s.sched.ready, x.die = e.die → x.queued = true) →
          (∃ q ∈ t.sched.running, q.ref = e.ref ∧ q.kind = 1 ∧ q.cores = e.set ∧ q.left = e.set ∧ q.fault = none ∧
            (q.id, s.slotsFor e.ref) ∈ t.sched.slots) ∧
          (∀ x ∈ t.sched.ready, x.ref ≠ e.ref) ∧ u.Wrote t n 2))) := by
  cases hready : s.sched.ready.find? (fun e => e.ref == k.ref) with
  | none => exact ⟨_, placementGo_alone harg hclaim hready, fun _ he => (nomatch he)⟩
  | some e =>
    by_cases hfrozen : s.frozen e.ref = true
    · refine ⟨_, placementGo_frozen harg hclaim hready hfrozen, fun e' he => ?_⟩
      cases he
      rw [hfrozen]
      exact ⟨fun _ => ⟨rfl, rfl, s.not_mem_claims_dropClaim id, State.claim_claimAgain _ _⟩, fun h => (nomatch h),
        fun _ _ _ _ _ h => (nomatch h)⟩
    · have hthawed := Bool.eq_false_iff.mpr hfrozen
      cases hyes : k.votes.all (·.2) && (diesOf e.set).all s.aligned && !s.slotsTaken e.ref with
      | false =>
        refine ⟨_, placementGo_cancels harg hclaim hready hthawed hyes, fun e' he => ?_⟩
        cases he
        have hagain := State.claim_reserve_claimAgain (s.dropClaim id) e
        refine ⟨fun _ => ⟨rfl, rfl, s.not_mem_claims_dropClaim id, fun x hx href => (hagain x hx href).1⟩, fun _ _ => ⟨rfl, rfl, hagain⟩,
          fun _ _ _ _ hvotes _ haligned htaken => ?_⟩
        simp [hvotes, haligned, htaken] at hyes
      | true =>
        obtain ⟨⟨hvotes, haligned⟩, htaken⟩ :
            (k.votes.all (·.2) = true ∧ (diesOf e.set).all s.aligned = true) ∧ s.slotsTaken e.ref = false := by
          simpa only [Bool.and_eq_true, Bool.not_eq_true'] using hyes
        refine ⟨_, placementGo_admits harg hclaim hready hthawed hyes, fun e' he => ?_⟩
        cases he
        rw [hvotes, haligned, htaken]
        exact ⟨fun h => (nomatch h), fun _ h => h.elim (fun h => (nomatch h)) fun h => (nomatch h), fun h n d u _ _ _ _ hrec hdesc hload =>
          State.admitNode_starts (s := s.dropClaim id) hrec hdesc hload⟩

end

end Sys2Proof.Machine
end

section
/-! PROOFS. The error token and TSPAWN (R194, R195): how far the token goes, the status of a request, and the requests that come first. -/

namespace Sys2Proof.Machine

open Sys2Proof

theorem exec_errorTokenStep_eq (s : State) : exec .errorTokenStep s = execErrorTokenStep s := rfl
theorem exec_tspawnApply_eq (s : State) : exec .tspawnApply s = execTspawnApply s := rfl

/-! ### The error token (R194) -/

/-- The token goes past a node that lies outside its graph, or runs or is over. -/
def State.TokenPasses (s : State) (r : NodeRef) : Prop := ∀ h n, s.nodeRec r = some (h, n) → h.count ≤ r.node ∨ 2 ≤ n.state

section
variable {s : State} {die va : Nat}

theorem State.tokenWalk_passes {i fuel : Nat} {rest : List Nat} (h : s.TokenPasses ⟨die, va, i⟩) :
    s.tokenWalk die va (fuel + 1) (i :: rest) = s.tokenWalk die va fuel rest := by
  rw [State.tokenWalk]
  cases hrec : s.nodeRec ⟨die, va, i⟩ with
  | none => rfl
  | some p =>
    have hpast : ¬ (i < p.1.count ∧ (p.2.state = 0 ∨ p.2.state = 1)) := by
      rcases h p.1 p.2 hrec with hcount | hstate
      · exact fun hnot => absurd hnot.1 (Nat.not_lt.mpr hcount)
      · omega
    simp only [hpast, if_false]

theorem State.tokenWalk_append {pre l : List Nat} (fuel : Nat) (h : ∀ i ∈ pre, s.TokenPasses ⟨die, va, i⟩) :
    s.tokenWalk die va (pre.length + fuel) (pre ++ l) = s.tokenWalk die va fuel l := by
  induction pre with
  | nil => rw [List.length_nil, Nat.zero_add, List.nil_append]
  | cons i pre ih =>
    rw [List.length_cons, Nat.add_right_comm, List.cons_append, State.tokenWalk_passes (h i List.mem_cons_self)]
    exact ih fun j hj => h j (List.mem_cons_of_mem i hj)

theorem State.tokenWalk_ends {front : List Nat} (h : ∀ i ∈ front, s.TokenPasses ⟨die, va, i⟩) :
    s.tokenWalk die va (front.length + 1) front = (s, []) := by
  have hall := State.tokenWalk_append (l := []) 1 h
  rwa [List.append_nil] at hall

theorem State.tokenWalk_marks {pre rest : List Nat} {i : Nat} {h : Header} {n : NodeRec} (hpre : ∀ j ∈ pre, s.TokenPasses ⟨die, va, j⟩)
    (hrec : s.nodeRec ⟨die, va, i⟩ = some (h, n)) (hcount : i < h.count) (hstate : n.state ≤ 1) :
    s.tokenWalk die va ((pre ++ i :: rest).length + 1) (pre ++ i :: rest) = (s.cancelNode ⟨die, va, i⟩ n, rest ++ n.succ) := by
  have hmark : i < h.count ∧ (n.state = 0 ∨ n.state = 1) := ⟨hcount, by omega⟩
  rw [List.length_append, Nat.add_assoc, State.tokenWalk_append _ hpre, State.tokenWalk]
  simp only [hrec, if_pos hmark]

end

theorem State.sched_unqueue (s : State) (r : NodeRef) : (s.unqueue r).sched = { s.sched with
    ready := s.sched.ready.filter fun e => e.ref != r
    claims := s.sched.claims.filter fun c => c.ref != r
    live := s.sched.live.filter (· != r) } := by
  rw [State.unqueue, State.sched_modSched, State.sched_unready]

/-- A node that is cancelled leaves the queue; where no node waits for its place, that is all. -/
theorem State.cancelNode_eq {s : State} (r : NodeRef) (n : NodeRec) (hqueued : ∀ x ∈ s.sched.ready, x.queued = true) :
    s.cancelNode r n = (s.putNodeState n 5 n.pending).unqueue r := by
  refine State.doWork_pull fun x hx _ => ?_
  rw [State.sched_unqueue] at hx
  exact hqueued x (List.mem_filter.mp hx).1

/-- The token has moved on to some nodes, if to any. -/
def State.putToken (s : State) (k : ErrToken) (front : List Nat) : State :=
  s.modSched fun q => { q with tokens := q.tokens.filter (· != k) ++ (if front.isEmpty then [] else [⟨k.die, k.graph, front⟩]) }

/-- The token goes on in the cycle after the present one, if to any node. -/
def State.moveToken (s : State) (r : NodeRef) (k : ErrToken) (front : List Nat) : State :=
  if front.isEmpty then s.putToken k front
  else (s.putToken k front).scheduleDom ⟨k.die, 0⟩ 1 .errorTokenStep (.node r none)

theorem State.moveToken_keeps {γ : Type} (g : State → γ) (hg : ∀ t o d ev arg, g (State.scheduleDom t o d ev arg) = g t) (s : State)
    (r : NodeRef) (k : ErrToken) (front : List Nat) : g (s.moveToken r k front) = g (s.putToken k front) := by
  rw [State.moveToken]
  split
  · rfl
  · exact hg ..

section
variable {s : State} {r : NodeRef} {x : Option (Nat × Nat)} {k : ErrToken} (harg : s.arg = .node r x)
  (htoken : s.sched.tokens.find? (fun t => t.die == r.die && t.graph == r.graph) = some k)
include harg htoken

theorem errorTokenStep_moves {t : State} {front : List Nat} (hwalk : s.tokenWalk k.die k.graph (k.front.length + 1) k.front = (t, front)) :
    exec .errorTokenStep s = .next (t.moveToken r k front) := by
  simp only [exec_errorTokenStep_eq, execErrorTokenStep, harg, htoken, hwalk]
  rfl

/-- A token that has nowhere to go is gone. -/
theorem errorTokenStep_ends (hpassed : ∀ i ∈ k.front, s.TokenPasses ⟨k.die, k.graph, i⟩) :
    ∃ t, exec .errorTokenStep s = .next t ∧ t.mem = s.mem ∧ t.cores = s.cores ∧ k ∉ t.sched.tokens :=
  ⟨_, errorTokenStep_moves harg htoken (State.tokenWalk_ends hpassed), rfl, rfl, by simp [State.moveToken, State.putToken, State.modSched]⟩

/-- The token marks the first node that waits or is ready, and goes on to the nodes after it. -/
theorem errorTokenStep_marks {pre rest : List Nat} {i : Nat} {h : Header} {n : NodeRec} (hfront : k.front = pre ++ i :: rest)
    (hpre : ∀ j ∈ pre, s.TokenPasses ⟨k.die, k.graph, j⟩) (hrec : s.nodeRec ⟨k.die, k.graph, i⟩ = some (h, n)) (hcount : i < h.count)
    (hstate : n.state ≤ 1) (hqueued : ∀ x ∈ s.sched.ready, x.queued = true) :
    ∃ t, exec .errorTokenStep s = .next t ∧ s.Wrote t n 5 ∧ (∀ x ∈ t.sched.ready, x.ref ≠ ⟨k.die, k.graph, i⟩) ∧
      (∀ x ∈ t.sched.claims, x.ref ≠ ⟨k.die, k.graph, i⟩) ∧
      (rest ++ n.succ ≠ [] → ⟨k.die, k.graph, rest ++ n.succ⟩ ∈ t.sched.tokens ∧
        ∃ p ∈ t.agenda, p.clk = .dom ∧ p.due = s.clock + 1 ∧ p.ev = .errorTokenStep ∧ p.arg = .node r none) := by
  have hwalk := State.tokenWalk_marks (rest := rest) hpre hrec hcount hstate
  rw [← hfront, State.cancelNode_eq _ n hqueued] at hwalk
  have hsched : ∀ front, (((s.putNodeState n 5 n.pending).unqueue ⟨k.die, k.graph, i⟩).putToken k front).sched = { s.sched with
      ready := s.sched.ready.filter fun e => e.ref != ⟨k.die, k.graph, i⟩
      claims := s.sched.claims.filter fun c => c.ref != ⟨k.die, k.graph, i⟩
      live := s.sched.live.filter (· != ⟨k.die, k.graph, i⟩)
      tokens := s.sched.tokens.filter (· != k) ++ (if front.isEmpty then [] else [⟨k.die, k.graph, front⟩]) } := fun front => by
    rw [State.putToken, State.sched_modSched, State.sched_unqueue]
    rfl
  refine ⟨_, errorTokenStep_moves harg htoken hwalk, State.wrote_of_mem (by omega) ?_, ?_, ?_, fun hgoes => ?_⟩
  · rw [State.moveToken_keeps State.mem fun _ _ _ _ _ => rfl]
    exact State.mem_unready ..
  · rw [State.moveToken_keeps State.sched fun _ _ _ _ _ => rfl, hsched]
    exact fun x hx => by simpa using (List.mem_filter.mp hx).2
  · rw [State.moveToken_keeps State.sched fun _ _ _ _ _ => rfl, hsched]
    exact fun x hx => by simpa using (List.mem_filter.mp hx).2
  · have hsome : (rest ++ n.succ).isEmpty = false := by simpa [List.isEmpty_iff] using hgoes
    rw [State.moveToken_keeps State.sched fun _ _ _ _ _ => rfl, hsched, State.moveToken, hsome]
    refine ⟨List.mem_append_right _ (List.mem_singleton_self _), _, State.mem_agenda_scheduleDom .., rfl, ?_, rfl, rfl⟩
    exact congrArg (· + 1) (State.clock_unready ..)

end

/-! ### TSPAWN's status (R195) -/

theorem State.queueFull_iff (s : State) (die : Nat) (rs : List NodeRef) : s.queueFull die rs = true ↔ 1024 ≤ s.queueLen die ∨
    ∃ r ∈ rs, ∃ x, s.nodeRec r = some x ∧ 1024 ≤ s.queueLen (x.2.queue r.die) := by
  simp only [State.queueFull, List.any_cons, Bool.or_eq_true, decide_eq_true_eq, List.any_eq_true, List.mem_filterMap, Option.map_eq_some_iff]
  refine or_congr_right ⟨?_, fun ⟨r, hr, x, hx, hlen⟩ => ⟨_, ⟨r, hr, x, hx, rfl⟩, hlen⟩⟩
  rintro ⟨_, ⟨r, hr, x, hx, rfl⟩, hlen⟩
  exact ⟨r, hr, x, hx, hlen⟩

section
variable {u : State} {die va i tag fn : Nat} {h : Header}

theorem State.spawn_noHeader (node : Bool) (hheader : u.header die va = none) : u.spawn die node va i tag fn = (3, u) := by
  cases node <;> simp [State.spawn, State.spawnNode, State.spawnGraph, hheader]

section
variable (hheader : u.header die va = some h)
include hheader

theorem State.spawnNode_outside (hcount : h.count ≤ i) : u.spawnNode ⟨die, va, i⟩ tag fn = (3, u) := by
  simp only [State.spawnNode, hheader, hcount, if_true]

theorem State.spawnNode_full (hcount : i < h.count) (hfull : u.queueFull die [⟨die, va, i⟩] = true) :
    u.spawnNode ⟨die, va, i⟩ tag fn = (2, u) := by
  simp only [State.spawnNode, hheader, Nat.not_le.mpr hcount, hfull, if_true, if_false]

/-- A node whose queues have room is enqueued, or is cancelled where its graph is frozen. -/
theorem State.spawnNode_status {x : Header × NodeRec} (hcount : i < h.count) (hroom : u.queueFull die [⟨die, va, i⟩] = false)
    (hrec : u.nodeRec ⟨die, va, i⟩ = some x) :
    (u.spawnNode ⟨die, va, i⟩ tag fn).1 = if u.frozen ⟨die, va, i⟩ then 1 else 0 := by
  simp only [State.spawnNode, hheader, Nat.not_le.mpr hcount, hroom, hrec, if_false, Bool.false_eq_true]
  split <;> rfl

theorem State.spawnGraph_full (hfull : u.queueFull die (u.nodesWhere die va h fun n => n.npred == 0) = true) :
    u.spawnGraph die va tag fn = (2, u) := by
  simp only [State.spawnGraph, hheader, hfull, if_true]

/-- A queue of the request's own die that is full refuses it. -/
theorem State.spawn_full {node : Bool} (hlen : 1024 ≤ u.queueLen die) (hplace : node = false ∨ i < h.count) :
    u.spawn die node va i tag fn = (2, u) := by
  have hfull := fun rs => (u.queueFull_iff die rs).mpr (.inl hlen)
  cases node with
  | false => exact State.spawnGraph_full hheader (hfull _)
  | true => exact State.spawnNode_full hheader (hplace.resolve_left Bool.noConfusion) (hfull _)

theorem State.spawn_outside {node : Bool} (hnode : node = true) (hcount : h.count ≤ i) : u.spawn die node va i tag fn = (3, u) := by
  subst hnode
  exact State.spawnNode_outside hheader hcount

/-- One node is refused where the queue that it would stand in is full. -/
theorem State.spawn_node {node : Bool} {x : Header × NodeRec} (hnode : node = true) (hcount : i < h.count) (hlen : u.queueLen die < 1024)
    (hrec : u.nodeRec ⟨die, va, i⟩ = some x) :
    (1024 ≤ u.queueLen (x.2.queue die) → u.spawn die node va i tag fn = (2, u)) ∧
    (u.queueLen (x.2.queue die) < 1024 → (u.spawn die node va i tag fn).1 = if u.frozen ⟨die, va, i⟩ then 1 else 0) := by
  subst hnode
  obtain ⟨g, n⟩ := x
  have hfull : u.queueFull die [⟨die, va, i⟩] = true ↔ 1024 ≤ u.queueLen (n.queue die) := by
    simp [State.queueFull_iff, hrec, Nat.not_le.mpr hlen]
  exact ⟨fun h => State.spawnNode_full hheader hcount (hfull.mpr h), fun h => State.spawnNode_status hheader hcount
    (Bool.eq_false_iff.mpr fun hf => absurd (hfull.mp hf) (Nat.not_le.mpr h)) hrec⟩

/-- A graph with room in its queues is refused while a node of it is ready or runs. -/
theorem State.spawn_graph {node : Bool} (hnode : node = false)
    (hroom : u.queueFull die (u.nodesWhere die va h fun n => n.npred == 0) = false) :
    (u.nodesWhere die va h (fun n => n.state == 1 || n.state == 2) = [] → (u.spawn die node va i tag fn).1 = 0) ∧
    (u.nodesWhere die va h (fun n => n.state == 1 || n.state == 2) ≠ [] → u.spawn die node va i tag fn = (4, u)) := by
  subst hnode
  refine ⟨fun hidle => ?_, fun hruns => ?_⟩
  · simp only [State.spawn, State.spawnGraph, hheader, hroom, hidle, List.isEmpty_nil, Bool.not_true, Bool.false_eq_true, if_false]
  · have hsome : (u.nodesWhere die va h fun n => n.state == 1 || n.state == 2).isEmpty = false := by simpa using hruns
    simp only [State.spawn, State.spawnGraph, hheader, hroom, hsome, Bool.not_false, Bool.false_eq_true, if_true, if_false]

end

theorem State.spawn_status_le (node : Bool) : (u.spawn die node va i tag fn).1 ≤ 4 := by
  cases node
  · simp only [State.spawn, State.spawnGraph, Bool.false_eq_true, if_false]
    repeat' split
    all_goals simp only [Nat.reduceLeDiff, le_refl, Nat.zero_le]
  · simp only [State.spawn, State.spawnNode, if_true]
    repeat' split
    all_goals simp only [Nat.reduceLeDiff, Nat.zero_le]

end

/-! ### The requests that come first (R195) -/

/-- A request takes its place among requests in the order of their issue. -/
def insertOrd (l : List Pending) (p : Pending) : List Pending :=
  l.takeWhile (fun q => decide (q.ord < p.ord)) ++ p :: l.dropWhile fun q => decide (q.ord < p.ord)

theorem insertOrd_cons (a : Pending) (l : List Pending) (p : Pending) :
    insertOrd (a :: l) p = if a.ord < p.ord then a :: insertOrd l p else p :: a :: l := by
  by_cases h : a.ord < p.ord <;> simp [insertOrd, h]

theorem mem_insertOrd {l : List Pending} {p q : Pending} : q ∈ insertOrd l p ↔ q = p ∨ q ∈ l := by
  have hsplit := congrArg (q ∈ ·) (List.takeWhile_append_dropWhile (p := fun q => decide (q.ord < p.ord)) (l := l))
  simp only [List.mem_append] at hsplit
  rw [insertOrd, List.mem_append, List.mem_cons, ← hsplit]
  tauto

theorem pairwise_insertOrd {l : List Pending} (p : Pending) (h : l.Pairwise fun a b => a.ord ≤ b.ord) :
    (insertOrd l p).Pairwise fun a b => a.ord ≤ b.ord := by
  induction l with
  | nil => exact List.pairwise_singleton _ p
  | cons a l ih =>
    obtain ⟨ha, hl⟩ := List.pairwise_cons.mp h
    rw [insertOrd_cons]
    split
    · next hlt =>
      refine List.pairwise_cons.mpr ⟨fun b hb => ?_, ih hl⟩
      obtain rfl | hb := mem_insertOrd.mp hb
      · exact hlt.le
      · exact ha b hb
    · next hge =>
      refine List.pairwise_cons.mpr ⟨fun b hb => ?_, h⟩
      obtain rfl | hb := List.mem_cons.mp hb
      · exact Nat.not_lt.mp hge
      · exact (Nat.not_lt.mp hge).trans (ha b hb)

theorem mem_foldl_insertOrd {l acc : List Pending} {q : Pending} : q ∈ l.foldl insertOrd acc ↔ q ∈ l ∨ q ∈ acc := by
  induction l generalizing acc with
  | nil => simp
  | cons p l ih =>
    rw [List.foldl_cons, ih, mem_insertOrd, List.mem_cons]
    tauto

theorem pairwise_foldl_insertOrd (l : List Pending) {acc : List Pending} (h : acc.Pairwise fun a b => a.ord ≤ b.ord) :
    (l.foldl insertOrd acc).Pairwise fun a b => a.ord ≤ b.ord := by
  induction l generalizing acc with
  | nil => exact h
  | cons p l ih => exact ih (pairwise_insertOrd p h)

theorem State.mem_spawnsBefore (s : State) (die ord : Nat) (q : Pending) : q ∈ s.spawnsBefore die ord ↔
    q ∈ s.agenda ∧ q.ev = .tspawnApply ∧ q.owner.die = die ∧ q.ord < ord ∧ s.isDue q = true := by
  refine mem_foldl_insertOrd.trans ?_
  simp [and_assoc]

theorem State.pairwise_spawnsBefore (s : State) (die ord : Nat) : (s.spawnsBefore die ord).Pairwise fun a b => a.ord ≤ b.ord :=
  pairwise_foldl_insertOrd _ .nil

/-- A request that comes first takes its effect, and its status is to land where it was pending. -/
theorem State.spawnFirst_spawns {s : State} {q : Pending} {node : Bool} {va i tag fn : Nat} (harg : q.arg = .spawn node va i tag fn) :
    (s.spawnFirst q).mem = (s.spawn q.owner.die node va i tag fn).2.mem ∧
    (s.spawnFirst q).sched = (s.spawn q.owner.die node va i tag fn).2.sched ∧
    (q ∈ (s.spawn q.owner.die node va i tag fn).2.agenda → { q with ev := .resultLanding, arg := .landing (.cval
      (BitVec.ofNat 64 (s.spawn q.owner.die node va i tag fn).1) none) } ∈ (s.spawnFirst q).agenda) := by
  have hfirst : s.spawnFirst q = { (s.spawn q.owner.die node va i tag fn).2 with
      agenda := (s.spawn q.owner.die node va i tag fn).2.agenda.map fun p => if p = q then
        { p with ev := .resultLanding, arg := .landing (.cval (BitVec.ofNat 64 (s.spawn q.owner.die node va i tag fn).1) none) } else p } := by
    simp only [State.spawnFirst, harg]
  rw [hfirst]
  exact ⟨rfl, rfl, fun hq => List.mem_map.mpr ⟨q, hq, if_pos rfl⟩⟩

theorem tspawnApply_spawns {s : State} {node : Bool} {va i tag fn : Nat} (harg : s.arg = .spawn node va i tag fn) :
    let p := ((s.spawnsBefore s.cur.die s.ord).foldl (fun t q => t.spawnFirst q) s).spawn s.cur.die node va i tag fn
    exec .tspawnApply s = .next (p.2.modCore s.cur fun c => c.modCtx fun x => { x with c := x.c.land (BitVec.ofNat 64 p.1) none }) := by
  simp only [exec_tspawnApply_eq, execTspawnApply, harg]

end Sys2Proof.Machine
end

section
/-! PROOFS. Pre-emption (R325, R327 to R332): the drain's end and the stop, the save engine's beats, and the restore of the area. -/

namespace Sys2Proof.Machine

open Sys2Proof

theorem exec_preemptStop_eq (s : State) : exec .preemptStop s = execPreemptStop s := rfl
theorem exec_saveBeat_eq (s : State) : exec .saveBeat s = execSaveBeat s := rfl
theorem exec_saveComplete_eq (s : State) : exec .saveComplete s = execSaveComplete s := rfl
theorem exec_taskRestore_eq (s : State) : exec .taskRestore s = execTaskRestore s := rfl

/-! ### The drain ends and the core stops (R327) -/

/-- The clusters that go on at their due items keep of a core all but its streams. -/
theorem Core.allDue_keeps {γ : Type} (g : Core → γ) (hg : ∀ c cl st, g (Core.setStream c cl st) = g c) (c : Core) : g c.allDue = g c :=
  foldl_keeps g _ (fun d k => by dsimp only; split; exacts [hg .., rfl]) _ c

@[simp] theorem Core.sys_refuse (c : Core) : c.refuse.ctx.sys = c.ctx.sys :=
  Core.allDue_keeps (fun d => d.ctx.sys) (fun _ _ _ => rfl) (c.modCtx fun x => { x with trapped := none, drain := none })
@[simp] theorem Core.trapped_refuse (c : Core) : c.refuse.ctx.trapped = none :=
  Core.allDue_keeps (fun d => d.ctx.trapped) (fun _ _ _ => rfl) (c.modCtx fun x => { x with trapped := none, drain := none })
@[simp] theorem Core.drain_refuse (c : Core) : c.refuse.ctx.drain = none :=
  Core.allDue_keeps (fun d => d.ctx.drain) (fun _ _ _ => rfl) (c.modCtx fun x => { x with trapped := none, drain := none })

section
variable {s : State} {k : Drain} (hdrain : s.me.ctx.drain = some k)
include hdrain

/-- At the drain's end the stop is set for the next cycle of the task clock. -/
theorem preemptStop_ends (hover : s.drainOver s.cur = true) (harg : ∀ x, s.arg ≠ .ids 1 x) :
    ∃ t, exec .preemptStop s = .next t ∧ t.mem = s.mem ∧
    ∃ p ∈ t.agenda, p.clk = .tau s.cur ∧ p.due = s.me.ctx.tau + 1 ∧ p.owner = s.cur ∧ p.ev = .preemptStop := by
  rw [State.me] at hdrain
  simp only [exec_preemptStop_eq, execPreemptStop]
  split
  · next h _ => exact absurd h (harg _)
  · next h =>
    rw [if_pos hover]
    exact ⟨_, rfl, rfl, _, List.mem_append_right _ (List.mem_singleton_self _), rfl, rfl, rfl, rfl⟩
  · next hnone _ => exact absurd hdrain (hnone k)

variable (hruns : s.me.tauStands = false) (hended : k.ended = true) {x : Nat} (harg : s.arg = .ids 1 x)
include hruns hended harg

/-- A budget that is used up at the stop comes first (log entry 98). -/
theorem preemptStop_overBudget (hover : s.me.overBudget = true) : exec .preemptStop s = .next ((s.undrained.atDue s.cur).takeTrap s.cur
    .deadline (BitVec.ofNat 64 ((s.me.task.map (·.budget)).getD 0 % 2 ^ 32)) (s.afterItem s.cur s.me)) := by
  obtain ⟨record, ended, clock, lag⟩ := k
  subst hended
  rw [← State.stopAtDue_undrained]
  rw [State.me] at hdrain hruns hover
  simp only [exec_preemptStop_eq, execPreemptStop, harg, hdrain, hruns, hover, Bool.false_eq_true, if_false, if_true]
  rfl

end

/-- The drain's record with the present time. -/
def State.stopDrain (s : State) (k : Drain) : Drain := { k with clock := s.clock % 2 ^ 63, lag := s.me.ctx.lag }

/-- The size of the area that a stopped task is saved to. -/
def State.saveSize (s : State) (k : Drain) : Nat := (s.saveArea s.cur (s.stopDrain k)).2

/-- A core stopped for PREEMPT. -/
def State.preempted (s : State) (n : Nat) : Core := s.me.writeTrap .preempt (BitVec.ofNat 64 n) (s.afterItem s.cur s.me) false false

section
variable {s : State} {k : Drain} (hdrain : s.me.ctx.drain = some k) (hruns : s.me.tauStands = false) (hended : k.ended = true) {x : Nat}
  (harg : s.arg = .ids 1 x) (hbudget : s.me.overBudget = false)
include hdrain hruns hended harg hbudget

/-- A stop that finds a channel not empty is refused. -/
theorem preemptStop_refuses (hchan : (s.me.ctx.chan.toList.any fun q => !q.isEmpty) = true) : exec .preemptStop s =
    .next (s.tick.tick.setCore s.cur ((s.preempted (s.saveSize k)).attempt 4 (s.saveSize k)).refuse) := by
  obtain ⟨record, ended, clock, lag⟩ := k
  subst hended
  rw [State.me] at hdrain hruns hbudget hchan
  simp only [exec_preemptStop_eq, execPreemptStop, harg, hdrain, hruns, hbudget, hchan, Bool.false_eq_true, if_false, if_true]
  rfl

/-- Else the save engine begins. -/
theorem preemptStop_saves (hchan : (s.me.ctx.chan.toList.any fun q => !q.isEmpty) = false) : exec .preemptStop s =
    .next ((s.tick.tick.setCore s.cur ((s.preempted (s.saveSize k)).modCtx fun x => { x with
      trapped := some (.saving 0 (s.saveSize k)), drain := some (s.stopDrain k) })).scheduleDom s.cur 0 .saveBeat (.beat 0 0 true)) := by
  obtain ⟨record, ended, clock, lag⟩ := k
  subst hended
  rw [State.me] at hdrain hruns hbudget hchan
  simp only [exec_preemptStop_eq, execPreemptStop, harg, hdrain, hruns, hbudget, hchan, Bool.false_eq_true, if_false]
  rfl

/-- The core stops for PREEMPT and is saved, or goes on. -/
theorem preemptStop_stops : ∃ t, exec .preemptStop s = .next t ∧ t.mem = s.mem ∧
    (t.core s.cur).ctx.sys.tcause = tcauseWord .preempt s.me.inHandler false ∧
    (t.core s.cur).ctx.sys.trapline = posWord (s.afterItem s.cur s.me) ∧
    ((t.core s.cur).ctx.trapped = some (.saving 0 (s.saveSize k)) ∧ (t.core s.cur).ctx.sys.tinfo = BitVec.ofNat 64 (s.saveSize k) ∧
        (∃ p ∈ t.agenda, p.owner = s.cur ∧ p.due = s.clock ∧ p.ev = .saveBeat ∧ p.arg = .beat 0 0 true) ∨
      (∃ q ∈ s.me.ctx.chan.toList, q.isEmpty = false) ∧ (t.core s.cur).ctx.trapped = none ∧ (t.core s.cur).ctx.drain = none ∧
        (t.core s.cur).ctx.sys.preemptOutcome = 4) := by
  cases hchan : s.me.ctx.chan.toList.any fun q => !q.isEmpty with
  | false =>
    refine ⟨_, preemptStop_saves hdrain hruns hended harg hbudget hchan, rfl, ?_⟩
    rw [State.core_scheduleDom, State.core_setCore_self]
    exact ⟨rfl, rfl, .inl ⟨rfl, rfl, _, State.mem_agenda_scheduleDom .., rfl, rfl, rfl, rfl⟩⟩
  | true =>
    refine ⟨_, preemptStop_refuses hdrain hruns hended harg hbudget hchan, rfl, ?_⟩
    rw [State.core_setCore_self, Core.sys_refuse, Core.trapped_refuse, Core.drain_refuse]
    have hfull : ∃ q ∈ s.me.ctx.chan.toList, q.isEmpty = false := by
      simpa only [List.any_eq_true, Bool.not_eq_true'] using hchan
    exact ⟨rfl, rfl, .inr ⟨hfull, rfl, rfl, rfl⟩⟩

end

/-! ### Bytes written, whatever the order of memory's entries -/

/-- A read of another byte after a write, whatever the order of the entries. -/
theorem Mem.get_set_other {q pa : Nat} (h : q ≠ pa) (m : Mem) (v : Byte) : (m.set q v).get pa = m.get pa := by
  induction m with
  | nil =>
    simp only [Mem.set]
    split <;> simp [Mem.get, h]
  | cons e rest ih =>
    obtain ⟨a, b⟩ := e
    simp only [Mem.set]
    split
    · split <;> simp [Mem.get, h]
    · split
      · next hqa => split <;> simp [Mem.get, ← hqa, h]
      · simp only [Mem.get, ih]

theorem State.get_writeAs_apart (t : State) {id : CoreId} {ws : List ByteWrite} {pa : Nat} (h : ∀ w ∈ ws, w.pa ≠ pa) :
    (t.writeAs id ws).mem.get pa = t.mem.get pa :=
  foldl_writes_other (read := fun t : State => t.mem.get) (key := ByteWrite.pa) (ok := fun _ => True) (fun _ _ _ => trivial)
    (fun t w q _ hq => by
      simp only [State.writeByteAs]
      split
      · rfl
      · exact Mem.get_set_other hq _ _) trivial h

/-! ### The save engine (R331) -/

theorem State.core_abort (s : State) (id : CoreId) (outcome n : Nat) : (s.abort id outcome n).core id = (s.core id).attempt outcome n := by
  rw [State.abort, State.core_scheduleDom, State.core_modCore_self]

/-- Beat j of an area of n bytes is stored. -/
def State.storeBeat (s : State) (k : Drain) (segs : List Seg) (j n : Nat) : State :=
  s.scheduleDom s.cur (s.segLat s.cur s.me.ctx.sys.saveCls segs) .accessPerform (.access ⟨.st ((List.range (min 128 (n - 128 * j))).map
    fun i => areaByte (s.saveArea s.cur k).1 (128 * j + i)), segs.map fun g =>
      ⟨s.me.ctx.sys.saveVa + BitVec.ofNat 64 (128 * j) + BitVec.ofNat 64 g.off, g.len, 0, g.pa⟩, s.me.posOf .c, none⟩)

/-- The valid word of a saved area is written. -/
def State.putValid (s : State) (segs : List Seg) : State :=
  s.writeAs s.cur (writesAt (segsPas segs) s.me.ctx.sys.saveVa.toNat (leBytes 1 4))

section
variable {s : State} {k : Drain} {n a j : Nat} (hdrain : s.me.ctx.drain = some k) (htrapped : s.me.ctx.trapped = some (.saving 0 n))

section
include htrapped

/-- After an abort the task resumes. -/
theorem saveBeat_resumes (harg : s.arg = .beat a j false) : ∃ t, exec .saveBeat s = .next t ∧ t.mem = s.mem ∧
    (t.core s.cur).ctx.trapped = none ∧ (t.core s.cur).ctx.drain = none := by
  have hresumes : exec .saveBeat s = .next (s.setCore s.cur s.me.refuse) := by
    rw [State.me] at htrapped
    simp only [exec_saveBeat_eq, execSaveBeat, harg, htrapped]
    rfl
  refine ⟨_, hresumes, rfl, ?_⟩
  rw [State.core_setCore_self]
  exact ⟨Core.trapped_refuse _, Core.drain_refuse _⟩

end

include hdrain htrapped

section
variable (harg : s.arg = .beat a j true)
include harg

theorem saveBeat_tooLong (hlen : s.me.ctx.sys.savelen.toNat ≤ 128 * j) : ∃ t, exec .saveBeat s = .next t ∧ t.mem = s.mem ∧
    (t.core s.cur).ctx.sys.preemptOutcome = 3 := by
  have haborts : exec .saveBeat s = .next (s.abort s.cur 3 n) := by
    rw [State.me] at hdrain htrapped hlen
    simp only [exec_saveBeat_eq, execSaveBeat, harg, hdrain, htrapped, hlen, if_true]
  refine ⟨_, haborts, rfl, ?_⟩
  rw [State.core_abort]
  rfl

variable (hlen : 128 * j < s.me.ctx.sys.savelen.toNat)
include hlen

theorem saveBeat_fails (hsegs : s.beatSegs s.cur j (min 128 (n - 128 * j)) = none) : ∃ t, exec .saveBeat s = .next t ∧ t.mem = s.mem ∧
    (t.core s.cur).ctx.sys.preemptOutcome = 2 := by
  have haborts : exec .saveBeat s = .next (s.abort s.cur 2 n) := by
    rw [State.me] at hdrain htrapped hlen
    simp only [exec_saveBeat_eq, execSaveBeat, harg, hdrain, htrapped, Nat.not_le.mpr hlen, hsegs, if_false]
  refine ⟨_, haborts, rfl, ?_⟩
  rw [State.core_abort]
  rfl

/-- A beat that can be written issues, and the next beat or the valid word comes after it. -/
theorem saveBeat_issues {segs : List Seg} (hsegs : s.beatSegs s.cur j (min 128 (n - 128 * j)) = some segs) : exec .saveBeat s =
    .next (if 128 * (j + 1) < n then (s.storeBeat k segs j n).scheduleDom s.cur 1 .saveBeat (.beat 0 (j + 1) true)
      else (s.storeBeat k segs j n).scheduleDom s.cur (1 + s.segLat s.cur s.me.ctx.sys.saveCls segs) .saveComplete (.beat 0 0 true)) := by
  rw [State.me] at hdrain htrapped hlen
  simp only [exec_saveBeat_eq, execSaveBeat, harg, hdrain, htrapped, Nat.not_le.mpr hlen, hsegs, if_false]
  rfl

theorem saveBeat_stores {segs : List Seg} (hsegs : s.beatSegs s.cur j (min 128 (n - 128 * j)) = some segs) :
    ∃ t, exec .saveBeat s = .next t ∧ t.mem = s.mem ∧ t.cores = s.cores ∧
      (∃ p ∈ t.agenda, ∃ bs els, p.due = s.clock + s.segLat s.cur s.me.ctx.sys.saveCls segs ∧ p.owner = s.cur ∧
        p.ev = .accessPerform ∧ p.arg = .access ⟨.st bs, els, s.me.posOf .c, none⟩ ∧ bs.length = min 128 (n - 128 * j)) ∧
      (128 * (j + 1) < n → ∃ p ∈ t.agenda, p.due = s.clock + 1 ∧ p.ev = .saveBeat ∧ p.arg = .beat 0 (j + 1) true) ∧
      (n ≤ 128 * (j + 1) → ∃ p ∈ t.agenda, p.due = s.clock + 1 + s.segLat s.cur s.me.ctx.sys.saveCls segs ∧ p.ev = .saveComplete) := by
  have hstore : ∃ p ∈ (s.storeBeat k segs j n).agenda, ∃ bs els,
      p.due = s.clock + s.segLat s.cur s.me.ctx.sys.saveCls segs ∧ p.owner = s.cur ∧ p.ev = .accessPerform ∧ p.arg = .access ⟨.st bs, els, s.me.posOf .c, none⟩ ∧ bs.length = min 128 (n - 128 * j) :=
    ⟨_, State.mem_agenda_scheduleDom .., _, _, rfl, rfl, rfl, rfl, by rw [List.length_map, List.length_range]⟩
  obtain ⟨p, hp, hstores⟩ := hstore
  refine ⟨_, saveBeat_issues hdrain htrapped harg hlen hsegs, ?_⟩
  split
  · next hmore =>
    exact ⟨rfl, rfl, ⟨p, List.mem_append_left _ hp, hstores⟩, fun _ => ⟨_, State.mem_agenda_scheduleDom .., rfl, rfl, rfl⟩,
      fun h => absurd hmore (Nat.not_lt.mpr h)⟩
  · next hlast =>
    exact ⟨rfl, rfl, ⟨p, List.mem_append_left _ hp, hstores⟩, fun h => absurd h hlast,
      fun _ => ⟨_, State.mem_agenda_scheduleDom .., (Nat.add_assoc ..).symm, rfl⟩⟩

end

/-! ### The valid word, and the suspension (R331) -/

/-- The valid word changes no byte beside its own. -/
theorem saveComplete_valid (harg : s.arg = .beat a j true) {segs : List Seg} (hsegs : s.beatSegs s.cur 0 4 = some segs) :
    ∃ t, exec .saveComplete s = .next t ∧ (t.core s.cur).ctx.sys.preemptOutcome = 1 ∧ (t.core s.cur).ctx.sys.preemptSize = n ∧
      ∀ pa, pa ∉ segsPas segs → t.mem.get pa = s.mem.get pa := by
  have hvalid : exec .saveComplete s =
      .next (((s.putValid segs).modCore s.cur fun c => c.attempt 1 n).scheduleDom s.cur 1 .saveComplete (.beat 0 0 false)) := by
    rw [State.me] at hdrain htrapped
    simp only [exec_saveComplete_eq, execSaveComplete, harg, hdrain, htrapped, hsegs]
    rfl
  refine ⟨_, hvalid, ?_, ?_, fun pa hpa => State.get_writeAs_apart s fun w hw heq => hpa ?_⟩
  · rw [State.core_scheduleDom, State.core_modCore_self]
    rfl
  · rw [State.core_scheduleDom, State.core_modCore_self]
    rfl
  · obtain ⟨e, he, rfl⟩ := List.mem_map.mp hw
    have hfst := List.mem_map_of_mem (f := Prod.fst) he
    rw [List.zipIdx_map_fst] at hfst
    exact heq ▸ (List.of_mem_zip hfst).1

/-- The task is suspended and its core free. -/
theorem saveComplete_suspends (harg : s.arg = .beat a j false) {task : Task} (htask : s.me.task = some task) :
    ∃ t, exec .saveComplete s = .next t ∧ t.mem = s.mem ∧ (t.core s.cur).task = none ∧
      ∃ e ∈ t.sched.suspended, e.core = s.cur ∧ e.task = task ∧ e.base = s.me.ctx.sys.savebase ∧ e.size = n := by
  have hsuspends : exec .saveComplete s = .next ((s.freeCore s.cur).modSched fun q => { q with suspended := q.suspended ++
      [⟨s.cur, task, s.me.ctx.sys.savebase, n, s.me.ctx.copy, s.me.ctx.streams, s.me.ctx.joined, s.me.ctx.sys.preemptRefusals⟩] }) := by
    rw [State.me] at hdrain htrapped htask
    simp only [exec_saveComplete_eq, execSaveComplete, harg, hdrain, htrapped, htask]
    rfl
  exact ⟨_, hsuspends, rfl, State.task_freeCore s s.cur, _, List.mem_append_right _ (List.mem_singleton_self _), rfl, rfl, rfl, rfl⟩

end

end Sys2Proof.Machine
end

section
/-! PROOFS. The restore (R332), and the statement on the scheduler's steps (R185 to R195, R325 to R333). -/

namespace Sys2Proof.Machine

open Sys2Proof

/-! ### The scratchpad is cleared (R332) -/

/-- The byte of memory at an address that a filter on addresses keeps, and 0 at the others. -/
theorem Mem.get_filter (m : Mem) (keep : Nat → Bool) (pa : Nat) :
    Mem.get (m.filter fun e => keep e.1) pa = if keep pa = true then m.get pa else 0 := by
  induction m with
  | nil => split <;> rfl
  | cons e rest ih =>
    obtain ⟨a, b⟩ := e
    by_cases ha : keep a = true
    · rw [List.filter_cons, if_pos ha, Mem.get, Mem.get, ih]
      split
      · next heq => rw [← heq, if_pos ha]
      · rfl
    · rw [List.filter_cons, if_neg ha, ih, Mem.get]
      split
      · next hpa => rw [if_neg fun heq : a = pa => ha (by rw [heq, hpa])]
      · rfl

theorem State.get_clearPad (s : State) (id : CoreId) (pa : Nat) :
    (s.clearPad id).mem.get pa = if paSpace pa = 1 ∧ paCore pa = id then 0 else s.mem.get pa := by
  have hkeep := Mem.get_filter s.mem (fun pa => !(paSpace pa == 1 && paCore pa == id)) pa
  refine hkeep.trans ?_
  by_cases h : paSpace pa = 1 ∧ paCore pa = id <;> simp [h]

/-! ### The images, the area and the task (R332) -/

/-- The images are copied again, and the area is read after them. -/
theorem taskRestore_begins {s u : State} {e : Suspended} {d : Desc} (harg : ∀ a b bs, s.arg ≠ .bytes a b bs)
    (hrestorable : s.restorable s.cur = some e) (hdesc : s.descAt e.task.ref.die e.task.desc.toNat false = .ok d)
    (hload : (s.clearPad s.cur).loadImages e.task.ref.die d [s.cur] = .ok u) :
    exec .taskRestore s = .next (u.scheduleDom s.cur d.loadCycles .taskRestore (.bytes 0 0 [])) := by
  rw [exec_taskRestore_eq, execTaskRestore]
  split
  · next h => exact absurd h (harg _ _ _)
  · simp only [hrestorable, hdesc, hload]

theorem taskRestore_loads {s u : State} {e : Suspended} {d : Desc} (harg : ∀ a b bs, s.arg ≠ .bytes a b bs)
    (hrestorable : s.restorable s.cur = some e) (hdesc : s.descAt e.task.ref.die e.task.desc.toNat false = .ok d)
    (hload : (s.clearPad s.cur).loadImages e.task.ref.die d [s.cur] = .ok u) :
    ∃ t, exec .taskRestore s = .next t ∧ t.cores = s.cores ∧
      (∀ pa, ¬ (paSpace pa = 1 ∧ paCore pa = s.cur) → t.mem.get pa = s.mem.get pa) ∧
      (∀ pa, paSpace pa = 1 → paCore pa = s.cur → t.mem.get pa = 0) ∧
      (∃ p ∈ t.agenda, p.clk = .dom ∧ p.due = s.clock ∧ p.owner = s.cur ∧ p.ev = .taskLaunch ∧ p.arg = .load e.task.ref.die d 0) ∧
      ∃ p ∈ t.agenda, p.clk = .dom ∧ p.due = s.clock + d.loadCycles ∧ p.owner = s.cur ∧ p.ev = .taskRestore ∧ p.arg = .bytes 0 0 [] := by
  have hkeeps := fun {γ : Type} (g : State → γ) => State.loadImages_keeps hload g
  have hmem : u.mem = (s.clearPad s.cur).mem := hkeeps State.mem fun _ _ _ _ _ => rfl
  have hclock : u.clock = s.clock := hkeeps State.clock fun _ _ _ _ _ => rfl
  obtain ⟨p, hp, hload'⟩ := State.loadImages_loads hload (List.mem_singleton_self s.cur)
  refine ⟨_, taskRestore_begins harg hrestorable hdesc hload, hkeeps State.cores fun _ _ _ _ _ => rfl, fun pa hpa => ?_,
    fun pa hspace hcore => ?_,
    ⟨p, List.mem_append_left _ hp, hload'⟩, _, State.mem_agenda_scheduleDom .., rfl, by rw [hclock], rfl, rfl, rfl⟩
  · rw [State.mem_scheduleDom, hmem, State.get_clearPad, if_neg hpa]
  · rw [State.mem_scheduleDom, hmem, State.get_clearPad, if_pos ⟨hspace, hcore⟩]

/-- The variable part of an area holds no clock, no system register and no stop; the deferral queue keeps its saved count. -/
theorem restoreVar_keeps (bs : List Byte) (r : LiveRec) (x : Ctx) : (restoreVar bs r x).1.tau = x.tau ∧ (restoreVar bs r x).1.sys = x.sys ∧
    (restoreVar bs r x).1.trapped = x.trapped ∧ (restoreVar bs r x).1.x.defq.length = numAt bs 0x2A0 8 := by
  simp only [restoreVar, takeSeg, numsAt, List.length_map, List.length_range, and_self]

/-- What a restored core has of the area. -/
theorem State.core_restoreTask (s : State) (e : Suspended) (d : Desc) (bs : List Byte) :
    ((s.restoreTask e d bs).core e.core).task = some e.task ∧ ((s.restoreTask e d bs).core e.core).ctx.tau = numAt bs 0x100 8 ∧
    ((s.restoreTask e d bs).core e.core).ctx.lag = s.clock - (numAt bs 8 8 - numAt bs 0x108 8) ∧
    ((s.restoreTask e d bs).core e.core).ctx.sys.tvec = BitVec.ofNat 64 (numAt bs 0x118 8) ∧
    ((s.restoreTask e d bs).core e.core).ctx.x.defq.length = numAt bs 0x2A0 8 ∧
    ((s.restoreTask e d bs).core e.core).ctx.trapped = none := by
  have hvar := restoreVar_keeps bs (liveOf ((bs.drop 0x40).take 64))
  simp only [State.restoreTask]
  generalize hfixed : restoreFixed bs e _ = x1
  specialize hvar x1
  generalize restoreVar bs _ x1 = p at hvar ⊢
  obtain ⟨x2, ranges⟩ := p
  obtain ⟨htau, hsys, htrapped, hdefq⟩ := hvar
  dsimp only at htau hsys htrapped hdefq
  simp only [State.core_modSched, State.core_modCore_self, htau, hsys, htrapped, hdefq, true_and]
  refine ⟨?_, ?_, ?_⟩
  · rw [← hfixed]; rfl
  · rw [← hfixed]; rfl
  · rw [← hfixed]; rfl

section
variable {s : State} {a b : Nat} {bs : List Byte} {e : Suspended} {d : Desc} (harg : s.arg = .bytes a b bs)
  (hfind : s.sched.suspended.find? (fun e => e.core == s.cur) = some e)
  (hdesc : s.descAt e.task.ref.die e.task.desc.toNat false = .ok d)
include harg hfind hdesc

theorem taskRestore_reads : exec .taskRestore s = .next (s.restoreBeat e d bs) := by
  simp only [exec_taskRestore_eq, execTaskRestore, harg, hfind, hdesc]

section
variable {pas : List Nat} (hmore : bs.length < e.size) (hpas : s.areaPas e bs.length = .ok pas) (hclean : s.poisoned pas = false)
include hmore hpas hclean

/-- An area that is not valid ends the task. -/
theorem taskRestore_invalid (hbs : bs = []) (hvalid : numAt (pas.map s.byteAt) 0 4 % 2 = 0) : ∃ t, exec .taskRestore s = .next t ∧
    t.mem = s.mem ∧ ⟨e.core, 0x3A, e.task.run⟩ ∈ t.faultq ∧ e ∉ t.sched.suspended ∧ (t.core s.cur).ctx.sys.tcause = 0x3A ∧
    (t.core s.cur).ctx.sys.tinfo = BitVec.ofNat 64 (2 ^ 32) := by
  have hfails : s.restoreBeat e d bs = s.restoreFails e 0x3A := by
    subst hbs
    simp only [State.restoreBeat, Nat.not_le.mpr hmore, hpas, hclean, hvalid, List.isEmpty_nil, decide_true, Bool.and_self,
      Bool.false_eq_true, if_true, if_false]
  have hcore : e.core = s.cur := by simpa using List.find?_some hfind
  have hself : (s.restoreFails e 0x3A).core s.cur = s.me.modCtx fun x => { x with sys := { x.sys with
      tcause := BitVec.ofNat 64 0x3A, tinfo := BitVec.ofNat 64 (2 ^ 32) } } := by
    have hmod : (s.restoreFails e 0x3A).core e.core = (s.modCore e.core fun c => c.modCtx fun x => { x with sys := { x.sys with
        tcause := BitVec.ofNat 64 0x3A, tinfo := BitVec.ofNat 64 (2 ^ 32) } }).core e.core := rfl
    rw [← hcore, hmod, State.core_modCore_self, State.me, hcore]
  refine ⟨_, taskRestore_reads harg hfind hdesc, ?_⟩
  rw [hfails, hself]
  exact ⟨rfl, List.mem_append_right _ (List.mem_singleton_self _), by simp [State.restoreFails, State.modSched], rfl, rfl⟩

/-- A beat of a valid area is read, and the next comes a cycle later. -/
theorem taskRestore_goesOn (hgoes : bs ≠ [] ∨ numAt (pas.map s.byteAt) 0 4 % 2 = 1) : ∃ t, exec .taskRestore s = .next t ∧ t.mem = s.mem ∧
    ∃ p ∈ t.agenda, p.clk = .dom ∧ p.due = s.clock + 1 ∧ p.owner = s.cur ∧ p.ev = .taskRestore ∧
      p.arg = .bytes 0 0 (bs ++ pas.map s.byteAt) := by
  have hvalid : (bs.isEmpty && decide (numAt (pas.map s.byteAt) 0 4 % 2 = 0)) = false := by
    obtain hbs | hone := hgoes
    · simp [hbs]
    · simp [hone]
  have hbeat : s.restoreBeat e d bs = (s.correct pas).scheduleDom e.core 1 .taskRestore (.bytes 0 0 (bs ++ pas.map s.byteAt)) := by
    simp only [State.restoreBeat, Nat.not_le.mpr hmore, hpas, hclean, hvalid, Bool.false_eq_true, if_false]
  have hcore : e.core = s.cur := by simpa using List.find?_some hfind
  refine ⟨_, taskRestore_reads harg hfind hdesc, ?_⟩
  rw [hbeat]
  exact ⟨s.mem_correct pas, _, State.mem_agenda_scheduleDom .., rfl, by rw [State.clock_correct], hcore, rfl, rfl⟩

end

/-- With the whole area read the task runs on with what it holds. -/
theorem taskRestore_restores (hall : e.size ≤ bs.length) : ∃ t, exec .taskRestore s = .next t ∧ e ∉ t.sched.suspended ∧
    (t.core s.cur).task = some e.task ∧ (t.core s.cur).ctx.tau = numAt bs 0x100 8 ∧
    (t.core s.cur).ctx.lag = s.clock - (numAt bs 8 8 - numAt bs 0x108 8) ∧
    (t.core s.cur).ctx.sys.tvec = BitVec.ofNat 64 (numAt bs 0x118 8) ∧ (t.core s.cur).ctx.x.defq.length = numAt bs 0x2A0 8 ∧
    (t.core s.cur).ctx.trapped = none := by
  have hrestores : s.restoreBeat e d bs = s.restoreTask e d bs := by simp only [State.restoreBeat, hall, if_true]
  have hcore : e.core = s.cur := by simpa using List.find?_some hfind
  refine ⟨_, taskRestore_reads harg hfind hdesc, ?_⟩
  rw [hrestores, ← hcore]
  obtain ⟨htask, htau, hlag, htvec, hdefq, htrapped⟩ := s.core_restoreTask e d bs
  exact ⟨by simp [State.restoreTask, State.modSched], htask, htau, hlag, htvec, hdefq, htrapped⟩

end

end Sys2Proof.Machine
end

section
/-! PROOFS. The statement on the scheduler's steps (R185 to R195, R325 to R333), from the lemmas on each of them. -/

namespace Sys2Proof.Machine

open Sys2Proof

/-- Settles O50: each clause is one of the lemmas above, about a dispatch, a control node, a placement, the token, TSPAWN, the drain, the save
engine and the restore. -/
theorem schedulingStepsPerform : Obligations.SchedulingStepsPerform := by
  unfold Obligations.SchedulingStepsPerform
  intro wrote
  refine ⟨⟨fun s d hd => ?dispatch, fun s e n => ?card, fun s r h n hok hrec => ⟨fun harg halign => ?misaligned,
    fun bs harg halign hread => controlNode_reads hrec hok bs harg halign hread, fun cause w harg => ?selects⟩,
    fun s e hclaim => ?claim, fun s id v k harg hclaim => ⟨?reply, ?go⟩, fun s r x k harg htoken => ?token,
    fun s node va i tag fn harg => ?spawn, fun s die ord => ⟨s.mem_spawnsBefore die ord, s.pairwise_spawnsBefore die ord, s.queueFull_iff die,
      fun q node va i tag fn harg => State.spawnFirst_spawns harg⟩⟩,
    fun s k hdrain hruns => ⟨fun _ hover harg => preemptStop_ends hdrain hover harg, fun x hended harg => ?stop⟩,
    fun s k n hdrain htrapped => ?save, fun s e => ?restore⟩
  case dispatch =>
    obtain ⟨t, hexec, hfault, hask, hcard, hserve, hcoll⟩ := nodeDispatch_performs s d hd
    refine ⟨t, hexec, hfault, fun id c r hd hrun => ?_, hcard, hserve, fun e h n hd hrec hblock hqueued => ?_⟩
    · obtain rfl : r.id = id := by simpa using List.find?_some hrun
      obtain ⟨hleaves, hdeals⟩ := hask r.id c r hd hrun
      refine ⟨hleaves, fun h n k hsome hfrozen hrec hdesc => ?_⟩
      obtain ⟨hagain, hfirst⟩ := hdeals h n k hsome hfrozen hrec hdesc
      refine ⟨hagain, fun u hc hload => ?_⟩
      rw [← Desc.loadCycles_of_free (State.descAt_locked hdesc)]
      exact hfirst u hc hload
    · obtain ⟨hsched, hwrote, hissued⟩ := hcoll e h n hd hrec hblock hqueued
      rw [hsched, State.sched_beginColl]
      exact ⟨rfl, fun x hx => by simpa using (List.mem_filter.mp hx).2, hwrote, hissued⟩
  case card =>
    rw [State.sched_beginCard]
    exact ⟨rfl, fun x hx => by simpa using (List.mem_filter.mp hx).2, List.mem_append_right _ (List.mem_singleton_self _),
      State.wrote_of_mem (by omega) (State.mem_beginCard s e n)⟩
  case misaligned => exact ⟨_, controlNode_misaligned hrec harg halign, rfl, rfl, State.evaluates_evaluateNext ..⟩
  case selects =>
    exact ⟨controlNode_faults hrec harg, fun hcause hkind => controlNode_branches hrec harg hcause (.inl hkind),
      fun hcause hkind hw => (controlNode_branches hrec harg hcause (.inr ⟨hkind, hw⟩)).trans (by rw [if_neg (not_not.mpr hw)]),
      controlNode_loops hrec harg, controlNode_switches hrec harg⟩
  case claim =>
    exact ⟨_, placementClaim_sends hclaim, rfl, rfl, ⟨_, List.mem_append_right _ (List.mem_singleton_self _), rfl, rfl, rfl, rfl⟩,
      State.mem_ready_modReady (f := fun x => { x with claim := some s.seq }) fun _ _ _ => rfl⟩
  case reply =>
    obtain ⟨t, hexec, hmem, hcores, hsched, hgo⟩ := placementReply_takes harg hclaim
    refine ⟨t, hexec, hmem, hcores, ?_, hgo⟩
    rw [hsched]
    have hid : k.id = id := by simpa using List.find?_some hclaim
    exact ⟨_, State.answered_mem_takeReply hclaim, hid, rfl, rfl⟩
  case go => exact placementGo_decides harg hclaim
  case token =>
    refine ⟨_, errorTokenStep_moves harg htoken rfl, fun hpassed => ?_, fun pre i rest h n hfront hpre hrec hcount hstate hqueued => ?_⟩
    · obtain ⟨t, hexec, hends⟩ := errorTokenStep_ends harg htoken hpassed
      rwa [Host.Outcome.next.inj ((errorTokenStep_moves harg htoken rfl).symm.trans hexec)]
    · obtain ⟨t, hexec, hmarks⟩ := errorTokenStep_marks harg htoken hfront hpre hrec hcount hstate hqueued
      rwa [Host.Outcome.next.inj ((errorTokenStep_moves harg htoken rfl).symm.trans hexec)]
  case spawn =>
    intro u p
    exact ⟨State.spawn_status_le node, tspawnApply_spawns harg, State.spawn_noHeader node, fun h hheader =>
      ⟨State.spawn_full hheader, State.spawn_outside hheader, fun x hnode hcount hlen hrec =>
        State.spawn_node hheader hnode hcount hlen hrec, fun hnode hroom => State.spawn_graph hheader hnode hroom⟩⟩
  case stop =>
    exact ⟨fun hover => ⟨s.undrained.atDue s.cur, rfl, preemptStop_overBudget hdrain hruns hended harg hover⟩,
      fun hbudget => preemptStop_stops hdrain hruns hended harg hbudget⟩
  case save =>
    exact ⟨fun a j => saveBeat_resumes htrapped, fun a j harg => ⟨saveBeat_tooLong hdrain htrapped harg,
      saveBeat_fails hdrain htrapped harg, fun segs hlen => saveBeat_stores hdrain htrapped harg hlen⟩,
      fun a j segs harg => saveComplete_valid hdrain htrapped harg, fun a j task harg => saveComplete_suspends hdrain htrapped harg⟩
  case restore =>
    exact ⟨fun d u => taskRestore_loads, fun a b bs d harg hfind hdesc => ⟨fun pas hmore hpas hclean =>
      ⟨taskRestore_invalid harg hfind hdesc hmore hpas hclean, taskRestore_goesOn harg hfind hdesc hmore hpas hclean⟩,
      taskRestore_restores harg hfind hdesc⟩⟩

end Sys2Proof.Machine
end

section
/-! PROOFS. A host command that fails its statement (R388): RESET of a function, in a state whose list of cores has two entries for one
core. -/

namespace Sys2Proof.Machine

open Sys2Proof

/-- A free task that a function has launched. -/
def freeTaskOf (f : Nat) : Task where
  locked := false
  slot := 0
  desc := 0
  ref := ⟨0, 0, 0⟩
  graphId := 0
  budget := 1
  domtag := 0
  fn := f
  group := 0
  chunk := none
  exit := none
  halted := false
  lanes := []
  run := 0

/-- A state that lists core 0 of die 0 twice: first with a task of function 1, which is the task that the core runs, and again with a task
of the PF, which nothing reads as the core's. The PF's queue holds a RESET of its own tasks. -/
def listedTwice : State := { State.reset with
  cores := [(⟨0, 0⟩, { Core.reset with task := some (freeTaskOf 1) }), (⟨0, 0⟩, { Core.reset with task := some (freeTaskOf 0) })]
  domain := { Domain.zero with
    stage := 5
    fns := Domain.zero.fns.set 0 { HostFn.zero with enable := true, logn := 4, cqtail := 1 }
    hostMem := [(0, 3)] } }

/-- The task that a core runs in the state that an outcome goes on to. -/
def taskThen (o : Out) (c : CoreId) : Option Task := match o with | .next t => (t.core c).task | _ => none

theorem task_listedTwice : (listedTwice.core ⟨0, 0⟩).task = some (freeTaskOf 1) := by decide
theorem fetchNext_listedTwice : listedTwice.fetchNext = some (0, 0) := by decide
theorem resetOver_listedTwice : listedTwice.resetOver = none := by decide
theorem commandOf_listedTwice : commandOf (listedTwice.entryBytes 0 0) = .resetFunction := by decide

/-- The RESET finds the core by its second entry, and ends the task that its first entry holds. -/
theorem taskThen_listedTwice : taskThen (exec .resetFunction listedTwice) ⟨0, 0⟩ = none := by decide

/-- Refutes O53: a RESET of function f is to leave every core's task of another function as it is, but the state may list a core twice.
The tasks to be ended are picked from the list, and ended on the cores that the list names: the task of function 1 ends with a RESET
of the PF. The counterexample is no state that the machine reaches, where each core is listed once; the statement does not ask for one. -/
theorem not_hostCommandsComplete : ¬ Obligations.HostCommandsComplete := by
  unfold Obligations.HostCommandsComplete
  rintro ⟨-, hcommands, -⟩
  obtain ⟨-, -, -, -, -, heffects⟩ := hcommands listedTwice 0 0 .resetFunction ⟨rfl, rfl, rfl⟩ fetchNext_listedTwice
    resetOver_listedTwice commandOf_listedTwice
  obtain ⟨-, -, hreset, -⟩ := heffects (.inl rfl) _ rfl
  obtain ⟨t, r, hexec, -, -, hothers, -⟩ := (hreset rfl (by decide)).2 (by decide)
  have hends := taskThen_listedTwice
  rw [hexec] at hends
  exact absurd (hends.symm.trans (hothers _ _ task_listedTwice (by decide))) (by decide)

end Sys2Proof.Machine
end

section
/-! PROOFS. The canonical form of the state's memories (R196, R199): what an operation has to show of it, and of an outcome. The lemmas are
tagged to rewrite from the outside in, so that each operation is peeled off before the state within it is looked at. -/

namespace Sys2Proof.Machine

open Sys2Proof

/-- The three memories of a state are in canonical form. -/
def Canonical (mem host staging : Mem) : Prop := mem.wf = true ∧ host.wf = true ∧ staging.wf = true

@[simp ↓] theorem State.memOk_mk (clock cur curCl arg ord seq ctr cores mem ledger poison soft agenda jobs holds raised walked away soon faultq
    modules flat scrubs sched chunks staging rings ports domain inputs) :
    (State.mk clock cur curCl arg ord seq ctr cores mem ledger poison soft agenda jobs holds raised walked away soon faultq
      modules flat scrubs sched chunks staging rings ports domain inputs).MemOk ↔ Canonical mem domain.hostMem staging := Iff.rfl
@[simp ↓] theorem canonical_iff_memOk (s : State) : Canonical s.mem s.domain.hostMem s.staging ↔ s.MemOk := Iff.rfl

@[simp ↓] theorem State.memOk_ite (p : Prop) [Decidable p] (s t : State) :
    (if p then s else t).MemOk ↔ (p → s.MemOk) ∧ (¬ p → t.MemOk) := by split <;> simp [*]

/-- A fold of steps that write no memory. -/
@[simp ↓] theorem memOk_foldl_iff {α : Type} (f : State → α → State) (h : ∀ t a, (f t a).MemOk ↔ t.MemOk) (l : List α) (s : State) :
    (l.foldl f s).MemOk ↔ s.MemOk := by
  induction l generalizing s with
  | nil => rfl
  | cons a l ih => rw [List.foldl_cons, ih, h]

/-- A fold of steps that keep the form. -/
@[simp ↓] theorem memOk_foldl {α : Type} (f : State → α → State) (h : ∀ t a, t.MemOk → (f t a).MemOk) (l : List α) {s : State}
    (hs : s.MemOk) : (l.foldl f s).MemOk := by
  induction l generalizing s with
  | nil => exact hs
  | cons a l ih => exact ih (h _ _ hs)

theorem State.MemOk.mem {s : State} (h : s.MemOk) : s.mem.wf = true := h.1

theorem State.MemOk.withMem {s : State} (h : s.MemOk) {m : Mem} (hm : m.wf = true) : ({ s with mem := m } : State).MemOk := ⟨hm, h.2⟩

@[simp ↓] theorem canonical_stored {s : State} (h : s.MemOk) (pa : Nat) (bs : List Byte) :
    Canonical (s.stored pa bs) s.domain.hostMem s.staging := ⟨s.stored_wf pa bs h.mem, h.2⟩

@[simp ↓] theorem canonical_filter {s : State} (h : s.MemOk) (p : Host.Cell → Bool) :
    Canonical (s.mem.filter p) s.domain.hostMem s.staging := ⟨Mem.filter_wf p h.mem, h.2⟩

@[simp ↓] theorem canonical_set {s : State} (h : s.MemOk) (k : Nat) (v : Byte) :
    Canonical (s.mem.set k v) s.domain.hostMem s.staging := ⟨Mem.set_wf k v h.mem, h.2⟩

/-- Where an outcome goes on, it goes on to a state whose memories are in canonical form. -/
def NextOk (o : Out) : Prop := ∀ t, o = .next t → t.MemOk

@[simp ↓] theorem nextOk_next (t : State) : NextOk (.next t) ↔ t.MemOk :=
  ⟨fun h => h t rfl, fun h u e => by cases e; exact h⟩

@[simp ↓] theorem nextOk_refused (r : Refusal) : NextOk (.refused r) := fun _ e => by cases e
@[simp ↓] theorem nextOk_fault (f : Fault) : NextOk (.fault f) := fun _ e => by cases e

@[simp ↓] theorem nextOk_ite (p : Prop) [Decidable p] (s t : Out) :
    NextOk (if p then s else t) ↔ (p → NextOk s) ∧ (¬ p → NextOk t) := by split <;> simp [*]

/-- What the result of a computation meets where it gives one. -/
def OkThen {ε α : Type} (P : α → Prop) (x : Except ε α) : Prop := ∀ a, x = .ok a → P a

section
variable {ε α β : Type} {P : α → Prop} {Q : β → Prop}

@[simp ↓] theorem OkThen.ok {a : α} (h : P a) : OkThen P (.ok a : Except ε α) := fun _ e => by cases e; exact h
@[simp ↓] theorem OkThen.pure {a : α} (h : P a) : OkThen P (pure a : Except ε α) := .ok h
@[simp ↓] theorem OkThen.error (e : ε) : OkThen P (.error e : Except ε α) := fun _ e => by cases e

theorem OkThen.bind {x : Except ε α} {f : α → Except ε β} (hx : OkThen P x) (hf : ∀ a, P a → OkThen Q (f a)) : OkThen Q (x >>= f) := by
  cases x with
  | error e => exact .error e
  | ok a => exact hf a (hx a rfl)

@[simp ↓] theorem OkThen.next {x : Except ε α} {f : α → Except ε β} (hf : ∀ a, OkThen Q (f a)) : OkThen Q (x >>= f) :=
  OkThen.bind (P := fun _ => True) (fun _ _ => trivial) fun a _ => hf a

/-- A step of a computation that a test may leave out. -/
theorem OkThen.opt {p : Prop} [Decidable p] {x : Except ε α} {a : α} {f : α → Except ε β} (hf : ∀ a, OkThen Q (f a)) :
    OkThen Q (if p then x >>= f else f a) := by
  split
  · exact .next hf
  · exact hf a

end

end Sys2Proof.Machine
end

section
/-! PROOFS. The rules of the state's shared operations: each keeps the memories in canonical form (R196, R199), one lemma an operation, by
which every later one peels its state outside in. -/

namespace Sys2Proof.Machine

open Sys2Proof

@[simp ↓] theorem State.memOk_setCore (s : State) (c v) : (s.setCore c v).MemOk ↔ s.MemOk := Iff.rfl
@[simp ↓] theorem State.memOk_modCore (s : State) (c f) : (s.modCore c f).MemOk ↔ s.MemOk := Iff.rfl
@[simp ↓] theorem State.memOk_bump (s : State) : s.bump.MemOk ↔ s.MemOk := Iff.rfl
@[simp ↓] theorem State.memOk_tick (s : State) : s.tick.MemOk ↔ s.MemOk := Iff.rfl
@[simp ↓] theorem State.memOk_pass (s : State) (d) : (s.pass d).MemOk ↔ s.MemOk := Iff.rfl
@[simp ↓] theorem State.memOk_schedule (s : State) (p) : (s.schedule p).MemOk ↔ s.MemOk := Iff.rfl
@[simp ↓] theorem State.memOk_scheduleDom (s : State) (owner d ev arg) : (s.scheduleDom owner d ev arg).MemOk ↔ s.MemOk := Iff.rfl

@[simp ↓] theorem State.memOk_reachesMember (s : State) (t owner ord d due pas) : (s.reachesMember t owner ord d due pas).MemOk ↔ s.MemOk :=
  Iff.rfl

@[simp ↓] theorem State.memOk_startHold (s : State) (reason kill origin cores rings) :
    (s.startHold reason kill origin cores rings).MemOk ↔ s.MemOk := by simp [State.startHold]

@[simp ↓] theorem State.memOk_rebase (s : State) (id) : (s.rebase id).MemOk ↔ s.MemOk := Iff.rfl
@[simp ↓] theorem State.memOk_discardInFlight (s : State) (id) : (s.discardInFlight id).MemOk ↔ s.MemOk := Iff.rfl

@[simp ↓] theorem State.memOk_modDomain (s : State) (f : Domain → Domain) (hf : (f s.domain).hostMem = s.domain.hostMem) :
    (s.modDomain f).MemOk ↔ s.MemOk := by
  simp only [State.MemOk, State.modDomain, hf]

@[simp ↓] theorem State.memOk_modFn (s : State) (f g) : (s.modFn f g).MemOk ↔ s.MemOk := Iff.rfl
@[simp ↓] theorem State.memOk_freeCore (s : State) (id) : (s.freeCore id).MemOk ↔ s.MemOk := Iff.rfl

@[simp ↓] theorem State.memOk_fatalEnd (s : State) (id cause) : (s.fatalEnd id cause).MemOk ↔ s.MemOk := by
  unfold State.fatalEnd
  split <;> simp

@[simp ↓] theorem State.memOk_takeTrap (s : State) (id cause tinfo pos) : (s.takeTrap id cause tinfo pos).MemOk ↔ s.MemOk := by
  dsimp only [State.takeTrap]
  repeat' split
  all_goals simp

@[simp ↓] theorem State.memOk_raise (s : State) (id cause tinfo pos) : (s.raise id cause tinfo pos).MemOk ↔ s.MemOk := by
  dsimp only [State.raise]
  simp

@[simp ↓] theorem State.memOk_correct (s : State) (pas) : (s.correct pas).MemOk ↔ s.MemOk := by simp [State.correct]

@[simp ↓] theorem State.memOk_noteRead (s : State) (id pas) : (s.noteRead id pas).MemOk ↔ s.MemOk := by
  dsimp only [State.noteRead]
  split <;> simp

@[simp ↓] theorem State.memOk_startWalk (s : State) (id w) : (s.startWalk id w).MemOk ↔ s.MemOk := Iff.rfl
@[simp ↓] theorem State.memOk_setWalkInfo (s : State) (id level reason) : (s.setWalkInfo id level reason).MemOk ↔ s.MemOk := Iff.rfl

@[simp ↓] theorem State.memOk_stopIssue {s : State} (h : s.MemOk) (cl st) : NextOk (s.stopIssue cl st) := by
  unfold State.stopIssue
  split <;> simp [h]

@[simp ↓] theorem State.memOk_stopAtDue (s : State) (id cause tinfo) : (s.stopAtDue id cause tinfo).MemOk ↔ s.MemOk := by
  simp [State.stopAtDue]

@[simp ↓] theorem State.memOk_commit (s : State) (cl o) : (s.commit cl o).MemOk ↔ s.MemOk := by
  dsimp only [State.commit]
  repeat' split
  all_goals simp

/-- An issue or a stop of it: neither writes a byte, whatever the instruction is. -/
theorem memOk_issue {s : State} (h : s.MemOk) (cl f) : NextOk (issue cl f s) := by
  unfold issue
  split
  · exact State.memOk_stopIssue h _ _
  · split
    · exact State.memOk_stopIssue h _ _
    · simp [h]

@[simp ↓] theorem State.memOk_writeByteAs {s : State} (h : s.MemOk) (c atom w) : (s.writeByteAs c atom w).MemOk := by
  unfold State.writeByteAs
  split <;> simp [h]

@[simp ↓] theorem State.memOk_freshen (s : State) (ws) : (s.freshen ws).MemOk ↔ s.MemOk := Iff.rfl

@[simp ↓] theorem State.memOk_writeAs {s : State} (h : s.MemOk) (c ws) : (s.writeAs c ws).MemOk :=
  memOk_foldl _ (fun _ w ht => memOk_writeByteAs ht c false w) ws h

@[simp ↓] theorem State.memOk_writeAtomAs {s : State} (h : s.MemOk) (c ws) : (s.writeAtomAs c ws).MemOk :=
  memOk_foldl _ (fun _ w ht => memOk_writeByteAs ht c true w) ws h

@[simp ↓] theorem State.memOk_poke {s : State} (h : s.MemOk) (pa bs) : (s.poke pa bs).MemOk := h.withMem (s.stored_wf pa bs h.mem)
@[simp ↓] theorem State.memOk_reveal (s : State) (c p) : (s.reveal c p).MemOk ↔ s.MemOk := Iff.rfl
@[simp ↓] theorem State.memOk_fence (s : State) (c sc) : (s.fence c sc).MemOk ↔ s.MemOk := Iff.rfl

end Sys2Proof.Machine
end

section
/-! PROOFS. What performs in memory: short parcels, accesses, walks, atomics, sync objects and fences (R104, R173, R207, R214 to R226). -/

namespace Sys2Proof.Machine

open Sys2Proof

theorem memOk_execVpack {s : State} (h : s.MemOk) (vd p fmt rm dst q a b c) : NextOk (execVpack vd p fmt rm dst q a b c s) := by
  unfold execVpack
  split <;> exact memOk_issue h _ _

theorem memOk_execShortParcel {s : State} (h : s.MemOk) (m v cl) : NextOk (execShortParcel m v cl s) := by
  dsimp only [execShortParcel]
  repeat' split
  all_goals simp [h]

theorem memOk_execMouldEntryWrite {s : State} (h : s.MemOk) : NextOk (execMouldEntryWrite s) := by
  dsimp only [execMouldEntryWrite]
  repeat' split
  all_goals simp [h]

@[simp ↓] theorem State.memOk_stepLater (s : State) (ifq ord d pas ev arg) : (s.stepLater ifq ord d pas ev arg).MemOk ↔ s.MemOk := by
  unfold State.stepLater
  split <;> simp

@[simp ↓] theorem State.memOk_leaveBuffer (s : State) (o) : (s.leaveBuffer o).MemOk ↔ s.MemOk := by
  unfold State.leaveBuffer
  split <;> simp

@[simp ↓] theorem State.memOk_unbuffer (s : State) (pas) : (s.unbuffer pas).MemOk ↔ s.MemOk := by
  unfold State.unbuffer
  split <;> simp

@[simp ↓] theorem State.memOk_eccStop (s : State) (e pos) : (s.eccStop e pos).MemOk ↔ s.MemOk := by simp [State.eccStop]

@[simp ↓] theorem State.memOk_mergeNibble {s0 : State} (h : s0.MemOk) (e hi v) : (s0.mergeNibble e hi v).MemOk := by
  simp [State.mergeNibble, h]

@[simp ↓] theorem State.memOk_loadArrives (s : State) (a bs) : (s.loadArrives a bs).MemOk ↔ s.MemOk := by
  unfold State.loadArrives
  split <;> simp

@[simp ↓] theorem State.memOk_arrives (s : State) (ev arg) {now : State → State} (hnow : (now s).MemOk ↔ s.MemOk) :
    (s.arrives ev arg now).MemOk ↔ s.MemOk := by
  unfold State.arrives
  split
  · rfl
  · exact hnow

theorem memOk_execAccessPerform {s : State} (h : s.MemOk) : NextOk (execAccessPerform s) := by
  dsimp only [execAccessPerform]
  repeat' split
  all_goals simp +contextual [h]

theorem memOk_execTranslationWalkEnd {s0 : State} (h : s0.MemOk) : NextOk (execTranslationWalkEnd s0) := by
  dsimp only [execTranslationWalkEnd]
  repeat' split
  all_goals simp [h]

theorem memOk_execAtomicPerform {s : State} (h : s.MemOk) : NextOk (execAtomicPerform s) := by
  dsimp only [execAtomicPerform]
  repeat' split
  all_goals simp [h]

theorem memOk_execAhistPerform {s : State} (h : s.MemOk) : NextOk (execAhistPerform s) := by
  dsimp only [execAhistPerform]
  repeat' split
  all_goals simp +contextual [h]

@[simp ↓] theorem State.memOk_putSync {s : State} (hs : s.MemOk) (pa g h) : (s.putSync pa g h).MemOk := hs.withMem (s.stored_wf _ _ hs.mem)
@[simp ↓] theorem State.memOk_acquire {s : State} (h : s.MemOk) (id pa o) : (s.acquire id pa o).MemOk := by simp [State.acquire, h]
@[simp ↓] theorem State.memOk_syncStop (s : State) (va pos) : (s.syncStop va pos).MemOk ↔ s.MemOk := by simp [State.syncStop]

theorem memOk_execAcqPerform {s : State} (h : s.MemOk) : NextOk (execAcqPerform s) := by
  dsimp only [execAcqPerform]
  repeat' split
  all_goals simp [h]

theorem memOk_execAcqSuccess {s : State} (h : s.MemOk) : NextOk (execAcqSuccess s) := by
  dsimp only [execAcqSuccess]
  repeat' split
  all_goals simp [h]

theorem memOk_execTryacqPerform {s : State} (h : s.MemOk) : NextOk (execTryacqPerform s) := by
  dsimp only [execTryacqPerform]
  repeat' split
  all_goals simp [h]

theorem memOk_execReleasePoint {s : State} (h : s.MemOk) : NextOk (execReleasePoint s) := by
  dsimp only [execReleasePoint]
  repeat' split
  all_goals simp [h]

theorem memOk_execSobindPerform {s : State} (h : s.MemOk) : NextOk (execSobindPerform s) := by
  dsimp only [execSobindPerform]
  repeat' split
  all_goals simp [h]

theorem memOk_execFenceComplete {s : State} (h : s.MemOk) : NextOk (execFenceComplete s) := by
  unfold execFenceComplete
  split <;> simp [h]

theorem memOk_execLandingBufferArrival {s : State} (h : s.MemOk) : NextOk (execLandingBufferArrival s) := by
  unfold execLandingBufferArrival
  split <;> simp [h]

end Sys2Proof.Machine
end

section
/-! PROOFS. The engines' reads, the wakes and the copies (R231 to R243). -/

namespace Sys2Proof.Machine

open Sys2Proof

@[simp ↓] theorem State.memOk_setJob (s : State) (j) : (s.setJob j).MemOk ↔ s.MemOk := Iff.rfl
@[simp ↓] theorem State.memOk_modJob (s : State) (id f) : (s.modJob id f).MemOk ↔ s.MemOk := Iff.rfl
@[simp ↓] theorem State.memOk_dropJob (s : State) (id) : (s.dropJob id).MemOk ↔ s.MemOk := Iff.rfl

@[simp ↓] theorem State.memOk_chain (s : State) (j v d pas ev arg) : (s.chain j v d pas ev arg).MemOk ↔ s.MemOk := by
  dsimp only [State.chain]
  repeat' split
  all_goals simp

@[simp ↓] theorem State.memOk_chainIn (s : State) (j d pas ev arg) : (s.chainIn j d pas ev arg).MemOk ↔ s.MemOk := by simp [State.chainIn]

@[simp ↓] theorem State.memOk_engineRead (s : State) (j va pas pos) : (s.engineRead j va pas pos).2.MemOk ↔ s.MemOk := by
  dsimp only [State.engineRead]
  repeat' split
  all_goals simp

@[simp ↓] theorem State.memOk_engineReadPa (s : State) (j atom pas pos) : (s.engineReadPa j atom pas pos).2.MemOk ↔ s.MemOk := by
  dsimp only [State.engineReadPa]
  repeat' split
  all_goals simp

@[simp ↓] theorem State.memOk_engineWalk (s : State) (job ev w) : (s.engineWalk job ev w).MemOk ↔ s.MemOk := by
  dsimp only [State.engineWalk]
  split <;> simp

@[simp ↓] theorem State.memOk_requeue (s : State) : s.requeue.MemOk ↔ s.MemOk := by
  dsimp only [State.requeue]
  split <;> simp

theorem memOk_execMarkerRetire {s : State} (h : s.MemOk) : NextOk (execMarkerRetire s) := by
  unfold execMarkerRetire
  split <;> simp [h]

@[simp ↓] theorem State.memOk_wake (s : State) (check) : (s.wake check).MemOk ↔ s.MemOk := Iff.rfl

theorem memOk_execSleepuWake {s : State} (h : s.MemOk) : NextOk (execSleepuWake s) := by
  unfold execSleepuWake
  split <;> simp [h]

theorem memOk_execWaitfWake {s : State} (h : s.MemOk) : NextOk (execWaitfWake s) := by
  unfold execWaitfWake
  split <;> simp [h]

theorem memOk_execRdvwWake {s : State} (h : s.MemOk) : NextOk (execRdvwWake s) := by
  unfold execRdvwWake
  split <;> simp [h]

theorem memOk_execCopyBeatRead {s : State} (h : s.MemOk) : NextOk (execCopyBeatRead s) := by
  dsimp only [execCopyBeatRead]
  repeat' split
  all_goals simp [h]

theorem memOk_execCopyBeatWrite {s : State} (h : s.MemOk) : NextOk (execCopyBeatWrite s) := by
  dsimp only [execCopyBeatWrite]
  repeat' split
  all_goals simp [h]

theorem memOk_execCopyComplete {s : State} (h : s.MemOk) : NextOk (execCopyComplete s) := by
  dsimp only [execCopyComplete]
  repeat' split
  all_goals simp [h]

theorem memOk_execCwaitWake {s : State} (h : s.MemOk) : NextOk (execCwaitWake s) := by
  unfold execCwaitWake
  split <;> simp [h]

@[simp ↓] theorem State.memOk_integrityCheck (s : State) (id) : (s.integrityCheck id).MemOk ↔ s.MemOk := by
  unfold State.integrityCheck
  split <;> simp

@[simp ↓] theorem State.memOk_askedStop (s : State) (id kind v) : (s.askedStop id kind v).MemOk ↔ s.MemOk := by simp [State.askedStop]

@[simp ↓] theorem State.memOk_copyCheck (s : State) (id kind v) : (s.copyCheck id kind v).MemOk ↔ s.MemOk := by
  unfold State.copyCheck
  split <;> simp

end Sys2Proof.Machine
end

section
/-! PROOFS. The matrix unit (R245 to R266). -/

namespace Sys2Proof.Machine

open Sys2Proof

theorem memOk_execFormatQueueEntry {s : State} (h : s.MemOk) : NextOk (execFormatQueueEntry s) := by
  unfold execFormatQueueEntry
  split <;> simp [h]

@[simp ↓] theorem State.memOk_matrixStop (s : State) (cause tinfo row) : (s.matrixStop cause tinfo row).MemOk ↔ s.MemOk := by
  simp [State.matrixStop]

theorem memOk_execMatrixCommandStart {s : State} (h : s.MemOk) : NextOk (execMatrixCommandStart s) := by
  dsimp only [execMatrixCommandStart]
  repeat' split
  all_goals simp [h]

@[simp ↓] theorem State.memOk_matrixLater (s : State) (ord d pas ev arg) : (s.matrixLater ord d pas ev arg).MemOk ↔ s.MemOk := by
  simp [State.matrixLater]

@[simp ↓] theorem State.memOk_blockIssue {s : State} (h : s.MemOk) (k j) : NextOk (s.blockIssue k j) := by
  dsimp only [State.blockIssue]
  split <;> simp [h]

@[simp ↓] theorem State.memOk_modCmd (s : State) (uid g) : (s.modCmd uid g).MemOk ↔ s.MemOk := Iff.rfl

@[simp ↓] theorem State.memOk_blockRead (s : State) (k o) : (s.blockRead k o).MemOk ↔ s.MemOk := by
  dsimp only [State.blockRead]
  repeat' split
  all_goals simp

theorem memOk_execMatrixBlockRead {s : State} (h : s.MemOk) : NextOk (execMatrixBlockRead s) := by
  dsimp only [execMatrixBlockRead]
  repeat' split
  all_goals simp [h]

theorem memOk_execMatrixBlockAdd {s : State} (h : s.MemOk) : NextOk (execMatrixBlockAdd s) := by
  dsimp only [execMatrixBlockAdd]
  repeat' split
  all_goals simp [h]

theorem memOk_execMatrixScoreStep {s : State} (h : s.MemOk) : NextOk (execMatrixScoreStep s) := by
  dsimp only [execMatrixScoreStep]
  repeat' split
  all_goals simp [h]

@[simp ↓] theorem State.memOk_sideRead (s : State) (r d ev) : (s.sideRead r d ev).MemOk ↔ s.MemOk := by
  unfold State.sideRead
  split <;> simp

theorem memOk_execMsideLoadWrite {s : State} (h : s.MemOk) : NextOk (execMsideLoadWrite s) := by
  unfold execMsideLoadWrite
  split <;> simp [h]

theorem memOk_execMrscWrite {s : State} (h : s.MemOk) : NextOk (execMrscWrite s) := by
  unfold execMrscWrite
  split <;> simp [h]

end Sys2Proof.Machine
end

section
/-! PROOFS. Pages and attention (R159, R160, R267 to R282). -/

namespace Sys2Proof.Machine

open Sys2Proof

@[simp ↓] theorem State.memOk_writeAnchor {s : State} (h : s.MemOk) (id pa bs) : (s.writeAnchor id pa bs).MemOk := by
  simp [State.writeAnchor, h]

theorem memOk_execPageEntryRead {s : State} (h : s.MemOk) : NextOk (execPageEntryRead s) := by
  dsimp only [execPageEntryRead]
  repeat' split
  all_goals simp [h]

@[simp ↓] theorem State.memOk_pageStop (s : State) (job k cause j anchor) : (s.pageStop job k cause j anchor).MemOk ↔ s.MemOk := by
  dsimp only [State.pageStop]
  split <;> simp

@[simp ↓] theorem State.memOk_pageEnd (s : State) (job k j) : (s.pageEnd job k j).MemOk ↔ s.MemOk := by
  dsimp only [State.pageEnd]
  repeat' split
  all_goals simp

theorem memOk_execPageEntryApply {s : State} (h : s.MemOk) : NextOk (execPageEntryApply s) := by
  have hanchor : ∀ job pas pos id pa bs, ((s.engineReadPa job true pas pos).2.writeAnchor id pa bs).MemOk := by simp [h]
  dsimp only [execPageEntryApply]
  repeat' split
  all_goals simp [h, hanchor]

theorem memOk_execKmapWrite {s : State} (h : s.MemOk) : NextOk (execKmapWrite s) := by
  have hsealed : ∀ o ws id pa bs, ((s.writeAs o ws).writeAnchor id pa bs).MemOk := by simp [h]
  dsimp only [execKmapWrite]
  repeat' split
  all_goals simp [h, hsealed]

@[simp ↓] theorem State.memOk_ldqkStop (s : State) (r cause) : (s.ldqkStop r cause).MemOk ↔ s.MemOk := by simp [State.ldqkStop]

theorem memOk_execLdqkEntryRead {s : State} (h : s.MemOk) : NextOk (execLdqkEntryRead s) := by
  dsimp only [execLdqkEntryRead]
  repeat' split
  all_goals simp [h]

@[simp ↓] theorem State.memOk_putAttn (s : State) (job k) : (s.putAttn job k).MemOk ↔ s.MemOk := Iff.rfl
@[simp ↓] theorem State.memOk_attnGo (s : State) (job d ev j pas) : (s.attnGo job d ev j pas).MemOk ↔ s.MemOk := by simp [State.attnGo]

theorem memOk_execAttnStart {s : State} (h : s.MemOk) : NextOk (execAttnStart s) := by
  unfold execAttnStart
  split <;> simp [h]

@[simp ↓] theorem State.memOk_toEntry (s : State) (job k d j) : (s.toEntry job k d j).MemOk ↔ s.MemOk := by
  unfold State.toEntry
  split <;> simp

@[simp ↓] theorem State.memOk_toPage (s : State) (job k d j) : (s.toPage job k d j).MemOk ↔ s.MemOk := by
  unfold State.toPage
  split <;> simp

@[simp ↓] theorem State.memOk_toSignature (s : State) (job k d j) : (s.toSignature job k d j).MemOk ↔ s.MemOk := by
  unfold State.toSignature
  split <;> simp

@[simp ↓] theorem State.memOk_walkTold (s : State) (id) : (s.walkTold id).MemOk ↔ s.MemOk := Iff.rfl

@[simp ↓] theorem State.memOk_attnTry {s : State} (h : s.MemOk) (job k j ev) {r : Except (Nat ⊕ Walk) (State × AttnJob)}
    (hr : OkThen (fun p => p.1.MemOk) r) : (s.attnTry job k j ev r).MemOk := by
  unfold State.attnTry
  split
  · next t k1 => simpa using hr _ rfl
  · simp [h]
  · simp [h]

theorem memOk_execAttnBlockRead {s : State} (h : s.MemOk) : NextOk (execAttnBlockRead s) := by
  unfold execAttnBlockRead
  split <;> simp [h]

theorem State.memOk_attnOperands {s : State} (h : s.MemOk) (job k) : OkThen (fun p => p.1.MemOk) (s.attnOperands job k) := by
  dsimp only [State.attnOperands]
  exact .next fun q => .next fun om => .opt fun pj => .opt fun ti => .next fun out => .opt fun tr => .ok (by simp [h])

theorem State.memOk_attnEntry {s : State} (h : s.MemOk) (job k j) : OkThen (fun p => p.1.MemOk) (s.attnEntry job k j) := by
  dsimp only [State.attnEntry]
  exact .next fun segs => .ok (by simp [h])

theorem memOk_execAttnOperandRead {s : State} (h : s.MemOk) : NextOk (execAttnOperandRead s) := by
  dsimp only [execAttnOperandRead]
  split
  · simp
  · next job k j _ =>
    have htry := State.memOk_attnTry h job k 0 .attnOperandRead (State.memOk_attnOperands h job k)
    simp [h, htry]

theorem memOk_execAttnEntryRead {s : State} (h : s.MemOk) : NextOk (execAttnEntryRead s) := by
  dsimp only [execAttnEntryRead]
  split
  · simp
  · next job k j _ =>
    have htry := State.memOk_attnTry h job k j .attnEntryRead (State.memOk_attnEntry h job k j)
    simp [h, htry]

theorem memOk_execAttnBitmapRead {s : State} (h : s.MemOk) : NextOk (execAttnBitmapRead s) := by
  dsimp only [execAttnBitmapRead]
  split
  · simp
  · split
    · simp [h]
    · rw [nextOk_next, State.memOk_ite, State.memOk_toSignature]
      constructor <;> exact fun _ => State.memOk_attnTry h _ _ _ _ (.next fun _ => .ok (by simp [h]))

theorem memOk_execAttnSignatureRead {s : State} (h : s.MemOk) : NextOk (execAttnSignatureRead s) := by
  unfold execAttnSignatureRead
  split <;> simp [h]

theorem memOk_execAttnPageRead {s : State} (h : s.MemOk) : NextOk (execAttnPageRead s) := by
  unfold execAttnPageRead
  split
  · simp
  · dsimp only
    split <;> simp only [nextOk_next, State.memOk_toPage, State.memOk_putAttn, State.memOk_engineReadPa, h]

@[simp ↓] theorem State.memOk_attnRelease (s : State) (die engine) : (s.attnRelease die engine).MemOk ↔ s.MemOk := by
  dsimp only [State.attnRelease]
  repeat' split
  all_goals simp

theorem memOk_execAttnComplete {s : State} (h : s.MemOk) : NextOk (execAttnComplete s) := by
  unfold execAttnComplete
  split <;> simp [h]

end Sys2Proof.Machine
end

section
/-! PROOFS. Cast requests (R283 to R296). -/

namespace Sys2Proof.Machine

open Sys2Proof

@[simp ↓] theorem State.memOk_castView (s : State) (job) : (s.castView job).MemOk ↔ s.MemOk := Iff.rfl

theorem memOk_execCstatWake {s : State} (h : s.MemOk) : NextOk (execCstatWake s) := by
  dsimp only [execCstatWake]
  repeat' split
  all_goals simp [h]

theorem State.memOk_castStep {s : State} (h : s.MemOk) (ev f) : NextOk (s.castStep ev f) := by
  dsimp only [State.castStep]
  repeat' split
  all_goals simp [h]

theorem memOk_execCastRequestStart {s : State} (h : s.MemOk) : NextOk (execCastRequestStart s) := by
  unfold execCastRequestStart
  split <;> simp [h]

theorem memOk_execCastStartStep {s : State} (h : s.MemOk) : NextOk (execCastStartStep s) := State.memOk_castStep h _ _
theorem memOk_execCastChunkStep {s : State} (h : s.MemOk) : NextOk (execCastChunkStep s) := State.memOk_castStep h _ _
theorem memOk_execCastProbeStep {s : State} (h : s.MemOk) : NextOk (execCastProbeStep s) := State.memOk_castStep h _ _
theorem memOk_execCastConfirmStep {s : State} (h : s.MemOk) : NextOk (execCastConfirmStep s) := State.memOk_castStep h _ _
theorem memOk_execCastAllocateStep {s : State} (h : s.MemOk) : NextOk (execCastAllocateStep s) := State.memOk_castStep h _ _
theorem memOk_execCastEvictStep {s : State} (h : s.MemOk) : NextOk (execCastEvictStep s) := State.memOk_castStep h _ _
theorem memOk_execCastDepositStep {s : State} (h : s.MemOk) : NextOk (execCastDepositStep s) := State.memOk_castStep h _ _
@[simp ↓] theorem State.memOk_castApply {s : State} (h : s.MemOk) (owner k) : (s.castApply owner k).MemOk := by simp [State.castApply, h]

@[simp ↓] theorem State.memOk_castHeaderWrite {s : State} (h : s.MemOk) (owner k) : (s.castHeaderWrite owner k).MemOk := by
  unfold State.castHeaderWrite
  repeat' split
  · exact memOk_foldl _ (fun _ _ ht => memOk_poke ht _ _) _ h
  · exact h
  · exact h

@[simp ↓] theorem State.memOk_castSlotSeen (s : State) (job k held) : (s.castSlotSeen job k held).MemOk ↔ s.MemOk := by
  dsimp only [State.castSlotSeen]
  repeat' split
  all_goals simp

@[simp ↓] theorem State.memOk_castDrop {s : State} (h : s.MemOk) (job k d) : (s.castDrop job k d).1.MemOk := by
  dsimp only [State.castDrop]
  split <;> simp [h]

@[simp ↓] theorem State.memOk_castDeposit {s : State} (h : s.MemOk) (job k) : (s.castDeposit job k).1.MemOk := by
  dsimp only [State.castDeposit]
  repeat' split
  · exact h
  · exact h
  · exact memOk_foldl _ (fun _ _ ht => State.memOk_writeAnchor ht _ _ _) _ h
  · exact memOk_foldl _ (fun _ _ ht => State.memOk_writeAnchor ht _ _ _) _ h

@[simp ↓] theorem memOk_castResult {s : State} (h : s.MemOk) (job k word) : (castResult s job k word).MemOk := by
  unfold castResult
  split <;> simp [h]

@[simp ↓] theorem State.memOk_castRelease (s : State) (die) : (s.castRelease die).MemOk ↔ s.MemOk := by
  dsimp only [State.castRelease]
  repeat' split
  all_goals simp

/-- The anchors that a request drops, one after the other. -/
theorem memOk_castDrops (job : Job) (ds : List (Nat × Nat)) {p : State × CastJob} (h : p.1.MemOk) :
    (ds.foldl (fun (p : State × CastJob) d => p.1.castDrop job p.2 d) p).1.MemOk := by
  induction ds generalizing p with
  | nil => exact h
  | cons d ds ih => exact ih (State.memOk_castDrop h ..)

/-- What a request writes where it finishes. -/
theorem memOk_castWrites {s : State} (h : s.MemOk) (job k held word) :
    (castResult (((s.castApply job.owner k).castHeaderWrite job.owner k).castSlotSeen job k held) job k word).MemOk :=
  memOk_castResult ((State.memOk_castSlotSeen ..).mpr (State.memOk_castHeaderWrite (State.memOk_castApply h ..) ..)) ..

theorem memOk_execCastRequestFinish {s : State} (h : s.MemOk) : NextOk (execCastRequestFinish s) := by
  unfold execCastRequestFinish
  split
  · simp
  · next job k _ =>
    extract_lets ancs s0 job'
    have h0 : s0.MemOk := by simp [s0, h]
    have hdrops := memOk_castDrops job' k.dropped (p := (s0, k)) h0
    dsimp only
    simp [memOk_castWrites, State.memOk_castDeposit hdrops]

end Sys2Proof.Machine
end

section
/-! PROOFS. Landings, joined groups, traps and holds (R123, R304 to R321). -/

namespace Sys2Proof.Machine

open Sys2Proof

theorem memOk_execResultLanding {s : State} (h : s.MemOk) : NextOk (execResultLanding s) := by
  unfold execResultLanding
  split <;> simp [h]

theorem memOk_execChannelEntryLanding {s : State} (h : s.MemOk) : NextOk (execChannelEntryLanding s) := by
  unfold execChannelEntryLanding
  split <;> simp [h]

theorem memOk_execJoinedGroupStart {s0 : State} (h : s0.MemOk) : NextOk (execJoinedGroupStart s0) := by
  dsimp only [execJoinedGroupStart]
  repeat' split
  all_goals simp [h]

@[simp ↓] theorem State.memOk_postWord (s : State) (fn owner w) : (s.postWord fn owner w).MemOk ↔ s.MemOk := Iff.rfl
@[simp ↓] theorem State.memOk_post (s : State) (fn code c data) : (s.post fn code c data).MemOk ↔ s.MemOk := Iff.rfl
@[simp ↓] theorem State.memOk_reportStop (s : State) (id y) : (s.reportStop id y).MemOk ↔ s.MemOk := Iff.rfl
@[simp ↓] theorem State.memOk_dropReports (s : State) (id) : (s.dropReports id).MemOk ↔ s.MemOk := Iff.rfl

@[simp ↓] theorem State.memOk_resumeTrap (s : State) (id old) : (s.resumeTrap id old).MemOk ↔ s.MemOk := by
  dsimp only [State.resumeTrap]
  repeat' split
  all_goals simp

@[simp ↓] theorem State.memOk_release (s : State) (origin h) : (s.release origin h).MemOk ↔ s.MemOk := by
  unfold State.release
  split <;> simp

@[simp ↓] theorem State.memOk_goOn (s : State) (id old) : (s.goOn id old).MemOk ↔ s.MemOk := by simp [State.goOn]
@[simp ↓] theorem State.memOk_goOnDue (s : State) (id) : (s.goOnDue id).MemOk ↔ s.MemOk := by simp [State.goOnDue]

@[simp ↓] theorem State.memOk_endTrapped (s : State) (id code) : (s.endTrapped id code).MemOk ↔ s.MemOk := by
  dsimp only [State.endTrapped]
  split <;> simp

theorem State.memOk_endHandlerAt {s : State} (h : s.MemOk) (a name) : NextOk (s.endHandlerAt a name) := by
  unfold State.endHandlerAt
  split <;> simp [h]

theorem memOk_execTctlResume {s : State} (h : s.MemOk) : NextOk (execTctlResume s) := State.memOk_endHandlerAt h _ _
theorem memOk_execTctlEnd {s : State} (h : s.MemOk) : NextOk (execTctlEnd s) := State.memOk_endHandlerAt h _ _

theorem memOk_execHandlerModeEnd {s : State} (h : s.MemOk) : NextOk (execHandlerModeEnd s) := by
  dsimp only [execHandlerModeEnd]
  split <;> simp [h]

@[simp ↓] theorem State.memOk_forkOn {s : State} (h : s.MemOk) (job k sat js) : (s.forkOn job k sat js).1.MemOk := by
  induction js generalizing s with
  | nil => exact h
  | cons j js ih =>
    have hput : ∀ {t : State}, t.MemOk → ∀ es : List (Nat × Byte), (es.foldl (fun (t : State) p => t.poke p.1 [p.2]) t).MemOk := fun ht es =>
      memOk_foldl _ (fun _ _ hu => State.memOk_poke hu _ _) es ht
    unfold State.forkOn
    extract_lets met bs e
    dsimp only
    repeat' split
    · exact h
    · exact h
    · exact ih (hput (State.memOk_poke (State.memOk_poke ((State.memOk_modDomain s.tick _ rfl).mpr h) _ _) _ _) _)
    · exact ih (hput (State.memOk_poke h _ _) _)

theorem memOk_execSupervisorDisposition {s : State} (h : s.MemOk) : NextOk (execSupervisorDisposition s) := by
  dsimp only [execSupervisorDisposition]
  repeat' split
  all_goals simp [h]

@[simp ↓] theorem State.memOk_modMember (s : State) (m f) : (s.modMember m f).MemOk ↔ s.MemOk := Iff.rfl
@[simp ↓] theorem State.memOk_modRing (s : State) (r f) : (s.modRing r f).MemOk ↔ s.MemOk := Iff.rfl

theorem memOk_execHoldReachesMember {s : State} (h : s.MemOk) : NextOk (execHoldReachesMember s) := by
  dsimp only [execHoldReachesMember]
  repeat' split
  all_goals simp [h]

theorem memOk_execReleaseStart {s : State} (h : s.MemOk) : NextOk (execReleaseStart s) := by
  dsimp only [execReleaseStart]
  repeat' split
  all_goals simp [h]

@[simp ↓] theorem State.memOk_forgetHold (s : State) (hid) : (s.forgetHold hid).MemOk ↔ s.MemOk := by
  unfold State.forgetHold
  split <;> simp

theorem memOk_execReleaseReachesMember {s : State} (h : s.MemOk) : NextOk (execReleaseReachesMember s) := by
  dsimp only [execReleaseReachesMember]
  repeat' split
  all_goals simp [h]

theorem memOk_execDeadline {s : State} (h : s.MemOk) : NextOk (execDeadline s) := by
  unfold execDeadline
  split <;> simp [h]

end Sys2Proof.Machine
end

section
/-! PROOFS. The scheduler's state, and the work that follows in a cycle (R183 to R195). -/

namespace Sys2Proof.Machine

open Sys2Proof

@[simp ↓] theorem State.memOk_schedFix (s : State) (die va n) : (s.schedFix die va n).MemOk ↔ s.MemOk := by
  unfold State.schedFix
  split <;> simp

@[simp ↓] theorem State.memOk_putNodeState {s : State} (h : s.MemOk) (n st pending) : (s.putNodeState n st pending).MemOk := by
  simp [State.putNodeState, h]

@[simp ↓] theorem State.memOk_modSched (s : State) (f) : (s.modSched f).MemOk ↔ s.MemOk := Iff.rfl

@[simp ↓] theorem State.memOk_setFrozen {s : State} (h : s.MemOk) (die va b) : (s.setFrozen die va b).MemOk := by
  unfold State.setFrozen
  split <;> simp [h]

@[simp ↓] theorem State.memOk_fixNode (s : State) (r) : (s.fixNode r).MemOk ↔ s.MemOk := by
  dsimp only [State.fixNode]
  split <;> simp

@[simp ↓] theorem State.memOk_evaluate {s : State} (h : s.MemOk) (r n) : (s.evaluate r n).MemOk := by simp [State.evaluate, h]

@[simp ↓] theorem State.memOk_withdraw (s : State) (cores) : (s.withdraw cores).MemOk ↔ s.MemOk :=
  memOk_foldl_iff _ (fun t c => by split <;> rfl) cores s

@[simp ↓] theorem State.memOk_unready (s : State) (r) : (s.unready r).MemOk ↔ s.MemOk := by simp [State.unready]
@[simp ↓] theorem State.memOk_unqueue (s : State) (r) : (s.unqueue r).MemOk ↔ s.MemOk := by simp [State.unqueue]

@[simp ↓] theorem State.memOk_rearm {s : State} (h : s.MemOk) (rs) : (s.rearm rs).MemOk :=
  memOk_foldl _ (fun t r ht => by split <;> simp [ht]) rs h

@[simp ↓] theorem State.memOk_enterNode {s : State} (h : s.MemOk) (r n) : (s.enterNode r n).1.MemOk := by
  dsimp only [State.enterNode]
  repeat' split
  all_goals simp [h]

@[simp ↓] theorem State.memOk_readyNode {s : State} (h : s.MemOk) (r) : (s.readyNode r).1.MemOk := by
  dsimp only [State.readyNode]
  repeat' split
  all_goals simp [h]

@[simp ↓] theorem State.memOk_fenceNode (s : State) (cores) : (s.fenceNode cores).MemOk ↔ s.MemOk := by simp [State.fenceNode]
@[simp ↓] theorem State.memOk_startNode (s : State) (r c) : (s.startNode r c).MemOk ↔ s.MemOk := Iff.rfl

@[simp ↓] theorem State.memOk_skipNode {s : State} (h : s.MemOk) (r) : (s.skipNode r).1.MemOk := by
  unfold State.skipNode
  split <;> simp [h]

@[simp ↓] theorem State.memOk_releaseNode {s : State} (h : s.MemOk) (r from_ live) : (s.releaseNode r from_ live).1.MemOk := by
  dsimp only [State.releaseNode]
  repeat' split
  all_goals simp [h]

@[simp ↓] theorem State.memOk_doneNode {s : State} (h : s.MemOk) (r v sel) : (s.doneNode r v sel).1.MemOk := by
  unfold State.doneNode
  split <;> simp [h]

@[simp ↓] theorem State.memOk_faultNode {s : State} (h : s.MemOk) (r f) : (s.faultNode r f).1.MemOk := by
  dsimp only [State.faultNode]
  split
  · simp [h]
  · next n _ =>
    have hword := memOk_poke (memOk_putNodeState h n 6 n.pending) (n.pa + 0x58) (leBytes f.word 8)
    simp [hword]

@[simp ↓] theorem State.memOk_pullNode (s : State) (die) : (s.pullNode die).1.MemOk ↔ s.MemOk := by
  dsimp only [State.pullNode]
  repeat' split
  all_goals simp

@[simp ↓] theorem State.memOk_workStep {s : State} (h : s.MemOk) (u) : (s.workStep u).1.MemOk := by
  dsimp only [State.workStep]
  repeat' split
  all_goals simp [h]

@[simp ↓] theorem State.memOk_work {s : State} (h : s.MemOk) (fuel ws) : (s.work fuel ws).MemOk := by
  induction fuel generalizing s ws with
  | zero => exact h
  | succ fuel ih =>
    cases ws with
    | nil => exact h
    | cons w ws => exact ih (State.memOk_workStep h w) _

@[simp ↓] theorem State.memOk_doWork {s : State} (h : s.MemOk) (ws) : (s.doWork ws).MemOk := State.memOk_work h _ ws

end Sys2Proof.Machine
end

section
/-! PROOFS. Launches, dispatch, the ends of tasks, frames, placements and the error token (R176 to R195, R333). -/

namespace Sys2Proof.Machine

open Sys2Proof

@[simp ↓] theorem State.memOk_rearmAll {s : State} (hs : s.MemOk) (die va h) : (s.rearmAll die va h).MemOk := State.memOk_rearm hs _
@[simp ↓] theorem State.memOk_enrol (s : State) (die va tag fn) : (s.enrol die va tag fn).MemOk ↔ s.MemOk := Iff.rfl

@[simp ↓] theorem State.memOk_spawnGraph {s : State} (h : s.MemOk) (die va tag fn) : (s.spawnGraph die va tag fn).2.MemOk := by
  dsimp only [State.spawnGraph]
  repeat' split
  · exact h
  · exact h
  · exact h
  · next g _ _ _ =>
    have henrol := (State.memOk_enrol _ die va tag fn).mpr (State.memOk_rearmAll h die va g)
    exact State.memOk_doWork (State.memOk_setFrozen henrol die va false) _

@[simp ↓] theorem State.memOk_cancelNode {s : State} (h : s.MemOk) (r n) : (s.cancelNode r n).MemOk := by simp [State.cancelNode, h]

@[simp ↓] theorem State.memOk_spawnNode {s : State} (h : s.MemOk) (r tag fn) : (s.spawnNode r tag fn).2.MemOk := by
  dsimp only [State.spawnNode]
  repeat' split
  all_goals simp [h]

@[simp ↓] theorem State.memOk_spawn {s : State} (h : s.MemOk) (die node va i tag fn) : (s.spawn die node va i tag fn).2.MemOk := by
  unfold State.spawn
  split <;> simp [h]

@[simp ↓] theorem State.memOk_spawnFirst {s : State} (h : s.MemOk) (p) : (s.spawnFirst p).MemOk := by
  unfold State.spawnFirst
  split <;> simp [h]

theorem memOk_execTspawnApply {s : State} (h : s.MemOk) : NextOk (execTspawnApply s) := by
  unfold execTspawnApply
  split
  · have hfirst := memOk_foldl _ (fun _ p ht => State.memOk_spawnFirst ht p) (s.spawnsBefore s.cur.die s.ord) h
    simp [hfirst]
  · simp

@[simp ↓] theorem State.memOk_rearmBody {s : State} (h : s.MemOk) (r first last) : (s.rearmBody r first last).MemOk := by
  simp [State.rearmBody, h]

theorem memOk_execControlNodeEvaluate {s : State} (h : s.MemOk) : NextOk (execControlNodeEvaluate s) := by
  dsimp only [execControlNodeEvaluate]
  repeat' split
  all_goals simp [h]

@[simp ↓] theorem State.memOk_loadBeat {s : State} (h : s.MemOk) (die d c k) : (s.loadBeat die d c k).MemOk :=
  memOk_foldl _ (fun t p ht => by split <;> simp [ht]) _ h

@[simp ↓] theorem State.memOk_loadImages {s : State} (h : s.MemOk) (die d cores) : OkThen State.MemOk (s.loadImages die d cores) :=
  fun _ hload => (State.loadImages_keeps hload State.MemOk fun _ _ _ _ _ => rfl) ▸ h

theorem memOk_execTaskLaunch {s : State} (h : s.MemOk) : NextOk (execTaskLaunch s) := by
  unfold execTaskLaunch
  split <;> simp [h]

@[simp ↓] theorem State.memOk_modRunning (s : State) (id f) : (s.modRunning id f).MemOk ↔ s.MemOk := Iff.rfl

@[simp ↓] theorem State.memOk_closeRunning {s : State} (h : s.MemOk) (id) : (s.closeRunning id).MemOk := by
  unfold State.closeRunning
  split <;> simp [h]

@[simp ↓] theorem State.memOk_taskOver {s : State} (h : s.MemOk) (id run exit) : (s.taskOver id run exit).MemOk := by
  unfold State.taskOver
  split <;> simp [h]

theorem memOk_execTaskEnd {s : State} (h : s.MemOk) : NextOk (execTaskEnd s) := by
  dsimp only [execTaskEnd]
  repeat' split
  all_goals simp [h]

@[simp ↓] theorem State.memOk_deal (s : State) (r c n d h rec_ desc) : (s.deal r c n d h rec_ desc).MemOk ↔ s.MemOk := Iff.rfl
@[simp ↓] theorem State.memOk_leaveCard {s : State} (h : s.MemOk) (id c) : (s.leaveCard id c).MemOk := by simp [State.leaveCard, h]
@[simp ↓] theorem State.memOk_askFails {s : State} (h : s.MemOk) (r c f) : (s.askFails r c f).MemOk := by simp [State.askFails, h]

@[simp ↓] theorem State.memOk_serveAsk {s : State} (h : s.MemOk) (id c) : (s.serveAsk id c).MemOk := by
  dsimp only [State.serveAsk]
  repeat' split
  all_goals try simp [h]
  · next t hload => exact State.memOk_loadImages (by simp [h]) _ _ _ t hload

@[simp ↓] theorem State.memOk_beginCard {s : State} (h : s.MemOk) (e n) : (s.beginCard e n).MemOk := by simp [State.beginCard, h]

@[simp ↓] theorem State.memOk_startCard {s : State} (h : s.MemOk) (e) : (s.startCard e).MemOk := by
  dsimp only [State.startCard]
  repeat' split
  · simp [h]
  · simp [h]
  · simp [h]
  · next n _ _ d _ _ t hload =>
    have hbegin := State.memOk_beginCard (State.memOk_loadImages h _ _ _ t hload) e n
    exact State.memOk_doWork (memOk_foldl _ (fun _ c hu => State.memOk_serveAsk hu _ c) _ hbegin) _

@[simp ↓] theorem State.memOk_startColl {s : State} (h : s.MemOk) (e) : (s.startColl e).MemOk := by
  unfold State.startColl
  split
  · simp [h]
  · next n _ =>
    extract_lets cores blocks issued failed s1 s2
    have h1 : s1.MemOk := by simp [s1, h]
    have h2 : s2.MemOk := by simp [s2, h1]
    clear_value failed s1 s2
    split <;> simp [h2]

@[simp ↓] theorem State.memOk_nodeFault {s : State} (h : s.MemOk) (f) : (s.nodeFault f).MemOk := by
  dsimp only [State.nodeFault]
  split <;> simp [h]

theorem memOk_execNodeDispatch {s : State} (h : s.MemOk) : NextOk (execNodeDispatch s) := by
  unfold execNodeDispatch
  split <;> simp [h]

@[simp ↓] theorem State.memOk_admitNode {s : State} (h : s.MemOk) (e) : (s.admitNode e).MemOk := by
  dsimp only [State.admitNode]
  repeat' split
  · simp [h]
  · simp [h]
  · simp [h]
  · next n _ _ d _ _ t hload =>
    have hstate := State.memOk_putNodeState (State.memOk_loadImages h _ _ _ t hload) n 2 n.pending
    simp [hstate]

@[simp ↓] theorem State.memOk_modReady (s : State) (r f) : (s.modReady r f).MemOk ↔ s.MemOk := Iff.rfl
@[simp ↓] theorem State.memOk_reserve (s : State) (e) : (s.reserve e).MemOk ↔ s.MemOk := Iff.rfl

@[simp ↓] theorem State.memOk_answer (s : State) (e k) : (s.answer e k).MemOk ↔ s.MemOk := by
  dsimp only [State.answer]
  rw [memOk_foldl_iff _ fun t d => by split <;> rfl]
  split <;> rfl

@[simp ↓] theorem State.memOk_admitAll {s : State} (h : s.MemOk) : s.admitAll.MemOk := by
  refine memOk_foldl _ (fun t e ht => ?_) _ h
  repeat' split
  all_goals simp [ht]

@[simp ↓] theorem State.memOk_askPreempt (s : State) : s.askPreempt.MemOk ↔ s.MemOk := Iff.rfl

theorem memOk_execFrameBoundary {s : State} (h : s.MemOk) : NextOk (execFrameBoundary s) := by
  dsimp only [execFrameBoundary]
  split
  · refine (nextOk_next _).mpr ((State.memOk_askPreempt _).mpr (State.memOk_admitAll ?_))
    exact memOk_foldl _ (fun _ _ ht => State.memOk_doWork ((State.memOk_modSched ..).mpr ht) _) _ h
  · simp

theorem memOk_execPlacementClaim {s : State} (h : s.MemOk) : NextOk (execPlacementClaim s) := by
  unfold execPlacementClaim
  split <;> simp [h]

theorem memOk_execPlacementReply {s : State} (h : s.MemOk) : NextOk (execPlacementReply s) := by
  dsimp only [execPlacementReply]
  repeat' split
  all_goals simp [h]

theorem memOk_execPlacementGo {s : State} (h : s.MemOk) : NextOk (execPlacementGo s) := by
  dsimp only [execPlacementGo]
  repeat' split
  all_goals simp [h]

@[simp ↓] theorem State.memOk_tokenWalk {s : State} (h : s.MemOk) (die va fuel front) : (s.tokenWalk die va fuel front).1.MemOk := by
  induction fuel generalizing front with
  | zero => exact h
  | succ fuel ih =>
    cases front with
    | nil => exact h
    | cons i rest =>
      dsimp only [State.tokenWalk]
      repeat' split
      · simp [h]
      · exact ih _
      · exact ih _

theorem memOk_execErrorTokenStep {s : State} (h : s.MemOk) : NextOk (execErrorTokenStep s) := by
  dsimp only [execErrorTokenStep]
  repeat' split
  all_goals simp [h]

end Sys2Proof.Machine
end

section
/-! PROOFS. Vaults and pre-emption (R200, R210, R325 to R332). -/

namespace Sys2Proof.Machine

open Sys2Proof

@[simp ↓] theorem State.memOk_clearWays {s : State} (h : s.MemOk) (id p) : (s.clearWays id p).MemOk := by simp [State.clearWays, h]

theorem memOk_execCresizeStart {s : State} (h : s.MemOk) : NextOk (execCresizeStart s) := by
  unfold execCresizeStart
  split <;> simp [h]

theorem memOk_execCresizeComplete {s : State} (h : s.MemOk) : NextOk (execCresizeComplete s) := by
  unfold execCresizeComplete
  split <;> simp [h]

@[simp ↓] theorem State.memOk_postCandidates (s : State) : s.postCandidates.MemOk ↔ s.MemOk := by simp [State.postCandidates]
theorem memOk_execScrubStep {s : State} (h : s.MemOk) : NextOk (execScrubStep s) := by simp [execScrubStep, h]

theorem memOk_execVaultOverrun {s : State} (h : s.MemOk) : NextOk (execVaultOverrun s) := by
  unfold execVaultOverrun
  split <;> simp [h]

theorem memOk_execPreemptStop {s : State} (h : s.MemOk) : NextOk (execPreemptStop s) := by
  dsimp only [execPreemptStop]
  split <;> simp [h]

@[simp ↓] theorem State.memOk_abort (s : State) (id outcome n) : (s.abort id outcome n).MemOk ↔ s.MemOk := Iff.rfl

theorem memOk_execSaveBeat {s : State} (h : s.MemOk) : NextOk (execSaveBeat s) := by
  dsimp only [execSaveBeat]
  repeat' split
  all_goals simp [h]

theorem memOk_execSaveComplete {s : State} (h : s.MemOk) : NextOk (execSaveComplete s) := by
  dsimp only [execSaveComplete]
  repeat' split
  all_goals simp [h]

@[simp ↓] theorem State.memOk_restoreFails (s : State) (e cause) : (s.restoreFails e cause).MemOk ↔ s.MemOk := Iff.rfl
@[simp ↓] theorem State.memOk_clearPad {s : State} (h : s.MemOk) (id) : (s.clearPad id).MemOk := by simp [State.clearPad, h]

@[simp ↓] theorem State.memOk_restoreTask {s : State} (h : s.MemOk) (e d bs) : (s.restoreTask e d bs).MemOk := by
  simp +contextual [State.restoreTask, h]

@[simp ↓] theorem State.memOk_restoreBeat {s : State} (h : s.MemOk) (e d bs) : (s.restoreBeat e d bs).MemOk := by
  dsimp only [State.restoreBeat]
  repeat' split
  all_goals simp [h]

theorem memOk_execTaskRestore {s : State} (h : s.MemOk) : NextOk (execTaskRestore s) := by
  unfold execTaskRestore
  split
  · repeat' split
    all_goals simp [h]
  · split
    · simp
    · split
      · simp [h]
      · split
        · simp [h]
        · next t hload =>
          have ht := State.memOk_loadImages (State.memOk_clearPad h s.cur) _ _ _ t hload
          simp [ht]

end Sys2Proof.Machine
end

section
/-! PROOFS. The frieze's rings (R338 to R356). -/

namespace Sys2Proof.Machine

open Sys2Proof

@[simp ↓] theorem State.memOk_correctPlace (s : State) (die l x b n) : (s.correctPlace die l x b n).MemOk ↔ s.MemOk := by
  simp [State.correctPlace]

@[simp ↓] theorem State.memOk_writePlace {s : State} (h : s.MemOk) (die l x b n bs) : (s.writePlace die l x b n bs).MemOk :=
  memOk_foldl _ (fun _ _ ht => State.memOk_poke ht _ _) _ h

@[simp ↓] theorem State.memOk_modPort (s : State) (die l f) : (s.modPort die l f).MemOk ↔ s.MemOk := Iff.rfl
@[simp ↓] theorem State.memOk_modPorts (s : State) (r f) : (s.modPorts r f).MemOk ↔ s.MemOk := Iff.rfl
@[simp ↓] theorem State.memOk_ringEvent (s : State) (g t owner ev) : (s.ringEvent g t owner ev).MemOk ↔ s.MemOk := Iff.rfl

@[simp ↓] theorem State.memOk_accumulate {s : State} (h : s.MemOk) (g p k) : (s.accumulate g p k).MemOk := by
  dsimp only [State.accumulate]
  repeat' split
  all_goals simp +contextual [h]

@[simp ↓] theorem State.memOk_breakRing (s : State) (g) : (s.breakRing g).MemOk ↔ s.MemOk := Iff.rfl

@[simp ↓] theorem State.memOk_endRebuild (s : State) (g p k) : (s.endRebuild g p k).MemOk ↔ s.MemOk := by
  unfold State.endRebuild
  split <;> simp

@[simp ↓] theorem State.memOk_ringWhole (s : State) (g) : (s.ringWhole g).MemOk ↔ s.MemOk := by
  unfold State.ringWhole
  split <;> simp

@[simp ↓] theorem State.memOk_repairSlot {s : State} (h : s.MemOk) (g p k) : (s.repairSlot g p k).MemOk := by
  dsimp only [State.repairSlot]
  repeat' split
  all_goals simp [h]

theorem memOk_execSlotBoundary {s : State} (h : s.MemOk) : NextOk (execSlotBoundary s) := by
  dsimp only [execSlotBoundary]
  repeat' split
  all_goals simp [h]

theorem memOk_execMapPublish {s : State} (h : s.MemOk) : NextOk (execMapPublish s) := by
  dsimp only [execMapPublish]
  repeat' split
  all_goals simp [h]

theorem memOk_execPanelBeatSend {s : State} (h : s.MemOk) : NextOk (execPanelBeatSend s) := by
  dsimp only [execPanelBeatSend]
  repeat' split
  all_goals simp [h]

theorem memOk_execPanelBeatLand {s : State} (h : s.MemOk) : NextOk (execPanelBeatLand s) := by
  dsimp only [execPanelBeatLand]
  repeat' split
  all_goals simp [h]

@[simp ↓] theorem State.memOk_putRow (s : State) (p r row) : (s.putRow p r row).MemOk ↔ s.MemOk := by
  unfold State.putRow
  split <;> simp

theorem memOk_execPdoneApply {s : State} (h : s.MemOk) : NextOk (execPdoneApply s) := by
  dsimp only [execPdoneApply]
  repeat' split
  all_goals simp [h]

@[simp ↓] theorem State.memOk_unpin (s : State) (die l) : (s.unpin die l).MemOk ↔ s.MemOk := by
  rw [State.unpin, memOk_foldl_iff]
  exact fun _ _ => Iff.rfl

@[simp ↓] theorem State.memOk_pin (s : State) (die l) : (s.pin die l).MemOk ↔ s.MemOk := by
  rw [State.pin, memOk_foldl_iff]
  exact fun _ _ => Iff.rfl

@[simp ↓] theorem State.memOk_clearRange {s : State} (h : s.MemOk) (die lo hi) : (s.clearRange die lo hi).MemOk := by
  simp [State.clearRange, h]

@[simp ↓] theorem State.memOk_laneOffDie {s : State} (h : s.MemOk) (l die) : (s.laneOffDie l die).MemOk :=
  State.memOk_clearRange ((State.memOk_unpin ..).mpr h) _ _ _

@[simp ↓] theorem State.memOk_dropRing {s : State} (h : s.MemOk) (g) : (s.dropRing g).MemOk := by simp +contextual [State.dropRing, h]

@[simp ↓] theorem State.memOk_friezeForm {s : State} (h : s.MemOk) (l fid q dies k0) : (s.friezeForm l fid q dies k0).2.2.MemOk := by
  unfold State.friezeForm
  extract_lets np old s0 g ws s1 s2 s3
  have h0 : s0.MemOk := memOk_foldl _ (fun _ _ ht => State.memOk_dropRing ht _) old h
  have h1 : s1.MemOk := by simp [s1, h0]
  have h3 : s3.MemOk := memOk_foldl _ (fun _ _ ht => by simp [ht]) dies h1
  repeat' split
  · exact h
  · exact h
  · simp [h3]

@[simp ↓] theorem State.memOk_startRing (s : State) (g) : (s.startRing g).MemOk ↔ s.MemOk := by simp [State.startRing]

@[simp ↓] theorem State.memOk_friezeLoad {s : State} (h : s.MemOk) (fid pos panel) : (s.friezeLoad fid pos panel).2.2.MemOk := by
  dsimp only [State.friezeLoad]
  repeat' split
  all_goals simp only [h, State.memOk_startRing, State.memOk_modRing, State.memOk_modPort, State.memOk_modPorts, State.memOk_writePlace]

@[simp ↓] theorem State.memOk_cutRing (s : State) (g p) : (s.cutRing g p).MemOk ↔ s.MemOk := by simp [State.cutRing]

@[simp ↓] theorem State.memOk_bypass {s : State} (h : s.MemOk) (g p) : (s.bypass g p).MemOk := by
  unfold State.bypass
  split
  · simp [h]
  · split
    · simp [h]
    · split
      · simp [h]
      · extract_lets now k d running lost accs others broken late n shift s1 s2 s3 s4 s5
        have h2 : s2.MemOk := by simp [s2, s1, h]
        have h3 : s3.MemOk := by
          dsimp only [s3]
          split
          · exact memOk_foldl _ (fun _ _ ht => State.memOk_writePlace ht _ _ _ _ _ _) _ h2
          · exact h2
        simp [s5, s4, h3]

end Sys2Proof.Machine
end

section
/-! PROOFS. Collectives (R365 to R380). -/

namespace Sys2Proof.Machine

open Sys2Proof

@[simp ↓] theorem State.memOk_putColl (s : State) (id f) : (s.putColl id f).MemOk ↔ s.MemOk := Iff.rfl

@[simp ↓] theorem State.memOk_collStep (s : State) (job ck d pas ev j) : (s.collStep job ck d pas ev j).MemOk ↔ s.MemOk := by
  dsimp only [State.collStep]
  repeat' split
  all_goals simp

theorem State.memOk_collTable {s : State} (h : s.MemOk) (job k b) : OkThen (fun p => p.2.MemOk) (s.collTable job k b) := by
  dsimp only [State.collTable]
  repeat' split
  · exact .ok h
  · exact .ok h
  · exact .error _
  · exact .ok h
  · exact .ok (by simpa only [State.memOk_engineRead] using h)

theorem State.memOk_collChecks {s : State} (h : s.MemOk) (job k) : OkThen (fun p => p.2.MemOk) (s.collChecks job k) := by
  dsimp only [State.collChecks]
  refine .bind (State.memOk_collTable h job k _) fun p hp => ?_
  repeat' split
  all_goals simp [hp]

@[simp ↓] theorem State.memOk_collEnd (s : State) (job k ck d) : (s.collEnd job k ck d).MemOk ↔ s.MemOk := by simp [State.collEnd]

@[simp ↓] theorem State.memOk_settle (s : State) (group) : (s.settle group).MemOk ↔ s.MemOk := by
  dsimp only [State.settle]
  split
  · rfl
  · exact memOk_foldl_iff _ (fun t m => by split <;> simp) _ _

@[simp ↓] theorem State.memOk_collBegin (s : State) (job k) : (s.collBegin job k).MemOk ↔ s.MemOk := by
  dsimp only [State.collBegin]
  repeat' split
  all_goals simp

@[simp ↓] theorem State.memOk_matchColl (s : State) (t) : (s.matchColl t).MemOk ↔ s.MemOk := by
  dsimp only [State.matchColl]
  split
  · rfl
  · rw [State.memOk_settle, memOk_foldl_iff _ fun u m => ?_, memOk_foldl_iff _ fun u i => State.memOk_putColl ..]
    repeat' split
    all_goals simp

@[simp ↓] theorem State.memOk_collNodeFault {s : State} (h : s.MemOk) (job r code) : (s.collNodeFault job r code).MemOk := by
  dsimp only [State.collNodeFault]
  split <;> simp [h]

@[simp ↓] theorem State.memOk_matchAll (s : State) : s.matchAll.MemOk ↔ s.MemOk := by simp [State.matchAll]

@[simp ↓] theorem State.memOk_collJoin (s : State) (job k) : (s.collJoin job k).MemOk ↔ s.MemOk := by
  dsimp only [State.collJoin]
  repeat' split
  all_goals simp

theorem memOk_execCollBlockRead {s : State} (h : s.MemOk) : NextOk (execCollBlockRead s) := by
  dsimp only [execCollBlockRead]
  split
  · simp
  · next job k0 x _ =>
    have hread := (State.memOk_engineRead s job (fun i => k0.va.toNat + i) (segPas k0.blk 0 128) k0.pos).mpr h
    split
    · simp [h]
    · split
      · simp [h]
      · split
        · simp [h]
        · split
          · simp [h]
          · next k1 s2 hchk =>
            have hs2 : s2.MemOk := State.memOk_collChecks hread _ _ _ hchk
            simp [hs2]

theorem memOk_execCollMemberStart {s : State} (h : s.MemOk) : NextOk (execCollMemberStart s) := by
  unfold execCollMemberStart
  split <;> simp [h]

@[simp ↓] theorem State.memOk_setChunk (s : State) (die c v) : (s.setChunk die c v).MemOk ↔ s.MemOk := Iff.rfl

theorem memOk_execChunkRelease {s : State} (h : s.MemOk) : NextOk (execChunkRelease s) := by
  unfold execChunkRelease
  split <;> simp [h]

@[simp ↓] theorem State.memOk_takeChunks (s : State) (k u) : (s.takeChunks k u).1.MemOk ↔ s.MemOk := by
  induction u generalizing s with
  | nil => rfl
  | cons i is ih =>
    dsimp only [State.takeChunks]
    split
    · exact ih s
    · exact ih _

@[simp ↓] theorem State.memOk_stage {s : State} (h : s.MemOk) (die bs) : (s.stage die bs).MemOk :=
  ⟨h.1, h.2.1, Mem.write_wf _ _ h.2.2⟩

theorem memOk_execCollSourceBeat {s : State} (h : s.MemOk) : NextOk (execCollSourceBeat s) := by
  dsimp only [execCollSourceBeat]
  repeat' split
  all_goals simp [h]

theorem memOk_execCollDestBeat {s : State} (h : s.MemOk) : NextOk (execCollDestBeat s) := by
  unfold execCollDestBeat
  split <;> simp [h]

@[simp ↓] theorem State.memOk_collNodeDone {s : State} (h : s.MemOk) (owner k r st) : (s.collNodeDone owner k r st).MemOk := by
  unfold State.collNodeDone
  split <;> simp [h]

@[simp ↓] theorem State.memOk_collOver (s : State) (job k) : (s.collOver job k).MemOk ↔ s.MemOk := by
  dsimp only [State.collOver]
  split <;> simp

theorem memOk_execCollComplete {s : State} (h : s.MemOk) : NextOk (execCollComplete s) := by
  dsimp only [execCollComplete]
  repeat' split
  all_goals simp [h]

theorem memOk_execTcincApply {s : State} (h : s.MemOk) : NextOk (execTcincApply s) := by
  unfold execTcincApply
  split <;> simp [h]

end Sys2Proof.Machine
end

section
/-! PROOFS. The fabric's flits and alignment (R358 to R364). -/

namespace Sys2Proof.Machine

open Sys2Proof

@[simp ↓] theorem State.memOk_nextSlack (s : State) (f u) : (s.nextSlack f u).MemOk ↔ s.MemOk := by
  dsimp only [State.nextSlack]
  split <;> simp

theorem domain_countRetry_hostMem (d : Domain) (f : Flit) : (d.countRetry f).hostMem = d.hostMem := by
  unfold Domain.countRetry
  split <;> rfl

theorem memOk_execFlitArrival {s : State} (h : s.MemOk) : NextOk (execFlitArrival s) := by
  dsimp only [execFlitArrival]
  repeat' split
  all_goals simp [h, domain_countRetry_hostMem]

theorem memOk_execSlackSlotRetry {s : State} (h : s.MemOk) : NextOk (execSlackSlotRetry s) := by
  dsimp only [execSlackSlotRetry]
  repeat' split
  all_goals simp [h]

theorem memOk_execRetryOverrun {s : State} (h : s.MemOk) : NextOk (execRetryOverrun s) := by
  dsimp only [execRetryOverrun]
  repeat' split
  all_goals simp [h]

@[simp ↓] theorem State.memOk_postAlign (s : State) (m) : (s.postAlign m).MemOk ↔ s.MemOk := Iff.rfl
@[simp ↓] theorem State.memOk_postExcluded (s : State) : s.postExcluded.MemOk ↔ s.MemOk := Iff.rfl
@[simp ↓] theorem State.memOk_endGroupsOn (s : State) (m) : (s.endGroupsOn m).MemOk ↔ s.MemOk := by simp [State.endGroupsOn]

@[simp ↓] theorem State.memOk_realignOne (s : State) (m) : (s.realignOne m).MemOk ↔ s.MemOk := by
  dsimp only [State.realignOne]
  split <;> simp

@[simp ↓] theorem State.memOk_realign (s : State) : s.realign.MemOk ↔ s.MemOk := by
  rw [State.realign, State.memOk_tick, State.memOk_modDomain _ _ rfl, memOk_foldl_iff _ State.memOk_realignOne]

@[simp ↓] theorem State.memOk_setRoutes (s : State) : s.setRoutes.MemOk ↔ s.MemOk := Iff.rfl
@[simp ↓] theorem State.memOk_alignFirst (s : State) : s.alignFirst.MemOk ↔ s.MemOk := by simp [State.alignFirst]

theorem memOk_execAlignmentBarrier {s : State} (h : s.MemOk) : NextOk (execAlignmentBarrier s) := by
  unfold execAlignmentBarrier
  split <;> simp [h]

theorem memOk_execAlignmentFlit {s : State} (h : s.MemOk) : NextOk (execAlignmentFlit s) := by
  unfold execAlignmentFlit
  split <;> simp [h]

end Sys2Proof.Machine
end

section
/-! PROOFS. The host's window and its commands (R381 to R389): a command keeps the memories where its effect does. -/

namespace Sys2Proof.Machine

open Sys2Proof

@[simp ↓] theorem State.memOk_editPending (s : State) (p f) : (s.editPending p f).MemOk ↔ s.MemOk := Iff.rfl

@[simp ↓] theorem State.memOk_reland (s : State) (p due) : (s.reland p due).MemOk ↔ s.MemOk := by
  unfold State.reland
  split <;> simp

@[simp ↓] theorem State.memOk_rewriteDesc (s : State) (id p d w) : (s.rewriteDesc id p d w).MemOk ↔ s.MemOk := by
  dsimp only [State.rewriteDesc]
  repeat' split
  all_goals simp

@[simp ↓] theorem State.memOk_putDesc (s : State) (id e hi w) : (s.putDesc id e hi w).MemOk ↔ s.MemOk := by
  dsimp only [State.putDesc]
  split <;> simp

@[simp ↓] theorem State.memOk_putValue (s : State) (p o ws) : (s.putValue p o ws).MemOk ↔ s.MemOk := Iff.rfl

@[simp ↓] theorem State.memOk_putCtlWord (s : State) (id off w) : (s.putCtlWord id off w).MemOk ↔ s.MemOk := by
  dsimp only [State.putCtlWord]
  repeat' split
  all_goals simp

@[simp ↓] theorem State.memOk_putDieWord (s : State) (die unit off w) : (s.putDieWord die unit off w).MemOk ↔ s.MemOk := by
  unfold State.putDieWord
  split <;> simp

@[simp ↓] theorem State.memOk_putSpaceWord {s : State} (h : s.MemOk) (pa w) : (s.putSpaceWord pa w).MemOk := by
  unfold State.putSpaceWord
  repeat' split
  · simp [h]
  · simp [h]
  · exact ⟨h.1, h.2.1, Mem.write_wf _ _ h.2.2⟩
  · simp [h]

@[simp ↓] theorem State.memOk_putSpace {s : State} (h : s.MemOk) (pa bs) : (s.putSpace pa bs).MemOk := by
  simp +contextual [State.putSpace, h]

@[simp ↓] theorem State.memOk_putHost {s : State} (h : s.MemOk) (a bs) : (s.putHost a bs).MemOk :=
  ⟨h.1, Mem.write_wf _ _ h.2.1, h.2.2⟩

@[simp ↓] theorem State.memOk_complete {s : State} (h : s.MemOk) (f addr code result) : (s.complete f addr code result).MemOk := by
  have hresult := State.memOk_putHost h (addr + 0x38) (leBytes result 8)
  simp [State.complete, hresult]

@[simp ↓] theorem State.memOk_fetched (s : State) (f) : (s.fetched f).MemOk ↔ s.MemOk := Iff.rfl

/-- What the reply of a command leaves. -/
def ReplyOk : Reply → Prop
  | .done _ _ s => s.MemOk
  | .later s => s.MemOk

@[simp ↓] theorem replyOk_done (code result s) : ReplyOk (.done code result s) ↔ s.MemOk := Iff.rfl
@[simp ↓] theorem replyOk_later (s) : ReplyOk (.later s) ↔ s.MemOk := Iff.rfl

@[simp ↓] theorem replyOk_ite (p : Prop) [Decidable p] (a b : Reply) :
    ReplyOk (if p then a else b) ↔ (p → ReplyOk a) ∧ (¬ p → ReplyOk b) := by split <;> simp [*]

/-- A command of the host keeps the memories where its effect does. -/
theorem State.memOk_command {s : State} (h : s.MemOk) (i name) {k : Command}
    (hk : ∀ f addr e t, t.MemOk → ReplyOk (k.run f addr e t)) : NextOk (s.command i name k) := by
  unfold State.command
  split
  · simp
  · next f slot _ =>
    have hrun := hk f ((s.fnOf f).entry slot) (s.entryBytes f slot) _ ((State.memOk_fetched s f).mpr h)
    dsimp only
    repeat' split
    · simp
    · simp [h]
    · next heq => rw [heq] at hrun; simpa using State.memOk_complete hrun _ _ _ _
    · next heq => rw [heq] at hrun; simpa using hrun

theorem memOk_execCqtailDoorbell {s : State} (h : s.MemOk) : NextOk (execCqtailDoorbell s) := by
  unfold execCqtailDoorbell
  split <;> simp [h]

@[simp ↓] theorem State.memOk_resizeBar (s : State) (n) : (s.resizeBar n).MemOk ↔ s.MemOk := by
  unfold State.resizeBar
  split <;> simp

theorem memOk_execCqctlWrite {s : State} (h : s.MemOk) : NextOk (execCqctlWrite s) := by
  dsimp only [execCqctlWrite]
  repeat' split
  all_goals simp [h]

theorem memOk_execDevstatClear {s : State} (h : s.MemOk) : NextOk (execDevstatClear s) := by
  unfold execDevstatClear
  split <;> simp [h]

@[simp ↓] theorem State.memOk_hostGet (s : State) (ps) : (s.hostGet ps).2.MemOk ↔ s.MemOk := by simp [State.hostGet]
@[simp ↓] theorem State.memOk_hostPut {s : State} (h : s.MemOk) (f es) : (s.hostPut f es).MemOk := by simp +contextual [State.hostPut, h]

theorem memOk_execHostBar2Read {s : State} (h : s.MemOk) : NextOk (execHostBar2Read s) := by
  dsimp only [execHostBar2Read]
  repeat' split
  · exact (nextOk_next _).mpr ((State.memOk_modDomain s.tick _ rfl).mpr h)
  all_goals simp [h]

theorem memOk_execHostBar2Write {s : State} (h : s.MemOk) : NextOk (execHostBar2Write s) := by
  dsimp only [execHostBar2Write]
  repeat' split
  all_goals simp [h]

theorem memOk_execIdentify {s : State} (h : s.MemOk) : NextOk (execIdentify s) := by
  refine State.memOk_command h _ _ fun f addr e t ht => ?_
  dsimp only
  repeat' split
  all_goals simp [ht]

theorem memOk_execNegotiate {s : State} (h : s.MemOk) : NextOk (execNegotiate s) := by
  refine State.memOk_command h _ _ fun f addr e t ht => ?_
  dsimp only
  repeat' split
  all_goals simp [ht]

theorem memOk_execWriteCmd {s : State} (h : s.MemOk) : NextOk (execWriteCmd s) := by
  refine State.memOk_command h _ _ fun f addr e t ht => ?_
  dsimp only
  repeat' split
  all_goals simp [ht]

theorem memOk_execReadCmd {s : State} (h : s.MemOk) : NextOk (execReadCmd s) := by
  refine State.memOk_command h _ _ fun f addr e t ht => ?_
  dsimp only
  repeat' split
  all_goals simp [ht]

theorem memOk_execMapCmd {s : State} (h : s.MemOk) : NextOk (execMapCmd s) := by
  refine State.memOk_command h _ _ fun f addr e t ht => ?_
  dsimp only
  repeat' split
  all_goals simp [ht]

theorem memOk_execUnmapCmd {s : State} (h : s.MemOk) : NextOk (execUnmapCmd s) := by
  refine State.memOk_command h _ _ fun f addr e t ht => ?_
  dsimp only
  repeat' split
  all_goals simp [ht]

@[simp ↓] theorem State.memOk_publishTo (s : State) (f die va) : (s.publishTo f die va).MemOk ↔ s.MemOk := Iff.rfl

theorem memOk_execLaunchGraph {s : State} (h : s.MemOk) : NextOk (execLaunchGraph s) := by
  refine State.memOk_command h _ _ fun f addr e t ht => ?_
  dsimp only
  repeat' split
  all_goals simp [ht]

theorem memOk_execFreezeGraph {s : State} (h : s.MemOk) : NextOk (execFreezeGraph s) := by
  refine State.memOk_command h _ _ fun f addr e t ht => ?_
  dsimp only
  repeat' split
  all_goals simp [ht]

@[simp ↓] theorem State.memOk_rearmWaiting {s : State} (h : s.MemOk) (g) : (s.rearmWaiting g).MemOk := by
  dsimp only [State.rearmWaiting]
  split
  · exact h
  · exact State.memOk_doWork (State.memOk_doWork (State.memOk_rearm h _) _) _

theorem memOk_execFreeGraph {s : State} (h : s.MemOk) : NextOk (execFreeGraph s) := by
  refine State.memOk_command h _ _ fun f addr e t ht => ?_
  dsimp only
  repeat' split
  all_goals simp [ht]

theorem memOk_execQuery {s : State} (h : s.MemOk) : NextOk (execQuery s) := by
  refine State.memOk_command h _ _ fun f addr e t ht => ?_
  dsimp only
  repeat' split
  all_goals simp [ht]

theorem memOk_execFriezeForm {s : State} (h : s.MemOk) : NextOk (execFriezeForm s) := by
  refine State.memOk_command h _ _ fun f addr e t ht => ?_
  dsimp only
  repeat' split
  all_goals simp [ht]

theorem memOk_execFriezeLoad {s : State} (h : s.MemOk) : NextOk (execFriezeLoad s) := by
  refine State.memOk_command h _ _ fun f addr e t ht => ?_
  dsimp only
  repeat' split
  all_goals simp [ht]

theorem memOk_execAlignCmd {s : State} (h : s.MemOk) : NextOk (execAlignCmd s) :=
  State.memOk_command h _ _ fun f addr e t ht => by simp [ht]

theorem memOk_execRemapSpares {s : State} (h : s.MemOk) : NextOk (execRemapSpares s) := by
  refine State.memOk_command h _ _ fun f addr e t ht => ?_
  dsimp only
  repeat' split
  all_goals simp [ht]

theorem memOk_execSpareRemapApply {s : State} (h : s.MemOk) : NextOk (execSpareRemapApply s) := by simp [execSpareRemapApply, h]

theorem memOk_execCounters {s : State} (h : s.MemOk) : NextOk (execCounters s) := by
  refine State.memOk_command h _ _ fun f addr e t ht => ?_
  dsimp only
  repeat' split
  all_goals simp [ht]

/-- The holds that a command starts, each noted by its number. -/
theorem memOk_startHolds {p : State × List Nat} (h : p.1.MemOk) (reason : Nat) (kill : Option (Nat × Nat)) (origin : List CoreId → CoreId)
    (sets : List (List CoreId)) :
    (sets.foldl (fun (p : State × List Nat) set => (p.1.startHold reason kill (origin set) set [], p.2 ++ [p.1.seq])) p).1.MemOk := by
  induction sets generalizing p with
  | nil => exact h
  | cons set sets ih => exact ih ((State.memOk_startHold ..).mpr h)

theorem memOk_execHaltCommand {s : State} (h : s.MemOk) : NextOk (execHaltCommand s) := by
  refine State.memOk_command h _ _ fun f addr e t ht => ?_
  dsimp only
  split
  · exact ht
  · rw [replyOk_later, State.memOk_scheduleDom, State.memOk_modFn]
    exact memOk_startHolds (p := (t, [])) ht 2 none (fun set => (lowestCore set).getD ⟨0, 0⟩) _

theorem memOk_execHaltCommandComplete {s : State} (h : s.MemOk) : NextOk (execHaltCommandComplete s) := by
  unfold execHaltCommandComplete
  split <;> simp [h]

theorem memOk_execResume {s : State} (h : s.MemOk) : NextOk (execResume s) := by
  refine State.memOk_command h _ _ fun f addr e t ht => ?_
  dsimp only
  split
  · exact ht
  · refine memOk_foldl _ (fun u c hu => ?_) _ (by simp [ht])
    split <;> simp [hu]

theorem memOk_execPeek {s : State} (h : s.MemOk) : NextOk (execPeek s) := by
  refine State.memOk_command h _ _ fun f addr e t ht => ?_
  dsimp only
  repeat' split
  all_goals simp [ht]

theorem memOk_execPoke {s : State} (h : s.MemOk) : NextOk (execPoke s) := by
  refine State.memOk_command h _ _ fun f addr e t ht => ?_
  dsimp only
  repeat' split
  all_goals simp [ht]

@[simp ↓] theorem State.memOk_postNow {s : State} (h : s.MemOk) (f w) : (s.postNow f w).MemOk := by
  unfold State.postNow
  split <;> simp [h]

theorem memOk_execEventCmd {s : State} (h : s.MemOk) : NextOk (execEventCmd s) := by
  refine State.memOk_command h _ _ fun f addr e t ht => ?_
  dsimp only
  repeat' split
  all_goals simp [ht]

theorem memOk_execEventPost {s : State} (h : s.MemOk) : NextOk (execEventPost s) := by
  unfold execEventPost
  split <;> simp [h]

theorem memOk_execReservedCommand {s : State} (h : s.MemOk) : NextOk (execReservedCommand s) := by
  unfold execReservedCommand
  split <;> simp [h]

end Sys2Proof.Machine
end

section
/-! PROOFS. Resets, losses and the bring-up (R199, R388, R390 to R393). -/

namespace Sys2Proof.Machine

open Sys2Proof

@[simp ↓] theorem State.memOk_endTasks (s : State) (p) : (s.endTasks p).MemOk ↔ s.MemOk := by simp [State.endTasks]
@[simp ↓] theorem State.memOk_dropComing (s : State) (p) : (s.dropComing p).MemOk ↔ s.MemOk := Iff.rfl

@[simp ↓] theorem State.memOk_endReset {s : State} (h : s.MemOk) (f) : (s.endReset f).MemOk := by
  dsimp only [State.endReset]
  split
  · exact h
  · refine State.memOk_complete ?_ _ _ _ _
    exact (State.memOk_modFn ..).mpr (memOk_foldl _ (fun t a ht => State.memOk_complete ht ..) _ h)

@[simp ↓] theorem State.memOk_freezeAll {s : State} (h : s.MemOk) (f) : (s.freezeAll f).MemOk :=
  memOk_foldl _ (fun _ _ ht => State.memOk_setFrozen ht ..) _ h

theorem memOk_execResetFunction {s : State} (h : s.MemOk) : NextOk (execResetFunction s) := by
  unfold execResetFunction
  split
  · simp [h]
  · refine State.memOk_command h _ _ fun f addr e t ht => ?_
    simp [ht]

@[simp ↓] theorem State.memOk_clearVaults {s : State} (h : s.MemOk) (die) : (s.clearVaults die).MemOk := by
  simp [State.clearVaults, h]

@[simp ↓] theorem State.memOk_dropDie (s : State) (die reset) : (s.dropDie die reset).MemOk ↔ s.MemOk := by
  dsimp only [State.dropDie]
  rw [State.memOk_matchAll]
  rfl

@[simp ↓] theorem State.memOk_endDie (s : State) (die) : (s.endDie die).MemOk ↔ s.MemOk := by
  dsimp only [State.endDie]
  rw [memOk_foldl_iff _ fun t g => by split <;> simp, memOk_foldl_iff _ fun t c => by simp]

@[simp ↓] theorem State.memOk_resetDie {s : State} (h : s.MemOk) (die) : (s.resetDie die).MemOk := by
  have hdropped := (State.memOk_dropDie _ die true).mpr ((State.memOk_endDie s die).mpr h)
  dsimp only [State.resetDie]
  generalize (s.endDie die).dropDie die true = dropped at hdropped
  exact (State.memOk_tick _).mpr (State.memOk_clearVaults hdropped die)

theorem memOk_execResetDie {s : State} (h : s.MemOk) : NextOk (execResetDie s) :=
  State.memOk_command h _ _ fun f addr e t ht => by simp [ht]

@[simp ↓] theorem State.memOk_bringUp (s : State) (stage next arg) : (s.bringUp stage next arg).MemOk ↔ s.MemOk := Iff.rfl
@[simp ↓] theorem State.memOk_domainReset {s : State} (h : s.MemOk) : s.domainReset.MemOk := ⟨rfl, h.2.1, rfl⟩

theorem memOk_execResetDomain {s : State} (h : s.MemOk) : NextOk (execResetDomain s) :=
  State.memOk_command h _ _ fun f addr e t ht => by
    have hdone := State.memOk_complete ht f addr 0 0
    simp [hdone]

@[simp ↓] theorem State.memOk_failDie (s : State) (die) : (s.failDie die).MemOk ↔ s.MemOk := by simp [State.failDie]

theorem memOk_execDieLoss {s : State} (h : s.MemOk) : NextOk (execDieLoss s) := by
  dsimp only [execDieLoss]
  repeat' split
  · simp
  · rw [nextOk_next, State.memOk_failDie, memOk_foldl_iff _ fun t e => by simp]
    exact h
  all_goals simp [h]

theorem memOk_execPowerOn {s : State} (h : s.MemOk) : NextOk (execPowerOn s) := by simp [execPowerOn, h]

theorem memOk_execRomBoot {s : State} (h : s.MemOk) : NextOk (execRomBoot s) := by
  unfold execRomBoot
  split <;> simp [h]

theorem memOk_execFuseRemap {s : State} (h : s.MemOk) : NextOk (execFuseRemap s) := by
  unfold execFuseRemap
  split
  · exact (nextOk_next _).mpr ((State.memOk_bringUp ..).mpr ⟨rfl, h.2⟩)
  · simp

theorem memOk_execLinkTraining {s : State} (h : s.MemOk) : NextOk (execLinkTraining s) := by
  unfold execLinkTraining
  split <;> simp [h]

theorem memOk_execThermalStep {s : State} (h : s.MemOk) : NextOk (execThermalStep s) := by
  dsimp only [execThermalStep]
  split <;> simp [h]

theorem memOk_execThermalShutdown {s : State} (h : s.MemOk) : NextOk (execThermalShutdown s) := by simp [execThermalShutdown, h]

end Sys2Proof.Machine
end

section
/-! PROOFS. Every arm of the model keeps the memories in canonical form: an instruction of a cluster issues, an event has its own lemma. -/

namespace Sys2Proof.Machine

open Sys2Proof

theorem memOk_predOp {s : State} (h : s.MemOk) (pd f) : NextOk (predOp pd f s) := memOk_issue h _ _
theorem memOk_atomic1 {s : State} (h : s.MemOk) (op b cl fmt rt d64 off) : NextOk (atomic1 op b cl fmt rt d64 off s) := memOk_issue h _ _

/-- Every arm of the model keeps the memories in canonical form: an instruction issues, and an event has its own lemma. -/
theorem memOk_exec {s : State} (h : s.MemOk) (i) : NextOk (exec i s) := by
  cases i with
  | shortParcel m c cl => exact memOk_execShortParcel h _ _ _
  | vpack vd p fmt rm dst q a b c => exact memOk_execVpack h _ _ _ _ _ _ _ _ _
  | resultLanding => exact memOk_execResultLanding h
  | channelEntryLanding => exact memOk_execChannelEntryLanding h
  | accessPerform => exact memOk_execAccessPerform h
  | translationWalkEnd => exact memOk_execTranslationWalkEnd h
  | joinedGroupStart => exact memOk_execJoinedGroupStart h
  | taskLaunch => exact memOk_execTaskLaunch h
  | taskEnd => exact memOk_execTaskEnd h
  | deadline => exact memOk_execDeadline h
  | frameBoundary => exact memOk_execFrameBoundary h
  | sleepuWake => exact memOk_execSleepuWake h
  | waitfWake => exact memOk_execWaitfWake h
  | rdvwWake => exact memOk_execRdvwWake h
  | cwaitWake => exact memOk_execCwaitWake h
  | cstatWake => exact memOk_execCstatWake h
  | fenceComplete => exact memOk_execFenceComplete h
  | mouldEntryWrite => exact memOk_execMouldEntryWrite h
  | formatQueueEntry => exact memOk_execFormatQueueEntry h
  | tctlResume => exact memOk_execTctlResume h
  | tctlEnd => exact memOk_execTctlEnd h
  | handlerModeEnd => exact memOk_execHandlerModeEnd h
  | supervisorDisposition => exact memOk_execSupervisorDisposition h
  | holdReachesMember => exact memOk_execHoldReachesMember h
  | releaseStart => exact memOk_execReleaseStart h
  | releaseReachesMember => exact memOk_execReleaseReachesMember h
  | landingBufferArrival => exact memOk_execLandingBufferArrival h
  | vaultOverrun => exact memOk_execVaultOverrun h
  | releasePoint => exact memOk_execReleasePoint h
  | acqPerform => exact memOk_execAcqPerform h
  | acqSuccess => exact memOk_execAcqSuccess h
  | tryacqPerform => exact memOk_execTryacqPerform h
  | sobindPerform => exact memOk_execSobindPerform h
  | atomicPerform => exact memOk_execAtomicPerform h
  | ahistPerform => exact memOk_execAhistPerform h
  | markerRetire => exact memOk_execMarkerRetire h
  | scrubStep => exact memOk_execScrubStep h
  | cresizeStart => exact memOk_execCresizeStart h
  | cresizeComplete => exact memOk_execCresizeComplete h
  | copyBeatRead => exact memOk_execCopyBeatRead h
  | copyBeatWrite => exact memOk_execCopyBeatWrite h
  | copyComplete => exact memOk_execCopyComplete h
  | matrixCommandStart => exact memOk_execMatrixCommandStart h
  | matrixBlockRead => exact memOk_execMatrixBlockRead h
  | matrixBlockAdd => exact memOk_execMatrixBlockAdd h
  | matrixScoreStep => exact memOk_execMatrixScoreStep h
  | msideLoadWrite => exact memOk_execMsideLoadWrite h
  | mrscWrite => exact memOk_execMrscWrite h
  | ldqkEntryRead => exact memOk_execLdqkEntryRead h
  | pageEntryRead => exact memOk_execPageEntryRead h
  | pageEntryApply => exact memOk_execPageEntryApply h
  | kmapWrite => exact memOk_execKmapWrite h
  | attnStart => exact memOk_execAttnStart h
  | attnBlockRead => exact memOk_execAttnBlockRead h
  | attnOperandRead => exact memOk_execAttnOperandRead h
  | attnEntryRead => exact memOk_execAttnEntryRead h
  | attnBitmapRead => exact memOk_execAttnBitmapRead h
  | attnSignatureRead => exact memOk_execAttnSignatureRead h
  | attnPageRead => exact memOk_execAttnPageRead h
  | attnComplete => exact memOk_execAttnComplete h
  | castRequestStart => exact memOk_execCastRequestStart h
  | castStartStep => exact memOk_execCastStartStep h
  | castChunkStep => exact memOk_execCastChunkStep h
  | castProbeStep => exact memOk_execCastProbeStep h
  | castConfirmStep => exact memOk_execCastConfirmStep h
  | castAllocateStep => exact memOk_execCastAllocateStep h
  | castEvictStep => exact memOk_execCastEvictStep h
  | castDepositStep => exact memOk_execCastDepositStep h
  | castRequestFinish => exact memOk_execCastRequestFinish h
  | nodeDispatch => exact memOk_execNodeDispatch h
  | controlNodeEvaluate => exact memOk_execControlNodeEvaluate h
  | placementClaim => exact memOk_execPlacementClaim h
  | placementReply => exact memOk_execPlacementReply h
  | placementGo => exact memOk_execPlacementGo h
  | errorTokenStep => exact memOk_execErrorTokenStep h
  | tspawnApply => exact memOk_execTspawnApply h
  | preemptStop => exact memOk_execPreemptStop h
  | saveBeat => exact memOk_execSaveBeat h
  | saveComplete => exact memOk_execSaveComplete h
  | taskRestore => exact memOk_execTaskRestore h
  | slotBoundary => exact memOk_execSlotBoundary h
  | mapPublish => exact memOk_execMapPublish h
  | panelBeatSend => exact memOk_execPanelBeatSend h
  | panelBeatLand => exact memOk_execPanelBeatLand h
  | pdoneApply => exact memOk_execPdoneApply h
  | dieLoss => exact memOk_execDieLoss h
  | flitArrival => exact memOk_execFlitArrival h
  | slackSlotRetry => exact memOk_execSlackSlotRetry h
  | retryOverrun => exact memOk_execRetryOverrun h
  | alignmentFlit => exact memOk_execAlignmentFlit h
  | alignmentBarrier => exact memOk_execAlignmentBarrier h
  | collBlockRead => exact memOk_execCollBlockRead h
  | collMemberStart => exact memOk_execCollMemberStart h
  | collSourceBeat => exact memOk_execCollSourceBeat h
  | collDestBeat => exact memOk_execCollDestBeat h
  | collComplete => exact memOk_execCollComplete h
  | chunkRelease => exact memOk_execChunkRelease h
  | tcincApply => exact memOk_execTcincApply h
  | cqtailDoorbell => exact memOk_execCqtailDoorbell h
  | cqctlWrite => exact memOk_execCqctlWrite h
  | devstatClear => exact memOk_execDevstatClear h
  | hostBar2Read => exact memOk_execHostBar2Read h
  | hostBar2Write => exact memOk_execHostBar2Write h
  | identify => exact memOk_execIdentify h
  | negotiate => exact memOk_execNegotiate h
  | resetFunction => exact memOk_execResetFunction h
  | resetDie => exact memOk_execResetDie h
  | resetDomain => exact memOk_execResetDomain h
  | writeCmd => exact memOk_execWriteCmd h
  | readCmd => exact memOk_execReadCmd h
  | mapCmd => exact memOk_execMapCmd h
  | unmapCmd => exact memOk_execUnmapCmd h
  | launchGraph => exact memOk_execLaunchGraph h
  | freezeGraph => exact memOk_execFreezeGraph h
  | freeGraph => exact memOk_execFreeGraph h
  | query => exact memOk_execQuery h
  | friezeForm => exact memOk_execFriezeForm h
  | friezeLoad => exact memOk_execFriezeLoad h
  | alignCmd => exact memOk_execAlignCmd h
  | remapSpares => exact memOk_execRemapSpares h
  | counters => exact memOk_execCounters h
  | haltCommand => exact memOk_execHaltCommand h
  | haltCommandComplete => exact memOk_execHaltCommandComplete h
  | resume => exact memOk_execResume h
  | peek => exact memOk_execPeek h
  | poke => exact memOk_execPoke h
  | eventCmd => exact memOk_execEventCmd h
  | eventPost => exact memOk_execEventPost h
  | powerOn => exact memOk_execPowerOn h
  | romBoot => exact memOk_execRomBoot h
  | fuseRemap => exact memOk_execFuseRemap h
  | linkTraining => exact memOk_execLinkTraining h
  | spareRemapApply => exact memOk_execSpareRemapApply h
  | thermalStep => exact memOk_execThermalStep h
  | thermalShutdown => exact memOk_execThermalShutdown h
  | reservedCommand => exact memOk_execReservedCommand h
  | pand | por | pxor | pnot =>
    dsimp only [exec]
    exact memOk_predOp h _ _
  | aadd | afadd | amax | amin | aand | aor | axor | axchg =>
    dsimp only [exec]
    exact memOk_atomic1 h _ _ _ _ _ _ _
  | _ =>
    dsimp only [exec]
    exact memOk_issue h _ _

end Sys2Proof.Machine
end

section
/-! PROOFS. The cycle of a core and the step: what reaches its item, what issues and what the agenda or an input brings, and the statement on
every step (R196, R199, R210). -/

namespace Sys2Proof.Machine

open Sys2Proof

@[simp ↓] theorem State.memOk_modStream (s : State) (id cl f) : (s.modStream id cl f).MemOk ↔ s.MemOk := Iff.rfl
@[simp ↓] theorem State.memOk_acting (s : State) (id cl) : (s.acting id cl).MemOk ↔ s.MemOk := Iff.rfl
@[simp ↓] theorem State.memOk_latch (s : State) (id cl i l) : (s.latch id cl i l).MemOk ↔ s.MemOk := Iff.rfl

@[simp ↓] theorem State.memOk_enter (s : State) (id cl fuel) : (s.enter id cl fuel).1.MemOk ↔ s.MemOk := by
  induction fuel generalizing s with
  | zero => rfl
  | succ fuel ih =>
    dsimp only [State.enter]
    repeat' split
    all_goals simp [ih]

@[simp ↓] theorem State.memOk_reachItem {s : State} (h : s.MemOk) (id cl) : (s.reachItem id cl).1.MemOk := by
  have henter := (State.memOk_enter s id cl 3).mpr h
  unfold State.reachItem
  split
  · next heq => rwa [heq] at henter
  · next heq =>
    rw [heq] at henter
    extract_lets s1 c st
    have h1 : s1.MemOk := by simp only [s1, State.memOk_correct, henter]
    repeat' split
    all_goals try exact h1
    next hnext _ _ => exact memOk_exec ((State.memOk_acting ..).mpr h1) _ _ hnext

@[simp ↓] theorem State.memOk_raiseE (s : State) (id f) : (s.raiseE id f).MemOk ↔ s.MemOk := by
  unfold State.raiseE
  split <;> simp

theorem State.memOk_stopCycle {s t : State} (hs : s.MemOk) (ht : t.MemOk) (id cl i) : (s.stopCycle id cl i t).MemOk := by
  unfold State.stopCycle
  split
  · next u hu =>
    repeat' split
    · exact memOk_exec ((State.memOk_acting ..).mpr hs) _ _ hu
    · simp [hs]
    · exact hs
  · exact ht

theorem State.memOk_issueAll {s : State} (hs : s.MemOk) (id todo) {t : State} (ht : t.MemOk) : NextOk (s.issueAll id todo t) := by
  induction todo generalizing t with
  | nil => exact (nextOk_next t).mpr ht
  | cons e todo ih =>
    obtain ⟨cl, f, l⟩ := e
    cases f with
    | some f => simp [State.issueAll, hs]
    | none =>
      cases l with
      | none => exact ih ht
      | some l =>
        have hexec := memOk_exec ((State.memOk_acting t id cl).mpr ht) (l.instr cl)
        dsimp only [State.issueAll]
        split
        · next u hu =>
          have hu := hexec u hu
          split
          · exact (nextOk_next _).mpr (State.memOk_stopCycle hs hu ..)
          · exact ih hu
        · exact hexec

@[simp ↓] theorem State.memOk_afterIssue (s : State) (id some_) : (s.afterIssue id some_).MemOk ↔ s.MemOk := by
  dsimp only [State.afterIssue]
  split <;> simp

@[simp ↓] theorem State.memOk_checkCopies (s : State) (id) : (s.checkCopies id).MemOk ↔ s.MemOk := by
  dsimp only [State.checkCopies]
  repeat' split
  all_goals simp

/-- The clusters of a core reach their items one after another. -/
theorem State.memOk_reachItems {f : State × List (Cluster × Option EFault) → Cluster → State × List (Cluster × Option EFault)}
    (hf : ∀ p cl, p.1.MemOk → (f p cl).1.MemOk) (cls : List Cluster) {p} (h : p.1.MemOk) : (cls.foldl f p).1.MemOk := by
  induction cls generalizing p with
  | nil => exact h
  | cons cl cls ih => exact ih (hf p cl h)

theorem State.memOk_issueCycle {s : State} (h : s.MemOk) (id) : NextOk (s.issueCycle id) := by
  unfold State.issueCycle
  extract_lets s1 step1
  have h1 : s1.MemOk := by simp [s1, h]
  split
  · exact (nextOk_next _).mpr h1
  · have h2 : (clusterOrder.foldl step1 (s1, [])).1.MemOk := by
      refine State.memOk_reachItems (fun p cl hp => ?_) _ h1
      dsimp only [step1]
      split
      · exact State.memOk_reachItem hp id cl
      · exact hp
    generalize clusterOrder.foldl step1 (s1, []) = reached at h2 ⊢
    obtain ⟨s2, fs⟩ := reached
    dsimp only
    split
    · next t ht =>
      have ht := State.memOk_issueAll h2 id _ h2 t ht
      simp [ht]
    · exact State.memOk_issueAll h2 id _ h2

theorem nextOk_orDropped {s : State} (h : s.MemOk) {o : Out} (ho : NextOk o) : NextOk (orDropped s o) := by
  unfold orDropped
  split
  · exact (nextOk_next s).mpr h
  · exact ho

theorem State.memOk_runDue {s : State} (h : s.MemOk) (p k) : NextOk (s.runDue p k) := by
  unfold State.runDue
  extract_lets _ _ s1 s2 out
  have h2 : s2.MemOk := by
    dsimp only [s2]
    repeat' split
    all_goals simp [s1, h]
  have hout : NextOk out := nextOk_orDropped h2 (memOk_exec h2 _)
  clear_value out s1 s2
  split
  · extract_lets
    split
    · simp [h]
    · exact hout
  · exact hout

theorem State.memOk_withSoon {s : State} (h : s.MemOk) {f : State → Out} (hf : ∀ t, t.MemOk → NextOk (f t)) : NextOk (s.withSoon f) := by
  have hrun := hf _ (show ({ s with soon := s.resizesNow } : State).MemOk from h)
  unfold State.withSoon
  split
  · next t ht => exact (nextOk_next _).mpr (hrun t ht)
  · exact hrun

theorem State.memOk_runPending {s : State} (h : s.MemOk) (p k) : NextOk (s.runPending p k) :=
  State.memOk_withSoon h fun _ ht => State.memOk_runDue ht p k

theorem State.memOk_takeInput (i k) {s : State} (h : s.MemOk) : NextOk (State.takeInput i k s) := by
  unfold State.takeInput
  extract_lets s1
  have h1 : s1.MemOk := h
  clear_value s1
  split
  · split
    · extract_lets s2
      have h2 : s2.MemOk := h1
      exact nextOk_orDropped h2 (memOk_exec h2 _)
    · exact (nextOk_next _).mpr h1
  all_goals simp [h1]

theorem State.memOk_runEvent {s : State} (h : s.MemOk) (id ev arg) : NextOk (s.runEvent id ev arg) :=
  State.memOk_withSoon h fun t ht =>
    memOk_exec (s := { t with cur := id, curCl := .c, arg := arg, ord := t.seq, raised := none, walked := false, away := none }) ht ev

theorem State.memOk_idleOn {s : State} (h : s.MemOk) : NextOk s.idleOn := by
  unfold State.idleOn
  split <;> simp [h]

/-- Each of a step's ways on: an input, an entry of the agenda, an event of the state, an issue, or the clocks alone. -/
theorem memOk_step {s : State} (h : s.MemOk) : NextOk (step s) := by
  have hs := (State.memOk_requeue s).mpr h
  unfold step
  extract_lets s1
  split
  · exact State.memOk_withSoon hs fun _ ht => State.memOk_takeInput _ _ ht
  · repeat' split
    · exact State.memOk_runEvent hs _ _ _
    · exact State.memOk_runPending hs _ _
    · exact State.memOk_runEvent hs _ _ _
    · exact State.memOk_issueCycle hs _
    · exact State.memOk_idleOn hs

/-- Settles O59: every arm of the model keeps the memories in canonical form, and so does the rest of a step. -/
theorem stepKeepsMemOk : Obligations.StepKeepsMemOk := by
  unfold Obligations.StepKeepsMemOk
  exact fun s t h ht => memOk_step h t ht

end Sys2Proof.Machine
end

section
/-! PROOFS. Translation walks (R205 to R207): what a walk finds in an entry of a level, what the end of its read leaves of the state, and
the statement on both. -/

namespace Sys2Proof.Machine

open Sys2Proof

/-! ### What an entry says (R206) -/

section
variable {va level e used : Nat}

/-- An entry that is valid and whose reserved fields are 0 is a page's or a table's. -/
theorem walkStep_valid (hvalid : e % 2 = 1) (hkind : e / 64 % 4 = 0) (hupper : e / 2 ^ 52 = 0) :
    walkStep va level e used = if e / 2 % 2 = 1 then
      (if level = 1 then .fail 2
      else if e / 256 % 2 ^ 44 * 256 % levelPage level ≠ 0 then .fail 3
      else .leaf ⟨va % 2 ^ 48 / levelPage level * levelPage level, levelPage level, e / 256 % 2 ^ 44 * 256, e / 4 % 2 == 1,
        e / 8 % 2 == 1, e / 32 % 2 == 1, e / 16 % 2 == 1, used⟩)
    else if level = 4 ∨ e / 4 % 16 ≠ 0 then .fail 2
    else if e / 256 % 2 ^ 44 * 256 % levelTable level ≠ 0 then .fail 3
    else .table (e / 256 % 2 ^ 44 * 256) := by
  have hpresent : fld e 0 1 ≠ 0 := by simp only [fld]; omega
  have hreserved : ¬ (fld e 6 2 ≠ 0 ∨ fld e 52 12 ≠ 0) := by simp only [fld, hupper]; omega
  rw [walkStep, if_neg hpresent, if_neg hreserved]
  rfl

theorem walkStep_table (hvalid : e % 2 = 1) (hkind : e / 64 % 4 = 0) (hupper : e / 2 ^ 52 = 0) (hpointer : e / 2 % 2 = 0)
    (hlevel : level < 4) (hflags : e / 4 % 16 = 0) (haligned : e / 256 % 2 ^ 44 * 256 % levelTable level = 0) :
    walkStep va level e used = .table (e / 256 % 2 ^ 44 * 256) := by
  rw [walkStep_valid hvalid hkind hupper, if_neg (by omega), if_neg (by omega), if_neg (not_not.mpr haligned)]

theorem walkStep_leaf (hvalid : e % 2 = 1) (hkind : e / 64 % 4 = 0) (hupper : e / 2 ^ 52 = 0) (hleaf : e / 2 % 2 = 1)
    (hlevel : 2 ≤ level) (haligned : e / 256 % 2 ^ 44 * 256 % levelPage level = 0) :
    walkStep va level e used = .leaf ⟨va % 2 ^ 48 / levelPage level * levelPage level, levelPage level, e / 256 % 2 ^ 44 * 256,
      e / 4 % 2 == 1, e / 8 % 2 == 1, e / 32 % 2 == 1, e / 16 % 2 == 1, used⟩ := by
  rw [walkStep_valid hvalid hkind hupper, if_pos hleaf, if_neg (by omega), if_neg (not_not.mpr haligned)]

theorem walkStep_absent (habsent : e % 2 = 0) : walkStep va level e used = .fail 1 := by
  have hpresent : fld e 0 1 = 0 := by simp only [fld]; omega
  rw [walkStep, if_pos hpresent]

end

/-! ### What the end of a read leaves (R207, R210) -/

/-- A correction keeps the core that acts and the order of events. -/
@[simp] theorem State.cur_correct (s : State) (pas : List Nat) : (s.correct pas).cur = s.cur := by
  obtain ⟨cs, sf, h⟩ := s.correct_eq pas
  rw [h]

@[simp] theorem State.seq_correct (s : State) (pas : List Nat) : (s.correct pas).seq = s.seq := by
  obtain ⟨cs, sf, h⟩ := s.correct_eq pas
  rw [h]

@[simp] theorem Core.tlb_correct (s : State) (pas : List Nat) (id : CoreId) : ((s.correct pas).core id).tlb = (s.core id).tlb :=
  State.core_correct_keeps Core.tlb (fun _ _ _ => rfl) s pas id

theorem Core.inHandler_correct (s : State) (pas : List Nat) (id : CoreId) :
    ((s.correct pas).core id).inHandler = (s.core id).inHandler := by
  simp only [Core.inHandler, State.ctx_correct]

/-- Outside handler mode a pause ends, and nothing else changes. -/
theorem State.unpause_of_item (s : State) {c : Core} (h : c.inHandler = false) :
    s.unpause c = c.modCtx fun x => { x with pause := none } := by
  rw [State.unpause, if_neg (Bool.eq_false_iff.mp h)]

/-- The state in which a walk has read its level's entry. -/
def State.entryRead (s : State) (w : Walk) : State := s.correct (pasFrom w.entryPa 8)

theorem State.unpause_entryRead {s : State} (w : Walk) (hitem : s.me.inHandler = false) :
    (s.entryRead w).unpause ((s.entryRead w).core s.cur) = ((s.entryRead w).core s.cur).modCtx fun x => { x with pause := none } :=
  State.unpause_of_item _ ((Core.inHandler_correct s _ s.cur).trans hitem)

section
variable {s : State} {w : Walk} (hpause : s.me.ctx.pause = some (.walk w)) (hread : s.poisoned (pasFrom w.entryPa 8) = false)
include hpause hread

/-- The entry names a table: its level is read next. -/
theorem exec_walkEnd_table {pa : Nat} (hstep : walkStep w.va w.level (s.numFrom w.entryPa 8) s.seq = .table pa) :
    exec .translationWalkEnd s = .next (((s.entryRead w).setCore s.cur
        (((s.entryRead w).core s.cur).modCtx fun x => { x with pause := some (.walk { w with level := w.level + 1, table := pa }) })).scheduleDom
      s.cur (nearestLatency (s.entryRead w).flat s.cur (Walk.entryPa { w with level := w.level + 1, table := pa })) .translationWalkEnd
      .none) := by
  rw [State.me] at hpause
  show execTranslationWalkEnd s = _
  simp only [execTranslationWalkEnd, hpause, State.cur_correct, State.poisoned_correct, State.numFrom_correct, State.seq_correct, hread,
    hstep, State.entryRead]
  rfl

/-- The entry is a page's: it fills the buffer, and the item that waits is checked afresh. -/
theorem exec_walkEnd_leaf {f : TlbEntry} (hstep : walkStep w.va w.level (s.numFrom w.entryPa 8) s.seq = .leaf f) :
    exec .translationWalkEnd s = .next ((s.entryRead w).setCore s.cur (Core.modCtx
      { (s.entryRead w).unpause ((s.entryRead w).core s.cur) with
        tlb := tlbFill 256 ((s.entryRead w).core s.cur).tlb { f with pinned := false } }
      fun x => { x with found := x.found ++ [{ f with pinned := false }] })) := by
  rw [State.me] at hpause
  show execTranslationWalkEnd s = _
  simp only [execTranslationWalkEnd, hpause, State.cur_correct, State.poisoned_correct, State.numFrom_correct, State.seq_correct, hread,
    hstep, State.entryRead]
  rfl

/-- The translation fails, which the core notes for the item that waits. -/
theorem exec_walkEnd_fail {reason : Nat} (hstep : walkStep w.va w.level (s.numFrom w.entryPa 8) s.seq = .fail reason) :
    exec .translationWalkEnd s = .next ((s.entryRead w).setCore s.cur (((s.entryRead w).unpause ((s.entryRead w).core s.cur)).modCtx
      fun x => { x with walkFail := some (w.va % 2 ^ 48 / 65536, w.level, reason) })) := by
  rw [State.me] at hpause
  show execTranslationWalkEnd s = _
  simp only [execTranslationWalkEnd, hpause, State.cur_correct, State.poisoned_correct, State.numFrom_correct, State.seq_correct, hread,
    hstep, State.entryRead]
  rfl

theorem walkEnd_table {pa : Nat} (hstep : walkStep w.va w.level (s.numFrom w.entryPa 8) s.seq = .table pa) :
    ∃ t w1, exec .translationWalkEnd s = .next t ∧ (t.core s.cur).ctx.pause = some (.walk w1) ∧ w1.level = w.level + 1 ∧
      w1.table = pa ∧ w1.va = w.va ∧ t.mem = s.mem := by
  refine ⟨_, { w with level := w.level + 1, table := pa }, exec_walkEnd_table hpause hread hstep, ?_, rfl, rfl, rfl, ?_⟩
  · rw [State.core_scheduleDom, State.core_setCore_self]
    rfl
  · exact s.mem_correct _

variable (hitem : s.me.inHandler = false)
include hitem

theorem walkEnd_leaf {f : TlbEntry} (hstep : walkStep w.va w.level (s.numFrom w.entryPa 8) s.seq = .leaf f) :
    ∃ t, exec .translationWalkEnd s = .next t ∧ t.mem = s.mem ∧ (t.core s.cur).ctx.pause = none ∧
      (t.core s.cur).tlb = tlbFill 256 s.me.tlb { f with pinned := false } ∧ ∀ k, k ≠ s.cur → (t.core k).tlb = (s.core k).tlb := by
  refine ⟨_, exec_walkEnd_leaf hpause hread hstep, s.mem_correct _, ?_, ?_, fun k hk => ?_⟩
  · rw [State.core_setCore_self, State.unpause_entryRead w hitem]
    rfl
  · rw [State.core_setCore_self, State.entryRead, Core.tlb_correct]
    rfl
  · rw [State.core_setCore_other _ _ _ _ hk, State.entryRead, Core.tlb_correct]

theorem walkEnd_fail {reason : Nat} (hstep : walkStep w.va w.level (s.numFrom w.entryPa 8) s.seq = .fail reason) :
    ∃ t, exec .translationWalkEnd s = .next t ∧ t.mem = s.mem ∧ (t.core s.cur).ctx.pause = none ∧ (t.core s.cur).tlb = s.me.tlb ∧
      (t.core s.cur).ctx.walkFail = some (w.va % 2 ^ 48 / 65536, w.level, reason) := by
  refine ⟨_, exec_walkEnd_fail hpause hread hstep, s.mem_correct _, ?_⟩
  rw [State.core_setCore_self, State.unpause_entryRead w hitem]
  exact ⟨rfl, Core.tlb_correct s _ s.cur, rfl⟩

end

/-- Settles O42: what the entry says decides what the end of the walk's read leaves. -/
theorem walksReadTheTables : Obligations.WalksReadTheTables := by
  unfold Obligations.WalksReadTheTables
  intro s w hpause hread hitem
  refine ⟨?_, ?_, fun habsent => walkEnd_fail hpause hread hitem (walkStep_absent habsent)⟩
  · rintro ⟨hvalid, hkind, hupper⟩ hpointer hlevel - hflags haligned
    exact walkEnd_table hpause hread (walkStep_table hvalid hkind hupper hpointer hlevel hflags haligned)
  · rintro ⟨hvalid, hkind, hupper⟩ hleaf hlevel - haligned
    obtain ⟨t, ht, hmem, hpaused, htlb, hothers⟩ :=
      walkEnd_leaf hpause hread hitem (walkStep_leaf hvalid hkind hupper hleaf hlevel haligned)
    exact ⟨t, _, ht, hmem, hpaused, htlb, hothers, rfl, rfl, rfl, rfl, beq_eq_decide _ _, beq_eq_decide _ _⟩

end Sys2Proof.Machine
end

section
/-! PROOFS. CRESIZE's start and completion, and the scrub step (R200, R210): the bytes that a clear of ways takes, the soft errors that a
correction takes, and the statement on both. -/

namespace Sys2Proof.Machine

open Sys2Proof

/-! ### The moving ways (R200) -/

/-- The address lies in the direct storage that a CRESIZE of a core moves. -/
def Cresize.Moved (r : Cresize) (id : CoreId) (pa : Nat) : Prop :=
  paSpace pa = 0 ∧ paCore pa = id ∧ 16 - max r.n r.c0 ≤ paOff pa / 524288 ∧ paOff pa / 524288 < 16 - min r.n r.c0

/-- Memory with the moving ways of a CRESIZE cleared, and no other byte changed. -/
def State.ClearedFrom (t s : State) (r : Cresize) : Prop :=
  ∀ pa, (r.Moved s.cur pa → t.mem.get pa = 0) ∧ (¬ r.Moved s.cur pa → t.mem.get pa = s.mem.get pa)

theorem State.get_clearWays (s : State) (id : CoreId) (p : Nat → Bool) (pa : Nat) : (s.clearWays id p).mem.get pa =
    if paSpace pa = 0 ∧ paCore pa = id ∧ p (paOff pa / 524288) = true then 0 else s.mem.get pa := by
  have hkeep := Mem.get_filter s.mem (fun pa => !(paSpace pa == 0 && paCore pa == id && p (paOff pa / 524288))) pa
  refine hkeep.trans ?_
  have hhit : (paSpace pa == 0 && paCore pa == id && p (paOff pa / 524288)) = true ↔
      paSpace pa = 0 ∧ paCore pa = id ∧ p (paOff pa / 524288) = true := by
    simp only [Bool.and_eq_true, beq_iff_eq, and_assoc]
  simp only [← hhit, Bool.not_eq_true', ite_not, ← Bool.not_eq_true]

theorem State.clearWays_clearedFrom (s : State) (r : Cresize) : (s.clearWays s.cur r.moves).ClearedFrom s r := by
  intro pa
  have hmoves : (paSpace pa = 0 ∧ paCore pa = s.cur ∧ r.moves (paOff pa / 524288) = true) ↔ r.Moved s.cur pa := by
    simp only [Cresize.moves, Cresize.Moved, Bool.and_eq_true, decide_eq_true_eq]
  rw [State.get_clearWays]
  exact ⟨fun h => if_pos (hmoves.mpr h), fun h => if_neg (mt hmoves.mp h)⟩

section
variable {s : State} {r : Cresize} {rest : List Cresize} (hfirst : s.me.cresizes = r :: rest)
include hfirst

theorem exec_cresizeStart_of_due (hdue : r.start = s.cresizeNow s.cur r) :
    exec .cresizeStart s = .next (s.clearWays s.cur r.moves) := by
  rw [State.me] at hfirst
  show execCresizeStart s = _
  rw [execCresizeStart, hfirst]
  exact if_pos hdue

theorem exec_cresizeComplete_of_due (hdue : r.done = s.cresizeNow s.cur r) :
    exec .cresizeComplete s = .next ((s.clearWays s.cur r.moves).modCore s.cur fun c =>
      { c with ways := r.n, cresizes := rest, resized := some r }) := by
  rw [State.me] at hfirst
  show execCresizeComplete s = _
  rw [execCresizeComplete, hfirst]
  exact if_pos hdue

end

/-! ### The scrub step (R210) -/

/-- The soft errors that are left when a list of them has been corrected. -/
theorem mem_soft_corrections (l : List Nat) (f : Nat → Core → Core) (s : State) (w : Nat) :
    w ∈ (l.foldl (fun (t : State) v => { t.modCore (paCore (8 * v)) (f v) with soft := t.soft.filter (· != v) }) s).soft ↔
      w ∈ s.soft ∧ w ∉ l := by
  induction l generalizing s with
  | nil => simp
  | cons v l ih => rw [List.foldl_cons, ih]; simp [and_assoc]

theorem State.mem_soft_correct (s : State) (pas : List Nat) (w : Nat) :
    w ∈ (s.correct pas).soft ↔ w ∈ s.soft ∧ ∀ pa ∈ pas, eccWord pa ≠ w := by
  rw [State.correct, mem_soft_corrections]
  simp +contextual

/-- What a scrub step reads of the memory and its errors. -/
def State.errors (s : State) : Mem × List Nat × List Nat := (s.mem, s.soft, s.poison)

/-- An uncorrectable word that a scrub step meets is counted with its core. -/
def State.countPoison (s : State) (w : Nat) : State :=
  s.modCore (paCore (8 * w)) fun c => { c with wear := (c.wear.1, c.wear.2.1 + 1, c.wear.2.2) }

theorem State.errors_postCandidates (s : State) : s.postCandidates.errors = s.errors := by
  refine foldl_keeps State.errors _ (fun _ _ => ?_) _ s
  rfl

theorem State.errors_countPoison (s : State) (ws : List Nat) : (ws.foldl State.countPoison s).errors = s.errors := by
  refine foldl_keeps State.errors _ (fun _ _ => ?_) ws s
  rfl

/-- The state once a scrub step has counted what it met and corrected the rest. -/
def State.scrubbed (s : State) : State :=
  (((s.poison.filter s.scrubs?).foldl State.countPoison s).correct ((s.soft.filter s.scrubs?).map (8 * ·))).postCandidates

theorem exec_scrubStep_of_due {s : State} (hdue : 64 * (s.scrubs + 1) ≤ s.clock) :
    exec .scrubStep s = .next { s.scrubbed with scrubs := s.scrubs + 1 } := if_pos (decide_eq_true hdue)

/-- A scrub step changes no byte and no uncorrectable word, and corrects exactly the words that it reads. -/
theorem State.scrubbed_errors (s : State) : s.scrubbed.mem = s.mem ∧ s.scrubbed.poison = s.poison ∧
    ∀ w, w ∈ s.scrubbed.soft ↔ w ∈ s.soft ∧ ¬ s.scrubs? w = true := by
  have hcounted := s.errors_countPoison (s.poison.filter s.scrubs?)
  have hposted := State.errors_postCandidates
    (((s.poison.filter s.scrubs?).foldl State.countPoison s).correct ((s.soft.filter s.scrubs?).map (8 * ·)))
  simp only [State.errors, Prod.mk.injEq] at hcounted hposted
  obtain ⟨hmem, hsoft, hpoison⟩ := hcounted
  obtain ⟨hmem', hsoft', hpoison'⟩ := hposted
  refine ⟨hmem'.trans ((State.mem_correct _ _).trans hmem), hpoison'.trans ((State.poison_correct _ _).trans hpoison), fun w => ?_⟩
  rw [State.scrubbed, hsoft', State.mem_soft_correct, hsoft]
  refine and_congr_right fun hw => ⟨fun h hread => ?_, fun h pa hpa => ?_⟩
  · exact h (8 * w) (List.mem_map_of_mem (List.mem_filter.mpr ⟨hw, hread⟩)) (Nat.mul_div_cancel_left w (by decide))
  · obtain ⟨v, hv, rfl⟩ := List.mem_map.mp hpa
    rintro rfl
    rw [eccWord, Nat.mul_div_cancel_left v (by decide)] at h
    exact h (List.mem_filter.mp hv).2

/-- Settles O45: a CRESIZE clears what moves, and a scrub step corrects what it reads. -/
theorem vaultsResizeAndScrub : Obligations.VaultsResizeAndScrub := by
  unfold Obligations.VaultsResizeAndScrub
  refine ⟨fun s r rest _ hfirst => ⟨fun hdue => ?_, fun hdue => ?_⟩, fun s hdue => ?_⟩
  · exact ⟨_, exec_cresizeStart_of_due hfirst hdue, s.clearWays_clearedFrom r, rfl⟩
  · refine ⟨_, exec_cresizeComplete_of_due hfirst hdue, s.clearWays_clearedFrom r, ?_⟩
    rw [State.core_modCore_self]
    exact ⟨rfl, rfl, rfl⟩
  · obtain ⟨hmem, hpoison, hsoft⟩ := s.scrubbed_errors
    refine ⟨_, exec_scrubStep_of_due hdue, hmem, rfl, hpoison, fun w hw => ((hsoft w).mp hw).1, fun w _ ⟨hspace, hplace⟩ hw => ?_⟩
    exact ((hsoft w).mp hw).2 (by simp only [State.scrubs?, hspace, hplace, beq_self_eq_true, Bool.and_self])

end Sys2Proof.Machine
end

section
/-! PROOFS. MARK, RDVW and CWAIT at their issue (R231, R232, R240). -/

namespace Sys2Proof.Machine

open Sys2Proof

theorem exec_mark_eq (m : BitVec 12) (mask : BitVec 5) (s : State) : exec (.mark m mask) s = execMark m mask s := rfl
theorem exec_rdvw_eq (m : BitVec 12) (mask : BitVec 5) (s : State) : exec (.rdvw m mask) s = execRdvw m mask s := rfl
theorem exec_cwait_eq (n : BitVec 4) (s : State) : exec (.cwait n) s = execCwait n s := rfl

theorem mem_maskEngines {mask : BitVec 5} {e : Nat} : e ∈ maskEngines mask ↔ e < 5 ∧ mask.getLsbD e = true := by
  rw [maskEngines, List.mem_filter, List.mem_range]

theorem nodup_maskEngines (mask : BitVec 5) : (maskEngines mask).Nodup := List.nodup_range.filter _

/-- A marker put at the end of an engine's queue. -/
def State.markFor (s : State) (m : BitVec 12) (ms : Vector (List Marker) 5) (e : Nat) : Vector (List Marker) 5 :=
  ms.set! e (ms[e]! ++ [⟨m, s.behind s.cur e, s.me.ctx.tau + 1⟩])

theorem State.foldl_markFor (s : State) (m : BitVec 12) {l : List Nat} (hl : l.Nodup) (ms : Vector (List Marker) 5) {e : Nat} (he : e < 5) :
    (l.foldl (s.markFor m) ms)[e]! =
      if e ∈ l then ms[e]! ++ [⟨m, s.behind s.cur e, s.me.ctx.tau + 1⟩] else ms[e]! := by
  induction l generalizing ms with
  | nil => rfl
  | cons k l ih =>
    obtain ⟨hk, hl⟩ := List.nodup_cons.mp hl
    rw [List.foldl_cons, ih hl, State.markFor, getElem!_set! _ he]
    by_cases hek : e = k
    · subst hek
      simp [hk]
    · simp [hek, Ne.symm hek]

section
variable {s : State} (hroomy : s.Roomy) (hhandler : s.me.inHandler = false)
include hroomy hhandler

theorem mark_issues {m : BitVec 12} {mask : BitVec 5}
    (hplace : ∀ e, e < 5 → mask.getLsbD e = true → (s.me.ctx.markers[e]!).length < 8) :
    Issues .c (.mark m mask) s
      (s.me.modCtx fun x => { x with markers := (maskEngines mask).foldl (s.markFor m) x.markers }) [] := by
  have hfull : (maskEngines mask).find? (fun e => decide (8 ≤ s.me.ctx.markers[e]!.length)) = none := by
    rw [List.find?_eq_none]
    intro e he
    obtain ⟨he5, hbit⟩ := mem_maskEngines.mp he
    simpa using hplace e he5 hbit
  refine issues_of_ok (exec_mark_eq m mask s) hroomy ?_
  simp only [engineOk_ok hhandler, bind, Except.bind, hfull]
  rfl

theorem rdvw_issues {m : BitVec 12} {mask : BitVec 5} (hmet : s.me.ctx.rdvFails m.toNat mask.toNat = 0) :
    Issues .c (.rdvw m mask) s s.me [] := by
  refine issues_of_ok (exec_rdvw_eq m mask s) hroomy ?_
  simp only [engineOk_ok hhandler, bind, Except.bind, hmet, if_true]
  rfl

theorem rdvw_waits {m : BitVec 12} {mask : BitVec 5} (hfails : s.me.ctx.rdvFails m.toNat mask.toNat ≠ 0)
    (hfree : s.me.isLocked = false) :
    IssuesAs .c (.rdvw m mask) s ⟨s.me, [], .wait (.rdvw m.toNat mask.toNat), none, [], []⟩ := by
  refine issuesAs_of_ok (exec_rdvw_eq m mask s) hroomy ?_
  simp only [engineOk_ok hhandler, bind, Except.bind, if_neg hfails, hfree]
  rfl

theorem cwait_issues {n : BitVec 4} (hmet : s.batches s.cur ≤ n.toNat) :
    IssuesAs .c (.cwait n) s ⟨s.me, [], .checked 2 0, none, [], []⟩ := by
  refine issuesAs_of_ok (exec_cwait_eq n s) hroomy ?_
  simp only [engineOk_ok hhandler, bind, Except.bind, if_pos hmet]
  rfl

theorem cwait_waits {n : BitVec 4} (hfails : n.toNat < s.batches s.cur) (hfree : s.me.isLocked = false) :
    IssuesAs .c (.cwait n) s ⟨s.me, [], .wait (.cwait n.toNat), none, [], []⟩ := by
  refine issuesAs_of_ok (exec_cwait_eq n s) hroomy ?_
  simp only [engineOk_ok hhandler, bind, Except.bind, if_neg (Nat.not_le.mpr hfails), hfree]
  rfl

omit hroomy

theorem rdvw_late {m : BitVec 12} {mask : BitVec 5} (hfails : s.me.ctx.rdvFails m.toNat mask.toNat ≠ 0)
    (hlocked : s.me.isLocked = true) : TrapsAt .c (.rdvw m mask) s .syncLate
      (BitVec.ofNat 64 (m.toNat + s.me.ctx.rdvFails m.toNat mask.toNat * 65536)) := by
  refine trapsAt_of_error (exec_rdvw_eq m mask s) ?_ (by decide)
  simp only [engineOk_ok hhandler, bind, Except.bind, if_neg hfails, hlocked, if_true]

theorem cwait_late {n : BitVec 4} (hfails : n.toNat < s.batches s.cur) (hlocked : s.me.isLocked = true) :
    TrapsAt .c (.cwait n) s .syncLate (BitVec.ofNat 64 (n.toNat + min (s.batches s.cur) 15 * 256)) := by
  refine trapsAt_of_error (exec_cwait_eq n s) ?_ (by decide)
  simp only [engineOk_ok hhandler, bind, Except.bind, if_neg (Nat.not_le.mpr hfails), hlocked, if_true]

end

/-- Settles O13: MARK's queues are those of the fold above; a wait goes on, waits or is late by its condition and the task's kind. -/
theorem markersAndWaitsIssue : Obligations.MarkersAndWaitsIssue := by
  unfold Obligations.MarkersAndWaitsIssue
  refine fun s hroomy hhandler => ⟨fun m mask hplace => ?mark, fun m mask => ?rdvw, fun n => ?cwait⟩
  case mark =>
    refine ⟨_, mark_issues hroomy hhandler hplace, fun e he => ?_⟩
    refine (s.foldl_markFor m (nodup_maskEngines mask) s.me.ctx.markers he).trans (if_congr ?_ rfl rfl)
    rw [mem_maskEngines, and_iff_right he]
  case rdvw =>
    exact ⟨rdvw_issues hroomy hhandler, rdvw_waits hroomy hhandler, rdvw_late hhandler⟩
  case cwait =>
    exact ⟨cwait_issues hroomy hhandler, cwait_waits hroomy hhandler, cwait_late hhandler⟩

end Sys2Proof.Machine
end

section
/-! PROOFS. The atomics and the sync instructions of S at their issue (R217, R219 to R226): the request that an atomic comes to once its
operands are popped, and the object that a sync instruction checks. -/

namespace Sys2Proof.Machine

open Sys2Proof

theorem exec_acas_eq (b : Fin 16) (cl : Cls) (fmt : Fmt) (rt d64 : Bool) (off : BitVec 24) (s : State) :
    exec (.acas b cl fmt rt d64 off) s = execAcas b cl fmt rt d64 off s := rfl
theorem exec_acq_eq (b : Fin 16) (cl : Cls) (gen : Bool) (off : BitVec 24) (s : State) :
    exec (.acq b cl gen off) s = execAcq b cl gen off s := rfl
theorem exec_tryacq_eq (b : Fin 16) (cl : Cls) (gen : Bool) (off : BitVec 24) (s : State) :
    exec (.tryacq b cl gen off) s = execTryacq b cl gen off s := rfl
theorem exec_rel_eq (b : Fin 16) (cl : Cls) (off : BitVec 24) (s : State) : exec (.rel b cl off) s = execRel b cl off s := rfl
theorem exec_sobind_eq (b : Fin 16) (cl : Cls) (slot : Fin 4) (off : BitVec 24) (s : State) :
    exec (.sobind b cl slot off) s = execSobind b cl slot off s := rfl

/-! ### Atomics (R225, R226) -/

/-- The atomics of one operand are those of their operations. -/
theorem exec_atomic1_eq {b : Fin 16} {cl : Cls} {fmt : Fmt} {rt d64 : Bool} {off : BitVec 24} (s : State) {op : AtomOp} {i : Instr}
    (h : (op, i) ∈ [(AtomOp.add, Instr.aadd b cl fmt rt d64 off), (.fadd, .afadd b cl fmt rt d64 off),
      (.max, .amax b cl fmt rt d64 off), (.min, .amin b cl fmt rt d64 off), (.and, .aand b cl fmt rt d64 off),
      (.or, .aor b cl fmt rt d64 off), (.xor, .axor b cl fmt rt d64 off), (.xchg, .axchg b cl fmt rt d64 off)]) :
    exec i s = atomic1 op b cl fmt rt d64 off s := by
  simp only [List.mem_cons, Prod.mk.injEq, List.not_mem_nil, or_false] at h
  obtain ⟨rfl, rfl⟩ | ⟨rfl, rfl⟩ | ⟨rfl, rfl⟩ | ⟨rfl, rfl⟩ | ⟨rfl, rfl⟩ | ⟨rfl, rfl⟩ | ⟨rfl, rfl⟩ | ⟨rfl, rfl⟩ := h <;> rfl

/-- The channels that an atomic names: cs, and sr where it wants the old value. -/
theorem legal_atomic {c : Core} {rt : Bool} (hcs : c.chanPresent chCs = true) (hsr : rt = true → c.chanPresent chSr = true) :
    legal (c.chanPresent chCs && (!rt || c.chanPresent chSr)) = .ok () := by
  cases rt <;> simp [legal, hcs, hsr]

/-- The address that an atomic or a sync instruction names. -/
def Core.offsetVa (c : Core) (b : Fin 16) (off : BitVec 24) : Word := c.ctx.st.b[b] + off.signExtend 64

/-- The bytes of an atomic's element. -/
def atomSize (d64 : Bool) : Nat := if d64 then 8 else 4

section
variable {s : State} {op : AtomOp} {b : Fin 16} {cl : Cls} {fmt : Fmt} {rt d64 : Bool} {off : BitVec 24} {v n : Word} {c0 c c1 : Core}
  {pa : Nat} (hplace : c0.reserveSr s.seq rt = .ok c)
include hplace

theorem atomicReqs_ok (hcheck : checkElem s s.cur c cl .rw (c.offsetVa b off) (atomSize d64) (atomSize d64) 0 false = .ok (pa, c1)) :
    atomicReqs op b cl fmt rt d64 off v n s c0 = .ok (.plain c1 (s.memReqs s.cur c1 (pasFrom pa (atomSize d64)) .atomicPerform
      (.atom ⟨op, Fmt.isSigned fmt, atomSize d64, pa, c.offsetVa b off, v, n, if rt then some s.seq else none, c1.posOf .s⟩)
      (s.latency s.cur cl (pasFrom pa (atomSize d64))))) := by
  rw [atomSize, Core.offsetVa] at hcheck
  simp only [atomicReqs, hplace, hcheck, bind, Except.bind, pure, Except.pure]
  rfl

theorem atomicReqs_align (halign : (c.offsetVa b off).toNat % atomSize d64 ≠ 0) :
    atomicReqs op b cl fmt rt d64 off v n s c0 = .error (.trap .align (accessInfo (c.offsetVa b off) 0 false)) := by
  rw [atomSize, Core.offsetVa] at halign
  simp only [atomicReqs, hplace, checkElem, if_pos halign, bind, Except.bind]
  rfl

end

/-- An atomic of one operand comes to its request once its channels are there and the operand is popped. -/
theorem atomic1_start {s : State} {op : AtomOp} {b : Fin 16} {cl : Cls} {fmt : Fmt} {rt d64 : Bool} {off : BitVec 24} {c c0 : Core}
    {e : ChanEntry} (hcs : c.chanPresent chCs = true) (hsr : rt = true → c.chanPresent chSr = true) (hpop : c.pop chCs = .ok (e, c0)) :
    (do legal (c.chanPresent chCs && (!rt || c.chanPresent chSr))
        let (e, c) ← c.pop chCs
        atomicReqs op b cl fmt rt d64 off e.word 0 s c) = atomicReqs op b cl fmt rt d64 off e.word 0 s c0 := by
  simp only [legal_atomic hcs hsr, hpop, bind, Except.bind]

/-- Settles O32: once the operands are popped every atomic is its request above. -/
theorem atomicsIssue : Obligations.AtomicsIssue := by
  unfold Obligations.AtomicsIssue
  intro s b cl fmt rt d64 off e f c0 c2 c3 c4 c pa hroomy hcs hsr hpop hplace
  refine ⟨fun op i hi => ?one, fun hpop' hplace' hcheck => ?two⟩
  case one =>
    have hstart := atomic1_start (s := s) (op := op) (b := b) (cl := cl) (fmt := fmt) (d64 := d64) (off := off) hcs hsr hpop
    exact ⟨fun c1 hcheck => issues_of_ok (exec_atomic1_eq s hi) hroomy (hstart.trans (atomicReqs_ok hplace hcheck)),
      fun halign => trapsAt_of_error (exec_atomic1_eq s hi) (hstart.trans (atomicReqs_align hplace halign)) (by decide)⟩
  case two =>
    refine issues_of_ok (exec_acas_eq ..) hroomy ?_
    simp only [legal_atomic hcs hsr, Core.pop2Cs, hpop, hpop', bind, Except.bind, pure, Except.pure]
    exact atomicReqs_ok hplace' hcheck

/-! ### Sync instructions (R217, R219 to R224) -/

/-- The object of a sync instruction of core c: 64 aligned bytes of a vault, which pass the checks. -/
def State.SyncReach (s : State) (b : Fin 16) (cl : Cls) (off : BitVec 24) (c : Core) (pa : Nat) (c1 : Core) : Prop :=
  (c.offsetVa b off).toNat % 64 = 0 ∧ paSpace pa = 0 ∧ checkBytes s s.cur c cl .rw (c.offsetVa b off) 64 0 false = .ok (pa, c1)

theorem syncObject_ok {s : State} {b : Fin 16} {cl : Cls} {off : BitVec 24} {c c1 : Core} {pa : Nat} (h : s.SyncReach b cl off c pa c1) :
    syncObject b cl off s c = .ok (c.offsetVa b off, pa, s.classLat cl, c1) := by
  obtain ⟨halign, hvault, hcheck⟩ := h
  rw [Core.offsetVa] at halign hcheck
  simp only [syncObject, halign, hcheck, vaultOnly, hvault, bind, Except.bind, pure, Except.pure, ne_eq, not_true_eq_false, if_true,
    if_false]
  rfl

theorem syncObject_align {s : State} {b : Fin 16} {cl : Cls} {off : BitVec 24} {c : Core} (h : (c.offsetVa b off).toNat % 64 ≠ 0) :
    syncObject b cl off s c = .error (.trap .align (accessInfo (c.offsetVa b off) 0 false)) := by
  rw [Core.offsetVa] at h
  simp only [syncObject, if_pos h]
  rfl

section
variable {s : State} {b : Fin 16} {cl : Cls} {off : BitVec 24} {e f : ChanEntry} {c0 c2 c3 c1 : Core} {pa : Nat}

theorem acq_issues (hroomy : s.Roomy) (hobject : s.SyncReach b cl off s.me pa c1) : Issues .s (.acq b cl false off) s c1
    (s.memReqs s.cur c1 (pasFrom pa 64) .acqPerform (.acq ⟨pa, s.me.offsetVa b off, none, none, c1.posOf .s⟩) (s.classLat cl)) := by
  refine issues_of_ok (exec_acq_eq ..) hroomy ?_
  simp only [popGen, syncObject_ok hobject, bind, Except.bind, pure, Except.pure, Bool.false_eq_true, if_false]

theorem rel_issues (hroomy : s.Roomy) (hobject : s.SyncReach b cl off s.me pa c1) : Issues .s (.rel b cl off) s c1
    (s.memReqs s.cur c1 (pasFrom pa 64) .releasePoint (.rel ⟨pa, s.me.offsetVa b off, c1.posOf .s⟩)
      (max (s.classLat cl) (s.writesLeft s.cur))) := by
  refine issues_of_ok (exec_rel_eq ..) hroomy ?_
  simp only [syncObject_ok hobject, bind, Except.bind, pure, Except.pure]

theorem tryacq_issues (hroomy : s.Roomy) (hsr : s.me.chanPresent chSr = true)
    (hplace : s.me.reserve chSr s.seq (BitVec.allOnes 64) = .ok c3) (hobject : s.SyncReach b cl off c3 pa c1) :
    Issues .s (.tryacq b cl false off) s c1
      (s.memReqs s.cur c1 (pasFrom pa 64) .tryacqPerform (.acq ⟨pa, c3.offsetVa b off, none, some s.seq, c1.posOf .s⟩)
        (s.classLat cl)) := by
  refine issues_of_ok (exec_tryacq_eq ..) hroomy ?_
  simp only [legal, hsr, popGen, hplace, syncObject_ok hobject, bind, Except.bind, pure, Except.pure, Bool.not_false, Bool.true_or,
    Bool.and_self, Bool.false_eq_true, if_true, if_false]

theorem acq_align (halign : (s.me.offsetVa b off).toNat % 64 ≠ 0) :
    TrapsAt .s (.acq b cl false off) s .align (accessInfo (s.me.offsetVa b off) 0 false) := by
  refine trapsAt_of_error (exec_acq_eq ..) ?_ (by decide)
  simp only [popGen, syncObject_align halign, bind, Except.bind, Bool.false_eq_true, if_false]

theorem rel_align (halign : (s.me.offsetVa b off).toNat % 64 ≠ 0) :
    TrapsAt .s (.rel b cl off) s .align (accessInfo (s.me.offsetVa b off) 0 false) := by
  refine trapsAt_of_error (exec_rel_eq ..) ?_ (by decide)
  simp only [syncObject_align halign, bind, Except.bind]

variable (hroomy : s.Roomy) (hcs : s.me.chanPresent chCs = true) (hpop : s.me.pop chCs = .ok (e, c0))
include hroomy hcs hpop

theorem acq_generation_issues (hobject : s.SyncReach b cl off c0 pa c1) : Issues .s (.acq b cl true off) s c1
    (s.memReqs s.cur c1 (pasFrom pa 64) .acqPerform
      (.acq ⟨pa, c0.offsetVa b off, some (e.word.setWidth 32), none, c1.posOf .s⟩) (s.classLat cl)) := by
  refine issues_of_ok (exec_acq_eq ..) hroomy ?_
  simp only [popGen, legal, hcs, hpop, syncObject_ok hobject, bind, Except.bind, pure, Except.pure, if_true]

theorem tryacq_generation_issues (hsr : s.me.chanPresent chSr = true)
    (hplace : c0.reserve chSr s.seq (BitVec.allOnes 64) = .ok c3) (hobject : s.SyncReach b cl off c3 pa c1) :
    Issues .s (.tryacq b cl true off) s c1
      (s.memReqs s.cur c1 (pasFrom pa 64) .tryacqPerform
        (.acq ⟨pa, c3.offsetVa b off, some (e.word.setWidth 32), some s.seq, c1.posOf .s⟩) (s.classLat cl)) := by
  refine issues_of_ok (exec_tryacq_eq ..) hroomy ?_
  simp only [popGen, legal, hcs, hsr, hpop, hplace, syncObject_ok hobject, bind, Except.bind, pure, Except.pure, Bool.not_true,
    Bool.or_true, Bool.and_self, if_true]

theorem sobind_issues {slot : Fin 4} (hpop' : c0.pop chCs = .ok (f, c2)) (hobject : s.SyncReach b cl off c2 pa c1)
    (hbase : canonical e.word.toNat = true) (hlen : f.word.toNat ≤ 2 ^ 47) : Issues .s (.sobind b cl slot off) s c1
      (s.memReqs s.cur c1 (pasFrom pa 64) .sobindPerform (.bind ⟨pa, c2.offsetVa b off, slot, e.word, f.word, c1.posOf .s⟩)
        (s.classLat cl)) := by
  refine issues_of_ok (exec_sobind_eq ..) hroomy ?_
  simp only [legal, hcs, Core.pop2Cs, hpop, hpop', syncObject_ok hobject, hbase, Nat.not_lt.mpr hlen, bind, Except.bind, pure,
    Except.pure, Bool.not_true, Bool.false_eq_true, or_self, if_true, if_false]

end

/-- Settles O33: each sync instruction is its request above, or stops at a misaligned object. -/
theorem syncInstructionsIssue : Obligations.SyncInstructionsIssue := by
  unfold Obligations.SyncInstructionsIssue
  intro s b cl off slot e f c0 c2 c3 c1 pa hroomy
  refine ⟨fun hobject => ⟨acq_issues hroomy hobject, rel_issues hroomy hobject⟩, fun hsr hplace => tryacq_issues hroomy hsr hplace,
    fun hcs hpop => ⟨acq_generation_issues hroomy hcs hpop, tryacq_generation_issues hroomy hcs hpop, fun hpop' hobject hbase hlen => ?_⟩,
    fun halign => ⟨acq_align halign, rel_align halign⟩⟩
  exact sobind_issues hroomy hcs hpop hpop' hobject hbase hlen

end Sys2Proof.Machine
end

section
/-! PROOFS. Sync objects (R214, R215, R220 to R224): the object that a read leaves, two numbers written beside each other, and what an
acquire, a release and a bind come to. -/

namespace Sys2Proof.Machine

open Sys2Proof

theorem exec_acqPerform_eq (s : State) : exec .acqPerform s = execAcqPerform s := rfl
theorem exec_acqSuccess_eq (s : State) : exec .acqSuccess s = execAcqSuccess s := rfl
theorem exec_tryacqPerform_eq (s : State) : exec .tryacqPerform s = execTryacqPerform s := rfl
theorem exec_releasePoint_eq (s : State) : exec .releasePoint s = execReleasePoint s := rfl
theorem exec_sobindPerform_eq (s : State) : exec .sobindPerform s = execSobindPerform s := rfl

/-! ### Numbers written beside each other (R7, R200) -/

theorem pasFrom_add (pa m n : Nat) : pasFrom pa (m + n) = pasFrom pa m ++ pasFrom (pa + m) n := by
  simp only [pasFrom, List.range_add, List.map_append, List.map_map]
  exact congrArg _ (List.map_congr_left fun i _ => (Nat.add_assoc pa m i).symm)

section
variable {s : State} {pa m n a b : Nat} (hwf : s.mem.wf = true)
include hwf

theorem State.get_stored_other {bs : List Byte} {q : Nat} (h : q ∉ pasFrom pa bs.length) : (s.stored pa bs).get q = s.mem.get q :=
  State.get_poke_other hwf h

theorem State.num_stored (hstill : ∀ q ∈ pasFrom pa (m + n), s.inMotion q = false) :
    (s.stored pa (leBytes a m ++ leBytes b n)).num pa m = a % 256 ^ m ∧
      (s.stored pa (leBytes a m ++ leBytes b n)).num (pa + m) n = b % 256 ^ n := by
  have hlen : (leBytes a m ++ leBytes b n).length = m + n := by rw [List.length_append, length_leBytes, length_leBytes]
  have hbytes : (pasFrom pa (m + n)).map (s.stored pa (leBytes a m ++ leBytes b n)).get = leBytes a m ++ leBytes b n := by
    have h := State.map_get_poke (pa := pa) (bs := leBytes a m ++ leBytes b n) hwf (by rwa [hlen])
    rwa [hlen] at h
  rw [pasFrom_add, List.map_append] at hbytes
  obtain ⟨hfirst, hsecond⟩ := List.append_inj hbytes (by rw [List.length_map, length_pasFrom, length_leBytes])
  rw [Mem.num_eq, Mem.num_eq, hfirst, hsecond, leNat_leBytes, leNat_leBytes]
  exact ⟨rfl, rfl⟩

end

/-! ### The object (R214) -/

theorem State.syncObj_congr {s t : State} (hmem : t.mem = s.mem) (hmotion : ∀ q, t.inMotion q = s.inMotion q) (pa : Nat) :
    t.syncObj pa = s.syncObj pa := by
  have hbyte : t.byteAt = s.byteAt := by
    funext q
    rw [State.byteAt, State.byteAt, hmem, hmotion]
  have hnum : t.numFrom = s.numFrom := by
    funext q n
    rw [State.numFrom, State.numFrom, State.bytesFrom, State.bytesFrom, hbyte]
  simp only [State.syncObj, hnum]

theorem State.numFrom_lt (s : State) (pa n : Nat) : s.numFrom pa n < 256 ^ n := by
  have h := leNat_lt (s.bytesFrom pa n)
  rwa [State.bytesFrom, List.length_map, length_pasFrom] at h

/-- What a well-formed object holds. -/
theorem State.syncObj_fits {s : State} {pa : Nat} {o : SyncObj} (h : s.syncObj pa = some o) :
    o.g < 2 ^ 32 ∧ (o.kind = .barrier → o.h < o.n ∧ o.n ≤ 393216) ∧ (o.kind = .event → o.h = 0) := by
  have hg := s.numFrom_lt (pa + 0) 4
  simp only [State.syncObj] at h
  split at h
  · exact absurd h nofun
  · next k _ =>
    obtain ⟨⟨-, hok, -⟩, ho⟩ := Option.ite_none_right_eq_some.mp h
    rw [← Option.some.inj ho]
    cases k with
    | mutex => exact ⟨hg, nofun, nofun⟩
    | barrier =>
      simp only [Bool.and_eq_true, decide_eq_true_eq] at hok
      obtain ⟨⟨-, hn⟩, hh⟩ := hok
      exact ⟨hg, fun _ => ⟨hh, hn⟩, nofun⟩
    | event => exact ⟨hg, nofun, fun _ => beq_iff_eq.mp hok⟩

@[simp] theorem State.syncObj_noteRead (s : State) (id : CoreId) (pas : List Nat) (pa : Nat) :
    (s.noteRead id pas).syncObj pa = s.syncObj pa :=
  State.syncObj_congr (s.mem_noteRead id pas) (s.inMotion_noteRead id pas) pa

@[simp] theorem State.poisoned_noteRead (s : State) (id : CoreId) (pas qs : List Nat) :
    (s.noteRead id pas).poisoned qs = s.poisoned qs := by
  obtain ⟨cs, sf, h⟩ := s.noteRead_eq id pas
  rw [h]
  rfl

/-! ### A sync object is read (R210, R243, R314) -/

/-- The state in which the object at an address has been read. -/
def State.syncRead (s : State) (pa : Nat) : State := (s.unbuffer [pa]).noteRead s.cur (pasFrom pa 64)

section
variable (s : State) (pa : Nat)

theorem State.syncRead_def : (s.unbuffer [pa]).noteRead s.cur (pasFrom pa 64) = s.syncRead pa := rfl

theorem State.syncRead_eq : ∃ cs sf, s.syncRead pa = { s with cores := cs, soft := sf } := by
  obtain ⟨cs, hu⟩ := s.unbuffer_eq [pa]
  obtain ⟨ds, sf, hn⟩ := (s.unbuffer [pa]).noteRead_eq s.cur (pasFrom pa 64)
  rw [State.syncRead, hn, hu]
  exact ⟨ds, sf, rfl⟩

@[simp] theorem State.mem_syncRead : (s.syncRead pa).mem = s.mem := by obtain ⟨cs, sf, h⟩ := s.syncRead_eq pa; rw [h]
@[simp] theorem State.cur_syncRead : (s.syncRead pa).cur = s.cur := by obtain ⟨cs, sf, h⟩ := s.syncRead_eq pa; rw [h]
@[simp] theorem State.clock_syncRead : (s.syncRead pa).clock = s.clock := by obtain ⟨cs, sf, h⟩ := s.syncRead_eq pa; rw [h]
@[simp] theorem State.ord_syncRead : (s.syncRead pa).ord = s.ord := by obtain ⟨cs, sf, h⟩ := s.syncRead_eq pa; rw [h]
@[simp] theorem State.away_syncRead : (s.syncRead pa).away = s.away := by obtain ⟨cs, sf, h⟩ := s.syncRead_eq pa; rw [h]

@[simp] theorem State.inMotion_syncRead (q : Nat) : (s.syncRead pa).inMotion q = s.inMotion q := by
  rw [State.syncRead, State.inMotion_noteRead, State.inMotion_unbuffer]

@[simp] theorem State.syncObj_syncRead (q : Nat) : (s.syncRead pa).syncObj q = s.syncObj q :=
  State.syncObj_congr (s.mem_syncRead pa) (s.inMotion_syncRead pa) q

theorem State.ctx_syncRead : ∃ k, ((s.syncRead pa).core s.cur).ctx = { s.me.ctx with copy := k } := by
  obtain ⟨k, h⟩ := State.ctx_noteRead (s.unbuffer [pa]) s.cur (pasFrom pa 64)
  exact ⟨k, h.trans (by rw [State.ctx_unbuffer]; rfl)⟩

theorem State.isLocked_syncRead : ((s.syncRead pa).core s.cur).isLocked = s.me.isLocked := by
  obtain ⟨l, h⟩ := s.core_unbuffer [pa] s.cur
  rw [State.syncRead, State.core_noteRead_keeps Core.isLocked (fun _ _ _ => rfl) (fun _ _ => rfl), h]
  rfl

end

theorem State.syncEcc_eq_none {s : State} {pa : Nat} (va : Word) (h : s.poisoned (pasFrom pa 64) = false) : s.syncEcc pa va = none := by
  refine List.find?_eq_none.mpr fun e he => Bool.eq_false_iff.mp (State.poisoned_of_subset (fun q hq => ?_) h)
  obtain ⟨i, hi, rfl⟩ := List.mem_map.mp he
  have hi := List.mem_range.mp hi
  simp only [El.pas, mem_pasFrom] at hq ⊢
  omega

theorem State.syncEcc_syncRead {s : State} {pa : Nat} (va : Word) (h : s.poisoned (pasFrom pa 64) = false) :
    (s.syncRead pa).syncEcc pa va = none := by
  refine State.syncEcc_eq_none va ?_
  obtain ⟨cs, sf, hr⟩ := s.syncRead_eq pa
  rwa [hr]

/-! ### Fields G and H (R214, R215) -/

@[simp] theorem State.inMotion_putSync (s : State) (pa g h q : Nat) : (s.putSync pa g h).inMotion q = s.inMotion q := rfl

section
variable {s : State} {pa g h : Nat} (hwf : s.mem.wf = true)
include hwf

theorem State.get_putSync_other {q : Nat} (hq : q ∉ pasFrom pa 8) : (s.putSync pa g h).mem.get q = s.mem.get q :=
  State.get_stored_other hwf hq

theorem State.num_putSync (hstill : ∀ q ∈ pasFrom pa 64, s.inMotion q = false) :
    (s.putSync pa g h).mem.num pa 4 = g % 2 ^ 32 ∧ (s.putSync pa g h).mem.num (pa + 4) 4 = h % 2 ^ 32 :=
  State.num_stored hwf fun q hq => hstill q (by rw [mem_pasFrom] at hq ⊢; omega)

end

/-! ### Acquires (R215, R220 to R222) -/

theorem State.mem_acquire (s : State) (id : CoreId) (pa : Nat) (o : SyncObj) :
    (s.acquire id pa o).mem = if o.kind = .mutex then (s.putSync pa o.g (holderOf id)).mem else s.mem := by
  rw [State.acquire, State.mem_reveal]
  split <;> rfl

theorem State.core_acquire (s : State) (id : CoreId) (pa : Nat) (o : SyncObj) (d : CoreId) : (s.acquire id pa o).core d = s.core d := by
  rw [State.acquire]
  split <;> rfl

theorem State.cur_acquire (s : State) (id : CoreId) (pa : Nat) (o : SyncObj) : (s.acquire id pa o).cur = s.cur := by
  rw [State.acquire]
  split <;> rfl

theorem State.away_acquire (s : State) (id : CoreId) (pa : Nat) (o : SyncObj) : (s.acquire id pa o).away = s.away := by
  rw [State.acquire]
  split <;> rfl

/-- Memory behind an acquire that succeeds: a mutex has its holder, and no other object changes. -/
theorem State.acquire_keeps {s t : State} {pa : Nat} {o : SyncObj} {id : CoreId} (hwf : s.mem.wf = true)
    (hstill : ∀ q ∈ pasFrom pa 64, s.inMotion q = false) (hobj : s.syncObj pa = some o) (hmem : t.mem = (s.acquire id pa o).mem) :
    (∀ q, q ∉ pasFrom pa 8 → t.mem.get q = s.mem.get q) ∧
      if o.kind = .mutex then t.mem.num pa 4 = o.g ∧ t.mem.num (pa + 4) 4 = holderOf id % 2 ^ 32 else t.mem = s.mem := by
  obtain ⟨hg, -, -⟩ := State.syncObj_fits hobj
  rw [hmem, State.mem_acquire]
  split
  · have hnum := State.num_putSync (g := o.g) (h := holderOf id) hwf hstill
    rw [Nat.mod_eq_of_lt hg] at hnum
    exact ⟨fun q hq => State.get_putSync_other hwf hq, hnum⟩
  · exact ⟨fun _ _ => rfl, rfl⟩

section
variable {s : State} {r : AcqReq} {o : SyncObj} (harg : s.arg = .acq r) (hpoison : s.poisoned (pasFrom r.pa 64) = false)
  (hobj : s.syncObj r.pa = some o)
include harg hpoison hobj

section
variable (htest : o.test r.gen = some true)
include htest

theorem exec_acqPerform_succeeds : exec .acqPerform s = .next ((s.syncRead r.pa).acquire s.cur r.pa o) := by
  simp only [exec_acqPerform_eq, execAcqPerform, harg, State.syncRead_def, State.syncEcc_syncRead r.va hpoison, State.syncObj_syncRead,
    State.cur_syncRead, hobj, htest, Option.bind_some, Option.map_some]

theorem exec_tryacqPerform_succeeds : exec .tryacqPerform s =
    .next (((s.syncRead r.pa).acquire s.cur r.pa o).returnOld r.chan (vecOfWord 1)) := by
  simp only [exec_tryacqPerform_eq, execTryacqPerform, harg, State.syncRead_def, State.syncEcc_syncRead r.va hpoison,
    State.syncObj_syncRead, State.cur_syncRead, hobj, htest, Option.bind_some, Option.map_some]
  rfl

end

section
variable (htest : o.test r.gen = some false)
include htest

theorem exec_tryacqPerform_fails : exec .tryacqPerform s = .next ((s.syncRead r.pa).returnOld r.chan (vecOfWord 0)) := by
  simp only [exec_tryacqPerform_eq, execTryacqPerform, harg, State.syncRead_def, State.syncEcc_syncRead r.va hpoison,
    State.syncObj_syncRead, hobj, htest, Option.bind_some, Option.map_some]
  rfl

theorem exec_acqPerform_waits (hfree : s.me.isLocked = false) : exec .acqPerform s =
    .next ((s.syncRead r.pa).modCore s.cur fun c => c.modCtx fun x => { x with pause := some (.acquire r s.clock s.ord) }) := by
  simp only [exec_acqPerform_eq, execAcqPerform, harg, State.syncRead_def, State.syncEcc_syncRead r.va hpoison, State.syncObj_syncRead,
    State.cur_syncRead, State.clock_syncRead, State.ord_syncRead, State.isLocked_syncRead, hobj, htest, hfree, Option.bind_some,
    Option.map_some, Bool.false_eq_true, if_false]

theorem exec_acqPerform_late (hlocked : s.me.isLocked = true) : exec .acqPerform s =
    .next ((s.syncRead r.pa).takeTrap s.cur .syncLate (BitVec.ofNat 64 (o.g + o.h * 2 ^ 32)) r.pos) := by
  simp only [exec_acqPerform_eq, execAcqPerform, harg, State.syncRead_def, State.syncEcc_syncRead r.va hpoison, State.syncObj_syncRead,
    State.cur_syncRead, State.isLocked_syncRead, hobj, htest, hlocked, Option.bind_some, Option.map_some, if_true]

end

end

/-- The answer of a TRYACQ that has read its object fills its place on sr (R222). -/
theorem State.chan_answer {s u : State} {pa id : Nat} {ret : Option Nat} (hret : ret = some id) (haway : s.away = none) (v : Word)
    (hcur : u.cur = s.cur) (hhome : u.away = s.away) (hcore : u.core s.cur = (s.syncRead pa).core s.cur) :
    ((u.returnOld ret (vecOfWord v)).core s.cur).ctx.chan[chSr] =
      (s.me.ctx.chan[chSr]).map fun e => if e.id = id then { e with v := vecOfWord v, landed := true } else e := by
  obtain ⟨k, hctx⟩ := s.ctx_syncRead pa
  have h := State.chan_returnOld id (vecOfWord v) (hhome.trans haway)
  rw [hcur, hcore, hctx] at h
  rw [hret, h]

/-- A blocked acquire that can be served is, and the task clock goes on in the next cycle (R221). -/
theorem exec_acqSuccess {s : State} {r : AcqReq} {since ord : Nat} {o : SyncObj} (hpause : s.me.ctx.pause = some (.acquire r since ord))
    (hsince : since < s.clock) (hgoes : s.me.stopped = false) (hpoison : s.poisoned (pasFrom r.pa 64) = false)
    (hobj : s.syncObj r.pa = some o) (htest : o.test r.gen = some true) : exec .acqSuccess s =
      .next (((s.noteRead s.cur (pasFrom r.pa 64)).acquire s.cur r.pa o).modCore s.cur fun c =>
        c.modCtx fun x => { x with pause := some (.resume (s.clock + 1)) }) := by
  rw [State.me] at hpause hgoes
  have htrue {t : State} (h : t.syncObj r.pa = some o) : t.acqTest r = true := by
    simp only [State.acqTest, h, Option.bind_some, htest]
  have hready : s.acqReady s.cur = true := by
    simp only [State.acqReady, hpause, hgoes, decide_eq_true hsince, htrue hobj, Bool.not_false, Bool.true_or, Bool.and_self]
  have hobj' := (s.syncObj_noteRead s.cur (pasFrom r.pa 64) r.pa).trans hobj
  have hecc := State.syncEcc_eq_none (s := s.noteRead s.cur (pasFrom r.pa 64)) r.va (by rwa [State.poisoned_noteRead])
  have htest' := htrue hobj'
  obtain ⟨cs, sf, hread⟩ := s.noteRead_eq s.cur (pasFrom r.pa 64)
  rw [hread] at hobj' hecc htest'
  simp only [exec_acqSuccess_eq, execAcqSuccess, hpause, hready, hread, hobj', hecc, htest', Bool.not_true, Bool.false_eq_true, if_false,
    if_true]

/-! ### Releases (R215, R217, R223) -/

/-- The writes that a release of an object makes public. -/
def State.published (s : State) (pa : Nat) (o : SyncObj) : State :=
  { s with ledger := s.ledger.map fun w =>
      if w.visible s.cur && s.inRanges s.cur o w && !w.pubs.contains pa then { w with pubs := pa :: w.pubs } else w }

/-- Fields G and H of an object that is released. -/
def SyncObj.released (o : SyncObj) : Nat × Nat :=
  match o.kind with
  | .mutex => ((o.g + 1) % 2 ^ 32, 0)
  | .barrier => if o.h + 1 = o.n then ((o.g + 1) % 2 ^ 32, 0) else (o.g, o.h + 1)
  | .event => ((o.g + 1) % 2 ^ 32, o.h)

/-- The state in which an object that has been read is released. -/
def State.releaseObj (s : State) (pa : Nat) (o : SyncObj) : State :=
  ((s.syncRead pa).published pa o).putSync pa o.released.1 o.released.2

section
variable {s : State} {r : RelReq} {o : SyncObj} (harg : s.arg = .rel r) (hpoison : s.poisoned (pasFrom r.pa 64) = false)
  (hobj : s.syncObj r.pa = some o)
include harg hpoison hobj

theorem exec_releasePoint_refused (hkind : o.kind = .mutex) (hother : o.h ≠ holderOf s.cur) :
    exec .releasePoint s = .next ((s.syncRead r.pa).takeTrap s.cur .protection (accessInfo r.va 0 false) r.pos) := by
  simp only [exec_releasePoint_eq, execReleasePoint, harg, State.syncRead_def, State.syncEcc_syncRead r.va hpoison,
    State.syncObj_syncRead, State.cur_syncRead, hobj, hkind, hother, ne_eq, not_false_eq_true, and_self, if_true, State.syncStop]

theorem exec_releasePoint (hmine : o.kind ≠ .mutex ∨ o.h = holderOf s.cur) :
    exec .releasePoint s = .next (s.releaseObj r.pa o) := by
  have hgoes : ¬ (o.kind = .mutex ∧ o.h ≠ holderOf s.cur) := fun h => hmine.elim (· h.1) h.2
  simp only [exec_releasePoint_eq, execReleasePoint, harg, State.syncRead_def, State.syncEcc_syncRead r.va hpoison,
    State.syncObj_syncRead, State.cur_syncRead, hobj, if_neg hgoes]
  rw [State.releaseObj, SyncObj.released]
  cases o.kind with
  | mutex | event => simp only [State.published, State.cur_syncRead]
  | barrier => simp only [State.published, State.cur_syncRead]; split <;> rfl

end

section
variable {s : State} {pa : Nat} {o : SyncObj} (hwf : s.mem.wf = true)
include hwf

theorem State.get_releaseObj_other {q : Nat} (hq : q ∉ pasFrom pa 8) : (s.releaseObj pa o).mem.get q = s.mem.get q :=
  (State.get_putSync_other (s := (s.syncRead pa).published pa o) (by rwa [← s.mem_syncRead pa] at hwf) hq).trans
    (congrArg (Mem.get · q) (s.mem_syncRead pa))

theorem State.num_releaseObj (hstill : ∀ q ∈ pasFrom pa 64, s.inMotion q = false) :
    (s.releaseObj pa o).mem.num pa 4 = o.released.1 % 2 ^ 32 ∧ (s.releaseObj pa o).mem.num (pa + 4) 4 = o.released.2 % 2 ^ 32 :=
  State.num_putSync (s := (s.syncRead pa).published pa o) (by rwa [← s.mem_syncRead pa] at hwf)
    fun q hq => (s.inMotion_syncRead pa q).trans (hstill q hq)

end

theorem SyncObj.released_mutex {o : SyncObj} (h : o.kind = .mutex) : o.released = ((o.g + 1) % 2 ^ 32, 0) := by
  rw [SyncObj.released, h]

theorem SyncObj.released_barrier {o : SyncObj} (h : o.kind = .barrier) :
    o.released = if o.h + 1 = o.n then ((o.g + 1) % 2 ^ 32, 0) else (o.g, o.h + 1) := by
  rw [SyncObj.released, h]

theorem SyncObj.released_event {o : SyncObj} (h : o.kind = .event) : o.released = ((o.g + 1) % 2 ^ 32, o.h) := by
  rw [SyncObj.released, h]

/-! ### Binds (R224) -/

/-- The state in which a range has been bound to a slot of an object that has been read. -/
def State.bindObj (s : State) (r : BindReq) : State :=
  let bs := leBytes (r.base.toNat % 2 ^ 48) 6 ++ leBytes r.len.toNat 6
  { s.syncRead r.pa with mem := (s.syncRead r.pa).stored (r.pa + 16 + 12 * r.slot.val) bs }

theorem exec_sobindPerform {s : State} {r : BindReq} {o : SyncObj} (harg : s.arg = .bind r)
    (hpoison : s.poisoned (pasFrom r.pa 64) = false) (hobj : s.syncObj r.pa = some o) :
    exec .sobindPerform s = .next (s.bindObj r) := by
  simp only [exec_sobindPerform_eq, execSobindPerform, harg, State.syncRead_def, State.syncEcc_syncRead r.va hpoison,
    State.syncObj_syncRead, hobj]
  rfl

section
variable {s : State} {r : BindReq} (hwf : s.mem.wf = true)
include hwf

theorem State.get_bindObj_other {q : Nat} (hq : q ∉ pasFrom (r.pa + 16 + 12 * r.slot.val) 12) :
    (s.bindObj r).mem.get q = s.mem.get q :=
  (State.get_stored_other (s := s.syncRead r.pa) (by rwa [State.mem_syncRead]) hq).trans
    (congrArg (Mem.get · q) (s.mem_syncRead r.pa))

theorem State.num_bindObj (hstill : ∀ q ∈ pasFrom r.pa 64, s.inMotion q = false) :
    (s.bindObj r).mem.num (r.pa + 16 + 12 * r.slot.val) 6 = r.base.toNat % 2 ^ 48 ∧
      (s.bindObj r).mem.num (r.pa + 22 + 12 * r.slot.val) 6 = r.len.toNat % 2 ^ 48 := by
  have hslot := r.slot.isLt
  have hnum := State.num_stored (s := s.syncRead r.pa) (pa := r.pa + 16 + 12 * r.slot.val) (m := 6) (n := 6)
    (a := r.base.toNat % 2 ^ 48) (b := r.len.toNat) (by rwa [State.mem_syncRead]) fun q hq => by
      rw [State.inMotion_syncRead]
      refine hstill q ?_
      rw [mem_pasFrom] at hq ⊢
      omega
  rw [show r.pa + 16 + 12 * r.slot.val + 6 = r.pa + 22 + 12 * r.slot.val by omega] at hnum
  exact ⟨hnum.1.trans (Nat.mod_mod _ _), hnum.2⟩

end

/-! ### The statement -/

/-- Settles O37: each operation on an object that is read is that of the lemmas above. -/
theorem syncObjectsPerform : Obligations.SyncObjectsPerform := by
  unfold Obligations.SyncObjectsPerform
  refine ⟨fun s r o hok harg hpoison hstill hobj => ?acquire,
    fun s r since ord o hok hpause hsince hgoes hpoison hstill hobj htest => ?served,
    fun s r o hok harg hpoison hstill hobj => ?release, fun s r o hok harg hpoison hstill hobj => ?bind⟩
  case acquire =>
    obtain ⟨hwf, -, -⟩ := hok
    have hkeeps := fun t (h : t.mem = ((s.syncRead r.pa).acquire s.cur r.pa o).mem) =>
      State.acquire_keeps (s := s.syncRead r.pa) (t := t) (id := s.cur) (by rwa [State.mem_syncRead])
        (fun q hq => (s.inMotion_syncRead r.pa q).trans (hstill q hq)) ((s.syncObj_syncRead r.pa r.pa).trans hobj) h
    simp only [State.mem_syncRead] at hkeeps
    obtain ⟨k, hctx⟩ := s.ctx_syncRead r.pa
    refine ⟨fun htest => ⟨⟨_, exec_acqPerform_succeeds harg hpoison hobj htest, hkeeps _ rfl⟩,
      ⟨_, exec_tryacqPerform_succeeds harg hpoison hobj htest, hkeeps _ (State.mem_returnOld ..), ?_⟩⟩, fun htest => ⟨⟨_,
      exec_tryacqPerform_fails harg hpoison hobj htest, ?_, ?_⟩, fun hfree => ⟨_,
      exec_acqPerform_waits harg hpoison hobj htest hfree, ?_, ?_⟩, fun hlocked => ⟨_, s.mem_syncRead r.pa, ?_,
      exec_acqPerform_late harg hpoison hobj htest hlocked⟩⟩⟩
    · exact fun id hid haway => State.chan_answer hid haway 1 ((State.cur_acquire ..).trans (s.cur_syncRead r.pa))
        ((State.away_acquire ..).trans (s.away_syncRead r.pa)) (State.core_acquire ..)
    · rw [State.mem_returnOld, State.mem_syncRead]
    · exact fun id hid haway => State.chan_answer hid haway 0 (s.cur_syncRead r.pa) (s.away_syncRead r.pa) rfl
    · rw [State.mem_modCore, State.mem_syncRead]
    · rw [State.core_modCore_self]
      rfl
    · rw [hctx]
  case served =>
    obtain ⟨hwf, -, -⟩ := hok
    obtain ⟨-, hmem⟩ := State.acquire_keeps (s := s.noteRead s.cur (pasFrom r.pa 64)) (o := o) (id := s.cur)
      (by rwa [State.mem_noteRead]) (fun q hq => (s.inMotion_noteRead ..).trans (hstill q hq)) ((s.syncObj_noteRead ..).trans hobj) rfl
    rw [State.mem_noteRead] at hmem
    refine ⟨_, exec_acqSuccess hpause hsince hgoes hpoison hobj htest, ?_, fun hkind => ?_, fun hkind => ?_⟩
    · rw [State.core_modCore_self]
      rfl
    · rw [if_pos hkind] at hmem
      exact hmem.2
    · rwa [if_neg hkind] at hmem
  case release =>
    obtain ⟨hwf, -, -⟩ := hok
    obtain ⟨hg, hbarrier, hevent⟩ := State.syncObj_fits hobj
    obtain ⟨k, hctx⟩ := s.ctx_syncRead r.pa
    obtain ⟨hnumg, hnumh⟩ := State.num_releaseObj (o := o) hwf hstill
    refine ⟨fun hkind hother => ⟨_, s.mem_syncRead r.pa, ?_, exec_releasePoint_refused harg hpoison hobj hkind hother⟩,
      fun hkind hmine => ⟨_, exec_releasePoint harg hpoison hobj (.inr hmine), ?_⟩,
      fun hkind => ⟨_, exec_releasePoint harg hpoison hobj (.inl (by rw [hkind]; nofun)), ?_⟩,
      fun hkind => ⟨_, exec_releasePoint harg hpoison hobj (.inl (by rw [hkind]; nofun)), ?_⟩, fun t hmine hexec q hq => ?_⟩
    · rw [hctx]
    · rw [hnumg, hnumh, SyncObj.released_mutex hkind]
      exact ⟨Nat.mod_mod _ _, rfl⟩
    · obtain ⟨hh, hn⟩ := hbarrier hkind
      rw [hnumg, hnumh, SyncObj.released_barrier hkind]
      split
      · exact ⟨Nat.mod_mod _ _, rfl⟩
      · exact ⟨Nat.mod_eq_of_lt hg, Nat.mod_eq_of_lt (by dsimp only; omega)⟩
    · rw [hnumg, hnumh, SyncObj.released_event hkind, hevent hkind]
      exact ⟨Nat.mod_mod _ _, rfl⟩
    · rw [exec_releasePoint harg hpoison hobj hmine] at hexec
      rw [← Host.Outcome.next.inj hexec]
      exact State.get_releaseObj_other hwf hq
  case bind =>
    obtain ⟨hwf, -, -⟩ := hok
    obtain ⟨hbase, hlen⟩ := State.num_bindObj hwf hstill
    exact ⟨_, exec_sobindPerform harg hpoison hobj, hbase, hlen, fun q hq => State.get_bindObj_other hwf hq⟩

end Sys2Proof.Machine
end

section
/-! PROOFS. CPY and CBATCH at their issue (R238 to R240): the copy that a CPY hands to the engine, and what it leaves of the core. -/

namespace Sys2Proof.Machine

open Sys2Proof

theorem exec_cpy_eq (scl dcl : Cls) (pf crc : Bool) (a b c : CSrc) (s : State) :
    exec (.cpy scl dcl pf crc a b c) s = execCpy scl dcl pf crc a b c s := rfl
theorem exec_cbatch_eq (s : State) : exec .cbatch s = execCbatch s := rfl

/-! ### CPY (R238, R239) -/

theorem copyForm_ok {src dst len : Word} (hsrc : src.toNat % 8 = 0) (hdst : dst.toNat % 8 = 0) (hlen : len.toNat % 8 = 0)
    (hmax : len.toNat ≤ 2 ^ 24) : copyForm src dst len = .ok () := by
  simp only [copyForm, hsrc, hdst, hlen, ne_eq, not_true_eq_false, if_false, Nat.not_lt.mpr hmax]

/-- What a CPY knows once its checks have passed. -/
structure CopyAsk where
  scl : Cls
  dcl : Cls
  src : Word
  dst : Word
  len : Word
  ss : List Seg
  ds : List Seg

section
variable (s : State) (q : CopyAsk) (c : Core)

/-- The first beat's cycle (R239). -/
def Core.copyStart (c : Core) : Nat := max (c.ctx.tau + 1) c.ctx.copy.prev

/-- The number of a copy's beats. -/
def CopyAsk.beats (q : CopyAsk) : Nat := (q.len.toNat + 127) / 128

/-- The completion cycle F (R239). -/
def State.copyFin : Nat :=
  if q.len.toNat = 0 then c.ctx.tau + 1
  else c.copyStart + q.beats - 1 + s.segLat s.cur q.scl q.ss + s.segLat s.cur q.dcl q.ds

/-- The promise (R239). -/
def State.copyPromise : Nat := (s.framecnt s.cur + (s.copyFin q c - c.ctx.tau)) % 2 ^ 63

/-- The copy that is handed to the engine. -/
def State.copyAsked (crc : Bool) : CopyJob :=
  ⟨c.ctx.copy.next, c.ctx.copy.batch, q.ss, q.ds, q.src, q.dst, q.len.toNat, s.segLat s.cur q.scl q.ss, s.segLat s.cur q.dcl q.ds,
    s.copyPromise q c, c.copyStart, s.copyFin q c, crc && q.len.toNat != 0, 0xFFFFFFFF, [], [], c.posOf .c⟩

/-- The core's copy state behind a CPY. -/
def State.copyCounted (pf : Bool) (x : CopyState) : CopyState :=
  let x1 := { x with next := x.next + 1, prev := if q.len.toNat = 0 then x.prev else c.copyStart + q.beats
                     opened := x.opened ++ [s.copyPromise q c] }
  if pf then x1.openRecord (s.prefetchRec s.cur q.dst q.len.toNat q.ds (s.copyFin q c)) c.ctx.tau else x1

/-- The first event of a copy: its completion at once when it is empty. -/
def State.copyFirst : List Req :=
  if q.len.toNat = 0 then [⟨1, none, false, .copyComplete, .beat s.seq 0 true⟩]
  else s.memReqs s.cur c (segPas q.ss 0 1) .copyBeatRead (.beat s.seq 0 true) (c.copyStart + s.segLat s.cur q.scl q.ss - c.ctx.tau) false

end

theorem cpy_accepts {s : State} {q : CopyAsk} {pf crc : Bool} {a b e : CSrc} {c0 c1 c2 : Core}
    (h : SourcesC3 s a b e q.src q.dst q.len c0) (hhandler : s.me.inHandler = false) (hplace : (s.copies s.cur).length < 8)
    (hform : copyForm q.src q.dst q.len = .ok ())
    (hsrc : checkCopy s s.cur q.scl .r q.src (q.len.toNat / 65536 + 2) 0 q.len.toNat c0 = .ok (q.ss, c1))
    (hdst : checkCopy s s.cur q.dcl .w q.dst (q.len.toNat / 65536 + 2) 0 q.len.toNat c1 = .ok (q.ds, c2)) :
    Accepts (.cpy q.scl q.dcl pf crc a b e) s (c2.modCopy (s.copyCounted q c2 pf))
      (pushH0 1 (BitVec.ofNat 64 (s.copyPromise q c2)) :: s.copyFirst q c2) (.copy (s.copyAsked q c2 crc)) [] := by
  obtain ⟨-, -, -, hroomy, -⟩ := id h
  refine issuesAs_of_ok (exec_cpy_eq ..) hroomy ?_
  simp only [engineOk_ok hhandler, readC3_ok h, Nat.not_le.mpr hplace, hform, hsrc, hdst, bind, Except.bind, pure, Except.pure, if_false]
  rfl

theorem CopyState.openRecord_counts (k : CopyState) (r : PfRec) (tau : Nat) :
    (k.openRecord r tau).next = k.next ∧ (k.openRecord r tau).prev = k.prev := by
  simp only [CopyState.openRecord, CopyState.close]
  split_ifs <;> exact ⟨rfl, rfl⟩

/-- A prefetch record touches neither the number nor the start of the next copy. -/
theorem State.copyCounted_counts (s : State) (q : CopyAsk) (c : Core) (pf : Bool) (x : CopyState) :
    (s.copyCounted q c pf x).next = x.next + 1 ∧
      (s.copyCounted q c pf x).prev = if q.len.toNat = 0 then x.prev else c.copyStart + q.beats := by
  cases pf with
  | true => exact CopyState.openRecord_counts _ _ _
  | false => exact ⟨rfl, rfl⟩

/-! ### CBATCH (R240) -/

section
variable {s : State} (hroomy : s.Roomy) (hhandler : s.me.inHandler = false) (hplace : s.closedBatches s.cur < 8)
include hroomy hhandler hplace

theorem cbatch_issues_empty (hempty : s.me.ctx.copy.opened = []) :
    Issues .c .cbatch s s.me [pushH0 1 (BitVec.ofNat 64 ((s.framecnt s.cur + 1) % 2 ^ 63))] := by
  refine issues_of_ok (exec_cbatch_eq s) hroomy ?_
  simp only [engineOk_ok hhandler, Nat.not_le.mpr hplace, hempty, bind, Except.bind, pure, Except.pure, List.isEmpty_nil, if_true, if_false]

theorem cbatch_issues_open (hopen : s.me.ctx.copy.opened ≠ []) :
    Issues .c .cbatch s (s.me.modCopy fun x => { x with batch := x.batch + 1, opened := [] })
      [pushH0 1 (BitVec.ofNat 64 (s.me.ctx.copy.opened.foldl max 0))] := by
  have hsome : s.me.ctx.copy.opened.isEmpty = false := List.isEmpty_eq_false_iff.mpr hopen
  refine issues_of_ok (exec_cbatch_eq s) hroomy ?_
  simp only [engineOk_ok hhandler, Nat.not_le.mpr hplace, hsome, bind, Except.bind, pure, Except.pure, Bool.false_eq_true, if_false]

end

/-- Settles O14: the copy that a CPY hands over has the cycles above, and a CBATCH pushes by whether its batch is empty. -/
theorem copiesAreAccepted : Obligations.CopiesAreAccepted := by
  unfold Obligations.CopiesAreAccepted
  refine ⟨fun s scl dcl pf crc a b e src dst len c0 c1 c2 ss ds h hhandler hplace hsrc hdst hlen hmax hs hd => ?copy,
    fun s hroomy hhandler hplace => ⟨cbatch_issues_empty hroomy hhandler hplace,
      fun hopen => ⟨_, cbatch_issues_open hroomy hhandler hplace hopen, rfl, rfl⟩⟩⟩
  case copy =>
    obtain ⟨hnext, hprev⟩ := s.copyCounted_counts ⟨scl, dcl, src, dst, len, ss, ds⟩ c2 pf c2.ctx.copy
    exact ⟨_, _, cpy_accepts (q := ⟨scl, dcl, src, dst, len, ss, ds⟩) h hhandler hplace (copyForm_ok hsrc hdst hlen hmax) hs hd, rfl, rfl,
      rfl, rfl, rfl, rfl, hnext, hprev⟩

end Sys2Proof.Machine
end

section
/-! PROOFS. The steps of a copy (R239, R241, R242): its beats read and written, and its completion. -/

namespace Sys2Proof.Machine

open Sys2Proof

theorem exec_copyBeatRead_eq (s : State) : exec .copyBeatRead s = execCopyBeatRead s := rfl
theorem exec_copyBeatWrite_eq (s : State) : exec .copyBeatWrite s = execCopyBeatWrite s := rfl
theorem exec_copyComplete_eq (s : State) : exec .copyComplete s = execCopyComplete s := rfl

/-! ### The request (R237, R239) -/

theorem State.copyJob_eq_some {s : State} {id : Nat} {job : Job} {k : CopyJob} :
    s.copyJob id = some (job, k) ↔ s.job? id = some job ∧ job.body = .copy k := by
  rw [State.copyJob, Option.bind_eq_some_iff]
  constructor
  · rintro ⟨l, hl, hbody⟩
    split at hbody
    · next k' hk =>
      obtain ⟨rfl, rfl⟩ := Prod.mk.inj (Option.some.inj hbody)
      exact ⟨hl, hk⟩
    · exact absurd hbody nofun
  · rintro ⟨hl, hk⟩
    exact ⟨job, hl, by rw [hk]⟩

/-- A request's step on the agenda is all that a chain adds. -/
theorem State.chain_eq (s : State) (job : Job) (v d : Nat) (pas : List Nat) (ev : Instr) (arg : Arg) :
    ∃ l, s.chain job v d pas ev arg = { s with agenda := l } := by
  simp only [State.chain]
  split
  · exact ⟨_, rfl⟩
  · split <;> exact ⟨_, rfl⟩

@[simp] theorem State.mem_chain (s : State) (job : Job) (v d : Nat) (pas : List Nat) (ev : Instr) (arg : Arg) :
    (s.chain job v d pas ev arg).mem = s.mem := by
  obtain ⟨l, h⟩ := s.chain_eq job v d pas ev arg
  rw [h]

@[simp] theorem State.copyJob_chain (s : State) (job : Job) (v d : Nat) (pas : List Nat) (ev : Instr) (arg : Arg) (id : Nat) :
    (s.chain job v d pas ev arg).copyJob id = s.copyJob id := by
  obtain ⟨l, h⟩ := s.chain_eq job v d pas ev arg
  rw [h]
  rfl

/-- The bytes of beat j where a copy writes them. -/
def CopyJob.beatPas (k : CopyJob) (segs : List Seg) (j : Nat) : List Nat := segPas segs (128 * j) (min 128 (k.len - 128 * j))

/-- A copy with a beat read. -/
def CopyJob.withBeat (k : CopyJob) (j : Nat) (bs : List Byte) : CopyJob :=
  let k1 := if k.crc then k.sum j bs else k
  { k1 with buf := k1.buf ++ [(j, bs)] }

theorem CopyJob.withBeat_fields (k : CopyJob) (j : Nat) (bs : List Byte) :
    (k.withBeat j bs).buf = k.buf ++ [(j, bs)] ∧ (k.withBeat j bs).dst = k.dst ∧ (k.withBeat j bs).fin = k.fin := by
  simp only [CopyJob.withBeat]
  split <;> exact ⟨rfl, rfl, rfl⟩

theorem writesAt_pa {pas : List Nat} {va : Nat} {bs : List Byte} {w : ByteWrite} (h : w ∈ writesAt pas va bs) : w.pa ∈ pas := by
  obtain ⟨e, he, rfl⟩ := List.mem_map.mp h
  exact (List.of_mem_zip (List.fst_mem_of_mem_zipIdx he)).1

section
variable {s : State} {id j : Nat} {b : Bool} {job : Job} {k : CopyJob} (harg : s.arg = .beat id j b)
  (hjob : s.copyJob id = some (job, k))
include harg hjob

/-- The beat goes into the request. -/
theorem copyBeatRead_reads (hpoison : s.poisoned (k.beatPas k.src j) = false) (hledger : s.ledger = [])
    (hstill : ∀ pa ∈ k.beatPas k.src j, s.inMotion pa = false) : ∃ t job', exec .copyBeatRead s = .next t ∧ t.mem = s.mem ∧
      t.copyJob id = some (job', k.withBeat j ((k.beatPas k.src j).map s.mem.get)) := by
  obtain ⟨hjob?, -⟩ := State.copyJob_eq_some.mp hjob
  obtain rfl := State.id_of_job? hjob?
  have hread := State.engineRead_eq job k.pos hpoison hledger hstill (fun i => k.sva.toNat + 128 * j + i)
  have hjob' := (s.job?_readFor job (k.beatPas k.src j) job.id).trans hjob?
  rw [CopyJob.beatPas] at hread hjob'
  simp only [exec_copyBeatRead_eq, execCopyBeatRead, harg, hjob, CopyJob.beat, hread, hjob']
  refine ⟨_, { job with body := .copy (k.withBeat j ((k.beatPas k.src j).map s.mem.get)) }, rfl, ?_, ?_⟩
  · split <;> simp
  · rw [apply_ite (fun t : State => t.copyJob job.id), State.copyJob_chain, State.copyJob_chain, ite_self]
    exact State.copyJob_eq_some.mpr ⟨State.job?_setJob (job := { job with body := .copy _ }) hjob', rfl⟩

theorem copyBeatWrite_writes {bs : List Byte} (hbuf : listGet? k.buf j = some bs) : ∃ t, exec .copyBeatWrite s = .next t ∧
    t.mem = (s.writeAs job.owner (writesAt (k.beatPas k.dst j) (k.dva.toNat + 128 * j) bs)).mem := by
  simp only [exec_copyBeatWrite_eq, execCopyBeatWrite, harg, hjob, hbuf]
  refine ⟨_, rfl, ?_⟩
  split
  · rfl
  · exact State.mem_chain ..

/-- A live copy whose integrity check fails is counted and told of (R242). -/
theorem exec_copyComplete : exec .copyComplete s = .next
    (if job.live = true ∧ k.crc = true ∧ k.reg ^^^ 0xFFFFFFFF ≠ leNat k.tail then
      (s.dropJob id).modCore job.owner fun c => c.modCopy fun x => { x with
        crcFails := min (x.crcFails + 1) 65535, unreported := x.unreported ++ [(k.num, BitVec.ofNat 32 (k.reg ^^^ 0xFFFFFFFF))] }
    else s.dropJob id) := by
  simp only [exec_copyComplete_eq, execCopyComplete, harg, hjob]
  split <;> rfl

theorem copyComplete_completes : ∃ t, exec .copyComplete s = .next t ∧ t.mem = s.mem ∧ t.job? id = none ∧
    (t.core job.owner).ctx.copy.crcFails = if job.live = true ∧ k.crc = true ∧ k.reg ^^^ 0xFFFFFFFF ≠ leNat k.tail
      then min ((s.core job.owner).ctx.copy.crcFails + 1) 65535 else (s.core job.owner).ctx.copy.crcFails := by
  refine ⟨_, exec_copyComplete harg hjob, ?_⟩
  split
  · refine ⟨rfl, s.job?_dropJob id, ?_⟩
    rw [State.core_modCore_self]
    rfl
  · exact ⟨rfl, s.job?_dropJob id, rfl⟩

end

/-- Settles O46: the beat's read is the request's, its write one of the beat's bytes, and the completion is that of the lemma above. -/
theorem copiesPerform : Obligations.CopiesPerform := by
  unfold Obligations.CopiesPerform
  intro s id j b job k hok harg hjob
  refine ⟨fun hpoison hledger hstill => ?read, fun bs hbuf => ?write, copyComplete_completes harg hjob⟩
  case read =>
    obtain ⟨t, job', hexec, hmem, hjob'⟩ := copyBeatRead_reads harg hjob hpoison hledger hstill
    exact ⟨t, job', _, hexec, hmem, hjob', k.withBeat_fields ..⟩
  case write =>
    obtain ⟨hwf, -, -⟩ := hok
    obtain ⟨t, hexec, hmem⟩ := copyBeatWrite_writes harg hjob hbuf
    refine ⟨t, hexec, fun pa hpa => ?_, fun hnodup hlen hstill i hi => ?_⟩
    · rw [hmem]
      exact State.get_writeAs_other hwf fun w hw heq => hpa (heq ▸ writesAt_pa hw)
    · have hbytes := State.map_get_putSegs (s := s) (o := job.owner) (segs := k.dst) (va := k.dva.toNat) (off := 128 * j) (bs := bs) hwf
        (by rwa [hlen]) (by rwa [hlen])
      rw [State.putSegs, hlen] at hbytes
      have hbyte := congrArg (·[i]!) hbytes
      rw [hmem]
      simpa [segPas, hi, CopyJob.beatPas] using hbyte

end Sys2Proof.Machine
end

section
/-! PROOFS. The commands of the matrix unit at their issue (R252 to R258, R264, R265). -/

namespace Sys2Proof.Machine

open Sys2Proof

theorem exec_mnest_eq (a b : CSrc) (e : Fin 10) (n : BitVec 16) (s : State) : exec (.mnest a b e n) s = execMnest a b e n s := rfl
theorem exec_mform_eq (a : CSrc) (r : BitVec 16) (s : State) : exec (.mform a r) s = execMform a r s := rfl
theorem exec_mgo_eq (s : State) : exec .mgo s = execMgo s := rfl
theorem exec_mside_eq (a : CSrc) (str : Bool) (cl : Cls) (t : Fin 4) (s : State) :
    exec (.mside a str cl t) s = execMside a str cl t s := rfl
theorem exec_mrsc_eq (a : CSrc) (mx : Bool) (cl : Cls) (t : Fin 4) (s : State) :
    exec (.mrsc a mx cl t) s = execMrsc a mx cl t s := rfl

/-! ### Tables, formats and walks (R252 to R256) -/

section
variable {s : State} {a b : CSrc} {x y : Word} {c : Core} (hhandler : s.me.inHandler = false)
include hhandler

theorem mnest_issues {e : Fin 10} (n : BitVec 16) (h : SourcesC2 s a b x y c)
    (hpieces : e.val = 3 → x.toNat % 1024 = 0 ∧ y.toNat < 256) :
    Issues .c (.mnest a b e n) s c [⟨1, none, true, .resultLanding, .landing (.nest e x y n.toNat)⟩] := by
  obtain ⟨-, -, hroomy, -⟩ := id h
  have hlegal : ¬ (e.val = 3 ∧ (x.toNat % 1024 ≠ 0 ∨ 256 ≤ y.toNat)) := by
    rintro ⟨he, hbad⟩
    obtain ⟨hx, hy⟩ := hpieces he
    exact hbad.elim (· hx) hy.not_ge
  refine issues_of_ok (exec_mnest_eq ..) hroomy ?_
  simp only [engineOk_ok hhandler, readC2_ok h, if_neg hlegal, bind, Except.bind, pure, Except.pure]

section
variable (r : BitVec 16) (h : SourcesC1 s a x c)
include h

theorem mform_issues (hform : formFault x = none) (hplace : c.ctx.mat.fq.length < 8) :
    Issues .c (.mform a r) s c [⟨1, none, true, .formatQueueEntry, .words x (BitVec.ofNat 64 (r.toNat + 1))⟩] := by
  obtain ⟨-, hroomy, -⟩ := id h
  refine issues_of_ok (exec_mform_eq ..) hroomy ?_
  simp only [engineOk_ok hhandler, readC1_ok h, hform, Nat.not_le.mpr hplace, bind, Except.bind, pure, Except.pure, if_false]

theorem mform_traps {k : Nat} (hform : formFault x = some k) : TrapsAt .c (.mform a r) s .illegalFormat (BitVec.ofNat 64 k) := by
  refine trapsAt_of_error (exec_mform_eq ..) ?_ (by decide)
  simp only [engineOk_ok hhandler, readC1_ok h, hform, bind, Except.bind, formStop]

end

/-- The core once an MGO has latched its walk and exchanged the tables. -/
def Core.withWalk (c : Core) (id : Nat) : Core :=
  c.modMat fun m => { m with
    active := m.shadow, shadow := m.active, walks := m.walks ++ [⟨id, m.shadow, 0⟩]
    phase := match m.phase with | .idle => .start (max (c.ctx.tau + 1) m.freeAt) | p => p }

theorem mgo_issues (hroomy : s.Roomy) (hcount : walkCount s.me.ctx.mat.shadow < 2 ^ 32) (hplace : s.me.ctx.mat.walks.length < 2) :
    Issues .c .mgo s (s.me.withWalk s.seq) [] := by
  refine issues_of_ok (exec_mgo_eq s) hroomy ?_
  simp only [engineOk_ok hhandler, Nat.not_le.mpr hcount, Nat.not_le.mpr hplace, bind, Except.bind, pure, Except.pure, if_false]
  rfl

/-! ### Side registers and rescaling (R258, R264, R265) -/

/-- The bytes of a tile's side registers. -/
def Tile.sideBytes (t : Tile) : List Byte := (t.m.toList ++ t.s.toList).flatMap fun x => leBytes x.toNat 4

/-- The requests of an operation on the side registers. -/
def State.sideReqs (s : State) (c : Core) (cl : Cls) (segs : List Seg) (ev : Instr) (arg : Arg) : List Req :=
  s.memReqs s.cur c (segsPas segs) ev arg (s.segLat s.cur cl segs) false

section
variable {cl : Cls} {t : Fin 4} {c1 : Core} {segs : List Seg} (h : SourcesC1 s a x c) (hfree : accFree c t = .ok ()) (halign : x.toNat % 8 = 0)
include h hfree halign

theorem mside_store_issues (hcheck : checkWhole s s.cur c cl .w x 512 = .ok (segs, c1)) : Issues .c (.mside a true cl t) s c1
    (s.sideReqs c1 cl segs .accessPerform (.access ⟨.st c1.ctx.acc[t].sideBytes, segEls x segs, c1.posOf .c, none⟩)) := by
  obtain ⟨-, hroomy, -⟩ := id h
  refine issues_of_ok (exec_mside_eq ..) hroomy ?_
  simp only [engineOk_ok hhandler, readC1_ok h, hfree, halign, hcheck, bind, Except.bind, pure, Except.pure, ne_eq, not_true_eq_false,
    if_true, if_false]
  rfl

theorem mside_load_issues (hcheck : checkWhole s s.cur c cl .r x 512 = .ok (segs, c1)) : Issues .c (.mside a false cl t) s
    (c1.ownTile s.seq t (c1.ctx.tau + s.segLat s.cur cl segs + 1))
    (s.sideReqs c1 cl segs .msideLoadWrite (.side ⟨s.seq, 0, t, segEls x segs, [], c1.posOf .c⟩)) := by
  obtain ⟨-, hroomy, -⟩ := id h
  refine issues_of_ok (exec_mside_eq ..) hroomy ?_
  simp only [engineOk_ok hhandler, readC1_ok h, hfree, halign, hcheck, bind, Except.bind, pure, Except.pure, ne_eq, not_true_eq_false,
    Bool.false_eq_true, if_false]
  rfl

theorem mrsc_max_issues (hcheck : checkWhole s s.cur c cl .r x 256 = .ok (segs, c1)) : Issues .c (.mrsc a true cl t) s
    (c1.ownTile s.seq t (c1.ctx.tau + s.segLat s.cur cl segs + 16))
    (s.sideReqs c1 cl segs .mrscWrite (.side ⟨s.seq, 1, t, segEls x segs, [], c1.posOf .c⟩)) := by
  obtain ⟨-, hroomy, -⟩ := id h
  refine issues_of_ok (exec_mrsc_eq ..) hroomy ?_
  simp only [engineOk_ok hhandler, readC1_ok h, hfree, halign, hcheck, bind, Except.bind, pure, Except.pure, ne_eq, not_true_eq_false,
    Bool.not_true, Bool.false_eq_true, if_true, if_false]
  rfl

end

theorem mrsc_norm_issues {cl : Cls} {t : Fin 4} (hroomy : s.Roomy) (hfree : accFree s.me t = .ok ()) : Issues .c (.mrsc a false cl t) s
    (s.me.ownTile s.seq t (s.me.ctx.tau + 16)) [⟨16, none, false, .mrscWrite, .side ⟨s.seq, 2, t, [], [], s.me.posOf .c⟩⟩] := by
  refine issues_of_ok (exec_mrsc_eq ..) hroomy ?_
  simp only [engineOk_ok hhandler, hfree, bind, Except.bind, pure, Except.pure, Bool.false_eq_true, Bool.not_false, if_true, if_false]

end

/-- Settles O15: each command of the unit is its request above. -/
theorem matrixCommandsIssue : Obligations.MatrixCommandsIssue := by
  unfold Obligations.MatrixCommandsIssue
  refine ⟨fun s a b e n x y c h hhandler hpieces => mnest_issues hhandler n h hpieces,
    fun s a r w c h hhandler => ⟨mform_issues hhandler r h, fun k => mform_traps hhandler r h⟩,
    fun s hroomy hhandler hcount hplace => ⟨_, mgo_issues hhandler hroomy hcount hplace, rfl, rfl, rfl⟩,
    fun s a cl t va c c1 segs h hhandler hfree halign => ⟨mside_store_issues hhandler h hfree halign,
      mside_load_issues hhandler h hfree halign, mrsc_max_issues hhandler h hfree halign⟩,
    fun s a cl t hroomy hhandler hfree => mrsc_norm_issues hhandler hroomy hfree⟩

end Sys2Proof.Machine
end

section
/-! PROOFS. The page instructions and ATTN at their issue (R272, R279, R280). -/

namespace Sys2Proof.Machine

open Sys2Proof

theorem exec_kpos_eq (ad : Bool) (cl : Cls) (a b : CSrc) (n : BitVec 12) (s : State) :
    exec (.kpos ad cl a b n) s = execKpos ad cl a b n s := rfl
theorem exec_kfork_eq (cl : Cls) (a b : CSrc) (n : BitVec 12) (s : State) : exec (.kfork cl a b n) s = execKfork cl a b n s := rfl
theorem exec_kdrop_eq (cl : Cls) (a b : CSrc) (n : BitVec 12) (s : State) : exec (.kdrop cl a b n) s = execKdrop cl a b n s := rfl
theorem exec_kmap_eq (sl : Bool) (cl : Cls) (a b : CSrc) (s : State) : exec (.kmap sl cl a b) s = execKmap sl cl a b s := rfl
theorem exec_attn_eq (cl : Cls) (a : CSrc) (s : State) : exec (.attn cl a) s = execAttn cl a s := rfl

/-! ### Page instructions (R272) -/

/-- What a page instruction hands to its engine, with the read of its first entry. -/
def State.pageOut (s : State) (cl : Cls) (op : PageOp) (x y : Word) (sa sb : List Seg) (n : Nat) (arg : Word) (c : Core) : IssueOut :=
  ⟨c, s.memReqs s.cur c (segPas sa 0 16) .pageEntryRead (.beat s.seq 0 true) (s.segLat s.cur cl sa) false, .next 1, none,
    [⟨s.seq, s.cur, true, .page ⟨op, x, y, sa, sb, n, arg, s.segLat s.cur cl sa, c.domtag, 0, 0, [], none, c.posOf .c⟩⟩], []⟩

section
variable {s : State} {op : PageOp} {cl : Cls} {perm : Perm} {x y arg : Word} {n len align : Nat} {c c1 : Core} {sa sb : List Seg}
  (hplace : s.pageJobs s.cur < 4) (halign : x.toNat % 16 = 0)
include hplace halign

theorem pageIssue_one (hcheck : checkWhole s s.cur c cl perm x (16 * n) = .ok (sa, c1)) :
    pageIssue op cl perm x none arg n s c = .ok (s.pageOut cl op x 0 sa [] n arg c1) := by
  simp only [pageIssue, Nat.not_le.mpr hplace, halign, hcheck, bind, Except.bind, pure, Except.pure, ne_eq, not_true_eq_false, if_false,
    Option.any_none, Bool.false_eq_true]
  rfl

theorem pageIssue_two (halign' : y.toNat % align = 0) (hcheck : checkTwo s s.cur c cl perm .rw x y (16 * n) len = .ok (sa, sb, c1)) :
    pageIssue op cl perm x (some (y, len, align)) arg n s c = .ok (s.pageOut cl op x y sa sb n arg c1) := by
  simp only [pageIssue, Nat.not_le.mpr hplace, halign, halign', hcheck, bind, Except.bind, pure, Except.pure, ne_eq, not_true_eq_false,
    if_false, Option.any_some, bne_self_eq_false, Bool.false_eq_true]
  rfl

end

section
variable {s : State} {cl : Cls} {a b : CSrc} {x y : Word} {c c1 : Core} {sa sb : List Seg} (h : SourcesC2 s a b x y c)
  (hhandler : s.me.inHandler = false) (hplace : s.pageJobs s.cur < 4) (halign : x.toNat % 16 = 0)
include h hhandler hplace halign

theorem kpos_accepts {ad : Bool} {n : BitVec 12} (hcheck : checkWhole s s.cur c cl .rw x (16 * (n.toNat + 1)) = .ok (sa, c1)) :
    IssuesAs .c (.kpos ad cl a b n) s (s.pageOut cl (if ad then .add else .set) x 0 sa [] (n.toNat + 1) y c1) := by
  obtain ⟨-, -, hroomy, -⟩ := id h
  refine issuesAs_of_ok (exec_kpos_eq ..) hroomy ?_
  simp only [engineOk_ok hhandler, readC2_ok h, pageIssue_one hplace halign hcheck, bind, Except.bind]

theorem kfork_accepts {n : BitVec 12} (hdst : y.toNat % 16 = 0)
    (hcheck : checkTwo s s.cur c cl .r .rw x y (16 * (n.toNat + 1)) (16 * (n.toNat + 1)) = .ok (sa, sb, c1)) :
    IssuesAs .c (.kfork cl a b n) s (s.pageOut cl .fork x y sa sb (n.toNat + 1) 0 c1) := by
  obtain ⟨-, -, hroomy, -⟩ := id h
  refine issuesAs_of_ok (exec_kfork_eq ..) hroomy ?_
  simp only [engineOk_ok hhandler, readC2_ok h, pageIssue_two hplace halign hdst hcheck, bind, Except.bind]

theorem kdrop_accepts {n : BitVec 12} (hdst : y.toNat % 8 = 0)
    (hcheck : checkTwo s s.cur c cl .rw .rw x y (16 * (n.toNat + 1)) (8 * (n.toNat + 1)) = .ok (sa, sb, c1)) :
    IssuesAs .c (.kdrop cl a b n) s (s.pageOut cl .drop x y sa sb (n.toNat + 1) 0 c1) := by
  obtain ⟨-, -, hroomy, -⟩ := id h
  refine issuesAs_of_ok (exec_kdrop_eq ..) hroomy ?_
  simp only [engineOk_ok hhandler, readC2_ok h, pageIssue_two hplace halign hdst hcheck, bind, Except.bind]

theorem kmap_accepts {sl : Bool} (hdst : y.toNat % 16 = 0)
    (hcheck : checkTwo s s.cur c cl .r .rw x y (16 * 1) 16 = .ok (sa, sb, c1)) :
    IssuesAs .c (.kmap sl cl a b) s (s.pageOut cl (.map sl) x y sa sb 1 0 c1) := by
  obtain ⟨-, -, hroomy, -⟩ := id h
  refine issuesAs_of_ok (exec_kmap_eq ..) hroomy ?_
  simp only [engineOk_ok hhandler, readC2_ok h, pageIssue_two hplace halign hdst hcheck, bind, Except.bind]

end

/-! ### ATTN (R279, R280) -/

/-- The fields of a request block that an ATTN reads at its issue. -/
def State.attnFields (s : State) (segs : List Seg) : List Byte := s.readAs s.cur (segPas segs 0x40 5)

/-- The cycles until an ATTN that issues now starts (R280). -/
def State.attnWait (s : State) : Nat := max 1 (s.engineFree s.cur.die (s.cur.core % 8) - s.clock)

/-- The request of an ATTN (R279, R280). -/
def State.attnAsked (s : State) (cl : Cls) (va : Word) (segs : List Seg) (c : Core) : AttnJob :=
  let f := s.attnFields segs
  let ne := numAt f 0 2
  let g := numAt f 2 1
  let select := numAt f 3 1 / 32 % 2 == 1
  let dcode := numAt f 4 1 / 2 % 4
  let lat := max 160 (s.classLat cl)
  ⟨s.cur.core % 8, cl, c.domtag, va, segs, ne, g, dcode, select, lat,
    4 * lat + ne + (if select then 4 * ne else 0) + ne * (16 + g * headDim dcode / 4) + 24, c.ctx.tau + s.attnWait, false, false, 0,
    [], [], [], [], [], [], [], [], [], [], c.posOf .c⟩

theorem attn_accepts {s : State} {cl : Cls} {a : CSrc} {va : Word} {c c1 : Core} {segs : List Seg} (h : SourcesC1 s a va c)
    (hhandler : s.me.inHandler = false) (hplace : s.attnJobs s.cur < 4) (halign : va.toNat % 64 = 0)
    (hcheck : checkWhole s s.cur c cl .rw va 128 = .ok (segs, c1)) (hclean : s.poisoned (segPas segs 0x40 5) = false) :
    Accepts (.attn cl a) s c1 [pushH0 1 (BitVec.ofNat 64 ((s.framecnt s.cur + s.attnWait + (s.attnAsked cl va segs c1).span) % 2 ^ 63)),
      ⟨s.attnWait, none, false, .attnStart, .beat s.seq 0 true⟩] (.attn (s.attnAsked cl va segs c1)) (segPas segs 0x40 5) := by
  obtain ⟨-, hroomy, -⟩ := id h
  refine issuesAs_of_ok (exec_attn_eq ..) hroomy ?_
  simp only [engineOk_ok hhandler, readC1_ok h, Nat.not_le.mpr hplace, halign, hcheck, hclean, bind, Except.bind, pure, Except.pure, ne_eq,
    not_true_eq_false, if_false, Bool.false_eq_true]
  rfl

/-- Settles O16: a page instruction is its one or two checked ranges, and an ATTN the request above. -/
theorem pagesAndAttentionAreAccepted : Obligations.PagesAndAttentionAreAccepted := by
  unfold Obligations.PagesAndAttentionAreAccepted
  refine ⟨fun s ad cl a b n x y c c1 sa h hhandler hplace halign hcheck => kpos_accepts h hhandler hplace halign hcheck,
    fun s cl sl a b n x y c c1 sa sb h hhandler hplace halign => ?two,
    fun s cl a va c c1 segs h hhandler hplace halign hcheck hclean =>
      ⟨_, _, attn_accepts h hhandler hplace halign hcheck hclean, Nat.le_max_left _ _, rfl, rfl, rfl, rfl⟩⟩
  case two =>
    exact ⟨kfork_accepts h hhandler hplace halign, kdrop_accepts h hhandler hplace halign, kmap_accepts h hhandler hplace halign⟩

end Sys2Proof.Machine
end

section
/-! PROOFS. The cast requests, CSTAT and COLL at their issue (R289, R295, R373). -/

namespace Sys2Proof.Machine

open Sys2Proof

theorem exec_cfind_eq (hold : Bool) (cl : Cls) (a : CSrc) (s : State) : exec (.cfind hold cl a) s = execCfind hold cl a s := rfl
theorem exec_cput_eq (hold : Bool) (cl : Cls) (a : CSrc) (s : State) : exec (.cput hold cl a) s = execCput hold cl a s := rfl
theorem exec_crel_eq (a b : CSrc) (s : State) : exec (.crel a b) s = execCrel a b s := rfl
theorem exec_cstat_eq (s : State) : exec .cstat s = execCstat s := rfl
theorem exec_coll_eq (cl : Cls) (a : CSrc) (s : State) : exec (.coll cl a) s = execColl cl a s := rfl

/-! ### Cast requests (R289) -/

/-- A cast request as it is accepted. -/
def castAsked (op : CastOp) (va handle : Word) (segs : List Seg) (c : Core) : CastJob :=
  ⟨op, c.domtag, va, handle, segs, false, false, [], none, [], ⟨0, 0, 0, 0, 0, 0, 0, 0, 0⟩, false, 0, 0, 0, 0, [], 0, 0, (0, 0), 0, 0,
    none, 0, [], 0, 0, false, false, [], [], [], [], c.posOf .c⟩

/-- A core with one cast request more in its list. -/
def Core.castListed (c : Core) (id : Nat) (op : CastOp) : Core := c.modCtx fun x => { x with castq := x.castq ++ [⟨id, op.kind, none⟩] }

/-- What a cast request's issue comes to. -/
def State.castOut (s : State) (op : CastOp) (va handle : Word) (segs : List Seg) (c : Core) : IssueOut :=
  ⟨c.castListed s.seq op, [⟨1, none, false, .castRequestStart, .beat s.seq 0 true⟩], .next 1, none,
    [⟨s.seq, s.cur, true, .cast (castAsked op va handle segs c)⟩], []⟩

theorem castIssue_ok {s : State} {op : CastOp} {cl : Cls} {perm : Perm} {n : Nat} {va handle : Word} {c c1 : Core} {segs : List Seg}
    (hplace : c.ctx.castq.length < 8) (halign : va.toNat % 64 = 0) (hcheck : checkWhole s s.cur c cl perm va n = .ok (segs, c1)) :
    castIssue op cl perm n va handle s c = .ok (s.castOut op va handle segs c1) := by
  simp only [castIssue, Nat.not_le.mpr hplace, halign, hcheck, bind, Except.bind, pure, Except.pure, ne_eq, not_true_eq_false, if_false]
  rfl

section
variable {s : State} {a b : CSrc} {va h : Word} {c c1 : Core} {segs : List Seg} (hhandler : s.me.inHandler = false)
  (halign : va.toNat % 64 = 0)
include hhandler halign

section
variable {cl : Cls} (hsrc : SourcesC1 s a va c)
include hsrc

theorem cfind_accepts (hold : Bool) (hplace : c.ctx.castq.length < 8) (hcheck : checkWhole s s.cur c cl .rw va 64 = .ok (segs, c1)) :
    IssuesAs .c (.cfind hold cl a) s (s.castOut (.find hold) va 0 segs c1) := by
  obtain ⟨-, hroomy, -⟩ := id hsrc
  refine issuesAs_of_ok (exec_cfind_eq ..) hroomy ?_
  simp only [engineOk_ok hhandler, readC1_ok hsrc, castIssue_ok hplace halign hcheck, bind, Except.bind]

theorem cput_accepts (hold : Bool) (hplace : c.ctx.castq.length < 8) (hcheck : checkWhole s s.cur c cl .rw va 64 = .ok (segs, c1)) :
    IssuesAs .c (.cput hold cl a) s (s.castOut (.put hold) va 0 segs c1) := by
  obtain ⟨-, hroomy, -⟩ := id hsrc
  refine issuesAs_of_ok (exec_cput_eq ..) hroomy ?_
  simp only [engineOk_ok hhandler, readC1_ok hsrc, castIssue_ok hplace halign hcheck, bind, Except.bind]

/-- A collective as it is accepted (R373). -/
def State.collAsked (s : State) (va : Word) (segs : List Seg) (c : Core) : CollJob :=
  ⟨s.cur.die, va, segs, [], false, 0, [], none, [], [], 0, none, [], none, 0, [], [], none, false, c.posOf .c⟩

theorem coll_accepts (hplace : s.collCount s.cur < 4) (hcheck : checkWhole s s.cur c cl .rw va 128 = .ok (segs, c1)) :
    Accepts (.coll cl a) s c1 (s.memReqs s.cur c1 (segPas segs 0 128) .collBlockRead (.beat s.seq 0 true) (s.segLat s.cur cl segs))
      (.coll (s.collAsked va segs c1)) [] := by
  obtain ⟨-, hroomy, -⟩ := id hsrc
  refine issuesAs_of_ok (exec_coll_eq ..) hroomy ?_
  simp only [engineOk_ok hhandler, readC1_ok hsrc, Nat.not_le.mpr hplace, halign, hcheck, bind, Except.bind, pure, Except.pure, ne_eq,
    not_true_eq_false, if_false]
  rfl

end

theorem crel_accepts (hsrc : SourcesC2 s a b va h c) (hplace : c.ctx.castq.length < 8)
    (hcheck : checkWhole s s.cur c .d .r va 128 = .ok (segs, c1)) : IssuesAs .c (.crel a b) s (s.castOut .rel va h segs c1) := by
  obtain ⟨-, -, hroomy, -⟩ := id hsrc
  refine issuesAs_of_ok (exec_crel_eq ..) hroomy ?_
  simp only [engineOk_ok hhandler, readC2_ok hsrc, castIssue_ok hplace halign hcheck, bind, Except.bind]

end

/-! ### CSTAT (R295) -/

section
variable {s : State} (hhandler : s.me.inHandler = false)
include hhandler

theorem cstat_issues_none (hroomy : s.Roomy) (hq : s.me.ctx.castq = []) : Issues .c .cstat s s.me [pushH0 1 (BitVec.allOnes 64)] := by
  refine issues_of_ok (exec_cstat_eq s) hroomy ?_
  simp only [engineOk_ok hhandler, hq, bind, Except.bind, pure, Except.pure]

variable {q : CastEnt} {rest : List CastEnt} (hq : s.me.ctx.castq = q :: rest)
include hq

theorem cstat_late (hdone : q.done = none) (hlocked : s.me.isLocked = true) : TrapsAt .c .cstat s .syncLate 0 := by
  refine trapsAt_of_error (exec_cstat_eq s) ?_ (by decide)
  simp only [engineOk_ok hhandler, hq, hdone, hlocked, bind, Except.bind, if_true]

variable (hroomy : s.Roomy)
include hroomy

theorem cstat_waits (hdone : q.done = none) (hfree : s.me.isLocked = false) : IssuesAs .c .cstat s
    ⟨s.me.modCtx fun x => { x with report := some q.id }, [], .wait .cstat, none, [], []⟩ := by
  refine issuesAs_of_ok (exec_cstat_eq s) hroomy ?_
  simp only [engineOk_ok hhandler, hq, hdone, hfree, bind, Except.bind, pure, Except.pure, Bool.false_eq_true, if_false]

theorem cstat_issues {st : Nat} (hdone : q.done = some st) (hcause : castCause st = none) : Issues .c .cstat s
    (s.me.modCtx fun x => { x with castq := rest }) [pushH0 1 (BitVec.ofNat 64 st)] := by
  refine issues_of_ok (exec_cstat_eq s) hroomy ?_
  simp only [engineOk_ok hhandler, hq, hdone, hcause, bind, Except.bind, pure, Except.pure]

end

/-- Settles O17: each request is accepted as above, and a CSTAT issues, waits or is late by its oldest request. -/
theorem castsAndCollectivesAreAccepted : Obligations.CastsAndCollectivesAreAccepted := by
  unfold Obligations.CastsAndCollectivesAreAccepted
  refine ⟨fun s hold cl a va c c1 segs h hhandler halign => ⟨fun hplace hcheck => ?casts, fun hplace hcheck => ?coll⟩,
    fun s a b va h c c1 segs hsrc hhandler halign hplace hcheck => ?rel, fun s hroomy hhandler =>
    ⟨cstat_issues_none hhandler hroomy, fun q rest hq => ⟨cstat_late hhandler hq,
      fun hdone hfree => ⟨_, cstat_waits hhandler hq hroomy hdone hfree⟩,
      fun st hdone hcause => ⟨_, rfl, cstat_issues hhandler hq hroomy hdone hcause⟩⟩⟩⟩
  case casts =>
    exact ⟨c1.castListed s.seq (.find hold), _, _, rfl, rfl, rfl, rfl, cfind_accepts hhandler halign h hold hplace hcheck, rfl, rfl, rfl,
      c1.castListed s.seq (.put hold), rfl, cput_accepts hhandler halign h hold hplace hcheck⟩
  case coll => exact ⟨_, rfl, rfl, rfl, coll_accepts hhandler halign h hplace hcheck⟩
  case rel => exact ⟨c1.castListed s.seq .rel, _, rfl, rfl, rfl, rfl, crel_accepts hhandler halign hsrc hplace hcheck⟩

end Sys2Proof.Machine
end

section

/-! PROOFS. PDISP, PROW and PDONE at their issue (R348 to R350), and what a core sees of its die's port while no hold is on its way
(R352). -/

namespace Sys2Proof.Machine

open Sys2Proof

theorem exec_pdisp_eq (lane : FzLane) (a b : CSrc) (t : Target) (s : State) : exec (.pdisp lane a b t) s = execPdisp lane a b t s := rfl
theorem exec_prow_eq (cnt : Bool) (lane : FzLane) (a : CSrc) (s : State) : exec (.prow cnt lane a) s = execProw cnt lane a s := rfl
theorem exec_pdone_eq (op : PdoneOp) (lane : FzLane) (a b e : CSrc) (s : State) :
    exec (.pdone op lane a b e) s = execPdone op lane a b e s := rfl

theorem SourcesC3.roomy {s : State} {a b e : CSrc} {x y z : Word} {c : Core} (h : SourcesC3 s a b e x y z c) : s.Roomy := by
  obtain ⟨-, -, -, hroomy, -⟩ := h
  exact hroomy

/-- Using a lane moves no stream. -/
theorem Core.lineOf_useLane (c : Core) (l : FzLane) (cl : Cluster) : (c.useLane l).lineOf cl = c.lineOf cl := rfl

/-! ### PDISP (R348) -/

/-- The dispatch entry of the panel in place: its index from the base, the fields of the second operand (R348). -/
def State.panelIndex (s : State) (lane : FzLane) (y : Word) : Nat :=
  (tagIndex (s.fzCur s.cur lane).toNat + 65536 - bits y 15 0) % 65536

section
variable {s : State} {lane : FzLane} {a b : CSrc} {t : Target} {x y : Word} {c : Core} (h : SourcesC2 s a b x y c)
  (halign : x.toNat % 4 = 0)
include h halign

/-- A panel that is no data panel, or outside the table, goes to the label. -/
theorem pdisp_label (hout : tagKind (s.fzCur s.cur lane).toNat ≠ 0 ∨ bits y 31 16 ≤ s.panelIndex lane y)
    (ht : TargetOk s (c.useLane lane) (targetLine (c.lineOf .c) t)) :
    IssuesAs .c (.pdisp lane a b t) s (transfer (c.useLane lane) true (targetLine (c.lineOf .c) t) t.parcel.toNat []) := by
  refine branch_issues h.roomy (exec_pdisp_eq lane a b t s) ?_ ht
  simp -zeta only [readC2_ok h, bind, Except.bind]
  extract_lets tag c1 label i
  have hlabel : tagKind tag.toNat ≠ 0 ∨ bits y 31 16 ≤ i := hout
  rw [if_neg (fun hne => hne halign), if_pos hlabel]
  rfl

variable (hin : tagKind (s.fzCur s.cur lane).toNat = 0 ∧ s.panelIndex lane y < bits y 31 16)
  (hend : x.toNat + 4 * s.panelIndex lane y + 4 ≤ 2 ^ 20)
  (hpoison : s.poisoned (pasFrom (padBase s.cur + (x.toNat + 4 * s.panelIndex lane y)) 4) = false)
include hin hend hpoison

/-- An entry of 0 stands for the label. -/
theorem pdisp_empty_entry (hentry : leNat (s.readAs s.cur (pasFrom (padBase s.cur + (x.toNat + 4 * s.panelIndex lane y)) 4)) = 0)
    (ht : TargetOk s (c.useLane lane) (targetLine (c.lineOf .c) t)) :
    IssuesAs .c (.pdisp lane a b t) s { transfer (c.useLane lane) true (targetLine (c.lineOf .c) t) t.parcel.toNat [] with
      reads := pasFrom (padBase s.cur + (x.toNat + 4 * s.panelIndex lane y)) 4 } := by
  refine issuesAs_of_ok (exec_pdisp_eq lane a b t s) h.roomy ?_
  simp -zeta only [readC2_ok h, bind, Except.bind]
  extract_lets tag c1 label i off pas e
  have hinside : ¬ (tagKind tag.toNat ≠ 0 ∨ bits y 31 16 ≤ i) := not_or.mpr ⟨not_not.mpr hin.left, hin.right.not_ge⟩
  have hoff : ¬ 2 ^ 20 < off + 4 := hend.not_gt
  have hread : ¬ s.poisoned pas = true := Bool.eq_false_iff.mp hpoison
  have he : e = 0 := hentry
  have hlabel : label = .ok (transfer c1 true (targetLine (c.lineOf .c) t) t.parcel.toNat []) := branchC_ok true _ [] ht
  rw [if_neg (fun hne => hne halign), if_neg hinside, if_neg hoff, if_neg hread, if_pos he, hlabel]
  rfl

/-- Another entry is the position to go to. -/
theorem pdisp_entry {n : Nat} (hentry : leNat (s.readAs s.cur (pasFrom (padBase s.cur + (x.toNat + 4 * s.panelIndex lane y)) 4)) = n)
    (hparcel : 2 ≤ n % 32) (ht : TargetOk s (c.useLane lane) (n / 32)) :
    IssuesAs .c (.pdisp lane a b t) s { transfer (c.useLane lane) true (n / 32) (n % 32) [] with
      reads := pasFrom (padBase s.cur + (x.toNat + 4 * s.panelIndex lane y)) 4 } := by
  refine issuesAs_of_ok (exec_pdisp_eq lane a b t s) h.roomy ?_
  simp -zeta only [readC2_ok h, bind, Except.bind]
  extract_lets tag c1 label i off pas e
  have hinside : ¬ (tagKind tag.toNat ≠ 0 ∨ bits y 31 16 ≤ i) := not_or.mpr ⟨not_not.mpr hin.left, hin.right.not_ge⟩
  have hoff : ¬ 2 ^ 20 < off + 4 := hend.not_gt
  have hread : ¬ s.poisoned pas = true := Bool.eq_false_iff.mp hpoison
  have he : e = n := hentry
  have hne : ¬ n = 0 := by omega
  rw [if_neg (fun hne => hne halign), if_neg hinside, if_neg hoff, if_neg hread, he, if_neg hne, legal, decide_eq_true hparcel,
    if_pos rfl, branchC_ok true _ [] ht]
  rfl

end

/-! ### PROW (R349) -/

/-- The map that a core sees of a lane: none of a lane that carries no frieze (R349). -/
def State.laneMap (s : State) (lane : FzLane) : List (Nat × Nat × Nat) :=
  match s.laneView s.cur lane with | some p => if p.carries then p.map else [] | none => []

/-- The word of PROW's counts. -/
def State.rowCounts (s : State) (lane : FzLane) : Word :=
  packWord [(0, 7, ((s.laneMap lane).filter fun e => decide (e.1 < 56)).length),
    (8, 4, ((s.laneMap lane).filter fun e => decide (56 ≤ e.1)).length),
    (16, 1, if (s.laneView s.cur lane).any Port.carries then 1 else 0)]

/-- The two lower fields of a word that is packed as PROW's counts are. -/
theorem packWord_counts (m n f : Nat) : (packWord [(0, 7, m), (8, 4, n), (16, 1, f)]).toNat % 128 = m % 128 ∧
    (packWord [(0, 7, m), (8, 4, n), (16, 1, f)]).toNat / 256 % 16 = n % 16 := by
  simp only [packWord, List.foldl_cons, List.foldl_nil, BitVec.toNat_ofNat]
  omega

section
variable {s : State} {lane : FzLane} (hhandler : s.me.inHandler = false)
include hhandler

theorem prow_counts_issues (a : CSrc) (hroomy : s.Roomy) :
    Issues .c (.prow true lane a) s (s.me.useLane lane) [pushH0 4 (s.rowCounts lane)] := by
  refine issues_of_ok (exec_prow_eq true lane a s) hroomy ?_
  simp only [engineOk_ok hhandler, bind, Except.bind, pure, Except.pure, if_true, State.rowCounts, State.laneMap] <;> rfl

theorem prow_row_issues {a : CSrc} {x : Word} {c : Core} (h : SourcesC1 s a x c) :
    Issues .c (.prow false lane a) s (c.useLane lane)
      [pushH0 4 (BitVec.ofNat 64 (match (s.laneMap lane).find? fun e => e.1 == x.toNat with | some e => e.2.2 | none => 0))] := by
  refine issues_of_ok (exec_prow_eq false lane a s) h.roomy ?_
  simp only [engineOk_ok hhandler, readC1_ok h, bind, Except.bind, pure, Except.pure, Bool.false_eq_true, if_false, State.laneMap] <;> rfl

end

/-! ### PDONE (R350) -/

/-- The request of a PDONE that is applied at I + 160. -/
def Core.pdoneReqs (c : Core) (op : PdoneOp) (lane : FzLane) (row : Nat) (n : BitVec 16) (va : Word) (p : Port) : List Req :=
  [⟨160, none, true, .pdoneApply, .pdone ⟨op, lane, row, n, va, p.ring, (c.useLane lane).posOf .c, false⟩⟩]

section
variable {s : State} {lane : FzLane} {a b e : CSrc} {x y z : Word} {c : Core} {p : Port} (hhandler : s.me.inHandler = false)
  (hview : s.laneView s.cur lane = some p) (hcarries : p.carries = true) (hrow : x.toNat < 64)
include hhandler hview hcarries hrow

theorem pdone_adv_issues (h : SourcesC2 s a b x y c) :
    Issues .c (.pdone .adv lane a b e) s (c.useLane lane) (c.pdoneReqs .adv lane x.toNat (y.setWidth 16) 0 p) := by
  refine issues_of_ok (exec_pdone_eq .adv lane a b e s) h.roomy ?_
  obtain ⟨ha, hb, -, c1, hreada, hreadb⟩ := h
  have hbad : ¬ ((!p.carries) = true ∨ 64 ≤ x.toNat) := by simp [hcarries, hrow]
  simp only [engineOk_ok hhandler, bind, Except.bind, pure, Except.pure, ha, hb, hreada, hreadb, legal, hview, if_neg hbad]
  rfl

theorem pdone_free_issues (h : SourcesC1 s a x c) :
    Issues .c (.pdone .free lane a b e) s (c.useLane lane) (c.pdoneReqs .free lane x.toNat 0 0 p) := by
  refine issues_of_ok (exec_pdone_eq .free lane a b e s) h.roomy ?_
  obtain ⟨ha, -, hread⟩ := h
  have hbad : ¬ ((!p.carries) = true ∨ 64 ≤ x.toNat) := by simp [hcarries, hrow]
  simp only [engineOk_ok hhandler, bind, Except.bind, pure, Except.pure, ha, hread, legal, hview, if_neg hbad]
  rfl

theorem pdone_admitRow_issues (h : SourcesC3 s a b e x y z c) (halign : z.toNat % 64 = 0) (hcanonical : canonical z.toNat = true) :
    Issues .c (.pdone .admitRow lane a b e) s (c.useLane lane) (c.pdoneReqs .admitRow lane x.toNat (y.setWidth 16) z p) := by
  refine issues_of_ok (exec_pdone_eq .admitRow lane a b e s) h.roomy ?_
  obtain ⟨ha, hb, he, -, c1, c2, hreada, hreadb, hreade⟩ := h
  have hbad : ¬ ((!p.carries) = true ∨ 64 ≤ x.toNat) := by simp [hcarries, hrow]
  simp only [engineOk_ok hhandler, bind, Except.bind, pure, Except.pure, ha, hb, he, hreada, hreadb, hreade, legal, hview, if_neg hbad,
    halign, hcanonical]
  rfl

end

/-! ### What a core sees of a port (R352) -/

/-- Where no hold is on its way, a core and a port stand at the same cycle. -/
theorem State.fzSkew_eq_zero {s : State} (hholds : s.holds = []) (id : CoreId) (p : Port) : s.fzSkew id p = 0 := by
  simp [State.fzSkew, hholds, stoppedCycles]

theorem State.laneView_eq_port? {s : State} (hholds : s.holds = []) (id : CoreId) (lane : FzLane) :
    s.laneView id lane = s.port? id.die lane := by
  simp [State.laneView, State.fzSkew_eq_zero hholds]

/-- Settles O19: PDISP goes to the entry or to the label, PROW reads the map that the core sees, and PDONE asks for its change. -/
theorem friezeInstructionsIssue : Obligations.FriezeInstructionsIssue := by
  unfold Obligations.FriezeInstructionsIssue
  refine ⟨fun s lane a b t x y c h halign => ⟨fun hout ht => pdisp_label h halign hout ht,
    fun hkind hindex hend hpoison => ⟨fun hentry ht => pdisp_empty_entry h halign ⟨hkind, hindex⟩ hend hpoison hentry ht,
      fun hparcel ht => pdisp_entry h halign ⟨hkind, hindex⟩ hend hpoison rfl hparcel ht⟩⟩,
    fun s lane a x c hhandler => ⟨fun hroomy => ⟨s.rowCounts lane, prow_counts_issues hhandler a hroomy, packWord_counts _ _ _⟩,
      fun h => prow_row_issues hhandler h⟩,
    fun s lane a b e x y z c p hhandler hview hcarries hrow => ⟨fun h => pdone_adv_issues hhandler hview hcarries hrow h,
      fun h => pdone_free_issues hhandler hview hcarries hrow h,
      fun h halign hcanonical => pdone_admitRow_issues hhandler hview hcarries hrow h halign hcanonical⟩,
    fun s lane hholds => State.laneView_eq_port? hholds s.cur lane⟩

end Sys2Proof.Machine
end

section

/-! PROOFS. Taking an exception (R306 to R308, R316, R321), and the waves of holds and of their releases (R314, R316, R317, R319). -/

namespace Sys2Proof.Machine

open Sys2Proof

/-! ### Holds begin (R316, R317) -/

/-- A hold's wave is to reach a member after its distance. -/
def State.WaveComes (s : State) (hold clock : Nat) (m : CoreId × Nat) : Prop :=
  ∃ p ∈ s.agenda, p.owner = m.1 ∧ p.ev = .holdReachesMember ∧ p.due = clock + m.2 ∧ p.arg = .ids hold 0

theorem State.WaveComes.mono {s t : State} {hold clock : Nat} {m : CoreId × Nat} (h : s.WaveComes hold clock m)
    (hsub : s.agenda ⊆ t.agenda) : t.WaveComes hold clock m := by
  obtain ⟨p, hp, hrest⟩ := h
  exact ⟨p, hsub hp, hrest⟩

/-- The hold set of some cores holds these cores (R352). -/
theorem State.subset_holdSet (s : State) (n : Nat) (cs : List CoreId) (rs : List Nat) : cs ⊆ (s.holdSet n cs rs).1 := by
  induction n generalizing cs rs with
  | zero => exact List.Subset.refl _
  | succ n ih => exact fun c hc => ih _ _ (List.mem_eraseDups.mpr (List.mem_append_left _ hc))

/-- The wave of a hold sets out to its members. -/
def State.sendWave (s : State) (hold : Nat) (members : List (CoreId × Nat)) : State :=
  members.foldl (fun t m => t.scheduleDom m.1 m.2 .holdReachesMember (.ids hold 0)) s

section
variable (s : State) (hold : Nat) (members : List (CoreId × Nat))

theorem State.sendWave_keeps {γ : Type} (g : State → γ) (hg : ∀ t o d ev arg, g (State.scheduleDom t o d ev arg) = g t) :
    g (s.sendWave hold members) = g s := foldl_keeps g _ (fun _ _ => hg ..) members s

theorem State.agenda_subset_sendWave : s.agenda ⊆ (s.sendWave hold members).agenda :=
  State.foldl_schedule_subset Prod.fst (fun _ m => m.2) _ (fun _ => .ids hold 0) members s

theorem State.sendWave_waveComes {m : CoreId × Nat} (hm : m ∈ members) : (s.sendWave hold members).WaveComes hold s.clock m := by
  obtain ⟨p, hp, -, hdue, howner, hev, harg⟩ := State.exists_mem_foldl_schedule (o := Prod.fst) (d := fun _ m => m.2)
    (fun _ _ _ _ => rfl) .holdReachesMember (fun _ => .ids hold 0) s hm
  exact ⟨p, hp, howner, hev, hdue, harg⟩

end

/-- A hold is open, under the next number of the issue order. -/
def State.openHold (s : State) (h : Hold) : State := { s with seq := s.seq + 1, holds := s.holds ++ [h] }

section
variable (s : State) (reason : Nat) (kill : Option (Nat × Nat)) (origin : CoreId) (cores : List CoreId) (rings : List Nat)

/-- startHold opens a hold over the given cores, and perhaps more, and sends its wave; a fatal fault's release is to come as well. -/
theorem State.startHold_eq : ∃ members, (∀ c ∈ cores, ∃ d, (c, d) ∈ members) ∧
    let t := (s.openHold (s.newHold reason kill origin members)).sendWave s.seq members
    (s.startHold reason kill origin cores rings = t ∨
      ∃ d, s.startHold reason kill origin cores rings = t.scheduleDom origin d .releaseStart (.ids s.seq 0)) := by
  have hmem := s.subset_holdSet (s.rings.length + 1) cores rings
  simp only [State.startHold]
  split
  · refine ⟨_, ?_, .inr ⟨_, rfl⟩⟩
    exact fun c hc => ⟨_, List.mem_append_left _ (List.mem_map_of_mem (hmem hc))⟩
  · refine ⟨_, ?_, .inl rfl⟩
    exact fun c hc => ⟨_, List.mem_append_left _ (List.mem_map_of_mem (hmem hc))⟩

/-- What a hold that begins leaves behind: itself, and the waves to its members, which hold the given cores (R316, R317, R352). -/
theorem State.startHold_begins : ∃ members, (∀ c ∈ cores, ∃ d, (c, d) ∈ members) ∧
    (s.startHold reason kill origin cores rings).holds = s.holds ++ [s.newHold reason kill origin members] ∧
    s.agenda ⊆ (s.startHold reason kill origin cores rings).agenda ∧
    ∀ m ∈ members, (s.startHold reason kill origin cores rings).WaveComes s.seq s.clock m := by
  obtain ⟨members, hmem, heq⟩ := s.startHold_eq reason kill origin cores rings
  have hholds := (s.openHold (s.newHold reason kill origin members)).sendWave_keeps s.seq members State.holds fun _ _ _ _ _ => rfl
  have hagenda := (s.openHold (s.newHold reason kill origin members)).agenda_subset_sendWave s.seq members
  have hwave := fun m hm => (s.openHold (s.newHold reason kill origin members)).sendWave_waveComes s.seq members (m := m) hm
  obtain heq | ⟨d, heq⟩ := heq <;> rw [heq]
  · exact ⟨members, hmem, hholds, hagenda, hwave⟩
  · exact ⟨members, hmem, hholds, List.Subset.trans hagenda (List.subset_append_left _ _),
      fun m hm => (hwave m hm).mono (List.subset_append_left _ _)⟩

end

/-! ### What a stop writes (R307) -/

theorem Cause.code_lt (cause : Cause) : cause.code < 256 := by cases cause <;> decide

/-- The fields of TCAUSE. -/
theorem tcauseWord_fields (cause : Cause) (handler nested : Bool) :
    (tcauseWord cause handler nested).toNat % 256 = cause.code ∧ (tcauseWord cause handler nested).toNat / 256 % 4 = cause.cls.code ∧
    (tcauseWord cause handler nested).getLsbD 10 = handler ∧ (tcauseWord cause handler nested).getLsbD 11 = nested := by
  have hcode := cause.code_lt
  have hclass : cause.cls.code < 4 := by cases cause.cls <;> decide
  simp only [tcauseWord, BitVec.toNat_ofNat, BitVec.getLsbD, Nat.testBit_eq_decide_div_mod_eq]
  cases handler <;> cases nested <;> simp only [if_true, Bool.false_eq_true, if_false, decide_eq_true_eq, decide_eq_false_iff_not] <;> omega

/-- From c to d a core stops for a cause: its trap registers say so, and the task's registers stay (R307). -/
structure Core.StopsFor (c d : Core) (cause : Cause) (info : Word) (pos : Pos) (handler nested : Bool) : Prop where
  sys : d.ctx.sys = (c.writeTrap cause info pos handler nested).ctx.sys
  regs : d.ctx.c = c.ctx.c
  x : d.ctx.x = c.ctx.x
  l : d.ctx.l = c.ctx.l
  st : d.ctx.st = c.ctx.st
  acc : d.ctx.acc = c.ctx.acc
  chan : d.ctx.chan = c.ctx.chan

theorem Core.StopsFor.registers {c d : Core} {cause : Cause} {info : Word} {pos : Pos} {handler nested : Bool}
    (h : c.StopsFor d cause info pos handler nested) :
    d.ctx.sys.tinfo = info ∧
    d.ctx.sys.trapline = BitVec.ofNat 64 (pos.cl.idx * 2 ^ 20 + (32 * pos.line + pos.parcel) % 2 ^ 19) ∧
    d.ctx.sys.tcause.toNat % 256 = cause.code ∧ d.ctx.sys.tcause.toNat / 256 % 4 = cause.cls.code ∧
    d.ctx.sys.tcause.getLsbD 10 = (handler || c.inHandler) ∧ d.ctx.sys.tcause.getLsbD 11 = nested ∧
    d.ctx.c.s = c.ctx.c.s ∧ d.ctx.c.h = c.ctx.c.h := by
  obtain ⟨hcode, hclass, hhandler, hnested⟩ := tcauseWord_fields cause (handler || c.inHandler) nested
  rw [h.sys, h.regs]
  exact ⟨rfl, rfl, hcode, hclass, hhandler, hnested, rfl, rfl⟩

/-! ### The disposition of a cause (R306, R308) -/

/-- A cause that the task's handler is entered for. -/
def Core.Handles (c : Core) (cause : Cause) : Prop :=
  cause.cls = .user ∧ c.inHandler = false ∧ c.ctx.sys.tvec ≠ 0 ∧ c.ctx.sys.handlerOk = true

theorem Core.disposition_handles {c : Core} {cause : Cause} (h : c.Handles cause) : c.disposition cause = (.handler, false) := by
  obtain ⟨hclass, hhandler, htvec, hok⟩ := h
  simp only [Core.disposition, hclass, hhandler, htvec, hok, Bool.false_eq_true, if_false, if_true]

theorem Core.disposition_supervisor {c : Core} {cause : Cause} (h : ¬ c.Handles cause) (hclass : cause.cls ≠ .fatal ∨ c.inHandler = true) :
    ∃ nested, c.disposition cause = (.supervisor, nested) ∧ (c.inHandler = true → nested = true) := by
  unfold Core.disposition
  split
  next hfatal =>
    have hin : c.inHandler = true := hclass.resolve_left fun hne => hne hfatal
    exact ⟨true, if_pos hin, fun _ => rfl⟩
  next => exact ⟨c.inHandler, rfl, id⟩
  next huser =>
    split
    · exact ⟨true, rfl, fun _ => rfl⟩
    · next hin =>
      split
      · exact ⟨false, rfl, fun hin' => absurd hin' hin⟩
      · next htvec => exact ⟨true, if_neg fun hok => h ⟨huser, Bool.eq_false_iff.mpr hin, htvec, hok⟩, fun _ => rfl⟩

theorem Core.disposition_fatal {c : Core} {cause : Cause} (hclass : cause.cls = .fatal) (hin : c.inHandler = false) :
    c.disposition cause = (.fatal, false) := by
  simp only [Core.disposition, hclass, hin, Bool.false_eq_true, if_false]

/-! ### The group of a stopped task is held (R316) -/

/-- The group of a locked task that stops in core id of s is held with reason 1, outside handler mode. -/
def State.holdsGroup (u s : State) (id : CoreId) : State :=
  if (s.core id).isLocked && !(s.core id).inHandler then
    u.startHold 1 none id (s.groupCores (((s.core id).task.map (·.group)).getD 0)) []
  else u

theorem State.core_holdsGroup (u s : State) (id k : CoreId) : (u.holdsGroup s id).core k = u.core k := by
  rw [State.holdsGroup]
  split
  · exact u.core_startHold ..
  · rfl

theorem State.agenda_subset_holdsGroup (u s : State) (id : CoreId) : u.agenda ⊆ (u.holdsGroup s id).agenda := by
  rw [State.holdsGroup]
  split
  · obtain ⟨members, -, -, hsub, -⟩ := u.startHold_begins 1 none id (s.groupCores (((s.core id).task.map (·.group)).getD 0)) []
    exact hsub
  · exact List.Subset.refl _

theorem State.holds_holdsGroup {u s : State} (id : CoreId) (hholds : u.holds = s.holds) (hclock : u.clock = s.clock) :
    (u.holdsGroup s id).holds.take s.holds.length = s.holds ∧
    ((s.core id).isLocked = true → (s.core id).inHandler = false →
      ∃ h ∈ (u.holdsGroup s id).holds, h.origin = id ∧ h.reason = 1 ∧ h.start = s.clock ∧ h.release = none) ∧
    ((s.core id).isLocked = false → (u.holdsGroup s id).holds = s.holds) := by
  rw [State.holdsGroup]
  split
  · next hgroup =>
    obtain ⟨hlocked, -⟩ := Bool.and_eq_true_iff.mp hgroup
    obtain ⟨members, -, hopen, -⟩ := u.startHold_begins 1 none id (s.groupCores (((s.core id).task.map (·.group)).getD 0)) []
    rw [hopen, hholds]
    exact ⟨List.take_left, fun _ _ => ⟨_, List.mem_append_right _ (List.mem_singleton_self _), rfl, rfl, hclock, rfl⟩,
      fun hfree => absurd hlocked (Bool.eq_false_iff.mp hfree)⟩
  · next hgroup =>
    exact ⟨hholds ▸ List.take_length, fun hlocked hin => absurd (by rw [hlocked, hin]; rfl) hgroup, fun _ => hholds⟩

/-! ### Where the stop goes (R306, R308) -/

/-- The state in which the supervisor is to act on a core's stop (R306). -/
def State.awaitsSupervisor (s : State) (id : CoreId) (c : Core) : State :=
  ((s.setCore id (c.modCtx fun x => { x with trapped := some .supervisor })).scheduleDom id (1 + Config.supervisorDelay s.ctr)
    .supervisorDisposition .none).tick

section
variable {s : State} {id : CoreId} {cause : Cause} (info : Word) (pos : Pos)

theorem State.takeTrap_handles (h : (s.core id).Handles cause) : s.takeTrap id cause info pos =
    (s.setCore id (((s.core id).writeTrap cause info pos true false).enterHandler s)).holdsGroup s id := by
  simp only [State.takeTrap, Core.disposition_handles h]
  rfl

theorem State.takeTrap_supervisor {nested : Bool} (h : (s.core id).disposition cause = (.supervisor, nested)) :
    s.takeTrap id cause info pos =
      (s.awaitsSupervisor id ((s.core id).writeTrap cause info pos false nested)).holdsGroup s id := by
  simp only [State.takeTrap, h]
  rfl

end

/-- The handler's entry keeps the registers and saves what it changes (R308). -/
theorem Core.enterHandler_saves (c : Core) (s : State) (cause : Cause) (info : Word) (pos : Pos) :
    let d := (c.writeTrap cause info pos true false).enterHandler s
    c.StopsFor d cause info pos true false ∧ d.inHandler = true ∧ d.stream .c = handlerStream s c.ctx.sys ∧
      ∃ h, d.ctx.trapped = some (.handler h) ∧ h.h = c.ctx.c.h ∧ h.k = c.ctx.c.k ∧ h.tbase = c.ctx.sys.tbase ∧
        h.stream = c.stream .c ∧ h.action = none :=
  ⟨⟨rfl, rfl, rfl, rfl, rfl, rfl, rfl⟩, rfl, Core.stream_setStream_self _ .c _, _, rfl, rfl, rfl, rfl, rfl, rfl⟩

/-- Before its group is held, a stop that is not fatal is the handler's entry, or the wait for the supervisor (R306, R308). -/
theorem State.takeTrap_goes {s : State} {id : CoreId} {cause : Cause} (info : Word) (pos : Pos)
    (hclass : cause.cls ≠ .fatal ∨ (s.core id).inHandler = true) :
    let c := s.core id
    ∃ u handler nested, s.takeTrap id cause info pos = State.holdsGroup u s id ∧ c.StopsFor (u.core id) cause info pos handler nested ∧
      u.holds = s.holds ∧ u.clock = s.clock ∧
      (c.Handles cause → handler = true ∧ (u.core id).inHandler = true ∧ (u.core id).stream .c = handlerStream s c.ctx.sys ∧
        ∃ h, (u.core id).ctx.trapped = some (.handler h) ∧ h.h = c.ctx.c.h ∧ h.k = c.ctx.c.k ∧ h.tbase = c.ctx.sys.tbase ∧
          h.stream = c.stream .c ∧ h.action = none) ∧
      (¬ c.Handles cause → (u.core id).ctx.trapped = some .supervisor ∧ (c.inHandler = true → nested = true) ∧
        ∃ p ∈ u.agenda, p.owner = id ∧ p.ev = .supervisorDisposition ∧ s.clock < p.due) := by
  intro c
  by_cases hhandles : c.Handles cause
  · obtain ⟨hstops, hin, hstream, hsaved⟩ := Core.enterHandler_saves c s cause info pos
    refine ⟨_, true, false, State.takeTrap_handles info pos hhandles, ?_⟩
    rw [State.core_setCore_self]
    exact ⟨hstops, rfl, rfl, fun _ => ⟨rfl, hin, hstream, hsaved⟩, fun hnot => absurd hhandles hnot⟩
  · obtain ⟨nested, hdisp, hnested⟩ := Core.disposition_supervisor hhandles hclass
    refine ⟨_, false, nested, State.takeTrap_supervisor info pos hdisp, ?_⟩
    rw [State.awaitsSupervisor, State.core_tick, State.core_scheduleDom, State.core_setCore_self]
    exact ⟨⟨rfl, rfl, rfl, rfl, rfl, rfl, rfl⟩, rfl, rfl, fun h => absurd h hhandles, fun _ => ⟨rfl, hnested, _,
      State.mem_agenda_scheduleDom _ id _ .supervisorDisposition .none, rfl, rfl, by simp only [State.clock_setCore]; omega⟩⟩

/-! ### Fatal causes (R321) -/

/-- The events of a core that has lost its task are none of its in-flight effects. -/
theorem State.ifq_of_mem_agenda_freeCore {s : State} {id : CoreId} {p : Pending} (hp : p ∈ (s.freeCore id).agenda) (howner : p.owner = id) :
    p.ifq = false := by
  obtain ⟨q, -, rfl⟩ := List.mem_map.mp hp
  by_cases hq : q.owner = id
  · simp only [hq, if_true, ne_eq, not_true_eq_false, and_false, if_false, apply_ite Pending.ifq, ite_self]
  · simp only [hq, if_false, apply_ite Pending.owner, ite_self] at howner

theorem State.core_freeCore_other {s : State} {id c : CoreId} (h : c ≠ id) : (s.freeCore id).core c = s.core c := by
  rw [State.freeCore, State.core_modCore_other _ _ _ _ h]
  rfl

theorem State.core_withFaultq (s : State) (q : List NodeFault) (c : CoreId) : ({ s with faultq := q } : State).core c = s.core c := rfl

/-- A free task's fatal end leaves memory, the holds and the other cores as they are. -/
theorem State.fatalEnd_frees {s : State} {id : CoreId} {k : Task} (code : Nat) (htask : (s.core id).task = some k) :
    let t := s.fatalEnd id code
    (t.core id).task = none ∧ (t.core id).ctx = Ctx.zero ∧ t.faultq = s.faultq ++ [⟨id, code, k.run⟩] ∧ t.mem = s.mem ∧ t.holds = s.holds ∧
      (∀ c, c ≠ id → t.core c = s.core c) ∧ ∀ p ∈ t.agenda, p.owner = id → p.ifq = false := by
  have heq : s.fatalEnd id code = { (s.discardInFlight id).freeCore id with
      faultq := ((s.discardInFlight id).freeCore id).faultq ++ [⟨id, code, k.run⟩] } := by
    simp only [State.fatalEnd, htask]
  have hcore : ∀ c, (s.fatalEnd id code).core c = ((s.discardInFlight id).freeCore id).core c := fun c =>
    (congrArg (State.core · c) heq).trans (State.core_withFaultq ..)
  refine ⟨s.task_fatalEnd code htask, ?_, s.faultq_fatalEnd code htask, s.mem_fatalEnd .., by rw [heq]; rfl, fun c hc => ?_, fun p hp => ?_⟩
  · rw [hcore, State.ctx_freeCore]
  · rw [hcore, State.core_freeCore_other hc]
    rfl
  · rw [heq] at hp
    exact State.ifq_of_mem_agenda_freeCore hp

section
variable {s : State} {id : CoreId} {k : Task} (info : Word) (pos : Pos) (htask : (s.core id).task = some k)
  (hhandler : (s.core id).inHandler = false)
include htask hhandler

/-- A free task ends at once. -/
theorem State.takeTrap_fatal_free (hfree : k.locked = false) : s.takeTrap id .eccUncorrectable info pos =
    (s.setCore id ((s.core id).writeTrap .eccUncorrectable info pos false false)).fatalEnd id 0x30 := by
  have hlocked : (s.core id).isLocked = false := by simp only [Core.isLocked, htask, hfree]
  simp only [State.takeTrap, Core.disposition_fatal (cause := .eccUncorrectable) rfl hhandler, hlocked, Bool.false_and, Bool.false_eq_true,
    if_false]
  rfl

/-- The group of a locked one is held until each of its tasks has ended. -/
theorem State.takeTrap_fatal_locked (hlocked : k.locked = true) : s.takeTrap id .eccUncorrectable info pos =
    (s.setCore id (((s.core id).writeTrap .eccUncorrectable info pos false false).modCtx fun x => { x with
      trapped := some .supervisor })).startHold 6 (some (k.group, 0x30)) id (s.groupCores k.group) [] := by
  have hlock : (s.core id).isLocked = true := by simp only [Core.isLocked, htask, hlocked]
  simp only [State.takeTrap, Core.disposition_fatal (cause := .eccUncorrectable) rfl hhandler, hlock, htask, hhandler, Bool.not_false,
    Bool.and_self, if_true, Option.map_some, Option.getD_some]
  rfl

end

/-! ### The statement -/

/-- Settles O39: a stop's registers, then the handler's entry or the wait for the supervisor, and the end of a fatally stopped task. -/
theorem takingAnException : Obligations.TakingAnException := by
  unfold Obligations.TakingAnException
  refine ⟨fun s id cause info pos hclass => ?taken, fun s id info pos k htask hhandler => ⟨fun hfree => ?free, fun hlocked => ?locked⟩⟩
  case taken =>
    intro c t d handled
    obtain ⟨u, handler, nested, htaken, hstops, hholds, hclock, hhandles, hwaits⟩ := State.takeTrap_goes info pos hclass
    obtain ⟨htake, hheld, hfree⟩ := State.holds_holdsGroup id hholds hclock
    have hcore : d = u.core id := (congrArg (State.core · id) htaken).trans (State.core_holdsGroup ..)
    have hagenda : u.agenda ⊆ t.agenda := by
      rw [show t = _ from htaken]
      exact State.agenda_subset_holdsGroup ..
    rw [← htaken] at htake hheld hfree
    rw [← hcore] at hstops hhandles hwaits
    obtain ⟨hinfo, hline, hcode, hcls, hbit, hnested, hs, hh⟩ := hstops.registers
    refine ⟨hinfo, hline, hcode, hcls, hs, hh, hstops.x, hstops.l, hstops.st, hstops.acc, hstops.chan, s.mem_takeTrap .., htake,
      fun h => ?_, fun h => ?_, hheld, hfree⟩
    · obtain ⟨rfl, hin, hstream, hsaved⟩ := hhandles h
      exact ⟨hin, hstream ▸ rfl, hstream ▸ rfl, hstream ▸ rfl, hstream ▸ rfl, hbit, hsaved⟩
    · obtain ⟨htrapped, hbits, p, hp, hrest⟩ := hwaits h
      exact ⟨htrapped, fun hin => hnested.trans (hbits hin), p, hagenda hp, hrest⟩
  case free =>
    rw [State.takeTrap_fatal_free info pos htask hhandler hfree]
    obtain ⟨hnone, hctx, hfault, hmem, hholds, hother, hifq⟩ := State.fatalEnd_frees (k := k) 0x30
      (s := s.setCore id ((s.core id).writeTrap .eccUncorrectable info pos false false)) ((congrArg Core.task (State.core_setCore_self ..)).trans htask)
    exact ⟨hnone, hctx, hfault, hmem, hholds, fun c hc => (hother c hc).trans (State.core_setCore_other _ _ _ _ hc), hifq⟩
  case locked =>
    rw [State.takeTrap_fatal_locked info pos htask hhandler hlocked]
    obtain ⟨members, hmem, hopen, -, hwave⟩ := State.startHold_begins (s.setCore id (((s.core id).writeTrap .eccUncorrectable info pos
      false false).modCtx fun x => { x with trapped := some .supervisor })) 6 (some (k.group, 0x30)) id (s.groupCores k.group) []
    rw [State.core_startHold, State.core_setCore_self]
    refine ⟨rfl, rfl, State.mem_startHold .., (tcauseWord_fields .eccUncorrectable _ false).1, State.faultq_startHold .., _,
      hopen ▸ List.mem_append_right _ (List.mem_singleton_self _), rfl, rfl, rfl, rfl, fun c hc => ?_⟩
    obtain ⟨d, hd⟩ := hmem c hc
    exact ⟨d, hd, hwave _ hd⟩

end Sys2Proof.Machine
end

section

/-! PROOFS. Holds at their members, and their release (R314, R316, R317, R319). -/

namespace Sys2Proof.Machine

open Sys2Proof

theorem exec_holdReachesMember_eq (s : State) : exec .holdReachesMember s = execHoldReachesMember s := rfl
theorem exec_releaseStart_eq (s : State) : exec .releaseStart s = execReleaseStart s := rfl
theorem exec_releaseReachesMember_eq (s : State) : exec .releaseReachesMember s = execReleaseReachesMember s := rfl
theorem exec_landingBufferArrival_eq (s : State) : exec .landingBufferArrival s = execLandingBufferArrival s := rfl
theorem exec_vaultOverrun_eq (s : State) : exec .vaultOverrun s = execVaultOverrun s := rfl

/-! ### The wave at a member (R317, R319) -/

/-- HOLDINFO and the holds that a core stands in, written. -/
def Core.setHold (c : Core) (info : Word) (heldBy : List Nat) : Core :=
  { c.modCtx fun x => { x with sys := { x.sys with holdinfo := info } } with heldBy := heldBy }

section
variable (c : Core) (info : Word) (heldBy : List Nat)

theorem Core.holdinfo_setHold : (c.setHold info heldBy).ctx.sys.holdinfo = info := rfl
theorem Core.heldBy_setHold : (c.setHold info heldBy).heldBy = heldBy := rfl
theorem Core.c_setHold : (c.setHold info heldBy).ctx.c = c.ctx.c := rfl
theorem Core.x_setHold : (c.setHold info heldBy).ctx.x = c.ctx.x := rfl
theorem Core.task_setHold : (c.setHold info heldBy).task = c.task := rfl
theorem Core.trapped_setHold : (c.setHold info heldBy).ctx.trapped = c.ctx.trapped := rfl

end

/-- A member of a hold: it stands in it, and HOLDINFO names the hold. -/
def Core.heldIn (c : Core) (h : Hold) (m : CoreId) : Core := c.setHold (holdInfo h m 0) (setInsert c.heldBy h.id)

/-- The member after its release: it stands in the hold no more, and HOLDINFO holds the length. -/
def Core.releasedFrom (c : Core) (h : Hold) (m : CoreId) (now : Nat) : Core :=
  c.setHold (holdInfo h m (h.release.getD now - h.start)) (c.heldBy.filter (· != h.id))

theorem Core.stopped_heldIn (c : Core) (h : Hold) (m : CoreId) : (c.heldIn h m).stopped = true := by
  have hne : (setInsert c.heldBy h.id).isEmpty = false :=
    List.isEmpty_eq_false_iff.mpr (List.ne_nil_of_mem (mem_setInsert_self ..))
  rw [Core.stopped, Core.heldIn, Core.heldBy_setHold, hne, Bool.not_false, Bool.or_true]

/-- Fields from bit n on leave the bits below n. -/
theorem foldl_fields_mod {n : Nat} {fs : List (Nat × Nat × Nat)} (h : ∀ f ∈ fs, n ≤ f.1) (acc : Nat) :
    fs.foldl (fun acc f => acc + f.2.2 % 2 ^ f.2.1 * 2 ^ f.1) acc % 2 ^ n = acc % 2 ^ n := by
  induction fs generalizing acc with
  | nil => rfl
  | cons f fs ih =>
    rw [List.foldl_cons, ih fun g hg => h g (List.mem_cons_of_mem _ hg)]
    obtain ⟨k, hk⟩ := Nat.exists_eq_add_of_le (h f List.mem_cons_self)
    rw [hk, pow_add, ← Nat.mul_assoc, Nat.mul_right_comm, Nat.add_mul_mod_self_right]

/-- The lowest field of a word of fields. -/
theorem packWord_low {n : Nat} (v : Nat) {fs : List (Nat × Nat × Nat)} (hn : n ≤ 64) (h : ∀ f ∈ fs, n ≤ f.1) :
    (packWord ((0, n, v) :: fs)).toNat % 2 ^ n = v % 2 ^ n := by
  rw [packWord, BitVec.toNat_ofNat, Nat.mod_mod_of_dvd _ (Nat.pow_dvd_pow 2 hn), List.foldl_cons, foldl_fields_mod h, pow_zero,
    Nat.mul_one, Nat.zero_add, Nat.mod_mod]

/-- HOLDINFO begins with the reason. -/
theorem holdInfo_reason (h : Hold) (m : CoreId) (len : Nat) : (holdInfo h m len).toNat % 16 = h.reason % 16 :=
  packWord_low h.reason (n := 4) (by decide) (by simp)

/-- The port of a member that is one. -/
theorem portMember_of_memberLane {m : CoreId} {lane : FzLane} (h : memberLane m = some lane) : portMember m.die lane = m := by
  obtain ⟨die, core⟩ := m
  simp only [memberLane] at h
  split at h <;> cases h <;> simp_all [portMember]

/-- What forgetting a hold leaves alone. -/
theorem State.forgetHold_keeps {γ : Type} (g : State → γ) (hg : ∀ t hs, g { t with holds := hs } = g t) (s : State) (hid : Nat) :
    g (s.forgetHold hid) = g s := by
  rw [State.forgetHold]
  split
  · rfl
  · exact hg ..

section
variable {s : State} {h : Hold} {n : Nat} (harg : s.arg = .ids h.id n) (hhold : s.hold? h.id = some h)
include harg hhold

theorem holdReachesMember_core {k : Task} (hlane : memberLane s.cur = none) (htask : s.me.task = some k)
    (hspared : ∀ g code, h.kill = some (g, code) → k.locked = false ∨ k.group ≠ g) :
    exec .holdReachesMember s = .next (s.setCore s.cur (s.me.heldIn h s.cur)) := by
  rw [State.me] at htask
  simp only [exec_holdReachesMember_eq, execHoldReachesMember, harg, hhold, hlane, htask, Option.isSome_none, Bool.false_eq_true, if_false]
  split
  · next g code hkill =>
    have hother : ¬ (k.locked = true ∧ k.group = g) := fun ⟨hlocked, hgroup⟩ =>
      (hspared g code hkill).elim (fun hfree => absurd hlocked (Bool.eq_false_iff.mp hfree)) fun hne => hne hgroup
    exact if_neg hother
  · rfl

theorem holdReachesMember_idle (hlane : memberLane s.cur = none) (htask : s.me.task = none) :
    exec .holdReachesMember s = .next s := by
  rw [State.me] at htask
  simp only [exec_holdReachesMember_eq, execHoldReachesMember, harg, hhold, hlane, htask, Option.isSome_none, Bool.false_eq_true, if_false]

theorem holdReachesMember_port {lane : FzLane} (hlane : memberLane s.cur = some lane) : exec .holdReachesMember s =
    .next (s.modMember s.cur fun p => { p with heldBy := setInsert p.heldBy h.id }) := by
  simp only [exec_holdReachesMember_eq, execHoldReachesMember, harg, hhold, hlane, Option.isSome_some, if_true]

/-! ### The release (R317) -/

/-- The release wave leaves its origin. -/
theorem releaseStart_sends (hopen : h.release = none) : ∃ t, exec .releaseStart s = .next t ∧ t.cores = s.cores ∧ t.mem = s.mem ∧
    ∀ m ∈ h.members, ∃ p ∈ t.agenda, p.owner = m.1 ∧ p.clk = .dom ∧ p.due = s.clock + m.2 ∧ p.ev = .releaseReachesMember := by
  simp only [exec_releaseStart_eq, execReleaseStart, harg, hhold, hopen, Option.isSome_none, Bool.false_eq_true, if_false]
  refine ⟨_, rfl, ?_, ?_, fun m hm => ?_⟩
  · exact State.foldl_schedule_keeps State.cores (fun _ _ _ _ _ => rfl) Prod.fst (fun _ m => m.2) _ (fun _ => .ids h.id 0) h.members _
  · exact State.foldl_schedule_keeps State.mem (fun _ _ _ _ _ => rfl) Prod.fst (fun _ m => m.2) _ (fun _ => .ids h.id 0) h.members _
  · obtain ⟨p, hp, hclk, hdue, howner, hev, -⟩ := State.exists_mem_foldl_schedule (o := Prod.fst) (d := fun _ m => m.2)
      (fun _ _ _ _ => rfl) .releaseReachesMember (fun _ => .ids h.id 0) _ hm
    exact ⟨p, hp, howner, hclk, hdue, hev⟩

/-- A member that stands in the hold. -/
theorem releaseReachesMember_held (hlane : memberLane s.cur = none) (hheld : s.me.heldBy.contains h.id = true) :
    exec .releaseReachesMember s = .next ((s.setCore s.cur (s.me.releasedFrom h s.cur s.clock)).forgetHold h.id) := by
  rw [State.me] at hheld
  simp only [exec_releaseReachesMember_eq, execReleaseReachesMember, harg, hhold, hlane, hheld, Option.isSome_none, Bool.false_eq_true,
    if_false, if_true]
  rfl

/-- A member that the hold has not stopped. -/
theorem releaseReachesMember_free (hlane : memberLane s.cur = none) (hheld : s.me.heldBy.contains h.id = false) :
    exec .releaseReachesMember s = .next (s.forgetHold h.id) := by
  rw [State.me] at hheld
  simp only [exec_releaseReachesMember_eq, execReleaseReachesMember, harg, hhold, hlane, hheld, Option.isSome_none, Bool.false_eq_true,
    if_false]

/-- A member that is a port. -/
theorem releaseReachesMember_port {lane : FzLane} (hlane : memberLane s.cur = some lane) : exec .releaseReachesMember s =
    .next ((s.modMember s.cur fun p => { p with heldBy := p.heldBy.filter (· != h.id) }).forgetHold h.id) := by
  simp only [exec_releaseReachesMember_eq, execReleaseReachesMember, harg, hhold, hlane, Option.isSome_some, if_true]

theorem releaseReachesMember_resumes : ∃ t, exec .releaseReachesMember s = .next t ∧ t.mem = s.mem ∧
    (memberLane s.cur = none → ∀ k, k ∈ (t.core s.cur).heldBy ↔ k ∈ s.me.heldBy ∧ k ≠ h.id) ∧
    (t.core s.cur).ctx.trapped = s.me.ctx.trapped := by
  have hkeeps := fun u : State => u.forgetHold_keeps State.mem (fun _ _ => rfl) h.id
  have hcore := fun u : State => u.forgetHold_keeps (fun t => t.core s.cur) (fun _ _ => rfl) h.id
  cases hlane : memberLane s.cur with
  | some lane =>
    exact ⟨_, releaseReachesMember_port harg hhold hlane, hkeeps _, fun hnone => absurd hnone (Option.some_ne_none _),
      congrArg (fun c : Core => c.ctx.trapped) (hcore _)⟩
  | none =>
    cases hheld : s.me.heldBy.contains h.id with
    | true =>
      refine ⟨_, releaseReachesMember_held harg hhold hlane hheld, hkeeps _, fun _ k => ?_, ?_⟩
      · rw [hcore, State.core_setCore_self, Core.releasedFrom, Core.heldBy_setHold, List.mem_filter, bne_iff_ne]
      · rw [hcore, State.core_setCore_self, Core.releasedFrom, Core.trapped_setHold]
    | false =>
      have hnot : h.id ∉ s.me.heldBy := fun hmem => Bool.eq_false_iff.mp hheld (List.contains_iff_mem.mpr hmem)
      refine ⟨_, releaseReachesMember_free harg hhold hlane hheld, hkeeps _, fun _ k => ?_, congrArg (fun c : Core => c.ctx.trapped) (hcore _)⟩
      rw [hcore]
      exact ⟨fun hk => ⟨hk, fun heq => hnot (heq ▸ hk)⟩, And.left⟩

end

/-! ### Landing buffers and vault overruns (R209, R314) -/

/-- What arrives waits at a core whose timeline stands still, once. -/
theorem landingBufferArrival_eq {s : State} {m : CoreId} {e : Arrival} (harg : s.arg = .arrival m e) :
    exec .landingBufferArrival s = .next (if (s.core m).stopped = true ∧ s.timeline m ≤ e.due then
      s.modCore m fun c => { c with landing := if c.landing.contains e then c.landing else c.landing ++ [e] } else s) := by
  simp only [exec_landingBufferArrival_eq, execLandingBufferArrival, harg, Bool.and_eq_true, decide_eq_true_eq]
  split <;> rfl

theorem landingBufferArrival_waits {s : State} {m : CoreId} {e : Arrival} (harg : s.arg = .arrival m e) :
    ∃ t, exec .landingBufferArrival s = .next t ∧ t.mem = s.mem ∧ (t.core m).ctx = (s.core m).ctx ∧ (∀ k, k ≠ m → t.core k = s.core k) ∧
      (t.core m).landing = if (s.core m).stopped = true ∧ s.timeline m ≤ e.due ∧ e ∉ (s.core m).landing then (s.core m).landing ++ [e]
        else (s.core m).landing := by
  refine ⟨_, landingBufferArrival_eq harg, ?_⟩
  split
  · next hwaits =>
    refine ⟨rfl, ?_, fun k hk => State.core_modCore_other _ _ _ _ hk, ?_⟩
    · rw [State.core_modCore_self]
    · rw [State.core_modCore_self]
      by_cases hin : e ∈ (s.core m).landing
      · simp only [List.contains_iff_mem.mpr hin, hin, not_true_eq_false, and_false, if_true, if_false]
      · simp only [Bool.eq_false_iff.mpr fun h => hin (List.contains_iff_mem.mp h), hin, hwaits, not_false_eq_true, and_self, Bool.false_eq_true,
          if_true, if_false]
  · next hruns => exact ⟨rfl, rfl, fun _ _ => rfl, (if_neg fun h => hruns ⟨h.1, h.2.1⟩).symm⟩

/-- The users of an overrun vault are held, and their release is to come. -/
theorem vaultOverrun_eq {s : State} {d n : Nat} (harg : s.arg = .ids d n) (husers : s.wholeGroups (s.usersOf s.cur) ≠ []) :
    exec .vaultOverrun s = .next ((s.startHold 4 none s.cur (s.wholeGroups (s.usersOf s.cur)) []).scheduleDom s.cur d .releaseStart
      (.ids s.seq 0)) := by
  simp only [exec_vaultOverrun_eq, execVaultOverrun, harg, List.isEmpty_eq_false_iff.mpr husers, Bool.false_eq_true, if_false]

theorem vaultOverrun_holds {s : State} {d n : Nat} (harg : s.arg = .ids d n) (husers : s.wholeGroups (s.usersOf s.cur) ≠ []) :
    ∃ t, exec .vaultOverrun s = .next t ∧ t.cores = s.cores ∧ t.mem = s.mem ∧
      (∃ h ∈ t.holds, h.reason = 4 ∧ h.origin = s.cur ∧ ∀ c ∈ s.wholeGroups (s.usersOf s.cur), ∃ dist, (c, dist) ∈ h.members) ∧
      ∃ p ∈ t.agenda, p.ev = .releaseStart ∧ p.due = s.clock + d := by
  obtain ⟨members, hmem, hopen, -⟩ := s.startHold_begins 4 none s.cur (s.wholeGroups (s.usersOf s.cur)) []
  have hkeeps := fun {γ : Type} (g : State → γ) hg => s.startHold_keeps g hg 4 none s.cur (s.wholeGroups (s.usersOf s.cur)) []
  obtain ⟨_, hcores⟩ := hkeeps State.cores fun _ _ _ _ _ => rfl
  obtain ⟨_, hclock⟩ := hkeeps State.clock fun _ _ _ _ _ => rfl
  refine ⟨_, vaultOverrun_eq harg husers, hcores, State.mem_startHold .., ⟨s.newHold 4 none s.cur members, ?_, rfl, rfl, hmem⟩, _,
    State.mem_agenda_scheduleDom _ s.cur d .releaseStart (.ids s.seq 0), rfl, congrArg (· + d) hclock⟩
  rw [State.holds_scheduleDom, hopen]
  exact List.mem_append_right _ (List.mem_singleton_self _)

/-! ### The statement -/

/-- Settles O41: the waves of a hold and of its release at each kind of member, what waits in a landing buffer, and a vault's overrun. -/
theorem holdWavesSpread : Obligations.HoldWavesSpread := by
  unfold Obligations.HoldWavesSpread
  refine ⟨fun s h n harg hhold => ⟨fun k hlane htask hspared => ?member, fun hlane htask => holdReachesMember_idle harg hhold hlane htask,
    fun lane hlane => ?port, fun hopen => releaseStart_sends harg hhold hopen, releaseReachesMember_resumes harg hhold⟩,
    fun s m e harg => landingBufferArrival_waits harg, fun s d n harg husers => vaultOverrun_holds harg husers⟩
  case member => exact ⟨s.me.heldIn h s.cur, holdReachesMember_core harg hhold hlane htask hspared, rfl, Core.stopped_heldIn ..,
    by rw [Core.heldIn, Core.holdinfo_setHold, holdInfo_reason], Core.c_setHold .., Core.x_setHold .., Core.task_setHold ..⟩
  case port => exact ⟨_, holdReachesMember_port harg hhold hlane, rfl, rfl, fun p hp hdie hport =>
    List.mem_map.mpr ⟨p, hp, if_pos (by rw [hdie, hport, portMember_of_memberLane hlane])⟩⟩

end Sys2Proof.Machine
end

section

/-! PROOFS. The matrix unit's arithmetic: blocks added to real and complex tiles, the values of their operands, and the score step (R246 to
R249, R259, R260). -/

namespace Sys2Proof.Machine

open Sys2Proof

/-! ### Folds of updates of cells -/

/-- Where each step changes its own cell alone, from the cell's value, a fold over different cells changes each of them once. -/
theorem foldl_cells {σ β ν : Type} {step : σ → β → σ} {view : σ → β → ν} {g : β → ν → ν} {ok : σ → Prop} {P : β → Prop}
    (hok : ∀ s b, P b → ok s → ok (step s b)) (hself : ∀ s b, P b → ok s → view (step s b) b = g b (view s b))
    (hother : ∀ s b c, P b → P c → ok s → b ≠ c → view (step s b) c = view s c) {l : List β} (hl : ∀ b ∈ l, P b) (hnodup : l.Nodup)
    {s : σ} (hs : ok s) : ok (l.foldl step s) ∧ (∀ b ∈ l, view (l.foldl step s) b = g b (view s b)) ∧
      ∀ c, P c → c ∉ l → view (l.foldl step s) c = view s c := by
  induction l generalizing s with
  | nil => exact ⟨hs, fun _ hb => absurd hb List.not_mem_nil, fun _ _ _ => rfl⟩
  | cons a l ih =>
    obtain ⟨hnot, hrest⟩ := List.nodup_cons.mp hnodup
    have ha := hl a List.mem_cons_self
    obtain ⟨hend, hin, hout⟩ := ih (fun b hb => hl b (List.mem_cons_of_mem a hb)) hrest (hok s a ha hs)
    refine ⟨hend, fun b hb => ?_, fun c hc hcl => ?_⟩
    · obtain rfl | hb := List.mem_cons.mp hb
      · exact (hout b ha hnot).trans (hself s b ha hs)
      · rw [List.foldl_cons, hin b hb, hother s a b ha (hl b (List.mem_cons_of_mem a hb)) hs fun heq => hnot (heq ▸ hb)]
    · rw [List.foldl_cons, hout c hc fun h => hcl (List.mem_cons_of_mem a h),
        hother s a c ha hc hs fun heq => hcl (heq ▸ List.mem_cons_self)]

/-- Two nested folds as one over the pairs. -/
theorem foldl_product {σ : Type} (f : σ → Nat × Nat → σ) (l k : List Nat) (s : σ) :
    l.foldl (fun s m => k.foldl (fun s n => f s (m, n)) s) s = (l ×ˢ k).foldl f s := by
  simp only [SProd.sprod, List.product, List.foldl_flatMap, List.foldl_map]

theorem mem_grid {a b : Nat} {e : Nat × Nat} : e ∈ List.range a ×ˢ List.range b ↔ e.1 < a ∧ e.2 < b := by
  rw [List.mem_product, List.mem_range, List.mem_range]

theorem nodup_grid (a b : Nat) : (List.range a ×ˢ List.range b).Nodup := List.nodup_range.product List.nodup_range

theorem zipIdx_map_range {α : Type} (f : Nat → α) (n : Nat) : ((List.range n).map f).zipIdx = (List.range n).map fun i => (f i, i) :=
  List.ext_getElem (by simp) fun i h _ => by simp

/-- A list with a known length as the values of its places. -/
theorem zipWith_eq_map_range {α β : Type} (f : α → α → β) {l k : List α} {n : Nat} (hl : l.length = n) (hk : k.length = n) (d : α) :
    List.zipWith f l k = (List.range n).map fun i => f (l.getD i d) (k.getD i d) := by
  refine List.ext_getElem (by simp [hl, hk]) fun i h _ => ?_
  rw [List.length_zipWith, lt_min_iff] at h
  simp [h]

/-! ### The operands' values (R246 to R248) -/

theorem length_rowA (f : Form) (d : BlockData) (ps : List (Piece × List Byte)) (m : Nat) : (rowA f d ps m).length = 32 := by
  rw [rowA]
  split <;> simp [sparseRow]

theorem length_colB (f : Form) (ps : List (Piece × List Byte)) (n : Nat) : (colB f ps n).length = 32 := by
  rw [colB]
  split <;> simp

section
variable {f : Form} {d : BlockData} {ps : List (Piece × List Byte)} {m i : Nat} (hi : i < 32)
include hi

/-- Element i of a dense row of A. -/
theorem rowA_dense (hsp : f.sp = false) : (rowA f d ps m)[i]? =
    some (opValue f.fa (bytesElem f.fa.width (if f.asrc = 0 then rowBytes ps .a m else d.a.getD m []) i)) := by
  simp [rowA, hsp, hi]

/-- Element i of a sparse row: a value of its group of four, or 0, as the group's metadata say. -/
theorem rowA_sparse (hsp : f.sp = true) :
    let vals := if f.asrc = 0 then rowBytes ps .a m else d.a.getD m []
    let nib := leNat (rowBytes ps .md m) / 16 ^ (i / 4)
    (rowA f d ps m)[i]? = some (if i % 4 = nib / 4 % 4 then opValue f.fa (bytesElem f.fa.width vals (2 * (i / 4) + 1))
      else if i % 4 = nib % 4 then opValue f.fa (bytesElem f.fa.width vals (2 * (i / 4))) else .fin false 0 0) := by
  have hnib : bytesElem 4 (rowBytes ps .md m) (i / 4) = leNat (rowBytes ps .md m) / 16 ^ (i / 4) % 16 := by
    rw [bytesElem, fld, pow_mul]
    rfl
  simp only [rowA, hsp, if_true, sparseRow, List.getElem?_map, List.getElem?_range hi, Option.map_some, hnib]
  rw [Nat.mod_mod_of_dvd _ (by decide : 4 ∣ 16), show ∀ n, n % 16 / 4 = n / 4 % 4 by omega]

/-- Element i of a plain column of B. -/
theorem colB_plain (hfb : f.fb ≠ .cb2) : (colB f ps m)[i]? = some (opValue f.fb (bytesElem f.fb.width (rowBytes ps .b m) i)) := by
  simp [colB, hfb, hi]

/-- Element i of a column of codebook words: its magnitude comes from the table, its sign from the word (R74). -/
theorem colB_codebook (hfb : f.fb = .cb2) :
    let word := leNat (rowBytes ps .b m) / 2 ^ (16 * (i / 8)) % 2 ^ 16
    let size := 2 * (leNat (((rowBytes ps .tb 0).drop (4 * (word / 256))).take 4) / 16 ^ (i % 8) % 16) + word % 2
    (colB f ps m)[i]? = some (.fin (size != 0 && cbMinus word (i % 8)) size (-2)) := by
  simp only [colB, hfb, if_true, List.getElem?_map, List.getElem?_range hi, Option.map_some, cbWeight_eq]
  rfl

end

/-! ### A block added to a real tile (R259) -/

theorem Array.getD_set!_self {α : Type} {a : Array α} {j : Nat} (h : j < a.size) (x d : α) : (a.set! j x).getD j d = x := by
  simp [Array.getD_eq_getD_getElem?, h]

theorem Array.getD_set!_other {α : Type} (a : Array α) {j k : Nat} (h : j ≠ k) (x d : α) : (a.set! j x).getD k d = a.getD k d := by
  simp [Array.getD_eq_getD_getElem?, h]

/-- The scaled products of row m and column n of a block, once rounded. -/
def blockSum (f : Form) (d : BlockData) (ps : List (Piece × List Byte)) (m n : Nat) : F32 :=
  sumBlock ((List.range 32).map fun i => ((rowA f d ps m).getD i .nan).mul ((colB f ps n).getD i .nan))
    (scaleOf f.sa (rowBytes ps .sa m)) (scaleOf f.sb (rowBytes ps .sb n))

/-- The block's sum of one element added to it. -/
def addElement (f : Form) (d : BlockData) (ps : List (Piece × List Byte)) (acc : Array F32) (e : Nat × Nat) : Array F32 :=
  acc.set! (64 * e.1 + e.2) (fadd (acc.getD (64 * e.1 + e.2) 0) (blockSum f d ps e.1 e.2))

theorem addBlock_eq (f : Form) (d : BlockData) (ps : List (Piece × List Byte)) (acc : Array F32) :
    addBlock f d ps acc = (List.range 64 ×ˢ List.range 64).foldl (addElement f d ps) acc := by
  rw [← foldl_product]
  simp only [addBlock, zipIdx_map_range, List.foldl_map, addElement, blockSum,
    zipWith_eq_map_range FVal.mul (length_rowA ..) (length_colB ..) .nan]

/-- Each element takes the once-rounded sum with its block's scaled products. -/
theorem addBlock_spec (f : Form) (d : BlockData) (ps : List (Piece × List Byte)) {acc : Array F32} (hsize : acc.size = 4096) :
    (addBlock f d ps acc).size = 4096 ∧ ∀ m n, m < 64 → n < 64 →
      (addBlock f d ps acc).getD (64 * m + n) 0 = fadd (acc.getD (64 * m + n) 0) (blockSum f d ps m n) := by
  obtain ⟨hend, hcells, -⟩ := foldl_cells (step := addElement f d ps) (ok := fun a : Array F32 => a.size = 4096)
    (view := fun a e => a.getD (64 * e.1 + e.2) 0) (g := fun e v => fadd v (blockSum f d ps e.1 e.2))
    (P := fun e => e.1 < 64 ∧ e.2 < 64) (fun a e _ ha => by simpa [addElement] using ha)
    (fun a e he ha => Array.getD_set!_self (by omega) _ _)
    (fun a e k he hk _ hne => Array.getD_set!_other _ (fun heq => hne (Prod.ext (by omega) (by omega))) _ _)
    (fun e he => mem_grid.mp he) (nodup_grid 64 64) hsize
  rw [addBlock_eq]
  exact ⟨hend, fun m n hm hn => hcells (m, n) (mem_grid.mpr ⟨hm, hn⟩)⟩

/-! ### A block added to a complex tile (R82, R249) -/

/-- The four words of a complex element: its real sum and its imaginary one, each with its compensation. -/
def cell (a : Array F32) (i : Nat) : (F32 × F32) × (F32 × F32) :=
  ((a.getD i 0, a.getD (1024 + i) 0), (a.getD (2048 + i) 0, a.getD (3072 + i) 0))

/-- The four words written. -/
def putCell (a : Array F32) (i : Nat) (v : (F32 × F32) × (F32 × F32)) : Array F32 :=
  (((a.set! i v.1.1).set! (1024 + i) v.1.2).set! (2048 + i) v.2.1).set! (3072 + i) v.2.2

theorem size_putCell (a : Array F32) (i : Nat) (v : (F32 × F32) × (F32 × F32)) : (putCell a i v).size = a.size := by
  simp [putCell]

theorem cell_putCell_self {a : Array F32} (ha : a.size = 4096) {i : Nat} (hi : i < 1024) (v : (F32 × F32) × (F32 × F32)) :
    cell (putCell a i v) i = v := by
  refine Prod.ext (Prod.ext ?_ ?_) (Prod.ext ?_ ?_) <;> simp only [cell, putCell]
  · rw [Array.getD_set!_other _ (by omega), Array.getD_set!_other _ (by omega), Array.getD_set!_other _ (by omega),
      Array.getD_set!_self (by omega)]
  · rw [Array.getD_set!_other _ (by omega), Array.getD_set!_other _ (by omega), Array.getD_set!_self (by simp; omega)]
  · rw [Array.getD_set!_other _ (by omega), Array.getD_set!_self (by simp; omega)]
  · rw [Array.getD_set!_self (by simp; omega)]

theorem cell_putCell_other (a : Array F32) {i k : Nat} (hi : i < 1024) (hk : k < 1024) (h : i ≠ k) (v : (F32 × F32) × (F32 × F32)) :
    cell (putCell a i v) k = cell a k := by
  simp only [cell, putCell]
  iterate 16 rw [Array.getD_set!_other _ (by omega)]

/-- The product of places k of row m and column n of a block. -/
def complexProd (ps : List (Piece × List Byte)) (m n k : Nat) : FVal × FVal :=
  let part := fun (o : MOp) (r h : Nat) => (BitVec.ofNat 32 (leNat (rowBytes ps o r) / 2 ^ (64 * k + 32 * h)) : F32)
  cprod (part .a m 0) (part .a m 1) (part .b n 0) (part .b n 1)

/-- A complex element with one more product. -/
def addProd (v : (F32 × F32) × (F32 × F32)) (p : FVal × FVal) : (F32 × F32) × (F32 × F32) :=
  (cacc v.1.1 v.1.2 p.1, cacc v.2.1 v.2.2 p.2)

/-- The products of one element added to it, one after another. -/
def addProds (ps : List (Piece × List Byte)) (acc : Array F32) (e : Nat × Nat) : Array F32 :=
  (List.range 32).foldl (fun acc k => putCell acc (32 * e.1 + e.2) (addProd (cell acc (32 * e.1 + e.2)) (complexProd ps e.1 e.2 k))) acc

theorem complexPart (x k : Nat) : (BitVec.ofNat 32 (x / 2 ^ (64 * k) % 2 ^ 64) : F32) = BitVec.ofNat 32 (x / 2 ^ (64 * k + 32 * 0)) ∧
    (BitVec.ofNat 32 (x / 2 ^ (64 * k) % 2 ^ 64 / 2 ^ 32) : F32) = BitVec.ofNat 32 (x / 2 ^ (64 * k + 32 * 1)) := by
  refine ⟨BitVec.eq_of_toNat_eq ?_, BitVec.eq_of_toNat_eq ?_⟩
  · simp only [BitVec.toNat_ofNat]
    exact Nat.mod_mod_of_dvd _ (Nat.pow_dvd_pow 2 (by decide))
  · simp only [BitVec.toNat_ofNat, pow_add, ← Nat.div_div_eq_div_mul]
    omega

theorem addComplex_eq (ps : List (Piece × List Byte)) (acc : Array F32) :
    addComplex ps acc = (List.range 32 ×ˢ List.range 32).foldl (addProds ps) acc := by
  rw [← foldl_product]
  simp only [addComplex, bytesElem, fld, complexPart]
  rfl

/-- The products of one element change its four words alone. -/
theorem addProds_spec (ps : List (Piece × List Byte)) {acc : Array F32} {e : Nat × Nat} (hsize : acc.size = 4096) (he : e.1 < 32 ∧ e.2 < 32) :
    (addProds ps acc e).size = 4096 ∧
    cell (addProds ps acc e) (32 * e.1 + e.2) =
      ((List.range 32).map (complexProd ps e.1 e.2)).foldl addProd (cell acc (32 * e.1 + e.2)) ∧
    ∀ k, k < 1024 → k ≠ 32 * e.1 + e.2 → cell (addProds ps acc e) k = cell acc k := by
  rw [addProds, List.foldl_map]
  generalize List.range 32 = l
  induction l generalizing acc with
  | nil => exact ⟨hsize, rfl, fun _ _ _ => rfl⟩
  | cons i l ih =>
    have hput : (putCell acc (32 * e.1 + e.2) (addProd (cell acc (32 * e.1 + e.2)) (complexProd ps e.1 e.2 i))).size = 4096 :=
      (size_putCell ..).trans hsize
    obtain ⟨hend, hself, hother⟩ := ih hput
    refine ⟨hend, ?_, fun k hk hne => ?_⟩
    · rw [List.foldl_cons, hself, cell_putCell_self hsize (by omega), List.foldl_cons]
    · rw [List.foldl_cons, hother k hk hne, cell_putCell_other _ (by omega) hk (Ne.symm hne)]

/-- Each complex element takes its compensated sums. -/
theorem addComplex_spec (ps : List (Piece × List Byte)) {acc : Array F32} (hsize : acc.size = 4096) :
    (addComplex ps acc).size = 4096 ∧ ∀ m n, m < 32 → n < 32 → cell (addComplex ps acc) (32 * m + n) =
      ((List.range 32).map (complexProd ps m n)).foldl addProd (cell acc (32 * m + n)) := by
  obtain ⟨hend, hcells, -⟩ := foldl_cells (step := addProds ps) (ok := fun a : Array F32 => a.size = 4096)
    (view := fun a e => cell a (32 * e.1 + e.2)) (g := fun e v => ((List.range 32).map (complexProd ps e.1 e.2)).foldl addProd v)
    (P := fun e => e.1 < 32 ∧ e.2 < 32) (fun a e he ha => (addProds_spec ps ha he).1) (fun a e he ha => (addProds_spec ps ha he).2.1)
    (fun a e k he hk ha hne => (addProds_spec ps ha he).2.2 _ (by omega) fun heq => hne (Prod.ext (by omega) (by omega)))
    (fun e he => mem_grid.mp he) (nodup_grid 32 32) hsize
  rw [addComplex_eq]
  exact ⟨hend, fun m n hm hn => hcells (m, n) (mem_grid.mpr ⟨hm, hn⟩)⟩

/-- The two sums of a complex element are taken apart from one another. -/
theorem foldl_addProd (l : List (FVal × FVal)) (v : (F32 × F32) × (F32 × F32)) :
    l.foldl addProd v = (l.foldl (fun a p => cacc a.1 a.2 p.1) v.1, l.foldl (fun a p => cacc a.1 a.2 p.2) v.2) := by
  induction l generalizing v with
  | nil => rfl
  | cons p l ih => exact ih (addProd v p)

/-! ### The score step (R260) -/

theorem getD_flatten_uniform {α : Type} {L : List (List α)} {w : Nat} (hw : ∀ l ∈ L, l.length = w) (d : α) {r n : Nat} (hn : n < w) :
    L.flatten.getD (w * r + n) d = (L.getD r []).getD n d := by
  induction L generalizing r with
  | nil => simp
  | cons l L ih =>
    have hl : l.length = w := hw l List.mem_cons_self
    cases r with
    | zero => simp [List.getElem?_append_left (hl ▸ hn)]
    | succ r =>
      have hlen : l.length ≤ w * (r + 1) + n := by rw [hl, Nat.mul_succ]; omega
      rw [List.flatten_cons, List.getD_append_right _ _ _ _ hlen, List.getD_cons_succ, ← ih fun k hk => hw k (List.mem_cons_of_mem l hk)]
      congr 1
      rw [hl, Nat.mul_succ]
      omega

/-- The new maximum of a row: that of its valid columns and of the old one. -/
def Form.rowMax (f : Form) (x : Nat → F32) (m : F32) : F32 :=
  fmax m (reduce64 fmax fNegInf ((List.range 64).map fun n => if n < f.vcols then x n else fNegInf))

/-- The factor by which the old sums shrink. -/
def rowFactor (m mn : F32) : F32 := if mn = fNegInf ∨ feq m mn = true then fOne else exp2 (fsub m mn)

/-- The new element of column n. -/
def Form.rowElem (f : Form) (x : Nat → F32) (mn : F32) (n : Nat) : F32 :=
  if mn = fNegInf ∨ f.vcols ≤ n then 0 else exp2 (fsub (x n) mn)

theorem scoreStep_eq (f : Form) (x : Nat → F32) (m s : F32) : scoreStep f ((List.range 64).map x) m s =
    (f.rowMax x m, fadd (fmul s (rowFactor m (f.rowMax x m))) (reduce64 fadd fNegZero ((List.range 64).map (f.rowElem x (f.rowMax x m)))),
      rowFactor m (f.rowMax x m), (List.range 64).map (f.rowElem x (f.rowMax x m))) := by
  have hmasked : List.zipWith (fun v k => if k then v else fNegInf) ((List.range 64).map x) ((List.range 64).map fun c => decide (c < f.vcols)) =
      (List.range 64).map fun n => if n < f.vcols then x n else fNegInf := by
    simp only [List.zipWith_map, List.zipWith_self, decide_eq_true_eq]
  have hmax : fmax m (reduce64 fmax fNegInf ((List.range 64).map fun n => if n < f.vcols then x n else fNegInf)) = f.rowMax x m := rfl
  simp only [scoreStep, hmasked, scoreRow, hmax]
  by_cases hmn : f.rowMax x m = fNegInf
  · have hp : f.rowElem x fNegInf = fun _ => 0 := funext fun n => if_pos (.inl rfl)
    simp only [hmn, if_true, rowFactor, true_or, hp, List.map_map, Function.comp_def]
  · have hp : ∀ n, (if n < f.vcols then exp2 (fsub (if n < f.vcols then x n else fNegInf) (f.rowMax x m)) else 0) =
        f.rowElem x (f.rowMax x m) n := fun n => by
      simp only [Form.rowElem, hmn, false_or, ← Nat.not_lt]
      split <;> rfl
    simp only [hmn, if_false, rowFactor, false_or, List.zipWith_map, List.zipWith_self, decide_eq_true_eq, hp]

section
variable (f : Form) (t u : Tile)

/-- The score step of row r of a tile t, with the maxima and sums of u. -/
def Form.rowStep (r : Nat) : F32 × F32 × F32 × List F32 :=
  scoreStep f ((List.range 64).map fun n => t.array.getD (64 * r + n) 0) u.m[r]! u.s[r]!

/-- The tile t after the score step. -/
def Form.scored : Tile := t.put ((List.range 64).flatMap fun r => (f.rowStep t u r).2.2.2).toArray

/-- The tile u after the score step. -/
def Form.folded : Tile :=
  { u.put ((List.range 64).flatMap fun r => (List.range 64).map fun n => fmul (u.array.getD (64 * r + n) 0) (f.rowStep t u r).2.2.1).toArray with
    m := Vector.ofFn fun r => (f.rowStep t u r.val).1, s := Vector.ofFn fun r => (f.rowStep t u r.val).2.1 }

theorem Tile.array_congr {t u : Tile} (h : t.words = u.words) : t.array = u.array := by rw [Tile.array, Tile.array, h]

/-- A tile whose rows are given. -/
theorem Tile.getD_put_rows (t : Tile) (row : Nat → Nat → F32) {r n : Nat} (hr : r < 64) (hn : n < 64) :
    (t.put ((List.range 64).flatMap fun r => (List.range 64).map (row r)).toArray).array.getD (64 * r + n) 0 = row r n := by
  have hsize : ((List.range 64).flatMap fun r => (List.range 64).map (row r)).toArray.size = 4096 := by
    simp [List.length_flatMap]
  rw [Tile.array_put t hsize, Array.getD_eq_getD_getElem?, List.getElem?_toArray, ← List.getD_eq_getElem?_getD, List.flatMap,
    getD_flatten_uniform (fun l hl => ?_) _ hn]
  · simp [hr, hn]
  · obtain ⟨i, -, rfl⟩ := List.mem_map.mp hl
    simp

theorem Form.getD_scored {r n : Nat} (hr : r < 64) (hn : n < 64) :
    let x := fun n => t.array.getD (64 * r + n) 0
    (f.scored t u).array.getD (64 * r + n) 0 = f.rowElem x (f.rowMax x u.m[r]!) n := by
  simp only [Form.scored, Form.rowStep, scoreStep_eq]
  exact Tile.getD_put_rows t (fun r => f.rowElem (fun n => t.array.getD (64 * r + n) 0) (f.rowMax (fun n => t.array.getD (64 * r + n) 0) u.m[r]!)) hr hn

theorem Form.array_folded : (f.folded t u).array = (u.put ((List.range 64).flatMap fun r =>
    (List.range 64).map fun n => fmul (u.array.getD (64 * r + n) 0) (f.rowStep t u r).2.2.1).toArray).array :=
  Tile.array_congr rfl

theorem Form.getD_folded {r n : Nat} (hr : r < 64) (hn : n < 64) :
    let x := fun n => t.array.getD (64 * r + n) 0
    (f.folded t u).array.getD (64 * r + n) 0 = fmul (u.array.getD (64 * r + n) 0) (rowFactor u.m[r]! (f.rowMax x u.m[r]!)) := by
  rw [Form.array_folded, Tile.getD_put_rows u (fun r n => fmul (u.array.getD (64 * r + n) 0) (f.rowStep t u r).2.2.1) hr hn,
    Form.rowStep, scoreStep_eq]

end

end Sys2Proof.Machine
end

section

/-! PROOFS. The steps of the matrix unit: commands start, their blocks are read and added, the score step, MSIDE and MRSC (R257 to R265). -/

namespace Sys2Proof.Machine

open Sys2Proof

theorem exec_matrixCommandStart_eq (s : State) : exec .matrixCommandStart s = execMatrixCommandStart s := rfl
theorem exec_matrixBlockRead_eq (s : State) : exec .matrixBlockRead s = execMatrixBlockRead s := rfl
theorem exec_matrixBlockAdd_eq (s : State) : exec .matrixBlockAdd s = execMatrixBlockAdd s := rfl
theorem exec_matrixScoreStep_eq (s : State) : exec .matrixScoreStep s = execMatrixScoreStep s := rfl
theorem exec_msideLoadWrite_eq (s : State) : exec .msideLoadWrite s = execMsideLoadWrite s := rfl
theorem exec_mrscWrite_eq (s : State) : exec .mrscWrite s = execMrscWrite s := rfl

/-! ### What the unit's operations on the state leave alone -/

theorem getD_map_range {α : Type} (g : Nat → α) {n : Nat} (i : Fin n) (d : α) : ((List.range n).map g).getD i.val d = g i.val := by
  simp

section
variable (s : State) (ord d : Nat) (pas : List Nat) (ev : Instr) (arg : Arg)

theorem State.core_matrixLater (id : CoreId) : (s.matrixLater ord d pas ev arg).core id = s.core id := by
  rw [State.matrixLater, State.stepLater]
  split <;> rfl

theorem State.mem_matrixLater : (s.matrixLater ord d pas ev arg).mem = s.mem := s.mem_stepLater ..

end

theorem Core.acc_modMat (c : Core) (f : Mat → Mat) : (c.modMat f).ctx.acc = c.ctx.acc := rfl
theorem Core.mat_modMat (c : Core) (f : Mat → Mat) : (c.modMat f).ctx.mat = f c.ctx.mat := rfl

/-- A change of a command that keeps its number changes what the number names. -/
theorem find?_map_uid {l : List MCmd} {uid : Nat} {k : MCmd} (h : l.find? (fun q => q.uid == uid) = some k) (g : MCmd → MCmd)
    (hg : ∀ q, (g q).uid = q.uid) : (l.map fun q => if q.uid = uid then g q else q).find? (fun q => q.uid == uid) = some (g k) := by
  induction l with
  | nil => simp at h
  | cons q l ih =>
    rw [List.find?_cons] at h
    rw [List.map_cons, List.find?_cons]
    by_cases hq : q.uid = uid
    · simp only [hq, beq_self_eq_true, Option.some.injEq] at h
      obtain rfl := h
      simp [hq, hg]
    · have hne : (q.uid == uid) = false := beq_false_of_ne hq
      simp only [hne] at h
      simp only [if_neg hq, hne]
      exact ih h

theorem Mat.uid_of_cmd {m : Mat} {uid : Nat} {k : MCmd} (h : m.cmd uid = some k) : k.uid = uid := by
  simpa using List.find?_some h

/-! ### A command starts (R257, R258, R262) -/

/-- A stop of the matrix unit names the C item that is due, and changes no tile. -/
theorem State.matrixStop_eq (s : State) (cause : Cause) (info row : Word) : ∃ u : State, u.mem = s.mem ∧
    (u.core s.cur).ctx.acc = s.me.ctx.acc ∧ s.matrixStop cause info row = u.takeTrap s.cur cause info (s.afterItem s.cur s.me) := by
  have hdue := State.afterItem_modCtx (s := s) (id := s.cur) (f := fun x => { x with mat := { x.mat with mrowp := row } })
    (fun _ => rfl) fun _ => rfl
  refine ⟨(s.modCore s.cur fun c => c.modMat fun m => { m with mrowp := row }).atDue s.cur, rfl, ?_,
    (State.stopAtDue_eq ..).trans (congrArg (State.takeTrap _ _ _ _) hdue)⟩
  rw [State.core_atDue_keeps (fun c => c.ctx.acc) (fun _ _ => rfl), State.core_modCore_self]
  rfl

section
variable {s : State} {wk : MWalk} (hruns : s.me.tauStands = false) (hdue : s.me.ctx.mat.startDue s.me.ctx.tau = true)
  (hwalk : s.me.ctx.mat.nextWalk = some wk)
include hruns hdue hwalk

theorem matrixCommandStart_underflow (hempty : s.me.ctx.mat.fq = []) : exec .matrixCommandStart s =
    .next (s.matrixStop .formatUnderflow (BitVec.ofNat 64 (s.me.ctx.mat.mseq.toNat + wk.next % 2 ^ 32 * 2 ^ 16))
      (mrowpWord wk.next 0 1 s.me.ctx.mat.mseq)) := by
  rw [State.me] at *
  simp only [exec_matrixCommandStart_eq, execMatrixCommandStart, hruns, hdue, hwalk, hempty, Bool.not_true, Bool.or_self, Bool.false_eq_true,
    if_false]

/-- The addresses of the walk's next command. -/
def MWalk.addrs (wk : MWalk) : Vector Word 4 := Vector.ofFn fun o => walkAddr wk.tab o.val wk.next

/-- The command that the walk starts next. -/
def State.nextCmd (s : State) (wk : MWalk) (w : Word) : MCmd :=
  ⟨s.seq, wk.id, wk.next, wk.next + 1 == walkCount wk.tab, s.me.ctx.mat.mseq, w, wk.addrs, wk.tab,
    s.matrixLat s.cur wk.addrs wk.tab (formOf w), [], []⟩

variable {w : Word} {r : Nat} {rest : List (Word × Nat)} (hfq : s.me.ctx.mat.fq = (w, r) :: rest)
include hfq

theorem matrixCommandStart_waits {at_ : Nat} (hat : s.me.ctx.mat.startAt (formOf w) (s.matrixLat s.cur wk.addrs wk.tab (formOf w)) s.me.ctx.tau = at_)
    (hlate : s.me.ctx.tau < at_) : exec .matrixCommandStart s =
      .next (s.setCore s.cur (s.me.modMat fun m => { m with phase := .start at_ })) := by
  subst hat
  rw [State.me] at *
  simp only [MWalk.addrs] at hlate
  simp only [exec_matrixCommandStart_eq, execMatrixCommandStart, hruns, hdue, hwalk, hfq, Bool.not_true, Bool.or_self, Bool.false_eq_true,
    if_false, if_pos hlate]
  rfl

theorem matrixCommandStart_starts
    (hat : s.me.ctx.mat.startAt (formOf w) (s.matrixLat s.cur wk.addrs wk.tab (formOf w)) s.me.ctx.tau ≤ s.me.ctx.tau) :
    ∃ t, exec .matrixCommandStart s = .next t ∧ t.mem = s.mem ∧
      (t.core s.cur).ctx.mat.fq = (if r ≤ 1 then rest else (w, r - 1) :: rest) ∧
      (t.core s.cur).ctx.mat.mseq = s.me.ctx.mat.mseq + 1 ∧ (t.core s.cur).ctx.mat.cmds = s.me.ctx.mat.cmds ++ [s.nextCmd wk w] ∧
      (t.core s.cur).ctx.acc = s.me.ctx.acc := by
  rw [State.me] at *
  simp only [MWalk.addrs] at hat
  simp only [exec_matrixCommandStart_eq, execMatrixCommandStart, hruns, hdue, hwalk, hfq, Bool.not_true, Bool.or_self, Bool.false_eq_true,
    if_false, if_neg (Nat.not_lt.mpr hat)]
  refine ⟨_, rfl, rfl, ?_⟩
  rw [State.core_modCore_self]
  exact ⟨rfl, rfl, rfl, rfl⟩

end

/-! ### A block issues its reads (R257, R261, R263) -/

/-- Taking an entry of a load pipe changes neither tiles nor commands. -/
theorem Core.pipeTake_keeps {γ : Type} (g : Core → γ) (hpipes : ∀ c a b, g (Core.modMat c fun m => { m with pipeA := a, pipeB := b }) = g c)
    (htouch : ∀ c e n, g (Core.touch c e n) = g c) (c : Core) (b : Bool) (va now : Nat) : g (c.pipeTake b va now) = g c := by
  have hput : ∀ (c : Core) (p : List TlbEntry), g (c.modMat fun m => if b then { m with pipeB := p } else { m with pipeA := p }) = g c := fun c p => by
    cases b
    · exact hpipes c p c.ctx.mat.pipeB
    · exact hpipes c c.ctx.mat.pipeA p
  rw [Core.pipeTake]
  split
  · exact hput c _
  · split
    · exact (hput _ _).trans (htouch c _ _)
    · rfl

section
variable {γ : Type} {g : Core → γ} (hpipe : ∀ c b va now, g (Core.pipeTake c b va now) = g c) {s : State} {id : CoreId}
include hpipe

theorem pipeCheck_keeps {c c1 : Core} {b : Bool} {cl : Cls} {va : Word} {n row pa : Nat} {prog : Bool}
    (h : pipeCheck s id c b cl va n row prog = .ok (pa, c1)) : g c1 = g c := by
  simp only [pipeCheck, bind, Except.bind, pure, Except.pure] at h
  split at h
  · cases h
  · obtain ⟨-, rfl⟩ := Prod.mk.inj (Except.ok.inj h)
    split
    · rfl
    · exact hpipe ..

theorem checkPiece_keeps {c c1 : Core} {cl : Cls} {p : Piece} {prog : Bool} {segs : List Seg}
    (h : checkPiece s id c cl p prog = .ok (segs, c1)) : g c1 = g c := by
  unfold checkPiece at h
  simp only [bind, Except.bind, pure, Except.pure] at h
  split at h
  · cases h
  split at h
  · cases h
  split at h
  · split at h
    · cases h
    · next v hv =>
      obtain ⟨-, rfl⟩ := Prod.mk.inj (Except.ok.inj h)
      exact pipeCheck_keeps hpipe hv
  · split at h
    · cases h
    · next v hv =>
      split at h
      · cases h
      · next w hw =>
        obtain ⟨-, rfl⟩ := Prod.mk.inj (Except.ok.inj h)
        exact (pipeCheck_keeps hpipe hw).trans (pipeCheck_keeps hpipe hv)

theorem checkPieces_keeps {t : WalkTab} {prog : Bool} {ps : List Piece} {c c1 : Core} {segs : List (List Seg)}
    (h : checkPieces s id t prog ps c = .ok (segs, c1)) : g c1 = g c := by
  induction ps generalizing c segs with
  | nil =>
    obtain ⟨-, rfl⟩ := Prod.mk.inj (Except.ok.inj h)
    rfl
  | cons p ps ih =>
    simp only [checkPieces, bind, Except.bind, pure, Except.pure] at h
    split at h
    · cases h
    · next v hv =>
      split at h
      · cases h
      · next w hw =>
        obtain ⟨-, rfl⟩ := Prod.mk.inj (Except.ok.inj h)
        exact (ih hw).trans (checkPiece_keeps hpipe hv)

end

/-! ### The reads of a block perform (R257, R258) -/

theorem State.cur_noteRead (s : State) (id : CoreId) (pas : List Nat) : (s.noteRead id pas).cur = s.cur := by
  obtain ⟨cs, sf, h⟩ := s.noteRead_eq id pas
  rw [h]

/-- The places of a block's operands, and their bytes. -/
def MCmd.places (k : MCmd) (o : BlockOps) : List (Piece × List Nat) :=
  ((blockPieces k.cur k.tab (formOf k.w) o.j).zip o.segs).map fun e => (e.1, segsPas e.2)

/-- What the reads of a block bring into the unit. -/
def State.blockDataOf (s : State) (k : MCmd) (o : BlockOps) : BlockData :=
  ⟨o.j, if s.away.isSome then [] else s.asrcRows k o.j, (k.places o).map fun e => s.engineBytes s.cur e.2⟩

/-- The state with the data of a block, and the later steps that follow from it. -/
def State.blockData (s : State) (k : MCmd) (o : BlockOps) : State :=
  let s1 := (s.noteRead s.cur ((k.places o).flatMap (·.2))).tick
  let s2 := s1.modCmd k.uid fun q => { q with ops := q.ops.filter (fun b => b.j != o.j), data := q.data ++ [s.blockDataOf k o] }
  let s2 := if s.away.isSome && (formOf k.w).asrc != 0 then s2.matrixLater s.ord 0 [] .matrixBlockRead (.beat k.uid o.j false) else s2
  s2.matrixLater k.walk ((formOf k.w).cpb + 6) [] .matrixBlockAdd (.beat k.uid o.j false)

theorem State.blockRead_eq (s : State) (k : MCmd) {o : BlockOps} (hpoison : ∀ g ∈ o.segs, s.poisoned (segsPas g) = false) :
    s.blockRead k o = s.blockData k o := by
  have hgood : (k.places o).find? (fun e => s.poisoned e.2) = none := List.find?_eq_none.mpr fun e he => by
    obtain ⟨g, hg, rfl⟩ := List.mem_map.mp he
    rw [hpoison g.2 (List.of_mem_zip hg).2]
    exact Bool.false_ne_true
  rw [MCmd.places] at hgood
  simp only [State.blockRead, hgood]
  rfl

theorem State.blockData_keeps (s : State) (k : MCmd) (o : BlockOps) : (s.blockData k o).mem = s.mem ∧
    ((s.blockData k o).core s.cur).ctx.acc = (s.core s.cur).ctx.acc ∧ ∀ uid, (s.core s.cur).ctx.mat.cmd uid = some k →
      ((s.blockData k o).core s.cur).ctx.mat.cmd uid =
        some { k with ops := k.ops.filter (fun b => b.j != o.j), data := k.data ++ [s.blockDataOf k o] } := by
  obtain ⟨cp, hctx⟩ := s.ctx_noteRead s.cur ((k.places o).flatMap (·.2))
  have hcore : (s.blockData k o).core s.cur = ((s.noteRead s.cur ((k.places o).flatMap (·.2))).core s.cur).modMat fun m => { m with
      cmds := m.cmds.map fun q => if q.uid = k.uid then
        { q with ops := q.ops.filter (fun b => b.j != o.j), data := q.data ++ [s.blockDataOf k o] } else q } := by
    rw [State.blockData, State.core_matrixLater]
    split <;> simp only [State.core_matrixLater, State.modCmd, State.cur_tick, State.cur_noteRead, State.core_modCore_self, State.core_tick]
  refine ⟨?_, ?_, fun uid hcmd => ?_⟩
  · rw [State.blockData, State.mem_matrixLater]
    split <;> simp only [State.mem_matrixLater, State.modCmd, State.mem_modCore, State.mem_tick, State.mem_noteRead]
  · rw [hcore, Core.acc_modMat, hctx]
  · obtain rfl := Mat.uid_of_cmd hcmd
    rw [hcore, Core.mat_modMat, Mat.cmd, hctx]
    exact find?_map_uid hcmd (fun q => { q with ops := q.ops.filter (fun b => b.j != o.j), data := q.data ++ [s.blockDataOf k o] }) fun _ => rfl

section
variable {s : State} {uid j : Nat} {k : MCmd} (hcmd : s.me.ctx.mat.cmd uid = some k)
include hcmd

/-- The checked places of a block become the command's reads to come. -/
theorem matrixBlockRead_issues {segs : List (List Seg)} {c1 : Core} (harg : s.arg = .beat uid j true) (hruns : s.me.tauStands = false)
    (hdue : s.me.ctx.mat.blockDue s.me.ctx.tau = true)
    (hcheck : checkPieces s s.cur k.tab (j != 0) (blockPieces k.cur k.tab (formOf k.w) j) s.me = .ok (segs, c1)) :
    ∃ t q, exec .matrixBlockRead s = .next t ∧ t.mem = s.mem ∧ (t.core s.cur).ctx.acc = s.me.ctx.acc ∧
      (t.core s.cur).ctx.mat.cmd uid = some q ∧ q.ops = k.ops ++ [⟨j, segs⟩] := by
  have huid := Mat.uid_of_cmd hcmd
  have hacc := checkPieces_keeps (g := fun c => c.ctx.acc) (Core.pipeTake_keeps (fun c => c.ctx.acc) (fun _ _ _ => rfl) fun _ _ _ => rfl) hcheck
  have hcmds := checkPieces_keeps (g := fun c => c.ctx.mat.cmds) (Core.pipeTake_keeps (fun c => c.ctx.mat.cmds) (fun _ _ _ => rfl) fun _ _ _ => rfl) hcheck
  rw [State.me] at *
  simp only [exec_matrixBlockRead_eq, execMatrixBlockRead, harg, hcmd, hruns, hdue, Bool.not_false, Bool.and_self, if_true, State.blockIssue,
    hcheck]
  refine ⟨_, { k with ops := k.ops ++ [⟨j, segs⟩] }, rfl, State.mem_matrixLater .., ?_, ?_, rfl⟩
  · rw [State.core_matrixLater, State.core_setCore_self]
    exact hacc
  · rw [State.core_matrixLater, State.core_setCore_self, Core.mat_modMat, Mat.cmd]
    have hfound := find?_map_uid (l := c1.ctx.mat.cmds) (uid := uid) (k := k) (hcmds ▸ hcmd) (fun q => { q with ops := q.ops ++ [⟨j, segs⟩] }) fun _ => rfl
    split <;> simpa only [huid] using hfound

/-- Where no word of them is uncorrectable, the bytes of a block are the command's data, and its reads are done. -/
theorem matrixBlockRead_performs {o : BlockOps} (harg : s.arg = .beat uid j false) (hops : k.ops.find? (fun o => o.j == j) = some o)
    (hpoison : ∀ g ∈ o.segs, s.poisoned (segsPas g) = false) :
    ∃ t q d, exec .matrixBlockRead s = .next t ∧ t.mem = s.mem ∧ (t.core s.cur).ctx.acc = s.me.ctx.acc ∧
      (t.core s.cur).ctx.mat.cmd uid = some q ∧ q.data = k.data ++ [d] ∧ d.j = j := by
  have hj : o.j = j := by simpa using List.find?_some hops
  rw [State.me] at *
  simp only [exec_matrixBlockRead_eq, execMatrixBlockRead, harg, hcmd, Option.map_some, hops]
  rw [s.blockRead_eq k hpoison]
  obtain ⟨hmem, hacc, hcmds⟩ := s.blockData_keeps k o
  exact ⟨_, _, _, rfl, hmem, hacc, hcmds uid hcmd, rfl, hj⟩

/-! ### A block is added (R249, R259) -/

/-- The operands of block j with their bytes. -/
def MCmd.operands (k : MCmd) (j : Nat) (d : BlockData) : List (Piece × List Byte) := (blockPieces k.cur k.tab (formOf k.w) j).zip d.bytes

/-- The words that block j of a command is added to: those of its tile, or zeros. -/
def MCmd.start (k : MCmd) (j : Nat) (was : Tile) : Array F32 :=
  if j = 0 ∧ (formOf k.w).z then Array.replicate 4096 0 else was.array

/-- The command's tile with block j added. -/
def MCmd.added (k : MCmd) (j : Nat) (d : BlockData) (was : Tile) : Tile :=
  was.put (if (formOf k.w).fa = .cf32 then addComplex (k.operands j d) (k.start j was)
    else addBlock (formOf k.w) d (k.operands j d) (k.start j was))

theorem matrixBlockAdd_adds {d : BlockData} {b : Bool} (harg : s.arg = .beat uid j b)
    (hdata : k.data.find? (fun o => o.j == j) = some d) : ∃ t, exec .matrixBlockAdd s = .next t ∧ t.mem = s.mem ∧
      (t.core s.cur).ctx.acc = (s.me.putTile (formOf k.w).t (k.added j d s.me.ctx.acc[(formOf k.w).t]!)).ctx.acc ∧
      (t.core s.cur).ctx.c = s.me.ctx.c ∧ (t.core s.cur).ctx.x = s.me.ctx.x := by
  rw [State.me] at *
  simp only [exec_matrixBlockAdd_eq, execMatrixBlockAdd, harg, hcmd, Option.bind_some, hdata, Option.map_some]
  refine ⟨_, rfl, ?_⟩
  split
  · rw [State.mem_matrixLater, State.mem_setCore, State.core_matrixLater, State.core_setCore_self]
    exact ⟨rfl, rfl, rfl, rfl⟩
  · rw [State.mem_setCore, State.core_setCore_self]
    exact ⟨rfl, rfl, rfl, rfl⟩

/-! ### The score step (R260) -/

theorem matrixScoreStep_folds {b : Bool} (harg : s.arg = .beat uid j b) : exec .matrixScoreStep s = .next (s.setCore s.cur
    (((s.me.putTile (formOf k.w).t ((formOf k.w).scored s.me.ctx.acc[(formOf k.w).t]! s.me.ctx.acc[(formOf k.w).u]!)).putTile (formOf k.w).u
      ((formOf k.w).folded s.me.ctx.acc[(formOf k.w).t]! s.me.ctx.acc[(formOf k.w).u]!)).modMat fun m => m.finish k)) := by
  rw [State.me] at *
  simp only [exec_matrixScoreStep_eq, execMatrixScoreStep, harg, hcmd, zipIdx_map_range, List.flatMap_map, List.map_map,
    getD_map_range]
  rfl

end

/-! ### Tiles written (R149) -/

section
variable (c : Core) (t : Nat) (v : Tile)

theorem Core.acc_putTile_self (ht : t < 4) : (c.putTile t v).ctx.acc[t]! = v :=
  (getElem!_set! _ ht v).trans (if_pos rfl)

theorem Core.acc_putTile_other {u : Nat} (hu : u < 4) (h : u ≠ t) : (c.putTile t v).ctx.acc[u]! = c.ctx.acc[u]! :=
  (getElem!_set! _ hu v).trans (if_neg (Ne.symm h))

theorem Core.acc_putTile_fin {u : Fin 4} (h : u.val ≠ t) : (c.putTile t v).ctx.acc[u] = c.ctx.acc[u] := by
  have hget := c.acc_putTile_other t v u.isLt h
  rwa [getElem!_pos _ u.val u.isLt, getElem!_pos _ u.val u.isLt] at hget

theorem Core.c_putTile : (c.putTile t v).ctx.c = c.ctx.c := rfl
theorem Core.x_putTile : (c.putTile t v).ctx.x = c.ctx.x := rfl

end

theorem Form.t_lt (w : Word) : (formOf w).t < 4 := Nat.mod_lt _ (by decide)
theorem Form.u_lt (w : Word) : (formOf w).u < 4 := Nat.mod_lt _ (by decide)

/-! ### Side registers and rescaling (R264, R265) -/

/-- The request is done: its tile is written, and it is no operation of the unit any more. -/
def State.sideWritten (s : State) (r : SideReq) (v : Tile) : State := s.setCore s.cur ((s.me.putTile r.tile.val v).sideDone r.id)

theorem State.sideWritten_done (s : State) (r : SideReq) (v : Tile) : (s.sideWritten r v).mem = s.mem ∧
    (∀ u : Fin 4, u ≠ r.tile → ((s.sideWritten r v).core s.cur).ctx.acc[u] = s.me.ctx.acc[u]) ∧
    r.id ∉ ((s.sideWritten r v).core s.cur).ctx.mat.ops ∧ ((s.sideWritten r v).core s.cur).ctx.acc[r.tile] = v := by
  rw [State.sideWritten, State.core_setCore_self]
  refine ⟨rfl, fun u hu => Core.acc_putTile_fin _ _ _ fun heq => hu (Fin.ext heq), ?_, ?_⟩
  · simp [Core.sideDone, Core.modMat]
  · have hget := s.me.acc_putTile_self r.tile.val v r.tile.isLt
    rwa [getElem!_pos _ r.tile.val r.tile.isLt] at hget

section
variable {s : State} {r : SideReq}

/-- The reads perform, and the write comes with their bytes. -/
theorem State.sideRead_performs (hpoison : ∀ e ∈ r.els, s.poisoned e.pas = false) (hledger : s.ledger = [])
    (hstill : ∀ e ∈ r.els, ∀ pa ∈ e.pas, s.inMotion pa = false) (d : Nat) (ev : Instr) :
    (s.sideRead r d ev).mem = s.mem ∧ ((s.sideRead r d ev).core s.cur).ctx.acc = s.me.ctx.acc ∧
      ∃ p ∈ (s.sideRead r d ev).agenda, p.ev = ev ∧ p.arg = .side { r with data := (r.els.flatMap El.pas).map s.mem.get } := by
  have hgood : s.badEl r.els = none := List.find?_eq_none.mpr fun e he => Bool.eq_false_iff.mp (hpoison e he)
  have hall : s.poisoned (r.els.flatMap El.pas) = false := by
    rw [State.poisoned, List.any_flatMap]
    exact List.any_eq_false.mpr fun e he => Bool.eq_false_iff.mp (hpoison e he)
  have hbytes := State.engineBytes_eq hall hledger (List.forall_mem_flatMap.mpr hstill) s.cur
  have heq : s.sideRead r d ev = (s.noteRead s.cur (r.els.flatMap El.pas)).tick.matrixLater r.id d [] ev
      (.side { r with data := (r.els.flatMap El.pas).map s.mem.get }) := by
    simp only [State.sideRead, hgood, hbytes]
  rw [heq]
  obtain ⟨cp, hctx⟩ := s.ctx_noteRead s.cur (r.els.flatMap El.pas)
  obtain ⟨p, hp, -, hev, harg⟩ := (s.noteRead s.cur (r.els.flatMap El.pas)).tick.comesIn_stepLater false r.id d [] ev
    (.side { r with data := (r.els.flatMap El.pas).map s.mem.get })
  refine ⟨?_, ?_, p, hp, hev, harg⟩
  · rw [State.mem_matrixLater, State.mem_tick, State.mem_noteRead]
  · rw [State.core_matrixLater, State.core_tick, hctx]
    rfl

variable (harg : s.arg = .side r)
include harg

theorem msideLoadWrite_reads (hdata : r.data = []) : exec .msideLoadWrite s = .next (s.sideRead r 1 .msideLoadWrite) := by
  simp only [exec_msideLoadWrite_eq, execMsideLoadWrite, harg, hdata, List.isEmpty_nil, if_true]

/-- A tile with side registers from memory. -/
def Tile.loadSides (t : Tile) (bs : List Byte) : Tile :=
  { t with m := Vector.ofFn fun i => f32At bs i.val, s := Vector.ofFn fun i => f32At bs (64 + i.val) }

theorem msideLoadWrite_writes (hdata : r.data ≠ []) :
    exec .msideLoadWrite s = .next (s.sideWritten r (s.me.ctx.acc[r.tile].loadSides r.data)) := by
  simp only [exec_msideLoadWrite_eq, execMsideLoadWrite, harg, List.isEmpty_eq_false_iff.mpr hdata, Bool.false_eq_true, if_false]
  rfl

theorem mrscWrite_reads (hkind : r.kind = 1) (hdata : r.data = []) : exec .mrscWrite s = .next (s.sideRead r 16 .mrscWrite) := by
  simp only [exec_mrscWrite_eq, execMrscWrite, harg, hkind, hdata, List.isEmpty_nil, and_self, if_true]

theorem mrscWrite_max (hkind : r.kind = 1) (hdata : r.data ≠ []) :
    exec .mrscWrite s = .next (s.sideWritten r (s.me.ctx.acc[r.tile].toMax r.data)) := by
  simp only [exec_mrscWrite_eq, execMrscWrite, harg, hkind, List.isEmpty_eq_false_iff.mpr hdata, Bool.false_eq_true, and_false, if_false]
  rfl

theorem mrscWrite_norm (hkind : r.kind = 2) : exec .mrscWrite s = .next (s.sideWritten r s.me.ctx.acc[r.tile].norm) := by
  simp only [exec_mrscWrite_eq, execMrscWrite, harg, hkind, OfNat.ofNat_ne_one, false_and, if_false, if_true]
  rfl

end

theorem Tile.m_put (t : Tile) (a : Array F32) : (t.put a).m = t.m := rfl
theorem Tile.s_put (t : Tile) (a : Array F32) : (t.put a).s = t.s := rfl

theorem Tile.m_toMax (t : Tile) (bs : List Byte) (i : Fin 64) : (t.toMax bs).m[i] = fmax t.m[i] (f32At bs i.val) := by
  simp [Tile.toMax]

/-! ### The statement -/

theorem Form.m_folded (f : Form) (t u : Tile) (r : Fin 64) :
    (f.folded t u).m[r] = f.rowMax (fun n => t.array.getD (64 * r.val + n) 0) u.m[r.val]! := by
  simp only [Form.folded, Fin.getElem_fin, Vector.getElem_ofFn, Form.rowStep, scoreStep_eq]

theorem Form.s_folded (f : Form) (t u : Tile) (r : Fin 64) :
    let x := fun n => t.array.getD (64 * r.val + n) 0
    (f.folded t u).s[r] = fadd (fmul u.s[r.val]! (rowFactor u.m[r.val]! (f.rowMax x u.m[r.val]!)))
      (reduce64 fadd fNegZero ((List.range 64).map (f.rowElem x (f.rowMax x u.m[r.val]!)))) := by
  simp only [Form.folded, Fin.getElem_fin, Vector.getElem_ofFn, Form.rowStep, scoreStep_eq]

/-- The words that a block is added to. -/
theorem MCmd.getD_start (k : MCmd) (j : Nat) (was : Tile) (i : Nat) :
    (k.start j was).getD i 0 = if j = 0 ∧ (formOf k.w).z = true then 0 else was.array.getD i 0 := by
  rw [MCmd.start]
  split
  · simp [Array.getD_eq_getD_getElem?, Array.getElem?_replicate]
    split <;> rfl
  · rfl

theorem MCmd.size_start (k : MCmd) (j : Nat) (was : Tile) : (k.start j was).size = 4096 := by
  rw [MCmd.start]
  split
  · exact Array.size_replicate
  · exact was.size_array

theorem MCmd.array_added_real {k : MCmd} (j : Nat) (d : BlockData) (was : Tile) (hfa : (formOf k.w).fa ≠ .cf32) :
    (k.added j d was).array = addBlock (formOf k.w) d (k.operands j d) (k.start j was) := by
  rw [MCmd.added, if_neg hfa, Tile.array_put _ (addBlock_spec _ _ _ (k.size_start j was)).1]

theorem MCmd.array_added_complex {k : MCmd} (j : Nat) (d : BlockData) (was : Tile) (hfa : (formOf k.w).fa = .cf32) :
    (k.added j d was).array = addComplex (k.operands j d) (k.start j was) := by
  rw [MCmd.added, if_pos hfa, Tile.array_put _ (addComplex_spec _ (k.size_start j was)).1]

/-- Settles O47: the lemmas above, for each event of the unit. -/
theorem matrixStepsPerform : Obligations.MatrixStepsPerform := by
  unfold Obligations.MatrixStepsPerform
  refine ⟨⟨fun s wk hruns hdue hwalk => ⟨fun hempty => ?underflow, fun w r rest hfq => ⟨fun hlate => ?waits, fun hat => ?starts⟩⟩,
    fun s uid j k hcmd => ⟨fun segs c1 harg hruns hdue hcheck => matrixBlockRead_issues hcmd harg hruns hdue hcheck,
      fun o harg hops hpoison => matrixBlockRead_performs hcmd harg hops hpoison, fun d b harg hdata => ?add, fun b harg => ?score⟩⟩,
    fun f d ps m i hi => ⟨rowA_dense hi, rowA_sparse hi, colB_plain hi, colB_codebook hi⟩,
    fun s r harg => ⟨fun hdata hpoison hledger hstill => ⟨?sideReads, fun hkind => ?rescaleReads⟩, fun hdata => ?sides, fun hkind hdata => ?max,
      fun hkind => ?norm⟩⟩
  case underflow =>
    obtain ⟨u, hmem, hacc, hstop⟩ := s.matrixStop_eq .formatUnderflow
      (BitVec.ofNat 64 (s.me.ctx.mat.mseq.toNat + wk.next % 2 ^ 32 * 2 ^ 16)) (mrowpWord wk.next 0 1 s.me.ctx.mat.mseq)
    exact ⟨u, hmem, hacc, (matrixCommandStart_underflow hruns hdue hwalk hempty).trans (congrArg _ hstop)⟩
  case waits =>
    exact ⟨_, matrixCommandStart_waits hruns hdue hwalk hfq rfl hlate, rfl, rfl, rfl⟩
  case starts =>
    obtain ⟨t, hexec, hmem, hrest, hseq, hcmds, hacc⟩ := matrixCommandStart_starts hruns hdue hwalk hfq hat
    exact ⟨t, s.nextCmd wk w, hexec, hmem, hrest, hseq, hcmds, rfl, rfl, rfl, rfl, hacc⟩
  case add =>
    obtain ⟨t, hexec, hmem, hacc, hc, hx⟩ := matrixBlockAdd_adds hcmd harg hdata
    refine ⟨t, hexec, hmem, fun u hu => ?_, hc, hx, ?_⟩
    · rw [hacc]
      exact Core.acc_putTile_fin _ _ _ hu
    intro f ps was old tile new
    have htile : tile = k.added j d was := by
      rw [show tile = (t.core s.cur).ctx.acc[f.t]! from rfl, hacc]
      exact s.me.acc_putTile_self _ _ (Form.t_lt k.w)
    have hold : ∀ i, (k.start j was).getD i 0 = old i := k.getD_start j was
    refine ⟨by rw [htile, MCmd.added, Tile.m_put], by rw [htile, MCmd.added, Tile.s_put], fun hfa m n hm hn => ?_, fun hfa m n hm hn => ?_⟩
    · have hnew : new (64 * m + n) = (k.added j d was).array.getD (64 * m + n) 0 := by rw [← htile]
      rw [hnew, MCmd.array_added_real j d was hfa, (addBlock_spec _ _ _ (k.size_start j was)).2 m n hm hn, hold]
      rfl
    · have hcell := (addComplex_spec (k.operands j d) (k.size_start j was)).2 m n hm hn
      rw [← MCmd.array_added_complex j d was hfa, ← htile, foldl_addProd, List.foldl_map, List.foldl_map] at hcell
      simp only [cell, hold, ← Nat.add_assoc] at hcell
      obtain ⟨hre, him⟩ := Prod.mk.inj hcell
      intro part prod sum
      exact ⟨hre.trans (by simp only [sum, Nat.zero_add]; rfl), him⟩
  case score =>
    refine ⟨_, matrixScoreStep_folds hcmd harg, fun u ht hu => ?_, rfl, rfl, ?_⟩
    · exact (Core.acc_putTile_fin _ _ _ hu).trans (Core.acc_putTile_fin _ _ _ ht)
    intro f t u htu r x mn a p
    have hm : u.m[r.val]! = u.m[r] := getElem!_pos ..
    have hs : u.s[r.val]! = u.s[r] := getElem!_pos ..
    rw [Core.acc_modMat, Core.acc_putTile_self _ _ _ (Form.u_lt k.w), Core.acc_putTile_other _ _ _ (Form.t_lt k.w) htu,
      Core.acc_putTile_self _ _ _ (Form.t_lt k.w)]
    refine ⟨?_, ?_, fun n hn => ⟨?_, ?_⟩⟩
    · exact (f.m_folded t u r).trans (by rw [hm]; rfl)
    · exact (f.s_folded t u r).trans (by rw [hm, hs]; rfl)
    · exact (f.getD_scored t u r.isLt hn).trans (by rw [hm]; rfl)
    · exact (f.getD_folded t u r.isLt hn).trans (by rw [hm]; rfl)
  case sideReads => exact ⟨_, msideLoadWrite_reads harg hdata, s.sideRead_performs hpoison hledger hstill 1 .msideLoadWrite⟩
  case rescaleReads => exact ⟨_, mrscWrite_reads harg hkind hdata, s.sideRead_performs hpoison hledger hstill 16 .mrscWrite⟩
  case sides =>
    obtain ⟨hmem, hother, hops, hself⟩ := s.sideWritten_done r (s.me.ctx.acc[r.tile].loadSides r.data)
    refine ⟨_, msideLoadWrite_writes harg hdata, ⟨hmem, hother, hops⟩, fun i => ?_⟩
    rw [hself]
    exact ⟨by simp [Tile.loadSides, f32At], by simp [Tile.loadSides, f32At]⟩
  case max =>
    obtain ⟨hmem, hother, hops, hself⟩ := s.sideWritten_done r (s.me.ctx.acc[r.tile].toMax r.data)
    refine ⟨_, mrscWrite_max harg hkind hdata, ⟨hmem, hother, hops⟩, fun i => ?_⟩
    rw [hself, Tile.m_toMax]
    rfl
  case norm =>
    obtain ⟨hmem, hother, hops, hself⟩ := s.sideWritten_done r s.me.ctx.acc[r.tile].norm
    refine ⟨_, mrscWrite_norm harg hkind, ⟨hmem, hother, hops⟩, ?_, ?_⟩
    · rw [hself, Tile.norm, Tile.rescale, Tile.m_put]
    · rw [hself, Tile.norm, Tile.rescale, Tile.s_put]

end Sys2Proof.Machine
end

section
/-! PROOFS. The fabric (R358 to R364): flits and their retries, data that is late, and the two alignments. -/

namespace Sys2Proof.Machine

open Sys2Proof

theorem exec_flitArrival_eq (s : State) : exec .flitArrival s = execFlitArrival s := rfl
theorem exec_slackSlotRetry_eq (s : State) : exec .slackSlotRetry s = execSlackSlotRetry s := rfl
theorem exec_retryOverrun_eq (s : State) : exec .retryOverrun s = execRetryOverrun s := rfl
theorem exec_alignmentFlit_eq (s : State) : exec .alignmentFlit s = execAlignmentFlit s := rfl
theorem exec_alignmentBarrier_eq (s : State) : exec .alignmentBarrier s = execAlignmentBarrier s := rfl

/-! ### What a chain of state changes adds to the agenda -/

/-- Changes that each drop no event drop none one after another. -/
theorem agenda_subset_foldl {α : Type} {f : State → α → State} (hf : ∀ t a, t.agenda ⊆ (f t a).agenda) (l : List α) (s : State) :
    s.agenda ⊆ (l.foldl f s).agenda := by
  induction l generalizing s with
  | nil => exact List.Subset.refl _
  | cons a l ih => exact List.Subset.trans (hf s a) (ih _)

/-- Changes that each drop no event and keep the clock leave the event that one of them adds. -/
theorem exists_mem_agenda_foldl {α : Type} {f : State → α → State} {P : Nat → α → Pending → Prop} (hclock : ∀ t a, (f t a).clock = t.clock)
    (hf : ∀ t a, t.agenda ⊆ (f t a).agenda) (hadds : ∀ t a, ∃ p ∈ (f t a).agenda, P t.clock a p) {l : List α} {a : α} (ha : a ∈ l)
    (s : State) : ∃ p ∈ (l.foldl f s).agenda, P s.clock a p := by
  induction l generalizing s with
  | nil => exact absurd ha List.not_mem_nil
  | cons b l ih =>
    obtain rfl | ha := List.mem_cons.mp ha
    · obtain ⟨p, hp, hP⟩ := hadds s a
      exact ⟨p, agenda_subset_foldl hf l _ hp, hP⟩
    · obtain ⟨p, hp, hP⟩ := ih ha (f s b)
      exact ⟨p, hp, hclock s b ▸ hP⟩

/-! ### Retries (R360) -/

section
variable (s : State) (f : Flit) (u : Nat)

/-- A slack slot that is awaited is at most one more event. -/
theorem State.nextSlack_keeps {γ : Type} (g : State → γ) (hg : ∀ t o d ev arg, g (State.scheduleDom t o d ev arg) = g t) :
    g (s.nextSlack f u) = g s := by
  rw [State.nextSlack]
  split
  · rfl
  · exact hg ..

theorem State.agenda_subset_nextSlack : s.agenda ⊆ (s.nextSlack f u).agenda := by
  rw [State.nextSlack]
  split
  · exact List.Subset.refl _
  · exact List.subset_append_left _ _

@[simp] theorem State.mem_nextSlack : (s.nextSlack f u).mem = s.mem := s.nextSlack_keeps f u State.mem fun _ _ _ _ _ => rfl
@[simp] theorem State.cores_nextSlack : (s.nextSlack f u).cores = s.cores := s.nextSlack_keeps f u State.cores fun _ _ _ _ _ => rfl
@[simp] theorem State.domain_nextSlack : (s.nextSlack f u).domain = s.domain := s.nextSlack_keeps f u State.domain fun _ _ _ _ _ => rfl

end

section
variable {s : State} {f : Flit} (harg : s.arg = .flit f)
include harg

theorem flitArrival_good (hgood : f.good = true) (hretry : s.retrying f = none) : exec .flitArrival s = .next s := by
  rw [exec_flitArrival_eq, execFlitArrival, harg]
  simp only [hgood, hretry]

theorem flitArrival_arrives {g : Flit} (hgood : f.good = true) (hretry : s.retrying f = some g) :
    ∃ t, exec .flitArrival s = .next t ∧ t.mem = s.mem ∧ t.cores = s.cores ∧ (∀ e ∈ t.domain.retries, f.same e = false) ∧
      ∀ h, g.hold = some h → ∃ p ∈ t.agenda, p.clk = .dom ∧ p.due = s.clock + 1 ∧ p.ev = .releaseStart ∧ p.arg = .ids h 0 := by
  rw [exec_flitArrival_eq, execFlitArrival, harg]
  simp only [hgood, hretry]
  have hgone : ∀ e ∈ s.domain.retries.filter fun e => !f.same e, f.same e = false := fun e he => by simpa using (List.mem_filter.mp he).2
  cases hhold : g.hold with
  | none => exact ⟨_, rfl, rfl, rfl, hgone, fun _ h => nomatch h⟩
  | some h =>
    refine ⟨_, rfl, rfl, rfl, hgone, fun k hk => ?_⟩
    cases hk
    exact ⟨_, State.mem_agenda_scheduleDom .., rfl, rfl, rfl, rfl⟩

theorem flitArrival_bad (hbad : f.good = false) : ∃ t, exec .flitArrival s = .next t ∧ t.mem = s.mem ∧ t.cores = s.cores ∧
    (s.retrying f = none → { f with hold := none } ∈ t.domain.retries ∧
      ∃ p ∈ t.agenda, p.clk = .dom ∧ p.due = max s.clock f.due ∧ p.ev = .retryOverrun ∧ p.arg = .flit f) := by
  rw [exec_flitArrival_eq, execFlitArrival, harg]
  cases hretry : s.retrying f with
  | none =>
    simp only [hbad, hretry]
    refine ⟨_, rfl, State.mem_nextSlack .., State.cores_nextSlack .., fun _ => ⟨by simp, _, State.agenda_subset_nextSlack _ _ _ (State.mem_agenda_scheduleDom ..),
      rfl, ?_, rfl, rfl⟩⟩
    show s.clock + (f.due - s.clock) = max s.clock f.due
    omega
  | some g =>
    simp only [hbad, hretry]
    exact ⟨_, rfl, State.mem_nextSlack .., State.cores_nextSlack .., fun h => nomatch h⟩

theorem retryOverrun_over (hretry : s.retrying f = none) : exec .retryOverrun s = .next s := by
  rw [exec_retryOverrun_eq, execRetryOverrun, harg]
  simp only [hretry]

/-- A hold of reason 3 begins, and the waiting flit takes its number. -/
theorem retryOverrun_holds {g : Flit} (hretry : s.retrying f = some g) (hhold : g.hold = none) :
    ∃ t, exec .retryOverrun s = .next t ∧ t.mem = s.mem ∧ t.cores = s.cores ∧ (∃ h ∈ t.holds, h.id = s.seq ∧ h.reason = 3) ∧
      ∃ e ∈ t.domain.retries, f.same e = true ∧ e.hold = some s.seq := by
  rw [exec_retryOverrun_eq, execRetryOverrun, harg]
  simp only [hretry, hhold, Option.isSome_none, Bool.false_eq_true, if_false]
  have hkeeps := s.startHold_keeps (fun t => (t.mem, t.cores, t.domain.retries)) (fun _ _ _ _ _ => rfl) 3 none (hubId f.package)
    (s.wholeGroups f.users) []
  obtain ⟨_, hkeeps⟩ := hkeeps
  simp only [Prod.mk.injEq] at hkeeps
  obtain ⟨hmem, hcores, hretries⟩ := hkeeps
  obtain ⟨_, hnew⟩ := s.newHold_mem_startHold 3 none (hubId f.package) (s.wholeGroups f.users) []
  obtain ⟨hg, hsame⟩ := And.intro (List.mem_of_find?_eq_some hretry) (List.find?_some hretry)
  refine ⟨_, rfl, hmem, hcores, ⟨_, hnew, rfl, rfl⟩, { g with hold := some s.seq }, ?_, hsame, rfl⟩
  exact List.mem_map.mpr ⟨g, hretries ▸ hg, if_pos hsame⟩

end

/-- A flit is sent again, at its place among the slack slot's, and may arrive bad again (log entry 66). -/
def State.resend (package : Nat) (t : State) (e : Flit × Nat) : State :=
  (t.scheduleDom (linkId package) (e.2 + 64) .flitArrival (.flit { e.1 with good := Config.freeNat t.ctr (360 + e.2) % 2 == 0 })).tick

/-- An event lets a flit arrive at its place after a slack slot's start, good or bad. -/
def Pending.Resends (clock : Nat) (e : Flit × Nat) (p : Pending) : Prop :=
  p.clk = .dom ∧ p.due = clock + 64 + e.2 ∧ p.ev = .flitArrival ∧ ∃ b, p.arg = .flit { e.1 with good := b }

theorem State.resend_arrives (package : Nat) (t : State) (e : Flit × Nat) : ∃ p ∈ (t.resend package e).agenda, p.Resends t.clock e :=
  ⟨_, t.mem_agenda_scheduleDom .., rfl, by simp only; omega, rfl, _, rfl⟩

/-- The flits of a port that wait, oldest first. -/
def State.waiting (s : State) (package port : Nat) : List Flit := s.domain.retries.filter fun f => f.package == package && f.port == port

/-- A slack slot sends the first 64 again. -/
def State.slackSent (s : State) (package port : Nat) : State := ((s.waiting package port).take 64).zipIdx.foldl (State.resend package) s

theorem slackSlotRetry_eq {s : State} {package port : Nat} (harg : s.arg = .ids package port) : exec .slackSlotRetry s =
    .next (match (s.waiting package port).drop 64 with
      | f :: _ => (s.slackSent package port).nextSlack f (s.clock / 64)
      | [] => s.slackSent package port) := by
  rw [exec_slackSlotRetry_eq, execSlackSlotRetry, harg]
  rfl

theorem slackSlotRetry_resends {s : State} {package port : Nat} (harg : s.arg = .ids package port) :
    ∃ t, exec .slackSlotRetry s = .next t ∧ t.mem = s.mem ∧ t.cores = s.cores ∧
      ∀ i f, i < 64 → (s.waiting package port)[i]? = some f →
        ∃ p ∈ t.agenda, p.clk = .dom ∧ p.due = s.clock + 64 + i ∧ p.ev = .flitArrival ∧ ∃ b, p.arg = .flit { f with good := b } := by
  have hmem : (s.slackSent package port).mem = s.mem := foldl_keeps State.mem (State.resend package) (fun _ _ => rfl) _ s
  have hcores : (s.slackSent package port).cores = s.cores := foldl_keeps State.cores (State.resend package) (fun _ _ => rfl) _ s
  have hsent : ∀ i f, i < 64 → (s.waiting package port)[i]? = some f → ∃ p ∈ (s.slackSent package port).agenda, p.clk = .dom ∧
      p.due = s.clock + 64 + i ∧ p.ev = .flitArrival ∧ ∃ b, p.arg = .flit { f with good := b } := fun i f hi hf => by
    have hin : (f, i) ∈ ((s.waiting package port).take 64).zipIdx := by
      rw [List.mk_mem_zipIdx_iff_getElem?, List.getElem?_take_of_lt hi, hf]
    exact exists_mem_agenda_foldl (f := State.resend package) (fun _ _ => rfl) (fun _ _ => List.subset_append_left _ _)
      (State.resend_arrives package) hin s
  rw [slackSlotRetry_eq harg]
  split
  · exact ⟨_, rfl, (State.mem_nextSlack ..).trans hmem, (State.cores_nextSlack ..).trans hcores, fun i f hi hf =>
      let ⟨p, hp, hrest⟩ := hsent i f hi hf
      ⟨p, State.agenda_subset_nextSlack _ _ _ hp, hrest⟩⟩
  · exact ⟨_, rfl, hmem, hcores, hsent⟩

/-! ### Alignment (R361 to R364) -/

/-- A member's difference above 8 cycles is drift: a hold of reason 5, and a re-alignment. -/
theorem alignmentFlit_drift {s : State} {m : Nat} {diff : Int} (harg : s.arg = .skew m diff) (hdrift : 8 < diff.natAbs) :
    ∃ t, exec .alignmentFlit s = .next t ∧ t.mem = s.mem ∧ t.cores = s.cores ∧ (∃ h ∈ t.holds, h.id = s.seq ∧ h.reason = 5) ∧
      ∃ p ∈ t.agenda, p.ev = .alignmentBarrier ∧ p.arg = .ids 1 s.seq := by
  rw [exec_alignmentFlit_eq, execAlignmentFlit, harg]
  simp only [show ¬ diff.natAbs ≤ 8 by omega, if_false]
  obtain ⟨_, hkeeps⟩ := s.startHold_keeps (fun t => (t.mem, t.cores)) (fun _ _ _ _ _ => rfl) 5 none ⟨s.cur.die, 127⟩
    (s.wholeGroups ((s.cores.filter fun e => e.1.die / 8 == m && e.2.isLocked).map (·.1))) []
  simp only [Prod.mk.injEq] at hkeeps
  obtain ⟨_, hnew⟩ := s.newHold_mem_startHold 5 none ⟨s.cur.die, 127⟩
    (s.wholeGroups ((s.cores.filter fun e => e.1.die / 8 == m && e.2.isLocked).map (·.1))) []
  exact ⟨_, rfl, hkeeps.1, hkeeps.2, ⟨_, hnew, rfl, rfl⟩, _, State.mem_agenda_scheduleDom .., rfl, rfl⟩

/-- What the first alignment sets; its reports, which follow, keep it. -/
theorem State.alignFirst_eq (s : State) : ∃ u : State, (u.clock = 0 ∧ u.domain.stage = 5 ∧ u.mem = s.mem ∧ u.modules ≤ s.trained ∧
      u.flat = flatOf (diameterOf u.modules (List.range u.modules))) ∧
    ∀ {γ : Type} (g : State → γ), (∀ t o d ev arg, g (State.scheduleDom t o d ev arg) = g t) → (∀ t, g (State.tick t) = g t) →
      g s.alignFirst = g u := by
  unfold State.alignFirst
  extract_lets all inn out h dead _ _ s1 warn s2
  refine ⟨s1, ⟨rfl, rfl, rfl, ?_, rfl⟩, fun g hg ht => ?_⟩
  · calc inn.length ≤ all.length := List.length_filter_le ..
      _ = s.trained := List.length_range
  · calc g (out.foldl (fun (t : State) _ => t.postExcluded) s2).tick = g (out.foldl (fun (t : State) _ => t.postExcluded) s2) := ht _
      _ = g s2 := foldl_keeps g _ (fun _ _ => (ht _).trans ((ht _).trans (hg ..))) out s2
      _ = g s1 := foldl_keeps g _ (fun _ _ => (ht _).trans (hg ..)) warn s1

theorem State.alignFirst_sets (s : State) : s.alignFirst.clock = 0 ∧ s.alignFirst.domain.stage = 5 ∧ s.alignFirst.mem = s.mem ∧
    s.alignFirst.modules ≤ s.trained ∧
    s.alignFirst.flat = flatOf (diameterOf s.alignFirst.modules (List.range s.alignFirst.modules)) := by
  obtain ⟨u, hsets, hkeeps⟩ := s.alignFirst_eq
  rwa [hkeeps State.clock (fun _ _ _ _ _ => rfl) fun _ => rfl, hkeeps State.mem (fun _ _ _ _ _ => rfl) fun _ => rfl,
    hkeeps (fun t => t.domain.stage) (fun _ _ _ _ _ => rfl) fun _ => rfl, hkeeps State.modules (fun _ _ _ _ _ => rfl) fun _ => rfl,
    hkeeps State.flat (fun _ _ _ _ _ => rfl) fun _ => rfl]

theorem State.realignOne_keeps (s : State) (m : Nat) : (s.realignOne m).mem = s.mem ∧ (s.realignOne m).clock = s.clock := by
  have hend : ∀ t : State, (t.endGroupsOn m).mem = t.mem ∧ (t.endGroupsOn m).clock = t.clock := fun t => by
    refine ⟨foldl_keeps State.mem _ (fun _ _ => State.mem_startHold ..) _ t, foldl_keeps State.clock _ (fun u g => ?_) _ t⟩
    exact (u.startHold_keeps State.clock (fun _ _ _ _ _ => rfl) _ _ _ _ _).choose_spec
  dsimp only [State.realignOne]
  split
  · exact ⟨rfl, rfl⟩
  · exact ⟨rfl, rfl⟩
  · exact ⟨(hend _).1, (hend _).2⟩

theorem State.realign_keeps (s : State) : s.realign.mem = s.mem ∧ s.realign.clock = s.clock :=
  ⟨foldl_keeps State.mem _ (fun t m => (t.realignOne_keeps m).1) _ s, foldl_keeps State.clock _ (fun t m => (t.realignOne_keeps m).2) _ s⟩

/-- A re-alignment ends the hold of the drift at once. -/
theorem alignmentBarrier_realigns {s : State} {n h : Nat} (harg : s.arg = .ids n h) (hn : n ≠ 0) : exec .alignmentBarrier s =
    .next (s.realign.scheduleDom s.cur 0 .releaseStart (.ids h 0)) := by
  rw [exec_alignmentBarrier_eq, execAlignmentBarrier, harg]
  split
  · next heq => exact absurd (Arg.ids.inj heq).1 hn
  · next heq => cases heq; rfl
  · next hne => exact absurd rfl (hne n h)

end Sys2Proof.Machine
end

section
/-! PROOFS. The collectives (R369 to R380): what their steps keep, the members' starts and reads, the destinations and the status, and the
chunk counters. -/

namespace Sys2Proof.Machine

open Sys2Proof

theorem exec_collBlockRead_eq (s : State) : exec .collBlockRead s = execCollBlockRead s := rfl
theorem exec_collMemberStart_eq (s : State) : exec .collMemberStart s = execCollMemberStart s := rfl
theorem exec_collSourceBeat_eq (s : State) : exec .collSourceBeat s = execCollSourceBeat s := rfl
theorem exec_collDestBeat_eq (s : State) : exec .collDestBeat s = execCollDestBeat s := rfl
theorem exec_collComplete_eq (s : State) : exec .collComplete s = execCollComplete s := rfl
theorem exec_chunkRelease_eq (s : State) : exec .chunkRelease s = execChunkRelease s := rfl
theorem exec_tcincApply_eq (s : State) : exec .tcincApply s = execTcincApply s := rfl

/-! ### What a step makes of the accepted requests and the agenda alone -/

/-- From s to t the accepted requests and the agenda may change, and nothing else. -/
def State.Requested (s t : State) : Prop := ∃ js l, t = { s with jobs := js, agenda := l }

namespace State.Requested

theorem refl (s : State) : s.Requested s := ⟨s.jobs, s.agenda, rfl⟩

theorem trans {s t u : State} (h : s.Requested t) (k : t.Requested u) : s.Requested u := by
  obtain ⟨_, _, rfl⟩ := h
  obtain ⟨_, _, rfl⟩ := k
  exact ⟨_, _, rfl⟩

/-- Whatever does not read the requests and the agenda stays. -/
theorem keeps {s t : State} (h : s.Requested t) {γ : Type} (g : State → γ) (hg : ∀ js l, g { s with jobs := js, agenda := l } = g s) :
    g t = g s := by
  obtain ⟨js, l, rfl⟩ := h
  exact hg js l

theorem mem {s t : State} (h : s.Requested t) : t.mem = s.mem := h.keeps State.mem fun _ _ => rfl
theorem cores {s t : State} (h : s.Requested t) : t.cores = s.cores := h.keeps State.cores fun _ _ => rfl
theorem clock {s t : State} (h : s.Requested t) : t.clock = s.clock := h.keeps State.clock fun _ _ => rfl
theorem chunks {s t : State} (h : s.Requested t) : t.chunks = s.chunks := h.keeps State.chunks fun _ _ => rfl

theorem ite {s t u : State} {p : Prop} [Decidable p] (h : s.Requested t) (k : s.Requested u) : s.Requested (if p then t else u) := by
  split
  · exact h
  · exact k

theorem foldl {α : Type} {f : State → α → State} (hf : ∀ t a, State.Requested t (f t a)) (l : List α) (s : State) :
    s.Requested (l.foldl f s) := by
  induction l generalizing s with
  | nil => exact refl s
  | cons a l ih => exact (hf s a).trans (ih _)

theorem putColl (s : State) (id : Nat) (f : CollJob → CollJob) : s.Requested (s.putColl id f) := ⟨_, _, rfl⟩

theorem setJob (s : State) (job : Job) : s.Requested (s.setJob job) := ⟨_, _, rfl⟩

theorem dropJob (s : State) (id : Nat) : s.Requested (s.dropJob id) := ⟨_, _, rfl⟩

end State.Requested

/-- A step of a collective to come is on the agenda, and nothing else changes. -/
theorem State.collStep_eq (s : State) (job : Job) (ck : CollClock) (d : Nat) (pas : List Nat) (ev : Instr) (j : Nat) :
    ∃ l, s.collStep job ck d pas ev j = { s with agenda := l } := by
  dsimp only [State.collStep]
  split
  · exact ⟨_, rfl⟩
  · split
    · exact ⟨_, rfl⟩
    · split <;> exact ⟨_, rfl⟩

@[simp] theorem State.jobs_collStep (s : State) (job : Job) (ck : CollClock) (d : Nat) (pas : List Nat) (ev : Instr) (j : Nat) :
    (s.collStep job ck d pas ev j).jobs = s.jobs := by
  obtain ⟨l, h⟩ := s.collStep_eq job ck d pas ev j
  rw [h]

@[simp] theorem State.jobs_collEnd (s : State) (job : Job) (k : CollJob) (ck : CollClock) (d : Nat) :
    (s.collEnd job k ck d).jobs = s.jobs := by
  rw [State.collEnd]
  exact (apply_ite State.jobs ..).trans (by simp only [State.jobs_collStep, ite_self])

namespace State.Requested

theorem collStep (s : State) (job : Job) (ck : CollClock) (d : Nat) (pas : List Nat) (ev : Instr) (j : Nat) :
    s.Requested (s.collStep job ck d pas ev j) := by
  obtain ⟨l, h⟩ := s.collStep_eq job ck d pas ev j
  exact ⟨s.jobs, l, h⟩

theorem collEnd (s : State) (job : Job) (k : CollJob) (ck : CollClock) (d : Nat) : s.Requested (s.collEnd job k ck d) :=
  ite (collStep ..) (collStep ..)

theorem settle (s : State) (group : List Nat) : s.Requested (s.settle group) :=
  ite (refl s) (foldl (fun _ _ => ite (refl _) ((putColl ..).trans (collEnd ..))) _ s)

theorem collBegin (s : State) (job : Job) (k : CollJob) : s.Requested (s.collBegin job k) := by
  dsimp only [State.collBegin]
  have hread : ∀ {p : Prop} [Decidable p] (u : State) pas, u.Requested (if p then u.collStep job k.info.clock 0 pas .collSourceBeat 0 else u) :=
    fun u pas => ite (collStep ..) (refl u)
  exact ite ((putColl ..).trans ((hread ..).trans (collEnd ..))) ((putColl ..).trans ((hread ..).trans (settle ..)))

theorem matchColl (s : State) (t : List Nat) : s.Requested (s.matchColl t) :=
  ite (refl s) ((foldl (fun _ _ => putColl ..) _ s).trans ((foldl (fun u _ => ite (collStep ..) (ite (collStep ..) (refl u))) _ _).trans
    (settle ..)))

theorem matchAll (s : State) : s.Requested s.matchAll := foldl matchColl _ s

theorem collJoin (s : State) (job : Job) (k : CollJob) : s.Requested (s.collJoin job k) := by
  have hput := putColl s job.id fun _ => { k with read := true, p := s.jobNow job }
  dsimp only [State.collJoin]
  split
  · exact (hput.trans (putColl ..)).trans (collStep ..)
  · exact ite (hput.trans (collStep ..)) (ite hput (hput.trans (collStep ..)))

end State.Requested

/-! ### The request -/

theorem State.coll?_eq_some {s : State} {id : Nat} {m : Job × CollJob} :
    s.coll? id = some m ↔ s.job? id = some m.1 ∧ m.1.body = .coll m.2 := by
  obtain ⟨job, k⟩ := m
  rw [State.coll?, Option.bind_eq_some_iff]
  constructor
  · rintro ⟨l, hl, hbody⟩
    split at hbody
    · next k' hk =>
      obtain ⟨rfl, rfl⟩ := Prod.mk.inj (Option.some.inj hbody)
      exact ⟨hl, hk⟩
    · exact absurd hbody nofun
  · rintro ⟨hl, hk⟩
    dsimp only at hl hk
    exact ⟨job, hl, by rw [hk]⟩

theorem State.collArg_eq_some {s : State} {job : Job} {k : CollJob} {j : Nat} (h : s.collArg = some (job, k, j)) :
    s.coll? job.id = some (job, k) := by
  unfold State.collArg at h
  split at h
  · next id j' _ _ =>
    obtain ⟨m, hm, heq⟩ := Option.map_eq_some_iff.mp h
    obtain ⟨rfl, hrest⟩ := Prod.mk.inj heq
    obtain ⟨rfl, -⟩ := Prod.mk.inj hrest
    rw [State.id_of_job? (State.coll?_eq_some.mp hm).1]
    exact hm
  · exact absurd h nofun

/-- A collective after its record has changed. -/
def CollJob.changed (f : CollJob → CollJob) (m : Job × CollJob) : Job × CollJob := ({ m.1 with body := .coll (f m.2) }, f m.2)

theorem State.coll?_congr {s t : State} (h : t.jobs = s.jobs) (id : Nat) : t.coll? id = s.coll? id := by
  rw [State.coll?, State.coll?, State.job?, State.job?, h]

/-- Requests mapped one to one under their numbers, a collective to a collective. -/
theorem State.coll?_of_jobs_map {s t : State} {f : Job → Job} (h : t.jobs = s.jobs.map f) (hid : ∀ j, (f j).id = j.id) {id : Nat}
    {job : Job} {k k' : CollJob} (hcoll : s.coll? id = some (job, k)) (hbody : (f job).body = .coll k') : t.coll? id = some (f job, k') := by
  obtain ⟨hjob, -⟩ := State.coll?_eq_some.mp hcoll
  have hsame : ((fun j : Job => j.id == id) ∘ f) = fun j : Job => j.id == id := by
    funext j
    simp only [Function.comp_apply, hid]
  refine State.coll?_eq_some.mpr ⟨?_, hbody⟩
  rw [State.job?] at hjob ⊢
  rw [h, List.find?_map, hsame, hjob]
  rfl

theorem State.coll?_putColl_self {s : State} {id : Nat} {m : Job × CollJob} (h : s.coll? id = some m) (f : CollJob → CollJob) :
    (s.putColl id f).coll? id = some (CollJob.changed f m) := by
  obtain ⟨hjob, hbody⟩ := State.coll?_eq_some.mp h
  have hid := State.id_of_job? hjob
  have := State.coll?_of_jobs_map (t := s.putColl id f) rfl (fun j => by split <;> rfl) (k' := f m.2) h (by simp only [hid, if_true, hbody])
  rw [this]
  simp only [hid, if_true, hbody, CollJob.changed]

theorem State.coll?_putColl_other {s : State} {id i : Nat} {m : Job × CollJob} (h : s.coll? id = some m) (hne : id ≠ i)
    (f : CollJob → CollJob) : (s.putColl i f).coll? id = some m := by
  obtain ⟨hjob, hbody⟩ := State.coll?_eq_some.mp h
  have hid := State.id_of_job? hjob
  have := State.coll?_of_jobs_map (t := s.putColl i f) rfl (fun j => by split <;> rfl) (k' := m.2) h (by simp only [hid, if_neg hne, hbody])
  rw [this]
  simp only [hid, if_neg hne]

/-- Every collective of s goes on in t. -/
def State.CollsStay (s t : State) : Prop := ∀ id, (s.coll? id).isSome = true → (t.coll? id).isSome = true

namespace State.CollsStay

theorem of_jobs {s t : State} (h : t.jobs = s.jobs) : s.CollsStay t := fun i hi => by rwa [State.coll?_congr h]

theorem trans {s t u : State} (h : s.CollsStay t) (k : t.CollsStay u) : s.CollsStay u := fun id hid => k id (h id hid)

/-- A task that ends leaves its collectives to go on without it (R296). -/
theorem freeCore (s : State) (c : CoreId) : s.CollsStay (s.freeCore c) := fun id hid => by
  obtain ⟨⟨job, k⟩, h⟩ := Option.isSome_iff_exists.mp hid
  have hbody : job.body = .coll k := (State.coll?_eq_some.mp h).2
  exact Option.isSome_iff_exists.mpr ⟨_, State.coll?_of_jobs_map (t := s.freeCore c) rfl (fun j => by split <;> rfl) h
    (k' := if job.owner = c ∧ job.live then { k with p := s.clock + k.p - (s.core c).ctx.tau } else k)
    (by split <;> simp only [Job.orphan, hbody])⟩

theorem fatalEnd (s : State) (c : CoreId) (cause : Nat) : s.CollsStay (s.fatalEnd c cause) := by
  rw [State.fatalEnd]
  split
  · exact of_jobs rfl
  · exact (of_jobs rfl).trans (freeCore (s.discardInFlight c) c)

theorem startHold (s : State) (reason : Nat) (kill : Option (Nat × Nat)) (origin : CoreId) (cores : List CoreId) (rings : List Nat) :
    s.CollsStay (s.startHold reason kill origin cores rings) :=
  of_jobs (s.startHold_keeps State.jobs (fun _ _ _ _ _ => rfl) reason kill origin cores rings).choose_spec

theorem takeTrap (s : State) (c : CoreId) (cause : Cause) (info : Word) (pos : Pos) : s.CollsStay (s.takeTrap c cause info pos) := by
  unfold State.takeTrap
  extract_lets c0
  split
  next disp nested _ =>
  extract_lets c1 s1
  have hs1 : s.CollsStay s1 := by
    dsimp only [s1]
    split
    · exact of_jobs rfl
    · exact of_jobs rfl
    · split
      · exact of_jobs rfl
      · exact (of_jobs rfl).trans (fatalEnd (s.setCore c c1) c _)
  split
  · split
    · exact hs1.trans (startHold s1 _ _ _ _ _)
    · exact hs1.trans (startHold s1 _ _ _ _ _)
  · exact hs1

end State.CollsStay
end Sys2Proof.Machine
end

section
/-! PROOFS. The steps of a collective (R369 to R380): a member's block, start, source and destination beats and end, the chunk counters, and
the statement on the fabric and the collectives. -/

namespace Sys2Proof.Machine

open Sys2Proof

/-! ### Reads and walks of an engine (R207, R237) -/

/-- A request that reads may meet an uncorrectable word, which stops its task if that still runs. -/
theorem State.snd_engineRead (s : State) (job : Job) (va : Nat → Nat) (pas : List Nat) (pos : Pos) :
    (s.engineRead job va pas pos).2 = s.readFor job pas ∨
      ∃ info, (s.engineRead job va pas pos).2 = (s.readFor job pas).takeTrap job.owner .eccUncorrectable info pos := by
  dsimp only [State.engineRead, State.readFor]
  split
  · cases job.live
    · exact .inl rfl
    · exact .inr ⟨_, rfl⟩
  · exact .inl rfl

theorem State.fst_engineRead (s : State) (job : Job) (va : Nat → Nat) (pas : List Nat) (pos : Pos) :
    (s.engineRead job va pas pos).1 = s.engineBytes job.owner pas := by
  dsimp only [State.engineRead]
  split <;> rfl

@[simp] theorem State.mem_engineRead (s : State) (job : Job) (va : Nat → Nat) (pas : List Nat) (pos : Pos) :
    (s.engineRead job va pas pos).2.mem = s.mem := by
  obtain h | ⟨info, h⟩ := s.snd_engineRead job va pas pos <;> rw [h]
  · exact s.mem_readFor job pas
  · exact (State.mem_takeTrap ..).trans (s.mem_readFor job pas)

/-- A request that reads leaves every collective to go on. -/
theorem State.collsStay_engineRead (s : State) (job : Job) (va : Nat → Nat) (pas : List Nat) (pos : Pos) :
    s.CollsStay (s.engineRead job va pas pos).2 := by
  have hread : s.CollsStay (s.readFor job pas) := .of_jobs (s.jobs_readFor job pas)
  obtain h | ⟨info, h⟩ := s.snd_engineRead job va pas pos <;> rw [h]
  · exact hread
  · exact hread.trans (CollsStay.takeTrap _ _ _ _ _)

@[simp] theorem State.mem_engineWalk (s : State) (job : Job) (ev : Instr) (w : Walk) : (s.engineWalk job ev w).mem = s.mem := by
  dsimp only [State.engineWalk]
  split <;> rfl

theorem State.mem_stopAtDue (s : State) (id : CoreId) (cause : Cause) (info : Word) : (s.stopAtDue id cause info).mem = s.mem := by
  rw [State.stopAtDue, State.mem_takeTrap]
  rfl

/-! ### The member's block (R373, R405) -/

theorem State.mem_collTable (s : State) (job : Job) (k : CollJob) (b : CollBlock) :
    OkThen (fun p => p.2.mem = s.mem) (s.collTable job k b) := by
  dsimp only [State.collTable]
  split
  · exact .ok rfl
  · split
    · exact .ok rfl
    · split
      · exact .error _
      · exact .ok rfl
      · exact .ok (s.mem_engineRead ..)

theorem State.mem_collChecks (s : State) (job : Job) (k : CollJob) : OkThen (fun p => p.2.mem = s.mem) (s.collChecks job k) := by
  unfold State.collChecks
  extract_lets b p1 first
  refine .bind (s.mem_collTable job k b) fun p hp => ?_
  split
  · exact .ok hp
  · dsimp only
    split
    · exact .ok hp
    · split
      · exact .ok hp
      · split
        · exact .error _
        · exact .ok hp
        · split
          · exact .error _
          · exact .ok hp
          · exact .ok hp

theorem collBlockRead_keeps {s : State} {job : Job} {k : CollJob} {j : Nat} (harg : s.collArg = some (job, k, j)) (hnode : k.node = none) :
    ∃ t, exec .collBlockRead s = .next t ∧ t.mem = s.mem := by
  have hread := s.mem_engineRead job (fun i => k.va.toNat + i) (segPas k.blk 0 128) k.pos
  rw [exec_collBlockRead_eq, execCollBlockRead, harg]
  simp only [hnode]
  split
  · next hsome => cases hsome
  · split
    · exact ⟨_, rfl, by rw [(State.Requested.matchAll _).mem, State.mem_takeTrap, State.mem_dropJob, hread]⟩
    · split
      · refine ⟨_, rfl, ?_⟩
        rw [(State.Requested.matchAll _).mem]
        split
        · rw [State.mem_takeTrap, State.mem_dropJob, hread]
        · exact hread
      · split
        · exact ⟨_, rfl, State.mem_engineWalk ..⟩
        · next k1 s2 hchecks =>
          have hs2 : s2.mem = s.mem := (State.mem_collChecks _ _ _ _ hchecks).trans hread
          refine ⟨_, rfl, ?_⟩
          rw [(State.Requested.matchAll _).mem]
          refine (State.Requested.collJoin _ _ _).mem.trans ?_
          split <;> exact hs2

/-! ### A member starts (R374) -/

section
variable {s : State} {job : Job} {k : CollJob} {j : Nat} (harg : s.collArg = some (job, k, j))
include harg

theorem collMemberStart_started (h : k.start.isSome = true ∨ (k.info.timed = true ∧ k.group = [])) :
    exec .collMemberStart s = .next s := by
  rw [exec_collMemberStart_eq, execCollMemberStart, harg]
  exact if_pos h

theorem collMemberStart_begins (hstart : k.start = none) (h : k.info.timed = false ∨ k.group ≠ []) :
    exec .collMemberStart s = .next (s.collBegin job k) := by
  rw [exec_collMemberStart_eq, execCollMemberStart, harg]
  refine if_neg ?_
  rintro (hsome | ⟨htimed, hgroup⟩)
  · rw [hstart] at hsome; cases hsome
  · rcases h with h | h
    · rw [h] at htimed; cases htimed
    · exact h hgroup

end

/-- A collective of s goes on in t and has started at the same cycle. -/
def State.StartKept (s t : State) (id : Nat) : Prop := ∀ m, s.coll? id = some m → ∃ n, t.coll? id = some n ∧ n.2.start = m.2.start

namespace State.StartKept

theorem of_jobs {s t : State} (h : t.jobs = s.jobs) (id : Nat) : s.StartKept t id := fun m hm => ⟨m, (State.coll?_congr h id).trans hm, rfl⟩

theorem trans {s t u : State} {id : Nat} (h : s.StartKept t id) (k : t.StartKept u id) : s.StartKept u id := fun m hm => by
  obtain ⟨n, hn, hstart⟩ := h m hm
  obtain ⟨n', hn', hstart'⟩ := k n hn
  exact ⟨n', hn', hstart'.trans hstart⟩

theorem putColl (s : State) (i : Nat) {f : CollJob → CollJob} (hf : ∀ k, (f k).start = k.start) (id : Nat) :
    s.StartKept (s.putColl i f) id := fun m hm => by
  by_cases h : id = i
  · subst h
    exact ⟨_, State.coll?_putColl_self hm f, hf _⟩
  · exact ⟨m, State.coll?_putColl_other hm h f, rfl⟩

theorem foldl {α : Type} {f : State → α → State} {id : Nat} (hf : ∀ t a, State.StartKept t (f t a) id) (l : List α) (s : State) :
    s.StartKept (l.foldl f s) id := by
  induction l generalizing s with
  | nil => exact of_jobs rfl id
  | cons a l ih => exact (hf s a).trans (ih _)

theorem collEnd (s : State) (job : Job) (k : CollJob) (ck : CollClock) (d : Nat) (id : Nat) : s.StartKept (s.collEnd job k ck d) id :=
  of_jobs (s.jobs_collEnd job k ck d) id

theorem settle (s : State) (group : List Nat) (id : Nat) : s.StartKept (s.settle group) id := by
  dsimp only [State.settle]
  split
  · exact of_jobs rfl id
  · refine foldl (fun t m => ?_) _ s
    split
    · exact of_jobs rfl id
    · refine .trans ?_ (collEnd _ _ _ _ _ id)
      exact putColl t _ (by exact fun _ => rfl) id

end State.StartKept

theorem State.collBegin_starts {s : State} {job : Job} {k : CollJob} (h : s.coll? job.id = some (job, k)) :
    ∃ m, (s.collBegin job k).coll? job.id = some m ∧ m.2.start = some s.clock := by
  unfold State.collBegin
  extract_lets b s1 ok n s2
  have hput : s1.coll? job.id = _ := State.coll?_putColl_self h _
  have hread : s1.StartKept s2 job.id := by
    dsimp only [s2]
    split
    · exact .of_jobs (State.jobs_collStep ..) _
    · exact .of_jobs rfl _
  split
  · exact (hread.trans (.collEnd s2 _ _ _ _ _)) _ hput
  · exact (hread.trans (.settle s2 _ _)) _ hput

/-! ### Source beats (R374, R377) -/

@[simp] theorem State.coll?_collStep (s : State) (job : Job) (ck : CollClock) (d : Nat) (pas : List Nat) (ev : Instr) (j id : Nat) :
    (s.collStep job ck d pas ev j).coll? id = s.coll? id := State.coll?_congr (s.jobs_collStep job ck d pas ev j) id
@[simp] theorem State.coll?_stage (s : State) (die : Nat) (bs : List Byte) (id : Nat) : (s.stage die bs).coll? id = s.coll? id := rfl
@[simp] theorem State.mem_stage (s : State) (die : Nat) (bs : List Byte) : (s.stage die bs).mem = s.mem := rfl
@[simp] theorem State.cores_stage (s : State) (die : Nat) (bs : List Byte) : (s.stage die bs).cores = s.cores := rfl

/-- What a source beat reads. -/
def CollJob.beatPas (k : CollJob) (j : Nat) : List Nat := segPas k.src j (min 256 (k.srcBytes - j))

/-- A source beat has been read into the request, and gone to the hub. -/
def State.sourceRead (s : State) (job : Job) (k : CollJob) (j : Nat) : State :=
  let r := s.engineRead job (fun i => (rankVa k.info.src k.info.srcStride (k.rank.getD 0)).toNat + j + i) (k.beatPas j) k.pos
  (r.2.putColl job.id fun q => { q with data := listSet q.data j r.1 }).stage k.die r.1

theorem State.mem_sourceRead (s : State) (job : Job) (k : CollJob) (j : Nat) : (s.sourceRead job k j).mem = s.mem :=
  s.mem_engineRead ..

theorem State.coll?_sourceRead {s : State} {job : Job} {k : CollJob} (h : s.coll? job.id = some (job, k)) (j : Nat) :
    ∃ m, (s.sourceRead job k j).coll? job.id = some m ∧ listGet? m.2.data j = some (s.engineBytes job.owner (k.beatPas j)) := by
  obtain ⟨m, hm⟩ := Option.isSome_iff_exists.mp (s.collsStay_engineRead job
    (fun i => (rankVa k.info.src k.info.srcStride (k.rank.getD 0)).toNat + j + i) (k.beatPas j) k.pos job.id (by rw [h]; rfl))
  refine ⟨_, State.coll?_putColl_self hm _, ?_⟩
  rw [← s.fst_engineRead]
  exact listGet?_listSet_self ..

/-- The next source beat of a member, if its source goes on, is a cycle away. -/
def State.sourceNext (s : State) (job : Job) (k : CollJob) (j : Nat) : State :=
  let n := min 256 (k.srcBytes - j)
  if j + n < k.srcBytes then
    s.collStep (s.again job) k.info.clock 1 (segPas k.src (j + 256) (min 256 (k.srcBytes - (j + 256)))) .collSourceBeat (j + 256)
  else s

theorem State.sourceNext_eq (s : State) (job : Job) (k : CollJob) (j : Nat) : ∃ l, s.sourceNext job k j = { s with agenda := l } := by
  dsimp only [State.sourceNext]
  split
  · exact s.collStep_eq ..
  · exact ⟨_, rfl⟩

theorem collSourceBeat_eq {s : State} {job : Job} {k : CollJob} {j : Nat} (harg : s.collArg = some (job, k, j))
    (hchunked : k.info.chunked = false) : exec .collSourceBeat s = .next ((s.sourceRead job k j).sourceNext job k j) := by
  have hchunks : k.chunksAt j = [] := by simp [CollJob.chunksAt, hchunked]
  rw [exec_collSourceBeat_eq, execCollSourceBeat, harg]
  simp only [hchunked, hchunks, State.takeChunks, Bool.false_and, Bool.false_eq_true, if_false, ite_self, State.sourceNext,
    State.sourceRead, CollJob.beatPas, CollJob.srcBytes]
  obtain hrank | ⟨r, hrank⟩ := Option.eq_none_or_eq_some k.rank <;> simp only [hrank]

/-- What a source beat has read stands in the request, and not yet in memory. -/
theorem collSourceBeat_reads {s : State} {job : Job} {k : CollJob} {j : Nat} (harg : s.collArg = some (job, k, j))
    (hchunked : k.info.chunked = false) : ∃ t m, exec .collSourceBeat s = .next t ∧ t.mem = s.mem ∧ t.coll? job.id = some m ∧
      listGet? m.2.data j = some (s.engineBytes job.owner (k.beatPas j)) := by
  obtain ⟨m, hm, hdata⟩ := State.coll?_sourceRead (State.collArg_eq_some harg) j
  obtain ⟨l, hl⟩ := (s.sourceRead job k j).sourceNext_eq job k j
  refine ⟨_, m, collSourceBeat_eq harg hchunked, ?_, ?_, hdata⟩
  · rw [hl]
    exact s.mem_sourceRead job k j
  · rw [hl]
    exact hm

/-! ### Destination beats and the end (R369, R374, R375) -/

@[simp] theorem State.cores_writeAs (s : State) (c : CoreId) (ws : List ByteWrite) : (s.writeAs c ws).cores = s.cores := by
  obtain ⟨m, l, h⟩ := s.foldl_writeByteAs_eq c false ws
  rw [State.writeAs, h]
  rfl

/-- The bytes of a destination beat. -/
def State.destBytes (s : State) (k : CollJob) (j : Nat) : List Byte :=
  ((collResult k.info (k.rank.getD 0) ((k.group.filterMap s.coll?).map s.collSource)).drop (256 * j)).take 256

theorem State.getElem?_destBytes (s : State) (k : CollJob) (j : Nat) {i : Nat} (hi : i < 256) : (s.destBytes k j)[i]? =
    (collResult k.info (k.rank.getD 0) ((k.group.filterMap s.coll?).map s.collSource))[256 * j + i]? := by
  rw [State.destBytes, List.getElem?_take_of_lt hi, List.getElem?_drop]

theorem State.lt_length_destBytes (s : State) (k : CollJob) (j : Nat) {i : Nat} (hi : i < 256)
    (hlen : 256 * j + i < (collResult k.info (k.rank.getD 0) ((k.group.filterMap s.coll?).map s.collSource)).length) :
    i < (s.destBytes k j).length := by
  rw [State.destBytes, List.length_take, List.length_drop]
  omega

theorem getElem?_map_segPas (segs : List Seg) (off : Nat) (f : Nat → Byte) {i n : Nat} (hi : i < n) :
    ((segPas segs off n).map f)[i]? = some (f (segPa segs (off + i))) := by
  rw [segPas, List.map_map, List.getElem?_map, List.getElem?_range hi]
  rfl

/-- A destination beat corrects what it reads from memory, and writes its bytes. -/
def State.destWritten (s : State) (job : Job) (k : CollJob) (j : Nat) : State :=
  (s.correct ((k.group.filterMap s.coll?).flatMap fun m => m.2.unread)).putSegs job.owner k.dst
    (rankVa k.info.dst k.info.dstStride (k.rank.getD 0)).toNat (256 * j) (s.destBytes k j)

theorem collDestBeat_eq {s : State} {job : Job} {k : CollJob} {j : Nat} (harg : s.collArg = some (job, k, j)) :
    ∃ t, exec .collDestBeat s = .next t ∧ t.mem = (s.destWritten job k j).mem ∧ t.cores = (s.destWritten job k j).cores := by
  rw [exec_collDestBeat_eq, execCollDestBeat, harg]
  have hstep : ∀ ck d pas ev i, let u := ((s.destWritten job k j).stage k.die (s.destBytes k j)).collStep job ck d pas ev i
      u.mem = (s.destWritten job k j).mem ∧ u.cores = (s.destWritten job k j).cores := fun ck d pas ev i =>
    ⟨(State.Requested.collStep _ _ _ _ _ _ _).mem, (State.Requested.collStep _ _ _ _ _ _ _).cores⟩
  dsimp only
  split
  · exact ⟨_, rfl, hstep ..⟩
  · exact ⟨_, rfl, hstep ..⟩

theorem segPas_subset (segs : List Seg) (off : Nat) {m n : Nat} (h : m ≤ n) : segPas segs off m ⊆ segPas segs off n :=
  List.map_subset _ (List.range_subset.mpr h)

theorem nodup_segPas_of_le {segs : List Seg} {off m n : Nat} (h : m ≤ n) (hnodup : (segPas segs off n).Nodup) : (segPas segs off m).Nodup :=
  hnodup.sublist ((List.range_sublist.mpr h).map _)

/-- What a destination beat leaves in memory: its bytes at their places, and nothing else (R369, R374). -/
theorem State.mem_destWritten {s : State} (hmem : s.MemOk) (job : Job) (k : CollJob) (j : Nat) :
    (∀ pa, pa ∉ segPas k.dst (256 * j) 256 → (s.destWritten job k j).mem.get pa = s.mem.get pa) ∧
    ((segPas k.dst (256 * j) 256).Nodup → (∀ pa ∈ segPas k.dst (256 * j) 256, s.inMotion pa = false) →
      (segPas k.dst (256 * j) (s.destBytes k j).length).map (s.destWritten job k j).mem.get = s.destBytes k j) := by
  have hlen : (s.destBytes k j).length ≤ 256 := List.length_take_le ..
  have hwf : (s.correct ((k.group.filterMap s.coll?).flatMap fun m => m.2.unread)).mem.wf = true := by
    rw [State.mem_correct]
    exact hmem.mem
  refine ⟨fun pa hpa => ?_, fun hnodup hstill => ?_⟩
  · refine (State.get_putSegs_other hwf fun h => hpa (segPas_subset _ _ hlen h)).trans ?_
    rw [State.mem_correct]
  · refine State.map_get_putSegs hwf (nodup_segPas_of_le hlen hnodup) fun pa hpa => ?_
    rw [State.inMotion_correct]
    exact hstill pa (segPas_subset _ _ hlen hpa)

/-- A member that has ended: it is marked so, or its collective's requests are gone. -/
theorem State.Requested.collOver (s : State) (job : Job) (k : CollJob) : s.Requested (s.collOver job k) := by
  dsimp only [State.collOver]
  split
  · exact ⟨_, _, rfl⟩
  · exact .setJob ..

/-- The status in its place. -/
def State.statusWritten (s : State) (job : Job) (k : CollJob) : State :=
  s.putSegs job.owner k.blk k.va.toNat 0x7C (leBytes (k.status.getD 0) 4)

theorem collComplete_eq {s : State} {job : Job} {k : CollJob} {j : Nat} (harg : s.collArg = some (job, k, j)) (hnode : k.node = none) :
    ∃ t, exec .collComplete s = .next t ∧ t.mem = (s.statusWritten job k).mem ∧
      (job.live = true → k.status = some 0 → t.cores = s.cores) := by
  have hover := State.Requested.collOver (s.statusWritten job k) job k
  rw [exec_collComplete_eq, execCollComplete, harg]
  simp only [hnode]
  refine ⟨_, rfl, ?_, fun _ hstatus => ?_⟩
  · split
    · exact hover.mem
    · exact hover.mem
  · rw [if_neg (by simp [hstatus])]
    exact hover.cores.trans (State.cores_writeAs ..)

/-! ### Chunk counters (R377, R378) -/

theorem State.chunk_setChunk_self (s : State) (die c v : Nat) : (s.setChunk die c v).chunk die c = v := by
  have hnone : (s.chunks.filter fun e => e.1 != die || e.2.1 != c).find? (fun e => e.1 == die && e.2.1 == c) = none := by
    refine List.find?_eq_none.mpr fun e he hsame => ?_
    have := (List.mem_filter.mp he).2
    simp only [Bool.and_eq_true, beq_iff_eq] at hsame
    simp [hsame] at this
  simp only [State.chunk, State.setChunk, List.find?_append, hnone, Option.none_or]
  by_cases hv : v = 0 <;> simp [hv]

theorem State.chunk_setChunk_other (s : State) {die c d e : Nat} (v : Nat) (h : (d, e) ≠ (die, c)) :
    (s.setChunk die c v).chunk d e = s.chunk d e := by
  have hkept : ∀ x : Nat × Nat × Nat, (x.1 == d && x.2.1 == e) = true → (x.1 != die || x.2.1 != c) = true := fun x hx => by
    simp only [Bool.and_eq_true, beq_iff_eq] at hx
    obtain ⟨rfl, rfl⟩ := hx
    rw [Bool.or_eq_true, bne_iff_ne, bne_iff_ne, ← not_and_or]
    exact fun heq => h (Prod.ext heq.1 heq.2)
  have hfilter : (s.chunks.filter fun x => x.1 != die || x.2.1 != c).find? (fun x => x.1 == d && x.2.1 == e) =
      s.chunks.find? (fun x => x.1 == d && x.2.1 == e) := by
    rw [List.find?_filter]
    congr 1
    funext x
    rcases hx : (x.1 == d && x.2.1 == e) with _ | _
    · simp
    · simp [hkept x hx]
  have hnew : (if v = 0 then [] else [(die, c, v)]).find? (fun x : Nat × Nat × Nat => x.1 == d && x.2.1 == e) = none := by
    split
    · rfl
    · refine List.find?_eq_none.mpr fun x hx hsame => h ?_
      cases List.mem_singleton.mp hx
      simp only [Bool.and_eq_true, beq_iff_eq] at hsame
      rw [hsame.1, hsame.2]
  simp only [State.chunk, State.setChunk, List.find?_append, hfilter, hnew, Option.or_none]

theorem chunkRelease_counts {s : State} {job : Job} {k : CollJob} {i : Nat} (hready : s.chunkReady s.cur.die = some (job, k, i)) :
    ∃ t, exec .chunkRelease s = .next t ∧ t.mem = s.mem ∧ t.cores = s.cores ∧
      t.chunk k.die (k.info.c0 + i) = s.chunk k.die (k.info.c0 + i) - k.info.threshold := by
  let u := s.setChunk k.die (k.info.c0 + i) (s.chunk k.die (k.info.c0 + i) - k.info.threshold)
  have hreq : ∀ (f : CollJob → CollJob) ev1 ev2 d1 pas1 j1 (p q : Prop) [Decidable p] [Decidable q],
      let u2 := u.putColl job.id f
      let u3 := if p then u2 else u2.collStep job .task d1 pas1 ev1 j1
      u.Requested (if q then u3.collStep job .task 1 [] ev2 0 else u3) := fun f ev1 ev2 d1 pas1 j1 p q _ _ =>
    have h3 := (State.Requested.putColl u job.id f).trans (.ite (p := p) (.refl _) (.collStep _ job .task d1 pas1 ev1 j1))
    .ite (h3.trans (.collStep ..)) h3
  rw [exec_chunkRelease_eq, execChunkRelease, hready]
  refine ⟨_, rfl, (hreq ..).mem, (hreq ..).cores, ?_⟩
  refine ((hreq ..).keeps (fun t => t.chunk k.die (k.info.c0 + i)) fun _ _ => rfl).trans (State.chunk_setChunk_self ..)

section
variable {s : State} {c n : Nat} (harg : s.arg = .ids c n)
include harg

theorem tcincApply_waits (hpending : s.writesPending s.cur s.ord = true) : ∃ t, exec .tcincApply s = .next t ∧ t.mem = s.mem ∧
    t.chunks = s.chunks ∧ ∃ p ∈ t.agenda, p.owner = s.cur ∧ p.ord = s.ord ∧ p.ev = .tcincApply ∧ p.arg = .ids c n := by
  rw [exec_tcincApply_eq, execTcincApply, harg]
  simp only [hpending, if_true]
  exact ⟨_, rfl, rfl, rfl, _, List.mem_append_right _ List.mem_cons_self, rfl, rfl, rfl, rfl⟩

theorem tcincApply_counts (hdone : s.writesPending s.cur s.ord = false) : exec .tcincApply s =
    .next (s.setChunk s.cur.die c (min (s.chunk s.cur.die c + n) (2 ^ 32 - 1))) := by
  rw [exec_tcincApply_eq, execTcincApply, harg]
  simp only [hdone, Bool.false_eq_true, if_false]

end

/-- Settles O52, flit by flit and event by event: a hold that begins and what the reports and retries keep; of a collective, that its
steps change the requests and the agenda alone, what a read leaves in the request, and a beat's and the status's bytes in memory. -/
theorem fabricAndCollectivesPerform : Obligations.FabricAndCollectivesPerform := by
  unfold Obligations.FabricAndCollectivesPerform
  refine ⟨⟨?_, ?_, ?_, ?_⟩, ?_, ?_, ?_⟩
  · exact fun s f harg => ⟨flitArrival_good harg, fun g => flitArrival_arrives harg, flitArrival_bad harg, retryOverrun_over harg,
      fun g => retryOverrun_holds harg⟩
  · exact fun s package port => slackSlotRetry_resends
  · refine fun s m diff harg => ⟨fun hnear => ?_, alignmentFlit_drift harg⟩
    rw [exec_alignmentFlit_eq, execAlignmentFlit, harg]
    exact if_pos hnear
  · refine fun s n h harg => ⟨?_, fun hn => ?_⟩
    · rintro rfl hstage
      refine ⟨s.alignFirst, ?_, s.alignFirst_sets⟩
      rw [exec_alignmentBarrier_eq, execAlignmentBarrier, harg]
      exact if_pos hstage
    · obtain ⟨hmem, hclock⟩ := s.realign_keeps
      exact ⟨_, alignmentBarrier_realigns harg hn, hmem, hclock, _, State.mem_agenda_scheduleDom .., rfl, hclock, rfl, rfl⟩
  · intro s job k j hok harg
    refine ⟨collBlockRead_keeps harg, collMemberStart_started harg, fun hstart h => ?_, fun hchunked => ?_, ?_, fun hnode => ?_⟩
    · have hbegin := State.Requested.collBegin s job k
      obtain ⟨m, hm, hstarted⟩ := State.collBegin_starts (State.collArg_eq_some harg)
      exact ⟨_, m, collMemberStart_begins harg hstart h, hbegin.mem, hbegin.cores, hm, hstarted⟩
    · obtain ⟨t, m, hexec, hmem, hm, hdata⟩ := collSourceBeat_reads harg hchunked
      refine ⟨t, m, hexec, hmem, hm, fun hpoison hledger hstill => hdata.trans (congrArg some ?_)⟩
      exact State.engineBytes_eq hpoison hledger hstill job.owner
    · obtain ⟨t, hexec, hmem, hcores⟩ := collDestBeat_eq harg
      obtain ⟨hother, hwritten⟩ := State.mem_destWritten hok job k j
      refine ⟨t, hexec, fun hsoft => ?_, fun pa hpa => by rw [hmem, hother pa hpa], fun hnodup hstill i hi hlen => ?_⟩
      · rw [hcores]
        exact (State.cores_writeAs ..).trans (by rw [State.correct_of_none _ _ (by simp [hsoft])])
      · have hbyte := congrArg (fun l => l[i]?) (hwritten hnodup hstill)
        rw [hmem, List.getElem!_eq_getElem?_getD, ← State.getElem?_destBytes s k j hi, ← hbyte,
          getElem?_map_segPas _ _ _ (State.lt_length_destBytes s k j hi hlen)]
        rfl
    · obtain ⟨t, hexec, hmem, hcores⟩ := collComplete_eq harg hnode
      refine ⟨t, hexec, fun pa hpa => ?_, fun hnodup hstill => ?_, hcores⟩
      · rw [hmem]
        exact State.get_putSegs_other hok.mem hpa
      · rw [hmem]
        have hbytes := State.map_get_putSegs (o := job.owner) (va := k.va.toNat) (bs := leBytes (k.status.getD 0) 4) hok.mem hnodup hstill
        exact (congrArg leNat hbytes).trans (leNat_leBytes ..)
  · exact fun s job k i => chunkRelease_counts
  · intro s c n harg
    refine ⟨tcincApply_waits harg, fun hdone => ⟨_, tcincApply_counts harg hdone, rfl, rfl, State.chunk_setChunk_self .., fun d e h =>
      State.chunk_setChunk_other _ _ h⟩⟩

end Sys2Proof.Machine
end

section
/-! PROOFS. The frieze's tags, slots and maps (R339 to R347): a tag's fields, the build of a map row by row, and what a port shows after the
boundary of its slot. -/

namespace Sys2Proof.Machine

open Sys2Proof

/-! ### Words of fields -/

/-- A field's share of its word. -/
def fieldShare (f : Nat × Nat × Nat) : Nat := f.2.2 % 2 ^ f.2.1 * 2 ^ f.1

theorem sum_fieldShare_nil : (([] : List (Nat × Nat × Nat)).map fieldShare).sum = 0 := rfl

theorem sum_fieldShare_cons (lo n v : Nat) (fs : List (Nat × Nat × Nat)) :
    (((lo, n, v) :: fs).map fieldShare).sum = v % 2 ^ n * 2 ^ lo + (fs.map fieldShare).sum := by
  rw [List.map_cons, List.sum_cons, fieldShare]

theorem toNat_packWord (fs : List (Nat × Nat × Nat)) : (packWord fs).toNat = (fs.map fieldShare).sum % 2 ^ 64 := by
  have hfold : ∀ acc, fs.foldl (fun acc f => acc + f.2.2 % 2 ^ f.2.1 * 2 ^ f.1) acc = acc + (fs.map fieldShare).sum := by
    induction fs with
    | nil => exact fun acc => rfl
    | cons f fs ih => exact fun acc => by rw [List.foldl_cons, ih, List.map_cons, List.sum_cons, fieldShare, Nat.add_assoc]
  rw [packWord, BitVec.toNat_ofNat, hfold, Nat.zero_add]

/-! ### Tags (R344) -/

theorem leNat_take_lt (bs : List Byte) (n : Nat) : leNat (bs.take n) < 256 ^ n :=
  lt_of_lt_of_le (leNat_lt _) (Nat.pow_le_pow_right (by decide) (List.length_take_le ..))

theorem headTag_lt (h : List Byte) : headTag h < 2 ^ 64 := leNat_take_lt _ 8

theorem headTag_withTag (h : List Byte) {t : Nat} (ht : t < 2 ^ 64) : headTag (withTag h t) = t := by
  have htake : ((withTag h t).drop 0).take 8 = leBytes t 8 := by
    rw [List.drop_zero, withTag, List.take_append_of_le_length (length_leBytes ..).ge, List.take_of_length_le (length_leBytes ..).le]
  rw [headTag, numAt, htake, leNat_leBytes]
  exact Nat.mod_eq_of_lt ht

/-- A count that goes on changes the low 28 bits of its tag alone. -/
theorem setTag_count (t : Nat) (c : Nat) : setTag t 0 28 c / 2 ^ 28 = t / 2 ^ 28 ∧ setTag t 0 28 c % 2 ^ 28 = c % 2 ^ 28 := by
  simp only [setTag, fld]
  omega

theorem setTag_count_lt {t : Nat} (ht : t < 2 ^ 64) (c : Nat) : setTag t 0 28 c < 2 ^ 64 := by
  simp only [setTag, fld]
  omega

theorem tagHolds_eq (t : Word) (n : Nat) : tagHolds t n = (t.toNat / 2 ^ 28 % 16 == 0 && t.toNat / 2 ^ 32 % 65536 == n) := rfl

@[simp] theorem Port.header_putHeader (p : Port) (x : Nat) (h : List Byte) : (p.putHeader x h).header x = h := by
  rw [Port.header, Port.putHeader, listGet?_listSet_self]
  rfl

/-! ### Elements that a test picks from an ascending list -/

/-- The k-th element that passes a test is one that passes it behind k that do. -/
theorem getElem?_filter_eq_some {α : Type} [LinearOrder α] {l : List α} (hl : l.Pairwise (· < ·)) (c : α → Bool) (k : Nat) (r : α) :
    (l.filter c)[k]? = some r ↔ r ∈ l ∧ c r = true ∧ k = (l.filter fun j => decide (j < r) && c j).length := by
  induction l generalizing k with
  | nil => simp
  | cons a l ih =>
    obtain ⟨hhead, htail⟩ := List.pairwise_cons.mp hl
    have hnone : (l.filter fun j => decide (j < a) && c j) = [] := List.filter_eq_nil_iff.mpr fun j hj => by
      simp [(hhead j hj).le]
    by_cases ha : c a = true
    · rw [List.filter_cons_of_pos ha]
      cases k with
      | zero =>
        simp only [List.getElem?_cons_zero, Option.some.injEq]
        constructor
        · rintro rfl
          exact ⟨List.mem_cons_self, ha, by rw [List.filter_cons_of_neg (by simp), hnone]; rfl⟩
        · rintro ⟨hr, -, hlen⟩
          obtain rfl | hr := List.mem_cons.mp hr
          · rfl
          · rw [List.filter_cons_of_pos (by simp [hhead r hr, ha])] at hlen
            cases hlen
      | succ k =>
        rw [List.getElem?_cons_succ, ih htail]
        constructor
        · rintro ⟨hr, hc, rfl⟩
          exact ⟨List.mem_cons_of_mem a hr, hc, by rw [List.filter_cons_of_pos (by simp [hhead r hr, ha])]; rfl⟩
        · rintro ⟨hr, hc, hlen⟩
          obtain rfl | hr := List.mem_cons.mp hr
          · rw [List.filter_cons_of_neg (by simp), hnone] at hlen
            cases hlen
          · rw [List.filter_cons_of_pos (by simp [hhead r hr, ha])] at hlen
            exact ⟨hr, hc, Nat.succ.inj hlen⟩
    · rw [List.filter_cons_of_neg ha, ih htail, List.filter_cons_of_neg (by simp [ha])]
      constructor
      · rintro ⟨hr, hrest⟩
        exact ⟨List.mem_cons_of_mem a hr, hrest⟩
      · rintro ⟨hr, hc, hlen⟩
        obtain rfl | hr := List.mem_cons.mp hr
        · exact absurd hc ha
        · exact ⟨hr, hc, hlen⟩

/-! ### A row at a build (R347) -/

section
variable (cur ret : Word) (row : FzRow)

/-- The row is a primary, a catch-up candidate, or is parked; and what it becomes. -/
def FzRow.isPrim : Bool := row.state != 0 && tagHolds cur row.n
def FzRow.isLate : Bool := row.state == 1 && !tagHolds cur row.n && row.mark != 2 && tagHolds ret row.n
def FzRow.isPark : Bool := row.state == 1 && !tagHolds cur row.n && row.mark == 2
def FzRow.next : FzRow :=
  if row.isPrim cur then { row with state := 1, mark := 1 }
  else if row.isLate cur ret then { row with mark := 2 }
  else if row.isPark cur then { row with state := 2, mark := 0, parks := min (row.parks + 1) 65535 }
  else { row with mark := 0 }

/-- What one row does to a build: each of the four outcomes by the table of R347. -/
theorem Build.row_eq (b : Build) (i : Nat) : b.row cur ret i row = ⟨b.rows ++ [row.next cur ret],
    b.prim ++ (if row.isPrim cur then [(i, prowWord i row cur)] else []),
    b.late ++ (if row.isLate cur ret then [(i, prowWord i row ret)] else []), b.parked + if row.isPark cur then 1 else 0⟩ := by
  by_cases hzero : row.state = 0
  · simp [Build.row, FzRow.next, FzRow.isPrim, FzRow.isLate, FzRow.isPark, hzero]
  by_cases hcur : tagHolds cur row.n = true
  · simp [Build.row, FzRow.next, FzRow.isPrim, FzRow.isLate, FzRow.isPark, hzero, hcur]
  by_cases hlate : row.state = 1 ∧ row.mark ≠ 2 ∧ tagHolds ret row.n
  · simp [Build.row, FzRow.next, FzRow.isPrim, FzRow.isLate, FzRow.isPark, hcur, hlate]
  by_cases hpark : row.state = 1 ∧ row.mark = 2
  · simp [Build.row, FzRow.next, FzRow.isPrim, FzRow.isLate, FzRow.isPark, hcur, hpark]
  · have hno : row.isLate cur ret = false := by
      simpa [FzRow.isLate, hcur, and_assoc] using hlate
    have hstay : row.isPark cur = false := by
      simpa [FzRow.isPark, hcur] using hpark
    have hprim : row.isPrim cur = false := by simp [FzRow.isPrim, hcur]
    simp [Build.row, FzRow.next, hno, hstay, hprim, hzero, hcur, hlate, hpark]

end

/-- What the rows of a list, with their numbers, do to a build one after another. -/
theorem foldl_buildRow (cur ret : Word) (es : List (FzRow × Nat)) (b : Build) :
    es.foldl (fun (b : Build) e => b.row cur ret e.2 e.1) b = ⟨b.rows ++ es.map fun e => e.1.next cur ret,
      b.prim ++ (es.filter fun e => e.1.isPrim cur).map fun e => (e.2, prowWord e.2 e.1 cur),
      b.late ++ (es.filter fun e => e.1.isLate cur ret).map fun e => (e.2, prowWord e.2 e.1 ret),
      b.parked + (es.filter fun e => e.1.isPark cur).length⟩ := by
  induction es generalizing b with
  | nil => simp
  | cons e es ih =>
    rw [List.foldl_cons, ih, Build.row_eq]
    simp only [List.map_cons, List.filter_cons, List.append_assoc, List.singleton_append, Build.mk.injEq, true_and]
    refine ⟨?_, ?_, ?_⟩
    · split <;> simp
    · split <;> simp
    · split
      · simp only [List.length_cons]; omega
      · rfl

/-! ### The map that a port builds (R347) -/

/-- Rows with their numbers. -/
theorem zipIdx_rows (rows : Vector FzRow 64) : rows.toList.zipIdx = (List.finRange 64).map fun i => (rows[i], i.val) := by
  refine List.ext_getElem (by simp) fun k _ _ => ?_
  simp

section
variable (p : Port)

/-- The numbers of the rows that pass a test. -/
def Port.rowsThat (c : FzRow → Bool) : List (Fin 64) := (List.finRange 64).filter fun i => c p.rows[i]

/-- What a port's build makes of it. -/
theorem Port.build_eq : p.build = { p with
    rows := p.rows.map fun row => row.next p.cur p.ret
    built := mapFrom 0 56 ((p.rowsThat fun row => row.isPrim p.cur).map fun i : Fin 64 => (i.val, prowWord i p.rows[i] p.cur)) ++
      mapFrom 56 8 ((p.rowsThat fun row => row.isLate p.cur p.ret).map fun i : Fin 64 => (i.val, prowWord i p.rows[i] p.ret))
    parked := min (p.parked + (p.rowsThat fun row => row.isPark p.cur).length) 65535
    leftOut := min (p.leftOut + ((p.rowsThat fun row => row.isPrim p.cur).length - 56) +
      ((p.rowsThat fun row => row.isLate p.cur p.ret).length - 8)) 65535 } := by
  have hrows : Vector.ofFn (fun i : Fin 64 => ((List.finRange 64).map fun i => p.rows[i].next p.cur p.ret).getD i.val FzRow.zero) =
      p.rows.map fun row => row.next p.cur p.ret := by
    ext i hi
    all_goals simp
  simp only [Port.build, foldl_buildRow, zipIdx_rows, List.filter_map, List.map_map, List.nil_append, Nat.zero_add, List.length_map]
  simp only [Function.comp_def, hrows]
  rfl

end

/-- The entries of a map from a position on. -/
theorem mem_mapFrom {pos n : Nat} {cs : List (Nat × Nat)} {e : Nat × Nat × Nat} :
    e ∈ mapFrom pos n cs ↔ ∃ k < n, cs[k]? = some e.2 ∧ e.1 = pos + k := by
  obtain ⟨q, c⟩ := e
  rw [mapFrom, List.mem_map]
  constructor
  · rintro ⟨⟨d, k⟩, hmem, heq⟩
    rw [List.mk_mem_zipIdx_iff_getElem?] at hmem
    have hk : k < n := by
      by_contra hge
      rw [List.getElem?_eq_none (by rw [List.length_take]; omega)] at hmem
      cases hmem
    rw [List.getElem?_take_of_lt hk] at hmem
    obtain ⟨rfl, rfl⟩ := Prod.mk.inj heq
    exact ⟨k, hk, hmem, rfl⟩
  · rintro ⟨k, hk, hcs, rfl⟩
    exact ⟨(c, k), List.mk_mem_zipIdx_iff_getElem?.mpr ((List.getElem?_take_of_lt hk).trans hcs), rfl⟩

/-- What PROW answers for a row (R349). -/
theorem prowWord_eq (i : Fin 64) (row : FzRow) (t : Word) : prowWord i row t =
    i.val + 2 ^ 6 * (row.addr.toNat / 64 % 2 ^ 42) + 2 ^ 48 * (t.toNat / 2 ^ 32 % 65536) := by
  have hi := i.isLt
  rw [prowWord, toNat_packWord, sum_fieldShare_cons, sum_fieldShare_cons, sum_fieldShare_cons, sum_fieldShare_nil, tagIndex, fld]
  omega

/-- The entries of a port's candidates from a position on: the rows that pass the test, each behind those that pass it before. -/
theorem Port.mem_mapFrom_rowsThat (p : Port) (c : FzRow → Bool) (t : Word) (pos n : Nat) (e : Nat × Nat × Nat) :
    e ∈ mapFrom pos n ((p.rowsThat c).map fun i : Fin 64 => (i.val, prowWord i p.rows[i] t)) ↔
      ∃ r : Fin 64, r.val = e.2.1 ∧ c p.rows[r] = true ∧
        let k := ((List.finRange 64).filter fun j => decide (j < r) && c p.rows[j]).length
        e.1 = pos + k ∧ k < n ∧ e.2.2 = prowWord r p.rows[r] t := by
  have hsorted : (List.finRange 64).Pairwise (· < ·) := (List.sortedLT_finRange 64).pairwise
  rw [mem_mapFrom]
  constructor
  · rintro ⟨k, hk, hget, hpos⟩
    rw [List.getElem?_map, Option.map_eq_some_iff] at hget
    obtain ⟨r, hr, heq⟩ := hget
    obtain ⟨-, hc, rfl⟩ := (getElem?_filter_eq_some hsorted _ _ _).mp hr
    rw [← heq]
    exact ⟨r, rfl, hc, hpos, hk, rfl⟩
  · rintro ⟨r, hval, hc, hpos, hk, hword⟩
    refine ⟨_, hk, ?_, hpos⟩
    rw [List.getElem?_map, Port.rowsThat, (getElem?_filter_eq_some hsorted _ _ r).mpr ⟨List.mem_finRange r, hc, rfl⟩, Option.map_some]
    exact congrArg some (Prod.ext hval hword.symm)

end Sys2Proof.Machine
end

section
/-! PROOFS. A slot's boundary and what follows it (R338 to R347): what the port shows, what the repair leaves alone, the publication of the
map, and the beats of a panel. -/

namespace Sys2Proof.Machine

open Sys2Proof

theorem exec_slotBoundary_eq (s : State) : exec .slotBoundary s = execSlotBoundary s := rfl
theorem exec_mapPublish_eq (s : State) : exec .mapPublish s = execMapPublish s := rfl
theorem exec_panelBeatSend_eq (s : State) : exec .panelBeatSend s = execPanelBeatSend s := rfl
theorem exec_panelBeatLand_eq (s : State) : exec .panelBeatLand s = execPanelBeatLand s := rfl

/-! ### A port behind a boundary (R342, R344, R351) -/

section
variable (p : Port) (g : Ring) (k : Nat)

/-- Whatever reads neither the headers nor what a build sets, and not the tags and places, stays over a boundary. -/
theorem Port.build_keeps {γ : Type} (f : Port → γ) (hf : ∀ q rows built parked leftOut,
    f { q with rows := rows, built := built, parked := parked, leftOut := leftOut } = f q) : f p.build = f p := by
  rw [p.build_eq]
  exact hf ..

theorem Port.count_keeps {γ : Type} (f : Port → γ) (hf : ∀ q h, f { q with headers := h } = f q) : f (p.count g k) = f p := by
  rw [Port.count]
  split
  · exact hf ..
  · rfl

theorem Port.markHole_keeps {γ : Type} (f : Port → γ) (hf : ∀ q h, f { q with headers := h } = f q) : f (p.markHole g k) = f p := by
  rw [Port.markHole]
  split
  · exact hf ..
  · rfl

theorem Port.markHole_none (h : g.holes = []) : p.markHole g k = p := by
  rw [Port.markHole, h]
  rfl

/-- The port with its tags and places switched. -/
def Port.switched : Port := ((p.markHole g k).count g k).switch g k

theorem Port.atBoundary_keeps {γ : Type} (f : Port → γ) (hf : ∀ q rows built parked leftOut,
    f { q with rows := rows, built := built, parked := parked, leftOut := leftOut } = f q) : f (p.atBoundary g k) = f (p.switched g k) := by
  rw [Port.atBoundary]
  exact (apply_ite f ..).trans (by rw [Port.build_keeps _ f hf]; exact ite_self _)

theorem Port.switched_place : (p.switched g k).die = p.die ∧ (p.switched g k).lane = p.lane := by
  constructor
  · exact (Port.count_keeps _ g k Port.die fun _ _ => rfl).trans (p.markHole_keeps g k Port.die fun _ _ => rfl)
  · exact (Port.count_keeps _ g k Port.lane fun _ _ => rfl).trans (p.markHole_keeps g k Port.lane fun _ _ => rfl)

theorem Port.atBoundary_place : (p.atBoundary g k).die = p.die ∧ (p.atBoundary g k).lane = p.lane := by
  rw [p.atBoundary_keeps g k Port.die fun _ _ _ _ _ => rfl, p.atBoundary_keeps g k Port.lane fun _ _ _ _ _ => rfl]
  exact p.switched_place g k

/-- The port shows the tags in the headers of the slot's two places (R342, R351). -/
def Port.Shows (q : Port) : Prop :=
  q.curPlace = g.placeOf k ∧ q.retPlace = g.placeOf ((k : Int) - 1) ∧
    q.cur = BitVec.ofNat 64 (headTag (q.header q.curPlace)) ∧ q.ret = BitVec.ofNat 64 (headTag (q.header q.retPlace))

theorem Port.shows_atBoundary : Port.Shows g k (p.atBoundary g k) := by
  have hkept : Port.Shows g k (p.atBoundary g k) = Port.Shows g k (p.switched g k) :=
    p.atBoundary_keeps g k (Port.Shows g k) fun _ _ _ _ _ => rfl
  rw [hkept]
  exact ⟨rfl, rfl, rfl, rfl⟩

/-- At the counting rank the current panel's count goes on; the tag's other fields stay (R344). -/
theorem Port.headTag_count : let tag := headTag (p.header (g.placeOf k))
    let tag' := headTag ((p.count g k).header (g.placeOf k))
    tag' / 2 ^ 28 = tag / 2 ^ 28 ∧ tag' % 2 ^ 28 = (if p.rank = g.counter then tag + 1 else tag) % 2 ^ 28 := by
  have htag := headTag_lt (p.header (g.placeOf k))
  by_cases hrank : p.rank = g.counter
  · simp only [Port.count, hrank, if_true, Port.header_putHeader, headTag_withTag _ (setTag_count_lt htag _)]
    refine ⟨(setTag_count _ _).1, (setTag_count _ _).2.trans ?_⟩
    rw [fld, Nat.pow_zero, Nat.div_one, Nat.mod_add_mod]
  · simp only [Port.count, hrank, if_false, and_self]

/-- A running port whose ring has no hole builds its map behind the count and the switch. -/
theorem Port.atBoundary_builds (hcarries : p.carries = true) (hholes : g.holes = []) :
    p.atBoundary g k = ((p.count g k).switch g k).build := by
  have hstate : ((p.count g k).switch g k).carries = true := (p.count_keeps g k Port.carries fun _ _ => rfl).trans hcarries
  rw [Port.atBoundary, p.markHole_none g k hholes]
  exact if_pos hstate

end

/-- The table of R347: what a build makes of the rows, the map and the counts. -/
theorem Port.build_table (p : Port) :
    let before := fun (c : FzRow → Bool) (i : Fin 64) => ((List.finRange 64).filter fun j => decide (j < i) && c p.rows[j]).length
    let number := fun (c : FzRow → Bool) => ((List.finRange 64).filter fun i => c p.rows[i]).length
    (∀ i : Fin 64, p.build.rows[i] = p.rows[i].next p.cur p.ret) ∧
    (∀ pos i w, (pos, i, w) ∈ p.build.built ↔ ∃ r : Fin 64, r.val = i ∧
      ((p.rows[r].isPrim p.cur = true ∧ pos = before (·.isPrim p.cur) r ∧ pos < 56 ∧ w = prowWord r p.rows[r] p.cur) ∨
        (p.rows[r].isLate p.cur p.ret = true ∧ pos = 56 + before (·.isLate p.cur p.ret) r ∧ before (·.isLate p.cur p.ret) r < 8 ∧
          w = prowWord r p.rows[r] p.ret))) ∧
    p.build.parked = min (p.parked + number (·.isPark p.cur)) 65535 ∧
    p.build.leftOut = min (p.leftOut + (number (·.isPrim p.cur) - 56) + (number (·.isLate p.cur p.ret) - 8)) 65535 := by
  rw [p.build_eq]
  refine ⟨fun i => by simp, fun pos i w => ?_, rfl, rfl⟩
  rw [List.mem_append, p.mem_mapFrom_rowsThat, p.mem_mapFrom_rowsThat]
  simp only [Nat.zero_add]
  constructor
  · rintro (⟨r, hr, hc, hpos, hk, hw⟩ | ⟨r, hr, hc, hpos, hk, hw⟩)
    · exact ⟨r, hr, .inl ⟨hc, hpos, hpos ▸ hk, hw⟩⟩
    · exact ⟨r, hr, .inr ⟨hc, hpos, hk, hw⟩⟩
  · rintro ⟨r, hr, ⟨hc, hpos, hk, hw⟩ | ⟨hc, hpos, hk, hw⟩⟩
    · exact .inl ⟨r, hr, hc, hpos, hpos ▸ hk, hw⟩
    · exact .inr ⟨r, hr, hc, hpos, hk, hw⟩

/-! ### The ports of a state -/

theorem State.actingPort_eq_some {s : State} {g : Ring} {p : Port} (h : s.actingPort g = some p) :
    s.port? s.cur.die g.lane = some p ∧ p ∈ s.ports ∧ p.die = s.cur.die ∧ p.lane = g.lane ∧ p.ring = g.id ∧ 1 ≤ p.state := by
  unfold State.actingPort at h
  split at h
  · next q hport =>
    split at h
    · next hring =>
      cases h
      have hsame := List.find?_some hport
      simp only [Bool.and_eq_true, beq_iff_eq] at hsame
      exact ⟨hport, List.mem_of_find?_eq_some hport, hsame.1, hsame.2, hring.1, hring.2⟩
    · exact absurd h nofun
  · exact absurd h nofun

theorem State.mem_ports_modPort {s : State} {die : Nat} {l : FzLane} {f : Port → Port} {q : Port} :
    q ∈ (s.modPort die l f).ports ↔ ∃ r ∈ s.ports, (if r.die = die ∧ r.lane = l then f r else r) = q := List.mem_map

theorem State.mem_ports_modPort_of_other {s : State} {die : Nat} {l : FzLane} {f : Port → Port} {q : Port} (hq : q ∈ s.ports)
    (hother : ¬ (q.die = die ∧ q.lane = l)) : q ∈ (s.modPort die l f).ports :=
  State.mem_ports_modPort.mpr ⟨q, hq, if_neg hother⟩

/-- A port that a change of one port leaves at this port comes from it. -/
theorem State.eq_of_mem_ports_modPort {s : State} {die : Nat} {l : FzLane} {f : Port → Port} {q : Port} (hq : q ∈ (s.modPort die l f).ports) (hmine : q.die = die ∧ q.lane = l) : ∃ r ∈ s.ports, (r.die = die ∧ r.lane = l) ∧ q = f r := by
  obtain ⟨r, hr, rfl⟩ := State.mem_ports_modPort.mp hq
  by_cases h : r.die = die ∧ r.lane = l
  · exact ⟨r, hr, h, if_pos h⟩
  · rw [if_neg h] at hmine
    exact absurd hmine h

/-- Every port of s that is neither the given one nor in its ring stays. -/
def State.OthersStay (g : Ring) (p : Port) (s t : State) : Prop :=
  ∀ q ∈ s.ports, q.ring ≠ g.id → ¬ (q.die = p.die ∧ q.lane = p.lane) → q ∈ t.ports

namespace State.OthersStay

variable {g : Ring} {p : Port} {s t u : State}

theorem of_ports (h : t.ports = s.ports) : s.OthersStay g p t := fun _ hq _ _ => h ▸ hq

theorem trans (h : s.OthersStay g p t) (k : t.OthersStay g p u) : s.OthersStay g p u := fun q hq hring hother =>
  k q (h q hq hring hother) hring hother

theorem modPort (s : State) (f : Port → Port) : s.OthersStay g p (s.modPort p.die p.lane f) := fun _ hq _ hother =>
  State.mem_ports_modPort_of_other hq hother

theorem modPorts (s : State) (f : Port → Port) : s.OthersStay g p (s.modPorts g.id f) := fun _ hq hring _ =>
  List.mem_map.mpr ⟨_, hq, if_neg hring⟩

end State.OthersStay

/-! ### Places (R340) -/

theorem State.writePlace_keeps {γ : Type} (f : State → γ) (hf : ∀ t pa bs, f (State.poke t pa bs) = f t) (s : State) (die : Nat) (l : FzLane)
    (x b n : Nat) (bs : List Byte) : f (s.writePlace die l x b n bs) = f s := foldl_keeps f _ (fun _ _ => hf ..) _ s

@[simp] theorem State.ports_writePlace (s : State) (die : Nat) (l : FzLane) (x b n : Nat) (bs : List Byte) :
    (s.writePlace die l x b n bs).ports = s.ports := s.writePlace_keeps State.ports (fun _ _ _ => rfl) die l x b n bs
@[simp] theorem State.cores_writePlace (s : State) (die : Nat) (l : FzLane) (x b n : Nat) (bs : List Byte) :
    (s.writePlace die l x b n bs).cores = s.cores := s.writePlace_keeps State.cores (fun _ _ _ => rfl) die l x b n bs
@[simp] theorem State.rings_writePlace (s : State) (die : Nat) (l : FzLane) (x b n : Nat) (bs : List Byte) :
    (s.writePlace die l x b n bs).rings = s.rings := s.writePlace_keeps State.rings (fun _ _ _ => rfl) die l x b n bs
@[simp] theorem State.agenda_writePlace (s : State) (die : Nat) (l : FzLane) (x b n : Nat) (bs : List Byte) :
    (s.writePlace die l x b n bs).agenda = s.agenda := s.writePlace_keeps State.agenda (fun _ _ _ => rfl) die l x b n bs

@[simp] theorem State.ports_correct (s : State) (pas : List Nat) : (s.correct pas).ports = s.ports := by
  obtain ⟨cs, sf, h⟩ := s.correct_eq pas
  rw [h]

/-! ### What a repair leaves alone (R355) -/

namespace State.OthersStay

variable {g : Ring} {p : Port}

theorem breakRing (s : State) : s.OthersStay g p (s.breakRing g) := (modPorts s _).trans (of_ports rfl)

theorem ringWhole (s : State) : s.OthersStay g p (s.ringWhole g) := by
  rw [State.ringWhole]
  split
  · exact modPorts s _
  · exact of_ports rfl

theorem accumulate (s : State) (k : Nat) : s.OthersStay g p (s.accumulate g p k) := by
  unfold State.accumulate
  extract_lets h t
  split
  · exact of_ports rfl
  · extract_lets mine s1
    have hs1 : s1.ports = s.ports := foldl_keeps State.ports _ (fun _ _ => State.ports_writePlace ..) _ s
    exact (of_ports hs1).trans (modPort s1 _)

theorem endRebuild (s : State) {q : Port} (hdie : q.die = p.die) (hlane : q.lane = p.lane) (k : Nat) :
    s.OthersStay g p (s.endRebuild g q k) := by
  rw [State.endRebuild, hdie, hlane]
  split
  · exact modPort s _
  · exact breakRing s

theorem repairSlot (s : State) (k : Nat) : s.OthersStay g p (s.repairSlot g p k) := by
  unfold State.repairSlot
  split
  · split
    · split
      · exact of_ports rfl
      · extract_lets s1
        have hs1 : s.OthersStay g p s1 := (of_ports (State.ports_correct ..)).trans (accumulate _ _)
        split
        · split
          · next q hq =>
            have hsame := List.find?_some hq
            simp only [Bool.and_eq_true, beq_iff_eq] at hsame
            exact hs1.trans (endRebuild s1 hsame.1 hsame.2 k)
          · exact hs1
        · exact hs1
    · exact ringWhole s
  · exact ringWhole s
  · exact modPort s _
  · exact of_ports rfl

end State.OthersStay

/-- Outside a repair the boundary starts a loaded port, and no more. -/
theorem State.repairSlot_running {s : State} {p : Port} (hlo : 1 ≤ p.state) (hhi : p.state ≤ 2) (g : Ring) (k : Nat) :
    s.repairSlot g p k = if p.state = 1 then s.modPort p.die p.lane fun q => { q with state := 2 } else s := by
  unfold State.repairSlot
  split
  · omega
  · omega
  · next h => rw [if_pos h]
  · exact (if_neg ‹_›).symm

/-! ### The boundary of a slot (R347, R351) -/

/-- The port is switched, and what it showed before is kept. -/
def Port.passed (g : Ring) (t : Nat) (q : Port) : Port :=
  { q.atBoundary g (t / 2048) with was := some ⟨t, q.cur, q.ret, q.curPlace, q.retPlace, q.rows, q.parked, q.leftOut⟩ }

/-- The port of the acting die after its boundary. -/
def State.boundary (s : State) (g : Ring) (p : Port) (t : Nat) : State :=
  (s.repairSlot g p (t / 2048)).modPort p.die p.lane (Port.passed g t)

section
variable {s : State} {g : Ring} {t : Nat} (harg : s.laneArg = some (g, t))
include harg

theorem slotBoundary_eq {p : Port} (hport : s.actingPort g = some p) : exec .slotBoundary s =
    .next (((s.boundary g p t).ringEvent g (t + 16) s.cur .mapPublish).ringEvent g (t + 2048) s.cur .slotBoundary) := by
  rw [exec_slotBoundary_eq, execSlotBoundary, harg]
  simp only [hport]
  rfl

theorem frieze_absent (hport : s.actingPort g = none) : exec .slotBoundary s = .next s ∧ exec .mapPublish s = .next s ∧
    exec .panelBeatSend s = .next s ∧ exec .panelBeatLand s = .next s := by
  rw [exec_slotBoundary_eq, exec_mapPublish_eq, exec_panelBeatSend_eq, exec_panelBeatLand_eq, execSlotBoundary, execMapPublish,
    execPanelBeatSend, execPanelBeatLand, harg]
  simp only [hport, and_self]

end

theorem State.boundary_running {s : State} {p : Port} (hlo : 1 ≤ p.state) (hhi : p.state ≤ 2) (g : Ring) (t : Nat) :
    (s.boundary g p t).mem = s.mem ∧ (s.boundary g p t).cores = s.cores := by
  rw [State.boundary, State.repairSlot_running hlo hhi]
  split <;> exact ⟨rfl, rfl⟩

theorem State.othersStay_boundary (s : State) (g : Ring) (p : Port) (t : Nat) : s.OthersStay g p (s.boundary g p t) :=
  (OthersStay.repairSlot s _).trans (OthersStay.modPort _ _)

theorem Port.shows_passed (g : Ring) (t : Nat) (q : Port) : Port.Shows g (t / 2048) (q.passed g t) := q.shows_atBoundary g (t / 2048)

/-- The acting port behind its boundary comes from a port at its place. -/
theorem State.eq_of_mem_ports_boundary {s : State} {g : Ring} {p q : Port} {t : Nat} (hq : q ∈ (s.boundary g p t).ports)
    (hmine : q.die = p.die ∧ q.lane = p.lane) : ∃ r, q = Port.passed g t r := by
  obtain ⟨r, -, -, h⟩ := State.eq_of_mem_ports_modPort hq hmine
  exact ⟨r, h⟩

/-- The one port at its place runs from its boundary on. -/
theorem State.eq_of_mem_ports_boundary_running {s : State} {g : Ring} {p q : Port} {t : Nat} (hq : q ∈ (s.boundary g p t).ports)
    (hmine : q.die = p.die ∧ q.lane = p.lane) (hlo : 1 ≤ p.state) (hhi : p.state ≤ 2)
    (hone : s.ports.filter (fun q => q.die == p.die && q.lane == p.lane) = [p]) : q = Port.passed g t { p with state := 2 } := by
  have honly : ∀ r ∈ s.ports, r.die = p.die ∧ r.lane = p.lane → r = p := fun r hr hsame =>
    List.mem_singleton.mp (hone ▸ List.mem_filter.mpr ⟨hr, by simp [hsame]⟩)
  obtain ⟨r, hr, hsame, rfl⟩ := State.eq_of_mem_ports_modPort hq hmine
  rw [State.repairSlot_running hlo hhi] at hr
  congr 1
  split at hr
  · obtain ⟨r', hr', hsame', rfl⟩ := State.eq_of_mem_ports_modPort hr hsame
    rw [honly r' hr' hsame']
  · next hstate =>
    rw [honly r hr hsame]
    have h2 : p.state = 2 := by omega
    rw [← h2]

end Sys2Proof.Machine
end

section
/-! PROOFS. The publication of a map and the beats of a panel (R338, R342, R347): what is read and sent, and what is written where it
lands. -/

namespace Sys2Proof.Machine

open Sys2Proof

/-! ### Rings and lanes after a change -/

theorem State.ring?_modRing {s : State} {r i : Nat} {f : Ring → Ring} (hf : ∀ g, (f g).id = g.id) :
    (s.modRing r f).ring? i = (s.ring? i).map fun g => if g.id = r then f g else g := by
  have hsame : ((fun g : Ring => g.id == i) ∘ fun g => if g.id = r then f g else g) = fun g : Ring => g.id == i := by
    funext g
    by_cases h : g.id = r <;> simp [h, hf]
  rw [State.ring?, State.ring?, State.modRing, List.find?_map, hsame]

theorem State.ring_of_laneArg {s : State} {g : Ring} {t : Nat} (h : s.laneArg = some (g, t)) : s.ring? g.id = some g := by
  unfold State.laneArg at h
  split at h
  · obtain ⟨k, hk, heq⟩ := Option.map_eq_some_iff.mp h
    cases heq
    have hid : g.id = _ := beq_iff_eq.mp (List.find?_some (p := fun g : Ring => g.id == _) hk)
    rw [hid]
    exact hk
  · exact absurd h nofun

theorem State.port?_modPort {s : State} {die d : Nat} {l l' : FzLane} {f : Port → Port} (hf : ∀ q, (f q).die = q.die ∧ (f q).lane = q.lane) :
    (s.modPort die l f).port? d l' = (s.port? d l').map fun p => if p.die = die ∧ p.lane = l then f p else p := by
  have hsame : ((fun q : Port => q.die == d && q.lane == l') ∘ fun p => if p.die = die ∧ p.lane = l then f p else p) =
      fun q : Port => q.die == d && q.lane == l' := by
    funext q
    by_cases h : q.die = die ∧ q.lane = l <;> simp [h, hf]
  rw [State.port?, State.port?, State.modPort, List.find?_map, hsame]

/-- A ring whose id and number of places stay leaves every lane its places. -/
theorem State.lanePlaces_modRing (s : State) (r : Nat) {f : Ring → Ring} (hf : ∀ g, (f g).id = g.id ∧ (f g).q = g.q) (die : Nat) (l : FzLane) :
    (s.modRing r f).lanePlaces die l = s.lanePlaces die l := by
  have hring : ∀ i, (s.modRing r f).ring? i = (s.ring? i).map fun g => if g.id = r then f g else g := fun i =>
    State.ring?_modRing fun g => (hf g).1
  have hplaces : ∀ g : Ring, Ring.places (if g.id = r then f g else g) = g.places := fun g => by
    split
    · rw [Ring.places, Ring.places, (hf g).2]
    · rfl
  have hport : (s.modRing r f).port? die l = s.port? die l := rfl
  rw [State.lanePlaces, State.lanePlaces, hport]
  cases s.port? die l with
  | none => rfl
  | some p =>
    by_cases hstate : p.state = 0
    · simp only [Option.bind_some, if_pos hstate]
    · simp only [Option.bind_some, if_neg hstate, hring]
      cases s.ring? p.ring with
      | none => rfl
      | some g => exact hplaces g

/-- A port whose place, ring and state stay leaves every lane its places. -/
theorem State.lanePlaces_modPort (s : State) (d : Nat) (m : FzLane) {f : Port → Port}
    (hf : ∀ q, (f q).die = q.die ∧ (f q).lane = q.lane ∧ (f q).state = q.state ∧ (f q).ring = q.ring) (die : Nat) (l : FzLane) :
    (s.modPort d m f).lanePlaces die l = s.lanePlaces die l := by
  rw [State.lanePlaces, State.lanePlaces, State.port?_modPort fun q => ⟨(hf q).1, (hf q).2.1⟩]
  cases s.port? die l with
  | none => rfl
  | some p =>
    have hstate : (if p.die = d ∧ p.lane = m then f p else p).state = p.state := by split <;> simp only [hf]
    have hring : (if p.die = d ∧ p.lane = m then f p else p).ring = p.ring := by split <;> simp only [hf]
    simp only [Option.map_some, Option.bind_some, hstate, hring]
    rfl

theorem State.placePa_congr {s t : State} (h : ∀ die l, t.lanePlaces die l = s.lanePlaces die l) (die : Nat) (l : FzLane) (x i b : Nat) :
    t.placePa die l x i b = s.placePa die l x i b := by
  have hoff : t.laneOff die l = s.laneOff die l := by
    cases l with
    | e => rfl
    | w => simp only [State.laneOff, h]
  rw [State.placePa, State.placePa, hoff]

/-! ### The publication (R347) -/

/-- The port's map, built at the boundary, is what PROW reads from now on. -/
def Port.published (t : Nat) (q : Port) : Port := if q.carries then { q with map := q.built, mapWas := some (t, q.map) } else q

theorem Port.published_spec (t : Nat) (q : Port) : (q.published t).carries = true → (q.published t).map = (q.published t).built := by
  unfold Port.published
  split
  · exact fun _ => rfl
  · next h => exact fun hq => absurd hq h

theorem mapPublish_eq {s : State} {g : Ring} {t : Nat} {p : Port} (harg : s.laneArg = some (g, t)) (hport : s.actingPort g = some p) :
    exec .mapPublish s = .next (s.modPort p.die p.lane (Port.published t)) := by
  rw [exec_mapPublish_eq, execMapPublish, harg]
  simp only [hport]
  rfl

/-! ### A beat is sent (R338, R342, R354) -/

/-- The oldest place's beat for the cycle in which it lands. -/
def State.oldestBeat (s : State) (g : Ring) (p : Port) (t : Nat) : List Byte :=
  let x := g.placeOf (t / 2048 + 1)
  let body := s.readPlace p.die g.lane x (32 * (t % 2048)) 32
  if t % 2048 = 0 then p.header x ++ body else body

/-- The beat is read, and on its way to the rank that it reaches next. -/
def State.beatSent (s : State) (g : Ring) (p : Port) (now r m : Nat) : State :=
  let t := now + 64
  let due := t + 2048 * g.q * m
  ((((s.correctPlace p.die g.lane (g.placeOf (t / 2048 + 1)) (32 * (t % 2048)) 32).ringEvent g (now + 1) s.cur .panelBeatSend).modRing
    g.id fun h => { h with beats := h.beats ++ [(r, due, s.oldestBeat g p t)] }).ringEvent g due (portId (g.dieOf r)) .panelBeatLand)

theorem panelBeatSend_eq {s : State} {g : Ring} {t r m : Nat} {p : Port} (harg : s.laneArg = some (g, t)) (hport : s.actingPort g = some p)
    (hnext : g.nextFrom p.rank = some (r, m)) :
    let x := g.placeOf (((t + 64 : Nat) : Int) / 2048 + 1)
    let b := 32 * ((t + 64) % 2048)
    exec .panelBeatSend s = .next (if m = 0 ∨ 16 < g.q then s.beatSent g p t r m
      else (s.beatSent g p t r m).writePlace (g.dieOf r) g.lane (g.q + x) b 32 (s.readPlace p.die g.lane x b 32)) := by
  rw [exec_panelBeatSend_eq, execPanelBeatSend, harg]
  simp only [hport, hnext]
  rfl

/-- What the beat adds: itself, behind the others, its landing, and the next one's sending. -/
theorem State.beatSent_adds {s : State} {g : Ring} (hring : s.ring? g.id = some g) (p : Port) (now r m : Nat) :
    let due := now + 64 + 2048 * g.q * m
    (s.beatSent g p now r m).mem = s.mem ∧ (s.soft = [] → (s.beatSent g p now r m).cores = s.cores) ∧
    (s.beatSent g p now r m).ring? g.id = some { g with beats := g.beats ++ [(r, due, s.oldestBeat g p (now + 64))] } ∧
    (∃ e ∈ (s.beatSent g p now r m).agenda, e.clk = .port (g.dieOf r) g.lane ∧ e.due = due ∧ e.owner = portId (g.dieOf r) ∧
      e.ev = .panelBeatLand) ∧
    ∃ e ∈ (s.beatSent g p now r m).agenda, e.clk = .port s.cur.die g.lane ∧ e.due = now + 1 ∧ e.owner = s.cur ∧ e.ev = .panelBeatSend := by
  have hfixed : ∀ pas, (s.correct pas).ring? g.id = s.ring? g.id := fun pas => by
    obtain ⟨cs, sf, h⟩ := s.correct_eq pas
    rw [h]
    rfl
  have hcores : s.soft = [] → ∀ pas, (s.correct pas).cores = s.cores := fun hsoft pas => by rw [State.correct_of_none _ _ hsoft]
  refine ⟨State.mem_correct .., fun hsoft => hcores hsoft _, ?_, ⟨_, List.mem_append_right _ List.mem_cons_self, rfl, rfl, rfl, rfl⟩,
    ⟨_, List.mem_append_left _ (List.mem_append_right _ List.mem_cons_self), rfl, rfl, rfl, rfl⟩⟩
  change State.ring? (State.modRing (State.ringEvent (s.correctPlace ..) ..) g.id fun h => _) g.id = _
  rw [State.ring?_modRing]
  · change Option.map _ ((s.correctPlace ..).ring? g.id) = _
    rw [State.correctPlace, hfixed, hring, Option.map_some, if_pos rfl]
  · exact fun _ => rfl

theorem State.readPlace_clean {s : State} {die : Nat} {l : FzLane} {x b : Nat}
    (hclean : ∀ i < 96, s.Clean (pasFrom (s.placePa die l x i b) 32)) :
    s.readPlace die l x b 32 = (List.range 96).flatMap fun i => (pasFrom (s.placePa die l x i b) 32).map s.mem.get := by
  rw [State.readPlace]
  refine List.flatMap_congr fun i hi => List.map_congr_left fun pa hpa => ?_
  obtain ⟨hpoison, hstill⟩ := hclean i (List.mem_range.mp hi)
  simp only [State.poison_eq_false hpoison hpa, State.byteAt, hstill pa hpa, Bool.false_eq_true, if_false]

/-- A clean place's beat is what memory holds there, behind the header on beat 0. -/
theorem State.oldestBeat_clean {s : State} {g : Ring} {p : Port} {t : Nat}
    (hclean : ∀ i < 96, s.Clean (pasFrom (s.placePa p.die g.lane (g.placeOf (t / 2048 + 1)) i (32 * (t % 2048))) 32)) :
    s.oldestBeat g p t = (if t % 2048 = 0 then p.header (g.placeOf (t / 2048 + 1)) else []) ++ (List.range 96).flatMap fun i =>
      (pasFrom (s.placePa p.die g.lane (g.placeOf (t / 2048 + 1)) i (32 * (t % 2048))) 32).map s.mem.get := by
  rw [State.oldestBeat, State.readPlace_clean hclean]
  by_cases hfirst : t % 2048 = 0
  · rw [if_pos hfirst, if_pos hfirst]
  · rw [if_neg hfirst, if_neg hfirst, List.nil_append]

/-! ### A beat lands (R342) -/

/-- Blocks written one behind another, at places that lie apart, stand there in the end. -/
theorem State.get_foldl_poke {s : State} {base d n : Nat} (hd : n ≤ d) (hwf : s.mem.wf = true) {bytes : Nat → List Byte} {is : List Nat}
    (hle : ∀ j, (bytes j).length ≤ n) (hnodup : is.Nodup) {i : Nat} (hi : i ∈ is) (hlen : (bytes i).length = n)
    (hstill : ∀ pa ∈ pasFrom (base + d * i) n, s.inMotion pa = false) :
    (pasFrom (base + d * i) n).map (is.foldl (fun (t : State) i => t.poke (base + d * i) (bytes i)) s).mem.get = bytes i := by
  have hapart : ∀ {i j : Nat}, j ≠ i → ∀ pa ∈ pasFrom (base + d * i) n, pa ∉ pasFrom (base + d * j) (bytes j).length :=
    fun {i j} hne pa hpa hpa' => by
      have hj := hle j
      rw [mem_pasFrom] at hpa hpa'
      obtain h | h := Nat.lt_or_gt_of_ne hne
      · have := Nat.mul_le_mul_left d (Nat.succ_le_of_lt h)
        rw [Nat.mul_succ] at this
        omega
      · have := Nat.mul_le_mul_left d (Nat.succ_le_of_lt h)
        rw [Nat.mul_succ] at this
        omega
  refine foldl_writes_written (step := fun (t : State) i => t.poke (base + d * i) (bytes i)) (key := id)
    (read := fun (t : State) i => (pasFrom (base + d * i) n).map t.mem.get) (ok := s.Writable)
    (fun t j ht => ⟨t.stored_wf _ _ ht.1, ht.2⟩) (fun t j i ht hne => ?_) ⟨hwf, fun _ => rfl⟩ (by rwa [List.map_id]) hi fun t ht => ?_
  · exact List.map_congr_left fun pa hpa => State.get_poke_other ht.1 (hapart hne pa hpa)
  · have hget := State.map_get_poke (pa := base + d * i) (bs := bytes i) ht.1 fun pa hpa => (ht.2 pa).trans (hstill pa (hlen ▸ hpa))
    rwa [hlen] at hget

theorem State.placePa_slice (s : State) (die : Nat) (l : FzLane) (x i b : Nat) :
    s.placePa die l x i b = s.placePa die l x 0 b + 2 ^ 31 * i := by
  simp only [State.placePa, vaultBase]
  omega

/-- Bytes written to a place stand in its slices. -/
theorem State.get_writePlace {s : State} {die : Nat} {l : FzLane} {x b : Nat} {bs : List Byte} (hwf : s.mem.wf = true)
    (hlen : bs.length = 3072) {i k : Nat} (hi : i < 96) (hk : k < 32)
    (hstill : ∀ pa ∈ pasFrom (s.placePa die l x i b) 32, s.inMotion pa = false) :
    (s.writePlace die l x b 32 bs).mem.get (s.placePa die l x i b + k) = bs[32 * i + k]! := by
  have hpiece : ((bs.drop (32 * i)).take 32).length = 32 := by rw [List.length_take, List.length_drop]; omega
  rw [s.placePa_slice die l x i b] at hstill ⊢
  have hblock := congrArg (fun l => l[k]?) (State.get_foldl_poke (bytes := fun i => (bs.drop (32 * i)).take 32) (n := 32)
    (by norm_num) hwf (fun _ => List.length_take_le ..) List.nodup_range (List.mem_range.mpr hi) hpiece hstill)
  have hfold : s.writePlace die l x b 32 bs = (List.range 96).foldl
      (fun (t : State) i => t.poke (s.placePa die l x 0 b + 2 ^ 31 * i) ((bs.drop (32 * i)).take 32)) s := by
    simp only [State.writePlace, ← s.placePa_slice die l x _ b]
  rw [hfold, List.getElem!_eq_getElem?_getD]
  rw [List.getElem?_take_of_lt hk, List.getElem?_drop, List.getElem?_map, pasFrom, List.getElem?_map, List.getElem?_range hk] at hblock
  rw [← hblock]
  rfl

/-- The beat's ring record with the beat taken away. -/
def State.beatTaken (s : State) (g : Ring) (p : Port) (t : Nat) : State :=
  s.modRing g.id fun h => { h with beats := h.beats.filter fun b => b.1 != p.rank || b.2.1 != t }

/-- The header lands with beat 0. -/
def State.headLanded (s : State) (g : Ring) (p : Port) (t : Nat) (head : List Byte) : State :=
  if t % 2048 = 0 then (s.beatTaken g p t).modPort p.die g.lane fun q => q.landHeader (g.placeOf (t / 2048 + 1)) head
  else s.beatTaken g p t

theorem State.headLanded_keeps (s : State) (g : Ring) (p : Port) (t : Nat) (head : List Byte) :
    (s.headLanded g p t head).mem = s.mem ∧ (s.headLanded g p t head).cores = s.cores ∧
    (∀ pa, (s.headLanded g p t head).inMotion pa = s.inMotion pa) ∧
    ∀ die l x i b, (s.headLanded g p t head).placePa die l x i b = s.placePa die l x i b := by
  have htaken : ∀ die l, (s.beatTaken g p t).lanePlaces die l = s.lanePlaces die l :=
    s.lanePlaces_modRing g.id fun _ => ⟨rfl, rfl⟩
  unfold State.headLanded
  split
  · refine ⟨rfl, rfl, fun _ => rfl, State.placePa_congr fun die l => ?_⟩
    exact (State.lanePlaces_modPort (f := fun q => q.landHeader (g.placeOf (t / 2048 + 1)) head) _ p.die g.lane
      (fun _ => ⟨rfl, rfl, rfl, rfl⟩) die l).trans (htaken die l)
  · exact ⟨rfl, rfl, fun _ => rfl, State.placePa_congr htaken⟩

theorem panelBeatLand_eq {s : State} {g : Ring} {t b : Nat} {p : Port} {bs : List Byte} (harg : s.laneArg = some (g, t))
    (hport : s.actingPort g = some p) (hbeat : g.beats.find? (fun b => b.1 == p.rank && b.2.1 == t) = some (b, t, bs)) (haccs : p.accs = []) :
    let head := if t % 2048 = 0 then bs.take 256 else p.header (g.placeOf (t / 2048 + 1))
    let body := if t % 2048 = 0 then bs.drop 256 else bs
    exec .panelBeatLand s = .next (if tagKind (headTag head) = 4 then s.headLanded g p t head
      else (s.headLanded g p t head).writePlace p.die g.lane (g.placeOf (t / 2048 + 1)) (32 * (t % 2048)) 32 body) := by
  rw [exec_panelBeatLand_eq, execPanelBeatLand, harg]
  simp only [hport, hbeat, haccs, List.find?_nil]
  rfl

end Sys2Proof.Machine
end

section
/-! PROOFS. PDONE at its port, and the loss of a die (R350, R352 to R356): the rows that change, the tasks that end, the bypass and the cut. -/

namespace Sys2Proof.Machine

open Sys2Proof

theorem exec_pdoneApply_eq (s : State) : exec .pdoneApply s = execPdoneApply s := rfl
theorem exec_dieLoss_eq (s : State) : exec .dieLoss s = execDieLoss s := rfl

/-! ### PDONE (R350, R352) -/

/-- TINFO of a PDONE's fault, field by field. -/
theorem PdoneReq.info_eq {r : PdoneReq} (hrow : r.row < 64) (row : FzRow) : r.info row =
    BitVec.ofNat 64 (r.row + (match r.lane with | .e => 0 | .w => 2 ^ 6) + 2 ^ 8 * (row.state % 4) + 2 ^ 16 * (row.n % 2 ^ 16) +
      2 ^ 32 * r.n.toNat) := by
  have hn := r.n.isLt
  refine BitVec.eq_of_toNat_eq ?_
  rw [PdoneReq.info, toNat_packWord, sum_fieldShare_cons, sum_fieldShare_cons, sum_fieldShare_cons, sum_fieldShare_cons,
    sum_fieldShare_cons, sum_fieldShare_nil, BitVec.toNat_ofNat]
  cases r.lane <;> dsimp only <;> omega

theorem State.pdoneView_of_no_hold {s : State} (h : s.holds = []) (id : CoreId) (l : FzLane) : s.pdoneView id l = s.port? id.die l := by
  rw [State.pdoneView]
  simp only [State.fzSkew_eq_zero h, if_true, Option.map_id']

section
variable {s : State} {r : PdoneReq} (harg : s.arg = .pdone r) (htold : r.told = false)
include harg htold

theorem pdoneApply_absent (hview : s.pdoneView s.cur r.lane = none) :
    exec .pdoneApply s = .next (s.takeTrap s.cur .protection (r.info FzRow.zero) r.pos) := by
  rw [exec_pdoneApply_eq, execPdoneApply, harg]
  simp only [htold, hview, Bool.false_eq_true, if_false]

section
variable {p : Port} (hview : s.pdoneView s.cur r.lane = some p)
include hview

theorem pdoneApply_strange (h : p.carries = false ∨ p.ring ≠ r.formed) : exec .pdoneApply s =
    .next (s.takeTrap s.cur .protection (r.info (p.rows.toArray.getD r.row FzRow.zero)) r.pos) := by
  have hcond : (!p.carries) = true ∨ p.ring ≠ r.formed := by simpa using h
  rw [exec_pdoneApply_eq, execPdoneApply, harg]
  simp only [htold, hview, Bool.false_eq_true, if_false, if_pos hcond]

variable (hcarries : p.carries = true) (hring : p.ring = r.formed)
include hcarries hring

theorem pdoneApply_refuses (hrow : r.apply (p.rows.toArray.getD r.row FzRow.zero) = none) : exec .pdoneApply s =
    .next (s.takeTrap s.cur (if r.op = .adv ∧ (p.rows.toArray.getD r.row FzRow.zero).state = 2 then .panelMiss else .protection)
      (r.info (p.rows.toArray.getD r.row FzRow.zero)) r.pos) := by
  rw [exec_pdoneApply_eq, execPdoneApply, harg]
  simp only [htold, hview, hrow, hcarries, hring, Bool.false_eq_true, if_false, Bool.not_true, ne_eq, not_true_eq_false, or_self]

theorem pdoneApply_puts {v : FzRow} (hrow : r.apply (p.rows.toArray.getD r.row FzRow.zero) = some v) :
    exec .pdoneApply s = .next (s.putRow p r v) := by
  rw [exec_pdoneApply_eq, execPdoneApply, harg]
  simp only [htold, hview, hrow, hcarries, hring, Bool.false_eq_true, if_false, Bool.not_true, ne_eq, not_true_eq_false, or_self]

end
end

/-- Without a hold the port takes the row at once, and its other rows and its map stay. -/
theorem State.putRow_puts {s : State} {p : Port} {r : PdoneReq} (hholds : s.holds = []) (hport : p ∈ s.ports) (hrow : r.row < 64) (v : FzRow) :
    (s.putRow p r v).mem = s.mem ∧ (s.putRow p r v).cores = s.cores ∧ (s.putRow p r v).rings = s.rings ∧
    ∃ q ∈ (s.putRow p r v).ports, q.die = p.die ∧ q.lane = p.lane ∧ q.map = p.map ∧ q.rows.toArray.getD r.row FzRow.zero = v ∧
      ∀ i : Fin 64, i.val ≠ r.row → q.rows[i] = p.rows[i] := by
  have hput : s.putRow p r v = s.modPort p.die p.lane fun q => { q with rows := q.rows.set! r.row v } := by
    rw [State.putRow]
    simp only [State.fzSkew_eq_zero hholds, lt_irrefl, if_false, false_and]
    congr 1
    funext q
    split <;> rfl
  rw [hput]
  refine ⟨rfl, rfl, rfl, _, State.mem_ports_modPort.mpr ⟨p, hport, if_pos ⟨rfl, rfl⟩⟩, rfl, rfl, rfl, ?_, fun i hi => ?_⟩
  · simp [Vector.set!_eq_setIfInBounds, hrow]
  · exact Vector.getElem_set!_ne i.isLt hi.symm

/-! ### The loss of a die (R353) -/

/-- A fatal end leaves no task where there was none, and none on its own core. -/
theorem State.task_fatalEnd_of_none {s : State} {c : CoreId} (h : (s.core c).task = none) (d : CoreId) (code : Nat) :
    ((s.fatalEnd d code).core c).task = none := by
  cases htask : (s.core d).task with
  | none => simpa only [State.fatalEnd, htask] using h
  | some k =>
    by_cases hd : c = d
    · subst hd
      exact State.task_fatalEnd code htask
    · simp only [State.fatalEnd, htask, State.core_withFaultq]
      rw [State.core_freeCore_other hd]
      exact h

theorem State.task_fatalEnd_self (s : State) (c : CoreId) (code : Nat) : ((s.fatalEnd c code).core c).task = none := by
  cases htask : (s.core c).task with
  | none => exact State.task_fatalEnd_of_none htask c code
  | some k => exact State.task_fatalEnd code htask

/-- Fatal ends of some cores leave no task on these, nor where there was none. -/
theorem State.task_foldl_fatalEnd {s : State} {cs : List CoreId} {code : Nat} {c : CoreId} (h : (s.core c).task = none ∨ c ∈ cs) :
    ((cs.foldl (fun (t : State) d => t.fatalEnd d code) s).core c).task = none := by
  induction cs generalizing s with
  | nil => exact h.resolve_right List.not_mem_nil
  | cons d cs ih =>
    refine ih ?_
    obtain h | h := h
    · exact .inl (State.task_fatalEnd_of_none h d code)
    · obtain rfl | h := List.mem_cons.mp h
      · exact .inl (s.task_fatalEnd_self c code)
      · exact .inr h

@[simp] theorem State.domain_fatalEnd (s : State) (c : CoreId) (code : Nat) : (s.fatalEnd c code).domain = s.domain := by
  rw [State.fatalEnd]
  split <;> rfl

/-- The holds that a die's end begins keep what no hold changes. -/
theorem State.endDie_eq (s : State) (die : Nat) : ∃ cs : List CoreId, (∀ e ∈ s.cores, e.1.die = die → (s.core e.1).task = none ∨ e.1 ∈ cs) ∧
    ∀ {γ : Type} (f : State → γ), (∀ t o d ev arg, f (State.scheduleDom t o d ev arg) = f t) →
      (∀ (t : State) n hs, f { t with seq := n, holds := hs } = f t) →
        f (s.endDie die) = f (cs.foldl (fun (t : State) c => t.fatalEnd c s.openCause) s) := by
  refine ⟨(s.cores.filter fun e => e.1.die == die && e.2.task.isSome).map (·.1), fun e he hdie => ?_, fun f hsched hhold => ?_⟩
  · cases htask : (s.core e.1).task with
    | none => exact .inl rfl
    | some k =>
      refine .inr (List.mem_map.mpr ?_)
      obtain ⟨e', he'⟩ := Option.isSome_iff_exists.mp (List.find?_isSome.mpr ⟨e, he, beq_self_eq_true e.1⟩ :
        (s.cores.find? fun d => d.1 == e.1).isSome = true)
      have hkey : e'.1 = e.1 := beq_iff_eq.mp (List.find?_some (p := fun d : CoreId × Core => d.1 == e.1) he')
      rw [State.core, he'] at htask
      exact ⟨e', List.mem_filter.mpr ⟨List.mem_of_find?_eq_some he', by simp [hkey, hdie, htask]⟩, hkey⟩
  · refine foldl_keeps f _ (fun t g => ?_) _ _
    dsimp only
    split
    · rfl
    · exact (t.startHold_keeps f hsched ..).choose_spec.trans (hhold ..)

/-- The die is without power. -/
def State.powerOff (s : State) (die : Nat) : State := { s with domain := { s.domain with off := setInsert s.domain.off die } }

theorem State.off_powerOff (s : State) (die : Nat) : (s.powerOff die).domain.off = setInsert s.domain.off die := rfl

/-- A die that fails is off, and no task is left on its cores (log entry 62). -/
theorem State.failDie_ends (s : State) (die : Nat) : (s.failDie die).mem = s.mem ∧ (s.failDie die).domain.off = setInsert s.domain.off die ∧
    ∀ e ∈ s.cores, e.1.die = die → ((s.failDie die).core e.1).task = none := by
  obtain ⟨cs, hcs, hkeeps⟩ := (s.powerOff die).endDie_eq die
  have hdrop : ∀ {γ : Type} (f : State → γ) (t : State), (∀ js l sc q, f { t with jobs := js, agenda := l, sched := sc, faultq := q } = f t) →
      (∀ (t : State) js l, f { t with jobs := js, agenda := l } = f t) → f (t.dropDie die false) = f t := fun f t hf hreq =>
    ((Requested.matchAll _).keeps f (hreq _)).trans (hf ..)
  refine ⟨?_, ?_, fun e he hdie => ?_⟩
  · refine (hdrop State.mem _ (fun _ _ _ _ => rfl) fun _ _ _ => rfl).trans ((hkeeps State.mem (fun _ _ _ _ _ => rfl) fun _ _ _ => rfl).trans ?_)
    exact foldl_keeps State.mem _ (fun _ _ => State.mem_fatalEnd ..) _ _
  · have hdomain : (s.failDie die).domain = (s.powerOff die).domain :=
      (hdrop State.domain _ (fun _ _ _ _ => rfl) fun _ _ _ => rfl).trans ((hkeeps State.domain (fun _ _ _ _ _ => rfl) fun _ _ _ => rfl).trans
        (foldl_keeps State.domain _ (fun _ _ => State.domain_fatalEnd ..) _ _))
    rw [hdomain, State.off_powerOff]
  · have hcore : (s.failDie die).core e.1 = _ := (hdrop (fun t => t.core e.1) _ (fun _ _ _ _ => rfl) fun _ _ _ => rfl).trans
      (hkeeps (fun t => t.core e.1) (fun _ _ _ _ _ => rfl) fun _ _ _ => rfl)
    rw [hcore]
    exact State.task_foldl_fatalEnd (hcs e he hdie)

theorem dieLoss_fails {s : State} {h : Nat} (harg : s.arg = .ids 0 h) (hon : s.cur.die ∉ s.domain.off) :
    ∃ u, exec .dieLoss s = .next u ∧ u.mem = s.mem ∧ s.cur.die ∈ u.domain.off ∧
      ∀ e ∈ s.cores, e.1.die = s.cur.die → (u.core e.1).task = none := by
  rw [exec_dieLoss_eq, execDieLoss, harg]
  have hcond : ¬ s.domain.off.contains s.cur.die = true := by simpa using hon
  simp only [if_neg hcond]
  generalize hs1 : (s.ringsOf s.cur.die).foldl _ s = s1
  have hkeeps : ∀ {γ : Type} (f : State → γ), (∀ t o d ev arg, f (State.scheduleDom t o d ev arg) = f t) → (∀ t, f (State.tick t) = f t) →
      (∀ (t : State) n hs, f { t with seq := n, holds := hs } = f t) → f s1 = f s := fun f hsched htick hhold => by
    rw [← hs1]
    exact foldl_keeps f _ (fun t e => (htick _).trans ((hsched ..).trans ((t.startHold_keeps f hsched ..).choose_spec.trans (hhold ..)))) _ s
  have hmem : s1.mem = s.mem := hkeeps State.mem (fun _ _ _ _ _ => rfl) (fun _ => rfl) fun _ _ _ => rfl
  have hcores : s1.cores = s.cores := hkeeps State.cores (fun _ _ _ _ _ => rfl) (fun _ => rfl) fun _ _ _ => rfl
  obtain ⟨hfail, hoff, htask⟩ := s1.failDie_ends s.cur.die
  exact ⟨_, rfl, hfail.trans hmem, hoff ▸ mem_setInsert_self _ _, fun e he => htask e (hcores ▸ he)⟩

/-! ### The bypass and the cut (R353, R354, R356) -/

/-- The failed port is gone. -/
def State.Without (t : State) (p : Port) : Prop := ∀ q ∈ t.ports, q.die ≠ p.die ∨ q.lane ≠ p.lane

theorem State.without_filter {s t : State} {p : Port} (h : t.ports = s.ports.filter fun q => q.die != p.die || q.lane != p.lane) : t.Without p :=
  fun q hq => by
    rw [h] at hq
    simpa using (List.mem_filter.mp hq).2

/-- A change of ports that leaves each its die and lane brings none back. -/
theorem State.Without.map {s t : State} {p : Port} {f : Port → Port} (h : s.Without p) (hports : t.ports = s.ports.map f)
    (hf : ∀ q, (f q).die = q.die ∧ (f q).lane = q.lane) : t.Without p := fun q hq => by
  rw [hports] at hq
  obtain ⟨r, hr, rfl⟩ := List.mem_map.mp hq
  rw [(hf r).1, (hf r).2]
  exact h r hr

/-- What breaking a ring does to one port (R356). -/
def Ring.breaks (g : Ring) (q : Port) : Port :=
  if q.ring = g.id then { q with state := 4, accs := q.accs.map fun a => if a.panel.isSome then a else { a with ready := none } } else q

theorem State.ports_breakRing (s : State) (g : Ring) : (s.breakRing g).ports = s.ports.map g.breaks := rfl

theorem Ring.breaks_fields (g : Ring) (q : Port) : (g.breaks q).die = q.die ∧ (g.breaks q).lane = q.lane ∧ (g.breaks q).ring = q.ring ∧
    (g.breaks q).repair = q.repair ∧ (q.ring = g.id → (g.breaks q).state = 4) := by
  unfold Ring.breaks
  split
  · exact ⟨rfl, rfl, rfl, rfl, fun _ => rfl⟩
  · next h => exact ⟨rfl, rfl, rfl, rfl, fun hq => absurd hq h⟩

/-- A cut ring: its record stays but for what is on its way, the failed port is gone, and the others are broken (log entry 119). -/
theorem State.cutRing_cuts {s : State} {g : Ring} (hring : s.ring? g.id = some g) (p : Port) :
    (∃ k, (s.cutRing g p).ring? g.id = some k ∧ k.lost = g.lost ∧ k.repair = g.repair ∧ k.dies = g.dies) ∧
    (s.cutRing g p).Without p ∧ ∀ q ∈ (s.cutRing g p).ports, q.ring = g.id → q.state = 4 := by
  have hports : (s.cutRing g p).ports = (s.ports.filter fun q => q.die != p.die || q.lane != p.lane).map g.breaks := rfl
  have hrings : (s.cutRing g p).ring? g.id = (s.modRing g.id fun h => { h with beats := [], holes := [] }).ring? g.id := rfl
  refine ⟨⟨{ g with beats := [], holes := [] }, ?_, rfl, rfl, rfl⟩, ?_, fun q hq hid => ?_⟩
  · rw [hrings, State.ring?_modRing, hring, Option.map_some, if_pos rfl]
    exact fun _ => rfl
  · exact State.Without.map (s := { s with ports := s.ports.filter fun q => q.die != p.die || q.lane != p.lane })
      (State.without_filter rfl) hports fun q => ⟨(g.breaks_fields q).1, (g.breaks_fields q).2.1⟩
  · rw [hports] at hq
    obtain ⟨r, -, rfl⟩ := List.mem_map.mp hq
    obtain ⟨-, -, hr, -, hstate⟩ := g.breaks_fields r
    exact hstate (hr.symm.trans hid)

/-- Round a failed die: its rank is lost and a repair begins, its port is gone, the ring's ports are in repair or broken, and the port
downstream is the repair's (R353, R354). -/
structure State.Bypassed (t : State) (g : Ring) (p : Port) (r : Nat) : Prop where
  ring : ∃ k, t.ring? g.id = some k ∧ p.rank ∈ k.lost ∧ k.dies = g.dies ∧ k.repair.isSome = true
  gone : t.Without p
  state : ∀ q ∈ t.ports, q.ring = g.id → q.state = 3 ∨ q.state = 4
  repair : ∀ q ∈ t.ports, q.die = g.dieOf r → q.lane = g.lane → q.repair = true

/-- A ring that is broken at once is bypassed all the same. -/
theorem State.Bypassed.breakRing {t : State} {g : Ring} {p : Port} {r : Nat} (h : t.Bypassed g p r) : (t.breakRing g).Bypassed g p r where
  ring := h.ring
  gone := h.gone.map (State.ports_breakRing t g) fun q => ⟨(g.breaks_fields q).1, (g.breaks_fields q).2.1⟩
  state := fun q hq hid => by
    obtain ⟨q', -, rfl⟩ := List.mem_map.mp hq
    obtain ⟨-, -, hr, -, hstate⟩ := g.breaks_fields q'
    exact .inr (hstate (hr.symm.trans hid))
  repair := fun q hq hdie hlane => by
    obtain ⟨q', hq', rfl⟩ := List.mem_map.mp hq
    obtain ⟨hd, hl, -, hr, -⟩ := g.breaks_fields q'
    exact hr.trans (h.repair q' hq' (hd.symm.trans hdie) (hl.symm.trans hlane))

/-- The ports of a bypassed ring: the one downstream takes the repair and its accumulators, and all are in repair. -/
def Ring.repairs (g : Ring) (r : Nat) (accs : List FzAcc) (q : Port) : Port :=
  let q1 := if q.die = g.dieOf r ∧ q.lane = g.lane then { q with repair := true, accs := q.accs ++ accs } else q
  if q1.ring = g.id then { q1 with state := 3 } else q1

theorem Ring.repairs_fields (g : Ring) (r : Nat) (accs : List FzAcc) (q : Port) : (g.repairs r accs q).die = q.die ∧
    (g.repairs r accs q).lane = q.lane ∧ ((g.repairs r accs q).ring = g.id → (g.repairs r accs q).state = 3) ∧
    (q.die = g.dieOf r → q.lane = g.lane → (g.repairs r accs q).repair = true) := by
  unfold Ring.repairs
  extract_lets q1
  have hdie : q1.die = q.die := by dsimp only [q1]; split <;> rfl
  have hlane : q1.lane = q.lane := by dsimp only [q1]; split <;> rfl
  have hrepair : q.die = g.dieOf r → q.lane = g.lane → q1.repair = true := fun hd hl => by dsimp only [q1]; rw [if_pos ⟨hd, hl⟩]
  split
  · exact ⟨hdie, hlane, fun _ => rfl, hrepair⟩
  · next h => exact ⟨hdie, hlane, fun hq => absurd hq h, hrepair⟩

theorem State.bypass_bypasses {s : State} {g : Ring} {p : Port} {r m : Nat} (hring : s.ring? g.id = some g)
    (hnext : g.nextFrom p.rank = some (r, m)) (hother : r ≠ p.rank) (halone : ∀ i ∈ g.lost, g.dieOf i / 8 ≠ p.die / 8) :
    (s.bypass g p).Bypassed g p r := by
  have hcond : ¬ (g.lost.any fun i => g.dieOf i / 8 == p.die / 8) = true := by simpa using halone
  unfold State.bypass
  simp -zeta only [hnext, if_neg hother, if_neg hcond]
  extract_lets now k d running lost accs others broken late n shift s1 s2 s3 s4 s5
  have hkeeps : ∀ {γ : Type} (f : State → γ), (∀ t e, f (State.schedule t e) = f t) → (∀ t pa bs, f (State.poke t pa bs) = f t) → f s3 = f s1 :=
    fun f hevent hpoke => by
      have hs2 : f s2 = f s1 := foldl_keeps f _ (fun _ _ => hevent ..) late s1
      dsimp only [s3]
      split
      · exact (foldl_keeps f _ (fun t _ => t.writePlace_keeps f hpoke ..) _ s2).trans hs2
      · exact hs2
  have hports3 : s3.ports = s1.ports := hkeeps State.ports (fun _ _ => rfl) fun _ _ _ => rfl
  have hrings3 : s3.rings = s1.rings := hkeeps State.rings (fun _ _ => rfl) fun _ _ _ => rfl
  clear_value s3
  have hports : s5.ports = s1.ports.map (g.repairs r accs) := by
    rw [← hports3]
    exact List.map_map ..
  have hs5 : s5.Bypassed g p r := by
    constructor
    · have h1 : s5.ring? g.id = (s.modRing g.id fun h => { h with
          lost := setInsert h.lost p.rank, repair := some k, holes := if running then p.holes g k r n else []
          beats := (h.beats.filter fun b => b.1 != p.rank && (b.1 != r || decide (now + 64 < b.2.1))) ++
            late.map fun b => (r, b.1 + shift, b.2) }).ring? g.id := by
        exact congrArg (List.find? fun h : Ring => h.id == g.id) hrings3
      rw [h1, State.ring?_modRing, hring, Option.map_some, if_pos rfl]
      · exact ⟨_, rfl, mem_setInsert_self _ _, rfl, rfl⟩
      · exact fun _ => rfl
    · exact State.Without.map (s := s1) (State.without_filter rfl) hports fun q => ⟨(g.repairs_fields r accs q).1, (g.repairs_fields r accs q).2.1⟩
    · intro q hq hid
      rw [hports] at hq
      obtain ⟨q', -, rfl⟩ := List.mem_map.mp hq
      exact .inl ((g.repairs_fields r accs q').2.2.1 hid)
    · intro q hq hdie hlane
      rw [hports] at hq
      obtain ⟨q', -, rfl⟩ := List.mem_map.mp hq
      obtain ⟨hd, hl, -, hrepair⟩ := g.repairs_fields r accs q'
      exact hrepair (hd.symm.trans hdie) (hl.symm.trans hlane)
  split
  · exact hs5.breakRing
  · exact hs5

theorem State.bypass_cut {s : State} {g : Ring} {p : Port} {r m : Nat} (hnext : g.nextFrom p.rank = some (r, m)) (hother : r ≠ p.rank)
    (htwice : ∃ i ∈ g.lost, g.dieOf i / 8 = p.die / 8) : s.bypass g p = s.cutRing g p := by
  have hcond : (g.lost.any fun i => g.dieOf i / 8 == p.die / 8) = true := by simpa using htwice
  unfold State.bypass
  simp -zeta only [hnext, if_neg hother, if_pos hcond]

/-- The firmware sets up the bypass, and the hold is then released. -/
theorem dieLoss_bypasses {s : State} {n h : Nat} (harg : s.arg = .ids n h) (hn : n ≠ 0) : exec .dieLoss s =
    .next ((match (s.ringsOf s.cur.die).find? fun e : Ring × Port => e.1.id == n - 1 with
      | some (g, p) => s.bypass g p
      | none => s).scheduleDom s.cur 0 .releaseStart (.ids h 0)) := by
  obtain ⟨m, rfl⟩ := Nat.exists_eq_succ_of_ne_zero hn
  rw [exec_dieLoss_eq, execDieLoss, harg]
  rw [Nat.succ_eq_add_one, Nat.add_sub_cancel]
  cases hfind : (s.ringsOf s.cur.die).find? fun e => e.1.id == m <;> simp only [hfind]

/-! ### The obligation -/

/-- The port at a running ring's boundary: it shows what a build of the port with its tags switched makes of the rows. -/
theorem Port.passed_running (p : Port) {g : Ring} (t : Nat) (hcarries : p.carries = true) (hholes : g.holes = []) :
    ∃ r : Port, (r.rows = p.rows ∧ r.parked = p.parked ∧ r.leftOut = p.leftOut) ∧
      ((p.passed g t).cur = r.cur ∧ (p.passed g t).ret = r.ret ∧ (p.passed g t).rows = r.build.rows ∧ (p.passed g t).built = r.build.built ∧
        (p.passed g t).parked = r.build.parked ∧ (p.passed g t).leftOut = r.build.leftOut) ∧ (p.passed g t).map = p.map ∧
      (p.passed g t).header (g.placeOf ((t / 2048 : Nat) : Int)) = (p.count g (t / 2048)).header (g.placeOf ((t / 2048 : Nat) : Int)) := by
  have hbuild := p.atBoundary_builds g (t / 2048) hcarries hholes
  have hpassed : ∀ {γ : Type} (f : Port → γ), (∀ (q : Port) w, f { q with was := w } = f q) →
      f (p.passed g t) = f ((p.count g (t / 2048)).switch g (t / 2048)).build := fun f hf => (hf ..).trans (congrArg f hbuild)
  refine ⟨(p.count g (t / 2048)).switch g (t / 2048), ⟨?_, ?_, ?_⟩, ⟨?_, ?_, ?_, ?_, ?_, ?_⟩, ?_, ?_⟩
  · exact p.count_keeps g _ Port.rows fun _ _ => rfl
  · exact p.count_keeps g _ Port.parked fun _ _ => rfl
  · exact p.count_keeps g _ Port.leftOut fun _ _ => rfl
  · exact (hpassed Port.cur fun _ _ => rfl).trans (Port.build_keeps _ Port.cur fun _ _ _ _ _ => rfl)
  · exact (hpassed Port.ret fun _ _ => rfl).trans (Port.build_keeps _ Port.ret fun _ _ _ _ _ => rfl)
  · exact hpassed Port.rows fun _ _ => rfl
  · exact hpassed Port.built fun _ _ => rfl
  · exact hpassed Port.parked fun _ _ => rfl
  · exact hpassed Port.leftOut fun _ _ => rfl
  · exact (hpassed Port.map fun _ _ => rfl).trans ((Port.build_keeps _ Port.map fun _ _ _ _ _ => rfl).trans
      (p.count_keeps g _ Port.map fun _ _ => rfl))
  · exact (hpassed (Port.header · _) fun _ _ => rfl).trans (Port.build_keeps _ (Port.header · _) fun _ _ _ _ _ => rfl)

/-- A beat is sent; where it passes lost dies, the reserve takes it as well (R354). -/
theorem panelBeatSend_sends {s : State} {g : Ring} {t r m : Nat} {p : Port} (harg : s.laneArg = some (g, t)) (hport : s.actingPort g = some p)
    (hnext : g.nextFrom p.rank = some (r, m)) : ∃ u, exec .panelBeatSend s = .next u ∧ u.cores = (s.beatSent g p t r m).cores ∧
      (m = 0 → u.mem = (s.beatSent g p t r m).mem) ∧ u.rings = (s.beatSent g p t r m).rings ∧ u.agenda = (s.beatSent g p t r m).agenda := by
  refine ⟨_, panelBeatSend_eq harg hport hnext, ?_⟩
  split
  · exact ⟨rfl, fun _ => rfl, rfl, rfl⟩
  · next h => exact ⟨State.cores_writePlace .., fun hm => absurd (.inl hm) h, State.rings_writePlace .., State.agenda_writePlace ..⟩

/-- A beat lands: its header with beat 0, and, unless it is a hole's, its bytes. -/
theorem panelBeatLand_lands {s : State} {g : Ring} {t b : Nat} {p : Port} {bs : List Byte} (hwf : s.mem.wf = true)
    (harg : s.laneArg = some (g, t)) (hport : s.actingPort g = some p)
    (hbeat : g.beats.find? (fun b => b.1 == p.rank && b.2.1 == t) = some (b, t, bs)) (haccs : p.accs = [])
    (hstill : ∀ i < 96, ∀ pa ∈ pasFrom (s.placePa p.die g.lane (g.placeOf (t / 2048 + 1)) i (32 * (t % 2048))) 32, s.inMotion pa = false) :
    let head := if t % 2048 = 0 then bs.take 256 else p.header (g.placeOf (t / 2048 + 1))
    let body := if t % 2048 = 0 then bs.drop 256 else bs
    ∃ u, exec .panelBeatLand s = .next u ∧ u.cores = s.cores ∧ (tagKind (headTag head) = 4 → u.mem = s.mem) ∧
      (tagKind (headTag head) ≠ 4 → body.length = 3072 → ∀ i k, i < 96 → k < 32 →
        u.mem.get (s.placePa p.die g.lane (g.placeOf (t / 2048 + 1)) i (32 * (t % 2048)) + k) = body[32 * i + k]!) ∧
      u.ports = (s.headLanded g p t head).ports := by
  intro head body
  obtain ⟨hmem, hcores, hmotion, hplace⟩ := s.headLanded_keeps g p t head
  refine ⟨_, panelBeatLand_eq harg hport hbeat haccs, ?_⟩
  by_cases hhole : tagKind (headTag head) = 4
  · rw [if_pos hhole]
    exact ⟨hcores, fun _ => hmem, fun h => absurd hhole h, rfl⟩
  · rw [if_neg hhole]
    refine ⟨(State.cores_writePlace ..).trans hcores, fun h => absurd h hhole, fun _ hlen i k hi hk => ?_, State.ports_writePlace ..⟩
    rw [← hplace]
    refine State.get_writePlace (hmem ▸ hwf) hlen hi hk fun pa hpa => ?_
    rw [hplace] at hpa
    exact (hmotion pa).trans (hstill i hi pa hpa)

/-- Settles O51: the table of R347 by the build's fold over the rows; a boundary, a beat sent and a beat landed by what each changes of the
port, the ring's record and memory; PDONE by the pairing of its operation with its row; the loss of a die by its tasks' ends and by the
bypass or the cut. -/
theorem friezeStepsPerform : Obligations.FriezeStepsPerform := by
  unfold Obligations.FriezeStepsPerform
  refine ⟨fun s g t harg => ⟨frieze_absent harg, fun p hport => ⟨?_, ?_, ?_, ?_⟩⟩, ?_, ?_⟩
  · obtain ⟨-, -, -, -, -, hlo⟩ := State.actingPort_eq_some hport
    refine ⟨_, slotBoundary_eq harg hport, ?_, ?_, fun hhi => State.boundary_running hlo hhi g t, s.othersStay_boundary g p t,
      fun q hq hmine => ?_⟩
    · exact ⟨_, List.mem_append_left _ (List.mem_append_right _ List.mem_cons_self), rfl, rfl, rfl, rfl⟩
    · exact ⟨_, List.mem_append_right _ List.mem_cons_self, rfl, rfl, rfl, rfl⟩
    · obtain ⟨r, hr⟩ := State.eq_of_mem_ports_boundary hq hmine
      obtain ⟨hcur, hret, htag, hlast⟩ : Port.Shows g (t / 2048) q := hr ▸ Port.shows_passed g t r
      refine ⟨hcur, hret, htag, hlast, fun hhi hholes hone => ?_⟩
      obtain rfl := State.eq_of_mem_ports_boundary_running hq hmine hlo hhi hone
      have hcount := Port.headTag_count { p with state := 2 } g (t / 2048)
      obtain ⟨r, ⟨hrows, hparked, hleft⟩, ⟨hc, hr, hq1, hq2, hq3, hq4⟩, hmap, hheader⟩ :=
        Port.passed_running { p with state := 2 } t rfl hholes
      obtain ⟨hnext, hbuilt, hpark, hleftOut⟩ := r.build_table
      simp only [hrows, hparked, hleft, ← hc, ← hr, ← hq1, ← hq2, ← hq3, ← hq4, prowWord_eq] at hnext hbuilt hpark hleftOut
      rw [hcur, hheader]
      exact ⟨hcount.1, hcount.2, hnext, hbuilt, hpark, hleftOut, hmap⟩
  · refine ⟨_, mapPublish_eq harg hport, rfl, rfl, fun q hq hmine => ?_, fun q hq hother => State.mem_ports_modPort_of_other hq hother⟩
    obtain ⟨r, -, -, rfl⟩ := State.eq_of_mem_ports_modPort hq hmine
    exact r.published_spec t
  · intro r m hnext
    obtain ⟨hmem, hcores, hring, hland, hsend⟩ := State.beatSent_adds (State.ring_of_laneArg harg) p t r m
    obtain ⟨u, hexec, hucores, humem, hurings, huagenda⟩ := panelBeatSend_sends harg hport hnext
    refine ⟨u, { g with beats := g.beats ++ [(r, t + 64 + 2048 * g.q * m, s.oldestBeat g p (t + 64))] }, s.oldestBeat g p (t + 64), hexec,
      fun hsoft => hucores.trans (hcores hsoft), fun hm => (humem hm).trans hmem, ?_, rfl, fun hclean => ?_, ?_, ?_⟩
    · exact (congrArg (List.find? fun h : Ring => h.id == g.id) hurings).trans hring
    · rw [Int.natCast_ediv] at hclean ⊢
      exact State.oldestBeat_clean hclean
    · exact huagenda ▸ hland
    · exact huagenda ▸ hsend
  · intro b bs hok hbeat haccs hstill
    rw [Int.natCast_ediv] at hstill ⊢
    obtain ⟨u, hexec, hcores, hhole, hbytes, hports⟩ := panelBeatLand_lands hok.mem harg hport hbeat haccs hstill
    refine ⟨u, hexec, hcores, hhole, hbytes, fun hfirst => ?_⟩
    obtain ⟨-, hin, -, hlane, -, -⟩ := State.actingPort_eq_some hport
    rw [hports, State.headLanded, if_pos hfirst]
    exact ⟨_, State.mem_ports_modPort.mpr ⟨p, hin, if_pos ⟨rfl, hlane⟩⟩, ⟨rfl, rfl⟩, Port.header_putHeader .., rfl⟩
  · intro s r harg htold hrow
    have hinfo : ∀ cause row, (.next (s.takeTrap s.cur cause (r.info row) r.pos) : Out) = .next (s.takeTrap s.cur cause
        (BitVec.ofNat 64 (r.row + (match r.lane with | .e => 0 | .w => 2 ^ 6) + 2 ^ 8 * (row.state % 4) + 2 ^ 16 * (row.n % 2 ^ 16) +
          2 ^ 32 * r.n.toNat)) r.pos) := fun cause row => by rw [PdoneReq.info_eq hrow]
    refine ⟨fun hholds => State.pdoneView_of_no_hold hholds .., fun hport => ?_, fun p hview => ⟨fun h => ?_, fun hcarries hring => ?_⟩⟩
    · exact (pdoneApply_absent harg htold (by rw [State.pdoneView, hport]; rfl)).trans (hinfo _ _)
    · exact (pdoneApply_strange harg htold hview h).trans (hinfo _ _)
    · have htakes : ∀ v, r.apply (p.rows.toArray.getD r.row FzRow.zero) = some v → s.holds = [] → ∃ u, exec .pdoneApply s = .next u ∧
          u.mem = s.mem ∧ u.cores = s.cores ∧ u.rings = s.rings ∧ ∃ q ∈ u.ports, q.die = p.die ∧ q.lane = p.lane ∧ q.map = p.map ∧
            q.rows.toArray.getD r.row FzRow.zero = v ∧ ∀ i : Fin 64, i.val ≠ r.row → q.rows[i] = p.rows[i] := fun v hv hholds => by
        rw [State.pdoneView_of_no_hold hholds] at hview
        exact ⟨_, pdoneApply_puts harg htold (by rw [State.pdoneView_of_no_hold hholds]; exact hview) hcarries hring hv,
          State.putRow_puts hholds (List.mem_of_find?_eq_some hview) hrow v⟩
      have hfaults : ∀ cause, r.apply (p.rows.toArray.getD r.row FzRow.zero) = none →
          (if r.op = .adv ∧ (p.rows.toArray.getD r.row FzRow.zero).state = 2 then Cause.panelMiss else .protection) = cause →
          exec .pdoneApply s = .next (s.takeTrap s.cur cause (r.info (p.rows.toArray.getD r.row FzRow.zero)) r.pos) := fun cause hnone hcause =>
        hcause ▸ pdoneApply_refuses harg htold hview hcarries hring hnone
      generalize p.rows.toArray.getD r.row FzRow.zero = row at htakes hfaults ⊢
      split
      · next hop hstate => exact htakes _ (by simp only [PdoneReq.apply, hop, hstate, if_true])
      · next hop hstate => exact (hfaults _ (by simp [PdoneReq.apply, hop, hstate]) (by simp [hop, hstate])).trans (hinfo _ _)
      · next hop hstate => exact htakes _ (by simp only [PdoneReq.apply, hop, hstate, if_true])
      · next hop hstate => exact htakes _ (by simp [PdoneReq.apply, hop, hstate])
      · next hop hstate => exact htakes _ (by simp [PdoneReq.apply, hop, hstate])
      · next hop hstate => exact (hfaults _ (by simp [PdoneReq.apply, hop, hstate]) (by simp [hop, hstate])).trans (hinfo _ _)
      · next hop hstate => exact (hfaults _ (by simp [PdoneReq.apply, hop, hstate]) (by simp [hop, hstate])).trans (hinfo _ _)
      · next hop hstate => exact (hfaults _ (by simp [PdoneReq.apply, hop, hstate]) (by simp [hop, hstate])).trans (hinfo _ _)
      · next hop hstate => exact (hfaults _ (by simp [PdoneReq.apply, hop, hstate]) (by simp [hop, hstate])).trans (hinfo _ _)
      · trivial
  · intro s n h harg
    refine ⟨?_, fun hn => ⟨_, dieLoss_bypasses harg hn, ⟨_, State.mem_agenda_scheduleDom .., rfl, rfl, rfl, rfl⟩, ?_, ?_⟩⟩
    · rintro rfl hon
      exact dieLoss_fails harg hon
    · intro g p r m hfind hnext hother hring htwice
      rw [hfind]
      obtain ⟨hcut, hgone, hstate⟩ := State.cutRing_cuts hring p
      rw [← State.bypass_cut hnext hother htwice] at hcut hgone hstate
      exact ⟨hcut, hgone, hstate⟩
    · intro g p r m hfind hnext hother hring halone
      rw [hfind]
      have hbypassed := State.bypass_bypasses hring hnext hother halone
      exact ⟨hbypassed.ring, hbypassed.gone, hbypassed.state, hbypassed.repair⟩

end Sys2Proof.Machine
end

section
/-! PROOFS. F of a cast request (R290) in a state whose memory is not in canonical form: the statement on the attention and cast requests
does not exclude such a state there. -/

namespace Sys2Proof.Machine

open Sys2Proof

/-- Two bytes whose addresses stand in the wrong order. -/
def unsortedMem : Mem := [(1, 1), (0, 5)]

/-- A byte is set where the ascending order has its place: 0 written there leaves an entry further down the list as it is. -/
theorem get_set_zero_unsortedMem : unsortedMem.wf = false ∧ (unsortedMem.set 0 0).get 0 = 5 := by decide

/-- A CREL at F that is to write 0 to byte 0, its header in the scratchpad of core 0. -/
def zeroWriter : CastJob :=
  { op := .rel, tag := 0, va := 0, handle := 0, blk := [], started := true, waiting := false, overlay := [(0, 0)]
    hdr := some (BitVec.ofNat 64 windowBase), head := [], eng := ⟨0, 0, 0, 0, 0, 0, 0, 0, 0⟩, good := true, toks := 0, img := 0, n := 0
    k := 0, chunk := [], h := 0, parent := 0, best := (0, 0), bucket := 0, probes := 0, free := none, cand := 0, path := [], victim := 0
    status := 0, found := false, deposit := false, image := [], anchors := [], dropped := [], reads := [], pos := ⟨.c, 0, 0⟩ }

def zeroWriterJob : Job := ⟨0, ⟨0, 0⟩, true, .cast zeroWriter⟩

def unsortedState : State := { State.reset with arg := .beat 0 0 true, jobs := [zeroWriterJob], mem := unsortedMem }

theorem castArg_unsortedState : unsortedState.castArg = some (zeroWriterJob, zeroWriter) := rfl

/-- The engine's fields of its header lie behind the first 64 bytes of the scratchpad. -/
theorem castRange_unsortedState :
    unsortedState.castRange zeroWriterJob.owner zeroWriter .r (BitVec.ofNat 64 windowBase + 64) 64 =
      .ok [⟨0, 64, padBase ⟨0, 0⟩ + 64⟩] := by decide +kernel

theorem not_mem_zeroWriter_header : 0 ∉ pasFrom (padBase ⟨0, 0⟩ + 64) 64 := by
  rw [pasFrom, padBase, List.mem_map]
  rintro ⟨i, -, hi⟩
  omega

/-- Behind F byte 0 still holds 5. -/
theorem get_castRequestFinish_unsortedState {t : State} (h : exec .castRequestFinish unsortedState = .next t) : t.mem.get 0 = 5 := by
  have heval : (match exec .castRequestFinish unsortedState with | .next u => u.mem.get 0 | _ => 0) = 5 := by decide +kernel
  rwa [h] at heval

/-- Refutes O49: its clauses on F, as that on the results of an attention request, do not ask that memory be in canonical form, as its
first clause does. In a state whose memory lists its bytes out of order the request's 0 is not what memory gives behind F. -/
theorem not_requestsWriteAtTheirEnd : ¬ Obligations.RequestsWriteAtTheirEnd := by
  unfold Obligations.RequestsWriteAtTheirEnd
  rintro ⟨-, -, -, -, -, -, -, -, hfinish⟩
  obtain ⟨hplain, -⟩ := hfinish unsortedState zeroWriterJob zeroWriter _ _ castArg_unsortedState rfl rfl castRange_unsortedState
  obtain ⟨t, hexec, -, hwritten, -⟩ := hplain ⟨rfl, rfl, rfl⟩ (by rintro hold (hop | hop) <;> exact absurd hop (by simp [zeroWriter]))
  have hzero : t.mem.get 0 = 0 := hwritten 0 0 rfl (by simpa [zeroWriter] using not_mem_zeroWriter_header) rfl
  rw [get_castRequestFinish_unsortedState hexec] at hzero
  exact absurd hzero (by decide)

end Sys2Proof.Machine
end
